-- ==== Sys2Proof/Word.lean ====
section
/-! DEFINITION. The word types of the KZ-9 (R2, R3): a byte, the 16-, 32- and 64-bit words. -/

namespace Sys2Proof

/-- One byte of memory. -/
abbrev Byte := BitVec 8
/-- A plane site, an F16 value, an LQ8 entry. -/
abbrev W16 := BitVec 16
/-- A lane, a scalar register, an FP32 or I32 value. -/
abbrev W32 := BitVec 32
/-- A control-core register, an address as software holds it. -/
abbrev W64 := BitVec 64

end Sys2Proof
end

