-- ==== Sys2Proof/Syntax.lean ====
section
/-! DEFINITION. The syntax of every step of the KZ-9: one constructor of `Instr` per row of spec/opcode_table.json.
Register numbers and field codes are turned into these types by the decoder, once (R54-R75). -/

namespace Sys2Proof

/-! ### Operands of C-words (R54, R55) -/

/-- An integer source position: codes 0-47 and 56-58. -/
inductive SReg where
  | g (n : BitVec 4)
  | w (n : BitVec 5)
  | pcw
  | core
  | cyc
  deriving DecidableEq, Repr, Inhabited

/-- An integer destination position: codes 0-47. -/
inductive DReg where
  | g (n : BitVec 4)
  | w (n : BitVec 5)
  deriving DecidableEq, Repr, Inhabited

/-- A predicate position: codes 48-55. -/
abbrev QReg := BitVec 3

/-- The even register of a pair (R284): `g n` is g(2n), n ≠ 0, and `w n` is w(2n). -/
inductive PReg where
  | g (n : BitVec 3)
  | w (n : BitVec 4)
  deriving DecidableEq, Repr, Inhabited

/-- The scopes a C-word may name (R6, R54): codes 1-5. -/
inductive Scope where
  | rg | die | pkg | dom | sys
  deriving DecidableEq, Repr, Inhabited

/-- The frame code of a call (R57): F = 8, 16, 24. -/
inductive FrameCode where
  | f8 | f16 | f24
  deriving DecidableEq, Repr, Inhabited

/-- Wait mask, scope and the acquire or release bit of a memory form. -/
structure MArgs where
  wait : BitVec 8
  sc : Scope
  ord : Bool
  deriving DecidableEq, Repr, Inhabited

/-- The ord field of an atomic. -/
inductive AOrd where
  | relaxed | acq | rel | ar
  deriving DecidableEq, Repr, Inhabited

/-- Scope, size and ord of an atomic; `sz` is 64 bits when true. -/
structure AArgs where
  sc : Scope
  sz : Bool
  ord : AOrd
  deriving DecidableEq, Repr, Inhabited

/-- The reduction of `copy.red` (R56). -/
inductive RedOp where
  | add | max | min | and | or | xor
  deriving DecidableEq, Repr, Inhabited

/-- The element type of `copy.red` (R56). -/
inductive RedTy where
  | i32 | n32 | i64 | n64 | f32 | f16 | bf16
  deriving DecidableEq, Repr, Inhabited

/-! ### Operands of E-words (R60-R63) -/

/-- A destination (R61): v, s, m, a link (0 n, 1 e, 2 s, 3 w), stage out, discard, or a plane. -/
inductive EDst where
  | v (n : BitVec 5)
  | s (n : BitVec 4)
  | m (n : BitVec 3)
  | link (d : BitVec 2)
  | stage
  | null
  | p (n : BitVec 4)
  deriving DecidableEq, Repr, Inhabited

/-- A source (R62); `none` is a source the word does not read. -/
inductive ESrc where
  | none
  | v (n : BitVec 5)
  | s (n : BitVec 4)
  | k (n : BitVec 6)
  | lit (n : BitVec 6)
  | m (n : BitVec 3)
  | p (n : BitVec 4)
  deriving DecidableEq, Repr, Inhabited

/-- The predicate (R60). -/
inductive EPred where
  | always | m6 | m7 | notM7
  deriving DecidableEq, Repr, Inhabited

/-- The operands of an E-word. -/
structure EArgs where
  dst : EDst
  a : ESrc
  b : ESrc
  c : ESrc
  pred : EPred
  deriving DecidableEq, Repr, Inhabited

/-! ### Operands of S-rows and N-words (R67, R72) -/

/-- The hold field of a row. -/
inductive Hold where
  | off | on | empty | full
  deriving DecidableEq, Repr, Inhabited

/-- What every row carries: hold, stage enable (`le`: tags ≤ t pass, else ≥ t) and issue cycle. -/
structure RowHdr where
  hold : Hold
  le : Bool
  tag : BitVec 4
  cycle : BitVec 24
  deriving DecidableEq, Repr, Inhabited

/-- The fifteen fields of an N-word (R72); LOOP, AGA and AGB are given by their parts. -/
structure NArgs where
  next : BitVec 8
  seq : BitVec 3
  cond : BitVec 4
  loopOp : BitVec 2
  loopN : BitVec 3
  agaReg : BitVec 4
  agaMode : BitVec 4
  agbReg : BitVec 4
  agbMode : BitVec 4
  rd : BitVec 4
  wr : BitVec 4
  alu : BitVec 6
  srcA : BitVec 5
  srcB : BitVec 5
  dst : BitVec 5
  res : BitVec 3
  post : BitVec 4
  imm : BitVec 56
  deriving DecidableEq, Repr, Inhabited

/-! ### What an event of the part carries -/

/-- Who makes a privileged request (R150, R162, R374). -/
inductive Party where
  | host
  | bmc
  | core (n : Nat)
  deriving DecidableEq, Repr, Inhabited

/-- The choices the dispatcher makes for a placement (R17, R147, R239): die, anchor tile, supervising core,
and the replay area of each region. -/
structure PlaceArgs where
  die : Nat
  tx : Nat
  ty : Nat
  sup : Nat
  replay : List Nat
  deriving DecidableEq, Repr, Inhabited

/-- The four cases of a pre-emption request (R172). -/
inductive PreemptWhy where
  | higher | swap | host | change
  deriving DecidableEq, Repr, Inhabited

/-- The configuration record (R379): tile maps, spare tiles, clock limits, alarm policy, signature. -/
structure ConfigRecord where
  sku : Nat
  tiles : List Nat
  spare : List (List (Nat × Nat))   -- per fabric die: the substituted tile 16ty + tx, and the spare that stands in for it
  minfw : Nat
  clk : List Nat                    -- FD0-FD7, then MD0-MD7
  alarmpol : BitVec 4
  sig : List Byte                   -- the signature of the fields above
  deriving DecidableEq, Repr, Inhabited

/-- What a bring-up step finds (R378): whether the check of the step passes, self-test's result, and the numbers
that the host gives the packages of the domain (R376). -/
structure BootArgs where
  ok : Bool
  dies : BitVec 8
  tiles : List Nat
  pkgs : Nat
  own : Nat
  deriving DecidableEq, Repr, Inhabited

/-- A host access over the Ocica link (R374). -/
structure HostArgs where
  write : Bool
  pa : Nat
  size : Nat
  data : List Byte
  deriving DecidableEq, Repr, Inhabited

/-- One constructor per row of spec/opcode_table.json: C-words, S-rows, the N-word, the events of the part, and E-words. -/
inductive Instr where
  -- C-words: arithmetic, compares, predicates (R95-R101)
  | add (rd : DReg) (ra rb : SReg)  -- ADD R95
  | sub (rd : DReg) (ra rb : SReg)  -- SUB R95
  | and (rd : DReg) (ra rb : SReg)  -- AND R95
  | or (rd : DReg) (ra rb : SReg)  -- OR R95
  | xor (rd : DReg) (ra rb : SReg)  -- XOR R95
  | shl (rd : DReg) (ra rb : SReg)  -- SHL R95
  | shr (rd : DReg) (ra rb : SReg)  -- SHR R95
  | sra (rd : DReg) (ra rb : SReg)  -- SRA R95
  | mul (rd : DReg) (ra rb : SReg)  -- MUL R95
  | mulhI64 (rd : DReg) (ra rb : SReg)  -- MULH_I64 R95
  | mulhN64 (rd : DReg) (ra rb : SReg)  -- MULH_N64 R95
  | divI64 (rd : DReg) (ra rb : SReg)  -- DIV_I64 R96
  | divN64 (rd : DReg) (ra rb : SReg)  -- DIV_N64 R96
  | remI64 (rd : DReg) (ra rb : SReg)  -- REM_I64 R96
  | remN64 (rd : DReg) (ra rb : SReg)  -- REM_N64 R96
  | minI64 (rd : DReg) (ra rb : SReg)  -- MIN_I64 R95
  | maxI64 (rd : DReg) (ra rb : SReg)  -- MAX_I64 R95
  | minN64 (rd : DReg) (ra rb : SReg)  -- MIN_N64 R95
  | maxN64 (rd : DReg) (ra rb : SReg)  -- MAX_N64 R95
  | cmpeq (qd : QReg) (ra rb : SReg)  -- CMPEQ R97
  | cmpne (qd : QReg) (ra rb : SReg)  -- CMPNE R97
  | cmplt (qd : QReg) (ra rb : SReg)  -- CMPLT R97
  | cmpge (qd : QReg) (ra rb : SReg)  -- CMPGE R97
  | cmpltN64 (qd : QReg) (ra rb : SReg)  -- CMPLT_N64 R97
  | cmpgeN64 (qd : QReg) (ra rb : SReg)  -- CMPGE_N64 R97
  | clz (rd : DReg) (ra : SReg)  -- CLZ R95
  | ctz (rd : DReg) (ra : SReg)  -- CTZ R95
  | popc (rd : DReg) (ra : SReg)  -- POPC R95
  | andn (rd : DReg) (ra rb : SReg)  -- ANDN R95
  | orn (rd : DReg) (ra rb : SReg)  -- ORN R95
  | sel (rd : DReg) (q : QReg) (ra rb : SReg)  -- SEL R98
  | pand (qd qa qb : QReg)  -- PAND R99
  | por (qd qa qb : QReg)  -- POR R99
  | pxor (qd qa qb : QReg)  -- PXOR R99
  | pnot (qd qa : QReg)  -- PNOT R99
  | addi (rd : DReg) (ra : SReg) (imm : BitVec 12)  -- ADDI R100
  | addiExt (rd : DReg) (ra : SReg) (imm : BitVec 44)  -- ADDI_EXT R100
  | subi (rd : DReg) (ra : SReg) (imm : BitVec 12)  -- SUBI R100
  | subiExt (rd : DReg) (ra : SReg) (imm : BitVec 44)  -- SUBI_EXT R100
  | andi (rd : DReg) (ra : SReg) (imm : BitVec 12)  -- ANDI R100
  | andiExt (rd : DReg) (ra : SReg) (imm : BitVec 44)  -- ANDI_EXT R100
  | ori (rd : DReg) (ra : SReg) (imm : BitVec 12)  -- ORI R100
  | oriExt (rd : DReg) (ra : SReg) (imm : BitVec 44)  -- ORI_EXT R100
  | xori (rd : DReg) (ra : SReg) (imm : BitVec 12)  -- XORI R100
  | xoriExt (rd : DReg) (ra : SReg) (imm : BitVec 44)  -- XORI_EXT R100
  | shli (rd : DReg) (ra : SReg) (n : BitVec 6)  -- SHLI R100
  | shri (rd : DReg) (ra : SReg) (n : BitVec 6)  -- SHRI R100
  | srai (rd : DReg) (ra : SReg) (n : BitVec 6)  -- SRAI R100
  | muli (rd : DReg) (ra : SReg) (imm : BitVec 12)  -- MULI R100
  | muliExt (rd : DReg) (ra : SReg) (imm : BitVec 44)  -- MULI_EXT R100
  | cmpeqi (qd : QReg) (ra : SReg) (imm : BitVec 12)  -- CMPEQI R100
  | cmpeqiExt (qd : QReg) (ra : SReg) (imm : BitVec 44)  -- CMPEQI_EXT R100
  | cmpnei (qd : QReg) (ra : SReg) (imm : BitVec 12)  -- CMPNEI R100
  | cmpneiExt (qd : QReg) (ra : SReg) (imm : BitVec 44)  -- CMPNEI_EXT R100
  | cmplti (qd : QReg) (ra : SReg) (imm : BitVec 12)  -- CMPLTI R100
  | cmpltiExt (qd : QReg) (ra : SReg) (imm : BitVec 44)  -- CMPLTI_EXT R100
  | cmpgei (qd : QReg) (ra : SReg) (imm : BitVec 12)  -- CMPGEI R100
  | cmpgeiExt (qd : QReg) (ra : SReg) (imm : BitVec 44)  -- CMPGEI_EXT R100
  | cmpltiN64 (qd : QReg) (ra : SReg) (imm : BitVec 12)  -- CMPLTI_N64 R100
  | cmpltiN64Ext (qd : QReg) (ra : SReg) (imm : BitVec 44)  -- CMPLTI_N64_EXT R100
  | cmpgeiN64 (qd : QReg) (ra : SReg) (imm : BitVec 12)  -- CMPGEI_N64 R100
  | cmpgeiN64Ext (qd : QReg) (ra : SReg) (imm : BitVec 44)  -- CMPGEI_N64_EXT R100
  -- C-words: branches, calls, returns (R102-R106)
  | br (q : QReg) (off : BitVec 18)  -- BR R102
  | brExt (q : QReg) (off : BitVec 50)  -- BR_EXT R102
  | brn (q : QReg) (off : BitVec 18)  -- BRN R102
  | brnExt (q : QReg) (off : BitVec 50)  -- BRN_EXT R102
  | jmp (off : BitVec 18)  -- JMP R102
  | jmpExt (off : BitVec 50)  -- JMP_EXT R102
  | call (fc : FrameCode) (off : BitVec 18)  -- CALL R104
  | callExt (fc : FrameCode) (off : BitVec 50)  -- CALL_EXT R104
  | jmpr (ra : SReg)  -- JMPR R105
  | callr (fc : FrameCode) (ra : SReg)  -- CALLR R105
  | ret  -- RET R82
  -- C-words: loads and stores (R282-R284)
  | ldI8 (rd : DReg) (ra : SReg) (m : MArgs)  -- LD_I8 R282
  | ldI8Ext (rd : DReg) (ra : SReg) (m : MArgs) (off : BitVec 32)  -- LD_I8_EXT R282
  | ldI16 (rd : DReg) (ra : SReg) (m : MArgs)  -- LD_I16 R282
  | ldI16Ext (rd : DReg) (ra : SReg) (m : MArgs) (off : BitVec 32)  -- LD_I16_EXT R282
  | ldI32 (rd : DReg) (ra : SReg) (m : MArgs)  -- LD_I32 R282
  | ldI32Ext (rd : DReg) (ra : SReg) (m : MArgs) (off : BitVec 32)  -- LD_I32_EXT R282
  | ldI64 (rd : DReg) (ra : SReg) (m : MArgs)  -- LD_I64 R282
  | ldI64Ext (rd : DReg) (ra : SReg) (m : MArgs) (off : BitVec 32)  -- LD_I64_EXT R282
  | ldN8 (rd : DReg) (ra : SReg) (m : MArgs)  -- LD_N8 R282
  | ldN8Ext (rd : DReg) (ra : SReg) (m : MArgs) (off : BitVec 32)  -- LD_N8_EXT R282
  | ldN16 (rd : DReg) (ra : SReg) (m : MArgs)  -- LD_N16 R282
  | ldN16Ext (rd : DReg) (ra : SReg) (m : MArgs) (off : BitVec 32)  -- LD_N16_EXT R282
  | ldN32 (rd : DReg) (ra : SReg) (m : MArgs)  -- LD_N32 R282
  | ldN32Ext (rd : DReg) (ra : SReg) (m : MArgs) (off : BitVec 32)  -- LD_N32_EXT R282
  | ldN64 (rd : DReg) (ra : SReg) (m : MArgs)  -- LD_N64 R282
  | ldN64Ext (rd : DReg) (ra : SReg) (m : MArgs) (off : BitVec 32)  -- LD_N64_EXT R282
  | st8 (rs ra : SReg) (m : MArgs)  -- ST_8 R282
  | st8Ext (rs ra : SReg) (m : MArgs) (off : BitVec 32)  -- ST_8_EXT R282
  | st16 (rs ra : SReg) (m : MArgs)  -- ST_16 R282
  | st16Ext (rs ra : SReg) (m : MArgs) (off : BitVec 32)  -- ST_16_EXT R282
  | st32 (rs ra : SReg) (m : MArgs)  -- ST_32 R282
  | st32Ext (rs ra : SReg) (m : MArgs) (off : BitVec 32)  -- ST_32_EXT R282
  | st64 (rs ra : SReg) (m : MArgs)  -- ST_64 R282
  | st64Ext (rs ra : SReg) (m : MArgs) (off : BitVec 32)  -- ST_64_EXT R282
  | ldp (rp : PReg) (ra : SReg) (m : MArgs)  -- LDP R284
  | ldpExt (rp : PReg) (ra : SReg) (m : MArgs) (off : BitVec 32)  -- LDP_EXT R284
  | stp (rp : PReg) (ra : SReg) (m : MArgs)  -- STP R284
  | stpExt (rp : PReg) (ra : SReg) (m : MArgs) (off : BitVec 32)  -- STP_EXT R284
  -- C-words: copies (R288-R290)
  | copy (rd ra rb : SReg) (tok : BitVec 3) (sc : Scope)  -- COPY R288
  | copyExt (rd ra rb : SReg) (tok : BitVec 3) (sc : Scope) (wait : BitVec 8)  -- COPY_EXT R288
  | copyRed (rd ra rb : SReg) (tok : BitVec 3) (sc : Scope) (wait : BitVec 8) (op : RedOp) (ty : RedTy)  -- COPY_RED R290
  -- C-words: atomics (R285-R287)
  | amoadd (rd : DReg) (ra rb : SReg) (a : AArgs)  -- AMOADD R285
  | amoand (rd : DReg) (ra rb : SReg) (a : AArgs)  -- AMOAND R285
  | amoor (rd : DReg) (ra rb : SReg) (a : AArgs)  -- AMOOR R285
  | amoxor (rd : DReg) (ra rb : SReg) (a : AArgs)  -- AMOXOR R285
  | amomaxI (rd : DReg) (ra rb : SReg) (a : AArgs)  -- AMOMAX_I R285
  | amominI (rd : DReg) (ra rb : SReg) (a : AArgs)  -- AMOMIN_I R285
  | amomaxN (rd : DReg) (ra rb : SReg) (a : AArgs)  -- AMOMAX_N R285
  | amominN (rd : DReg) (ra rb : SReg) (a : AArgs)  -- AMOMIN_N R285
  | amoswap (rd : DReg) (ra rb : SReg) (a : AArgs)  -- AMOSWAP R285
  | amocas (rd : DReg) (ra rb : SReg) (a : AArgs)  -- AMOCAS R286
  -- C-words: fences (R291-R293)
  | fence (sc : Scope)  -- FENCE R291
  | fenceAcq (sc : Scope)  -- FENCE_ACQ R291
  | fenceRel (sc : Scope)  -- FENCE_REL R291
  | fencePath (sc : Scope)  -- FENCE_PATH R292
  | fenceWin (sc : Scope)  -- FENCE_WIN R293
  -- C-words: queues, streams, tables, near-memory (R168-R260, R340)
  | launch (ra rb : SReg)  -- LAUNCH R168
  | sbind (ra rb : SReg)  -- SBIND R196
  | sgo (ra : SReg)  -- SGO R197
  | sbar (ra : SReg)  -- SBAR R198
  | qpush (ra rb : SReg)  -- QPUSH R171
  | qpop (rd : DReg) (ra : SReg)  -- QPOP R171
  | qcount (rd : DReg) (ra : SReg)  -- QCOUNT R171
  | ctxload (ra rb : SReg)  -- CTXLOAD R233
  | rtload (ra rb : SReg)  -- RTLOAD R252
  | palload (ra rb : SReg)  -- PALLOAD R254
  | ownload (ra rb : SReg)  -- OWNLOAD R256
  | tload (ra : SReg)  -- TLOAD R260
  | tq (ra : SReg)  -- TQ R260
  | nmload (ra rb : SReg)  -- NMLOAD R258
  | nmcall (ra : SReg)  -- NMCALL R340
  -- C-words: the factor store (R359-R371)
  | fsinit (rd : DReg) (ra rb : SReg)  -- FSINIT R364
  | fsupd (rd : DReg) (ra rb : SReg)  -- FSUPD R365
  | fsddt (rd : DReg) (ra rb : SReg)  -- FSDDT R366
  | fssolve (rd : DReg) (ra : SReg)  -- FSSOLVE R367
  | fsscale (rd : DReg) (ra : SReg)  -- FSSCALE R368
  | fsread (rd : DReg) (ra rb : SReg)  -- FSREAD R370
  | fswrite (rd : DReg) (ra rb : SReg)  -- FSWRITE R370
  | fslogdet (rd : DReg) (ra : SReg)  -- FSLOGDET R369
  -- C-words: phases, block tables, shadow windows, snapshot (R154-R161, R221, R227)
  | phset (ra rb : SReg)  -- PHSET R155
  | phadd (ra rb : SReg)  -- PHADD R155
  | phrd (rd : DReg) (ra : SReg)  -- PHRD R155
  | btalloc (rd : DReg) (ra rb : SReg)  -- BTALLOC R221
  | btfork (rd : DReg) (ra rb : SReg)  -- BTFORK R221
  | btdrop (rd : DReg) (ra : SReg)  -- BTDROP R221
  | btdemote (rd : DReg) (ra rb : SReg)  -- BTDEMOTE R222
  | btpromote (rd : DReg) (ra rb : SReg)  -- BTPROMOTE R222
  | swbind (rd : DReg) (ra rb : SReg)  -- SWBIND R227
  | snap (ra : SReg)  -- SNAP R159
  | snaprd (rd : DReg) (ra : SReg)  -- SNAPRD R161
  -- C-words: system forms (R108-R112, R138, R214)
  | mfsr (rd : DReg) (n : BitVec 12)  -- MFSR R108
  | mtsr (n : BitVec 12) (ra : SReg)  -- MTSR R108
  | trap (n : BitVec 12)  -- TRAP R109
  | treen  -- TREEN R138
  | tret  -- TRET R138
  | waitt (mask : BitVec 8)  -- WAITT R110
  | tlbinvPg (ra rb : SReg)  -- TLBINV_PG R214
  | tlbinvCx (rb : SReg)  -- TLBINV_CX R214
  | tlbinvAll  -- TLBINV_ALL R214
  | idle  -- IDLE R111
  -- S-rows (R68, R175)
  | stepRow (h : RowHdr) (phase : BitVec 5)  -- STEP R175
  | loopRow (h : RowHdr) (ii : BitVec 5) (count : BitVec 19)  -- LOOP R177
  | endl (h : RowHdr) (row : BitVec 12)  -- ENDL R182
  | exitRow (h : RowHdr)  -- EXIT R180
  | epil (h : RowHdr)  -- EPIL R182
  | mpass (h : RowHdr) (acc : BitVec 2) (int clear : Bool) (groups : BitVec 12)  -- MPASS R327
  | form (h : RowHdr) (w : BitVec 4) (ht : BitVec 3)  -- FORM R243
  | reconf (h : RowHdr) (x : BitVec 16)  -- RECONF R244
  | barrier (h : RowHdr) (ports : BitVec 16)  -- BARRIER R184
  | commit (h : RowHdr)  -- COMMIT R144
  | waitq (h : RowHdr) (port : BitVec 4)  -- WAITQ R185
  | endRow (h : RowHdr)  -- END R186
  -- N-word (R72, R344)
  | nWord (w : NArgs)  -- N_WORD R344
  -- Events of a region (R116-R150)
  | wordResultLanding (g : Nat)  -- WORD_RESULT_LANDING R116
  | linkSlotFill (g : Nat)  -- LINK_SLOT_FILL R187
  | iterationAdmission (g : Nat)  -- ITERATION_ADMISSION R177
  | formSettlingEnd (g : Nat)  -- FORM_SETTLING_END R243
  | implicitClose (g : Nat)  -- IMPLICIT_CLOSE R144
  | commitWindowClose (g : Nat)  -- COMMIT_WINDOW_CLOSE R144
  | replayCtrlWrite (g : Nat) (v : W32)  -- REPLAY_CTRL_WRITE R146
  | matrixGroupSnapshot (g t : Nat)  -- MATRIX_GROUP_SNAPSHOT R327
  | matrixGroupLanding (g t : Nat)  -- MATRIX_GROUP_LANDING R327
  | clockGate (g : Nat)  -- CLOCK_GATE R149
  | scanRequest (p : Party) (g : Nat)  -- SCAN_REQUEST R150
  | scanRelease (p : Party) (g : Nat)  -- SCAN_RELEASE R150
  -- Events of a core
  | asyncTrapDelivery (n : Nat)  -- ASYNC_TRAP_DELIVERY R136
  | idleWake (n : Nat)  -- IDLE_WAKE R111
  | copyCompletion (i : Nat)  -- COPY_COMPLETION R152
  -- Events of the dispatcher (R20, R76, R162-R173, R240-R246)
  | coreReset  -- CORE_RESET R76
  | doorbell (p : Party) (q : Nat) (v : W32)  -- DOORBELL R164
  | dispatcherWindowWrite (p : Party) (off : Nat) (size : Nat) (v : W64)  -- DISPATCHER_WINDOW_WRITE R162
  | teardown (p : Party) (c : Nat)  -- TEARDOWN R169
  | queueLevelRaise (q : Nat)  -- QUEUE_LEVEL_RAISE R20
  | recordRejection (q : Nat)  -- RECORD_REJECTION R167
  | recordTake (q : Nat)  -- RECORD_TAKE R167
  | placement (l : Nat) (site : PlaceArgs)  -- PLACEMENT R240
  | resumption (l : Nat) (site : PlaceArgs)  -- RESUMPTION R173
  | tileTaskStart (l : Nat)  -- TILE_TASK_START R240
  | tileTaskBoundary (g : Nat)  -- TILE_TASK_BOUNDARY R172
  | preemptionRequest (why : PreemptWhy) (l : Nat)  -- PREEMPTION_REQUEST R172
  | preemption (l : Nat)  -- PREEMPTION R172
  | inPlaceSwitch (l : Nat)  -- IN_PLACE_SWITCH R245
  | rePlacement (l : Nat)  -- RE_PLACEMENT R246
  -- Events of streams, block tables, ports (R193-R224)
  | streamStart (a : Nat)  -- STREAM_START R197
  | streamElementAccess (a : Nat)  -- STREAM_ELEMENT_ACCESS R199
  | streamCompletion (a : Nat)  -- STREAM_COMPLETION R197
  | copyOnWrite (a : Nat)  -- COPY_ON_WRITE R223
  | demotionCompletion (i : Nat)  -- DEMOTION_COMPLETION R224
  | promotionCompletion (i : Nat)  -- PROMOTION_COMPLETION R224
  | portQueueFill (g port : Nat)  -- PORT_QUEUE_FILL R193
  | portQueuePush (g port : Nat)  -- PORT_QUEUE_PUSH R193
  -- Events of the compositor and near-memory units
  | sampleArrival (src dst : Nat)  -- SAMPLE_ARRIVAL R320
  | blend (t : Nat)  -- BLEND R321
  | commandAcceptance (u : Nat)  -- COMMAND_ACCEPTANCE R341
  | irsum (u : Nat)  -- IRSUM R351
  | irmax (u : Nat)  -- IRMAX R351
  | gather (u : Nat)  -- GATHER R351
  | axpy (u : Nat)  -- AXPY R351
  | imac (u : Nat)  -- IMAC R351
  | relayout (u : Nat)  -- RELAYOUT R351
  | tqCommand (k : Nat)  -- TQ_COMMAND R263
  | tloadCommand (k : Nat)  -- TLOAD_COMMAND R259
  -- Events of the package (R160, R374-R385)
  | snapshotLatch  -- SNAPSHOT_LATCH R160
  | powerOn (r : BootArgs)  -- POWER_ON R378
  | firmwareImageUpdate (version : Nat) (valid : Bool)  -- FIRMWARE_IMAGE_UPDATE R380
  | configurationRecordUpdate (rec : ConfigRecord) (valid : Bool)  -- CONFIGURATION_RECORD_UPDATE R379
  | hostAccess (a : HostArgs)  -- HOST_ACCESS R374
  | securityAlarm (source : BitVec 3)  -- SECURITY_ALARM R382
  | spanLinkLoss (link : Nat)  -- SPAN_LINK_LOSS R376
  | spanUnreachable (pkg : Nat)  -- SPAN_UNREACHABLE R376
  | ethernetMessageCompletion (pa : Nat) (bytes : List Byte)  -- ETHERNET_MESSAGE_COMPLETION R377
  | linkWidthChange (link : Nat) (width : Nat)  -- LINK_WIDTH_CHANGE R384
  | frequencyChange (die : Nat) (freq : Nat)  -- FREQUENCY_CHANGE R384
  | powerCap (watts : Nat)  -- POWER_CAP R385
  | thermalLimit (die : Nat)  -- THERMAL_LIMIT R385
  | spanLinkRetrain (link : Nat)  -- SPAN_LINK_RETRAIN R376
  | powerLoss (flashing : Bool)  -- POWER_LOSS R380
  -- E-words: integer and logical (R121, R122)
  | addI32 (w : EArgs)  -- ADD_I32 R121
  | subI32 (w : EArgs)  -- SUB_I32 R121
  | mulI32 (w : EArgs)  -- MUL_I32 R121
  | mulhI32 (w : EArgs)  -- MULH_I32 R121
  | mulhN32 (w : EArgs)  -- MULH_N32 R121
  | madI32 (w : EArgs)  -- MAD_I32 R121
  | minI32 (w : EArgs)  -- MIN_I32 R121
  | maxI32 (w : EArgs)  -- MAX_I32 R121
  | minN32 (w : EArgs)  -- MIN_N32 R121
  | maxN32 (w : EArgs)  -- MAX_N32 R121
  | absI32 (w : EArgs)  -- ABS_I32 R121
  | addsI32 (w : EArgs)  -- ADDS_I32 R121
  | subsI32 (w : EArgs)  -- SUBS_I32 R121
  | addsN32 (w : EArgs)  -- ADDS_N32 R121
  | subsN32 (w : EArgs)  -- SUBS_N32 R121
  | eAnd (w : EArgs)  -- E_AND R121
  | eOr (w : EArgs)  -- E_OR R121
  | eXor (w : EArgs)  -- E_XOR R121
  | eAndn (w : EArgs)  -- E_ANDN R121
  | eShl (w : EArgs)  -- E_SHL R121
  | eShr (w : EArgs)  -- E_SHR R121
  | eSra (w : EArgs)  -- E_SRA R121
  | rol (w : EArgs)  -- ROL R121
  | ePopc (w : EArgs)  -- E_POPC R121
  | eClz (w : EArgs)  -- E_CLZ R121
  | eCtz (w : EArgs)  -- E_CTZ R121
  | bfx (w : EArgs)  -- BFX R122
  | bfi (w : EArgs)  -- BFI R122
  -- E-words: floating point (R123-R125)
  | addF32 (w : EArgs)  -- ADD_F32 R123
  | subF32 (w : EArgs)  -- SUB_F32 R123
  | mulF32 (w : EArgs)  -- MUL_F32 R123
  | fmaF32 (w : EArgs)  -- FMA_F32 R123
  | fnmaF32 (w : EArgs)  -- FNMA_F32 R123
  | minF32 (w : EArgs)  -- MIN_F32 R124
  | maxF32 (w : EArgs)  -- MAX_F32 R124
  | divF32 (w : EArgs)  -- DIV_F32 R123
  | sqrtF32 (w : EArgs)  -- SQRT_F32 R123
  | absF32 (w : EArgs)  -- ABS_F32 R123
  | negF32 (w : EArgs)  -- NEG_F32 R123
  | addF16 (w : EArgs)  -- ADD_F16 R125
  | mulF16 (w : EArgs)  -- MUL_F16 R125
  | fmaF16 (w : EArgs)  -- FMA_F16 R125
  | fmaBf16 (w : EArgs)  -- FMA_BF16 R125
  -- E-words: conversions (R126-R128)
  | cvtF32I32 (w : EArgs)  -- CVT_F32_I32 R128
  | cvtF32N32 (w : EArgs)  -- CVT_F32_N32 R128
  | cvtI32F32 (w : EArgs)  -- CVT_I32_F32 R128
  | cvtN32F32 (w : EArgs)  -- CVT_N32_F32 R128
  | cvtF16F32 (w : EArgs)  -- CVT_F16_F32 R126
  | cvtF16F32Sat (w : EArgs)  -- CVT_F16_F32_SAT R126
  | cvtBf16F32 (w : EArgs)  -- CVT_BF16_F32 R126
  | cvtBf16F32Sat (w : EArgs)  -- CVT_BF16_F32_SAT R126
  | cvtE4m3F32 (w : EArgs)  -- CVT_E4M3_F32 R126
  | cvtE4m3F32Sat (w : EArgs)  -- CVT_E4M3_F32_SAT R126
  | cvtE5m2F32 (w : EArgs)  -- CVT_E5M2_F32 R126
  | cvtE5m2F32Sat (w : EArgs)  -- CVT_E5M2_F32_SAT R126
  | cvtF32F16 (w : EArgs)  -- CVT_F32_F16 R127
  | cvtF32Bf16 (w : EArgs)  -- CVT_F32_BF16 R127
  | cvtF32E4m3 (w : EArgs)  -- CVT_F32_E4M3 R127
  | cvtF32E5m2 (w : EArgs)  -- CVT_F32_E5M2 R127
  -- E-words: planes (R303-R311)
  | pshift (w : EArgs)  -- PSHIFT R304
  | pld (w : EArgs)  -- PLD R305
  | pst (w : EArgs)  -- PST R306
  | rule (w : EArgs)  -- RULE R307
  | pquiet (w : EArgs)  -- PQUIET R311
  | pbx (w : EArgs)  -- PBX R309
  | pbi (w : EArgs)  -- PBI R309
  | paddI16 (w : EArgs)  -- PADD_I16 R310
  | psubI16 (w : EArgs)  -- PSUB_I16 R310
  | ePand (w : EArgs)  -- E_PAND R310
  | ePor (w : EArgs)  -- E_POR R310
  | ePxor (w : EArgs)  -- E_PXOR R310
  -- E-words: select, compare, masks (R129-R132)
  | eSel (w : EArgs)  -- E_SEL R129
  | cmpeqI32 (w : EArgs)  -- CMPEQ_I32 R130
  | cmpltI32 (w : EArgs)  -- CMPLT_I32 R130
  | cmpleI32 (w : EArgs)  -- CMPLE_I32 R130
  | cmpltN32 (w : EArgs)  -- CMPLT_N32 R130
  | cmpleN32 (w : EArgs)  -- CMPLE_N32 R130
  | cmpeqF32 (w : EArgs)  -- CMPEQ_F32 R130
  | cmpltF32 (w : EArgs)  -- CMPLT_F32 R130
  | cmpleF32 (w : EArgs)  -- CMPLE_F32 R130
  | cmpunF32 (w : EArgs)  -- CMPUN_F32 R130
  | mand (w : EArgs)  -- MAND R131
  | mor (w : EArgs)  -- MOR R131
  | mxor (w : EArgs)  -- MXOR R131
  | mnot (w : EArgs)  -- MNOT R131
  | mlane (w : EArgs)  -- MLANE R131
  | exitf (w : EArgs)  -- EXITF R132
  -- E-words: link and port (R188)
  | lrecv (w : EArgs)  -- LRECV R188
  | stin (w : EArgs)  -- STIN R188
  | lpoll (w : EArgs)  -- LPOLL R188
  -- E-words: scratchpad (R295)
  | sldN32 (w : EArgs)  -- SLD_N32 R295
  | sldN16 (w : EArgs)  -- SLD_N16 R295
  | sldI16 (w : EArgs)  -- SLD_I16 R295
  | sstN32 (w : EArgs)  -- SST_N32 R295
  | sstN16 (w : EArgs)  -- SST_N16 R295
  -- E-words: matrix feed and accumulators (R329-R335)
  | mfa (w : EArgs)  -- MFA R329
  | mfb (w : EArgs)  -- MFB R329
  | mfas (w : EArgs)  -- MFAS R331
  | mfbs (w : EArgs)  -- MFBS R331
  | ard (w : EArgs)  -- ARD R333
  | awr (w : EArgs)  -- AWR R334
  | aclr (w : EArgs)  -- ACLR R335
  -- E-words: rays (R315-R319)
  | rmarch (w : EArgs)  -- RMARCH R316
  | rsamp (w : EArgs)  -- RSAMP R317
  | fragout (w : EArgs)  -- FRAGOUT R319
  | rrecv (w : EArgs)  -- RRECV R318
  -- E-words: special (R133)
  | eNop (w : EArgs)  -- E_NOP R133
  | eMov (w : EArgs)  -- E_MOV R133
  | lane (w : EArgs)  -- LANE R133
  | iter (w : EArgs)  -- ITER R134
  | rdst (w : EArgs)  -- RDST R133
  | clrst (w : EArgs)  -- CLRST R133
  | kbsel (w : EArgs)  -- KBSEL R133
  deriving DecidableEq, Repr

/-- Which agent of the part moves in a step: a core (CC or SV by its number of R55), a region (by its origin tile),
one granule of a background copy, a near-memory unit, the fabric clock, a TLB that takes in or drops a translation, a stored word
or a MAC that goes wrong (R50, R51), a view of memory that catches up on a write (R93, R270, R289), or an event of the part or of its surroundings. -/
inductive Turn where
  | core (n : Nat)
  | region (g : Nat)
  | unit (u : Nat)
  | copyGranule (i k : Nat)
  | clock
  | tlbFill (n ctx va : Nat)
  | tlbDrop (i : Nat)
  | upset (w : Nat) (v : W32) (m : BitVec 4)
  | catchUp (i : Nat)
  | macError (u row : Nat)
  | macMiss (agu : Nat)
  | event (i : Instr)
  deriving DecidableEq, Repr, Inhabited

end Sys2Proof
end

