-- ==== Sys2Proof/Machine/Accept.lean ====
section
/-! DEFINITION. What CTXLOAD accepts in an E-word: for every opcode the destinations and the source kinds of R119, R188,
R295, R303, R315 and R336. Anything else is refused under R65. -/

namespace Sys2Proof.Machine

/-- A destination kind (R61). -/
inductive DstKind where
  | v | s | m | send | null | p
  deriving DecidableEq, Repr

/-- A source kind (R62); a literal's six raw bits lie between `lo` and `hi` (R63). -/
inductive SrcKind where
  | v | s | k | m | p
  | lit (lo hi : Nat)
  deriving DecidableEq, Repr

/-- What an opcode accepts. A source with no kind is not read and must be 0b00_000000; `plain` words carry predicate 0b00. -/
structure EShape where
  dst : List DstKind
  a : List SrcKind
  b : List SrcKind
  c : List SrcKind
  plain : Bool
  deriving DecidableEq, Repr

def DstKind.ok : DstKind → EDst → Bool
  | .v, .v _ => true
  | .s, .s _ => true
  | .m, .m _ => true
  | .send, .link _ => true
  | .send, .stage => true
  | .null, .null => true
  | .p, .p _ => true
  | _, _ => false

def SrcKind.ok : SrcKind → ESrc → Bool
  | .v, .v _ => true
  | .s, .s _ => true
  | .k, .k _ => true
  | .m, .m _ => true
  | .p, .p _ => true
  | .lit lo hi, .lit n => decide (lo ≤ n.toNat) && decide (n.toNat ≤ hi)
  | _, _ => false

/-- Whether a source position of these kinds takes the source. -/
def srcOk (ks : List SrcKind) (x : ESrc) : Bool :=
  match ks with
  | [] => x == .none
  | _ => ks.any fun j => j.ok x

/-- Whether the opcode's shape accepts the operands. -/
def EShape.ok (sh : EShape) (w : EArgs) : Bool :=
  sh.dst.any (fun k => k.ok w.dst) && srcOk sh.a w.a && srcOk sh.b w.b && srcOk sh.c w.c && (!sh.plain || w.pred == .always)

/-- Any literal. -/
def litAny : SrcKind := .lit 0 63
/-- The words of R119 that write a register or send. -/
def dstVal : List DstKind := [.v, .s, .send, .null]
def srcVal : List SrcKind := [.v, .s, .k, litAny]
def srcReg : List SrcKind := [.v, .s, .k]
def srcPlane : List SrcKind := [.p, .s, .k, litAny]
/-- The four cardinal directions (R188, R315). -/
def litCardinal : List SrcKind := [.lit 0 0, .lit 2 2, .lit 4 4, .lit 6 6]

def shape1 : EShape := ⟨dstVal, srcVal, [], [], false⟩
def shape2 : EShape := ⟨dstVal, srcVal, srcVal, [], false⟩
def shape3 : EShape := ⟨dstVal, srcVal, srcVal, srcVal, false⟩
def shapeCmp : EShape := ⟨[.m], srcVal, srcVal, [], false⟩
def shapeMask2 : EShape := ⟨[.m], [.m], [.m], [], false⟩
def shapeNarrow (pos : Nat) : EShape := ⟨[.v, .s, .null], srcVal, [.lit 0 pos], srcReg, false⟩
def shapeWiden (pos : Nat) : EShape := ⟨dstVal, srcReg, [.lit 0 pos], [], false⟩
def shapePlane2 : EShape := ⟨[.p], [.p], srcPlane, [], false⟩
def shapeSld : EShape := ⟨[.v, .s, .null], [.s], [.s], [], false⟩
def shapeSst : EShape := ⟨[.null], [.s], [.s], [.v, .s], false⟩

/-- What CTXLOAD accepts for each opcode. -/
def eShape (op : Nat) : Option EShape :=
  match op with
  | 0 => some (shape2)
  | 1 => some (shape2)
  | 2 => some (shape2)
  | 3 => some (shape2)
  | 4 => some (shape2)
  | 5 => some (shape3)
  | 6 => some (shape2)
  | 7 => some (shape2)
  | 8 => some (shape2)
  | 9 => some (shape2)
  | 10 => some (shape1)
  | 11 => some (shape2)
  | 12 => some (shape2)
  | 13 => some (shape2)
  | 14 => some (shape2)
  | 16 => some (shape2)
  | 17 => some (shape2)
  | 18 => some (shape2)
  | 19 => some (shape2)
  | 20 => some (shape2)
  | 21 => some (shape2)
  | 22 => some (shape2)
  | 23 => some (shape2)
  | 24 => some (shape1)
  | 25 => some (shape1)
  | 26 => some (shape1)
  | 27 => some (shape3)
  | 28 => some (shape3)
  | 64 => some (shape2)
  | 65 => some (shape2)
  | 66 => some (shape2)
  | 67 => some (shape3)
  | 68 => some (shape3)
  | 69 => some (shape2)
  | 70 => some (shape2)
  | 71 => some (shape2)
  | 72 => some (shape1)
  | 73 => some (shape1)
  | 74 => some (shape1)
  | 75 => some (shape2)
  | 76 => some (shape2)
  | 77 => some (shape3)
  | 78 => some (shape3)
  | 80 => some ⟨dstVal, srcReg, [], [], false⟩
  | 81 => some ⟨dstVal, srcReg, [], [], false⟩
  | 82 => some (shape1)
  | 83 => some (shape1)
  | 84 => some (shapeNarrow 1)
  | 85 => some (shapeNarrow 1)
  | 86 => some (shapeNarrow 1)
  | 87 => some (shapeNarrow 1)
  | 88 => some (shapeNarrow 3)
  | 89 => some (shapeNarrow 3)
  | 90 => some (shapeNarrow 3)
  | 91 => some (shapeNarrow 3)
  | 92 => some (shapeWiden 1)
  | 93 => some (shapeWiden 1)
  | 94 => some (shapeWiden 3)
  | 95 => some (shapeWiden 3)
  | 128 => some ⟨[.p], [.p], [.lit 0 7], [], false⟩
  | 129 => some ⟨[.p], [.lit 0 15], [.lit 0 15, .s], [], false⟩
  | 130 => some ⟨[.send], [.p], [.lit 0 15, .s], [], false⟩
  | 131 => some ⟨[.p], [.p], [.p, .s, .k, .lit 0 3], [.s, .k], false⟩
  | 132 => some ⟨[.null], [.p], srcPlane, [], false⟩
  | 133 => some ⟨[.s, .m], [.p], [.lit 0 15, .s], [.lit 0 31, .s], false⟩
  | 134 => some ⟨[.p], [.p], [.lit 0 15, .s, .k], srcPlane, false⟩
  | 135 => some (shapePlane2)
  | 136 => some (shapePlane2)
  | 137 => some (shapePlane2)
  | 138 => some (shapePlane2)
  | 139 => some (shapePlane2)
  | 160 => some ⟨dstVal, [.m], srcVal, srcVal, false⟩
  | 161 => some (shapeCmp)
  | 162 => some (shapeCmp)
  | 163 => some (shapeCmp)
  | 164 => some (shapeCmp)
  | 165 => some (shapeCmp)
  | 166 => some (shapeCmp)
  | 167 => some (shapeCmp)
  | 168 => some (shapeCmp)
  | 169 => some (shapeCmp)
  | 170 => some (shapeMask2)
  | 171 => some (shapeMask2)
  | 172 => some (shapeMask2)
  | 173 => some ⟨[.m], [.m], [], [], false⟩
  | 174 => some (shapeCmp)
  | 175 => some ⟨[.null], [.m], [], [], true⟩
  | 176 => some ⟨[.v, .send], litCardinal, [], [], false⟩
  | 177 => some ⟨[.v, .send], [.lit 0 15], [], [], false⟩
  | 178 => some ⟨[.v, .s], litCardinal, [], [], false⟩
  | 192 => some (shapeSld)
  | 193 => some (shapeSld)
  | 194 => some (shapeSld)
  | 195 => some (shapeSst)
  | 196 => some (shapeSst)
  | 208 => some ⟨[.null], [.v, .lit 0 15], [.lit 0 7], [.lit 0 31, .s], false⟩
  | 209 => some ⟨[.null], [.v, .lit 0 15], [.lit 0 7], [.lit 0 31, .s], false⟩
  | 210 => some ⟨[.null], [.v], [.lit 0 1], [.lit 0 31, .s], false⟩
  | 211 => some ⟨[.null], [.v], [.lit 0 1], [.lit 0 31, .s], false⟩
  | 212 => some ⟨[.v], [.lit 0 11], [.lit 0 31, .s, .k], [], false⟩
  | 213 => some ⟨[.null], [.lit 0 7], [.lit 0 31, .s, .k], [.v], false⟩
  | 214 => some ⟨[.null], [.lit 0 31, .s, .k], [], [], false⟩
  | 224 => some ⟨[.v], [.v], [.s, .k], [], false⟩
  | 225 => some ⟨[.v], [.v], [.v], [.lit 0 2], false⟩
  | 226 => some ⟨[.null], [.v], [.v], [.v, .lit 0 0], false⟩
  | 227 => some ⟨[.v], litCardinal, [.lit 0 1], [.v], false⟩
  | 240 => some ⟨[.null], [], [], [], false⟩
  | 241 => some (shape1)
  | 242 => some ⟨[.v, .s], [.lit 0 3], [], [], false⟩
  | 243 => some ⟨[.v, .s], [], [], [], false⟩
  | 244 => some ⟨[.v, .s], [], [], [], false⟩
  | 245 => some ⟨[.null], [], [], [], true⟩
  | 246 => some ⟨[.null], [.lit 0 3], [], [], true⟩
  | _ => none

end Sys2Proof.Machine
end

