-- ==== Sys2Proof/WellFormed.lean ====
section
/-! DEFINITION. Well-formed instructions: what the register, opcode and reserved-code checks of R55, R65, R69 and R73
leave, beyond what the types of Sys2Proof.Syntax already say. -/

namespace Sys2Proof

/-- An even register of a pair (R284): g0 cannot stand for a pair. -/
def PReg.wf : PReg → Bool
  | .g n => n != 0
  | .w _ => true

/-- An N-word without a reserved code (R72), and without a counter in a word that ends (R73). -/
def NArgs.wf (w : NArgs) : Bool :=
  decide (w.seq.toNat ≤ 5) && decide (w.cond.toNat ≤ 5) && decide (w.loopOp.toNat ≤ 2)
    && decide (w.agaMode.toNat ≤ 4) && decide (w.agbMode.toNat ≤ 4) && decide (w.rd.toNat ≤ 2) && decide (w.wr.toNat ≤ 2)
    && decide (w.alu.toNat ≤ 17) && decide (w.srcA.toNat ≤ 18) && decide (w.srcB.toNat ≤ 18) && decide (w.dst.toNat ≤ 17)
    && decide (w.res.toNat ≤ 3) && decide (w.post.toNat ≤ 2)
    && !(w.seq == 5 && w.loopOp != 0)


/-- The opcode and the operands of an E-word (R64); none for every other step. -/
def Instr.eOp : Instr → Option (Nat × EArgs)
  | .addI32 w => some (0, w)
  | .subI32 w => some (1, w)
  | .mulI32 w => some (2, w)
  | .mulhI32 w => some (3, w)
  | .mulhN32 w => some (4, w)
  | .madI32 w => some (5, w)
  | .minI32 w => some (6, w)
  | .maxI32 w => some (7, w)
  | .minN32 w => some (8, w)
  | .maxN32 w => some (9, w)
  | .absI32 w => some (10, w)
  | .addsI32 w => some (11, w)
  | .subsI32 w => some (12, w)
  | .addsN32 w => some (13, w)
  | .subsN32 w => some (14, w)
  | .eAnd w => some (16, w)
  | .eOr w => some (17, w)
  | .eXor w => some (18, w)
  | .eAndn w => some (19, w)
  | .eShl w => some (20, w)
  | .eShr w => some (21, w)
  | .eSra w => some (22, w)
  | .rol w => some (23, w)
  | .ePopc w => some (24, w)
  | .eClz w => some (25, w)
  | .eCtz w => some (26, w)
  | .bfx w => some (27, w)
  | .bfi w => some (28, w)
  | .addF32 w => some (64, w)
  | .subF32 w => some (65, w)
  | .mulF32 w => some (66, w)
  | .fmaF32 w => some (67, w)
  | .fnmaF32 w => some (68, w)
  | .minF32 w => some (69, w)
  | .maxF32 w => some (70, w)
  | .divF32 w => some (71, w)
  | .sqrtF32 w => some (72, w)
  | .absF32 w => some (73, w)
  | .negF32 w => some (74, w)
  | .addF16 w => some (75, w)
  | .mulF16 w => some (76, w)
  | .fmaF16 w => some (77, w)
  | .fmaBf16 w => some (78, w)
  | .cvtF32I32 w => some (80, w)
  | .cvtF32N32 w => some (81, w)
  | .cvtI32F32 w => some (82, w)
  | .cvtN32F32 w => some (83, w)
  | .cvtF16F32 w => some (84, w)
  | .cvtF16F32Sat w => some (85, w)
  | .cvtBf16F32 w => some (86, w)
  | .cvtBf16F32Sat w => some (87, w)
  | .cvtE4m3F32 w => some (88, w)
  | .cvtE4m3F32Sat w => some (89, w)
  | .cvtE5m2F32 w => some (90, w)
  | .cvtE5m2F32Sat w => some (91, w)
  | .cvtF32F16 w => some (92, w)
  | .cvtF32Bf16 w => some (93, w)
  | .cvtF32E4m3 w => some (94, w)
  | .cvtF32E5m2 w => some (95, w)
  | .pshift w => some (128, w)
  | .pld w => some (129, w)
  | .pst w => some (130, w)
  | .rule w => some (131, w)
  | .pquiet w => some (132, w)
  | .pbx w => some (133, w)
  | .pbi w => some (134, w)
  | .paddI16 w => some (135, w)
  | .psubI16 w => some (136, w)
  | .ePand w => some (137, w)
  | .ePor w => some (138, w)
  | .ePxor w => some (139, w)
  | .eSel w => some (160, w)
  | .cmpeqI32 w => some (161, w)
  | .cmpltI32 w => some (162, w)
  | .cmpleI32 w => some (163, w)
  | .cmpltN32 w => some (164, w)
  | .cmpleN32 w => some (165, w)
  | .cmpeqF32 w => some (166, w)
  | .cmpltF32 w => some (167, w)
  | .cmpleF32 w => some (168, w)
  | .cmpunF32 w => some (169, w)
  | .mand w => some (170, w)
  | .mor w => some (171, w)
  | .mxor w => some (172, w)
  | .mnot w => some (173, w)
  | .mlane w => some (174, w)
  | .exitf w => some (175, w)
  | .lrecv w => some (176, w)
  | .stin w => some (177, w)
  | .lpoll w => some (178, w)
  | .sldN32 w => some (192, w)
  | .sldN16 w => some (193, w)
  | .sldI16 w => some (194, w)
  | .sstN32 w => some (195, w)
  | .sstN16 w => some (196, w)
  | .mfa w => some (208, w)
  | .mfb w => some (209, w)
  | .mfas w => some (210, w)
  | .mfbs w => some (211, w)
  | .ard w => some (212, w)
  | .awr w => some (213, w)
  | .aclr w => some (214, w)
  | .rmarch w => some (224, w)
  | .rsamp w => some (225, w)
  | .fragout w => some (226, w)
  | .rrecv w => some (227, w)
  | .eNop w => some (240, w)
  | .eMov w => some (241, w)
  | .lane w => some (242, w)
  | .iter w => some (243, w)
  | .rdst w => some (244, w)
  | .clrst w => some (245, w)
  | .kbsel w => some (246, w)
  | _ => none

/-- A well-formed instruction. A C-word, an S-row and an event hold nothing but what their types admit, except the pairs. -/
def Instr.wf (i : Instr) : Bool :=
  match i.eOp with
  | some (op, w) =>
    match Machine.eShape op with
    | some sh => sh.ok w
    | none => false
  | none =>
    match i with
    | .ldp rp _ _ => rp.wf
    | .ldpExt rp _ _ _ => rp.wf
    | .stp rp _ _ => rp.wf
    | .stpExt rp _ _ _ => rp.wf
    | .nWord w => w.wf
    | _ => true

end Sys2Proof
end

