-- ==== Sys2Proof/Decode.lean ====
section
/-! DEFINITION. The decoders of the word families, total on any bits (R54-R59 C-words, R60-R66 E-words and slots, R67-R69
S-rows, R72 N-words), and after them the encoders written from the same tables. Fields are read as numbers, once. -/

namespace Sys2Proof

/-- Why bits are no instruction: the fate of R53 of each family. -/
inductive Reject where
  /-- a C-word that raises the illegal-instruction trap (R59) -/
  | illegalCWord
  /-- an E-word or slot that CTXLOAD refuses (R65, R66) -/
  | refusedEWord
  /-- an S-row that refuses its queue (R69) -/
  | refusedRow
  /-- an N-word that NMLOAD refuses (R73) -/
  | refusedNWord
  /-- fewer bytes than the family's word holds -/
  | tooShort
  deriving DecidableEq, Repr

/-- Bits lo to lo + n − 1 of a word. -/
def fld (w lo n : Nat) : Nat := w / 2 ^ lo % 2 ^ n

/-! ### Register and field codes (R54-R57) -/

def SReg.code : SReg → Nat
  | .g n => n.toNat
  | .w n => 16 + n.toNat
  | .pcw => 56
  | .core => 57
  | .cyc => 58

def DReg.code : DReg → Nat
  | .g n => n.toNat
  | .w n => 16 + n.toNat

def qcode (q : QReg) : Nat := 48 + q.toNat

def PReg.code : PReg → Nat
  | .g n => 2 * n.toNat
  | .w n => 16 + 2 * n.toNat

def Scope.code : Scope → Nat
  | .rg => 1 | .die => 2 | .pkg => 3 | .dom => 4 | .sys => 5

def FrameCode.code : FrameCode → Nat
  | .f8 => 1 | .f16 => 2 | .f24 => 3

def AOrd.code : AOrd → Nat
  | .relaxed => 0 | .acq => 1 | .rel => 2 | .ar => 3

def RedOp.code : RedOp → Nat
  | .add => 0 | .max => 1 | .min => 2 | .and => 3 | .or => 4 | .xor => 5

def RedTy.code : RedTy → Nat
  | .i32 => 0 | .n32 => 1 | .i64 => 2 | .n64 => 3 | .f32 => 4 | .f16 => 5 | .bf16 => 6

/-- An integer source (R55). -/
def sregOf (c : Nat) : Option SReg :=
  if c < 16 then some (.g (BitVec.ofNat 4 c)) else if c < 48 then some (.w (BitVec.ofNat 5 (c - 16)))
  else if c = 56 then some .pcw else if c = 57 then some .core else if c = 58 then some .cyc else none

/-- An integer destination (R55). -/
def dregOf (c : Nat) : Option DReg :=
  if c < 16 then some (.g (BitVec.ofNat 4 c)) else if c < 48 then some (.w (BitVec.ofNat 5 (c - 16))) else none

/-- A predicate position (R55). -/
def qregOf (c : Nat) : Option QReg := if 48 ≤ c ∧ c < 56 then some (BitVec.ofNat 3 (c - 48)) else none

/-- A pair position: an even code of 2-46 (R284). -/
def pregOf (c : Nat) : Option PReg :=
  if c % 2 = 0 ∧ 2 ≤ c ∧ c < 16 then some (.g (BitVec.ofNat 3 (c / 2)))
  else if c % 2 = 0 ∧ 16 ≤ c ∧ c < 48 then some (.w (BitVec.ofNat 4 ((c - 16) / 2))) else none

/-- The scope codes of a C-word (R54). -/
def scopeOf : Nat → Option Scope
  | 1 => some .rg
  | 2 => some .die
  | 3 => some .pkg
  | 4 => some .dom
  | 5 => some .sys
  | _ => none

def frameOf : Nat → Option FrameCode
  | 1 => some .f8
  | 2 => some .f16
  | 3 => some .f24
  | _ => none

def aordOf : Nat → AOrd
  | 0 => .relaxed
  | 1 => .acq
  | 2 => .rel
  | _ => .ar

def redOpOf : Nat → Option RedOp
  | 0 => some .add
  | 1 => some .max
  | 2 => some .min
  | 3 => some .and
  | 4 => some .or
  | 5 => some .xor
  | _ => none

def redTyOf : Nat → Option RedTy
  | 0 => some .i32
  | 1 => some .n32
  | 2 => some .i64
  | 3 => some .n64
  | 4 => some .f32
  | 5 => some .f16
  | 6 => some .bf16
  | _ => none

/-! ### Position patterns: which class each field of a form has (R57) -/

/-- rd, ra, rb integer. -/
def decIII (rd ra rb : Nat) (k : DReg → SReg → SReg → Instr) : Option Instr :=
  match dregOf rd, sregOf ra, sregOf rb with
  | some d, some a, some b => some (k d a b)
  | _, _, _ => none

/-- rd predicate; ra, rb integer. -/
def decQII (rd ra rb : Nat) (k : QReg → SReg → SReg → Instr) : Option Instr :=
  match qregOf rd, sregOf ra, sregOf rb with
  | some d, some a, some b => some (k d a b)
  | _, _, _ => none

/-- rd, ra integer; rb zero. -/
def decII (rd ra rb : Nat) (k : DReg → SReg → Instr) : Option Instr :=
  match dregOf rd, sregOf ra with
  | some d, some a => if rb = 0 then some (k d a) else none
  | _, _ => none

/-- All three predicates. -/
def decQQQ (rd ra rb : Nat) (k : QReg → QReg → QReg → Instr) : Option Instr :=
  match qregOf rd, qregOf ra, qregOf rb with
  | some d, some a, some b => some (k d a b)
  | _, _, _ => none

/-- rd, ra predicates; rb zero. -/
def decQQ (rd ra rb : Nat) (k : QReg → QReg → Instr) : Option Instr :=
  match qregOf rd, qregOf ra with
  | some d, some a => if rb = 0 then some (k d a) else none
  | _, _ => none

/-- ra integer; rd, rb zero. -/
def decA (rd ra rb : Nat) (k : SReg → Instr) : Option Instr :=
  match sregOf ra with
  | some a => if rd = 0 ∧ rb = 0 then some (k a) else none
  | none => none

/-- ra, rb integer; rd zero. -/
def decAB (rd ra rb : Nat) (k : SReg → SReg → Instr) : Option Instr :=
  match sregOf ra, sregOf rb with
  | some a, some b => if rd = 0 then some (k a b) else none
  | _, _ => none

/-- rb integer; rd, ra zero. -/
def decB (rd ra rb : Nat) (k : SReg → Instr) : Option Instr :=
  match sregOf rb with
  | some b => if rd = 0 ∧ ra = 0 then some (k b) else none
  | none => none

/-- All zero. -/
def decZ (rd ra rb : Nat) (i : Instr) : Option Instr := if rd = 0 ∧ ra = 0 ∧ rb = 0 then some i else none

/-- rd, ra integer. -/
def decIImm (rd ra : Nat) (k : DReg → SReg → Instr) : Option Instr :=
  match dregOf rd, sregOf ra with
  | some d, some a => some (k d a)
  | _, _ => none

/-- rd predicate; ra integer. -/
def decQImm (rd ra : Nat) (k : QReg → SReg → Instr) : Option Instr :=
  match qregOf rd, sregOf ra with
  | some d, some a => some (k d a)
  | _, _ => none

/-- rs, ra integer sources. -/
def decStore (rs ra : Nat) (k : SReg → SReg → Instr) : Option Instr :=
  match sregOf rs, sregOf ra with
  | some d, some a => some (k d a)
  | _, _ => none

/-- A pair, and ra integer. -/
def decPair (rp ra : Nat) (k : PReg → SReg → Instr) : Option Instr :=
  match pregOf rp, sregOf ra with
  | some d, some a => some (k d a)
  | _, _ => none

/-- The shift immediates: imm12[11:6] must be 0 (R57). -/
def decShift (rd ra imm : Nat) (k : DReg → SReg → BitVec 6 → Instr) : Option Instr :=
  if imm < 64 then decIImm rd ra (fun d a => k d a (BitVec.ofNat 6 imm)) else none

def decMfsr (rd ra imm : Nat) : Option Instr :=
  match dregOf rd with
  | some d => if ra = 0 then some (.mfsr d (BitVec.ofNat 12 imm)) else none
  | none => none

def decMtsr (rd ra imm : Nat) : Option Instr :=
  match sregOf ra with
  | some a => if rd = 0 then some (.mtsr (BitVec.ofNat 12 imm) a) else none
  | none => none

def decTrap (rd ra imm : Nat) : Option Instr :=
  if rd = 0 ∧ ra = 0 then some (.trap (BitVec.ofNat 12 imm)) else none

/-- `waitt`: imm12[11:8] must be 0 (R110). -/
def decWaitt (rd ra imm : Nat) : Option Instr :=
  if rd = 0 ∧ ra = 0 ∧ imm < 256 then some (.waitt (BitVec.ofNat 8 imm)) else none

/-- `sel`: fn[2:0] selects the predicate, fn[5:3] must be 0 (R58). -/
def decSel (fn rd ra rb : Nat) : Option Instr :=
  if fn < 8 then decIII rd ra rb (fun d a b => .sel d (BitVec.ofNat 3 fn) a b) else none

/-- `callr`: rd holds the raw frame code, rb and fn are 0 (R105). -/
def decCallr (fn rd ra rb : Nat) : Option Instr :=
  match frameOf rd, sregOf ra with
  | some f, some a => if rb = 0 ∧ fn = 0 then some (.callr f a) else none
  | _, _ => none

/-- Form R (R54): the majors of R57 with their fn values (R58). `sel`, `callr` and the shift immediates stand apart. -/
def decR (maj fn rd ra rb : Nat) : Option Instr :=
  match maj, fn with
  | 0, 0 => decIII rd ra rb .add
  | 1, 0 => decIII rd ra rb .sub
  | 2, 0 => decIII rd ra rb .and
  | 3, 0 => decIII rd ra rb .or
  | 4, 0 => decIII rd ra rb .xor
  | 5, 0 => decIII rd ra rb .shl
  | 6, 0 => decIII rd ra rb .shr
  | 7, 0 => decIII rd ra rb .sra
  | 8, 0 => decIII rd ra rb .mul
  | 9, 0 => decIII rd ra rb .mulhI64
  | 9, 1 => decIII rd ra rb .mulhN64
  | 10, 0 => decIII rd ra rb .divI64
  | 10, 1 => decIII rd ra rb .divN64
  | 10, 2 => decIII rd ra rb .remI64
  | 10, 3 => decIII rd ra rb .remN64
  | 11, 0 => decIII rd ra rb .minI64
  | 11, 1 => decIII rd ra rb .maxI64
  | 11, 2 => decIII rd ra rb .minN64
  | 11, 3 => decIII rd ra rb .maxN64
  | 12, 0 => decQII rd ra rb .cmpeq
  | 12, 1 => decQII rd ra rb .cmpne
  | 12, 2 => decQII rd ra rb .cmplt
  | 12, 3 => decQII rd ra rb .cmpge
  | 12, 4 => decQII rd ra rb .cmpltN64
  | 12, 5 => decQII rd ra rb .cmpgeN64
  | 13, 0 => decII rd ra rb .clz
  | 13, 1 => decII rd ra rb .ctz
  | 13, 2 => decII rd ra rb .popc
  | 13, 3 => decIII rd ra rb .andn
  | 13, 4 => decIII rd ra rb .orn
  | 15, 0 => decQQQ rd ra rb .pand
  | 15, 1 => decQQQ rd ra rb .por
  | 15, 2 => decQQQ rd ra rb .pxor
  | 15, 3 => decQQ rd ra rb .pnot
  | 36, 0 => decA rd ra rb .jmpr
  | 38, 0 => decZ rd ra rb .ret
  | 80, 0 => decAB rd ra rb .launch
  | 81, 0 => decAB rd ra rb .sbind
  | 82, 0 => decA rd ra rb .sgo
  | 83, 0 => decA rd ra rb .sbar
  | 84, 0 => decAB rd ra rb .qpush
  | 85, 0 => decII rd ra rb .qpop
  | 86, 0 => decII rd ra rb .qcount
  | 87, 0 => decAB rd ra rb .ctxload
  | 88, 0 => decAB rd ra rb .rtload
  | 89, 0 => decAB rd ra rb .palload
  | 90, 0 => decAB rd ra rb .ownload
  | 96, 0 => decA rd ra rb .tload
  | 97, 0 => decA rd ra rb .tq
  | 98, 0 => decAB rd ra rb .nmload
  | 99, 0 => decA rd ra rb .nmcall
  | 100, 0 => decIII rd ra rb .fsinit
  | 100, 1 => decIII rd ra rb .fsupd
  | 100, 2 => decIII rd ra rb .fsddt
  | 100, 3 => decII rd ra rb .fssolve
  | 100, 4 => decII rd ra rb .fsscale
  | 100, 5 => decIII rd ra rb .fsread
  | 100, 6 => decIII rd ra rb .fswrite
  | 100, 7 => decII rd ra rb .fslogdet
  | 101, 0 => decAB rd ra rb .phset
  | 102, 0 => decAB rd ra rb .phadd
  | 103, 0 => decII rd ra rb .phrd
  | 104, 0 => decIII rd ra rb .btalloc
  | 105, 0 => decIII rd ra rb .btfork
  | 106, 0 => decII rd ra rb .btdrop
  | 107, 0 => decIII rd ra rb .btdemote
  | 108, 0 => decIII rd ra rb .btpromote
  | 109, 0 => decIII rd ra rb .swbind
  | 110, 0 => decA rd ra rb .snap
  | 111, 0 => decII rd ra rb .snaprd
  | 115, 0 => decZ rd ra rb .treen
  | 116, 0 => decZ rd ra rb .tret
  | 118, 0 => decAB rd ra rb .tlbinvPg
  | 118, 1 => decB rd ra rb .tlbinvCx
  | 118, 2 => decZ rd ra rb .tlbinvAll
  | 119, 0 => decZ rd ra rb .idle
  | _, _ => none

/-- Form I without its extension word (R100). -/
def decI (maj rd ra imm : Nat) : Option Instr :=
  match maj with
  | 16 => decIImm rd ra (fun d a => .addi d a (BitVec.ofNat 12 imm))
  | 17 => decIImm rd ra (fun d a => .subi d a (BitVec.ofNat 12 imm))
  | 18 => decIImm rd ra (fun d a => .andi d a (BitVec.ofNat 12 imm))
  | 19 => decIImm rd ra (fun d a => .ori d a (BitVec.ofNat 12 imm))
  | 20 => decIImm rd ra (fun d a => .xori d a (BitVec.ofNat 12 imm))
  | 24 => decIImm rd ra (fun d a => .muli d a (BitVec.ofNat 12 imm))
  | 25 => decQImm rd ra (fun d a => .cmpeqi d a (BitVec.ofNat 12 imm))
  | 26 => decQImm rd ra (fun d a => .cmpnei d a (BitVec.ofNat 12 imm))
  | 27 => decQImm rd ra (fun d a => .cmplti d a (BitVec.ofNat 12 imm))
  | 28 => decQImm rd ra (fun d a => .cmpgei d a (BitVec.ofNat 12 imm))
  | 29 => decQImm rd ra (fun d a => .cmpltiN64 d a (BitVec.ofNat 12 imm))
  | 30 => decQImm rd ra (fun d a => .cmpgeiN64 d a (BitVec.ofNat 12 imm))
  | 21 => decShift rd ra imm .shli
  | 22 => decShift rd ra imm .shri
  | 23 => decShift rd ra imm .srai
  | 112 => decMfsr rd ra imm
  | 113 => decMtsr rd ra imm
  | 114 => decTrap rd ra imm
  | 117 => decWaitt rd ra imm
  | _ => none

/-- Form I with its extension word (R56). -/
def decIExt (maj rd ra imm : Nat) : Option Instr :=
  match maj with
  | 16 => decIImm rd ra (fun d a => .addiExt d a (BitVec.ofNat 44 imm))
  | 17 => decIImm rd ra (fun d a => .subiExt d a (BitVec.ofNat 44 imm))
  | 18 => decIImm rd ra (fun d a => .andiExt d a (BitVec.ofNat 44 imm))
  | 19 => decIImm rd ra (fun d a => .oriExt d a (BitVec.ofNat 44 imm))
  | 20 => decIImm rd ra (fun d a => .xoriExt d a (BitVec.ofNat 44 imm))
  | 24 => decIImm rd ra (fun d a => .muliExt d a (BitVec.ofNat 44 imm))
  | 25 => decQImm rd ra (fun d a => .cmpeqiExt d a (BitVec.ofNat 44 imm))
  | 26 => decQImm rd ra (fun d a => .cmpneiExt d a (BitVec.ofNat 44 imm))
  | 27 => decQImm rd ra (fun d a => .cmpltiExt d a (BitVec.ofNat 44 imm))
  | 28 => decQImm rd ra (fun d a => .cmpgeiExt d a (BitVec.ofNat 44 imm))
  | 29 => decQImm rd ra (fun d a => .cmpltiN64Ext d a (BitVec.ofNat 44 imm))
  | 30 => decQImm rd ra (fun d a => .cmpgeiN64Ext d a (BitVec.ofNat 44 imm))
  | _ => none

/-- Form M (R54); `x` says whether an extension word carries the offset (R56). -/
def decM (maj rd ra : Nat) (m : MArgs) (x : Bool) (off : Nat) : Option Instr :=
  match maj, x with
  | 48, false => decIImm rd ra (fun d a => .ldI8 d a m)
  | 48, true => decIImm rd ra (fun d a => .ldI8Ext d a m (BitVec.ofNat 32 off))
  | 49, false => decIImm rd ra (fun d a => .ldI16 d a m)
  | 49, true => decIImm rd ra (fun d a => .ldI16Ext d a m (BitVec.ofNat 32 off))
  | 50, false => decIImm rd ra (fun d a => .ldI32 d a m)
  | 50, true => decIImm rd ra (fun d a => .ldI32Ext d a m (BitVec.ofNat 32 off))
  | 51, false => decIImm rd ra (fun d a => .ldI64 d a m)
  | 51, true => decIImm rd ra (fun d a => .ldI64Ext d a m (BitVec.ofNat 32 off))
  | 52, false => decIImm rd ra (fun d a => .ldN8 d a m)
  | 52, true => decIImm rd ra (fun d a => .ldN8Ext d a m (BitVec.ofNat 32 off))
  | 53, false => decIImm rd ra (fun d a => .ldN16 d a m)
  | 53, true => decIImm rd ra (fun d a => .ldN16Ext d a m (BitVec.ofNat 32 off))
  | 54, false => decIImm rd ra (fun d a => .ldN32 d a m)
  | 54, true => decIImm rd ra (fun d a => .ldN32Ext d a m (BitVec.ofNat 32 off))
  | 55, false => decIImm rd ra (fun d a => .ldN64 d a m)
  | 55, true => decIImm rd ra (fun d a => .ldN64Ext d a m (BitVec.ofNat 32 off))
  | 56, false => decStore rd ra (fun d a => .st8 d a m)
  | 56, true => decStore rd ra (fun d a => .st8Ext d a m (BitVec.ofNat 32 off))
  | 57, false => decStore rd ra (fun d a => .st16 d a m)
  | 57, true => decStore rd ra (fun d a => .st16Ext d a m (BitVec.ofNat 32 off))
  | 58, false => decStore rd ra (fun d a => .st32 d a m)
  | 58, true => decStore rd ra (fun d a => .st32Ext d a m (BitVec.ofNat 32 off))
  | 59, false => decStore rd ra (fun d a => .st64 d a m)
  | 59, true => decStore rd ra (fun d a => .st64Ext d a m (BitVec.ofNat 32 off))
  | 60, false => decPair rd ra (fun d a => .ldp d a m)
  | 60, true => decPair rd ra (fun d a => .ldpExt d a m (BitVec.ofNat 32 off))
  | 61, false => decPair rd ra (fun d a => .stp d a m)
  | 61, true => decPair rd ra (fun d a => .stpExt d a m (BitVec.ofNat 32 off))
  | _, _ => none

/-- Form A (R54). -/
def decA3 (maj rd ra rb : Nat) (a : AArgs) : Option Instr :=
  match maj with
  | 64 => decIII rd ra rb (fun d x y => .amoadd d x y a)
  | 65 => decIII rd ra rb (fun d x y => .amoand d x y a)
  | 66 => decIII rd ra rb (fun d x y => .amoor d x y a)
  | 67 => decIII rd ra rb (fun d x y => .amoxor d x y a)
  | 68 => decIII rd ra rb (fun d x y => .amomaxI d x y a)
  | 69 => decIII rd ra rb (fun d x y => .amominI d x y a)
  | 70 => decIII rd ra rb (fun d x y => .amomaxN d x y a)
  | 71 => decIII rd ra rb (fun d x y => .amominN d x y a)
  | 72 => decIII rd ra rb (fun d x y => .amoswap d x y a)
  | 73 => decIII rd ra rb (fun d x y => .amocas d x y a)
  | _ => none

/-- Form F (R54). -/
def decF (maj kind : Nat) (sc : Scope) : Option Instr :=
  match maj, kind with
  | 74, 0 => some (.fence sc)
  | 74, 1 => some (.fenceAcq sc)
  | 74, 2 => some (.fenceRel sc)
  | 75, 0 => some (.fencePath sc)
  | 76, 0 => some (.fenceWin sc)
  | _, _ => none

/-- Form B (R54, R102, R104); `x` says whether an extension word widens the offset. -/
def decBr (maj c off : Nat) (x : Bool) : Option Instr :=
  match maj, x with
  | 32, false => (qregOf c).map fun q => .br q (BitVec.ofNat 18 off)
  | 32, true => (qregOf c).map fun q => .brExt q (BitVec.ofNat 50 off)
  | 33, false => (qregOf c).map fun q => .brn q (BitVec.ofNat 18 off)
  | 33, true => (qregOf c).map fun q => .brnExt q (BitVec.ofNat 50 off)
  | 34, false => if c = 0 then some (.jmp (BitVec.ofNat 18 off)) else none
  | 34, true => if c = 0 then some (.jmpExt (BitVec.ofNat 50 off)) else none
  | 35, false => (frameOf c).map fun f => .call f (BitVec.ofNat 18 off)
  | 35, true => (frameOf c).map fun f => .callExt f (BitVec.ofNat 50 off)
  | _, _ => none

/-- `copy` and `copy.red` (form C, R56). -/
def decCopy (maj rd ra rb tok scope : Nat) (x : Bool) (e : Nat) : Option Instr :=
  match sregOf rd, sregOf ra, sregOf rb, scopeOf scope with
  | some d, some a, some b, some sc =>
    if maj = 62 then
      if x then
        if e < 256 then some (.copyExt d a b (BitVec.ofNat 3 tok) sc (BitVec.ofNat 8 e)) else none
      else some (.copy d a b (BitVec.ofNat 3 tok) sc)
    else
      match redOpOf (fld e 8 3), redTyOf (fld e 11 4) with
      | some op, some ty =>
        if x = true ∧ e < 32768 then some (.copyRed d a b (BitVec.ofNat 3 tok) sc (BitVec.ofNat 8 (fld e 0 8)) op ty) else none
      | _, _ => none
  | _, _, _, _ => none

/-- Forms M and A: the scope and order fields before the positions. -/
def decMem (w maj e : Nat) : Option Instr :=
  match scopeOf (fld w 2 3) with
  | some sc => decM maj (fld w 19 6) (fld w 13 6) ⟨BitVec.ofNat 8 (fld w 5 8), sc, fld w 1 1 == 1⟩ (fld w 0 1 == 1) e
  | none => none

def decAtomic (w maj : Nat) : Option Instr :=
  match scopeOf (fld w 4 3) with
  | some sc =>
    if fld w 0 1 = 0 then
      decA3 maj (fld w 19 6) (fld w 13 6) (fld w 7 6) ⟨sc, fld w 3 1 == 1, aordOf (fld w 1 2)⟩
    else none
  | none => none

def decFence (w maj : Nat) : Option Instr :=
  match scopeOf (fld w 4 3) with
  | some sc => if fld w 7 18 = 0 ∧ fld w 0 2 = 0 then decF maj (fld w 2 2) sc else none
  | none => none

/-- Form I, one word or two. -/
def decImm (w maj e : Nat) : Option Instr :=
  if fld w 0 1 = 0 then decI maj (fld w 19 6) (fld w 13 6) (fld w 1 12)
  else decIExt maj (fld w 19 6) (fld w 13 6) (fld w 1 12 + 4096 * e)

/-- Form B, one word or two. -/
def decBranch (w maj e : Nat) : Option Instr :=
  if fld w 0 1 = 0 then decBr maj (fld w 19 6) (fld w 1 18) false
  else decBr maj (fld w 19 6) (fld w 1 18 + 262144 * e) true

/-- Form R: X must be 0. -/
def decReg (w maj : Nat) : Option Instr :=
  if fld w 0 1 = 0 then
    if maj = 14 then decSel (fld w 1 6) (fld w 19 6) (fld w 13 6) (fld w 7 6)
    else if maj = 37 then decCallr (fld w 1 6) (fld w 19 6) (fld w 13 6) (fld w 7 6)
    else decR maj (fld w 1 6) (fld w 19 6) (fld w 13 6) (fld w 7 6)
  else none

/-- A C-word `w`, with `e` the 32-bit word after it, read only where X is 1 (R54-R59). -/
def decodeC (w e : Nat) : Option Instr :=
  let maj := fld w 25 7
  if 16 ≤ maj ∧ maj ≤ 30 ∨ 112 ≤ maj ∧ maj ≤ 114 ∨ maj = 117 then decImm w maj e
  else if 32 ≤ maj ∧ maj ≤ 35 then decBranch w maj e
  else if 48 ≤ maj ∧ maj ≤ 61 then decMem w maj e
  else if maj = 62 ∨ maj = 63 then
    decCopy maj (fld w 19 6) (fld w 13 6) (fld w 7 6) (fld w 4 3) (fld w 1 3) (fld w 0 1 == 1) e
  else if 64 ≤ maj ∧ maj ≤ 73 then decAtomic w maj
  else if 74 ≤ maj ∧ maj ≤ 76 then decFence w maj
  else decReg w maj

/-! ### E-words and context image slots (R60-R66) -/

/-- A destination field (R61); opcodes 0x80-0x9F name planes. -/
def edstOf (op c : Nat) : Option EDst :=
  if c < 32 then
    if 128 ≤ op ∧ op < 160 then
      if c < 16 then some (.p (BitVec.ofNat 4 c)) else none
    else some (.v (BitVec.ofNat 5 c))
  else if c < 48 then some (.s (BitVec.ofNat 4 (c - 32)))
  else if c < 56 then some (.m (BitVec.ofNat 3 (c - 48)))
  else if c < 60 then some (.link (BitVec.ofNat 2 (c - 56)))
  else if c = 60 then some .stage
  else if c = 61 then some .null
  else none

/-- A source field that the word reads (R62). -/
def esrcOf (op c : Nat) : Option ESrc :=
  let v := c % 64
  if c < 64 then
    if 128 ≤ op ∧ op < 160 then
      if v < 16 then some (.p (BitVec.ofNat 4 v)) else none
    else if v < 32 then some (.v (BitVec.ofNat 5 v))
    else if 160 ≤ op ∧ op < 176 ∧ 48 ≤ v ∧ v < 56 then some (.m (BitVec.ofNat 3 (v - 48)))
    else none
  else if c < 128 then
    if v < 16 then some (.s (BitVec.ofNat 4 v)) else none
  else if c < 192 then some (.k (BitVec.ofNat 6 v))
  else some (.lit (BitVec.ofNat 6 v))

/-- A source position: one that is not read must be 0b00_000000 (R62). -/
def esrcAt (op : Nat) (ks : List Machine.SrcKind) (c : Nat) : Option ESrc :=
  match ks with
  | [] => if c = 0 then some .none else none
  | _ => esrcOf op c

def epredOf : Nat → EPred
  | 0 => .always
  | 1 => .m6
  | 2 => .m7
  | _ => .notM7

/-- The E-word opcode map (R64). Noncomputable: the compiler cannot lay out so late a constructor of a type this wide; the kernel evaluates it. -/
noncomputable def eCtor (op : Nat) : Option (EArgs → Instr) :=
  match op with
  | 0 => some .addI32
  | 1 => some .subI32
  | 2 => some .mulI32
  | 3 => some .mulhI32
  | 4 => some .mulhN32
  | 5 => some .madI32
  | 6 => some .minI32
  | 7 => some .maxI32
  | 8 => some .minN32
  | 9 => some .maxN32
  | 10 => some .absI32
  | 11 => some .addsI32
  | 12 => some .subsI32
  | 13 => some .addsN32
  | 14 => some .subsN32
  | 16 => some .eAnd
  | 17 => some .eOr
  | 18 => some .eXor
  | 19 => some .eAndn
  | 20 => some .eShl
  | 21 => some .eShr
  | 22 => some .eSra
  | 23 => some .rol
  | 24 => some .ePopc
  | 25 => some .eClz
  | 26 => some .eCtz
  | 27 => some .bfx
  | 28 => some .bfi
  | 64 => some .addF32
  | 65 => some .subF32
  | 66 => some .mulF32
  | 67 => some .fmaF32
  | 68 => some .fnmaF32
  | 69 => some .minF32
  | 70 => some .maxF32
  | 71 => some .divF32
  | 72 => some .sqrtF32
  | 73 => some .absF32
  | 74 => some .negF32
  | 75 => some .addF16
  | 76 => some .mulF16
  | 77 => some .fmaF16
  | 78 => some .fmaBf16
  | 80 => some .cvtF32I32
  | 81 => some .cvtF32N32
  | 82 => some .cvtI32F32
  | 83 => some .cvtN32F32
  | 84 => some .cvtF16F32
  | 85 => some .cvtF16F32Sat
  | 86 => some .cvtBf16F32
  | 87 => some .cvtBf16F32Sat
  | 88 => some .cvtE4m3F32
  | 89 => some .cvtE4m3F32Sat
  | 90 => some .cvtE5m2F32
  | 91 => some .cvtE5m2F32Sat
  | 92 => some .cvtF32F16
  | 93 => some .cvtF32Bf16
  | 94 => some .cvtF32E4m3
  | 95 => some .cvtF32E5m2
  | 128 => some .pshift
  | 129 => some .pld
  | 130 => some .pst
  | 131 => some .rule
  | 132 => some .pquiet
  | 133 => some .pbx
  | 134 => some .pbi
  | 135 => some .paddI16
  | 136 => some .psubI16
  | 137 => some .ePand
  | 138 => some .ePor
  | 139 => some .ePxor
  | 160 => some .eSel
  | 161 => some .cmpeqI32
  | 162 => some .cmpltI32
  | 163 => some .cmpleI32
  | 164 => some .cmpltN32
  | 165 => some .cmpleN32
  | 166 => some .cmpeqF32
  | 167 => some .cmpltF32
  | 168 => some .cmpleF32
  | 169 => some .cmpunF32
  | 170 => some .mand
  | 171 => some .mor
  | 172 => some .mxor
  | 173 => some .mnot
  | 174 => some .mlane
  | 175 => some .exitf
  | 176 => some .lrecv
  | 177 => some .stin
  | 178 => some .lpoll
  | 192 => some .sldN32
  | 193 => some .sldN16
  | 194 => some .sldI16
  | 195 => some .sstN32
  | 196 => some .sstN16
  | 208 => some .mfa
  | 209 => some .mfb
  | 210 => some .mfas
  | 211 => some .mfbs
  | 212 => some .ard
  | 213 => some .awr
  | 214 => some .aclr
  | 224 => some .rmarch
  | 225 => some .rsamp
  | 226 => some .fragout
  | 227 => some .rrecv
  | 240 => some .eNop
  | 241 => some .eMov
  | 242 => some .lane
  | 243 => some .iter
  | 244 => some .rdst
  | 245 => some .clrst
  | 246 => some .kbsel
  | _ => none
/-- The opcode and the operands of an E-word (R60); none where R65 refuses it. -/
def eFields (w : Nat) : Option (Nat × EArgs) :=
  let op := fld w 32 8
  match Machine.eShape op with
  | some sh =>
    match edstOf op (fld w 26 6), esrcAt op sh.a (fld w 18 8), esrcAt op sh.b (fld w 10 8), esrcAt op sh.c (fld w 2 8) with
    | some d, some a, some b, some c =>
      let x : EArgs := ⟨d, a, b, c, epredOf (fld w 0 2)⟩
      if sh.ok x then some (op, x) else none
    | _, _, _, _ => none
  | none => none

/-- The instruction an E-word stands for. -/
noncomputable def decodeE (w : Nat) : Option Instr :=
  match eFields w with
  | some (op, x) => (eCtor op).map fun k => k x
  | none => none

/-- Whether CTXLOAD takes a 64-bit slot: reserved bits 0; V = 0 with the rest 0, or an accepted E-word (R65, R66). -/
def slotOk (w : Nat) : Bool :=
  if fld w 45 19 != 0 then false
  else if fld w 44 1 = 0 then fld w 0 44 == 0
  else (eFields (fld w 0 40)).isSome

/-! ### S-rows (R67, R68) -/

def holdOf : Nat → Hold
  | 0 => .off
  | 1 => .on
  | 2 => .empty
  | _ => .full

/-- An S-row; its operand is within the bits R68 names. -/
def decodeRow (w : Nat) : Option Instr :=
  let h : RowHdr := ⟨holdOf (fld w 53 2), fld w 52 1 == 1, BitVec.ofNat 4 (fld w 48 4), BitVec.ofNat 24 (fld w 24 24)⟩
  let phase := fld w 55 5
  let o := fld w 0 24
  if fld w 60 4 = 0 then (if o = 0 then some (.stepRow h (BitVec.ofNat 5 phase)) else none)
  else if phase ≠ 0 then none
  else match fld w 60 4 with
  | 1 => some (.loopRow h (BitVec.ofNat 5 (fld o 19 5)) (BitVec.ofNat 19 (fld o 0 19)))
  | 2 => if o < 4096 then some (.endl h (BitVec.ofNat 12 o)) else none
  | 3 => if o = 0 then some (.exitRow h) else none
  | 4 => if o = 0 then some (.epil h) else none
  | 5 => if fld o 0 8 = 0 then
      some (.mpass h (BitVec.ofNat 2 (fld o 22 2)) (fld o 21 1 == 1) (fld o 20 1 == 1) (BitVec.ofNat 12 (fld o 8 12)))
    else none
  | 6 => if fld o 0 17 = 0 then some (.form h (BitVec.ofNat 4 (fld o 20 4)) (BitVec.ofNat 3 (fld o 17 3))) else none
  | 7 => if o < 65536 then some (.reconf h (BitVec.ofNat 16 o)) else none
  | 8 => if o < 65536 then some (.barrier h (BitVec.ofNat 16 o)) else none
  | 9 => if o = 0 then some (.commit h) else none
  | 10 => if o < 16 then some (.waitq h (BitVec.ofNat 4 o)) else none
  | 11 => if o = 0 then some (.endRow h) else none
  | _ => none

/-! ### N-words (R72, R73) -/

/-- The fields of an N-word. -/
def nArgsOf (w : Nat) : NArgs :=
  { next := BitVec.ofNat 8 (fld w 120 8), seq := BitVec.ofNat 3 (fld w 117 3), cond := BitVec.ofNat 4 (fld w 113 4),
    loopOp := BitVec.ofNat 2 (fld w 111 2), loopN := BitVec.ofNat 3 (fld w 108 3),
    agaReg := BitVec.ofNat 4 (fld w 104 4), agaMode := BitVec.ofNat 4 (fld w 100 4),
    agbReg := BitVec.ofNat 4 (fld w 96 4), agbMode := BitVec.ofNat 4 (fld w 92 4),
    rd := BitVec.ofNat 4 (fld w 88 4), wr := BitVec.ofNat 4 (fld w 84 4), alu := BitVec.ofNat 6 (fld w 78 6),
    srcA := BitVec.ofNat 5 (fld w 73 5), srcB := BitVec.ofNat 5 (fld w 68 5), dst := BitVec.ofNat 5 (fld w 63 5),
    res := BitVec.ofNat 3 (fld w 60 3), post := BitVec.ofNat 4 (fld w 56 4), imm := BitVec.ofNat 56 (fld w 0 56) }

def decodeN (w : Nat) : Option Instr :=
  let a := nArgsOf w
  if a.wf then some (.nWord a) else none

/-! ### From bytes -/

/-- The number whose bytes stand lowest first (R3). -/
def leNat : List Byte → Nat
  | [] => 0
  | b :: bs => b.toNat + 256 * leNat bs

/-- The word families that are decoded (R53). -/
inductive Family where
  | cWord | eWord | sRow | nWord
  deriving DecidableEq, Repr

/-- Decode the first word of the bytes and leave the rest; every other outcome is a rejection by name. -/
noncomputable def decodeBytes (f : Family) (bs : List Byte) : Except Reject (Instr × List Byte) :=
  match f with
  | .cWord =>
    if bs.length < 4 then .error .tooShort
    else
      let w := leNat (bs.take 4)
      let n := if w % 2 = 1 then 8 else 4
      if bs.length < n then .error .tooShort
      else match decodeC w (leNat ((bs.drop 4).take 4)) with
        | some i => .ok (i, bs.drop n)
        | none => .error .illegalCWord
  | .eWord =>
    if bs.length < 5 then .error .tooShort
    else match decodeE (leNat (bs.take 5)) with
      | some i => .ok (i, bs.drop 5)
      | none => .error .refusedEWord
  | .sRow =>
    if bs.length < 8 then .error .tooShort
    else match decodeRow (leNat (bs.take 8)) with
      | some i => .ok (i, bs.drop 8)
      | none => .error .refusedRow
  | .nWord =>
    if bs.length < 16 then .error .tooShort
    else match decodeN (leNat (bs.take 16)) with
      | some i => .ok (i, bs.drop 16)
      | none => .error .refusedNWord

/-- The instruction of the opcode table whose bits are `w`: 32 bits a C-word (its extension word, if any, 0), 40 an E-word,
64 a C-word with its extension word or an S-row, 128 an N-word. -/
noncomputable def decodeTableWord (nbits w : Nat) : Option Instr :=
  if nbits = 32 then decodeC (fld w 0 32) 0
  else if nbits = 40 then decodeE (fld w 0 40)
  else if nbits = 64 then
    if fld w 0 1 = 1 then
      match decodeC (fld w 0 32) (fld w 32 32) with
      | some i => some i
      | none => decodeRow (fld w 0 64)
    else decodeRow (fld w 0 64)
  else if nbits = 128 then decodeN w
  else none

/-! ### The encoders -/

def packR (maj rd ra rb fn : Nat) : Nat := maj * 2 ^ 25 + rd * 2 ^ 19 + ra * 2 ^ 13 + rb * 2 ^ 7 + fn * 2
def packI (maj rd ra imm x : Nat) : Nat := maj * 2 ^ 25 + rd * 2 ^ 19 + ra * 2 ^ 13 + imm * 2 + x
def packB (maj c off x : Nat) : Nat := maj * 2 ^ 25 + c * 2 ^ 19 + off * 2 + x
def packM (maj rd ra : Nat) (m : MArgs) (x : Nat) : Nat :=
  maj * 2 ^ 25 + rd * 2 ^ 19 + ra * 2 ^ 13 + m.wait.toNat * 2 ^ 5 + m.sc.code * 2 ^ 2 + m.ord.toNat * 2 + x
def packC (maj rd ra rb tok sc x : Nat) : Nat :=
  maj * 2 ^ 25 + rd * 2 ^ 19 + ra * 2 ^ 13 + rb * 2 ^ 7 + tok * 2 ^ 4 + sc * 2 + x
def packA (maj rd ra rb : Nat) (a : AArgs) : Nat :=
  maj * 2 ^ 25 + rd * 2 ^ 19 + ra * 2 ^ 13 + rb * 2 ^ 7 + a.sc.code * 2 ^ 4 + a.sz.toNat * 2 ^ 3 + a.ord.code * 2
def packF (maj sc kind : Nat) : Nat := maj * 2 ^ 25 + sc * 2 ^ 4 + kind * 2 ^ 2

/-- The C-word of an instruction, and its extension word where it has one; none for every other step. -/
def encodeC : Instr → Option (Nat × Option Nat)
  | .add rd ra rb => some (packR 0 rd.code ra.code rb.code 0, none)
  | .sub rd ra rb => some (packR 1 rd.code ra.code rb.code 0, none)
  | .and rd ra rb => some (packR 2 rd.code ra.code rb.code 0, none)
  | .or rd ra rb => some (packR 3 rd.code ra.code rb.code 0, none)
  | .xor rd ra rb => some (packR 4 rd.code ra.code rb.code 0, none)
  | .shl rd ra rb => some (packR 5 rd.code ra.code rb.code 0, none)
  | .shr rd ra rb => some (packR 6 rd.code ra.code rb.code 0, none)
  | .sra rd ra rb => some (packR 7 rd.code ra.code rb.code 0, none)
  | .mul rd ra rb => some (packR 8 rd.code ra.code rb.code 0, none)
  | .mulhI64 rd ra rb => some (packR 9 rd.code ra.code rb.code 0, none)
  | .mulhN64 rd ra rb => some (packR 9 rd.code ra.code rb.code 1, none)
  | .divI64 rd ra rb => some (packR 10 rd.code ra.code rb.code 0, none)
  | .divN64 rd ra rb => some (packR 10 rd.code ra.code rb.code 1, none)
  | .remI64 rd ra rb => some (packR 10 rd.code ra.code rb.code 2, none)
  | .remN64 rd ra rb => some (packR 10 rd.code ra.code rb.code 3, none)
  | .minI64 rd ra rb => some (packR 11 rd.code ra.code rb.code 0, none)
  | .maxI64 rd ra rb => some (packR 11 rd.code ra.code rb.code 1, none)
  | .minN64 rd ra rb => some (packR 11 rd.code ra.code rb.code 2, none)
  | .maxN64 rd ra rb => some (packR 11 rd.code ra.code rb.code 3, none)
  | .cmpeq qd ra rb => some (packR 12 (qcode qd) ra.code rb.code 0, none)
  | .cmpne qd ra rb => some (packR 12 (qcode qd) ra.code rb.code 1, none)
  | .cmplt qd ra rb => some (packR 12 (qcode qd) ra.code rb.code 2, none)
  | .cmpge qd ra rb => some (packR 12 (qcode qd) ra.code rb.code 3, none)
  | .cmpltN64 qd ra rb => some (packR 12 (qcode qd) ra.code rb.code 4, none)
  | .cmpgeN64 qd ra rb => some (packR 12 (qcode qd) ra.code rb.code 5, none)
  | .clz rd ra => some (packR 13 rd.code ra.code 0 0, none)
  | .ctz rd ra => some (packR 13 rd.code ra.code 0 1, none)
  | .popc rd ra => some (packR 13 rd.code ra.code 0 2, none)
  | .andn rd ra rb => some (packR 13 rd.code ra.code rb.code 3, none)
  | .orn rd ra rb => some (packR 13 rd.code ra.code rb.code 4, none)
  | .pand qd qa qb => some (packR 15 (qcode qd) (qcode qa) (qcode qb) 0, none)
  | .por qd qa qb => some (packR 15 (qcode qd) (qcode qa) (qcode qb) 1, none)
  | .pxor qd qa qb => some (packR 15 (qcode qd) (qcode qa) (qcode qb) 2, none)
  | .pnot qd qa => some (packR 15 (qcode qd) (qcode qa) 0 3, none)
  | .jmpr ra => some (packR 36 0 ra.code 0 0, none)
  | .ret => some (packR 38 0 0 0 0, none)
  | .launch ra rb => some (packR 80 0 ra.code rb.code 0, none)
  | .sbind ra rb => some (packR 81 0 ra.code rb.code 0, none)
  | .sgo ra => some (packR 82 0 ra.code 0 0, none)
  | .sbar ra => some (packR 83 0 ra.code 0 0, none)
  | .qpush ra rb => some (packR 84 0 ra.code rb.code 0, none)
  | .qpop rd ra => some (packR 85 rd.code ra.code 0 0, none)
  | .qcount rd ra => some (packR 86 rd.code ra.code 0 0, none)
  | .ctxload ra rb => some (packR 87 0 ra.code rb.code 0, none)
  | .rtload ra rb => some (packR 88 0 ra.code rb.code 0, none)
  | .palload ra rb => some (packR 89 0 ra.code rb.code 0, none)
  | .ownload ra rb => some (packR 90 0 ra.code rb.code 0, none)
  | .tload ra => some (packR 96 0 ra.code 0 0, none)
  | .tq ra => some (packR 97 0 ra.code 0 0, none)
  | .nmload ra rb => some (packR 98 0 ra.code rb.code 0, none)
  | .nmcall ra => some (packR 99 0 ra.code 0 0, none)
  | .fsinit rd ra rb => some (packR 100 rd.code ra.code rb.code 0, none)
  | .fsupd rd ra rb => some (packR 100 rd.code ra.code rb.code 1, none)
  | .fsddt rd ra rb => some (packR 100 rd.code ra.code rb.code 2, none)
  | .fssolve rd ra => some (packR 100 rd.code ra.code 0 3, none)
  | .fsscale rd ra => some (packR 100 rd.code ra.code 0 4, none)
  | .fsread rd ra rb => some (packR 100 rd.code ra.code rb.code 5, none)
  | .fswrite rd ra rb => some (packR 100 rd.code ra.code rb.code 6, none)
  | .fslogdet rd ra => some (packR 100 rd.code ra.code 0 7, none)
  | .phset ra rb => some (packR 101 0 ra.code rb.code 0, none)
  | .phadd ra rb => some (packR 102 0 ra.code rb.code 0, none)
  | .phrd rd ra => some (packR 103 rd.code ra.code 0 0, none)
  | .btalloc rd ra rb => some (packR 104 rd.code ra.code rb.code 0, none)
  | .btfork rd ra rb => some (packR 105 rd.code ra.code rb.code 0, none)
  | .btdrop rd ra => some (packR 106 rd.code ra.code 0 0, none)
  | .btdemote rd ra rb => some (packR 107 rd.code ra.code rb.code 0, none)
  | .btpromote rd ra rb => some (packR 108 rd.code ra.code rb.code 0, none)
  | .swbind rd ra rb => some (packR 109 rd.code ra.code rb.code 0, none)
  | .snap ra => some (packR 110 0 ra.code 0 0, none)
  | .snaprd rd ra => some (packR 111 rd.code ra.code 0 0, none)
  | .treen => some (packR 115 0 0 0 0, none)
  | .tret => some (packR 116 0 0 0 0, none)
  | .tlbinvPg ra rb => some (packR 118 0 ra.code rb.code 0, none)
  | .tlbinvCx rb => some (packR 118 0 0 rb.code 1, none)
  | .tlbinvAll => some (packR 118 0 0 0 2, none)
  | .idle => some (packR 119 0 0 0 0, none)
  | .sel rd q ra rb => some (packR 14 rd.code ra.code rb.code q.toNat, none)
  | .callr fc ra => some (packR 37 fc.code ra.code 0 0, none)
  | .addi rd ra imm => some (packI 16 rd.code ra.code imm.toNat 0, none)
  | .addiExt rd ra imm => some (packI 16 rd.code ra.code (imm.toNat % 4096) 1, some (imm.toNat / 4096))
  | .subi rd ra imm => some (packI 17 rd.code ra.code imm.toNat 0, none)
  | .subiExt rd ra imm => some (packI 17 rd.code ra.code (imm.toNat % 4096) 1, some (imm.toNat / 4096))
  | .andi rd ra imm => some (packI 18 rd.code ra.code imm.toNat 0, none)
  | .andiExt rd ra imm => some (packI 18 rd.code ra.code (imm.toNat % 4096) 1, some (imm.toNat / 4096))
  | .ori rd ra imm => some (packI 19 rd.code ra.code imm.toNat 0, none)
  | .oriExt rd ra imm => some (packI 19 rd.code ra.code (imm.toNat % 4096) 1, some (imm.toNat / 4096))
  | .xori rd ra imm => some (packI 20 rd.code ra.code imm.toNat 0, none)
  | .xoriExt rd ra imm => some (packI 20 rd.code ra.code (imm.toNat % 4096) 1, some (imm.toNat / 4096))
  | .muli rd ra imm => some (packI 24 rd.code ra.code imm.toNat 0, none)
  | .muliExt rd ra imm => some (packI 24 rd.code ra.code (imm.toNat % 4096) 1, some (imm.toNat / 4096))
  | .cmpeqi rd ra imm => some (packI 25 (qcode rd) ra.code imm.toNat 0, none)
  | .cmpeqiExt rd ra imm => some (packI 25 (qcode rd) ra.code (imm.toNat % 4096) 1, some (imm.toNat / 4096))
  | .cmpnei rd ra imm => some (packI 26 (qcode rd) ra.code imm.toNat 0, none)
  | .cmpneiExt rd ra imm => some (packI 26 (qcode rd) ra.code (imm.toNat % 4096) 1, some (imm.toNat / 4096))
  | .cmplti rd ra imm => some (packI 27 (qcode rd) ra.code imm.toNat 0, none)
  | .cmpltiExt rd ra imm => some (packI 27 (qcode rd) ra.code (imm.toNat % 4096) 1, some (imm.toNat / 4096))
  | .cmpgei rd ra imm => some (packI 28 (qcode rd) ra.code imm.toNat 0, none)
  | .cmpgeiExt rd ra imm => some (packI 28 (qcode rd) ra.code (imm.toNat % 4096) 1, some (imm.toNat / 4096))
  | .cmpltiN64 rd ra imm => some (packI 29 (qcode rd) ra.code imm.toNat 0, none)
  | .cmpltiN64Ext rd ra imm => some (packI 29 (qcode rd) ra.code (imm.toNat % 4096) 1, some (imm.toNat / 4096))
  | .cmpgeiN64 rd ra imm => some (packI 30 (qcode rd) ra.code imm.toNat 0, none)
  | .cmpgeiN64Ext rd ra imm => some (packI 30 (qcode rd) ra.code (imm.toNat % 4096) 1, some (imm.toNat / 4096))
  | .shli rd ra n => some (packI 21 rd.code ra.code n.toNat 0, none)
  | .shri rd ra n => some (packI 22 rd.code ra.code n.toNat 0, none)
  | .srai rd ra n => some (packI 23 rd.code ra.code n.toNat 0, none)
  | .mfsr rd n => some (packI 112 rd.code 0 n.toNat 0, none)
  | .mtsr n ra => some (packI 113 0 ra.code n.toNat 0, none)
  | .trap n => some (packI 114 0 0 n.toNat 0, none)
  | .waitt m => some (packI 117 0 0 m.toNat 0, none)
  | .br q off => some (packB 32 (qcode q) off.toNat 0, none)
  | .brExt q off => some (packB 32 (qcode q) (off.toNat % 262144) 1, some (off.toNat / 262144))
  | .brn q off => some (packB 33 (qcode q) off.toNat 0, none)
  | .brnExt q off => some (packB 33 (qcode q) (off.toNat % 262144) 1, some (off.toNat / 262144))
  | .jmp off => some (packB 34 0 off.toNat 0, none)
  | .jmpExt off => some (packB 34 0 (off.toNat % 262144) 1, some (off.toNat / 262144))
  | .call fc off => some (packB 35 fc.code off.toNat 0, none)
  | .callExt fc off => some (packB 35 fc.code (off.toNat % 262144) 1, some (off.toNat / 262144))
  | .ldI8 rd ra m => some (packM 48 rd.code ra.code m 0, none)
  | .ldI8Ext rd ra m off => some (packM 48 rd.code ra.code m 1, some off.toNat)
  | .ldI16 rd ra m => some (packM 49 rd.code ra.code m 0, none)
  | .ldI16Ext rd ra m off => some (packM 49 rd.code ra.code m 1, some off.toNat)
  | .ldI32 rd ra m => some (packM 50 rd.code ra.code m 0, none)
  | .ldI32Ext rd ra m off => some (packM 50 rd.code ra.code m 1, some off.toNat)
  | .ldI64 rd ra m => some (packM 51 rd.code ra.code m 0, none)
  | .ldI64Ext rd ra m off => some (packM 51 rd.code ra.code m 1, some off.toNat)
  | .ldN8 rd ra m => some (packM 52 rd.code ra.code m 0, none)
  | .ldN8Ext rd ra m off => some (packM 52 rd.code ra.code m 1, some off.toNat)
  | .ldN16 rd ra m => some (packM 53 rd.code ra.code m 0, none)
  | .ldN16Ext rd ra m off => some (packM 53 rd.code ra.code m 1, some off.toNat)
  | .ldN32 rd ra m => some (packM 54 rd.code ra.code m 0, none)
  | .ldN32Ext rd ra m off => some (packM 54 rd.code ra.code m 1, some off.toNat)
  | .ldN64 rd ra m => some (packM 55 rd.code ra.code m 0, none)
  | .ldN64Ext rd ra m off => some (packM 55 rd.code ra.code m 1, some off.toNat)
  | .st8 rd ra m => some (packM 56 rd.code ra.code m 0, none)
  | .st8Ext rd ra m off => some (packM 56 rd.code ra.code m 1, some off.toNat)
  | .st16 rd ra m => some (packM 57 rd.code ra.code m 0, none)
  | .st16Ext rd ra m off => some (packM 57 rd.code ra.code m 1, some off.toNat)
  | .st32 rd ra m => some (packM 58 rd.code ra.code m 0, none)
  | .st32Ext rd ra m off => some (packM 58 rd.code ra.code m 1, some off.toNat)
  | .st64 rd ra m => some (packM 59 rd.code ra.code m 0, none)
  | .st64Ext rd ra m off => some (packM 59 rd.code ra.code m 1, some off.toNat)
  | .ldp rd ra m => some (packM 60 rd.code ra.code m 0, none)
  | .ldpExt rd ra m off => some (packM 60 rd.code ra.code m 1, some off.toNat)
  | .stp rd ra m => some (packM 61 rd.code ra.code m 0, none)
  | .stpExt rd ra m off => some (packM 61 rd.code ra.code m 1, some off.toNat)
  | .copy rd ra rb tok sc => some (packC 62 rd.code ra.code rb.code tok.toNat sc.code 0, none)
  | .copyExt rd ra rb tok sc wait => some (packC 62 rd.code ra.code rb.code tok.toNat sc.code 1, some wait.toNat)
  | .copyRed rd ra rb tok sc wait op ty => some (packC 63 rd.code ra.code rb.code tok.toNat sc.code 1, some (wait.toNat + 256 * op.code + 2048 * ty.code))
  | .amoadd rd ra rb a => some (packA 64 rd.code ra.code rb.code a, none)
  | .amoand rd ra rb a => some (packA 65 rd.code ra.code rb.code a, none)
  | .amoor rd ra rb a => some (packA 66 rd.code ra.code rb.code a, none)
  | .amoxor rd ra rb a => some (packA 67 rd.code ra.code rb.code a, none)
  | .amomaxI rd ra rb a => some (packA 68 rd.code ra.code rb.code a, none)
  | .amominI rd ra rb a => some (packA 69 rd.code ra.code rb.code a, none)
  | .amomaxN rd ra rb a => some (packA 70 rd.code ra.code rb.code a, none)
  | .amominN rd ra rb a => some (packA 71 rd.code ra.code rb.code a, none)
  | .amoswap rd ra rb a => some (packA 72 rd.code ra.code rb.code a, none)
  | .amocas rd ra rb a => some (packA 73 rd.code ra.code rb.code a, none)
  | .fence sc => some (packF 74 sc.code 0, none)
  | .fenceAcq sc => some (packF 74 sc.code 1, none)
  | .fenceRel sc => some (packF 74 sc.code 2, none)
  | .fencePath sc => some (packF 75 sc.code 0, none)
  | .fenceWin sc => some (packF 76 sc.code 0, none)
  | _ => none

def EDst.code : EDst → Nat
  | .v n => n.toNat
  | .s n => 32 + n.toNat
  | .m n => 48 + n.toNat
  | .link d => 56 + d.toNat
  | .stage => 60
  | .null => 61
  | .p n => n.toNat

def ESrc.code : ESrc → Nat
  | .none => 0
  | .v n => n.toNat
  | .s n => 64 + n.toNat
  | .k n => 128 + n.toNat
  | .lit n => 192 + n.toNat
  | .m n => 48 + n.toNat
  | .p n => n.toNat

def EPred.code : EPred → Nat
  | .always => 0 | .m6 => 1 | .m7 => 2 | .notM7 => 3

/-- The E-word of an instruction (R60). -/
def encodeE (i : Instr) : Option Nat :=
  match i.eOp with
  | some (op, w) =>
    some (op * 2 ^ 32 + w.dst.code * 2 ^ 26 + w.a.code * 2 ^ 18 + w.b.code * 2 ^ 10 + w.c.code * 2 ^ 2 + w.pred.code)
  | none => none

def Hold.code : Hold → Nat
  | .off => 0 | .on => 1 | .empty => 2 | .full => 3

/-- A row from its kind, phase, header and operand (R67). -/
def packRow (kind phase : Nat) (h : RowHdr) (o : Nat) : Nat :=
  kind * 2 ^ 60 + phase * 2 ^ 55 + h.hold.code * 2 ^ 53 + h.le.toNat * 2 ^ 52 + h.tag.toNat * 2 ^ 48 + h.cycle.toNat * 2 ^ 24 + o

/-- The S-row of an instruction (R67, R68). -/
def encodeRow : Instr → Option Nat
  | .stepRow h p => some (packRow 0 p.toNat h 0)
  | .loopRow h ii n => some (packRow 1 0 h (ii.toNat * 2 ^ 19 + n.toNat))
  | .endl h r => some (packRow 2 0 h r.toNat)
  | .exitRow h => some (packRow 3 0 h 0)
  | .epil h => some (packRow 4 0 h 0)
  | .mpass h a int clear n => some (packRow 5 0 h (a.toNat * 2 ^ 22 + int.toNat * 2 ^ 21 + clear.toNat * 2 ^ 20 + n.toNat * 2 ^ 8))
  | .form h w ht => some (packRow 6 0 h (w.toNat * 2 ^ 20 + ht.toNat * 2 ^ 17))
  | .reconf h x => some (packRow 7 0 h x.toNat)
  | .barrier h m => some (packRow 8 0 h m.toNat)
  | .commit h => some (packRow 9 0 h 0)
  | .waitq h p => some (packRow 10 0 h p.toNat)
  | .endRow h => some (packRow 11 0 h 0)
  | _ => none

/-- The N-word of an instruction (R72). -/
def encodeN : Instr → Option Nat
  | .nWord a =>
    some (a.next.toNat * 2 ^ 120 + a.seq.toNat * 2 ^ 117 + a.cond.toNat * 2 ^ 113 + a.loopOp.toNat * 2 ^ 111
      + a.loopN.toNat * 2 ^ 108 + a.agaReg.toNat * 2 ^ 104 + a.agaMode.toNat * 2 ^ 100 + a.agbReg.toNat * 2 ^ 96
      + a.agbMode.toNat * 2 ^ 92 + a.rd.toNat * 2 ^ 88 + a.wr.toNat * 2 ^ 84 + a.alu.toNat * 2 ^ 78 + a.srcA.toNat * 2 ^ 73
      + a.srcB.toNat * 2 ^ 68 + a.dst.toNat * 2 ^ 63 + a.res.toNat * 2 ^ 60 + a.post.toNat * 2 ^ 56 + a.imm.toNat)
  | _ => none

/-- The width and the bits of the word of an instruction, as `decodeTableWord` reads them; none for an event. -/
def encode (i : Instr) : Option (Nat × Nat) :=
  match encodeC i with
  | some (w, none) => some (32, w)
  | some (w, some e) => some (64, w + 2 ^ 32 * e)
  | none =>
    match encodeE i, encodeRow i, encodeN i with
    | some w, _, _ => some (40, w)
    | _, some w, _ => some (64, w)
    | _, _, some w => some (128, w)
    | _, _, _ => none

end Sys2Proof
end

