-- ==== Sys2Proof/Config.lean ====
section
/-! DEFINITION. What the manual leaves open, as constants with no value that Lean can see (log entries 1-5, 8, 9, 11-13):
nothing can be proved of them but what holds whatever they are. -/

namespace Sys2Proof

namespace Config

/-- The interleaving of the agents where the state's agenda names no turn (log 1). -/
opaque schedule : Nat → Turn

/-- A value nothing constrains, fresh for each pair of counter and index (log 8). -/
opaque freeWord : Nat → Nat → W32

/-- Fabric cycles a control-core word takes beyond one (R91, R94; log 3). -/
opaque cycleGap : Nat → Nat

/-- What a byte of the LP tier that nothing has written reads as (R265: undefined; log 4). -/
opaque lpByte : Nat → Byte

/-- What a byte of host memory or of another package reads as until the part writes it (log 5). -/
opaque foreignByte : Nat → Byte

/-- Bytes a lossless or lossy cold slot holds, of a block (R217; log 11). -/
opaque codedSize : Nat → Nat

/-- COND 4 of an N-word: the write queue to the crossbar is full, not architectural (R347; log 12). -/
opaque writeQueueFull : Nat → Bool

/-- Where the standard firmware's entries begin in the control store, not architected (R349; log 13). -/
opaque firmwareEntry : Nat → BitVec 8

/-- A supervisor's boot mapping: for a core and a 64 KiB page, the 64 KiB frame of stack memory, whether it may be stored to, and whether
user mode may reach it (R16, R83; log 14). -/
opaque bootMap : Nat → Nat → Option (BitVec 24 × Bool × Bool)

/-- The frequency to which a power cap steps a die (R385; log 75). -/
opaque capFreq : Nat → Nat → Nat

/-- Whether traffic between two dies crosses a UCIe link: FD0-FD7 are 0-7, MD0-MD7 8-15 (R8, R384; log 21). -/
opaque crosses : Nat → Nat → Nat → Bool

/-- A saved image's data unit as the security engine writes it, by context, generation, index and content (R381; log 15). -/
opaque sealUnit : Nat → Nat → Nat → List Byte → List Byte

/-- What a data unit that software has changed decrypts to (R381: undefined; log 15). -/
opaque openUnit : Nat → Nat → Nat → List Byte → List Byte

/-- Whether an exchange queue of this many samples is full (R203; log 16). -/
opaque exchangeFull : Nat → Nat → Bool

/-- The span link by which another package is reached (R376; log 18). -/
opaque spanLink : Nat → Nat

end Config

end Sys2Proof
end

