-- ==== Sys2Proof/Machine/Map.lean ====
section
/-! DEFINITION. Sparse data by key, in one canonical form: a list of (key, value) pairs with strictly
rising keys and no value equal to what an unlisted key reads as. Every indexed item of the machine
(registers, lanes, planes, tables, queues, memory) is held so, so equal contents are equal data. -/

namespace Sys2Proof.Machine

/-- A sparse map from numbers. -/
abbrev SMap (α : Type) := List (Nat × α)

namespace SMap

/-- What key `k` holds; `d` where it is not listed. -/
def get {α : Type} (d : α) : SMap α → Nat → α
  | [], _ => d
  | (j, v) :: m, k => if k = j then v else get d m k

/-- The map without key `k`. -/
def erase {α : Type} : SMap α → Nat → SMap α
  | [], _ => []
  | (j, v) :: m, k => if k = j then erase m k else (j, v) :: erase m k

/-- `k` put at its place in the order of keys. -/
def insert {α : Type} : SMap α → Nat → α → SMap α
  | [], k, v => [(k, v)]
  | (j, w) :: m, k, v => if k < j then (k, v) :: (j, w) :: m else (j, w) :: insert m k v

/-- `k := v`; writing what an unlisted key reads as removes the entry. -/
def set {α : Type} [DecidableEq α] (d : α) (m : SMap α) (k : Nat) (v : α) : SMap α :=
  if v = d then erase m k else insert (erase m k) k v

/-- Every key listed lies above `lo`, rising, and no value is the default `d k` of its key. -/
def wfFrom {α : Type} [DecidableEq α] (d : Nat → α) : Nat → SMap α → Bool
  | _, [] => true
  | lo, (k, v) :: m => decide (lo ≤ k) && decide (v ≠ d k) && wfFrom d (k + 1) m

/-- The canonical form, for a default that depends on the key. -/
def wfBy {α : Type} [DecidableEq α] (d : Nat → α) (m : SMap α) : Bool := wfFrom d 0 m

/-- The canonical form, for one default. -/
def wf {α : Type} [DecidableEq α] (d : α) (m : SMap α) : Bool := wfBy (fun _ => d) m

/-- The entries whose key is `k0`, `k0 + 1`, … for each value of the list in turn. -/
def setRun {α : Type} [DecidableEq α] (d : α) (m : SMap α) (k0 : Nat) : List α → SMap α
  | [] => m
  | v :: vs => setRun d (set d m k0 v) (k0 + 1) vs

/-- The `n` values from key `k0` on. -/
def getRun {α : Type} (d : α) (m : SMap α) (k0 : Nat) : Nat → List α
  | 0 => []
  | n + 1 => get d m k0 :: getRun d m (k0 + 1) n

/-- The entries of keys `lo` to `hi - 1` removed. -/
def clearRange {α : Type} (m : SMap α) (lo hi : Nat) : SMap α :=
  m.filter fun p => p.1 < lo || hi ≤ p.1

/-- Every value listed put through `f`. -/
def mapVal {α : Type} [DecidableEq α] (d : α) (f : α → α) (m : SMap α) : SMap α :=
  m.foldr (fun p acc => set d acc p.1 (f p.2)) []

end SMap

end Sys2Proof.Machine
end

