-- ==== Sys2Proof/Machine/State.lean ====
section
/-! DEFINITION. The state of the KZ-9 as plain data: everything the manual gives the machine, and the machine right
after reset (R76). Every indexed item is a sparse map whose unlisted keys hold the reset value. -/

namespace Sys2Proof.Machine

/-! ### Control cores (R77, R78, R151, R152) -/

/-- What a core is doing: not yet started (R378), executing, waiting in `idle` (R111), or stopped by a double fault (R140). -/
inductive CoreRun where
  | halted
  | running
  | idle
  | frozen
  deriving DecidableEq, Repr

/-- One control core or supervisor. -/
structure Core where
  run : CoreRun
  g : SMap W64          -- g1-g15; g0 is never listed
  ring : SMap W64       -- ring 0-255
  q : BitVec 8          -- q0-q7
  link : SMap W64       -- group link slots 0-31
  pc : W64
  cstat : W64
  tepc : W64
  tcause : W64
  tval : W64
  tstat : W64
  tvec : W64
  wbase : BitVec 8
  wfill : BitVec 8
  splb : W64
  spll : W64
  spp : W64
  ovfp : W64
  ovfn : W32
  ctxid : BitVec 20
  cyc : W64
  tokcnt : SMap (BitVec 4)
  tokbind : SMap (BitVec 13)
  idleTok : BitVec 8    -- tokens that were pending when `idle` issued
  wake : Bool           -- a wake event of R111 has come since `idle` issued
  pend : SMap (Option W64)  -- pending asynchronous causes with their TVAL (R136)
  await : Option (Nat × Bool) -- the placement that a waiting `ctxload`, `rtload` or `palload` is for, and whether its start pulse waits (R252)
  span : Option (Nat × Bool)  -- the package that a waiting access is for, and whether it has become unreachable (R376)
  begun : Option W32    -- the word that goes on waiting after it has begun to take effect (R91)
  inval : Option (List Nat × List Nat)  -- a `tlbinv` that has begun: the copies and the commands it waits for (R214)
  deriving DecidableEq, Repr

/-- Core reset (R77, R78): TVEC, the pc and CYC are the model's 0 (log 6). -/
def Core.reset : Core :=
  { run := .halted, g := [], ring := [], q := 0, link := [], pc := 0, cstat := 3, tepc := 0, tcause := 0, tval := 0, tstat := 0,
    tvec := 0, wbase := 0, wfill := 0, splb := 0, spll := 0, spp := 0, ovfp := 0, ovfn := 0, ctxid := 0, cyc := 0,
    tokcnt := [], tokbind := [], idleTok := 0, wake := false, pend := [], await := none, span := none, begun := none, inval := none }

/-- What one view of memory does not see yet of a granule (R93, R270, R289; log 95): cells, each with the byte that the view still
sees there. Views are numbered: 1 the interleaved window of stack memory, 2 the bank-linear one, 3 the span window's alias;
4 copies in scratchpads; 5 near-memory units; from 16 on a core's fetch through a window. -/
structure Lag where
  view : Nat
  cells : List (Nat × Byte)
  deriving DecidableEq, Repr

/-- A background copy in progress (R152, R288, R290); its pages were translated when it issued (R211). -/
structure Copy where
  core : Nat
  user : Bool
  ctx : BitVec 20
  dst : Nat
  src : Nat
  len : Nat
  dstPages : List Nat   -- physical addresses of the 64 KiB pages of the destination range, in order
  srcPages : List Nat
  leaves : List (Nat × Nat) -- the pages of any size that its translation used: their number and their bits (R214)
  tok : Nat
  sc : Scope
  bind : Option Nat     -- the phase it counts in
  red : Option (RedOp × RedTy)
  moved : List Nat      -- granules (or elements) already moved
  deriving DecidableEq, Repr

/-- One phase counter (R151, R155). `last` is the model's own: the latest operation that reached the counter, as its rank in R157's order
within one cycle (0 `phset`, 1 `phadd`, 2 a completion), and GCYC then (log 119). -/
structure Phase where
  cnt : W32
  ovf : Bool
  scope : BitVec 3
  own : BitVec 12
  last : Nat × W64
  deriving DecidableEq, Repr

def Phase.reset : Phase := ⟨0, false, 3, 0, 0, 0⟩

/-! ### Elements and tiles (R87, R162, R229, R250, R297, R323) -/

/-- A link slot (R187). `data` is empty or 32 lanes. -/
structure Slot where
  full : Bool
  reserved : Bool
  data : List W32
  poison : W32
  deriving DecidableEq, Repr

def Slot.empty : Slot := ⟨false, false, [], 0⟩

/-- The state of a context entry (R229). -/
inductive CtxState where
  | empty | live | staged
  deriving DecidableEq, Repr

/-- A context entry: its state and the 64-bit slot of R66. -/
structure CtxEntry where
  st : CtxState
  slot : W64
  deriving DecidableEq, Repr

def CtxEntry.reset : CtxEntry := ⟨.empty, 0⟩

/-- One element. Lane l of v(n) is key 32n + l; site (x, y) of p(n) is key 1024n + 32y + x; entry e of RT(t) is 1024t + e. -/
structure Elem where
  v : SMap W32
  vp : SMap W32         -- poison lanes of v(n)
  s : SMap W32
  sp : SMap Bool
  m : SMap W32
  mp : SMap W32
  estat : W32
  links : SMap Slot     -- 0 n, 1 e, 2 s, 3 w
  planes : SMap W16
  pp : SMap W32         -- poison sites of row y of p(n), key 32n + y
  rules : SMap W16
  ctx : SMap CtxEntry
  planeBusy : Nat       -- region cycle from which the plane unit is free (R301)
  soport : BitVec 4
  deriving DecidableEq, Repr

def Elem.reset : Elem :=
  { v := [], vp := [], s := [], sp := [], m := [], mp := [], estat := 0, links := [], planes := [], pp := [],
    rules := [], ctx := [], planeBusy := 0, soport := 0 }

/-- An operand slot (R323). -/
structure OpSlot where
  v : Bool
  ent : W32
  data : List Byte
  kv : W32
  sc : W32
  ss : W32
  feeder : BitVec 4
  dp : Bool
  sp : Bool
  deriving DecidableEq, Repr

def OpSlot.reset : OpSlot := ⟨false, 0, [], 0, 0, 0, 0, false, false⟩

/-- A group whose slots have been snapshotted and whose sums have not landed (R327). -/
structure GroupSnap where
  due : Nat
  acc : Nat
  int : Bool
  opa : SMap OpSlot
  opb : SMap OpSlot
  lq8 : SMap W16
  deriving DecidableEq, Repr

/-- A pass in progress: groups left, next snapshot cycle, groups to land (R327). -/
structure Pass where
  acc : Nat
  int : Bool
  left : Nat
  next : Nat
  deriving DecidableEq, Repr

/-- One tile. Entry (i, j) of a(n) is key 2048n + 64i + j. -/
structure Tile where
  kbank : SMap W32
  acc : SMap W32
  accp : SMap Bool
  aflag : SMap (BitVec 5)   -- [4] NV, [3] IOVF, [2] OF, [1] UF, [0] NX (R324)
  opa : SMap OpSlot
  opb : SMap OpSlot
  pass : Option Pass
  groups : List GroupSnap
  deriving DecidableEq, Repr

def Tile.reset : Tile :=
  { kbank := [], acc := [], accp := [], aflag := [], opa := [], opb := [], pass := none, groups := [] }

/-! ### Regions (R89, R151, R162, R174-R192, R144-R149) -/

/-- What a region does (R149, R172, R244, R404). -/
inductive DrainWhy where
  | commit
  | implicit
  | endRow
  | reconf (x : Nat)
  deriving DecidableEq, Repr

inductive RMode where
  | free                 -- no load
  | ready                -- placed, waiting for its start pulse
  | run
  | drain (why : DrainWhy)
  | boundary             -- at a tile-task boundary
  | switching (x : Nat)  -- RECONF issued and window closed
  | stopped (why : DrainWhy)           -- at a poisoned window (R146), at the close that `why` names
  | gated (cause : Nat) (was : RMode)  -- clock gate (R149); a scan freeze is cause 3
  | spent                -- its load has failed: what closed windows released still leaves, and the load ends (R149)
  deriving DecidableEq, Repr

/-- A sample of `fragout` (R319). -/
structure Sample where
  pixel : BitVec 24
  value : W32
  seq : W32
  owner : Nat             -- the load that emitted it (R322)
  die : Nat               -- once released, the owner die that its ownership entry named then (R320)
  deriving DecidableEq, Repr

/-- Buffered egress (R144, R191, R203). -/
inductive EgrKind where
  | stage (port : Nat) (data : List W32) (poison : W32)
  | scratch (bytes : List (Nat × Byte × Bool))   -- canonical physical addresses; a byte and its poison
  | frag (port : Nat) (sm : Sample)
  deriving DecidableEq, Repr

structure Egress where
  iter : Option Int       -- iteration it belongs to, inside a loop span
  settled : Bool
  kind : EgrKind
  deriving DecidableEq, Repr

/-- What lands when a result's cycle comes (R116, R187, R295, R301, R329). -/
inductive Land where
  | vreg (n : Nat) (act : W32) (vals : List W32) (poison : W32)
  | sreg (n : Nat) (val : W32) (poison : Bool)
  | mreg (n : Nat) (act val poison : W32)
  | plane (n : Nat) (rows : W32) (sites : List W16) (poison : List W32)
  | quiet (b : Bool)
  | kbsel (n : BitVec 2)
  | clrst
  | exitf (iter : Option Int)
  | link (el : Nat) (slot : Nat) (vals : List W32) (poison : W32)
  | egress (e : Egress)
  | feed (tile : Nat) (isB : Bool) (slots : List (Nat × OpSlot))
  | scales (tile : Nat) (isB : Bool) (vals : List (Nat × (W32 × W32 × Bool × Bool)))  -- slot, SC, SS, writes SS, SP
  | accw (tile : Nat) (vals : List (Nat × (W32 × Bool)))
  | aclr (tile : Nat) (ctl : BitVec 5)
  | pal (port : Nat) (vals : List (Nat × W32))
  | sread (dst : EDst) (size : Nat) (sgn : Bool) (act poison : W32) (lanes : List (Option Nat))  -- a scratchpad load before its bank read
  | nothing
  deriving DecidableEq, Repr

/-- A result in flight, with the flags and the element fault that come with it (R120, R143). -/
structure Flight where
  due : Nat
  el : Nat
  entry : Nat
  what : Land
  flags : BitVec 5
  fault : Option (Nat × Nat)   -- ECAUSE, lane
  deriving DecidableEq, Repr

/-- The first element fault of a window (R146, R147). -/
structure FirstFault where
  cycle : Nat
  el : Nat
  lane : Nat
  entry : Nat
  cause : Nat
  deriving DecidableEq, Repr

/-- A loop span (R177-R182). -/
structure Span where
  row : Nat               -- index of the LOOP row
  hdr : RowHdr            -- the header in force: the LOOP row's or the current EPIL row's
  base : Nat              -- issue cycle field of the LOOP row
  ii : Nat
  count : Nat
  endl : Nat              -- index of the ENDL row
  v : Nat                 -- interval count V
  stopped : Bool          -- admission has stopped
  exited : Bool
  exitMin : Option Int    -- lowest iteration whose exitf set REXIT
  e : Int                 -- exiting iteration E, once exited
  boundary : Bool         -- an interval boundary has come since admission stopped, or since the EPIL row in force issued
  epil : Nat              -- index of the ENDL or EPIL row that issued last; 0 before the ENDL
  since : Nat             -- unheld cycles since that row issued
  deriving DecidableEq, Repr

/-- A port queue entry: 64 bytes and 16 poison bits (R162). -/
structure PEntry where
  data : List Byte
  poison : W16
  deriving DecidableEq, Repr

/-- Port bindings (R191, R237). -/
inductive PBind where
  | unbound
  | stream (agu : Nat)
  | input (sqd : W64)
  | output (sqd : W64)
  deriving DecidableEq, Repr

/-- What is left to do in the current region cycle. -/
inductive Work where
  | land                  -- results that are due land, one at a time
  | groups                -- matrix groups that are due land
  | rows                  -- which rows are due
  | row (ix : Nat)
  | drainCheck            -- a drain wait ends where nothing is in flight
  | snapshots             -- matrix groups that are due are snapshotted
  | words                 -- hold conditions, then the words of the broadcast
  | word (el entry tag : Nat) (iter : Option Int) (null : Bool)
  | endCycle
  deriving DecidableEq, Repr

/-- What a BARRIER or WAITQ row waits for (R184, R185). -/
inductive Wait where
  | barrier (ports : List Nat) (runs : List (Nat × Nat))   -- the streams (AGU, run) that were queued or running
  | queue (port : Nat)
  deriving DecidableEq, Repr

/-- A detected cause and how many fabric cycles still run (R149). -/
structure Freeze where
  cause : Nat
  left : Nat
  stop : Nat              -- the stopping cycle, in region cycles
  also : Option Nat       -- a cause that ends the load, met while a scan freeze was due (R149; log 78)
  deriving DecidableEq, Repr

/-- The region registers of R89. -/
structure GRegs where
  gext : W16
  gbnd : Byte
  gfixn : W16
  gfixe : W16
  gfixs : W16
  gfixw : W16
  fpten : BitVec 2
  rexit : Bool
  deriving DecidableEq, Repr

def GRegs.reset : GRegs := ⟨0, 0, 0, 0, 0, 0, 0, false⟩

/-- A commit window (R144, R146): where it opened, what each location held then, and what it has gathered. -/
structure Window where
  row : Nat
  elapsed : Nat
  elems : SMap Elem
  tiles : SMap Tile
  gregs : GRegs
  ports : SMap (List PEntry)
  planes : SMap (List Nat)   -- planes written, per element
  accs : SMap (List Nat)     -- accumulators written, per tile
  log : List Byte
  logLen : Nat
  fault : Option FirstFault
  deriving DecidableEq, Repr

def Window.reset : Window :=
  { row := 0, elapsed := 0, elems := [], tiles := [], gregs := GRegs.reset, ports := [], planes := [], accs := [],
    log := [], logLen := 0, fault := none }

/-- One region, named by its origin tile. -/
structure Region where
  mode : RMode
  load : Nat
  sup : Nat               -- the supervising core (R17)
  ctx : BitVec 12         -- the context of its load
  idx : Nat
  w : Nat
  h : Nat
  gr : GRegs
  rows : List W64
  rowix : Nat
  relapsed : Nat
  modc : Nat
  itern : Nat
  rc : Nat                -- region cycles since the start pulse of the load
  beat : Nat              -- the cycle of its die that it is in (log 98)
  touched : List (Nat × Nat) -- scratchpad lines that its words reach in a cycle, each with the element (R273)
  touchedAt : Nat         -- that cycle of its die
  lstart : W64
  switched : Bool         -- between an in-place switch and the next start pulse (R233)
  started : Bool          -- row 0 of the tile-task has issued
  step : Option (RowHdr × Nat)  -- the STEP row that issued in this cycle, with its phase
  waits : List Wait       -- BARRIER and WAITQ rows that issued and still hold
  settle : Bool           -- a FORM row is settling
  formReq : Bool          -- a pre-emption request came while it settled (R172)
  span : Option Span
  ports : SMap (List PEntry)
  binds : SMap PBind
  pkrem : SMap W16
  pal : SMap W32
  lq8 : SMap W16
  work : List Work
  saved : List Work       -- work set aside by a drain wait
  closed : Bool           -- an implicit close has come in this cycle
  held : Bool             -- the last cycle was held: its broadcast is repeated
  flight : List Flight
  egress : List Egress    -- the commit buffer, in issue order
  released : List Egress  -- released egress that has not left the buffer
  win : Window
  replay : Nat
  freeze : Option Freeze
  awaitScan : Bool        -- gated, its load has ended, tiles reserved until a scan release (R150)
  scanFreed : Bool        -- a scan release has come while its load's end still waits (R150)
  deriving DecidableEq, Repr

def Region.reset : Region :=
  { mode := .free, load := 0, sup := 0, ctx := 0, idx := 0, w := 0, h := 0, gr := GRegs.reset, rows := [], rowix := 0, relapsed := 0,
    modc := 0, itern := 0, rc := 0, beat := 0, touched := [], touchedAt := 0, lstart := 0, switched := false, started := false, step := none, waits := [], settle := false, formReq := false,
    span := none, ports := [], binds := [], pkrem := [], pal := [], lq8 := [], work := [], saved := [], closed := false, held := false,
    flight := [], egress := [], released := [], win := Window.reset, replay := 0, freeze := none, awaitScan := false, scanFreed := false }

/-- The element word being executed: its region, element, context entry, iteration (R115, R134, R180). -/
structure Site where
  g : Nat
  el : Nat
  entry : Nat
  tag : Nat
  iter : Option Int
  squashed : Bool
  null : Bool             -- nullified by a condition its row does not cover (R176)
  deriving DecidableEq, Repr

def Site.reset : Site := ⟨0, 0, 0, 0, none, false, false⟩

/-- A shadow window slot (R226). -/
structure Shadow where
  winb : W64
  tgtb : W64
  idxa : W64
  npos : Nat
  wide : Bool
  esize : Nat             -- R70 code
  deriving DecidableEq, Repr

def Shadow.reset : Shadow := ⟨0, 0, 0, 0, false, 0⟩

/-! ### Streams (R194, R195) -/

inductive AguSt where
  | idle | bound | queued | running | stalled
  deriving DecidableEq, Repr

/-- One AGU. -/
structure Agu where
  attach : Option (Nat × Nat)   -- load and region it is attached to
  ctx : BitVec 12
  aword : BitVec 128
  args : List W32
  st : AguSt
  run : Nat                     -- tells the streams of one AGU apart
  issuer : Nat
  user : Bool
  place : Nat                   -- place in its port's queue, 0 first
  i0 : Nat
  i1 : Nat
  i2 : Nat
  shadow : Shadow
  partialFlag : Bool
  spilled : Nat
  count : Nat                   -- COMPACT: elements delivered
  entries : Nat                 -- port entries formed
  bytes : List Byte             -- element bytes waiting to fill a port entry, or taken from one
  poison : List Bool            -- their poison
  acc : List W32                -- a reduction's running element
  accBad : Bool                 -- a poisoned element has entered it
  done : Bool                   -- every element has been accessed
  closed : Bool                 -- the closing entry or token has been delivered
  row : List (W32 × W32)        -- KEYED-REDUCE: pairs of the current row still to apply
  rowOver : Bool                   -- KEYED-REDUCE: overflowed_in_row
  span : Option (Nat × Bool)    -- as a core's (R376)
  failVa : Nat                  -- the address its translation failed at (R213)
  miss : Bool                   -- the residue check of its next INT-MAC element will not match (R51, R201)
  deriving DecidableEq, Repr

def Agu.reset : Agu :=
  { attach := none, ctx := 0, aword := 0, args := [], st := .idle, run := 0, issuer := 0, user := false, place := 0, i0 := 0, i1 := 0,
    i2 := 0, shadow := Shadow.reset, partialFlag := false, spilled := 0, count := 0, entries := 0, bytes := [], poison := [],
    acc := [], accBad := false,
    done := false, closed := false, row := [], rowOver := false, span := none, failVa := 0, miss := false }

/-! ### Launches and loads (R165, R166, R235-R240) -/

/-- A port entry of a region descriptor (R237). -/
structure PortDesc where
  kind : Nat
  side : Nat
  agu : Nat
  sq : Nat
  deriving DecidableEq, Repr

/-- A region entry of a fabric-load descriptor (R237). -/
structure RegionDesc where
  w : Nat
  h : Nat
  dx : Nat
  dy : Nat
  gr : GRegs
  soport : Nat
  rows : Nat
  nrows : Nat
  nctx : Nat
  nrule : Nat
  ctxrec : Nat
  kbank : Nat
  palimg : Nat
  rulerec : Nat
  ports : List PortDesc
  somap : Nat
  deriving DecidableEq, Repr

/-- A fabric-load descriptor (R236). -/
structure LoadDesc where
  ttcount : Nat
  fragseq : W32
  fsbind : Byte
  sqds : List Nat
  regions : List RegionDesc
  deriving DecidableEq, Repr

def LoadDesc.none : LoadDesc := ⟨0, 0, 0, [], []⟩

/-- A launch record (R165). -/
structure Record where
  gd : W64
  args : W64
  ctx : BitVec 12
  gen : BitVec 8
  prio : BitVec 3
  mask : BitVec 8
  dep : Bool
  dphase : BitVec 12
  dthresh : W32
  cw : W64
  tag : W32
  clean : Bool          -- every reserved field is 0
  deriving DecidableEq, Repr

/-- A launch that has been taken and has not ended (R240). -/
structure Launch where
  live : Bool
  queue : Nat
  record : Record
  level : Nat
  nload : Nat
  nstage : Nat
  quantum : Nat
  entry : List Nat        -- entry load of each stage
  ended : List Nat        -- stages that have ended
  pushes : SMap (List W64) -- SQDs each stage pushes into (R240)
  fail : Nat              -- status of the first load that failed; 0 none
  failAt : W64            -- the cycle of that failure
  table : List Nat        -- the addresses of the graph's fabric-load descriptors, as the take read them (R238)
  descs : List (Nat × LoadDesc) -- the descriptors of its entry loads, by their index, as the take read them (R238)
  deriving DecidableEq, Repr

def Record.reset : Record := ⟨0, 0, 0, 0, 0, 0, false, 0, 0, 0, 0, true⟩

def Launch.reset : Launch := ⟨false, 0, Record.reset, 0, 0, 0, 0, [], [], [], 0, 0, [], []⟩

/-- Where a load stands. -/
inductive LoadSt where
  | pending
  | resident
  | ended
  deriving DecidableEq, Repr

/-- A fabric load (R236, R240). -/
structure Load where
  st : LoadSt
  serial : Nat            -- the MODEL's own: tells placements apart
  launch : Nat
  stage : Nat
  x : Nat                 -- index in the GD
  fld : W64
  desc : LoadDesc         -- its descriptor, as the take or the switch read it (R238)
  die : Nat
  regions : List Nat      -- origin tiles
  ttcount : Nat
  ttrun : Nat
  fragseq : W32
  level : Nat
  sqds : List W64
  image : Option Nat      -- physical address of the pre-emption image to resume from
  imageLen : Nat          -- bytes of the image
  plain : List Byte       -- what the image decrypts to (R381)
  imageKey : Bool         -- its key has not been erased
  genAt : BitVec 8        -- generation of the context when the image was written
  reqPreempt : Bool
  stop : Nat              -- end with this status at the next boundary; 0 none
  placedAt : W64
  fs : List Nat           -- factor stores bound
  since : W64             -- when it joined the list of pending loads
  inputSince : Option W64 -- when its input became non-empty; none while every input queue is empty (R170)
  counted : Bool          -- the tile-task whose boundary its regions stand at has been counted
  fresh : Bool            -- the start pulse of its placement, switch or resumption is still to come
  saved : List (Nat × Agu)   -- its streams, while it is pre-empted (R195)
  out : List (List Egress)   -- released egress of its regions that had not left the buffer when it was pre-empted
  lost : Option Nat       -- the package that the dispatcher's reads for it waited for, once it has become unreachable (R376)
  sqdBad : Bool           -- a soft error of an input queue's descriptor has been reported (R50)
  deriving DecidableEq, Repr

def Load.reset : Load :=
  { st := .ended, serial := 0, launch := 0, stage := 0, x := 0, fld := 0, desc := LoadDesc.none, die := 0, regions := [], ttcount := 0, ttrun := 0,
    fragseq := 0, level := 0, sqds := [], image := none, imageLen := 0, plain := [], imageKey := true, genAt := 0, reqPreempt := false, stop := 0,
    placedAt := 0, fs := [], since := 0, inputSince := none, counted := false, fresh := false, saved := [], out := [], lost := none, sqdBad := false }

/-- A work queue: its QCB (R163), how often it was raised and when its records became visible (R20). -/
structure Queue where
  ring : W64              -- bytes 0-7: base [55:6], size code [5:0]
  en : Bool
  dev : Bool
  irq : Bool
  ctx : BitVec 12
  headix : W32
  tailix : W32
  dberr : Bool
  raises : Nat            -- raises of the level since the record at the head came there
  waited : Nat            -- fabric cycles the head has been ready and not taken since it became ready or was raised (R20)
  ages : List (W32 × W64) -- TAILIX after each append or doorbell, and GCYC then, oldest first
  lost : Option Nat       -- as a load's, for the reads of its head record and of what that names
  deriving DecidableEq, Repr

def Queue.reset : Queue := ⟨0, false, false, false, 0, 0, 0, false, 0, 0, [], none⟩

/-- A context: CTXCTL (R169), TRT entry (R206). -/
structure Ctx where
  save : W64
  gen : BitVec 8
  busy : Bool
  root : W64              -- bytes 0-7 of the TRT entry
  btd : W64               -- bytes 8-15
  deriving DecidableEq, Repr

def Ctx.reset : Ctx := ⟨0, 0, false, 0, 0⟩

/-- An access that waits for a span link (R376), or behind one that does (R374): a write of the dispatcher in a context, with the queue
whose interrupt follows it; at a physical address a write of an Ethernet port, or a write or a read of the host. -/
structure LateWrite where
  ctx : Option Nat
  va : Nat
  bytes : List Byte
  queue : Option Nat
  host : Bool
  size : Nat                    -- bytes that a read of the host wants; 0 for a write
  deriving DecidableEq, Repr

/-- A migration in progress (R222, R224). -/
structure Migr where
  ctx : BitVec 12
  blk : Nat
  promote : Bool
  form : Nat                    -- 0 raw, 1 lossless, 2 lossy
  bf16 : Bool
  post : Option Nat             -- phase
  deriving DecidableEq, Repr

/-! ### Near-memory units, stack controllers, factor stores (R338, R259, R356) -/

/-- A command packet as it was sent, with the mode and the core that issued it and the status word's physical address (R74, R340). -/
structure Packet where
  bytes : List Byte
  core : Nat
  user : Bool
  status : Option Nat           -- its physical address, where it names one
  posted : Nat × List (Nat × Nat)  -- the context in which that was translated, and the pages: their number and their bits (R214)
  leaves : List (Nat × Nat)     -- the pages of any size that its translations so far used: their number and their bits (R214)
  id : Nat                      -- tells commands apart
  deriving DecidableEq, Repr

/-- A near-memory unit; `image` is the image of the last `nmload`, none while it holds the standard firmware. -/
structure Nmu where
  image : Option (List (BitVec 128) × List W32)
  next : Option (List (BitVec 128) × List W32)   -- an image that waits for the running command (R258)
  queue : List Packet
  cmd : Option Packet
  ops : List Nat                -- physical addresses of OP0-OP2 of the running command; 0 none
  x : SMap W32                  -- lane l of x(n): 16n + l
  rdr : SMap W32
  wbuf : SMap W32
  aga : W32
  agb : W32
  lc : SMap W16
  zn : BitVec 2
  rpred : SMap (BitVec 4)
  wraps : SMap Int              -- wraps of each lane since its check was opened (R51)
  rmiss : Bool
  miss : Option Nat             -- the row of a standard IMAC whose residue check will not match (R51, R351)
  upc : BitVec 8
  wcount : BitVec 24
  deriving DecidableEq, Repr

def Nmu.reset : Nmu :=
  { image := none, next := none, queue := [], cmd := none, ops := [], x := [], rdr := [], wbuf := [], aga := 0, agb := 0, lc := [],
    zn := 0, rpred := [], wraps := [], rmiss := false, miss := none, upc := 0, wcount := 0 }

/-- A subarray table slot (R259). -/
structure SubTable where
  v : Bool
  ctx : BitVec 12
  wideIdx : Bool
  wideRes : Bool
  entries : List W16
  deriving DecidableEq, Repr

def SubTable.reset : SubTable := ⟨false, 0, false, false, []⟩

/-- A stack controller: the table commands it holds, and its tables. -/
structure StackCtl where
  queue : List Packet
  tables : SMap SubTable
  deriving DecidableEq, Repr

def StackCtl.reset : StackCtl := ⟨[], []⟩

/-- A factor store (R356). Entry (i, j) of L is key i(i+1)/2 + j; of B, 8i + j. -/
structure FStore where
  n : Nat
  l : SMap W32
  b : SMap W32
  eps : W32
  flag : BitVec 5
  own : BitVec 13
  bound : Option Nat            -- the binding load
  busy : Option Nat             -- the core whose accepted word goes on waiting for its operand (R362)
  due : Bool                    -- to be cleared once that word has completed (R373)
  deriving DecidableEq, Repr

def FStore.reset : FStore := ⟨0, [], [], 0, 0, 0, none, none, false⟩

/-- A TLB entry (R211): party (a core, or 1000 + an AGU), context, page base, page size as a power of two, and the leaf. -/
structure TlbEntry where
  who : Nat
  ctx : Nat
  page : Nat
  bits : Nat
  pte : W64
  deriving DecidableEq, Repr

/-! ### The package (R376-R385) -/

structure Package where
  power : Bool
  bootStep : Nat                -- steps of R378 that are done, 0-6
  bootStatus : List Byte        -- boot status bytes written, newest first
  recovery : Bool
  flashOk : Bool                -- flash holds a whole firmware image
  fwVersion : Nat
  record : ConfigRecord
  nextRecord : Option ConfigRecord
  keyErased : Bool
  scanLocked : Bool             -- an alarm has erased the key store since power-on (R383)
  alarm : Nat                   -- source of the last alarm; 0 none
  alarmAt : W64                 -- the cycle of that alarm
  alarmOn : List Nat            -- the supervisors on which the alarms of that cycle raised their cause
  haltFs : Bool                 -- factor stores halted (R373)
  fabricOff : Bool              -- after an alarm, until core reset (R382)
  dies : BitVec 8
  tiles : List Nat              -- 8 maps of 128 bits
  spare : List Nat              -- spare tiles standing in, per die
  pkgCount : Nat                -- packages of the load-store domain
  ownPkg : Nat
  unreachable : List Nat
  linkDown : List Nat
  width : SMap Nat              -- width of a link that a change has set
  freq : SMap Nat               -- how far a die runs below its record's CLK
  pendWidth : SMap (Option Nat) -- changes that wait for boundaries (R384)
  pendFreq : SMap (Option Nat)
  settling : List Nat           -- links whose reduced width is not stable yet (R384)
  cap : Nat
  deriving DecidableEq, Repr

def ConfigRecord.none : ConfigRecord := ⟨0, [], [], 0, [], 0, []⟩

/-- Before bring-up: powered, no step done, nothing present (R378, R248). -/
def Package.reset : Package :=
  { power := true, bootStep := 0, bootStatus := [], recovery := false, flashOk := true, fwVersion := 0,
    record := ConfigRecord.none, nextRecord := none, keyErased := false, scanLocked := false, alarm := 0, alarmAt := 0, alarmOn := [], haltFs := false, fabricOff := false,
    dies := 0, tiles := [], spare := [], pkgCount := 1, ownPkg := 0, unreachable := [], linkDown := [], width := [],
    freq := [], pendWidth := [], pendFreq := [], settling := [], cap := 2400 }

/-! ### The whole machine -/

structure State where
  agenda : List Turn            -- the MODEL's own: which agents move next (log 1)
  tick : Nat                    -- the MODEL's own: counter of free values (log 8)
  cur : Nat                     -- the MODEL's own: the core whose word is executing
  unit : Nat                    -- the MODEL's own: the near-memory unit whose word is executing
  ir : W32                      -- the MODEL's own: the C-word that is executing (TVAL of R141 shows it)
  serial : Nat                  -- the MODEL's own: placements so far
  site : Site                   -- the MODEL's own: the element word that is executing
  cores : SMap Core
  elems : SMap Elem
  tiles : SMap Tile
  regions : SMap Region
  loads : SMap Load
  launches : SMap Launch
  queues : SMap Queue
  ctxs : SMap Ctx
  shadows : SMap Shadow         -- slot w of context c: 64c + w
  phases : SMap Phase
  copies : SMap (Option Copy)
  agus : SMap Agu               -- AGU i of MD(d): 64d + i
  migrs : SMap (Option Migr)
  cold : SMap (List Byte)       -- values a compressed cold slot restores to, by its address (R225)
  nmus : SMap Nmu               -- unit c of KS(s): 64s + c
  kstacks : SMap StackCtl
  fstores : SMap FStore
  mem : SMap Byte               -- canonical physical addresses
  resid : SMap (Option (BitVec 4))  -- metadata of the stack words where it is not the word's residue, by cell address / 4 (R50)
  lags : List Lag               -- oldest first
  late : List LateWrite         -- oldest first
  gone : Option Nat             -- the MODEL's own: the package whose bytes read 0xFF to the dispatcher's reads that waited for it (R376)
  fed : SMap (Option W64)       -- when a push made a stage queue non-empty, by the cell of its SQD (R170)
  tlb : List TlbEntry
  own : SMap W32                -- ownership entries (R255)
  otctx : BitVec 13             -- [12] OTV, [11:0] OTCTX
  nextseq : SMap W32
  windows : SMap (List Sample)  -- samples waiting in a tile's reorder window
  exch : SMap (List Sample)     -- exchange queue from FD(a) to FD(b): 8a + b, oldest first
  perf : SMap W64               -- performance counters, by their number of R161; byte counts are held in bytes
  serrcnt : SMap W32
  serradr : SMap W64
  snapseq : W32
  snappend : Bool
  snapat : W64
  snapreg : SMap W64
  gcyc : W64
  irqs : List Nat               -- Ocica vectors raised, newest first
  hostIn : List (List Byte)     -- what the host's reads returned, newest first
  pkg : Package
  deriving DecidableEq, Repr

/-- Why a step can stop with a fault. -/
inductive Fault where
  /-- Raised by `step` when the turn names an agent the part does not have (R8, R10). Safe: the machine stops where
  the part has nothing that could move. -/
  | noSuchAgent
  deriving DecidableEq, Repr

/-- Why a step can be refused. -/
inductive Refusal where
  /-- Raised by `exec` for an instruction the model has no meaning for. Safe: the machine stops. -/
  | notModelled (mnemonic : String)
  deriving DecidableEq, Repr

/-- The machine right after power-on reset, before bring-up (R76, R378). -/
def State.reset : State :=
  { agenda := [], tick := 0, cur := 0, unit := 0, ir := 0, serial := 0, site := Site.reset, cores := [], elems := [], tiles := [], regions := [], loads := [],
    launches := [], queues := [], ctxs := [], shadows := [], phases := [], copies := [], agus := [], migrs := [], cold := [],
    nmus := [], kstacks := [], fstores := [], mem := [], resid := [], lags := [], late := [], gone := none, fed := [], tlb := [], own := [], otctx := 0, nextseq := [],
    windows := [], exch := [], perf := [], serrcnt := [], serradr := [], snapseq := 0, snappend := false, snapat := 0,
    snapreg := [], gcyc := 0, irqs := [], hostIn := [], pkg := Package.reset }

end Sys2Proof.Machine
end

