-- ==== Sys2Proof/Machine/Ops.lean ====
section
/-! DEFINITION. The named operations over registers and memory: accessors, the physical map (R266-R268), plain memory,
translation (R205-R212), spills and refills (R80-R86), taking a trap and returning from one (R136-R140). -/

namespace Sys2Proof

/-- The two registers of a pair (R284). -/
def PReg.lo : PReg → DReg
  | .g n => .g (BitVec.ofNat 4 (2 * n.toNat))
  | .w n => .w (BitVec.ofNat 5 (2 * n.toNat))
def PReg.hi : PReg → DReg
  | .g n => .g (BitVec.ofNat 4 (2 * n.toNat + 1))
  | .w n => .w (BitVec.ofNat 5 (2 * n.toNat + 1))

end Sys2Proof

namespace Sys2Proof.Machine

/-- The three outcomes of a step of this machine. -/
abbrev Out := Host.Outcome State Fault Refusal

/-- Results by state, in sequence. -/
def Out.then (o : Out) (f : State → Out) : Out :=
  match o with
  | .next s => f s
  | x => x

/-! ### Items by their number -/

def State.core (s : State) (n : Nat) : Core := SMap.get Core.reset s.cores n
def State.setCore (s : State) (n : Nat) (c : Core) : State := { s with cores := SMap.set Core.reset s.cores n c }
/-- The core whose word is executing. -/
def State.me (s : State) : Core := s.core s.cur
def State.setMe (s : State) (c : Core) : State := s.setCore s.cur c
def State.elem (s : State) (e : Nat) : Elem := SMap.get Elem.reset s.elems e
def State.setElem (s : State) (e : Nat) (x : Elem) : State := { s with elems := SMap.set Elem.reset s.elems e x }
def State.tile (s : State) (t : Nat) : Tile := SMap.get Tile.reset s.tiles t
def State.setTile (s : State) (t : Nat) (x : Tile) : State := { s with tiles := SMap.set Tile.reset s.tiles t x }
def State.region (s : State) (g : Nat) : Region := SMap.get Region.reset s.regions g
def State.setRegion (s : State) (g : Nat) (r : Region) : State := { s with regions := SMap.set Region.reset s.regions g r }
def State.load (s : State) (l : Nat) : Load := SMap.get Load.reset s.loads l
def State.setLoad (s : State) (l : Nat) (x : Load) : State := { s with loads := SMap.set Load.reset s.loads l x }
def State.launch (s : State) (l : Nat) : Launch := SMap.get Launch.reset s.launches l
def State.setLaunch (s : State) (l : Nat) (x : Launch) : State := { s with launches := SMap.set Launch.reset s.launches l x }
def State.queue (s : State) (q : Nat) : Queue := SMap.get Queue.reset s.queues q
def State.setQueue (s : State) (q : Nat) (x : Queue) : State := { s with queues := SMap.set Queue.reset s.queues q x }
def State.ctx (s : State) (c : Nat) : Ctx := SMap.get Ctx.reset s.ctxs c
def State.setCtx (s : State) (c : Nat) (x : Ctx) : State := { s with ctxs := SMap.set Ctx.reset s.ctxs c x }
def State.phase (s : State) (n : Nat) : Phase := SMap.get Phase.reset s.phases n
def State.setPhase (s : State) (n : Nat) (x : Phase) : State := { s with phases := SMap.set Phase.reset s.phases n x }
def State.agu (s : State) (a : Nat) : Agu := SMap.get Agu.reset s.agus a
def State.setAgu (s : State) (a : Nat) (x : Agu) : State := { s with agus := SMap.set Agu.reset s.agus a x }
def State.nmu (s : State) (u : Nat) : Nmu := SMap.get Nmu.reset s.nmus u
def State.setNmu (s : State) (u : Nat) (x : Nmu) : State := { s with nmus := SMap.set Nmu.reset s.nmus u x }
def State.stack (s : State) (k : Nat) : StackCtl := SMap.get StackCtl.reset s.kstacks k
def State.setStack (s : State) (k : Nat) (x : StackCtl) : State := { s with kstacks := SMap.set StackCtl.reset s.kstacks k x }
def State.fstore (s : State) (f : Nat) : FStore := SMap.get FStore.reset s.fstores f
def State.setFstore (s : State) (f : Nat) (x : FStore) : State := { s with fstores := SMap.set FStore.reset s.fstores f x }
def State.copy (s : State) (i : Nat) : Option Copy := SMap.get none s.copies i
def State.setCopy (s : State) (i : Nat) (x : Option Copy) : State := { s with copies := SMap.set none s.copies i x }

/-- A fresh value nothing constrains: `i` tells apart the values of one step (log 8). -/
def State.free (s : State) (i : Nat) : W32 := Config.freeWord s.tick i

/-- The first number from `k` on that `used` does not hold; `fuel` bounds the search. -/
def firstFree (used : Nat → Bool) : Nat → Nat → Nat
  | 0, k => k
  | fuel + 1, k => if used k then firstFree used fuel (k + 1) else k

/-! ### Counters of events (R151, R161) -/

/-- Counter `k` of R161 moves on by `n`. -/
def State.count (s : State) (k n : Nat) : State :=
  { s with perf := SMap.set 0 s.perf k (SMap.get 0 s.perf k + BitVec.ofNat 64 n) }

/-! ### Numbers and bytes -/

/-- The bytes of a number, lowest first (R3). -/
def leBytes : Nat → Nat → List Byte
  | 0, _ => []
  | n + 1, v => BitVec.ofNat 8 v :: leBytes n (v / 256)

/-- `n` in `w` bits read as a signed number. -/
def signedOf (w n : Nat) : Int := if n < 2 ^ (w - 1) then (n : Int) else (n : Int) - (2 ^ w : Nat)

/-- Bits lo to lo + n − 1 of a 64-bit value, as a number. -/
def bits64 (v : W64) (lo n : Nat) : Nat := fld v.toNat lo n

/-- A value within bits hi to lo of a register; every other bit reads 0 (R4, R78). -/
def keepBits (v : W64) (hi lo : Nat) : W64 := BitVec.ofNat 64 (fld v.toNat lo (hi + 1 - lo) * 2 ^ lo)

/-- Bit `i` of a number. -/
def bitOf (v i : Nat) : Bool := v / 2 ^ i % 2 == 1

/-- A number in bytes off to off + n − 1 of a list. -/
def leAt (bs : List Byte) (off n : Nat) : Nat := leNat ((bs.drop off).take n)

/-! ### The part that is present (R248) -/

def State.diePresent (s : State) (d : Nat) : Bool := decide (d < 8) && bitOf s.pkg.dies.toNat d

/-- Tile 16·ty + tx of die d is tile id 128·d + 16·ty + tx. -/
def State.tilePresent (s : State) (t : Nat) : Bool :=
  s.diePresent (t / 128) && bitOf ((s.pkg.tiles[t / 128]?).getD 0) (t % 128)

/-! ### Elements, tiles, regions by place (R10-R12) -/

/-- The tile of an element id. -/
def tileOfElem (e : Nat) : Nat := e / 2048 * 128 + e % 2048 / 256 * 16 + e % 64 / 4

/-- Element (ex, ey) of a tile. -/
def elemOfTile (t ex ey : Nat) : Nat := t / 128 * 2048 + (t % 128 / 16 * 4 + ey) * 64 + (t % 16 * 4 + ex)

/-- Whether the region named by its origin tile `g` covers tile `t`. -/
def Region.covers (r : Region) (g t : Nat) : Bool :=
  decide (t / 128 = g / 128) && decide (g % 16 ≤ t % 16) && decide (t % 16 < g % 16 + r.w)
    && decide (g % 128 / 16 ≤ t % 128 / 16) && decide (t % 128 / 16 < g % 128 / 16 + r.h)

/-- Whether a region holds its tiles: a load is on it, or a gate keeps it (R150). -/
def Region.holds (r : Region) : Bool := r.mode != .free

/-- The region that holds a tile. -/
def State.regionOfTile (s : State) (t : Nat) : Option Nat :=
  (s.regions.find? fun p => p.2.holds && p.2.covers p.1 t).map (·.1)

/-- The tiles of a region, by ty and then tx. -/
def Region.tileIds (r : Region) (g : Nat) : List Nat :=
  (List.range r.h).flatMap fun y => (List.range r.w).map fun x => g + 16 * y + x

/-- The elements of a region, by die y and then die x. -/
def Region.elemIds (r : Region) (g : Nat) : List Nat :=
  let e0 := elemOfTile g 0 0
  (List.range (4 * r.h)).flatMap fun y => (List.range (4 * r.w)).map fun x => e0 + 64 * y + x

/-- A region whose cycles go on. -/
def Region.running (r : Region) : Bool :=
  match r.mode with
  | .run => true
  | .drain _ => true
  | _ => false

/-- A region stopped at a poisoned window, gated, or stopped by the failure of its load (R146, R149). -/
def Region.isStopped (r : Region) : Bool :=
  match r.mode with
  | .stopped _ => true
  | .gated _ _ => true
  | .spent => true
  | _ => false

/-- A region stopped at a poisoned window or gated (R146, R149): its latches and its fabric memories can be reached (R150, R274). -/
def Region.frozen (r : Region) : Bool :=
  match r.mode with
  | .stopped _ => true
  | .gated _ _ => true
  | _ => false

/-- The core that supervises a region's load (R17). -/
def State.supOf (s : State) (g : Nat) : Nat := (s.region g).sup

/-! ### The physical map (R266-R268) -/

def stackBase : Nat := 0x10000000000
def lpBase : Nat := 0x20000000000
def portBase : Nat := 0x40000000000
def coreBase : Nat := 0x40800000000
def planeBase : Nat := 0x41000000000
def tileBase : Nat := 0x41800000000
def screenBase : Nat := 0x42000000000
def dispBase : Nat := 0x43000000000
def dispLimit : Nat := 0x430010200FF
def spanBase : Nat := 0x4000000000000
def hostBase : Nat := 0x8000000000000
def hostLimit : Nat := 0x8FFFFFFFFFFFF

/-- The bank-linear address of the cell at interleaved address `x` (R268). -/
def bankLinear (x : Nat) : Nat := stackBase + x / 256 % 16 * 2 ^ 36 + (x / 256 / 16 * 256 + x % 256)

/-- The one name of the plain-memory cell at a physical address; none where the address is unassigned (R267), a fabric
memory (R274) or the dispatcher window (R275). Both windows of stack memory name their cell by its bank-linear address. -/
def State.canon (s : State) (pa : Nat) : Option Nat :=
  if pa < stackBase then some (bankLinear pa)
  else if pa < portBase then some pa
  else if pa < coreBase then
    if (pa - portBase) / 2 ^ 28 < 8 ∧ (pa - portBase) % 2 ^ 28 < 0x6000000 then some pa else none
  else if pa < planeBase then if (pa - coreBase) / 2 ^ 19 < 128 then some pa else none
  else if screenBase ≤ pa ∧ pa < screenBase + 8 * 0x400000 then
    if s.diePresent ((pa - screenBase) / 0x400000) then some pa else none
  else if spanBase ≤ pa ∧ pa < hostBase then
    let p := (pa - spanBase) / 2 ^ 40
    if p < s.pkg.pkgCount then
      if p = s.pkg.ownPkg then some (bankLinear ((pa - spanBase) % 2 ^ 40))
      else if s.pkg.unreachable.contains p then none else some pa
    else none
  else if hostBase ≤ pa ∧ pa ≤ hostLimit then some pa
  else none

/-- Addresses of the fabric memories (R274). -/
def isFabric (pa : Nat) : Bool := decide (planeBase ≤ pa) && decide (pa < screenBase)

/-- Addresses of the dispatcher window (R275). -/
def isDisp (pa : Nat) : Bool := decide (dispBase ≤ pa) && decide (pa ≤ dispLimit)

/-- Cells of stack memory. -/
def isStackCell (a : Nat) : Bool := decide (stackBase ≤ a) && decide (a < lpBase)

/-- The K-stack of a stack cell. -/
def stackOf (a : Nat) : Nat := a / 2 ^ 36 % 16

/-- The near-memory unit of a stack cell: channel c of stack s is unit 64·s + c (R268). -/
def unitOf (a : Nat) : Nat := 64 * stackOf a + a / 32 % 64

/-- The memory-port die a cell lies behind; 8 for what lies beyond the package. -/
def portDieOf (a : Nat) : Nat :=
  if isStackCell a then stackOf a / 2
  else if a < portBase then (a - lpBase) / 2 ^ 38
  else if a < coreBase then (a - portBase) / 2 ^ 28
  else if a < planeBase then (a - coreBase) / 2 ^ 23
  else 8

/-- What a byte that nothing has written reads as (R265): 0; of the LP tier and of memory beyond the package nothing is
said (log 4, 5). -/
def memDefault (a : Nat) : Byte :=
  if a < lpBase then 0
  else if a < portBase then Config.lpByte a
  else if a < spanBase then 0
  else Config.foreignByte a

/-- The canonical form of memory: cells strictly rising, none equal to what an unlisted cell reads as. -/
def Memory.wf (m : SMap Byte) : Bool := SMap.wfBy memDefault m

def State.readCell (s : State) (a : Nat) : Byte := SMap.get (memDefault a) s.mem a

/-- One cell written. -/
def writeCell (m : SMap Byte) (a : Nat) (b : Byte) : SMap Byte := SMap.set (memDefault a) m a b

/-- The cells of `n` bytes from a physical address. -/
def State.cells (s : State) : Nat → Nat → Option (List Nat)
  | _, 0 => some []
  | pa, n + 1 =>
    match s.canon pa, s.cells (pa + 1) n with
    | some a, some as => some (a :: as)
    | _, _ => none

/-- The other package of the domain that a physical address is in, if it is reachable (R266, R376). -/
def State.remoteOf (s : State) (pa : Nat) : Option Nat :=
  let p := (pa - spanBase) / 2 ^ 40
  if spanBase ≤ pa ∧ pa < hostBase ∧ p < s.pkg.pkgCount ∧ p ≠ s.pkg.ownPkg ∧ !s.pkg.unreachable.contains p then some p else none

/-- The package of the span window that a physical address lies in. -/
def pkgAt (pa : Nat) : Option Nat := if spanBase ≤ pa ∧ pa < hostBase then some ((pa - spanBase) / 2 ^ 40) else none

/-- The package whose span link is down, so that an access of a physical address waits (R376). -/
def State.heldBy (s : State) (pa : Nat) : Option Nat :=
  match s.remoteOf pa with
  | some p => if s.pkg.linkDown.contains (Config.spanLink p) then some p else none
  | none => none

/-- The cells of an access that can be performed now. -/
def State.liveCells (s : State) (pa n : Nat) : Option (List Nat) := if (s.heldBy pa).isSome then none else s.cells pa n

def writeCells (m : SMap Byte) : List Nat → List Byte → SMap Byte
  | a :: as, b :: bs => writeCells (writeCell m a b) as bs
  | _, _ => m

/-! ### Residues of stack words (R50) -/

/-- The residue of a 32-bit word. -/
def residueOf (v : Nat) : BitVec 4 := BitVec.ofNat 4 (v % 15)

/-- The metadata of the words of these cells after the cells are written: a written word has its own residue (R50). -/
def clearBad (m : SMap (Option (BitVec 4))) : List Nat → SMap (Option (BitVec 4))
  | [] => m
  | a :: as => clearBad (SMap.erase m (a / 4)) as

def State.writeMem (s : State) (as : List Nat) (bs : List Byte) : State :=
  { s with mem := writeCells s.mem as bs, resid := clearBad s.resid as }

/-- Whether a cell lies in a stack word whose metadata is not its residue (R50). -/
def State.badCell (s : State) (a : Nat) : Bool := isStackCell a && (SMap.get none s.resid (a / 4)).isSome

/-- The first such cell. -/
def State.badAt (s : State) (as : List Nat) : Option Nat := as.find? s.badCell

/-- The physical addresses of `n` bytes. -/
def cellRun (pa n : Nat) : List Nat := (List.range n).map (pa + ·)

/-- Whether a physical address lies in such a word. -/
def State.badAddr (s : State) (pa : Nat) : Bool := (s.canon pa).elim false s.badCell

/-- The first of some physical addresses that lies in such a word. -/
def State.badPa (s : State) (pas : List Nat) : Option Nat := pas.find? s.badAddr

/-- The words without a matching residue that some physical addresses reach, each once. -/
def State.badWords (s : State) (pas : List Nat) : List Nat := ((pas.filter s.badAddr).map fun pa => pa / 4 * 4).dedup

/-- Stack word `w` comes to hold `v` with metadata `m`, by no write of the part (R50). -/
def State.upset (s : State) (w : Nat) (v : W32) (m : BitVec 4) : State :=
  if isStackCell (4 * w) then
    let t := s.writeMem (cellRun (4 * w) 4) (leBytes 4 v.toNat)
    { t with resid := SMap.set none t.resid w (if m = residueOf v.toNat then none else some m) }
  else s

/-- Whether byte `a` of a write of `n` bytes at `base` lies in a 32-bit word that the write covers only in part (R352). -/
def inPartWord (base n a : Nat) : Bool := decide (a / 4 * 4 < base) || decide (base + n < a / 4 * 4 + 4)

/-- `n` bytes at a physical address of plain memory; none where it cannot be reached now. -/
def State.physRead (s : State) (pa n : Nat) : Option (List Byte) :=
  (s.liveCells pa n).map fun as => as.map s.readCell

/-- The port scratchpad of a die holds a cell. -/
def inScratch (d a : Nat) : Bool := decide (portBase ≤ a) && decide (a < coreBase) && portDieOf a == d

/-- The counters of R161 that an access to plain memory moves on one memory-port die: granules of its scratchpad, and bytes of its
stacks read or written. -/
def State.countDie (s : State) (as : List Nat) (write : Bool) (d : Nat) : State :=
  let n := as.countP fun a => isStackCell a && portDieOf a == d
  let k := ((as.filter (inScratch d)).map (· / 16)).dedup.length
  let t := if n = 0 then s else s.count (0x200 + 16 * d + (if write then 2 else 1)) n
  if k = 0 then t else t.count (0x200 + 16 * d) k

/-- The counters of R161 of an access to plain memory. -/
def State.countMem (s : State) (as : List Nat) (write : Bool) : State :=
  (List.range 8).foldl (fun t d => t.countDie as write d) s

/-- A read of `n` bytes at a physical address, counted. -/
def State.countRead (s : State) (pa n : Nat) : State := s.countMem ((s.cells pa n).getD []) false

/-- Bytes stored at a physical address of plain memory. -/
def State.physWrite (s : State) (pa : Nat) (bs : List Byte) : Option State :=
  (s.liveCells pa bs.length).map fun as => (s.writeMem as bs).countMem as true

/-- A little-endian number of `n` bytes at a physical address. -/
def State.physNat (s : State) (pa n : Nat) : Option Nat := (s.physRead pa n).map leNat

/-! ### What the views of memory do not see yet (R93, R270, R289; log 95) -/

/-- The window of stack memory that a physical address lies in (R268); 0 for other memory. -/
def State.windowOf (s : State) (pa : Nat) : Nat :=
  if pa < stackBase then 1
  else if pa < lpBase then 2
  else if spanBase ≤ pa ∧ pa < hostBase ∧ (pa - spanBase) / 2 ^ 40 = s.pkg.ownPkg then 3
  else 0

def viewCopy : Nat := 4
def viewUnit : Nat := 5

/-- Core `n`'s fetch through window `w`. -/
def viewFetch (n w : Nat) : Nat := 16 + 4 * n + w

/-- Cells of the port and core scratchpads. -/
def isScratch (a : Nat) : Bool := decide (portBase ≤ a) && decide (a < planeBase)

def Lag.byteAt (l : Lag) (a : Nat) : Option Byte := (l.cells.find? fun p => p.1 == a).map (·.2)

/-- What view `v` still sees in a cell, where it lags there: its oldest byte. -/
def lagAt : List Lag → Nat → Nat → Option Byte
  | [], _, _ => none
  | l :: ls, v, a => if l.view = v ∧ (l.byteAt a).isSome then l.byteAt a else lagAt ls v a

/-- What an access sees in a cell whose path leads through these views, the outermost first. -/
def State.see (s : State) (vs : List Nat) (a : Nat) : Byte := (vs.findSome? fun v => lagAt s.lags v a).getD (s.readCell a)

/-- What it sees in some cells. -/
def State.sees (s : State) (vs as : List Nat) : List Byte := as.map (s.see vs)

/-- That oldest byte is replaced. -/
def putLag : List Lag → Nat → Nat → Byte → List Lag
  | [], _, _, _ => []
  | l :: ls, v, a, b =>
    if l.view = v ∧ (l.byteAt a).isSome then { l with cells := l.cells.map fun p => if p.1 = a then (a, b) else p } :: ls
    else l :: putLag ls v a b

/-- Bytes written through the views of a path. Where one of them lags, the write comes before those that it does not see; elsewhere it
comes last (R280). -/
def State.writeSeen (s : State) (vs : List Nat) : List Nat → List Byte → State
  | a :: as, b :: bs =>
    match vs.find? fun v => (lagAt s.lags v a).isSome with
    | some v => { s with lags := putLag s.lags v a b }.writeSeen vs as bs
    | none => (s.writeMem [a] [b]).writeSeen vs as bs
  | _, _ => s

/-- The lags of the outermost view of a path over some cells, one for each granule: it goes on seeing what it sees now. -/
def State.lagsOf (s : State) (vs as : List Nat) : List Lag :=
  match vs with
  | [] => []
  | v :: _ => ((as.map (· / 16)).dedup).map fun g => ⟨v, (as.filter (· / 16 == g)).map fun a => (a, s.see vs a)⟩

/-- Who writes: a core's word or spill, a copy, a stream, or a near-memory unit. -/
inductive Via where
  | core | copy | stream | unit
  deriving DecidableEq, Repr

/-- The path of an access through window `w`. -/
def Via.path (k : Via) (w : Nat) : List Nat :=
  match k with
  | .unit => if w = 2 then [viewUnit, 2] else [w]
  | .copy => if w = 0 then [viewCopy] else [w]
  | _ => if w = 0 then [] else [w]

/-- The path of a core's fetch through window `w`. -/
def fetchPath (n w : Nat) : List Nat := if w = 0 then [viewFetch n 0] else [viewFetch n w, w]

/-- The paths on which a write through window `w` need not be seen: the other windows (R270); of a core's store to a scratchpad, copies
(R289); of a copy or a stream to stack memory, near-memory units (R354). -/
def Via.behind (k : Via) (w : Nat) : List (List Nat) :=
  (if w = 0 then [] else (([1, 2, 3].filter (· ≠ w)).map ([·])))
    ++ (if k = .core ∧ w = 0 then [[viewCopy]] else [])
    ++ (if (k = .copy ∨ k = .stream) ∧ w ≠ 0 then [[viewUnit, 2]] else [])

/-- Lags that a write ends: a core's store comes before its later commands (R354), and a stream's write after the stores that its `sgo`
released (R197). -/
def Via.ends (k : Via) (w : Nat) (as : List Nat) (l : Lag) : Bool :=
  ((k = .core ∧ w = 2 ∧ l.view = viewUnit) ∨ (k = .stream ∧ w = 0 ∧ l.view = viewCopy))
    && l.cells.any fun p => as.any fun a => a / 16 == p.1 / 16

/-- A write of core `n`, or of its copy, stream or command, through window `w`: what it writes, and what need not see it yet; of the core's
fetches, those through every window (R93). -/
def State.put (s : State) (k : Via) (n w : Nat) (as : List Nat) (bs : List Byte) : State :=
  let t := s.writeSeen (k.path w) as bs
  let landed := as.filter fun a => (k.path w).all fun v => (lagAt s.lags v a).isNone
  let behind := (k.behind w).flatMap fun vs => s.lagsOf vs (if vs = [viewCopy] then landed.filter isScratch else landed)
  let fetches := (if w = 0 then [0] else [1, 2, 3]).flatMap fun o => s.lagsOf (fetchPath n o) as
  { t with lags := t.lags.filter (fun l => !k.ends w as l) ++ behind ++ fetches }

/-- Every view catches up on the granules of some cells. -/
def State.settle (s : State) (as : List Nat) : State :=
  { s with lags := s.lags.filter fun l => !l.cells.any fun p => as.any fun a => a / 16 == p.1 / 16 }

/-- The views that `p` names catch up on everything. -/
def State.sync (s : State) (p : Nat → Bool) : State := { s with lags := s.lags.filter fun l => !p l.view }

/-- A view catches up on the oldest write to a granule that it does not see, which lag `i` names. -/
def State.catchUp (s : State) (i : Nat) : State :=
  match s.lags[i]? with
  | some l =>
    let g := (l.cells.head?).map (·.1 / 16)
    { s with lags := s.lags.eraseP fun m => m.view == l.view && (m.cells.head?).map (·.1 / 16) == g }
  | none => s

/-- Bytes written at physical addresses, each through its window. -/
def State.putPas (s : State) (k : Via) (n : Nat) (pas : List Nat) (bs : List Byte) : State :=
  [0, 1, 2, 3].foldl (fun t w =>
    let ps := (pas.zip bs).filter fun p => s.windowOf p.1 == w
    t.put k n w (ps.map fun p => (s.canon p.1).getD 0) (ps.map (·.2))) s

/-- What an access sees at physical addresses, each through its window. -/
def State.seesPas (s : State) (k : Via) (pas : List Nat) : List Byte :=
  pas.map fun pa => s.see (k.path (s.windowOf pa)) ((s.canon pa).getD 0)

/-- When a stage queue with its SQD at a cell became non-empty, noted; none as a pop empties it (R170). -/
def State.noteFed (s : State) (a : Option Nat) (t : Option W64) : State :=
  match a with
  | some k => { s with fed := SMap.set none s.fed k t }
  | none => s

/-! ### Asynchronous causes (R136) and soft errors (R352) -/

/-- Raise an asynchronous cause on a core: a cause already pending keeps its first TVAL (R136). A supervision event
wakes an idle core (R111). -/
def State.pend (s : State) (n cause : Nat) (tval : W64) : State :=
  let c := s.core n
  let p := match SMap.get none c.pend cause with
    | none => SMap.set none c.pend cause (some tval)
    | some _ => c.pend
  let w := c.wake || (c.run == .idle && (cause == 0x100 || cause == 0x102))
  s.setCore n { c with pend := p, wake := w }

/-- The stack that a physical address of stack memory lies in. -/
def State.stackAt (s : State) (pa : Nat) : Nat := stackOf ((s.canon pa).getD 0)

/-- A soft error in stack `k` with an address (R352): its counters, and cause 0x0104 on a core. -/
def State.softErrorIn (s : State) (n k : Nat) (a : W64) : State :=
  let cnt := SMap.get 0 s.serrcnt k
  let s := { s with
    serrcnt := SMap.set 0 s.serrcnt k (if cnt = 0xFFFFFFFF then cnt else cnt + 1), serradr := SMap.set 0 s.serradr k a }
  (s.count (0x200 + 16 * (k / 2) + 7) 1).pend n 0x104 a

/-- A soft error of the stack word at a physical address. -/
def State.softError (s : State) (n pa : Nat) : State := s.softErrorIn n (s.stackAt pa) (BitVec.ofNat 64 (pa / 4 * 4))

/-- The supervisor of a memory-port die. -/
def svOf (md : Nat) : Nat := 128 + md

/-- Report the soft errors of the words that some physical addresses reach, on core `n` (R352). -/
def State.checkRead (s : State) (n : Nat) (pas : List Nat) : State := (s.badWords pas).foldl (fun t pa => t.softError n pa) s

/-- Soft errors that no core's access meets, on the supervisor of the stack's die (R352). -/
def State.checkMove (s : State) (pas : List Nat) : State :=
  (s.badWords pas).foldl (fun t pa => t.softError (svOf (t.stackAt pa / 2)) pa) s

/-! ### Translation (R205-R212) -/

/-- Which permission an access needs (R209). -/
inductive Acc where
  | load | store | fetch
  deriving DecidableEq, Repr

/-- A level of the walk (R205): the VA bit its index starts at, the bits of the index, and whether leaf and pointer are permitted. -/
structure WalkLevel where
  lo : Nat
  bits : Nat
  leaf : Bool
  ptrAlign : Nat      -- alignment of the table a pointer names; 0 at L0, where no pointer is permitted
  deriving DecidableEq, Repr

/-- L4 to L0. -/
def walkLevels : List WalkLevel :=
  [⟨46, 10, false, 8192⟩, ⟨36, 10, true, 512⟩, ⟨30, 6, true, 4096⟩, ⟨21, 9, true, 256⟩, ⟨16, 5, true, 0⟩]

/-- The ADDR field as an address (R207). -/
def pteAddr (e : Nat) : Nat := fld e 8 44 * 256

/-- R208's malformed entry, of an entry with V = 1. -/
def pteMalformed (lv : WalkLevel) (e : Nat) : Bool :=
  let leaf := bitOf e 1
  let cc := bitOf e 7
  let bs := bitOf e 5
  fld e 52 12 != 0
    || (if leaf then
          !lv.leaf || pteAddr e % 2 ^ lv.lo != 0
            || ((cc || bs) && !(decide (stackBase ≤ pteAddr e) && decide (pteAddr e + 2 ^ lv.lo ≤ lpBase)))
        else
          lv.ptrAlign == 0 || cc || bitOf e 6 || bs || bitOf e 4 || bitOf e 3 || bitOf e 2
            || pteAddr e % lv.ptrAlign != 0)

/-- The walk of R208 from table `t`: the leaf's entry and the size of its page as a power of two. An entry that cannot be
read, or whose residue does not match (R352), fails it. -/
def State.walkFrom (s : State) (va : Nat) : List WalkLevel → Nat → Option (Nat × Nat)
  | [], _ => none
  | lv :: rest, t =>
    match s.liveCells (t + 8 * fld va lv.lo lv.bits) 8 with
    | none => none
    | some as =>
      let e := leNat (as.map s.readCell)
      if (s.badAt as).isSome then none
      else if !bitOf e 0 || pteMalformed lv e then none
      else if bitOf e 1 then some (e, lv.lo)
      else s.walkFrom va rest (pteAddr e)

/-- The physical addresses of the entries that a walk from table `t` reads, in order; it ends at the last. -/
def State.walkPath (s : State) (va : Nat) : List WalkLevel → Nat → List Nat
  | [], _ => []
  | lv :: rest, t =>
    let pa := t + 8 * fld va lv.lo lv.bits
    pa :: match s.liveCells pa 8 with
      | none => []
      | some as =>
        let e := leNat (as.map s.readCell)
        if (s.badAt as).isSome || !bitOf e 0 || pteMalformed lv e || bitOf e 1 then [] else s.walkPath va rest (pteAddr e)

/-- The walk of an address in a context. -/
def State.walk (s : State) (c va : Nat) : Option (Nat × Nat) :=
  if va < 2 ^ 56 ∧ bitOf (s.ctx c).root.toNat 0 then s.walkFrom va walkLevels (bits64 (s.ctx c).root 13 39 * 8192) else none

/-- The leaf's permissions (R209). -/
def pteAllows (e : Nat) (user : Bool) (a : Acc) : Bool :=
  (match a with
    | .load => true
    | .store => bitOf e 2
    | .fetch => bitOf e 3) && (!user || bitOf e 4)

/-- The TLB entry of a party that covers an address (R211). -/
def State.tlbHit (s : State) (who c va : Nat) : Option TlbEntry :=
  s.tlb.find? fun t => t.who == who && t.ctx == c && t.page == va / 2 ^ t.bits

/-- The entries that a party's access of an address reads: none where its TLB covers it. -/
def State.walkOf (s : State) (who c va : Nat) : List Nat :=
  if (s.tlbHit who c va).isNone ∧ va < 2 ^ 56 ∧ bitOf (s.ctx c).root.toNat 0 then
    s.walkPath va walkLevels (bits64 (s.ctx c).root 13 39 * 8192)
  else []

/-- The words without a matching residue at which that walk ends. -/
def State.walkBad (s : State) (who c va : Nat) : List Nat :=
  match (s.walkOf who c va).getLast? with
  | some pa => s.badWords (cellRun pa 8)
  | none => []

/-- The package whose span link that walk waits for (R376). -/
def State.walkHeld (s : State) (who c va : Nat) : Option Nat := ((s.walkOf who c va).getLast?).bind s.heldBy

/-- The memory-port die whose counters show the TLB misses of a party: a core's own, MD(n − 128) for a supervisor (log 108), or an AGU's; 8
for the dispatcher. -/
def partyDie (who : Nat) : Nat :=
  if who < 128 then who / 16 else if who < 136 then who - 128 else if who < 2000 then (who - 1000) / 64 % 8 else 8

/-- The counters of R161 of a party's access of an address: where its TLB does not cover it, the miss and the stack bytes of the walk. -/
def State.countWalk (s : State) (who c va : Nat) : State :=
  if (s.tlbHit who c va).isSome ∨ 2 ^ 56 ≤ va then s
  else
    let t := (s.walkOf who c va).foldl (fun t pa => t.countRead pa 8) s
    if partyDie who < 8 then t.count (0x200 + 16 * partyDie who + 3) 1 else t

/-- The walk of a party's access is over: it is counted, and the soft errors at which it ended are reported on core `n`, as the party
whose access walked (R352). -/
def State.walkReport (s : State) (n who c va : Nat) : State :=
  (s.walkBad who c va).foldl (fun t pa => t.softError n pa) (s.countWalk who c va)

/-- The leaf an access uses: a covering TLB entry, else a walk (R211, R212). -/
def State.leafOf (s : State) (who c va : Nat) : Option (Nat × Nat) :=
  match s.tlbHit who c va with
  | some t => if va < 2 ^ 56 then some (t.pte.toNat, t.bits) else none
  | none => s.walk c va

/-- The physical address of an access; none where the walk or the permission fails (R211). -/
def State.translate (s : State) (who c : Nat) (user : Bool) (a : Acc) (va : Nat) : Option Nat :=
  match s.leafOf who c va with
  | some (e, b) => if pteAllows e user a then some (pteAddr e + va % 2 ^ b) else none
  | none => none

/-- Traffic between two dies is stalled: it crosses a link whose width has changed and that is not stable yet (R384). -/
def State.crossStalled (s : State) (a b : Nat) : Bool := s.pkg.settling.any fun k => a != b && Config.crosses a b k

/-- The die behind which a physical address lies; memory beyond the package is reached from die `d` itself. -/
def State.dieBehind (s : State) (d pa : Nat) : Nat := (s.canon pa).elim d fun a => if portDieOf a < 8 then 8 + portDieOf a else d

/-- Whether a core is in user mode. -/
def Core.user (c : Core) : Bool := !bitOf c.cstat.toNat 1

/-- Whether traps are enabled. -/
def Core.ten (c : Core) : Bool := bitOf c.cstat.toNat 0

/-- The context of a core: CTXID[11:0]. -/
def Core.ctx (c : Core) : Nat := bits64 (c.ctxid.setWidth 64) 0 12

/-- How many 64 KiB pages a range touches. -/
def pagesOf (va len : Nat) : Nat := (va + (len - 1)) / 65536 - va / 65536 + 1

/-- The pages of any size by which a party's translation covers a range: their number and their bits (R214). -/
def State.leavesOf (s : State) (who c va len : Nat) : List (Nat × Nat) :=
  ((List.range (pagesOf va len)).filterMap fun i =>
    let a := if i = 0 then va else (va / 65536 + i) * 65536
    (s.leafOf who c a).map fun l => (a / 2 ^ l.2, l.2)).dedup

/-- The translation of an access of core `n` (R211). -/
def State.coreVa (s : State) (n : Nat) (a : Acc) (va : Nat) : Option Nat :=
  s.translate n (s.core n).ctx (s.core n).user a va

/-- The physical addresses of `n` bytes that core accesses of kind `a` name. -/
def State.corePas (s : State) (a : Acc) (va n : Nat) : List Nat := (List.range n).filterMap fun i => s.coreVa s.cur a (va + i)

/-! ### Registers of a core (R55, R77, R94) -/

/-- The ring register that w`n` names. -/
def Core.ringIx (c : Core) (n : Nat) : Nat := (c.wbase.toNat + n) % 256

def Core.readG (c : Core) (n : Nat) : W64 := if n = 0 then 0 else SMap.get 0 c.g n
def Core.readRing (c : Core) (k : Nat) : W64 := SMap.get 0 c.ring k
def Core.readQ (c : Core) (q : QReg) : Bool := c.q.getLsbD q.toNat

/-- An integer source (R55). -/
def State.readS (s : State) : SReg → W64
  | .g n => s.me.readG n.toNat
  | .w n => s.me.readRing (s.me.ringIx n.toNat)
  | .pcw => s.me.pc
  | .core => BitVec.ofNat 64 s.cur
  | .cyc => s.me.cyc

/-- The value an integer destination holds (an atomic's third operand). -/
def Core.readD (c : Core) : DReg → W64
  | .g n => c.readG n.toNat
  | .w n => c.readRing (c.ringIx n.toNat)

/-- An integer destination written; a write to g0 is discarded (R94). -/
def Core.writeD (c : Core) (d : DReg) (v : W64) : Core :=
  match d with
  | .g n => if n = 0 then c else { c with g := SMap.set 0 c.g n.toNat v }
  | .w n => { c with ring := SMap.set 0 c.ring (c.ringIx n.toNat) v }

/-- A predicate written. -/
def Core.writeQ (c : Core) (q : QReg) (b : Bool) : Core :=
  { c with q := if b then c.q ||| (1#8 <<< q.toNat) else c.q &&& ~~~(1#8 <<< q.toNat) }

/-- The pc moves past a word of `n` bytes. -/
def Core.advance (c : Core) (n : Nat) : Core := { c with pc := c.pc + BitVec.ofNat 64 n }

/-- The executing core's word goes on waiting after it has begun to take effect (R91): it is not fetched again, and asynchronous causes are
held until it completes. -/
def State.begin (s : State) : State := s.setMe { s.me with begun := some s.ir }

/-- The executing core's access waits for a span link (R376). -/
def State.holdOn (s : State) (p : Nat) : State := s.setMe { s.me with span := some (p, false) }

/-- Whether the executing core's access was waiting when its package became unreachable (R376). -/
def Core.spanLost (c : Core) : Bool :=
  match c.span with
  | some (_, b) => b
  | none => false

/-- That access is over. -/
def State.unspan (s : State) : State := s.setMe { s.me with span := none }

/-- The word of `n` bytes is complete and changed no register. -/
def State.skip (s : State) (n : Nat) : State := s.setMe (s.me.advance n)

/-- The word of `n` bytes is complete and wrote an integer register. -/
def State.finish (s : State) (d : DReg) (v : W64) (n : Nat) : State := s.setMe ((s.me.writeD d v).advance n)

/-- The word of `n` bytes is complete and wrote a predicate. -/
def State.finishQ (s : State) (q : QReg) (b : Bool) (n : Nat) : State := s.setMe ((s.me.writeQ q b).advance n)

/-! ### Spills and refills (R80-R86) -/

/-- How a spill or a refill ends. -/
inductive Moved where
  | ok (s : State)
  | spillFault (s : State) (tval : W64)
  | noRecord (s : State)
  | held (s : State) (p : Nat)      -- it waits for the span link of a package (R376)
  deriving Repr

/-- What 8 bytes of a spill record reach: cells; nothing, their package having become unreachable while the access waited; a package
whose span link is down; or a fault. -/
inductive Reach where
  | there (pa : Nat) (as : List Nat)
  | lost
  | held (p : Nat)
  | fault
  deriving DecidableEq, Repr

/-- A supervisor's carve-out address under its boot mapping, for a spill or a refill (R16, R83; log 14). -/
def State.bootPa (s : State) (n : Nat) (a : Acc) (va : Nat) : Option Nat :=
  match Config.bootMap n (va / 65536) with
  | some (f, w, u) => if (w || a ≠ .store) && (u || !(s.core n).user) then some (stackBase + f.toNat * 65536 + va % 65536) else none
  | none => none

/-- Bytes `va` to `va + 7` of a spill record: through the boot mapping, or through the core's own address space. -/
def State.spillReach (s : State) (n c : Nat) (boot : Bool) (a : Acc) (va : Nat) : Reach :=
  match (if boot then s.bootPa n a va else s.translate n c (s.core n).user a va) with
  | none => if boot then .fault else (s.walkHeld n c va).elim .fault .held
  | some pa =>
    match s.liveCells pa 8 with
    | some as => .there pa as
    | none =>
      match s.heldBy pa with
      | some p => .held p
      | none => if (s.core n).spanLost then .lost else .fault

/-- The walks of a spill record's addresses, counted. -/
def State.spillWalk (s : State) (n c va : Nat) : State :=
  let t := s.countWalk n c va
  if va / 65536 = (va + 71) / 65536 then t else t.countWalk n c (va + 71)

/-- The same, and a bad residue at which one ends is reported (R352). -/
def State.spillReport (s : State) (n c va : Nat) : State :=
  let t := s.walkReport n n c va
  if va / 65536 = (va + 71) / 65536 then t else t.walkReport n n c (va + 71)

/-- A spill record's words written, eight bytes at a time; in an error, the package it waits for. -/
def State.spillStore (s : State) (n c : Nat) (boot : Bool) : Nat → List W64 → Except (Option Nat) State
  | _, [] => .ok s
  | va, v :: vs =>
    match s.spillReach n c boot .store va with
    | .held p => .error (some p)
    | .fault => .error none
    | .lost => s.spillStore n c boot (va + 8) vs
    | .there pa as =>
      match s.spillStore n c boot (va + 8) vs with
      | .ok t => .ok ((t.put .core n (s.windowOf pa) as (leBytes 8 v.toNat)).countMem as true)
      | e => e

/-- A spill record's words read, with the physical addresses that they were read at. -/
def State.spillLoad (s : State) (n c : Nat) (boot : Bool) : Nat → Nat → Except (Option Nat) (List W64 × List Nat)
  | _, 0 => .ok ([], [])
  | va, k + 1 =>
    match s.spillReach n c boot .load va with
    | .held p => .error (some p)
    | .fault => .error none
    | .lost => (s.spillLoad n c boot (va + 8) k).map fun r => (BitVec.allOnes 64 :: r.1, r.2)
    | .there pa as => (s.spillLoad n c boot (va + 8) k).map fun r =>
        (BitVec.ofNat 64 (leNat (s.sees (Via.core.path (s.windowOf pa)) as)) :: r.1, cellRun pa 8 ++ r.2)

/-- What a refill's read changes: its walks and stack bytes are counted, and its soft errors reported, as a load's (R83, R352). -/
def State.spillRead (s : State) (n c : Nat) (boot : Bool) (va : Nat) (pas : List Nat) : State :=
  (((if boot then s else s.spillReport n c va).checkRead n pas).countMem (pas.filterMap s.canon) false)

/-- Nine words stored by core `n` at consecutive physical addresses of its scratchpad. -/
def State.scratchStore (s : State) (n : Nat) : Nat → List W64 → Except (Option Nat) State
  | _, [] => .ok s
  | pa, v :: vs =>
    match s.liveCells pa 8 with
    | some as => ((s.put .core n 0 as (leBytes 8 v.toNat)).countMem as true).scratchStore n (pa + 8) vs
    | none => .error none

def State.scratchLoad (s : State) : Nat → Nat → Except (Option Nat) (List W64 × List Nat)
  | _, 0 => .ok ([], [])
  | pa, k + 1 =>
    match s.physNat pa 8 with
    | some v => (s.scratchLoad (pa + 8) k).map fun r => (BitVec.ofNat 64 v :: r.1, r.2)
    | none => .error none

/-- The group `k` of ring registers and its link slot, as a record's nine words (R83). -/
def Core.groupWords (c : Core) (k : Nat) : List W64 :=
  SMap.getRun 0 c.ring (8 * k) 8 ++ [SMap.get 0 c.link k]

/-- The number of the oldest resident group (R83). -/
def Core.oldest (c : Core) : Nat := (c.wbase.toNat + 256 - c.wfill.toNat) % 256 / 8

/-- Where the carve-out record of a core lies in memory: its own scratchpad, or a supervisor's boot mapping. -/
def isSup (n : Nat) : Bool := decide (128 ≤ n)

/-- The carve-out of a control core passes the end of its scratchpad (R85). -/
def Core.carvePast (c : Core) : Bool := decide (2 ^ 19 < c.splb.toNat + c.spll.toNat)

/-- The record address TVAL shows for a carve-out record of core `n` at `off` (R85). -/
def carveTval (n off : Nat) : W64 :=
  if isSup n then BitVec.ofNat 64 off else BitVec.ofNat 64 (coreBase + n * 2 ^ 19 + off)

/-- SPP and OVFP as registers hold them: reserved bits read 0 (R4, R78; log 96). -/
def sppOf (sup : Bool) (v : W64) : W64 := keepBits v (if sup then 55 else 18) 3
def ovfpOf (v : W64) : W64 := keepBits v 55 3

/-- One spill (R83, R85). With SPLL = 0 the test of R83 stands as written (log 96). -/
def State.spillOne (s : State) (n : Nat) : Moved :=
  let c := s.core n
  let ws := c.groupWords c.oldest
  if c.ovfn = 0 ∧ c.spp.toNat + 72 ≤ c.splb.toNat + c.spll.toNat then
    let done := if isSup n then s.spillStore n 0 true c.spp.toNat ws
      else if c.carvePast then .error none else s.scratchStore n (coreBase + n * 2 ^ 19 + c.spp.toNat) ws
    match done with
    | .ok t => .ok (t.setCore n { c with spp := sppOf (isSup n) (c.spp + 72), wfill := c.wfill - 8, span := none })
    | .error (some p) => .held s p
    | .error none => .spillFault s (carveTval n c.spp.toNat)
  else
    let done := if c.ovfp = 0 then .error none else s.spillStore n c.ctx false c.ovfp.toNat ws
    match done with
    | .ok t =>
      let u := t.spillWalk n c.ctx c.ovfp.toNat
      .ok (u.setCore n { c with ovfp := ovfpOf (c.ovfp + 72), ovfn := c.ovfn + 1, wfill := c.wfill - 8, span := none })
    | .error (some p) => .held s p
    | .error none => .spillFault (s.spillReport n c.ctx c.ovfp.toNat) c.ovfp

/-- Spill until WFILL ≤ `lim`; one ring holds at most 32 groups. -/
def State.spillTo (s : State) (n lim : Nat) : Nat → Moved
  | 0 => .ok s
  | k + 1 =>
    if (s.core n).wfill.toNat ≤ lim then .ok s
    else match s.spillOne n with
      | .ok t => t.spillTo n lim k
      | m => m

/-- The group that a refill fills (R84). -/
def Core.refillGroup (c : Core) : Nat := (c.wbase.toNat + 512 - c.wfill.toNat - 8) % 256 / 8

/-- A record's nine words put into a group and its link slot. -/
def Core.putGroup (c : Core) (k : Nat) (ws : List W64) : Core :=
  { c with ring := SMap.setRun 0 c.ring (8 * k) (ws.take 8), link := SMap.set 0 c.link k ((ws[8]?).getD 0) }

/-- One refill (R84, R85); no record lies in the carve-out where SPP < SPLB + 72 and OVFN = 0 (R82). -/
def State.refillOne (s : State) (n : Nat) : Moved :=
  let c := s.core n
  if c.ovfn ≠ 0 then
    let a := ovfpOf (c.ovfp - 72)
    match s.spillLoad n c.ctx false a.toNat 9 with
    | .ok (ws, pas) =>
      let t := s.spillRead n c.ctx false a.toNat pas
      .ok (t.setCore n { (t.core n).putGroup c.refillGroup ws with ovfp := a, ovfn := c.ovfn - 1, wfill := c.wfill + 8, span := none })
    | .error (some p) => .held s p
    | .error none => .spillFault (s.spillReport n c.ctx a.toNat) a
  else if c.spp.toNat < c.splb.toNat + 72 then .noRecord s
  else
    let a := sppOf (isSup n) (c.spp - 72)
    let got := if isSup n then s.spillLoad n 0 true a.toNat 9
      else if c.carvePast then .error none else s.scratchLoad (coreBase + n * 2 ^ 19 + a.toNat) 9
    match got with
    | .ok (ws, pas) =>
      let t := s.spillRead n 0 true a.toNat pas
      .ok (t.setCore n { (t.core n).putGroup c.refillGroup ws with spp := a, wfill := c.wfill + 8, span := none })
    | .error (some p) => .held s p
    | .error none => .spillFault s (carveTval n a.toNat)

/-- Refill until WFILL ≥ `lim`. -/
def State.refillTo (s : State) (n lim : Nat) : Nat → Moved
  | 0 => .ok s
  | k + 1 =>
    if lim ≤ (s.core n).wfill.toNat then .ok s
    else match s.refillOne n with
      | .ok t => t.refillTo n lim k
      | m => m

/-! ### Taking a trap (R136, R137, R140, R86) -/

/-- CSTAT from its two fields. -/
def cstatOf (priv ten : Bool) : W64 := BitVec.ofNat 64 (2 * priv.toNat + ten.toNat)

/-- Cause codes (R141). -/
def causeIllegal : Nat := 1
def causePrivileged : Nat := 2
def causeFetch : Nat := 3
def causeSpill : Nat := 4
def causeSoftware : Nat := 5
def causeAccess : Nat := 6
def causeMisaligned : Nat := 7
def causeConfig : Nat := 8
def causeStream : Nat := 9
def causeCommand : Nat := 10
def causeLostDef : Nat := 11

/-- A double fault (R140): the core stops with its registers as they stand, and the fault is escalated to the supervisor
of its die, or to the host. -/
def State.doubleFault (s : State) (n cause : Nat) : State :=
  let t := s.setCore n { s.core n with run := .frozen, await := none, begun := none, inval := none }
  if isSup n then { t with irqs := 2040 :: t.irqs }
  else t.pend (svOf (n / 16)) 0x103 (BitVec.ofNat 64 (n + 65536 * cause))

/-- Trap delivery (R137): the saved registers are written, traps are off, the mode is privileged, the window slides by 32
(R86), and the pc is at the handler. With it, whether the trap has been delivered: where a spill waits for a span link, the records
already moved stay moved, and the trap is still to be taken (R85, R376). -/
def State.deliverTo (s : State) (n cause : Nat) (tval epc : W64) : State × Bool :=
  let c := s.core n
  let s1 := s.setCore n { c with
    tstat := c.cstat, tepc := epc, tcause := BitVec.ofNat 64 (cause % 65536), tval := tval,
    cstat := cstatOf true false, run := .running, wake := false, await := none, begun := none, inval := none }
  match s1.spillTo n 192 33 with
  | .ok s2 =>
    let d := s2.core n
    (s2.setCore n { d with
      link := SMap.set 0 d.link ((d.wbase.toNat + 24) % 256 / 8) 0,
      wbase := d.wbase + 32, wfill := d.wfill + 32,
      pc := d.tvec &&& ~~~(3 : W64), span := none }, true)
  | .spillFault s2 _ => (s2.doubleFault n causeSpill, true)
  | .noRecord s2 => (s2, true)
  | .held s2 p =>
    (s2.setCore n { s2.core n with
      tstat := c.tstat, tepc := c.tepc, tcause := c.tcause, tval := c.tval, cstat := c.cstat, run := c.run, wake := c.wake,
      await := c.await, begun := c.begun, inval := c.inval, span := some (p, false) }, false)

/-- The state after a trap delivery. -/
def State.deliver (s : State) (n cause : Nat) (tval epc : W64) : State := (s.deliverTo n cause tval epc).1

/-- A synchronous trap of the executing core with TEPC `epc`; with TEN = 0 it is a double fault (R136). -/
def State.trapAt (s : State) (cause : Nat) (tval epc : W64) : State :=
  if s.me.ten then s.deliver s.cur cause tval epc else s.doubleFault s.cur cause

/-- A synchronous trap at the executing word. -/
def State.trap (s : State) (cause : Nat) (tval : W64) : State := s.trapAt cause tval s.me.pc

/-- The walks of an access of the executing core to `n` bytes that has been performed, counted. -/
def State.coreWalk (s : State) (va n : Nat) : State :=
  (List.range (pagesOf va n)).foldl
    (fun t i => t.countWalk t.cur t.me.ctx (if i = 0 then va else (va / 65536 + i) * 65536)) s

/-- The executing core's access of `va` has failed: a bad residue that its walk met is reported (R352). -/
def State.coreReport (s : State) (va : Nat) : State := s.walkReport s.cur s.cur s.me.ctx va

/-- A fault of the executing core's access at an address, after such a report. -/
def State.accessTrap (s : State) (cause va : Nat) : State :=
  (if cause = causeMisaligned then s else s.coreReport va).trap cause (BitVec.ofNat 64 va)

/-- The illegal-instruction trap of the executing word (R141). -/
def State.illegal (s : State) : State := s.trap causeIllegal (s.ir.setWidth 64)

/-- The privileged-instruction trap of the executing word. -/
def State.privileged (s : State) : State := s.trap causePrivileged (s.ir.setWidth 64)

/-! ### Returning from a trap (R138, R86) -/

/-- `tret`: refill until WFILL ≥ 32, slide back, restore CSTAT and the pc. -/
def State.trapReturn (s : State) : State :=
  match s.refillTo s.cur 32 5 with
  | .ok t =>
    let c := t.me
    t.setMe { c with wbase := c.wbase - 32, wfill := c.wfill - 32, cstat := c.tstat &&& 3, pc := c.tepc }
  | .spillFault t tval => t.trap causeSpill tval
  | .noRecord t => t.illegal
  | .held t p => t.holdOn p

/-! ### Tokens and phases (R152-R158) -/

/-- TOKCNT of token `i`. -/
def Core.tok (c : Core) (i : Nat) : Nat := (SMap.get 0 c.tokcnt i).toNat

/-- A token of the mask is pending (R153, R110). -/
def Core.waits (c : Core) (mask : BitVec 8) : Bool :=
  (List.range 8).any fun i => mask.getLsbD i && decide (c.tok i ≠ 0)

/-- The tokens that are pending, as a mask. -/
def Core.pendingToks (c : Core) : BitVec 8 :=
  (List.range 8).foldl (fun m i => if c.tok i ≠ 0 then m ||| (1#8 <<< i) else m) 0

/-- An operation of rank `k` that comes at GCYC `now` is too late for this cycle: one that R157 puts after it has taken effect in it. -/
def Phase.late (p : Phase) (k : Nat) (now : W64) : Bool := decide (k < p.last.1) && p.last.2 == now

/-- A completion counted in a phase (R156). -/
def State.phaseInc (s : State) (n : Nat) : State :=
  let p := { s.phase n with last := (2, s.gcyc) }
  s.setPhase n (if p.cnt = 0xFFFFFFFF then { p with ovf := true } else { p with cnt := p.cnt + 1 })

end Sys2Proof.Machine
end

