-- ==== Sys2Proof/Machine/CoreTurn.lean ====
section
/-! DEFINITION. A control core between two words: fetching (R91-R93), the wake events of `idle` (R111), and the delivery
of an asynchronous cause (R136). -/

namespace Sys2Proof.Machine

/-- What a fetch gives: the C-word and its extension word, the package whose span link it waits for, or the address that failed. -/
inductive Fetch where
  | ok (w e : Nat)
  | held (p : Nat)
  | lost (w e : Nat)
  | fault (va : W64)
  deriving DecidableEq, Repr

/-- 32 bits of code at a virtual address of core `n`: the old word or the new one where a write of the core is not ordered before
the fetch (R93). -/
def State.fetch32 (s : State) (n va : Nat) : Option Nat :=
  match s.coreVa n .fetch va with
  | some pa =>
    match s.liveCells pa 4 with
    | some as => some (leNat (s.sees (fetchPath n (s.windowOf pa)) as))
    | none => none
  | none => none

/-- What the fetch of a word changes: its walk and its stack bytes are counted, its soft errors reported (R161, R352). -/
def State.fetchNote (s : State) (n va : Nat) : State :=
  match s.coreVa n .fetch va with
  | some pa => ((s.countWalk n (s.core n).ctx va).checkRead n (cellRun pa 4)).countRead pa 4
  | none => s.walkReport n n (s.core n).ctx va

/-- The fetch of a C-word `w` at the pc, and of its extension word where X is 1, is over. -/
def State.fetched (s : State) (n w : Nat) : State :=
  let pc := (s.core n).pc.toNat
  let t := s.fetchNote n pc
  if w % 2 = 0 then t else t.fetchNote n (pc + 4)

/-- The fetch of core `n` has failed at `va`. -/
def State.fetchFailed (s : State) (n : Nat) (va : W64) : State :=
  let pc := (s.core n).pc
  let t := if va = pc then s else s.fetchNote n pc.toNat
  if va.toNat % 4 ≠ 0 ∨ 2 ^ 56 ≤ va.toNat then t else t.walkReport n n (s.core n).ctx va.toNat

/-- A fetch at `va` that gives no word: it waits for a span link; it reads 0xFF where its package became unreachable meanwhile, the
words being `w` and `e` then; else it fails (R376). -/
def State.noFetch (s : State) (n : Nat) (va : W64) (w e : Nat) : Fetch :=
  match s.coreVa n .fetch va.toNat with
  | none => (s.walkHeld n (s.core n).ctx va.toNat).elim (.fault va) .held
  | some pa =>
    match s.heldBy pa with
    | some p => .held p
    | none => if (s.core n).spanLost then .lost w e else .fault va

/-- The C-word at the pc of core `n`, with its extension word where X is 1. -/
def State.fetch (s : State) (n : Nat) : Fetch :=
  let pc := (s.core n).pc
  if fld pc.toNat 0 2 != 0 || fld pc.toNat 56 8 != 0 then .fault pc
  else match s.fetch32 n pc.toNat with
    | none => s.noFetch n pc 0xFFFFFFFF 0xFFFFFFFF
    | some w =>
      if w % 2 = 0 then .ok w 0
      else match s.fetch32 n (pc.toNat + 4) with
        | some e => .ok w e
        | none => s.noFetch n (pc + 4) w 0xFFFFFFFF

/-- Whether a token that was pending when `idle` issued has completed (R111). -/
def Core.tokenDone (c : Core) : Bool := (List.range 8).any fun i => c.idleTok.getLsbD i && decide (c.tok i = 0)

/-- Whether an idle core has met a wake event other than a deliverable trap (R111). -/
def Core.woken (c : Core) : Bool := c.wake || c.tokenDone

/-- The lowest asynchronous cause pending on a core (R136). -/
def Core.firstCause (c : Core) : Option (Nat × W64) :=
  match c.pend with
  | (k, some v) :: _ => some (k, v)
  | _ => none

/-- A core that can take a trap. -/
def Core.live (c : Core) : Bool := c.run == .running || c.run == .idle

/-- A core that can take an asynchronous cause: a word that has begun to take effect holds it (R91, R136). -/
def Core.takesAsync (c : Core) : Bool := c.live && c.ten && c.begun.isNone

/-- ASYNC_TRAP_DELIVERY (R136): between two words, with TEN = 1, the lowest pending cause is delivered. -/
def execAsyncTrapDelivery (n : Nat) (s : State) : Out :=
  let c := s.core n
  match c.firstCause with
  | some (k, v) =>
    if c.takesAsync then
      let s1 := s.setCore n { c with pend := SMap.set none c.pend k none }
      let (t, taken) := s1.deliverTo n k v c.pc
      .next (if taken then t else t.setCore n { t.core n with pend := SMap.set none (t.core n).pend k (some v) })
    else .next s
  | none => .next s

/-- IDLE_WAKE (R111): a wake event ends the wait, and the next word follows. -/
def execIdleWake (n : Nat) (s : State) : Out :=
  let c := s.core n
  if c.run == .idle && c.woken then
    .next (s.setCore n { c with run := .running, wake := false, idleTok := 0, pc := c.pc + 4 })
  else .next s

end Sys2Proof.Machine
end

