-- ==== Sys2Proof/Machine/Alu.lean ====
section
/-! DEFINITION. The integer results that control cores and elements share, at any width (R95, R96, R121, R122). -/

namespace Sys2Proof.Machine

/-- The number of one bits. -/
def popcount {w : Nat} (x : BitVec w) : Nat := (List.range w).countP fun i => x.getLsbD i

/-- The number of leading zero bits; `w` of 0. -/
def leadingZeros {w : Nat} (x : BitVec w) : Nat := if x.toNat = 0 then w else w - 1 - Nat.log2 x.toNat

/-- The number of trailing zero bits; `w` of 0. -/
def trailingZeros {w : Nat} (x : BitVec w) : Nat := ((List.range w).find? fun i => x.getLsbD i).getD w

/-- The high half of the signed product. -/
def mulHighS {w : Nat} (a b : BitVec w) : BitVec w := BitVec.ofInt w ((a.toInt * b.toInt) >>> w)

/-- The high half of the unsigned product. -/
def mulHighU {w : Nat} (a b : BitVec w) : BitVec w := BitVec.ofNat w (a.toNat * b.toNat / 2 ^ w)

/-- R96: truncation towards zero; b = 0 gives all ones. -/
def divS {w : Nat} (a b : BitVec w) : BitVec w := if b = 0 then BitVec.allOnes w else BitVec.ofInt w (a.toInt.tdiv b.toInt)
def divU {w : Nat} (a b : BitVec w) : BitVec w := if b = 0 then BitVec.allOnes w else BitVec.ofNat w (a.toNat / b.toNat)
/-- R96: the remainder takes the sign of the dividend; b = 0 gives a. -/
def remS {w : Nat} (a b : BitVec w) : BitVec w := if b = 0 then a else BitVec.ofInt w (a.toInt.tmod b.toInt)
def remU {w : Nat} (a b : BitVec w) : BitVec w := if b = 0 then a else BitVec.ofNat w (a.toNat % b.toNat)

def minS {w : Nat} (a b : BitVec w) : BitVec w := if a.toInt ≤ b.toInt then a else b
def maxS {w : Nat} (a b : BitVec w) : BitVec w := if a.toInt ≤ b.toInt then b else a
def minU {w : Nat} (a b : BitVec w) : BitVec w := if a.toNat ≤ b.toNat then a else b
def maxU {w : Nat} (a b : BitVec w) : BitVec w := if a.toNat ≤ b.toNat then b else a

/-- Signed and unsigned order. -/
def ltS {w : Nat} (a b : BitVec w) : Bool := decide (a.toInt < b.toInt)
def ltU {w : Nat} (a b : BitVec w) : Bool := decide (a.toNat < b.toNat)

/-- Shifts by b[5:0] of a 64-bit value (R95). -/
def shiftL64 (a b : W64) : W64 := a <<< (b.toNat % 64)
def shiftR64 (a b : W64) : W64 := a >>> (b.toNat % 64)
def shiftA64 (a b : W64) : W64 := a.sshiftRight (b.toNat % 64)

end Sys2Proof.Machine
end

