-- ==== Sys2Proof/Machine/CoreAtomic.lean ====
section
/-! DEFINITION. Atomics (R285-R287): one read-modify-write at the memory that holds it; a fabric memory or the dispatcher
window is a data access fault. -/

namespace Sys2Proof

/-- Bytes an atomic of the form moves. -/
def AArgs.size (a : AArgs) : Nat := if a.sz then 8 else 4

end Sys2Proof

namespace Sys2Proof.Machine

/-- The cells of an access of the executing core to plain memory, or none where it takes the data access fault or waits. -/
def State.coreCells (s : State) (a : Acc) (va n : Nat) : Option (List Nat) :=
  match s.coreVa s.cur a va with
  | some pa => s.liveCells pa n
  | none => none

/-- The package that an access of the executing core waits for (R376). -/
def State.coreHeld (s : State) (a : Acc) (va : Nat) : Option Nat :=
  match s.coreVa s.cur a va with
  | some pa => s.heldBy pa
  | none => s.walkHeld s.cur s.me.ctx va

/-- What a core's word does at an address that it cannot reach: it waits for a span link, or takes the data access fault. -/
def State.reachFault (s : State) (a : Acc) (va : Nat) : Out :=
  match s.coreHeld a va with
  | some p => .next (s.holdOn p)
  | none => .next (s.accessTrap causeAccess va)

/-- The same after other accesses of the word, which left `t`; one that waits performs them again. -/
def State.reachFaultOf (s t : State) (a : Acc) (va : Nat) : Out :=
  match s.coreHeld a va with
  | some p => .next (s.holdOn p)
  | none => .next (t.accessTrap causeAccess va)

/-- The old value of an atomic in its register. -/
def amoResult (sgn : Bool) (z old : Nat) : W64 := if sgn then BitVec.ofInt 64 (signedOf (8 * z) old) else BitVec.ofNat 64 old

/-- An atomic: `f old b c` is the new value, none for no write; `sgn` sign-extends the old value into rd. It reads and writes at one place
in the order of the writes to its granule, before those through other windows that it does not see (R270, R285). -/
def State.atomic (s : State) (f : Nat → Nat → Nat → Nat → Option Nat) (sgn : Bool) (rd : DReg) (ra rb : SReg) (a : AArgs) : Out :=
  let z := a.size
  let ea := s.readS ra
  if ea.toNat % z ≠ 0 then .next (s.trap causeMisaligned ea)
  else match s.coreCells .store ea.toNat z with
    | none =>
      if s.me.spanLost && (s.coreHeld .store ea.toNat).isNone then .next (s.unspan.finish rd (amoResult sgn z (2 ^ (8 * z) - 1)) 4)
      else s.reachFault .store ea.toNat
    | some as =>
      let w := s.windowOf ((s.coreVa s.cur .store ea.toNat).getD 0)
      let old := leNat (s.sees (Via.core.path w) as)
      let t := ((s.coreWalk ea.toNat z).checkRead s.cur (s.corePas .store ea.toNat z)).countMem as false
      let u := match f (8 * z) old ((s.readS rb).toNat % 2 ^ (8 * z)) ((s.me.readD rd).toNat % 2 ^ (8 * z)) with
        | some v => (t.put .core s.cur w as (leBytes z v)).countMem as true
        | none => t
      .next (u.finish rd (amoResult sgn z old) 4)

/-- R285 AMOADD. -/
def execAmoadd (rd : DReg) (ra rb : SReg) (a : AArgs) (s : State) : Out :=
  s.atomic (fun w x b _ => some ((x + b) % 2 ^ w)) false rd ra rb a

/-- R285 AMOAND. -/
def execAmoand (rd : DReg) (ra rb : SReg) (a : AArgs) (s : State) : Out :=
  s.atomic (fun _ x b _ => some (x &&& b)) false rd ra rb a

/-- R285 AMOOR. -/
def execAmoor (rd : DReg) (ra rb : SReg) (a : AArgs) (s : State) : Out :=
  s.atomic (fun _ x b _ => some (x ||| b)) false rd ra rb a

/-- R285 AMOXOR. -/
def execAmoxor (rd : DReg) (ra rb : SReg) (a : AArgs) (s : State) : Out :=
  s.atomic (fun _ x b _ => some (x ^^^ b)) false rd ra rb a

/-- R285 AMOMAX_I. -/
def execAmomaxI (rd : DReg) (ra rb : SReg) (a : AArgs) (s : State) : Out :=
  s.atomic (fun w x b _ => some (if signedOf w x ≤ signedOf w b then b else x)) true rd ra rb a

/-- R285 AMOMIN_I. -/
def execAmominI (rd : DReg) (ra rb : SReg) (a : AArgs) (s : State) : Out :=
  s.atomic (fun w x b _ => some (if signedOf w x ≤ signedOf w b then x else b)) true rd ra rb a

/-- R285 AMOMAX_N. -/
def execAmomaxN (rd : DReg) (ra rb : SReg) (a : AArgs) (s : State) : Out :=
  s.atomic (fun _ x b _ => some (max x b)) false rd ra rb a

/-- R285 AMOMIN_N. -/
def execAmominN (rd : DReg) (ra rb : SReg) (a : AArgs) (s : State) : Out :=
  s.atomic (fun _ x b _ => some (min x b)) false rd ra rb a

/-- R285 AMOSWAP. -/
def execAmoswap (rd : DReg) (ra rb : SReg) (a : AArgs) (s : State) : Out :=
  s.atomic (fun _ _ b _ => some b) false rd ra rb a

/-- R285, R286 AMOCAS: writes rb where memory holds rd. -/
def execAmocas (rd : DReg) (ra rb : SReg) (a : AArgs) (s : State) : Out :=
  s.atomic (fun _ x b c => if x = c then some b else none) false rd ra rb a

end Sys2Proof.Machine
end

