-- ==== Sys2Proof/Machine/AWord.lean ====
section
/-! DEFINITION. The fields of an AGU's A-word (R70), and where a stream may stop (R195). -/

namespace Sys2Proof.Machine

def Agu.base (a : Agu) : Nat := fld a.aword.toNat 76 52 * 16
def Agu.count0 (a : Agu) : Nat := fld a.aword.toNat 64 12 + 1
def Agu.count1 (a : Agu) : Nat := fld a.aword.toNat 54 10 + 1
def Agu.count2 (a : Agu) : Nat := fld a.aword.toNat 46 8 + 1
def Agu.stride1 (a : Agu) : Int := signedOf 12 (fld a.aword.toNat 34 12)
def Agu.stride2 (a : Agu) : Int := signedOf 12 (fld a.aword.toNat 22 12)
def Agu.unit (a : Agu) : Nat := if fld a.aword.toNat 21 1 = 0 then 16 else 4096
def Agu.esize (a : Agu) : Nat := 2 ^ fld a.aword.toNat 18 3
/-- Direction 1: from the fabric to memory. -/
def Agu.outward (a : Agu) : Bool := fld a.aword.toNat 17 1 == 1
def Agu.port (a : Agu) : Nat := fld a.aword.toNat 13 4
def Agu.op (a : Agu) : Nat := fld a.aword.toNat 9 4
def Agu.arg (a : Agu) : Nat := fld a.aword.toNat 1 8
def Agu.bt (a : Agu) : Bool := fld a.aword.toNat 0 1 == 1

/-- R70's operator codes. -/
def opNone : Nat := 0
def opScale : Nat := 1
def opFilter : Nat := 2
def opSum : Nat := 3
def opMax : Nat := 4
def opMin : Nat := 5
def opKeyed : Nat := 6
def opQuery : Nat := 7
def opShadow : Nat := 8
def opIntMac : Nat := 9
def opConvert : Nat := 10
def opCompact : Nat := 11

/-- The reductions. -/
def Agu.reduces (a : Agu) : Bool := a.op == opSum || a.op == opMax || a.op == opMin

/-- A stream that has been started and has not completed. -/
def AguSt.live : AguSt → Bool
  | .queued | .running | .stalled => true
  | _ => false

/-- A stream stopping point: whole port entries, and whole runs or rows (R195). -/
def Agu.atStop (a : Agu) : Bool :=
  if a.outward then a.bytes.isEmpty && a.row.isEmpty
  else a.bytes.length % 64 == 0 && (!a.reduces || (a.i0 == 0 && a.acc.isEmpty))

/-- Bytes 8-11 of a stream record. -/
def Agu.progress (a : Agu) : Nat :=
  if a.op = opKeyed then a.spilled % 2 ^ 31 + (if a.partialFlag then 2 ^ 31 else 0)
  else if a.op = opCompact then a.count % 2 ^ 32
  else 0

end Sys2Proof.Machine
end

