-- ==== Sys2Proof/Machine/Float.lean ====
section
/-! DEFINITION. Floating-point values and their rounding (R27, R28, R39-R48, R123, R124, R363): a value is an
exact dyadic number, an infinity or a NaN; every operation is formed exactly and rounded once. -/

namespace Sys2Proof.Machine

/-- Which encodings of a format are special (R27). -/
inductive FpSpecial where
  | ieee      -- all-ones exponent: infinity or NaN
  | e4m3      -- only exponent and mantissa all ones: NaN, no infinity
  | none      -- no special encoding
  deriving DecidableEq, Repr

/-- A real element format (R27). -/
structure Fmt where
  ebits : Nat
  mbits : Nat
  bias : Nat
  special : FpSpecial
  deriving DecidableEq, Repr

def fmtF32 : Fmt := ⟨8, 23, 127, .ieee⟩
def fmtF16 : Fmt := ⟨5, 10, 15, .ieee⟩
def fmtBF16 : Fmt := ⟨8, 7, 127, .ieee⟩
def fmtE4M3 : Fmt := ⟨4, 3, 7, .e4m3⟩
def fmtE5M2 : Fmt := ⟨5, 2, 15, .ieee⟩
def fmtE3M2 : Fmt := ⟨3, 2, 3, .none⟩
def fmtE2M3 : Fmt := ⟨2, 3, 1, .none⟩
def fmtE2M1 : Fmt := ⟨2, 1, 1, .none⟩

/-- Bits of one element of the format. -/
def Fmt.width (f : Fmt) : Nat := 1 + f.ebits + f.mbits

/-- An exact value: `fin s m e` is (−1)^s × m × 2^e; a NaN is signalling or quiet (R41). -/
inductive FVal where
  | nan (signalling : Bool)
  | inf (neg : Bool)
  | fin (neg : Bool) (m : Nat) (e : Int)
  deriving DecidableEq, Repr

/-- The five flags in the order of ESTAT[4:0] and FSFLAG (R87, R356): [4] NV, [3] DZ, [2] OF, [1] UF, [0] NX. -/
abbrev Flags := BitVec 5

def flagNone : Flags := 0
def flagNV : Flags := 16
def flagDZ : Flags := 8
def flagOF : Flags := 4
def flagUF : Flags := 2
def flagNX : Flags := 1

/-- The value a pattern of bits encodes (R28; the signalling test is R41's). -/
def Fmt.decode (f : Fmt) (bits : Nat) : FVal :=
  let frac := bits % 2 ^ f.mbits
  let ex := bits / 2 ^ f.mbits % 2 ^ f.ebits
  let neg := bits / 2 ^ (f.mbits + f.ebits) % 2 == 1
  let finite : FVal :=
    if ex = 0 then .fin neg frac (1 - (f.bias : Int) - (f.mbits : Int))
    else .fin neg (2 ^ f.mbits + frac) ((ex : Int) - (f.bias : Int) - (f.mbits : Int))
  match f.special with
  | .none => finite
  | .e4m3 =>
    if ex = 2 ^ f.ebits - 1 ∧ frac = 2 ^ f.mbits - 1 then .nan false else finite
  | .ieee =>
    if ex = 2 ^ f.ebits - 1 then
      if frac = 0 then .inf neg else .nan (frac < 2 ^ (f.mbits - 1))
    else finite

/-- The largest finite pattern without its sign. -/
def Fmt.maxFinite (f : Fmt) : Nat :=
  match f.special with
  | .ieee => (2 ^ f.ebits - 1) * 2 ^ f.mbits - 1
  | .e4m3 => 2 ^ (f.ebits + f.mbits) - 2
  | .none => 2 ^ (f.ebits + f.mbits) - 1

/-- The canonical NaN of a format (R46); a format without NaN takes +0 (R47). -/
def Fmt.canonicalNaN (f : Fmt) : Nat :=
  match f.special with
  | .ieee => (2 ^ f.ebits - 1) * 2 ^ f.mbits + 2 ^ (f.mbits - 1)
  | .e4m3 => 2 ^ (f.ebits + f.mbits) - 1
  | .none => 0

def Fmt.signBit (f : Fmt) (neg : Bool) : Nat := if neg then 2 ^ (f.ebits + f.mbits) else 0

/-- The pattern of an infinity (formats with one). -/
def Fmt.infinity (f : Fmt) (neg : Bool) : Nat := f.signBit neg + (2 ^ f.ebits - 1) * 2 ^ f.mbits

/-- The integer nearest to (n + a fraction, the fraction positive and below 1 exactly when `sticky`) × 2^e / 2^u,
ties to even, and whether it is inexact. -/
def roundAt (n : Nat) (e : Int) (sticky : Bool) (u : Int) : Nat × Bool :=
  if u ≤ e then (n * 2 ^ (e - u).toNat, sticky)
  else
    let sh := (u - e).toNat
    let q := n / 2 ^ sh
    let r := n % 2 ^ sh
    let half := 2 ^ (sh - 1)
    let up := half < r ∨ (r = half ∧ (sticky = true ∨ q % 2 = 1))
    (if up then q + 1 else q, sticky || r != 0)

/-- The exponent of the leading bit of n × 2^e, n ≠ 0. -/
def leadExp (n : Nat) (e : Int) : Int := e + (Nat.log2 n : Int)

/-- Overflow by R47: without saturation an infinity (E4M3: its NaN), with it the largest finite value. -/
def Fmt.overflow (f : Fmt) (sat : Bool) (neg : Bool) : Nat :=
  match f.special, sat with
  | .ieee, false => f.infinity neg
  | .e4m3, false => f.signBit neg + f.canonicalNaN
  | _, _ => f.signBit neg + f.maxFinite

/-- A finite magnitude (n + fraction) × 2^e rounded to the format by round-to-nearest-even, subnormals kept,
tininess detected after rounding, with its flags (R45, R47). -/
def Fmt.roundMag (f : Fmt) (sat neg : Bool) (n : Nat) (e : Int) (sticky : Bool) : Nat × Flags :=
  if n = 0 then (f.signBit neg, if sticky then flagUF ||| flagNX else flagNone)
  else
    let emin : Int := 1 - (f.bias : Int)
    let ulpFree : Int := leadExp n e - (f.mbits : Int)
    let ulpMin : Int := emin - (f.mbits : Int)
    let u := max ulpFree ulpMin
    let (q, inexact) := roundAt n e sticky u
    let free := roundAt n e sticky ulpFree
    let tiny : Bool := decide (ulpFree + (Nat.log2 free.1 : Int) < emin)
    let nx : Flags := if inexact then flagNX else flagNone
    let uf : Flags := if tiny && inexact then flagUF else flagNone
    if q < 2 ^ f.mbits then (f.signBit neg + q, nx ||| uf)
    else
      let (q', u') := if q = 2 ^ (f.mbits + 1) then (2 ^ f.mbits, u + 1) else (q, u)
      let field := u' + (f.mbits : Int) + (f.bias : Int)
      let pat := field.toNat * 2 ^ f.mbits + (q' - 2 ^ f.mbits)
      if f.maxFinite < pat then (f.overflow sat neg, flagOF ||| flagNX)
      else (f.signBit neg + pat, nx ||| uf)

/-- A value rounded to a format (R47): NaN is canonical, an infinity stays one where the target has it. -/
def Fmt.round (f : Fmt) (sat : Bool) : FVal → Nat × Flags
  | .nan sig =>
    match f.special with
    | .none => (0, flagNV)
    | _ => (f.canonicalNaN, if sig then flagNV else flagNone)
  | .inf neg =>
    match f.special, sat with
    | .ieee, false => (f.infinity neg, flagNone)
    | .e4m3, false => (f.signBit neg + f.canonicalNaN, flagNV)
    | _, _ => (f.signBit neg + f.maxFinite, flagOF ||| flagNX)
  | .fin neg m e => f.roundMag sat neg m e false

/-- The result of an arithmetic word: rounded without saturation; NaN operands already gave their NV. -/
def Fmt.result (f : Fmt) (v : FVal) (fl : Flags) : Nat × Flags :=
  match v with
  | .nan _ => (f.canonicalNaN, fl)
  | .inf neg => (f.infinity neg, fl)
  | .fin neg m e => let (b, g) := f.roundMag false neg m e false; (b, g ||| fl)

/-! ### Exact operations -/

def FVal.isNaN : FVal → Bool
  | .nan _ => true
  | _ => false

def FVal.isSig : FVal → Bool
  | .nan s => s
  | _ => false

def FVal.isZero : FVal → Bool
  | .fin _ m _ => m == 0
  | _ => false

def FVal.isInf : FVal → Bool
  | .inf _ => true
  | _ => false

def FVal.neg : FVal → FVal
  | .nan s => .nan s
  | .inf s => .inf (!s)
  | .fin s m e => .fin (!s) m e

/-- The sign bit of a value (a NaN counts as positive). -/
def FVal.sign : FVal → Bool
  | .nan _ => false
  | .inf s => s
  | .fin s _ _ => s

/-- m × 2^e as an integer multiple of 2^k, k ≤ e. -/
def scaleTo (m : Nat) (e k : Int) : Nat := m * 2 ^ (e - k).toNat

def signedInt (s : Bool) (m : Nat) : Int := if s then -(m : Int) else (m : Int)

/-- An integer multiple of 2^k as a value; `z` is the sign a zero takes. -/
def ofInt (i : Int) (k : Int) (z : Bool) : FVal :=
  if i = 0 then .fin z 0 k else .fin (decide (i < 0)) i.natAbs k

/-- Exact sum; the sign of an exact zero is IEEE's under round-to-nearest (R40). -/
def FVal.add (a b : FVal) : FVal × Flags :=
  match a, b with
  | .nan s, .nan t => (.nan false, if s || t then flagNV else flagNone)
  | .nan s, _ => (.nan false, if s then flagNV else flagNone)
  | _, .nan s => (.nan false, if s then flagNV else flagNone)
  | .inf s, .inf t => if s = t then (.inf s, flagNone) else (.nan false, flagNV)
  | .inf s, _ => (.inf s, flagNone)
  | _, .inf s => (.inf s, flagNone)
  | .fin s m e, .fin t n f =>
    let k := min e f
    (ofInt (signedInt s (scaleTo m e k) + signedInt t (scaleTo n f k)) k (s && t), flagNone)

/-- Exact product (R39). -/
def FVal.mul (a b : FVal) : FVal × Flags :=
  match a, b with
  | .nan s, .nan t => (.nan false, if s || t then flagNV else flagNone)
  | .nan s, _ => (.nan false, if s then flagNV else flagNone)
  | _, .nan s => (.nan false, if s then flagNV else flagNone)
  | .inf s, .inf t => (.inf (s != t), flagNone)
  | .inf s, .fin t m _ => if m = 0 then (.nan false, flagNV) else (.inf (s != t), flagNone)
  | .fin t m _, .inf s => if m = 0 then (.nan false, flagNV) else (.inf (s != t), flagNone)
  | .fin s m e, .fin t n f => (.fin (s != t) (m * n) (e + f), flagNone)

/-- a × b + c, exact; ∞ × 0 raises NV even when c is a quiet NaN (R124). -/
def FVal.fma (a b c : FVal) : FVal × Flags :=
  let (p, fp) := a.mul b
  let (r, fr) := p.add c
  (r, fp ||| fr)

/-- Compare exact values; none where one is NaN. +0 equals −0. -/
def FVal.cmp (a b : FVal) : Option Ordering :=
  match a, b with
  | .nan _, _ => none
  | _, .nan _ => none
  | .inf s, .inf t => some (if s = t then .eq else if s then .lt else .gt)
  | .inf s, _ => some (if s then .lt else .gt)
  | _, .inf s => some (if s then .gt else .lt)
  | .fin s m e, .fin t n f =>
    let k := min e f
    some (compare (signedInt s (scaleTo m e k)) (signedInt t (scaleTo n f k)))

/-- Bits by which a quotient or a root is widened before it is cut: more than any format's mantissa. -/
def guardBits : Nat := 64

/-- The integer square root of `n < 4^k`, bit by bit from bit `k - 1`. -/
def isqrtFrom (n : Nat) : Nat → Nat → Nat
  | 0, r => r
  | k + 1, r => if (r + 2 ^ k) * (r + 2 ^ k) ≤ n then isqrtFrom n k (r + 2 ^ k) else isqrtFrom n k r

def isqrt (n : Nat) : Nat := isqrtFrom n (Nat.log2 n / 2 + 1) 0

/-- a / b rounded once to the format (R123, R124, R363): finite/0 raises DZ, 0/0 and ∞/∞ NV. -/
def Fmt.divide (f : Fmt) (a b : FVal) : Nat × Flags :=
  match a, b with
  | .nan s, .nan t => (f.canonicalNaN, if s || t then flagNV else flagNone)
  | .nan s, _ => (f.canonicalNaN, if s then flagNV else flagNone)
  | _, .nan s => (f.canonicalNaN, if s then flagNV else flagNone)
  | .inf _, .inf _ => (f.canonicalNaN, flagNV)
  | .inf s, .fin t _ _ => (f.infinity (s != t), flagNone)
  | .fin s _ _, .inf t => (f.signBit (s != t), flagNone)
  | .fin s m e, .fin t n g =>
    if n = 0 then
      if m = 0 then (f.canonicalNaN, flagNV) else (f.infinity (s != t), flagDZ)
    else if m = 0 then (f.signBit (s != t), flagNone)
    else
      let k := guardBits + Nat.log2 n
      let num := m * 2 ^ k
      f.roundMag false (s != t) (num / n) (e - g - (k : Int)) (num % n != 0)

/-- The correctly rounded square root; −0 stays −0, a negative value raises NV (R124, R363). -/
def Fmt.squareRoot (f : Fmt) (a : FVal) : Nat × Flags :=
  match a with
  | .nan s => (f.canonicalNaN, if s then flagNV else flagNone)
  | .inf s => if s then (f.canonicalNaN, flagNV) else (f.infinity false, flagNone)
  | .fin s m e =>
    if m = 0 then (f.signBit s, flagNone)
    else if s then (f.canonicalNaN, flagNV)
    else
      let odd := e % 2 = 1
      let m1 := if odd then 2 * m else m
      let e1 := if odd then e - 1 else e
      let n := m1 * 2 ^ (2 * guardBits)
      let r := isqrt n
      f.roundMag false false r (e1 / 2 - (guardBits : Int)) (r * r != n)

/-- min or max by R124: a NaN operand yields to the other, −0 is below +0. The answer is one of the operand
patterns, or the canonical NaN. -/
def Fmt.minMax (f : Fmt) (isMax : Bool) (x y : Nat) : Nat × Flags :=
  let a := f.decode x
  let b := f.decode y
  let fl : Flags := if a.isSig || b.isSig then flagNV else flagNone
  match a, b with
  | .nan _, .nan _ => (f.canonicalNaN, fl)
  | .nan _, _ => (y, fl)
  | _, .nan _ => (x, fl)
  | _, _ =>
    let firstLess : Bool :=
      match a.cmp b with
      | some .lt => true
      | some .eq => a.sign && !b.sign
      | _ => false
    (if firstLess != isMax then x else y, fl)

/-- Conversion to an integer of range lo to hi (R48): out of range saturates with NV, NaN gives 0 with NV. -/
def FVal.toIntSat (v : FVal) (lo hi : Int) : Int × Flags :=
  match v with
  | .nan _ => (0, flagNV)
  | .inf s => (if s then lo else hi, flagNV)
  | .fin s m e =>
    let (q, nx) := roundAt m e false 0
    let i := signedInt s q
    if i < lo then (lo, flagNV) else if hi < i then (hi, flagNV)
    else (i, if nx then flagNX else flagNone)

/-- An integer rounded to a real format (R48). -/
def Fmt.ofIntRound (f : Fmt) (i : Int) : Nat × Flags := f.round false (ofInt i 0 false)

/-! ### The forms the words use, on patterns of bits -/

def Fmt.addBits (f : Fmt) (x y : Nat) : Nat × Flags :=
  let (v, fl) := (f.decode x).add (f.decode y); f.result v fl

def Fmt.subBits (f : Fmt) (x y : Nat) : Nat × Flags :=
  let (v, fl) := (f.decode x).add (f.decode y).neg; f.result v fl

def Fmt.mulBits (f : Fmt) (x y : Nat) : Nat × Flags :=
  let (v, fl) := (f.decode x).mul (f.decode y); f.result v fl

/-- a × b + c, one rounding. -/
def Fmt.fmaBits (f : Fmt) (x y z : Nat) : Nat × Flags :=
  let (v, fl) := (f.decode x).fma (f.decode y) (f.decode z); f.result v fl

/-- c − a × b, one rounding. -/
def Fmt.fnmaBits (f : Fmt) (x y z : Nat) : Nat × Flags :=
  let (v, fl) := (f.decode x).neg.fma (f.decode y) (f.decode z); f.result v fl

def Fmt.divBits (f : Fmt) (x y : Nat) : Nat × Flags := f.divide (f.decode x) (f.decode y)

def Fmt.sqrtBits (f : Fmt) (x : Nat) : Nat × Flags := f.squareRoot (f.decode x)

/-- abs and neg (R124): exact without a flag; a NaN becomes canonical, NV if signalling. -/
def Fmt.absBits (f : Fmt) (x : Nat) : Nat × Flags :=
  match f.decode x with
  | .nan s => (f.canonicalNaN, if s then flagNV else flagNone)
  | _ => (x % 2 ^ (f.ebits + f.mbits), flagNone)

def Fmt.negBits (f : Fmt) (x : Nat) : Nat × Flags :=
  match f.decode x with
  | .nan s => (f.canonicalNaN, if s then flagNV else flagNone)
  | v => (x % 2 ^ (f.ebits + f.mbits) + f.signBit (!v.sign), flagNone)

/-- Conversion of a pattern from one real format to another (R47). -/
def convertBits (src tgt : Fmt) (sat : Bool) (x : Nat) : Nat × Flags :=
  let v := src.decode x
  tgt.round sat v

/-- `round_f32_rne` of an exact value (R40): the bits alone. -/
def roundF32 (v : FVal) : Nat × Flags := fmtF32.result v flagNone

/-- `floor(log2 |v|)` of a non-zero finite value. -/
def FVal.floorLog2 : FVal → Int
  | .fin _ m e => if m = 0 then 0 else leadExp m e
  | _ => 0

end Sys2Proof.Machine
end

