-- ==== Sys2Proof/Machine/Formats.lean ====
section
/-! DEFINITION. The matrix operand formats, palettes and token decoding (R25-R37, R325, R326, R331). -/

namespace Sys2Proof.Machine

/-- Bits of one element, by format code (R25). -/
def fmtWidth (c : Nat) : Nat :=
  match c with
  | 0 => 32
  | 1 => 16 | 2 => 16 | 8 => 16
  | 3 => 8 | 4 => 8 | 9 => 8 | 10 => 8 | 16 => 8 | 17 => 8 | 21 => 8 | 26 => 8 | 28 => 8 | 31 => 8
  | 5 => 6 | 6 => 6 | 18 => 6 | 19 => 6
  | 7 => 4 | 11 => 4 | 12 => 4 | 20 => 4 | 22 => 4 | 24 => 4 | 25 => 4 | 27 => 4
  | 13 => 2 | 14 => 2 | 23 => 2 | 29 => 2
  | _ => 1

/-- Bytes of a token of 16 elements (R325). -/
def tokenBytes (c : Nat) : Nat := 2 * fmtWidth c

/-- Cycles of a group whose widest format has this width; a group with no valid slot has width 0 (R326). -/
def groupCycles (w : Nat) : Nat :=
  if 32 ≤ w then 64 else if 16 ≤ w then 16 else if 6 ≤ w then 8 else 4

/-- Integer formats (R25). -/
def fmtInteger (c : Nat) : Bool := decide (8 ≤ c) && decide (c ≤ 15)

/-- Fields of a palette entry (R36). -/
def palFmt (w : W32) : Nat := fld w.toNat 0 5
def palSsrc (w : W32) : Nat := fld w.toNat 5 3
def palKidx (w : W32) : Nat := fld w.toNat 8 8
def palV (w : W32) : Bool := w.getLsbD 16

/-- A palette entry that a load refuses (R36). -/
def palRefused (w : W32) : Bool :=
  let f := palFmt w
  let q := palSsrc w
  fld w.toNat 17 15 != 0 || decide (4 < q)
    || (q != 0 && (decide (f ≤ 15) || f == 31))
    || ((q == 1 || q == 3) && !(decide (16 ≤ f) && decide (f ≤ 23)))
    || (q == 4 && f == 24)
    || (palKidx w != 0 && q != 4)

/-- The GQ4 magnitudes in 1/256 (R33). -/
def gq4Table : List Nat := [11, 33, 55, 80, 107, 139, 181, 256]

/-- An integer as an exact value. -/
def fvInt (i : Int) (e : Int) : FVal := .fin (decide (i < 0)) i.natAbs e

/-- An element's own decode, before its scale (R27-R29, R31-R33, R35). -/
def decodeElem (c bits : Nat) (lq8 : SMap W16) : FVal :=
  match c with
  | 0 => fmtF32.decode bits
  | 1 => fmtF16.decode bits
  | 2 => fmtBF16.decode bits
  | 3 => fmtE4M3.decode bits
  | 4 => fmtE5M2.decode bits
  | 5 => fmtE3M2.decode bits
  | 6 => fmtE2M3.decode bits
  | 7 => fmtE2M1.decode bits
  | 8 => fvInt (signedOf 16 bits) 0
  | 9 => fvInt (signedOf 8 bits) 0
  | 10 => fvInt bits 0
  | 11 => fvInt (signedOf 4 bits) 0
  | 12 => fvInt bits 0
  | 13 => fvInt (signedOf 2 bits) 0
  | 14 => fvInt (if bits = 1 then 1 else if bits = 3 then -1 else 0) 0
  | 15 => fvInt (if bits = 1 then 1 else -1) 0
  | 16 => fmtE4M3.decode bits
  | 17 => fmtE5M2.decode bits
  | 18 => fmtE3M2.decode bits
  | 19 => fmtE2M3.decode bits
  | 20 => fmtE2M1.decode bits
  | 21 => fvInt (signedOf 8 bits) (-6)
  | 22 => fvInt (signedOf 4 bits) (-2)
  | 23 => fvInt (signedOf 2 bits) 0
  | 24 => .fin (decide (8 ≤ bits)) ((gq4Table[bits % 8]?).getD 0) (-8)
  | 25 => .fin (decide (8 ≤ bits)) ((gq4Table[bits % 8]?).getD 0) (-8)
  | 26 => fvInt (signedOf 8 bits) 0
  | 27 => fvInt (signedOf 4 bits) 0
  | 28 => fmtE4M3.decode bits
  | 29 => fvInt (if bits = 1 then 1 else if bits = 3 then -1 else 0) 0
  | 30 => fvInt (if bits = 1 then 1 else -1) 0
  | _ => fmtF16.decode (SMap.get 0 lq8 bits).toNat

/-- The scale of a block format; none for a format without blocks (R30-R32, R36, R331). -/
def decodeScale (c : Nat) (sc ss : W32) : Option FVal :=
  if 16 ≤ c ∧ c ≤ 23 then
    let q := fld sc.toNat 0 8
    some (if q = 255 then .nan false else .fin false 1 ((q : Int) - 127))
  else if c = 24 then some ((FVal.mul (.fin false (fld sc.toNat 0 8) 0) (fmtF32.decode ss.toNat)).1)
  else if c = 26 ∨ c = 28 then some (fmtF32.decode sc.toNat)
  else if c = 25 ∨ c = 27 ∨ c = 29 ∨ c = 30 then some (fmtF16.decode (fld sc.toNat 0 16))
  else none

/-- scale × element (R31, R32): a NaN scale, or an infinite scale times zero, gives a quiet NaN; an element keeps its kind (R41). -/
def scaled (sc x : FVal) : FVal :=
  match sc, x with
  | .nan _, _ => .nan false
  | _, .nan g => .nan g
  | a, b => (a.mul b).1

/-- Whether the token's format takes its scale from SC or SS (R331). -/
def usesScale (ent : W32) : Bool :=
  let c := palFmt ent
  decide (16 ≤ c) && decide (c ≤ 30) && palSsrc ent != 4

/-- A slot whose token is a skipped block (R43, R332). -/
def OpSlot.skipped (o : OpSlot) : Bool :=
  (palSsrc o.ent == 1 || palSsrc o.ent == 3) && fld o.sc.toNat 0 8 == 0

/-- A poisoned token (R325). -/
def OpSlot.poisoned (o : OpSlot) : Bool := o.dp || (o.sp && usesScale o.ent)

/-- The 16 values of a slot's token; a skipped block's are +0 (R43, R331, R332). -/
def OpSlot.values (o : OpSlot) (lq8 : SMap W16) : List FVal :=
  if o.skipped then List.replicate 16 (.fin false 0 0)
  else
    let c := palFmt o.ent
    let w := fmtWidth c
    let d := leNat o.data
    let sc := if palSsrc o.ent = 4 then o.kv else o.sc
    (List.range 16).map fun i =>
      let x := decodeElem c (d / 2 ^ (w * i) % 2 ^ w) lq8
      match decodeScale c sc o.ss with
      | none => x
      | some k => if c = 24 ∧ fld sc.toNat 0 8 = 0 then .fin false 0 0 else scaled k x

/-- A value of a special kind. -/
def FVal.special (v : FVal) : Bool := v.isNaN || v.isInf

end Sys2Proof.Machine
end

