-- ==== Sys2Proof/Machine/Image.lean ====
section
/-! DEFINITION. The records of the replay area and of the pre-emption image, written and read (R147, R148, R173, R195). -/

namespace Sys2Proof.Machine

/-- `n` bytes of 0. -/
def zeros (n : Nat) : List Byte := List.replicate n 0

/-- Bytes of a list of 32-bit words. -/
def wordBytes (ws : List W32) : List Byte := ws.flatMap fun w => leBytes 4 w.toNat

/-- The 32-bit word at byte `off`. -/
def w32At (bs : List Byte) (off : Nat) : W32 := BitVec.ofNat 32 (leAt bs off 4)

/-- `n` consecutive words from byte `off`. -/
def wordsAt (bs : List Byte) (off n : Nat) : List W32 := (List.range n).map fun i => w32At bs (off + 4 * i)

/-- A list of Booleans as a number, bit i from element i. -/
def packBits (bs : List Bool) : Nat := bs.foldr (fun b n => 2 * n + b.toNat) 0

/-- A map from the values of keys 0 to n − 1. -/
def mapOf {α : Type} [DecidableEq α] (d : α) (vs : List α) : SMap α := SMap.setRun d [] 0 vs

/-! ### Element and tile records (R147) -/

/-- A link slot: 128 data bytes, 4 of poison, 4 with the full bit. -/
def Slot.bytes (k : Slot) : List Byte :=
  wordBytes ((List.range 32).map fun i => (k.data[i]?).getD 0) ++ leBytes 4 k.poison.toNat ++ leBytes 4 k.full.toNat

def Slot.ofBytes (bs : List Byte) : Slot :=
  if bitOf (leAt bs 132 1) 0 then ⟨true, true, wordsAt bs 0 32, w32At bs 128⟩ else Slot.empty

/-- Bytes 0-4,903 of an element record. -/
def Elem.bytes (e : Elem) : List Byte :=
  wordBytes (SMap.getRun 0 e.v 0 1024) ++ wordBytes (SMap.getRun 0 e.vp 0 32) ++ wordBytes (SMap.getRun 0 e.s 0 16)
    ++ wordBytes (SMap.getRun 0 e.m 0 8) ++ leBytes 4 e.estat.toNat ++ leBytes 2 (packBits (SMap.getRun false e.sp 0 16)) ++ zeros 2
    ++ wordBytes (SMap.getRun 0 e.mp 0 8) ++ (List.range 4).flatMap fun d => (SMap.get Slot.empty e.links d).bytes

/-- The registers and link slots of an element from bytes 0-4,903 of its record; reserved bits of ESTAT read 0 (R4). -/
def Elem.restore (e : Elem) (bs : List Byte) : Elem :=
  { e with
    v := mapOf 0 (wordsAt bs 0 1024), vp := mapOf 0 (wordsAt bs 4096 32), s := mapOf 0 (wordsAt bs 4224 16),
    m := mapOf 0 (wordsAt bs 4288 8), estat := w32At bs 4320 &&& 0xFFFF,
    sp := mapOf false ((List.range 16).map fun i => bitOf (leAt bs 4324 2) i), mp := mapOf 0 (wordsAt bs 4328 8),
    links := mapOf Slot.empty ((List.range 4).map fun d => Slot.ofBytes ((bs.drop (4360 + 136 * d)).take 136)) }

/-- A plane's 2,048 bytes (R297). -/
def Elem.planeBytes (e : Elem) (n : Nat) : List Byte :=
  (SMap.getRun 0 e.planes (1024 * n) 1024).flatMap fun v => leBytes 2 v.toNat

/-- The number byte of an undo slot: [3:0] number, [7] valid. -/
def undoByte (l : List Nat) (i : Nat) : Byte :=
  match l[i]? with
  | some n => BitVec.ofNat 8 (128 + n)
  | none => 0

/-- A whole element record: entry registers, and the planes in its undo slots. -/
def elemRecord (e : Elem) (planes : List Nat) : List Byte :=
  e.bytes ++ [undoByte planes 0, undoByte planes 1] ++ zeros 214
    ++ (List.range 2).flatMap fun i => match planes[i]? with
      | some n => e.planeBytes n
      | none => zeros 2048

/-- An accumulator's 8,192 bytes. -/
def Tile.accBytes (t : Tile) (n : Nat) : List Byte := wordBytes (SMap.getRun 0 t.acc (2048 * n) 2048)

/-- Bytes 16-31 of a tile record: the AFLAG words. -/
def Tile.flagBytes (t : Tile) : List Byte := (List.range 4).flatMap fun n => leBytes 4 (SMap.get 0 t.aflag n).toNat

def Tile.restoreFlags (t : Tile) (bs : List Byte) : Tile :=
  { t with aflag := mapOf 0 ((List.range 4).map fun n => BitVec.ofNat 5 (leAt bs (16 + 4 * n) 4)) }

/-- A whole tile record: flags, and the accumulators in its undo slots. -/
def tileRecord (t : Tile) (accs : List Nat) : List Byte :=
  [undoByte accs 0, undoByte accs 1] ++ zeros 14 ++ t.flagBytes ++ zeros 992
    ++ (List.range 2).flatMap fun i => match accs[i]? with
      | some n => t.accBytes n
      | none => zeros 8192

/-! ### Region records (R173) -/

/-- A port of a region record: occupancy, poison, two entries. -/
def portBytes (q : List PEntry) : List Byte :=
  let e := fun i : Nat => (q[i]?).getD (⟨zeros 64, 0⟩ : PEntry)
  [BitVec.ofNat 8 (min q.length 2), 0, 0, 0] ++ leBytes 2 (e 0).poison.toNat ++ leBytes 2 (e 1).poison.toNat
    ++ (e 0).data ++ (e 1).data

def portOfBytes (bs : List Byte) : List PEntry :=
  let e := fun i : Nat => (⟨(bs.drop (8 + 64 * i)).take 64, BitVec.ofNat 16 (leAt bs (4 + 2 * i) 2)⟩ : PEntry)
  (List.range (min (leAt bs 0 1 % 4) 2)).map e

/-- The region record: the registers of R89, the row counters, the ports. -/
def regionRecord (gr : GRegs) (rowix modc relapsed : Nat) (ports : SMap (List PEntry)) : List Byte :=
  leBytes 2 gr.gext.toNat ++ [gr.gbnd, BitVec.ofNat 8 (gr.fpten.toNat + 4 * gr.rexit.toNat)]
    ++ leBytes 2 gr.gfixn.toNat ++ leBytes 2 gr.gfixe.toNat ++ leBytes 2 gr.gfixs.toNat ++ leBytes 2 gr.gfixw.toNat
    ++ leBytes 2 rowix ++ [BitVec.ofNat 8 modc, 0] ++ leBytes 4 relapsed ++ zeros 44
    ++ ((List.range 16).flatMap fun p => portBytes (SMap.get [] ports p)) ++ zeros 1856

/-- The registers of R89 from a region record; reserved bits of GEXT read 0 (R4). -/
def GRegs.ofBytes (bs : List Byte) : GRegs :=
  let h := fun o => BitVec.ofNat 16 (leAt bs o 2)
  ⟨h 0 &&& 0x3F3F, BitVec.ofNat 8 (leAt bs 2 1), h 4, h 6, h 8, h 10, BitVec.ofNat 2 (leAt bs 3 1), bitOf (leAt bs 3 1) 2⟩

/-- The port queues from a region record. -/
def portsOfBytes (bs : List Byte) : SMap (List PEntry) :=
  mapOf [] ((List.range 16).map fun p => portOfBytes ((bs.drop (64 + 136 * p)).take 136))

/-- A row position: [11:0] row, [35:12] elapsed cycles. -/
def positionWord (row elapsed : Nat) : Nat := row % 4096 + elapsed % 2 ^ 24 * 4096

/-! ### Stream records (R195) -/

def AguSt.code : AguSt → Nat
  | .idle => 0 | .bound => 1 | .queued => 2 | .running => 3 | .stalled => 4

/-- R70's code of an element size in bytes. -/
def esizeOf (code : Nat) : Nat := 2 ^ code

/-- The shadow window descriptor of R226 a stream is bound to, as 32 bytes. -/
def Shadow.bytes (w : Shadow) : List Byte :=
  leBytes 8 w.winb.toNat ++ leBytes 8 w.tgtb.toNat ++ leBytes 8 w.idxa.toNat ++ leBytes 4 w.npos
    ++ [BitVec.ofNat 8 (w.esize + 8 * w.wide.toNat), 0, 0, 0]

def Shadow.ofBytes (bs : List Byte) : Shadow :=
  ⟨BitVec.ofNat 64 (leAt bs 0 8), BitVec.ofNat 64 (leAt bs 8 8), BitVec.ofNat 64 (leAt bs 16 8), leAt bs 24 4,
    bitOf (leAt bs 28 1) 3, leAt bs 28 1 % 8⟩

/-- A stream record of a port's AGU; `n` is the count of bytes 8-11 and `side` the port entry's SIDE. -/
def Agu.record (a : Agu) (ix side n : Nat) (shadow : Bool) : List Byte :=
  [BitVec.ofNat 8 (128 + a.st.code), BitVec.ofNat 8 (ix % 64 + 64 * side)] ++ leBytes 2 a.issuer
    ++ leBytes 4 (a.i0 % 4096 + a.i1 % 1024 * 2 ^ 12 + a.i2 % 256 * 2 ^ 22) ++ leBytes 4 n ++ [BitVec.ofNat 8 a.place, 0, 0, 0]
    ++ leBytes 16 a.aword.toNat ++ wordBytes ((List.range 4).map fun i => (a.args[i]?).getD 0)
    ++ (if shadow then a.shadow.bytes else zeros 32) ++ zeros 16

end Sys2Proof.Machine
end

