-- ==== Sys2Proof/Machine/Graph.lean ====
section
/-! DEFINITION. Graph and fabric-load descriptors and the images they name, read in the queue's context and refused as R238 says
(R69, R230-R238, R242, R251, R253, R405). -/

namespace Sys2Proof.Machine

/-- The dispatcher as a party that translates (R211, R405). -/
def dispParty : Nat := 2000

/-- The cells of `n` bytes at a virtual address, 16-byte granule by granule; none where a granule cannot be reached now. -/
def State.vaCells (s : State) (who c : Nat) (user : Bool) (a : Acc) : Nat → Nat → Nat → Option (List Nat)
  | 0, _, n => if n = 0 then some [] else none
  | fuel + 1, va, n =>
    if n = 0 then some []
    else
      let k := min n (16 - va % 16)
      match (s.translate who c user a va).bind fun pa => s.liveCells pa k with
      | none => none
      | some as => (s.vaCells who c user a fuel (va + k) (n - k)).map fun r => as ++ r

/-- Granules that cover `n` bytes, and one more. -/
def granulesOf (n : Nat) : Nat := n / 16 + 2

/-- The bytes of a read whose package has become unreachable while it waited: 0xFF in that package (R376). -/
def State.readGone (s : State) (who c : Nat) (user : Bool) : Nat → Nat → Nat → Option (List Byte)
  | 0, _, n => if n = 0 then some [] else none
  | fuel + 1, va, n =>
    if n = 0 then some []
    else
      let k := min n (16 - va % 16)
      let rest := s.readGone who c user fuel (va + k) (n - k)
      match s.translate who c user .load va with
      | none => none
      | some pa =>
        match s.liveCells pa k with
        | some as => if (s.badAt as).isSome then none else rest.map fun r => as.map s.readCell ++ r
        | none => if pkgAt pa = s.gone then rest.map fun r => List.replicate k 0xFF ++ r else none

/-- `n` bytes at a virtual address; none where a granule cannot be reached or meets a soft error (R405). -/
def State.readVa (s : State) (who c : Nat) (user : Bool) (va n : Nat) : Option (List Byte) :=
  match s.vaCells who c user .load (granulesOf n) va n with
  | some as => if (s.badAt as).isSome then none else some (as.map s.readCell)
  | none => if s.gone.isSome then s.readGone who c user (granulesOf n) va n else none

/-- Bytes that the dispatcher reads in context `c` with privileged rights (R405). -/
def State.ctxRead (s : State) (c va n : Nat) : Option (List Byte) := s.readVa dispParty c false va n

/-- Where an access of `n` bytes ends before its last byte: the address of a granule, its length, and its physical address where it
has one. -/
def State.vaEnd (s : State) (who c : Nat) (user : Bool) (a : Acc) : Nat → Nat → Nat → Option (Nat × Nat × Option Nat)
  | 0, va, n => if n = 0 then none else some (va, 0, none)
  | fuel + 1, va, n =>
    if n = 0 then none
    else
      let k := min n (16 - va % 16)
      match s.translate who c user a va with
      | none => some (va, k, none)
      | some pa =>
        match s.liveCells pa k with
        | none => some (va, k, some pa)
        | some as =>
          if a = .load && (s.badAt as).isSome then some (va, k, some pa) else s.vaEnd who c user a fuel (va + k) (n - k)

/-- The words without a matching residue that end a read, in a walk or among the words read (R352). -/
def State.readBad (s : State) (who c : Nat) (user : Bool) (va n : Nat) : List Nat :=
  match s.vaEnd who c user .load (granulesOf n) va n with
  | some (_, k, some pa) => s.badWords (cellRun pa k)
  | some (v, _, none) => s.walkBad who c v
  | none => []

/-- The package that an access waits for, in a walk or at a granule (R376). -/
def State.vaHeld (s : State) (who c : Nat) (user : Bool) (a : Acc) (va n : Nat) : Option Nat :=
  match s.vaEnd who c user a (granulesOf n) va n with
  | some (_, _, some pa) => s.heldBy pa
  | some (v, _, none) => s.walkHeld who c v
  | none => none

/-- The package that an access of the dispatcher to one of some ranges waits for. -/
def State.ctxHeld (s : State) (c : Nat) (a : Acc) (rs : List (Nat × Nat)) : Option Nat :=
  rs.findSome? fun r => s.vaHeld dispParty c false a r.1 r.2

/-- The walks of a party's access of `n` bytes, counted (R161). -/
def State.walkNote (s : State) (who c va n : Nat) : State :=
  (List.range (pagesOf va n)).foldl (fun u i => u.countWalk who c (if i = 0 then va else (va / 65536 + i) * 65536)) s

/-- Ranges that a party read in context `c`: their walks and their bytes are counted (R161). -/
def State.readNote (s : State) (who c : Nat) (rs : List (Nat × Nat)) : State :=
  rs.foldl (fun t r =>
    let u := t.walkNote who c r.1 r.2
    u.countMem ((u.vaCells who c false .load (granulesOf r.2) r.1 r.2).getD []) false) s

/-- Ranges that the dispatcher read in context `c`, in order: the soft errors at which the reading ended are reported on the supervisor
of their stack's die (R352). -/
def State.readReport (s : State) (c : Nat) (rs : List (Nat × Nat)) : State :=
  let bad := ((rs.map fun r => s.readBad dispParty c false r.1 r.2).find? fun l => !l.isEmpty).getD []
  bad.foldl (fun t pa => t.softError (svOf (t.stackAt pa / 2)) pa) (s.readNote dispParty c rs)

/-- Bytes stored at a virtual address; none, with nothing stored, where a granule cannot be reached. -/
def State.writeVa (s : State) (who c : Nat) (user : Bool) (va : Nat) (bs : List Byte) : Option State :=
  (s.vaCells who c user .store (granulesOf bs.length) va bs.length).map fun as => (s.writeMem as bs).countMem as true

/-- Bytes that the dispatcher writes in context `c` (R405). -/
def State.ctxWrite (s : State) (c va : Nat) (bs : List Byte) : Option State := s.writeVa dispParty c false va bs

/-- A write that could not be reached: a bad residue that its walk met is reported (R352). -/
def State.writeReport (s : State) (who c va n : Nat) : State :=
  match s.vaEnd who c false .store (granulesOf n) va n with
  | some (v, _, none) => (s.walkBad who c v).foldl (fun t pa => t.softError (svOf (t.stackAt pa / 2)) pa) (s.walkNote who c va n)
  | _ => s.walkNote who c va n

/-! ### Checks of fields -/

/-- An address field: bits [63:56] 0 and the low `a` bits 0. -/
def addrOk (v a : Nat) : Bool := decide (v < 2 ^ 56) && v % 2 ^ a == 0

/-- Bytes off to off + n − 1 are 0. -/
def zeroAt (bs : List Byte) (off n : Nat) : Bool := ((bs.drop off).take n).all (· == 0)

/-! ### Graph descriptors (R235) -/

structure Graph where
  nload : Nat
  nstage : Nat
  quantum : Nat
  entry : List Nat
  table : List Nat          -- the addresses of its fabric-load descriptors
  deriving DecidableEq, Repr

/-- A graph descriptor; none where it is refused. -/
def State.graphAt (s : State) (c gd : Nat) : Option Graph :=
  match s.ctxRead c gd 256 with
  | none => none
  | some bs =>
    let nload := leAt bs 4 2
    let nstage := leAt bs 6 1
    let q := leAt bs 8 2
    let stages := (List.range 16).map fun k => leAt bs (16 + 4 * k) 4
    let table := (s.ctxRead c (gd + 256) (8 * nload)).map fun tb => (List.range nload).map fun x => leAt tb (8 * x) 8
    if addrOk gd 8 && leAt bs 0 4 == 1 && decide (1 ≤ nload) && decide (nload ≤ 4096) && decide (1 ≤ nstage) && decide (nstage ≤ 16)
        && zeroAt bs 7 1 && decide (1 ≤ q) && zeroAt bs 10 6 && (stages.take nstage).all (fun e => decide (e < nload))
        && (stages.drop nstage).all (· == 0) && zeroAt bs 80 176
    then match table with
      | some as => if as.all (addrOk · 8) then some ⟨nload, nstage, q, stages.take nstage, as⟩ else none
      | none => none
    else none

/-- What the dispatcher reads of a graph descriptor. -/
def State.graphRanges (s : State) (c gd : Nat) : List (Nat × Nat) :=
  (gd, 256) :: match s.ctxRead c gd 256 with
    | none => []
    | some bs => [(gd + 256, 8 * min (leAt bs 4 2) 4096)]

/-! ### Stage queue descriptors (R171) -/

structure Sqd where
  base : Nat
  cap : Nat
  esize : Nat
  scope : Nat
  head : Nat
  tail : Nat
  deriving DecidableEq, Repr

/-- A stage queue descriptor's 64 bytes; none where a field breaks R171. -/
def sqdOf (bs : List Byte) : Option Sqd :=
  let cap := leAt bs 8 1
  let es := leAt bs 9 1
  let sc := leAt bs 10 1
  if addrOk (leAt bs 0 8) 6 && decide (1 ≤ cap) && decide (cap ≤ 24) && decide (3 ≤ es) && decide (es ≤ 11) && decide (2 ≤ sc)
      && decide (sc ≤ 5) && zeroAt bs 11 5 && zeroAt bs 32 32
  then some ⟨leAt bs 0 8, 2 ^ cap, 2 ^ es, sc, leAt bs 16 8, leAt bs 24 8⟩
  else none

/-- Whether a physical address lies in stack memory or port scratchpad (R171); the package's own span-window alias of its stack memory does
not count as stack memory here (log 112). -/
def queueHome (pa : Nat) : Bool := decide (pa < lpBase) || (decide (portBase ≤ pa) && decide (pa < coreBase))

/-- The SQD at a virtual address, reached by a party with some rights. -/
def State.sqdAt (s : State) (who c : Nat) (user : Bool) (va : Nat) : Option Sqd :=
  if addrOk va 6 then
    match s.translate who c user .load va with
    | none => none
    | some pa =>
      if queueHome pa then
        match s.readVa who c user va 64 with
        | some bs => sqdOf bs
        | none => none
      else none
  else none

/-- Entry `j` of a queue. -/
def Sqd.entry (q : Sqd) (j : Nat) : Nat := q.base + j % q.cap * q.esize

/-- TAIL − HEAD, of 64-bit counters. -/
def Sqd.count (q : Sqd) : Nat := (q.tail + 2 ^ 64 - q.head) % 2 ^ 64

/-! ### Fabric-load descriptors (R236, R237) -/

def portDescOf (v : Nat) : PortDesc := ⟨fld v 0 2, fld v 2 1, fld v 3 6, fld v 9 4⟩

/-- A port entry that R237 allows: unused fields 0, and SQ below NSQ. -/
def portDescOk (v nsq : Nat) : Bool :=
  let p := portDescOf v
  decide (v < 2 ^ 13)
    && (match p.kind with
      | 0 => v == 0
      | 1 => p.sq == 0
      | _ => p.side == 0 && p.agu == 0 && decide (p.sq < nsq))

/-- A region entry of 192 bytes; none where a field is out of range. -/
def regionDescOf (bs : List Byte) (nsq : Nat) : Option RegionDesc :=
  let w := leAt bs 0 1 % 16 + 1
  let h := fld (leAt bs 0 1) 4 3 + 1
  let b2 := leAt bs 2 1
  let h16 := fun o => BitVec.ofNat 16 (leAt bs o 2)
  let gr : GRegs := ⟨h16 4, BitVec.ofNat 8 (leAt bs 6 1), h16 8, h16 10, h16 12, h16 14, BitVec.ofNat 2 (fld b2 3 2), false⟩
  let ports := (List.range 16).map fun p => leAt bs (64 + 4 * p) 4
  let nrows := leAt bs 24 2
  let nctx := leAt bs 26 2
  let nrule := leAt bs 28 2
  if decide (leAt bs 0 1 < 128) && decide (leAt bs 1 1 < 16) && decide (b2 < 32) && decide (leAt bs 3 1 < 16) && zeroAt bs 7 1
      && gr.gext &&& 0xC0C0 == 0 && decide (fld gr.gext.toNat 0 6 + 1 ≤ 4 * w) && decide (fld gr.gext.toNat 8 6 + 1 ≤ 4 * h)
      && addrOk (leAt bs 16 8) 3 && decide (1 ≤ nrows) && decide (nrows ≤ 4096) && decide (nctx ≤ 1024) && decide (nrule ≤ 64)
      && zeroAt bs 30 2 && addrOk (leAt bs 32 8) 4 && addrOk (leAt bs 40 8) 4 && addrOk (leAt bs 48 8) 4 && addrOk (leAt bs 56 8) 4
      && ports.all (fun v => portDescOk v nsq) && addrOk (leAt bs 128 8) 3 && zeroAt bs 136 56
      && decide (leAt bs 1 1 + w ≤ 16) && decide (b2 % 8 + h ≤ 8)
  then some
    { w := w, h := h, dx := leAt bs 1 1, dy := b2 % 8, gr := gr, soport := leAt bs 3 1, rows := leAt bs 16 8, nrows := nrows,
      nctx := nctx, nrule := nrule, ctxrec := leAt bs 32 8, kbank := leAt bs 40 8, palimg := leAt bs 48 8, rulerec := leAt bs 56 8,
      ports := ports.map portDescOf, somap := leAt bs 128 8 }
  else none

/-- Two region rectangles of one load share a tile. -/
def RegionDesc.meets (a b : RegionDesc) : Bool :=
  decide (a.dx < b.dx + b.w) && decide (b.dx < a.dx + a.w) && decide (a.dy < b.dy + b.h) && decide (b.dy < a.dy + a.h)

/-- No two of a list meet. -/
def apart {α : Type} (f : α → α → Bool) : List α → Bool
  | [] => true
  | a :: as => !(as.any (f a)) && apart f as

/-- All of a list, or none. -/
def allSome {α : Type} : List (Option α) → Option (List α)
  | [] => some []
  | some a :: as => (allSome as).map (a :: ·)
  | none :: _ => none

/-- The AGUs a load's ports name, as (SIDE, index). -/
def LoadDesc.agus (l : LoadDesc) : List (Nat × Nat) :=
  l.regions.flatMap fun r => (r.ports.filter fun p => p.kind == 1).map fun p => (p.side, p.agu)

/-- The SQD of a queue-bound port. -/
def LoadDesc.sqd (l : LoadDesc) (p : PortDesc) : Nat := (l.sqds[p.sq]?).getD 0

/-- FLD at an address, with the SQDs it lists; none where it is refused for anything but its images (R238). -/
def State.loadDescAt (s : State) (c a : Nat) : Option LoadDesc :=
  match s.ctxRead c a 64 with
  | none => none
  | some hd =>
    let nreg := leAt hd 4 1
    let nsq := leAt hd 5 1
    let sql := leAt hd 16 8
    if addrOk a 8 && leAt hd 0 4 == 1 && decide (1 ≤ nreg) && decide (nreg ≤ 16) && decide (nsq ≤ 16) && zeroAt hd 6 2
        && addrOk sql 3 && (decide (nsq ≠ 0) || sql == 0) && zeroAt hd 25 39
    then
      match s.ctxRead c sql (8 * nsq), s.ctxRead c (a + 64) (192 * nreg) with
      | some sq, some rb =>
        let sqds := (List.range nsq).map fun i => leAt sq (8 * i) 8
        match allSome ((List.range nreg).map fun r => regionDescOf ((rb.drop (192 * r)).take 192) nsq) with
        | none => none
        | some rs =>
          let l : LoadDesc := ⟨leAt hd 8 4, BitVec.ofNat 32 (leAt hd 12 4), BitVec.ofNat 8 (leAt hd 24 1), sqds, rs⟩
          let bound := rs.flatMap fun r => (r.ports.filter fun p => decide (2 ≤ p.kind)).map l.sqd
          if apart RegionDesc.meets rs && apart (· == ·) l.agus && sqds.all (fun q => addrOk q 6 && (s.ctxRead c q 64).isSome)
              && bound.all (fun q => match s.sqdAt dispParty c false q with
                | some d => d.esize == 64
                | none => false)
          then some l else none
      | _, _ => none
    else none

/-- What the dispatcher reads of an FLD, its images apart. -/
def State.loadRanges (s : State) (c a : Nat) : List (Nat × Nat) :=
  (a, 64) :: match s.ctxRead c a 64 with
    | none => []
    | some hd =>
      let nsq := leAt hd 5 1 % 17
      let sql := leAt hd 16 8
      (sql, 8 * nsq) :: (a + 64, 192 * (leAt hd 4 1 % 17)) :: match s.ctxRead c sql (8 * nsq) with
        | none => []
        | some sq => (List.range nsq).map fun i => (leAt sq (8 * i) 8, 64)

/-! ### Row queues (R69, R242) -/

/-- Whether an ENDL row names a LOOP row. -/
def endlOk (rows : List Nat) (i : Instr) : Bool :=
  match i with
  | .endl _ n => (rows[n.toNat]?).elim false fun w => fld w 60 4 == 1
  | _ => true

/-- A FORM row's place: row 0 with exactly the region's form (R242). -/
def formOk (w h k : Nat) (i : Instr) : Bool :=
  match i with
  | .form _ fw fh => k == 0 && fw.toNat + 1 == w && fh.toNat + 1 == h
  | _ => true

/-- A row queue that R69 and R242 take; a region of several tiles starts with FORM unless it was switched to in place. -/
def rowsOk (rows : List Nat) (w h : Nat) (needForm : Bool) : Bool :=
  match allSome (rows.map decodeRow) with
  | none => false
  | some is =>
    is.all (endlOk rows) && (is.zip (List.range is.length)).all (fun p => formOk w h p.2 p.1)
      && (!needForm || (w * h == 1) || (rows[0]?).elim false fun r => fld r 60 4 == 6)

/-! ### Context records and rule-table records (R230-R232, R251) -/

/-- A rectangle of elements: its columns and rows, as pairs (row, column), in the order of R230. -/
def rectangle (x0 y0 w h : Nat) : List (Nat × Nat) :=
  (List.range h).flatMap fun b => (List.range w).map fun a => (y0 + b, x0 + a)

/-- A slot to write: element (row, column) of the region, entry, contents. -/
structure SlotWrite where
  y : Nat
  x : Nat
  entry : Nat
  slot : W64
  deriving DecidableEq, Repr

/-- The slots of a run of entries over a rectangle, from the image's slots in order. -/
def slotWrites (first count : Nat) (rect : List (Nat × Nat)) (per : Bool) (img : List Nat) : List SlotWrite :=
  (rect.zip (List.range rect.length)).flatMap fun e =>
    (List.range count).map fun j =>
      ⟨e.1.1, e.1.2, first + j, BitVec.ofNat 64 ((img[(if per then count * e.2 else 0) + j]?).getD 0)⟩

/-- Bytes 8-15 of a context record or of a `ctxload` target descriptor: FIRST, COUNT and the rectangle. -/
structure CtxTarget where
  first : Nat
  count : Nat
  x0 : Nat
  y0 : Nat
  w : Nat
  h : Nat
  per : Bool
  deriving DecidableEq, Repr

def ctxTargetOf (bs : List Byte) (off : Nat) : Option CtxTarget :=
  let b := fun i => leAt bs (off + i) 1
  if decide (b 0 < 32) && decide (b 1 < 32) && decide (b 0 + b 1 + 1 ≤ 32) && decide (b 2 < 64) && decide (b 3 < 32) && decide (b 4 < 64)
      && decide (b 5 < 32) && decide (b 6 < 2) && b 7 == 0
  then some ⟨b 0, b 1 + 1, b 2, b 3, b 4 + 1, b 5 + 1, b 6 == 1⟩
  else none

def CtxTarget.rect (t : CtxTarget) : List (Nat × Nat) := rectangle t.x0 t.y0 t.w t.h

/-- Slots in the image of a target. -/
def CtxTarget.slots (t : CtxTarget) : Nat := t.count * (if t.per then t.w * t.h else 1)

/-- Whether a rectangle lies in a form of w × h tiles. -/
def inForm (x0 y0 ew eh w h : Nat) : Bool := decide (x0 + ew ≤ 4 * w) && decide (y0 + eh ≤ 4 * h)

/-- The slot writes of one context record; none where the record or a slot is refused (R65, R66, R230). -/
def State.ctxRecordAt (s : State) (c a w h : Nat) : Option (List SlotWrite) :=
  match s.ctxRead c a 16 with
  | none => none
  | some bs =>
    match ctxTargetOf bs 8 with
    | none => none
    | some t =>
      let img := leAt bs 0 8
      if addrOk img 3 && inForm t.x0 t.y0 t.w t.h w h then
        match s.ctxRead c img (8 * t.slots) with
        | none => none
        | some ib =>
          let sl := (List.range t.slots).map fun i => leAt ib (8 * i) 8
          if sl.all slotOk then some (slotWrites t.first t.count t.rect t.per sl) else none
      else none

/-- A rule entry to write: element (row, column), index 1024t + e, contents. -/
structure RuleWrite where
  y : Nat
  x : Nat
  ix : Nat
  val : W16
  deriving DecidableEq, Repr

/-- Bytes 8-31 of a rule-table record (R251). -/
structure RuleTarget where
  first : Nat
  count : Nat
  table : Nat
  per : Bool
  x0 : Nat
  y0 : Nat
  w : Nat
  h : Nat
  deriving DecidableEq, Repr

def ruleTargetOf (bs : List Byte) : Option RuleTarget :=
  let b := fun i => leAt bs i 1
  let first := leAt bs 8 2
  let count := leAt bs 10 2
  if decide (first < 1024) && decide (count < 1024) && decide (first + count + 1 ≤ 1024) && decide (b 12 < 4) && decide (b 13 < 2)
      && decide (b 14 < 64) && decide (b 15 < 32) && decide (b 16 < 64) && decide (b 17 < 32) && zeroAt bs 18 14
  then some ⟨first, count + 1, b 12, b 13 == 1, b 14, b 15, b 16 + 1, b 17 + 1⟩
  else none

def RuleTarget.size (t : RuleTarget) : Nat := t.count * (if t.per then t.w * t.h else 1)

/-- The writes of a rule-table image (R251). -/
def RuleTarget.writes (t : RuleTarget) (img : List Byte) : List RuleWrite :=
  let rect := rectangle t.x0 t.y0 t.w t.h
  (rect.zip (List.range rect.length)).flatMap fun e =>
    (List.range t.count).map fun j =>
      ⟨e.1.1, e.1.2, 1024 * t.table + t.first + j, BitVec.ofNat 16 (leAt img (2 * ((if t.per then t.count * e.2 else 0) + j)) 2)⟩

def State.ruleRecordAt (s : State) (c a w h : Nat) : Option (List RuleWrite) :=
  match s.ctxRead c a 32 with
  | none => none
  | some bs =>
    match ruleTargetOf bs with
    | none => none
    | some t =>
      let img := leAt bs 0 8
      if addrOk img 1 && inForm t.x0 t.y0 t.w t.h w h then (s.ctxRead c img (2 * t.size)).map t.writes else none

/-! ### Palettes (R253) -/

structure PalImage where
  pals : List (Nat × W32)
  lq8 : Option (List W16)
  deriving DecidableEq, Repr

/-- The masked entries and the LQ8 table of a palette image's bytes. -/
def palImageOf (bs : List Byte) : PalImage :=
  let mask := leAt bs 32 1
  ⟨((List.range 8).filter (bitOf mask)).map fun i => (i, w32At bs (4 * i)),
    if bitOf (leAt bs 33 1) 0 then some ((List.range 256).map fun i => BitVec.ofNat 16 (leAt bs (64 + 2 * i) 2)) else none⟩

/-- The offset of the first byte or entry that R253 or R36 refuses, in a 64-byte image head. -/
def palOffender (bs : List Byte) : Option Nat :=
  ((List.range 64).find? fun o =>
    if o < 32 then o % 4 == 0 && bitOf (leAt bs 32 1) (o / 4) && palRefused (w32At bs o)
    else if o = 33 then decide (1 < leAt bs 33 1)
    else decide (33 < o) && leAt bs o 1 != 0)

/-- Bytes of a palette image, from its head. -/
def palSize (hd : List Byte) : Nat := if bitOf (leAt hd 33 1) 0 then 576 else 64

def State.palImageAt (s : State) (c a : Nat) : Option PalImage :=
  match s.ctxRead c a 64 with
  | none => none
  | some hd =>
    if (palOffender hd).isSome then none
    else (s.ctxRead c a (palSize hd)).map palImageOf

/-! ### What a region loads (R240) -/

structure RegionImage where
  rows : List W64
  slots : List SlotWrite
  rules : List RuleWrite
  pal : Option PalImage
  kbank : Option (List W32)
  soports : List Nat
  deriving DecidableEq, Repr

/-- The images a region entry names; none where one is refused (R238). -/
def State.regionImage (s : State) (c : Nat) (d : RegionDesc) (needForm : Bool) : Option RegionImage :=
  let nel := 16 * d.w * d.h
  match s.ctxRead c d.rows (8 * d.nrows),
      allSome ((List.range d.nctx).map fun i => s.ctxRecordAt c (d.ctxrec + 16 * i) d.w d.h),
      allSome ((List.range d.nrule).map fun i => s.ruleRecordAt c (d.rulerec + 32 * i) d.w d.h),
      (if d.palimg = 0 then some none else (s.palImageAt c d.palimg).map some),
      (if d.kbank = 0 then some none else (s.ctxRead c d.kbank 1024).map some),
      (if d.somap = 0 then some none else (s.ctxRead c d.somap (nel / 2)).map some) with
  | some rb, some cw, some rw, some pal, some kb, some sm =>
    let rows := (List.range d.nrows).map fun i => leAt rb (8 * i) 8
    if rowsOk rows d.w d.h needForm then some
      { rows := rows.map (BitVec.ofNat 64), slots := cw.flatten, rules := rw.flatten, pal := pal,
        kbank := kb.map fun b => wordsAt b 0 256,
        soports := (List.range nel).map fun i => match sm with
          | some b => leAt b (i / 2) 1 / 16 ^ (i % 2) % 16
          | none => d.soport }
    else none
  | _, _, _, _, _, _ => none

/-- What the dispatcher reads of a region entry's images. -/
def State.imageRanges (s : State) (c : Nat) (d : RegionDesc) : List (Nat × Nat) :=
  let at8 := fun a => (s.ctxRead c a 8).elim 0 leNat
  (d.rows, 8 * d.nrows) ::
    ((List.range d.nctx).flatMap fun i =>
      let a := d.ctxrec + 16 * i
      (a, 16) :: match (s.ctxRead c a 16).bind fun bs => ctxTargetOf bs 8 with
        | some t => [(at8 a, 8 * t.slots)]
        | none => [])
    ++ ((List.range d.nrule).flatMap fun i =>
      let a := d.rulerec + 32 * i
      (a, 32) :: match (s.ctxRead c a 32).bind ruleTargetOf with
        | some t => [(at8 a, 2 * t.size)]
        | none => [])
    ++ (if d.palimg = 0 then [] else (d.palimg, 64) :: match s.ctxRead c d.palimg 64 with
        | some hd => [(d.palimg, palSize hd)]
        | none => [])
    ++ (if d.kbank = 0 then [] else [(d.kbank, 1024)]) ++ (if d.somap = 0 then [] else [(d.somap, 8 * d.w * d.h)])

/-- A refused FLD: a bad residue that its reading met is reported (R352). -/
def State.fldReport (s : State) (c a : Nat) : State :=
  s.readReport c (match s.loadDescAt c a with
    | none => s.loadRanges c a
    | some d => d.regions.flatMap (s.imageRanges c))

/-- What the dispatcher reads of a load whose descriptor it has: the images. -/
def State.descRanges (s : State) (c : Nat) (d : LoadDesc) : List (Nat × Nat) := d.regions.flatMap (s.imageRanges c)

end Sys2Proof.Machine
end

