-- ==== Sys2Proof/Machine/Lifecycle.lean ====
section
/-! DEFINITION. How loads and launches end (R150, R166, R169, R215, R229, R240, R322, R375). -/

namespace Sys2Proof.Machine

/-! ### Completion (R166, R375, R405) -/

/-- An Ocica vector raised. -/
def State.raiseIrq (s : State) (v : Nat) : State := { s with irqs := v :: s.irqs }

/-- The interrupt of queue `q`, where its QCB asks for it. -/
def State.queueIrq (s : State) (q : Nat) : State := if (s.queue q).irq then s.raiseIrq (q % 2040) else s

/-- The interrupt that follows a write of the dispatcher, if one does. -/
def State.afterWrite (s : State) (q : Option Nat) : State :=
  match q with
  | some n => s.queueIrq n
  | none => s

/-- A write of the dispatcher in context `c`, with the interrupt that follows it: it waits for a span link that is down (R376); one
that cannot be reached is not performed (R405). -/
def State.dispPut (s : State) (c va : Nat) (bs : List Byte) (q : Option Nat) : State :=
  match s.ctxWrite c va bs with
  | some t => (t.walkNote dispParty c va bs.length).afterWrite q
  | none =>
    if (s.ctxHeld c .store [(va, bs.length)]).isSome then { s with late := s.late ++ [⟨some c, va, bs, q, false, 0⟩] }
    else (s.writeReport dispParty c va bs.length).afterWrite q

/-- Bytes stored at a physical address: the write waits for a span link that is down (R376); one that reaches nothing is not performed. -/
def State.physPut (s : State) (pa : Nat) (bs : List Byte) : State :=
  match s.physWrite pa bs with
  | some t => t
  | none => if (s.heldBy pa).isSome then { s with late := s.late ++ [⟨none, pa, bs, none, false, 0⟩] } else s

/-- An access of the host waits, and later ones keep behind it (R164, R374). -/
def State.hostLate (s : State) : Bool := s.late.any (·.host)

/-- A write of the dispatcher window by a party; the host's keeps behind its earlier accesses. -/
def State.inOrder (s : State) (p : Party) (off size v : Nat) (now : State) : State :=
  if p = .host ∧ s.hostLate then { s with late := s.late ++ [⟨none, dispBase + off, leBytes size v, none, true, 0⟩] } else now

/-- A completion word of a record, and the interrupt of its queue; a record with no completion word has neither (R163, R375). One rejected
for the low bits of its address is answered at that address as it stands (log 110). -/
def State.complete (s : State) (q c : Nat) (r : Record) (status : Nat) : State :=
  if r.cw = 0 then s else s.dispPut c r.cw.toNat (leBytes 8 (status + r.tag.toNat * 2 ^ 32)) (some q)

/-! ### Loads of a launch, of a context -/

/-- The numbers of the loads for which a test holds. -/
def State.loadsWith (s : State) (p : Load → Bool) : List Nat :=
  ((s.loads.map (·.1)).eraseDups).filter fun l => (s.load l).st != .ended && p (s.load l)

/-- The context of a load. -/
def State.loadCtx (s : State) (l : Nat) : Nat := (s.launch (s.load l).launch).record.ctx.toNat

/-- Fold a state through a list. -/
def State.each {α : Type} (s : State) (xs : List α) (f : State → α → State) : State := xs.foldl f s

/-! ### Freeing regions (R150, R229) -/

/-- Every context entry of an element EMPTY. -/
def State.clearCtx (s : State) (e : Nat) : State := s.setElem e { s.elem e with ctx := [] }

/-- A region given up by its load: every item of R89 keeps its value (R89; log 79). -/
def Region.freed (r : Region) : Region := { Region.reset with gr := r.gr }

/-- A region of a load that ends, is pre-empted or torn down: its context entries become EMPTY (R229) and its tiles are free. A region
that a gate stopped keeps its other latches and its tiles until a scan release, if none has come (R150; log 79). -/
def State.freeRegion (s : State) (g : Nat) : State :=
  let t := s.each ((s.region g).elemIds g) State.clearCtx
  match (s.region g).mode with
  | .gated 3 _ => t.setRegion g (t.region g).freed
  | .gated _ _ =>
    t.setRegion g (if (t.region g).scanFreed then (t.region g).freed else { t.region g with awaitScan := true })
  | _ => t.setRegion g (t.region g).freed

/-- Whether an AGU is attached to a load. -/
def Agu.of (a : Agu) (l : Nat) : Bool :=
  match a.attach with
  | some (m, _) => m == l
  | none => false

/-- The AGUs attached to a load. -/
def State.loadAgus (s : State) (l : Nat) : List Nat := ((s.agus.map (·.1)).eraseDups).filter fun i => (s.agu i).of l

/-- An AGU detached: a stream that it runs ends with its attachment; everything else it holds stays (R194). -/
def Agu.detached (a : Agu) : Agu :=
  if a.st.live then { a with attach := none, st := .bound, run := a.run + 1 } else { a with attach := none }

def State.detach (s : State) (a : Nat) : State := s.setAgu a (s.agu a).detached

/-- The AGUs whose live streams are those of a region port. -/
def State.rivals (s : State) (g p : Nat) : List Nat :=
  ((s.agus.map (·.1)).eraseDups).filter fun k =>
    (s.agu k).st.live && (s.agu k).attach.elim false (fun t => t.2 == g) && (s.agu k).port == p

/-- A stream has left its port: its AGU is bound, and those behind it on the port move up (R197). -/
def State.leavePort (s : State) (i : Nat) (a : Agu) : State :=
  let t := s.setAgu i { a with st := .bound, bytes := [], poison := [] }
  t.each (a.attach.elim [] fun x => t.rivals x.2 a.port) fun u k => u.setAgu k { u.agu k with place := (u.agu k).place - 1 }

/-- A factor store unbound; its owner stays (R358). -/
def State.unbind (s : State) (f : Nat) : State := s.setFstore f { s.fstore f with bound := none }

/-! ### Samples of a load (R322) -/

/-- The samples among released egress. -/
def samplesIn (es : List Egress) : Nat :=
  es.countP fun e => match e.kind with
    | .frag _ _ => true
    | _ => false

/-- Whether a sample that a load released has neither been blended nor discarded. -/
def State.samplesLeft (s : State) (l : Nat) : Bool :=
  s.exch.any (fun p => p.2.any fun m => m.owner == l) || s.windows.any (fun p => p.2.any fun m => m.owner == l)
    || (s.load l).regions.any (fun g => decide (0 < samplesIn (s.region g).released))
    || (s.load l).out.any fun es => decide (0 < samplesIn es)

/-! ### Released egress of a load that has failed (R144, R149) -/

/-- Whether a region runs and reads a stage queue. -/
def Region.readsQueue (r : Region) (q : W64) : Bool :=
  !r.isStopped && r.binds.any fun p => match p.2 with
    | .input x => x == q
    | _ => false

/-- Whether an entry that a load released can still join a stage queue: it has room, or another load is there to make room, or its
package's span link is down (log 57). -/
def State.queueOpen (s : State) (l : Nat) (q : W64) : Bool :=
  let c := s.loadCtx l
  match s.sqdAt dispParty c false q.toNat with
  | some d => decide (d.count < d.cap) || s.loads.any fun p =>
      p.1 != l && (s.load p.1).st == .resident && (s.load p.1).regions.any fun g => (s.region g).readsQueue q
  | none => (s.ctxHeld c .load [(q.toNat, 64)]).isSome

/-- Whether released egress of a load can still leave its buffer: an outward stream takes it, or a stage queue does. -/
def State.egressMoves (s : State) (l : Nat) : Bool :=
  (s.load l).regions.any fun g =>
    let r := s.region g
    r.released.any fun e => match e.kind with
      | .stage p _ _ => (match SMap.get .unbound r.binds p with
          | .stream i => ((s.agu i).st == .running || (s.agu i).st == .queued) && (s.agu i).outward
          | .output q => s.queueOpen l q
          | _ => false)
      | _ => false

/-! ### Teardown's end (R169, R215) -/

/-- A factor store of context `c` as the context's teardown leaves it: cleared and released, but for one with an operation in progress,
which completes first (R373). -/
def FStore.tornDown (x : FStore) (c : Nat) : FStore :=
  if x.own.toNat ≠ 4096 + c then x
  else match x.busy with
    | some _ => { x with due := true }
    | none => FStore.reset

/-- The factor stores of a torn-down context. -/
def State.dropStores (s : State) (c : Nat) : State :=
  { s with fstores := SMap.mapVal FStore.reset (fun x => x.tornDown c) s.fstores }

/-- BUSY of a context returns to 0 when no load of it is left; with that its translations are dropped, its shadow window slots
unbound and its factor stores released. -/
def State.settleContext (s : State) (c : Nat) : State :=
  if (s.ctx c).busy && (s.loads.all fun p => (s.load p.1).st == .ended || s.loadCtx p.1 != c) then
    let t := (s.setCtx c { s.ctx c with busy := false }).dropStores c
    { t with tlb := t.tlb.filter (fun e => e.ctx != c), shadows := SMap.clearRange t.shadows (64 * c) (64 * c + 64) }
  else s

/-- A launch whose loads have all ended ends: its completion word receives DONE, or the status of the load that failed first
(R240). A launch that has not failed ends when every stage has. -/
def State.settleLaunch (s : State) (k : Nat) : State :=
  let l := s.launch k
  if l.live && (s.loadsWith fun x => x.launch == k).isEmpty && (l.fail ≠ 0 || decide (l.nstage ≤ l.ended.length)) then
    let t := s.setLaunch k Launch.reset
    (t.complete l.queue l.record.ctx.toNat l.record (if l.fail = 0 then 1 else l.fail)).settleContext l.record.ctx.toNat
  else s

/-- A load leaves the pending-load list or its regions: entries, AGUs and factor stores are given up. -/
def State.dropLoad (s : State) (l : Nat) : State :=
  let x := s.load l
  let t := ((s.each x.regions State.freeRegion).each (s.loadAgus l) State.detach).each x.fs State.unbind
  t.setLoad l Load.reset

/-- The status of a launch after a failure in cycle `now`: the first counts, and of several in one cycle the lowest (R240). -/
def Launch.failed (l : Launch) (status : Nat) (now : W64) : Launch :=
  if l.fail = 0 then { l with fail := status, failAt := now }
  else if l.failAt = now then { l with fail := min l.fail status }
  else l

/-- A load is to end with a status, if it is not already. -/
def State.stopLoad (s : State) (status m : Nat) : State :=
  s.setLoad m { s.load m with stop := if (s.load m).stop = 0 then status else (s.load m).stop }

/-- A failing status ends the whole launch: its pending loads are removed, each once no sample that it released is left (R322), and its
resident ones stop at their next boundary (R240). -/
def State.failLaunch (s : State) (k status : Nat) : State :=
  let t := s.setLaunch k ((s.launch k).failed status s.gcyc)
  let u := t.each (t.loadsWith fun x => x.launch == k && x.st == .pending) fun v m =>
    if v.samplesLeft m then v.stopLoad status m else v.dropLoad m
  u.each (u.loadsWith fun x => x.launch == k && x.st == .resident) fun v m => v.stopLoad status m

/-- A load ends with a status (R166, R240): 1 ends its stage, another fails its launch. -/
def State.endLoad (s : State) (l status : Nat) : State :=
  let x := s.load l
  let c := s.loadCtx l
  let t := s.dropLoad l
  let u := if status = 1 then
      t.setLaunch x.launch { t.launch x.launch with ended := (t.launch x.launch).ended ++ [x.stage] }
    else t.failLaunch x.launch status
  (u.settleLaunch x.launch).settleContext c

/-- A load ends once no sample it released is left (R322), and what its closed windows released has left the buffer as far as it
can (R149; log 57); until then its end waits. -/
def State.tryEnd (s : State) (l status : Nat) : State := if s.samplesLeft l || s.egressMoves l then s else s.endLoad l status

/-- A pending load that is to end does so once no sample it released is left (R322). -/
def State.endPending (s : State) (l : Nat) : State :=
  let x := s.load l
  if x.st == .pending && x.stop != 0 && !s.samplesLeft l then s.endLoad l x.stop else s

/-- The cause by which a detected freeze ends the load of its region, if it does (R149). -/
def Freeze.ending (f : Freeze) : Option Nat := if f.cause = 3 then f.also else some f.cause

/-- Whether a region holds a resident load and is not gated: a cause can stop it. -/
def Region.gateable (r : Region) : Bool :=
  match r.mode with
  | .free => false
  | .gated _ _ => false
  | .spent => false
  | _ => true

/-- Whether a region stands still for the failure of its load: it does so for good, where no scan freeze holds it. -/
def Region.failed (r : Region) : Bool :=
  match r.mode with
  | .spent => true
  | .gated c _ => c != 3
  | _ => false

/-- The regions of a load that has failed stop; their windows are discarded (R149; log 78). -/
def State.spend (s : State) (l : Nat) : State :=
  s.each (s.load l).regions fun t g =>
    let r := t.region g
    if r.gateable then t.setRegion g { r with mode := .spent, egress := [], freeze := none, work := [], saved := [] } else t

/-- A load that has failed ends, once no cause that was detected in one of its regions is still to stop it. -/
def State.endFailed (s : State) (l : Nat) : State :=
  let due := fun g => (s.region g).gateable && (s.region g).freeze.any fun f => f.ending.isSome
  if (s.load l).regions.any due then s
  else
    let t := s.spend l
    if (t.load l).regions.all fun g => (t.region g).failed then t.tryEnd l (t.load l).stop else t

/-- A load fails with a status: its launch fails in this cycle, and the load ends (R149, R240). -/
def State.failLoad (s : State) (l status : Nat) : State := (s.failLaunch (s.load l).launch status).endFailed l

/-- The status of a load that a teardown ends (R166, R169). -/
def statusAborted : Nat := 10

/-- The status of a load ended by a gate of a cause (R149). -/
def gateStatus (cause : Nat) : Nat :=
  match cause with
  | 1 => 5
  | 2 => 6
  | 4 => 4
  | _ => 7

end Sys2Proof.Machine
end

