-- ==== Sys2Proof/Machine/Matrix.lean ====
section
/-! DEFINITION. Matrix passes: group snapshots and landings (R39-R44, R323-R328). -/

namespace Sys2Proof.Machine

/-- exact_sum of R40, with NV where the terms include both infinities, whatever else they include (R41). -/
def exactSum (ts : List FVal) : FVal × Flags :=
  if ts.contains (.inf false) && ts.contains (.inf true) then (.nan false, flagNV)
  else if ts.any FVal.isNaN then (.nan false, flagNone)
  else
    match ts with
    | [] => (.fin false 0 0, flagNone)
    | t :: rest => (rest.foldl (fun a x => (a.add x).1) t, flagNone)

/-- The products of two tokens, and NV where an operand is a signalling NaN or a product is ∞ × 0 (R39, R41). -/
def products (xs ys : List FVal) : List FVal × Flags :=
  let ps := (xs.zip ys).map fun p => p.1.mul p.2
  (ps.map (·.1), ps.foldl (fun f p => f ||| p.2) flagNone)

/-- A quiet copy of a value: a NaN that reaches a rounding step raises nothing there (R41). -/
def FVal.quietly : FVal → FVal
  | .nan _ => .nan false
  | v => v

/-- One group of a real pass added into an entry (R40, R44): its new bits and flags. -/
def accReal (acc : W32) (a b : OpSlot) (lq8 : SMap W16) : W32 × Flags :=
  let xs := a.values lq8
  let ys := b.values lq8
  let skip := (a.skipped && !(ys.any FVal.special)) || (b.skipped && !(xs.any FVal.special))
  if skip then (acc, flagNone)
  else
    let p := products xs ys
    let sm := exactSum p.1
    let gs := roundF32 sm.1
    let t := ((fmtF32.decode acc.toNat).quietly).add (fmtF32.decode gs.1)
    let r := roundF32 t.1
    (BitVec.ofNat 32 r.1, p.2 ||| sm.2 ||| gs.2 ||| t.2 ||| r.2)

/-- An exact integer of a value that is one. -/
def FVal.toInt : FVal → Int
  | .fin s m e => signedInt s (m * 2 ^ e.toNat)
  | _ => 0

/-- One group of an integer pass added into an entry (R42). IOVF stands where DZ stands in ESTAT (R324). -/
def accInt (acc : W32) (a b : OpSlot) : W32 × Flags :=
  let gs := ((a.values []).zip (b.values [])).foldl (fun n p => n + p.1.toInt * p.2.toInt) (0 : Int)
  let v := acc.toInt + gs
  (BitVec.ofInt 32 v, if v < -2 ^ 31 ∨ 2 ^ 31 - 1 < v then flagDZ else flagNone)

/-- The valid slots among the first `n` of a set, by number. -/
def validSlots (n : Nat) (m : SMap OpSlot) : List (Nat × OpSlot) :=
  ((List.range n).map fun k => (k, SMap.get OpSlot.reset m k)).filter fun p => p.2.v

/-- The widest element width among the valid slots of both sets (R326). -/
def classWidth (a b : SMap OpSlot) : Nat :=
  (validSlots 32 a ++ validSlots 64 b).foldl (fun w p => max w (fmtWidth (palFmt p.2.ent))) 0

/-- An operand that a pass of its kind refuses: not integer in an integer pass (R38, R328). -/
def wrongKind (int : Bool) (o : OpSlot) : Bool := int && !fmtInteger (palFmt o.ent)

/-- One entry (i, j) of a group landing: its key, value, poison and flags; `x` is the value of a poisoned entry. -/
def groupEntry (t : Tile) (g : GroupSnap) (x : W32) (a b : Nat × OpSlot) : Nat × W32 × Bool × Flags :=
  let key := 2048 * g.acc + 64 * a.1 + b.1
  let bad := a.2.poisoned || b.2.poisoned || wrongKind g.int a.2 || wrongKind g.int b.2 || SMap.get false t.accp key
  if bad then (key, x, true, flagNone)
  else
    let r := if g.int then accInt (SMap.get 0 t.acc key) a.2 b.2 else accReal (SMap.get 0 t.acc key) a.2 b.2 g.lq8
    (key, r.1, false, r.2)

/-- The entries of a group: every valid row with every valid column. -/
def groupEntries (t : Tile) (g : GroupSnap) (free : Nat → W32) : List (Nat × W32 × Bool × Flags) :=
  (validSlots 32 g.opa).flatMap fun a => (validSlots 64 g.opb).map fun b => groupEntry t g (free (64 * a.1 + b.1)) a b

/-- Entries written into a tile's accumulators. -/
def Tile.putEntries (t : Tile) (es : List (Nat × W32 × Bool × Flags)) : Tile :=
  es.foldl (fun t e =>
    { t with acc := SMap.set 0 t.acc e.1 e.2.1, accp := SMap.set false t.accp e.1 e.2.2.1,
             aflag := SMap.set 0 t.aflag (e.1 / 2048) (SMap.get 0 t.aflag (e.1 / 2048) ||| e.2.2.2) }) t

/-- MATRIX_GROUP_LANDING (R327): the group of a tile that is due in this region cycle is added into its accumulator. -/
def execMatrixGroupLanding (g t : Nat) (s : State) : Out :=
  let r := s.region g
  let tl := s.tile t
  match tl.groups with
  | gr :: rest =>
    if gr.due ≤ r.rc then
      .next (s.setTile t { tl.putEntries (groupEntries tl gr fun i => s.free (4096 * (t % 128) + i)) with groups := rest })
    else .next s
  | [] => .next s

/-- The faults of a snapshot in an integer pass: the feeders of slots whose format is not integer, at +4 (R328). They belong to no lane
and no context entry, and are recorded with lane 0 and entry 0 (log 102). -/
def kindFaults (t due : Nat) (int : Bool) (n : Nat) (m : SMap OpSlot) : List Flight :=
  ((validSlots n m).filter fun p => wrongKind int p.2).map fun p =>
    ⟨due, elemOfTile t (p.2.feeder.toNat % 4) (p.2.feeder.toNat / 4), 0, .nothing, 0, some (4, 0)⟩

/-- MATRIX_GROUP_SNAPSHOT (R327, R328): the slots of a tile whose pass has a group to start in this region cycle are kept for the
group's landing, D + 4 cycles on; the next group starts D cycles on. -/
def execMatrixGroupSnapshot (g t : Nat) (s : State) : Out :=
  let r := s.region g
  let tl := s.tile t
  match tl.pass with
  | some p =>
    if p.next ≤ r.rc then
      if p.left = 0 then .next (s.setTile t { tl with pass := none })
      else
        let d := groupCycles (classWidth tl.opa tl.opb)
        let snap : GroupSnap := ⟨r.rc + d + 4, p.acc, p.int, tl.opa, tl.opb, r.lq8⟩
        let s1 := s.setTile t { tl with pass := some { p with left := p.left - 1, next := r.rc + d }, groups := tl.groups ++ [snap] }
        let s2 := s1.setRegion g { r with
          flight := r.flight ++ kindFaults t (r.rc + 4) p.int 32 tl.opa ++ kindFaults t (r.rc + 4) p.int 64 tl.opb }
        .next (s2.count (0x100 + 16 * (t / 128) + 4) 1)
    else .next s
  | none => .next s

/-- Whether a tile's array is busy in region cycle `rc` (R327). -/
def Tile.busy (t : Tile) (rc : Nat) : Bool :=
  match t.pass with
  | some p => decide (0 < p.left) || decide (rc < p.next)
  | none => false

/-- Whether a pass over accumulator `n` has been issued and has not completed (R337). -/
def Tile.accBusy (t : Tile) (n : Nat) : Bool :=
  (match t.pass with
    | some p => p.acc == n && decide (0 < p.left)
    | none => false) || t.groups.any fun g => g.acc == n

/-- An accumulator cleared by the MPASS clear bit (R327). -/
def Tile.clearAcc (t : Tile) (n : Nat) : Tile :=
  { t with acc := SMap.clearRange t.acc (2048 * n) (2048 * n + 2048), accp := SMap.clearRange t.accp (2048 * n) (2048 * n + 2048),
           aflag := SMap.set 0 t.aflag n 0 }

end Sys2Proof.Machine
end

