-- ==== Sys2Proof/Machine/Operands.lean ====
section
/-! DEFINITION. The operands of E-words: what a source supplies in a lane (R63, R117), which lanes a word acts in (R118),
and where its lane results go (R116, R143, R187, R191). -/

namespace Sys2Proof

/-- The raw six bits of a literal that names a direction, a port, a mode or a position. -/
def ESrc.raw : ESrc → Nat
  | .lit n => n.toNat
  | _ => 0

end Sys2Proof

namespace Sys2Proof.Machine

/-! ### Literals (R63) -/

/-- The magnitudes of the FP constant table. -/
def fpTable : List W32 :=
  [0x00000000, 0x3F800000, 0x40000000, 0x40400000, 0x40800000, 0x40A00000, 0x40C00000, 0x41000000,
   0x41100000, 0x41200000, 0x41800000, 0x42100000, 0x42C80000, 0x43800000, 0x3F000000, 0x3E800000] ++
  [0x3E000000, 0x3D800000, 0x3F400000, 0x3FC00000, 0x3EAAAAAB, 0x3E2AAAAB, 0x3DE38E39, 0x3EE38E39,
   0x3CE38E39, 0x40490FDB, 0x3F317218, 0x3FB8AA3B, 0x3FB504F3, 0x3F3504F3, 0x402DF854, 0x7F800000]

/-- How a word reads a literal: as an integer, as an FP table entry, or as that entry converted to a 16-bit format and put
in both halves (R117). -/
inductive LitKind where
  | int
  | f32
  | halves (f : Fmt)
  deriving DecidableEq, Repr

/-- The FP32 word of an FP literal. -/
def fpLit (n : BitVec 6) : W32 :=
  (fpTable[n.toNat % 32]?).getD 0 ||| (if n.toNat < 32 then 0 else 0x80000000)

def litVal (k : LitKind) (n : BitVec 6) : W32 :=
  match k with
  | .int => n.signExtend 32
  | .f32 => fpLit n
  | .halves f =>
    let h := BitVec.ofNat 16 (convertBits fmtF32 f false (fpLit n).toNat).1
    h ++ h

/-! ### Registers of an element -/

def Elem.lane (e : Elem) (n i : Nat) : W32 := SMap.get 0 e.v (32 * n + i)
def Elem.laneP (e : Elem) (n i : Nat) : Bool := (SMap.get 0 e.vp n).getLsbD i
def Elem.sreg (e : Elem) (n : Nat) : W32 := SMap.get 0 e.s n
def Elem.sregP (e : Elem) (n : Nat) : Bool := SMap.get false e.sp n
def Elem.mreg (e : Elem) (n : Nat) : W32 := SMap.get 0 e.m n
def Elem.mregP (e : Elem) (n : Nat) : W32 := SMap.get 0 e.mp n
/-- QUIET and KBSEL of ESTAT (R87). -/
def Elem.quiet (e : Elem) : Bool := e.estat.getLsbD 7
def Elem.kbsel (e : Elem) : Nat := fld e.estat.toNat 5 2

/-- A value of a lane and its poison bit. -/
abbrev LVal := W32 × Bool

/-- The element that executes, its tile and its region. -/
def State.myElem (s : State) : Elem := s.elem s.site.el
def State.myTile (s : State) : Nat := tileOfElem s.site.el
def State.myRegion (s : State) : Region := s.region s.site.g

/-- Constant-bank entry k(64 × KBSEL + n) of an element's tile. -/
def State.kEntry (s : State) (el n : Nat) : W32 :=
  SMap.get 0 (s.tile (tileOfElem el)).kbank (64 * (s.elem el).kbsel + n)

/-- What a source supplies in lane `i` (R117); a mask supplies its 32 bits, and its poison is the word's to judge. -/
def State.src (s : State) (k : LitKind) (x : ESrc) (i : Nat) : LVal :=
  match x with
  | .v n => (s.myElem.lane n.toNat i, s.myElem.laneP n.toNat i)
  | .s n => (s.myElem.sreg n.toNat, s.myElem.sregP n.toNat)
  | .k n => (s.kEntry s.site.el n.toNat, false)
  | .lit n => (litVal k n, false)
  | .m n => (s.myElem.mreg n.toNat, false)
  | .p _ => (0, false)
  | .none => (0, false)

/-- The poison bits of a mask source. -/
def State.srcMaskP (s : State) (x : ESrc) : W32 :=
  match x with
  | .m n => s.myElem.mregP n.toNat
  | _ => 0

/-! ### Active lanes (R118) -/

/-- The bits of a predicate, and its poison bits. -/
def Elem.predBits (e : Elem) : EPred → W32 × W32
  | .always => (0xFFFFFFFF, 0)
  | .m6 => (e.mreg 6, e.mregP 6)
  | .m7 => (e.mreg 7, e.mregP 7)
  | .notM7 => (~~~ e.mreg 7, e.mregP 7)

/-- The lanes a predicate selects in an element that is not quiet; a poisoned bit counts as selecting (R143). -/
def Elem.picks (e : Elem) (p : EPred) : W32 :=
  if e.quiet then 0 else (e.predBits p).1 ||| (e.predBits p).2

/-- The lanes whose registers the executing word writes: a squashed iteration's too, a nullified word's none. -/
def State.picks (s : State) (p : EPred) : W32 := if s.site.null then 0 else s.myElem.picks p

/-- The active lanes of the executing word (R118). -/
def State.active (s : State) (p : EPred) : W32 := if s.site.squashed then 0 else s.picks p

/-- The poison of the predicate in a lane. -/
def State.predP (s : State) (p : EPred) (i : Nat) : Bool := (s.myElem.predBits p).2.getLsbD i

/-! ### Results -/

/-- A result that lands `lat` cycles after its issue joins the results in flight (R116). -/
def State.flyIn (s : State) (lat : Nat) (what : Land) (flags : BitVec 5) (fault : Option (Nat × Nat)) : State :=
  let r := s.myRegion
  s.setRegion s.site.g { r with flight := r.flight ++ [⟨r.rc + lat, s.site.el, s.site.entry, what, flags, fault⟩] }

/-- A word's result at cycle +4, with no flag and no fault. -/
def State.fly (s : State) (what : Land) : State := s.flyIn 4 what 0 none

/-- A word that has no effect but still counts as issued until +4. -/
def State.flyNothing (s : State) : State := s.fly .nothing

/-- One lane's result: its value, whether it is poison, its flags, and the element fault it raises (0 none). -/
structure LaneRes where
  val : W32
  poison : Bool
  flags : Flags
  fault : Nat
  deriving DecidableEq, Repr

/-- A result without flags. -/
def LaneRes.pure (v : W32) (poison : Bool) : LaneRes := ⟨v, poison, 0, 0⟩

/-- A mask from a test of each lane. -/
def maskOf (f : Nat → Bool) : W32 :=
  (List.range 32).foldl (fun m i => if f i then m ||| (1#32 <<< i) else m) 0

/-- The result of lane `i` under a poisoned predicate bit: poison, no flag, no fault (R143). -/
def State.laneOut (s : State) (p : EPred) (f : Nat → LaneRes) (i : Nat) : LaneRes :=
  let r := f i
  if r.poison || s.predP p i then ⟨s.free i, true, 0, 0⟩
  else if r.fault ≠ 0 then ⟨s.free i, true, 0, r.fault⟩
  else r

/-- The flags of the lanes of a mask, ORed (R120). -/
def flagsOf (act : W32) (rs : Nat → LaneRes) (n : Nat) : Flags :=
  (List.range n).foldl (fun fl i => if act.getLsbD i then fl ||| (rs i).flags else fl) 0

/-- The fault of the lowest lane of a mask that raises one: (cause, lane); where lanes of one word raise different faults, ECAUSE shows
this one (log 100). -/
def faultOf (act : W32) (rs : Nat → LaneRes) (n : Nat) : Option (Nat × Nat) :=
  ((List.range n).find? fun i => act.getLsbD i && (rs i).fault != 0).map fun i => ((rs i).fault, i)

/-- The lower-laned of two faults, the first on a tie. -/
def firstOf (a b : Option (Nat × Nat)) : Option (Nat × Nat) :=
  match a, b with
  | some x, some y => if y.2 < x.2 then some y else some x
  | some x, none => some x
  | none, y => y

/-- The fault of an egress with poison: its lowest poisoned lane escapes (R143). For a poisoned selector of `sld`, `sst`, `pld`, `pbx`, `ard`
or `awr` the manual names no lane: given the active lanes, or the admitted rows, it takes the lowest of them (log 102). -/
def escape (poison : W32) : Option (Nat × Nat) :=
  ((List.range 32).find? poison.getLsbD).map fun i => (7, i)

/-! ### Sends and stage-outs (R187-R191) -/

/-- Direction codes of a link: 0 n, 1 e, 2 s, 3 w; the neighbour's slot that faces back. -/
def faceBack (d : Nat) : Nat := (d + 2) % 4

/-- The element next to one on its die, if any (R10, R11). -/
def neighbour (el d : Nat) : Option Nat :=
  let x := el % 64
  let y := el % 2048 / 64
  match d with
  | 0 => if y = 0 then none else some (el - 64)
  | 1 => if x = 63 then none else some (el + 1)
  | 2 => if y = 31 then none else some (el + 64)
  | _ => if x = 0 then none else some (el - 1)

/-- The element that receives a send: the adjacent one, where it lies in a resident region of the same load (R190). -/
def State.sendTo (s : State) (d : Nat) : Option Nat :=
  match neighbour s.site.el d with
  | none => none
  | some e =>
    match s.regionOfTile (tileOfElem e) with
    | some g => if g = s.site.g ∨ (s.region g).load = s.myRegion.load ∧ !(s.region g).awaitScan then some e else none
    | none => none

/-- Whether an element lies in a region that is stopped. -/
def State.stoppedElem (s : State) (e : Nat) : Bool := (s.regionOfTile (tileOfElem e)).elim false fun g => (s.region g).isStopped

/-- A send to a slot among the results in flight. -/
def Flight.sendsTo (f : Flight) (el k : Nat) : Bool :=
  match f.what with
  | .link e n _ _ => e == el && n == k
  | _ => false

/-- Whether a slot that the executing region sends to is reserved, or a send to it waits for its region to go on. -/
def State.linkTaken (s : State) (e k : Nat) : Bool :=
  (SMap.get Slot.empty (s.elem e).links k).reserved || s.myRegion.flight.any fun f => f.sendsTo e k

/-- Reserve a link slot (R187). -/
def State.reserve (s : State) (el k : Nat) : State :=
  let e := s.elem el
  s.setElem el { e with links := SMap.set Slot.empty e.links k { SMap.get Slot.empty e.links k with reserved := true } }

/-- The lanes that a send or a stage-out carries: inactive lanes deliver 0 (R187). -/
def sentVals (act : W32) (rs : Nat → LaneRes) : List W32 :=
  (List.range 32).map fun i => if act.getLsbD i then (rs i).val else 0

def sentPoison (act : W32) (rs : Nat → LaneRes) : W32 := maskOf fun i => act.getLsbD i && (rs i).poison

/-- The egress that the executing word puts into the commit buffer; outside a loop it is settled (R181). -/
def State.egressOf (s : State) (k : EgrKind) : Egress := ⟨s.site.iter, s.site.iter.isNone, k⟩

/-- A send of lane results in direction `d` to the element that stands there: its slot is reserved now, unless its region is stopped
(R150), and holds the value from +5. -/
def State.send (s : State) (dest : Option Nat) (d : Nat) (act : W32) (rs : Nat → LaneRes) : State :=
  match dest with
  | some e => (if s.stoppedElem e then s else s.reserve e (faceBack d)).flyIn 5 (.link e (faceBack d) (sentVals act rs) (sentPoison act rs)) 0 none
  | none => s

/-- Lane results to a link or the stage-out port, with what they raise at +4 (R118, R143, R187, R191). -/
def State.out (s : State) (dst : EDst) (act : W32) (rs : Nat → LaneRes) : State :=
  let fl := flagsOf act rs 32
  let flt := faultOf act rs 32
  if act = 0 then s.flyNothing
  else match dst with
  | .link d => (s.flyIn 4 .nothing fl flt).send (s.sendTo d.toNat) d.toNat act rs
  | .stage =>
    let p := sentPoison act rs
    s.flyIn 4 (.egress (s.egressOf (.stage s.myElem.soport.toNat (sentVals act rs) p))) fl (firstOf flt (escape p))
  | _ => s.flyIn 4 .nothing fl flt

/-- The destination receives the lane results at +4 (R116, R118): a v register its active lanes, an s register lane 0, a mask its
active bits, a link or the stage-out port all lanes. A squashed word writes undefined values, with their poison bits clear (log 101). -/
def State.write (s : State) (dst : EDst) (p : EPred) (f : Nat → LaneRes) : State :=
  let pick := s.picks p
  if s.site.squashed then
    match dst with
    | .v n => s.fly (.vreg n.toNat pick ((List.range 32).map s.free) 0)
    | .s n => if pick.getLsbD 0 then s.fly (.sreg n.toNat (s.free 0) false) else s.flyNothing
    | .m n => s.fly (.mreg n.toNat pick (s.free 0) 0)
    | _ => s.flyNothing
  else
    let rs := s.laneOut p f
    match dst with
    | .v n => s.flyIn 4 (.vreg n.toNat pick ((List.range 32).map fun i => (rs i).val) (maskOf fun i => (rs i).poison))
        (flagsOf pick rs 32) (faultOf pick rs 32)
    | .s n =>
      if pick.getLsbD 0 then s.flyIn 4 (.sreg n.toNat (rs 0).val (rs 0).poison) (flagsOf pick rs 1) (faultOf pick rs 1)
      else s.flyNothing
    | .m n => s.flyIn 4 (.mreg n.toNat pick (maskOf fun i => (rs i).val.getLsbD 0) (maskOf fun i => (rs i).poison))
        (flagsOf pick rs 32) (faultOf pick rs 32)
    | _ => s.out dst pick rs

/-! ### Region ports and the input log (R144, R162, R188, R191) -/

/-- The binding of a region port. -/
def Region.bind (r : Region) (p : Nat) : PBind := SMap.get .unbound r.binds p

/-- Whether a port is an input, or an output; a stream's direction is bit 17 of its A-word (R70, R191). -/
def State.portIn (s : State) (r : Region) (p : Nat) : Bool :=
  match r.bind p with
  | .input _ => true
  | .stream a => fld (s.agu a).aword.toNat 17 1 == 0
  | _ => false
def State.portOut (s : State) (r : Region) (p : Nat) : Bool :=
  match r.bind p with
  | .output _ => true
  | .stream a => fld (s.agu a).aword.toNat 17 1 == 1
  | _ => false

/-- The entries in a port's queue, oldest first. -/
def Region.queue (r : Region) (p : Nat) : List PEntry := SMap.get [] r.ports p

/-- A value read from outside the region joins the input log of its window (R144). -/
def State.logIn (s : State) (g : Nat) (bs : List Byte) : State :=
  let r := s.region g
  s.setRegion g { r with win := { r.win with log := r.win.log ++ bs, logLen := r.win.logLen + bs.length } }

/-- Two entries popped from a port at issue, logged (R144, R188). -/
def State.popPair (s : State) (p : Nat) : Option (PEntry × PEntry × State) :=
  match s.myRegion.queue p with
  | a :: b :: rest =>
    let r := s.myRegion
    some (a, b, (s.setRegion s.site.g { r with ports := SMap.set [] r.ports p rest }).logIn s.site.g (a.data ++ b.data))
  | _ => none

/-- Lane `i` of two port entries: 16 lanes each, and their poison bits. -/
def pairLane (a b : PEntry) (i : Nat) : LVal :=
  let e := if i < 16 then a else b
  (BitVec.ofNat 32 (leAt e.data (4 * (i % 16)) 4), e.poison.getLsbD (i % 16))

/-- A link slot of an element (R187). -/
def Elem.slot (e : Elem) (d : Nat) : Slot := SMap.get Slot.empty e.links d

/-- The direction index 0-3 of a direction literal 0, 2, 4, 6 (R63). -/
def dirOf (n : Nat) : Nat := n / 2

/-- Whether the neighbour in a direction is an element of another region: a receive from it is logged (R190). -/
def State.edgeRecv (s : State) (d : Nat) : Bool :=
  match neighbour s.site.el d with
  | some e => !(s.myRegion.covers s.site.g (tileOfElem e))
  | none => false

/-- The slot emptied at issue, logged where it lies on the region's edge (R144, R188, R190). -/
def State.takeSlot (s : State) (d : Nat) : State :=
  let e := s.myElem
  let t := s.setElem s.site.el { e with links := SMap.set Slot.empty e.links d Slot.empty }
  if s.edgeRecv d then t.logIn s.site.g ((e.slot d).data.flatMap fun v => leBytes 4 v.toNat) else t

/-- The lanes of a slot. -/
def Slot.lane (k : Slot) (i : Nat) : LVal := ((k.data[i]?).getD 0, k.poison.getLsbD i)

/-- A plane, or an accumulator, that the window writes (R144). -/
def State.touchPlane (s : State) (n : Nat) : State :=
  let r := s.myRegion
  let l := SMap.get [] r.win.planes s.site.el
  if l.contains n then s
  else s.setRegion s.site.g { r with win := { r.win with planes := SMap.set [] r.win.planes s.site.el (l ++ [n]) } }
def State.touchAcc (s : State) (g t n : Nat) : State :=
  let r := s.region g
  let l := SMap.get [] r.win.accs t
  if l.contains n then s
  else s.setRegion g { r with win := { r.win with accs := SMap.set [] r.win.accs t (l ++ [n]) } }

/-- A word of one source. -/
def State.lane1 (s : State) (k : LitKind) (w : EArgs) (f : W32 → LaneRes) (i : Nat) : LaneRes :=
  let a := s.src k w.a i
  let r := f a.1
  { r with poison := r.poison || a.2 }

/-- A word of two sources. -/
def State.lane2 (s : State) (k : LitKind) (w : EArgs) (f : W32 → W32 → LaneRes) (i : Nat) : LaneRes :=
  let a := s.src k w.a i
  let b := s.src k w.b i
  let r := f a.1 b.1
  { r with poison := r.poison || a.2 || b.2 }

/-- A word of three sources. -/
def State.lane3 (s : State) (k : LitKind) (w : EArgs) (f : W32 → W32 → W32 → LaneRes) (i : Nat) : LaneRes :=
  let a := s.src k w.a i
  let b := s.src k w.b i
  let c := s.src k w.c i
  let r := f a.1 b.1 c.1
  { r with poison := r.poison || a.2 || b.2 || c.2 }

/-- The words of one, two and three sources. -/
def State.word1 (s : State) (k : LitKind) (w : EArgs) (f : W32 → LaneRes) : Out := .next (s.write w.dst w.pred (s.lane1 k w f))
def State.word2 (s : State) (k : LitKind) (w : EArgs) (f : W32 → W32 → LaneRes) : Out := .next (s.write w.dst w.pred (s.lane2 k w f))
def State.word3 (s : State) (k : LitKind) (w : EArgs) (f : W32 → W32 → W32 → LaneRes) : Out :=
  .next (s.write w.dst w.pred (s.lane3 k w f))

end Sys2Proof.Machine
end

