-- ==== Sys2Proof/Machine/ElemScratch.lean ====
section
/-! DEFINITION. The element scratchpad E-words (R271, R272, R294-R296). -/

namespace Sys2Proof.Machine

/-- An element scratchpad operand (R294). -/
structure ScratchOp where
  rho : Nat
  side : Nat
  base : Nat
  tp : Nat
  rp : Nat
  deriving DecidableEq, Repr

def scratchOp (a b : W32) : ScratchOp :=
  ⟨fld a.toNat 24 8, fld a.toNat 23 1, fld a.toNat 0 23, fld b.toNat 16 16, fld b.toNat 0 16⟩

/-- The logical offset of a lane of an access of `z` bytes, for element (ex, ·) in row `y` of tile column `tx` of the region (R294). -/
def ScratchOp.offset (o : ScratchOp) (y tx ex z i : Nat) : Nat :=
  16 * o.base + o.rp * y + o.tp * tx + 32 * z * ex + z * i

/-- Bits [13:6] of an offset rotated by ρ (R272). -/
def rotate (a rho : Nat) : Nat := a / 2 ^ 14 * 2 ^ 14 + (fld a 6 8 + rho) % 256 * 64 + a % 64

/-- The scratchpad's memory-port die, from SIDE and the fabric die (R294). -/
def scratchDie (fd side : Nat) : Nat := if side = 0 then (fd + 7) % 8 else fd

/-- The bank of a port scratchpad cell, and its line (R271). -/
def bankOf (pa : Nat) : Nat := (pa - portBase) / 2 ^ 28 * 256 + (pa - portBase) % 2 ^ 28 / 64 % 256
def lineOf (pa : Nat) : Nat := pa / 64

/-- The operand of the executing word. -/
def State.scratch (s : State) (w : EArgs) : ScratchOp := scratchOp (s.src .int w.a 0).1 (s.src .int w.b 0).1

/-- Whether the operand registers are poisoned: a selector (R143, R296). -/
def State.scratchP (s : State) (w : EArgs) : Bool := (s.src .int w.a 0).2 || (s.src .int w.b 0).2

/-- The physical address lane `i` reaches, or none where it is out of range (R296). -/
def State.laneAddr (s : State) (o : ScratchOp) (z i : Nat) : Option Nat :=
  let x := s.site.el % 64
  let y := s.site.el % 2048 / 64
  let a := o.offset (y - s.site.g % 128 / 16 * 4) (x / 4 - s.site.g % 16) (x % 4) z i
  if a ≤ 0x5FFFFFF ∧ o.tp % 16 = 0 ∧ o.rp % 16 = 0 then
    some (portBase + scratchDie (s.site.el / 2048) o.side * 2 ^ 28 + rotate a o.rho)
  else none

/-- The range fault of R296: the lowest active lane that is out of range and not poisoned (R143: a poisoned lane raises fault 7 only). -/
def rangeFault (act : W32) (psn : Nat → Bool) (as : Nat → Option Nat) : Option (Nat × Nat) :=
  ((List.range 32).find? fun i => act.getLsbD i && (as i).isNone && !psn i).map fun i => (5, i)

/-- What a squashed load leaves: undefined values in its destination at +12 (R180, R295). -/
def State.squashedLoad (s : State) (w : EArgs) (pick : W32) : State :=
  match w.dst with
  | .v n => s.flyIn 12 (.vreg n.toNat pick ((List.range 32).map s.free) 0) 0 none
  | .s n => s.flyIn 12 (if pick.getLsbD 0 then .sreg n.toNat (s.free 0) false else .nothing) 0 none
  | _ => s.flyIn 12 .nothing 0 none

/-- A destination whose every active lane lands as poison at +12. -/
def State.poisonLoad (s : State) (w : EArgs) (act : W32) : Land :=
  match w.dst with
  | .v n => .vreg n.toNat act ((List.range 32).map s.free) act
  | .s n => .sreg n.toNat (s.free 0) true
  | _ => .nothing

/-- The lanes an access of a word reaches: a scalar word lane 0 only. -/
def scratchLanes (dst : EDst) (act : W32) : W32 :=
  match dst with
  | .s _ => act &&& 1
  | _ => act

/-- A load of `z` bytes (R295): the bank is read at +6 and the result lands at +12. -/
def State.scratchLoadWord (s : State) (z : Nat) (sgn : Bool) (w : EArgs) : Out :=
  if s.site.squashed then .next (s.squashedLoad w (scratchLanes w.dst (s.picks w.pred)))
  else
    let act := scratchLanes w.dst (s.active w.pred)
    if act = 0 then .next s.flyNothing
    else if s.scratchP w then
      .next ((s.flyIn 4 .nothing 0 (escape act)).flyIn 12 (s.poisonLoad w act) 0 none)
    else
      let as := s.laneAddr (s.scratch w) z
      .next ((s.flyIn 4 .nothing 0 (rangeFault act (s.predP w.pred) as)).flyIn 6
        (.sread w.dst z sgn act (maskOf (s.predP w.pred)) ((List.range 32).map as)) 0 none)

/-- A store of `z` bytes (R295): egress that the bank sees at +6. An active lane that is poisoned escapes, in range or not (R143). -/
def State.scratchStoreWord (s : State) (z : Nat) (w : EArgs) : Out :=
  let act := s.active w.pred
  if act = 0 then .next s.flyNothing
  else if s.scratchP w then .next (s.flyIn 4 .nothing 0 (escape act))
  else
    let as := s.laneAddr (s.scratch w) z
    let psn := fun i => (s.src .int w.c i).2 || s.predP w.pred i
    let bytes := (List.range 32).flatMap fun i =>
      match as i with
      | some a =>
        if act.getLsbD i then
          ((List.range z).zip (leBytes z (s.src .int w.c i).1.toNat)).map fun p => (a + p.1, p.2, psn i)
        else []
      | none => []
    let esc := escape (maskOf fun i => act.getLsbD i && psn i)
    let s1 := s.flyIn 4 .nothing 0 (firstOf (rangeFault act psn as) esc)
    .next (if bytes = [] then s1 else s1.flyIn 6 (.egress (s.egressOf (.scratch bytes))) 0 none)

/-- sld.n32 (R295). -/
def execSldN32 (w : EArgs) (s : State) : Out := s.scratchLoadWord 4 false w

/-- sld.n16 (R295). -/
def execSldN16 (w : EArgs) (s : State) : Out := s.scratchLoadWord 2 false w

/-- sld.i16 (R295). -/
def execSldI16 (w : EArgs) (s : State) : Out := s.scratchLoadWord 2 true w

/-- sst.n32 (R295). -/
def execSstN32 (w : EArgs) (s : State) : Out := s.scratchStoreWord 4 w

/-- sst.n16 (R295). -/
def execSstN16 (w : EArgs) (s : State) : Out := s.scratchStoreWord 2 w

end Sys2Proof.Machine
end

