-- ==== Sys2Proof/Machine/Flags.lean ====
section
/-! DEFINITION. The floating-point flags of E-words and the element faults they raise where FPTEN enables them (R87, R89, R120). -/

namespace Sys2Proof.Machine

/-- The element fault that a lane's flags raise: NV under FPTEN[0] (cause 1), DZ under FPTEN[1] (cause 2); 0 none. -/
def fpFault (fpten : BitVec 2) (fl : Flags) : Nat :=
  if fpten.getLsbD 0 && fl.getLsbD 4 then 1
  else if fpten.getLsbD 1 && fl.getLsbD 3 then 2
  else 0

/-- A lane of an FP word: its result, its flags, and the fault they raise. -/
def fpLane (fpten : BitVec 2) (r : W32 × Flags) : LaneRes :=
  let c := fpFault fpten r.2
  ⟨r.1, false, r.2, c⟩

/-- FPTEN of the executing word's region. -/
def State.fpten (s : State) : BitVec 2 := s.myRegion.gr.fpten

/-- The flag bits of ESTAT after flags are raised: an OR (R87). -/
def raiseFlags (estat : W32) (fl : Flags) : W32 := estat ||| fl.setWidth 32

/-- ESTAT after an element fault: ECAUSE is the cause (R87, R142). -/
def writeCause (estat : W32) (cause : Nat) : W32 := (estat &&& 0xFFFF00FF) ||| BitVec.ofNat 32 (cause % 256 * 256)

/-- ESTAT after `clrst`, `kbsel` and `pquiet` (R133, R311). -/
def clearStatus (estat : W32) : W32 := estat &&& 0xFFFF00E0
def setKbsel (estat : W32) (n : BitVec 2) : W32 := (estat &&& 0xFFFFFF9F) ||| (n.setWidth 32 <<< 5)
def setQuiet (estat : W32) (b : Bool) : W32 := (estat &&& 0xFFFFFF7F) ||| (if b then 0x80 else 0)

end Sys2Proof.Machine
end

