-- ==== Sys2Proof/Machine/Landing.lean ====
section
/-! DEFINITION. What lands when its cycle comes (R116, R143, R146, R187, R295, R329), and how a cause is detected (R149). -/

namespace Sys2Proof.Machine

/-! ### Detection (R149) -/

/-- A further cause: the first is the one recorded, of one cycle the lower code. A cause that ends the load is kept beside a scan
freeze that is recorded (R149; log 78). -/
def Freeze.meet (f : Freeze) (cause : Nat) : Freeze :=
  if f.left = 3 ∧ cause < f.cause then { f with cause := cause, also := if cause = 3 then some f.cause else none }
  else if f.cause = 3 ∧ cause ≠ 3 then { f with also := some (f.also.getD cause) }
  else f

/-- A cause detected in the current region cycle. -/
def Region.detect (r : Region) (cause : Nat) : Region :=
  { r with freeze := some (match r.freeze with
      | none => ⟨cause, 3, r.rc + 1, none⟩
      | some f => f.meet cause) }

def State.detect (s : State) (g cause : Nat) : State := s.setRegion g ((s.region g).detect cause)

/-! ### Element faults (R142, R146) -/

/-- Whether a fault comes before the one recorded (R146). -/
def FirstFault.beats (a b : FirstFault) : Bool :=
  decide (a.cycle < b.cycle) || (a.cycle == b.cycle && (decide (a.el < b.el) || (a.el == b.el && decide (a.lane < b.lane))))

/-- An element fault: ECAUSE, and the window's first fault; a poisoned exit gates the region (R145). Of several faults of one element
in one cycle ECAUSE shows the one that lands last, and of the lanes of one word that of the lowest (log 100). -/
def State.elementFault (s : State) (g : Nat) (f : Flight) (cause lane : Nat) : State :=
  let e := s.elem f.el
  let s1 := s.setElem f.el { e with estat := writeCause e.estat cause }
  let r := s1.region g
  let ff : FirstFault := ⟨r.rc, f.el, lane, f.entry, cause⟩
  let keep := match r.win.fault with
    | none => some ff
    | some old => if ff.beats old then some ff else some old
  let s2 := s1.setRegion g { r with win := { r.win with fault := keep } }
  if cause = 6 then s2.detect g 4 else s2

/-- The flags and the fault that come with a result. -/
def State.landStatus (s : State) (g : Nat) (f : Flight) : State :=
  let e := s.elem f.el
  let s1 := if f.flags = 0 then s else s.setElem f.el { e with estat := raiseFlags e.estat f.flags }
  match f.fault with
  | some (c, l) => s1.elementFault g f c l
  | none => s1

/-! ### Registers -/

/-- The active lanes of v`n`. -/
def Elem.putLanes (e : Elem) (n : Nat) (act : W32) (vals : List W32) (poison : W32) : Elem :=
  { e with
    v := (List.range 32).foldl (fun m i => if act.getLsbD i then SMap.set 0 m (32 * n + i) ((vals[i]?).getD 0) else m) e.v,
    vp := SMap.set 0 e.vp n ((SMap.get 0 e.vp n &&& ~~~act) ||| (poison &&& act)) }

def Elem.putS (e : Elem) (n : Nat) (v : W32) (p : Bool) : Elem :=
  { e with s := SMap.set 0 e.s n v, sp := SMap.set false e.sp n p }

def Elem.putM (e : Elem) (n : Nat) (act v p : W32) : Elem :=
  { e with
    m := SMap.set 0 e.m n ((SMap.get 0 e.m n &&& ~~~act) ||| (v &&& act)),
    mp := SMap.set 0 e.mp n ((SMap.get 0 e.mp n &&& ~~~act) ||| (p &&& act)) }

/-- Rows of a plane (R302). -/
def Elem.putPlane (e : Elem) (n : Nat) (rows : W32) (sites : List W16) (poison : List W32) : Elem :=
  let ys := (List.range 32).filter rows.getLsbD
  { e with
    planes := ys.foldl (fun m y => SMap.setRun 0 m (1024 * n + 32 * y) ((sites.drop (32 * y)).take 32)) e.planes,
    pp := ys.foldl (fun m y => SMap.set 0 m (32 * n + y) ((poison[y]?).getD 0)) e.pp }

/-- A slot of a tile after a token is fed: its scales stay, KV is written where the format reads it (R329). -/
def OpSlot.fed (old new : OpSlot) : OpSlot :=
  { old with v := new.v, ent := new.ent, data := new.data, feeder := new.feeder, dp := new.dp,
             kv := if palSsrc new.ent = 4 then new.kv else old.kv }

def feedAll (m : SMap OpSlot) (l : List (Nat × OpSlot)) : SMap OpSlot :=
  l.foldl (fun m p => SMap.set OpSlot.reset m p.1 ((SMap.get OpSlot.reset m p.1).fed p.2)) m

/-- A slot's scales (R331). -/
def scaleAll (m : SMap OpSlot) (l : List (Nat × (W32 × W32 × Bool × Bool))) : SMap OpSlot :=
  l.foldl (fun m p =>
    let o := SMap.get OpSlot.reset m p.1
    SMap.set OpSlot.reset m p.1 { o with sc := p.2.1, ss := if p.2.2.2.1 then p.2.2.1 else o.ss, sp := p.2.2.2.2 }) m

/-- V := 0 in every slot (R335). -/
def invalidate (m : SMap OpSlot) : SMap OpSlot :=
  SMap.mapVal OpSlot.reset (fun o => { o with v := false }) m

/-! ### Scratchpad loads (R295) -/

/-- A byte as the region sees it: its own buffered stores, the latest first, else the bank (R144). -/
def State.ownByte (s : State) (g a : Nat) : Byte × Bool :=
  let own := (s.region g).egress.foldl (fun o e => match e.kind with
    | .scratch bs => bs.foldl (fun o b => if b.1 = a then some b.2 else o) o
    | _ => o) (none : Option (Byte × Bool))
  own.getD (s.readCell a, false)

/-- The bytes that a lane of a load reads. -/
def State.laneBytes (s : State) (g z pa : Nat) : List (Byte × Bool) := (List.range z).map fun k => s.ownByte g (pa + k)

/-- A lane of a load: its value and poison; a lane without an address is poison, and so is one whose predicate bit is. -/
def State.loadLane (s : State) (g z : Nat) (sgn : Bool) (psn : W32) (i : Nat) (a : Option Nat) : LVal :=
  match a with
  | none => (s.free i, true)
  | some pa =>
    let bs := s.laneBytes g z pa
    let n := leNat (bs.map (·.1))
    if psn.getLsbD i || bs.any (·.2) then (s.free i, true)
    else (if sgn then BitVec.ofInt 32 (signedOf (8 * z) n) else BitVec.ofNat 32 n, false)

/-- The result a bank read gives, to land six cycles on. -/
def sreadResult (dst : EDst) (act : W32) (vs : List LVal) : Land :=
  match dst with
  | .v n => .vreg n.toNat act (vs.map (·.1)) (maskOf fun i => (vs[i]?).elim false (·.2))
  | .s n => match vs with
    | v :: _ => .sreg n.toNat v.1 v.2
    | [] => .nothing
  | _ => .nothing

/-- The first flight that is due and has a property. -/
def dueAt (rc : Nat) (p : Flight → Bool) (fs : List Flight) : Option Nat := fs.findIdx? fun f => decide (f.due ≤ rc) && p f

/-- A bank read among the results in flight. -/
def Flight.isRead (f : Flight) : Bool :=
  match f.what with
  | .sread .. => true
  | _ => false

/-- A link send among them. -/
def Flight.isLink (f : Flight) : Bool :=
  match f.what with
  | .link .. => true
  | _ => false

/-- Lines a flight's scratchpad access touches. -/
def Flight.lines (f : Flight) : List Nat :=
  match f.what with
  | .sread _ _ _ act _ as => ((List.range 32).filterMap fun i => if act.getLsbD i then ((as[i]?).join).map lineOf else none).eraseDups
  | .egress e => match e.kind with
    | .scratch bs => (bs.map fun b => lineOf b.1).eraseDups
    | _ => []
  | _ => []

/-- The scratchpad lines that a region's words reach in its cycle `rc`, each with the element. -/
def Region.linesDue (r : Region) : List (Nat × Nat) :=
  (r.flight.filter fun f => decide (f.due ≤ r.rc)).flatMap fun f => f.lines.map fun l => (l, f.el)

/-- Two fixed-path accesses reach two lines of one bank, and the first's element does not come before the second's (R273). -/
def bankMeets (a b : Nat × Nat) : Bool :=
  a.1 != b.1 && bankOf (64 * a.1) == bankOf (64 * b.1) && decide (b.2 % 2048 ≤ a.2 % 2048)

/-- The bank read of the load at place `k`: what the lanes in range read joins the input log (R144), and the result flies on in
place. -/
def State.bankRead (s : State) (g k : Nat) (f : Flight) : State :=
  match f.what with
  | .sread dst z sgn act psn as =>
    let vs := (as.zip (List.range as.length)).map fun p => s.loadLane g z sgn psn p.2 p.1
    let t := s.logIn g (((as.zip (List.range 32)).filter fun p => act.getLsbD p.2).flatMap fun p =>
      p.1.elim [] fun pa => (s.laneBytes g z pa).map (·.1))
    let r := t.region g
    (t.setRegion g { r with flight := r.flight.set k { f with due := r.rc + 6, what := sreadResult dst act vs } }).count
      (0x200 + 16 * ((((as.filterMap id).head?).getD portBase - portBase) / 2 ^ 28)) 1
  | _ => s

/-! ### One result lands -/

/-- The effect of a result other than a bank read. -/
def State.landWhat (s : State) (g : Nat) (f : Flight) : State :=
  let e := s.elem f.el
  let r := s.region g
  match f.what with
  | .vreg n act vals p => s.setElem f.el (e.putLanes n act vals p)
  | .sreg n v p => s.setElem f.el (e.putS n v p)
  | .mreg n act v p => s.setElem f.el (e.putM n act v p)
  | .plane n rows sites p => s.setElem f.el (e.putPlane n rows sites p)
  | .quiet b => s.setElem f.el { e with estat := setQuiet e.estat b }
  | .kbsel n => s.setElem f.el { e with estat := setKbsel e.estat n }
  | .clrst => s.setElem f.el { e with estat := clearStatus e.estat }
  | .exitf it => s.setRegion g { r with
      gr := { r.gr with rexit := true },
      span := r.span.map fun sp => match it with
        | some j => { sp with exitMin := some (match sp.exitMin with
            | some k => min j k
            | none => j) }
        | none => sp }
  | .link el slot vals p =>
    let d := s.elem el
    s.setElem el { d with links := SMap.set Slot.empty d.links slot ⟨true, true, vals, p⟩ }
  | .egress x => s.setRegion g { r with egress := r.egress ++ [x] }
  | .feed t isB l =>
    let x := s.tile t
    s.setTile t (if isB then { x with opb := feedAll x.opb l } else { x with opa := feedAll x.opa l })
  | .scales t isB l =>
    let x := s.tile t
    s.setTile t (if isB then { x with opb := scaleAll x.opb l } else { x with opa := scaleAll x.opa l })
  | .accw t l =>
    let x := s.tile t
    s.setTile t { x with acc := l.foldl (fun m p => SMap.set 0 m p.1 p.2.1) x.acc,
                         accp := l.foldl (fun m p => SMap.set false m p.1 p.2.2) x.accp }
  | .aclr t ctl =>
    let x := s.tile t
    let x := if ctl.getLsbD 2 then { x with aflag := SMap.set 0 x.aflag (fld ctl.toNat 0 2) 0 } else x
    let x := if ctl.getLsbD 3 then { x with opa := invalidate x.opa } else x
    s.setTile t (if ctl.getLsbD 4 then { x with opb := invalidate x.opb } else x)
  | .pal _ l => s.setRegion g { r with pal := l.foldl (fun m p => SMap.set 0 m p.1 p.2) r.pal }
  | .sread .. => s
  | .nothing => s

/-- The flight at place `k` lands: out of the results in flight, with its effect, flags and fault. -/
def State.landAt (s : State) (g k : Nat) (f : Flight) : State :=
  let r := s.region g
  ((s.setRegion g { r with flight := r.flight.eraseIdx k }).landWhat g f).landStatus g f

/-- The flight of a property that is due and comes first lands; a bank read flies on. -/
def State.landFirst (s : State) (g : Nat) (p : Flight → Bool) : Option State :=
  let r := s.region g
  match dueAt r.rc p r.flight with
  | none => none
  | some k =>
    match r.flight[k]? with
    | none => none
    | some f => some (if f.isRead then s.bankRead g k f else s.landAt g k f)

/-- Whether a send waits for a receiver whose region is stopped: no latch of one changes, and what arrives is held (R149, R150). -/
def State.linkWaits (s : State) (f : Flight) : Bool :=
  match f.what with
  | .link el _ _ _ => s.stoppedElem el
  | _ => false

/-- WORD_RESULT_LANDING (R116, R295): the next due result of a region that is no link send lands, bank reads first. -/
def execWordResultLanding (g : Nat) (s : State) : Out :=
  match s.landFirst g Flight.isRead with
  | some t => .next t
  | none => .next ((s.landFirst g fun f => !f.isLink).getD s)

/-- LINK_SLOT_FILL (R187): the next due send of a region fills its slot. -/
def execLinkSlotFill (g : Nat) (s : State) : Out := .next ((s.landFirst g fun f => f.isLink && !s.linkWaits f).getD s)

/-- One landing of the region's cycle: bank reads first, then the results in issue order. -/
def State.landNext (s : State) (g : Nat) : Option State :=
  match s.landFirst g Flight.isRead with
  | some t => some t
  | none => s.landFirst g fun f => !s.linkWaits f

end Sys2Proof.Machine
end

