-- ==== Sys2Proof/Machine/Window.lean ====
section
/-! DEFINITION. Commit windows: opening, the release of settled egress, discard, the replay area, resumption, gates
(R144-R150, R181, R203, R320). -/

namespace Sys2Proof.Machine

/-! ### Opening (R144) -/

/-- The elements and tiles of a region that differ from reset, as a window keeps them. -/
def State.elemsOf (s : State) (g : Nat) : SMap Elem := s.elems.filter fun p => (s.region g).covers g (tileOfElem p.1)
def State.tilesOf (s : State) (g : Nat) : SMap Tile := s.tiles.filter fun p => (s.region g).covers g p.1

/-- A window opens at the region's row position: the entry values are kept (R144, R147). -/
def State.openWindow (s : State) (g : Nat) : State :=
  let r := s.region g
  s.setRegion g { r with win :=
    { Window.reset with row := r.rowix, elapsed := r.relapsed, elems := s.elemsOf g, tiles := s.tilesOf g, gregs := r.gr, ports := r.ports } }

/-! ### Settled egress (R181) -/

/-- The LIVE `exitf` entries of a region, as (phase, stage tag). -/
def State.exitEntries (s : State) (g : Nat) : List (Nat × Nat) :=
  (((s.region g).elemIds g).flatMap fun e =>
    (s.elem e).ctx.filterMap fun p =>
      if p.2.st == .live && p.2.slot.getLsbD 44 && bits64 p.2.slot 32 8 == 0xAF then some (p.1, bits64 p.2.slot 40 4) else none).eraseDups

/-- Whether the egress of iteration `i` is settled: every `exitf` of the iterations below has issued and landed without setting
REXIT, or the loop has exited at or above `i`. A close meets no result in flight, so what has issued has landed. -/
def Span.settles (sp : Span) (modc : Nat) (exits : List (Nat × Nat)) (i : Int) : Bool :=
  if sp.exited then decide (i ≤ sp.e)
  else
    i ≤ 0 || ((exits.filter fun p => decide (p.1 < sp.ii)).all fun p =>
        let iv := i - 1 + (p.2 : Int)
        decide (iv < sp.v) || (decide (iv = sp.v) && decide (p.1 < modc)))
      && (match sp.exitMin with
        | none => true
        | some m => decide (i ≤ m))

/-- The commit buffer with what is settled marked. -/
def State.settleEgress (s : State) (g : Nat) : List Egress :=
  let r := s.region g
  match r.span with
  | none => r.egress.map fun e => { e with settled := true }
  | some sp =>
    let ex := s.exitEntries g
    r.egress.map fun e => { e with settled := e.settled || (match e.iter with
      | none => true
      | some i => sp.settles r.modc ex i) }

/-! ### Release (R144, R203, R320) -/

/-- The screen tile of a sample (R320). -/
def Sample.tile (m : Sample) : Nat := 256 * fld m.pixel.toNat 16 8 + fld m.pixel.toNat 4 8

/-- Whether a sample's tile is owned, and its owner die. -/
def State.ownerOf (s : State) (m : Sample) : Option Nat :=
  let e := SMap.get 0 s.own m.tile
  if e.getLsbD 31 then some (fld e.toNat 11 3) else none

/-- One released egress: a store reaches its memory, a stage-out waits in its port's share for the consumer, a sample for the exchange
queue to the die that owns its tile at this moment; one for a tile that no die owns is discarded. -/
def State.releaseOne (s : State) (g : Nat) (e : Egress) : State :=
  let r := s.region g
  match e.kind with
  | .scratch bs =>
    (s.writeMem (bs.map (·.1)) (bs.map fun b => b.2.1)).count (0x200 + 16 * portDieOf ((bs.map (·.1)).headD portBase)) 1
  | .stage _ _ _ => s.setRegion g { r with released := r.released ++ [e] }
  | .frag p m =>
    match s.ownerOf m with
    | none => s
    | some d => s.setRegion g { r with released := r.released ++ [{ e with kind := .frag p { m with die := d } }] }

/-- Released samples of die `src` enter their exchange queues in release order, until a queue is full (R203); with the state, the
egress that is left. -/
def State.drainSamples (s : State) (src : Nat) : List Egress → List Nat → State × List Egress
  | [], _ => (s, [])
  | e :: es, blocked =>
    match e.kind with
    | .frag _ m =>
      let k := 8 * src + m.die
      let q := SMap.get [] s.exch k
      if blocked.contains k || Config.exchangeFull k q.length then
        let r := s.drainSamples src es (k :: blocked)
        (r.1, e :: r.2)
      else { s with exch := SMap.set [] s.exch k (q ++ [m]) }.drainSamples src es blocked
    | _ =>
      let r := s.drainSamples src es blocked
      (r.1, e :: r.2)

/-- The samples that a region released, on their way. -/
def State.pushSamples (s : State) (g : Nat) : State :=
  let r := s.drainSamples (g / 128) (s.region g).released []
  r.1.setRegion g { r.1.region g with released := r.2 }

/-- The samples that a pre-empted load released, on their way (log 48). -/
def State.pushSaved (s : State) (l : Nat) : State :=
  let r := (s.load l).out.foldl (fun (a : State × List (List Egress)) es =>
    let d := a.1.drainSamples (s.load l).die es []
    (d.1, a.2 ++ [d.2])) (s, [])
  r.1.setLoad l { r.1.load l with out := r.2 }

/-- The settled egress of a clean window is released in issue order; the rest stays in the buffer (R144, R181). -/
def State.releaseWindow (s : State) (g : Nat) : State :=
  let es := s.settleEgress g
  let s1 := s.setRegion g { s.region g with egress := es.filter fun e => !e.settled }
  (s1.each (es.filter (·.settled)) fun t e => t.releaseOne g e).pushSamples g

/-! ### The replay area (R147) -/

/-- Bytes 0-4,095 of the replay area. `stop` is the stopping cycle; of a poisoned window, which no gate stopped, it is the region
cycle of the discard (log 103). -/
def Region.replayHeader (r : Region) (cause stop : Nat) : List Byte :=
  let f := r.win.fault
  let first := match f with
    | none => zeros 4
    | some x => leBytes 4 (x.el % 64 + x.el % 2048 / 64 * 256 + x.lane % 32 * 2 ^ 16 + x.entry % 32 * 2 ^ 24)
  leBytes 8 0 ++ leBytes 2 cause ++ [BitVec.ofNat 8 (f.elim 0 (·.cause)), 0] ++ first ++ leBytes 8 (f.elim 0 (·.cycle)) ++ leBytes 8 stop
    ++ leBytes 8 (positionWord r.win.row r.win.elapsed) ++ leBytes 8 (positionWord r.rowix r.relapsed) ++ leBytes 4 r.win.logLen
    ++ zeros 4044

/-- The whole replay area: header, region record, element and tile records of the window's entry values, input log. -/
def State.replayArea (s : State) (g : Nat) : List Byte :=
  let r := s.region g
  r.replayHeader 0 r.rc ++ regionRecord r.win.gregs r.rowix r.modc r.relapsed r.win.ports
    ++ ((r.elemIds g).flatMap fun e => elemRecord (SMap.get Elem.reset r.win.elems e) (SMap.get [] r.win.planes e))
    ++ ((r.tileIds g).flatMap fun t => tileRecord (SMap.get Tile.reset r.win.tiles t) (SMap.get [] r.win.accs t))
    ++ r.win.log

/-- Bytes stored at a physical address by the part itself. -/
def State.store (s : State) (pa : Nat) (bs : List Byte) : State := (s.physWrite pa bs).getD s

/-! ### Closing (R144, R146) -/

/-- No result is in flight and no pass is in progress (R144, R337). -/
def State.drained (s : State) (g : Nat) : Bool :=
  let r := s.region g
  r.flight.isEmpty && (r.tileIds g).all fun t => (s.tile t).pass.isNone && (s.tile t).groups.isEmpty

/-- What follows a close: the next window opens at the closing row, or at the same position for an implicit close; the region goes
on, or stands at its boundary, or waits for the switch (R144, R172, R244). -/
def State.afterClose (s : State) (g : Nat) (why : DrainWhy) : State :=
  let t := s.openWindow g
  let r := t.region g
  match why with
  | .commit => t.setRegion g { r with mode := .run, work := r.saved, saved := [] }
  | .implicit => (t.setRegion g { r with mode := .run, work := r.saved, saved := [] }).count (0x100 + 16 * (g / 128) + 6) 1
  | .endRow => t.setRegion g { r with mode := .boundary, rc := r.rc + 1, work := [], saved := [] }
  | .reconf x => t.setRegion g { r with mode := .switching x, rc := r.rc + 1, work := [], saved := [] }

/-- WINDOW_DISCARD (R146): the egress of a poisoned window is discarded, the region stops at the closing position, the replay area
is written and cause 0x0100 raised on the supervising core. -/
def State.discardWindow (s : State) (g : Nat) (why : DrainWhy) : State :=
  let r := s.region g
  let s1 := (s.store r.replay (s.replayArea g)).setRegion g { r with mode := .stopped why, egress := [], work := [] }
  (s1.count (0x100 + 16 * (g / 128) + 5) 1).pend (s.supOf g) 0x100 (BitVec.ofNat 64 r.replay)

/-- COMMIT_WINDOW_CLOSE (R144): in a drain wait whose results have all landed, a clean window's settled egress is released and the
region goes on; a poisoned window is discarded. A gate that is due and ends the load takes a poisoned window with no re-run (R146). -/
def execCommitWindowClose (g : Nat) (s : State) : Out :=
  match (s.region g).mode with
  | .drain why =>
    let r := s.region g
    if s.drained g && !(r.win.fault.isSome && r.freeze.any fun f => f.ending.isSome) then
      .next (if r.win.fault.isSome then s.discardWindow g why else (s.releaseWindow g).afterClose g why)
    else .next s
  | _ => .next s

/-- A drain wait begins: the rest of this cycle is set aside (R404). -/
def State.beginDrain (s : State) (g : Nat) (why : DrainWhy) : State :=
  let r := s.region g
  s.setRegion g { r with mode := .drain why, saved := r.work, work := [.drainCheck, .snapshots, .endCycle] }

/-! ### Re-run and resumption (R146, R148) -/

/-- The parts of the replay area that REPLAYED loads: offsets and lengths (R148). -/
def Region.replayParts (r : Region) : List (Nat × Nat) :=
  (4096, 4096) :: ((List.range (16 * r.w * r.h)).map fun i => (8192 + 9216 * i, 4904))
    ++ (List.range (r.w * r.h)).map fun i => (8192 + 9216 * (16 * r.w * r.h) + 17408 * i, 32)

/-- What reading those parts changes: counters, and reported soft errors (R161, R352). -/
def State.replayNote (s : State) (g : Nat) : State :=
  s.each (s.region g).replayParts fun t p =>
    (t.checkMove (cellRun ((s.region g).replay + p.1) p.2)).countRead ((s.region g).replay + p.1) p.2

/-- The exit state of a re-run, loaded from the replay area. -/
def State.loadReplay (s : State) (g : Nat) : State :=
  let r := s.region g
  let at_ := fun off n => (s.physRead (r.replay + off) n).getD (zeros n)
  let s := s.replayNote g
  let rec_ := at_ 4096 4096
  let s1 := s.setRegion g { r with gr := GRegs.ofBytes rec_, ports := portsOfBytes rec_ }
  let es := r.elemIds g
  let s2 := s1.each (es.zip (List.range es.length)) fun t p => t.setElem p.1 ((t.elem p.1).restore (at_ (8192 + 9216 * p.2) 4904))
  let ts := r.tileIds g
  s2.each (ts.zip (List.range ts.length)) fun t p =>
    t.setTile p.1 ((t.tile p.1).restoreFlags (at_ (8192 + 9216 * es.length + 17408 * p.2) 32))

/-- The cycle that the regions of a die have come to (log 98). -/
def State.dieBeat (s : State) (d : Nat) : Nat :=
  s.regions.foldl (fun n p => if p.1 / 128 = d ∧ p.2.holds then max n p.2.beat else n) 0

/-- What a value of CTRL does to a stopped region: 1 resumes it, 2 ends its load with ELEMENT-FAULT, others are ignored (R146-R148). -/
def State.replayCtrl (s : State) (g v : Nat) : State :=
  match (s.region g).mode with
  | .stopped why =>
    if v = 1 then
      let t := (s.loadReplay g).afterClose g why
      t.setRegion g { t.region g with beat := s.dieBeat (g / 128) }
    else if v = 2 then s.failLoad (s.region g).load 4
    else s
  | _ => s

/-- REPLAY_CTRL_WRITE (R146): software writes the control word of a stopped region's replay area, and the part acts on it. -/
def execReplayCtrlWrite (g : Nat) (v : W32) (s : State) : Out :=
  if (s.region g).mode matches .stopped _ then .next ((s.store (s.region g).replay (leBytes 8 v.toNat)).replayCtrl g v.toNat)
  else .next s

/-! ### Gates (R149, R150) -/

/-- The clock stops: the open window is discarded unless only scan asked, the replay area's header is written, cause 0x0102 is raised on
the supervising core, and every cause but a scan request ends the load (R149). -/
def State.gate (s : State) (g : Nat) (f : Freeze) : State :=
  let r := s.region g
  let r1 := { r with
    mode := .gated (f.ending.getD 3) r.mode, freeze := none, egress := if f.ending.isNone then r.egress else [] }
  let s1 := ((s.setRegion g r1).store r.replay (r.replayHeader f.cause f.stop)).pend (s.supOf g) 0x102 (BitVec.ofNat 64 r.replay)
  match f.ending with
  | none => s1
  | some c => s1.failLoad r.load (gateStatus c)

/-- CLOCK_GATE (R149): no cycle from the third fabric cycle after the detection runs. -/
def execClockGate (g : Nat) (s : State) : Out :=
  match (s.region g).freeze with
  | some f => if f.left = 0 ∧ (s.region g).gateable then .next (s.gate g f) else .next s
  | none => .next s

/-- Who may ask for a scan freeze or a scan release: the host, the BMC, and a supervisor in privileged mode (R150, R383). -/
def State.mayScan (s : State) : Party → Bool
  | .host => true
  | .bmc => true
  | .core n => isSup n && !(s.core n).user

/-- SCAN_REQUEST (R149, R150, R383): a cause 3 is detected in the region. An erasure of the key store limits what scan reads, and not
this. -/
def execScanRequest (p : Party) (g : Nat) (s : State) : Out :=
  if s.mayScan p && (s.region g).gateable then .next (s.detect g 3) else .next s

/-- SCAN_RELEASE (R150): a scan freeze ends and the region goes on where it stood; a gate that ends its load gives its tiles back, at
once or when that end comes. -/
def execScanRelease (p : Party) (g : Nat) (s : State) : Out :=
  let r := s.region g
  if s.mayScan p then
    match r.mode with
    | .gated 3 was => .next (s.setRegion g { r with mode := was, beat := s.dieBeat (g / 128) })
    | .gated _ _ => if r.awaitScan then .next (s.setRegion g r.freed) else .next (s.setRegion g { r with scanFreed := true })
    | _ => .next s
  else .next s

end Sys2Proof.Machine
end

