-- ==== Sys2Proof/Machine/Rows.lean ====
section
/-! DEFINITION. The S-rows: what each kind does in its issue cycle (R174-R186, R243, R244, R327). A row acts in the region of the
executing site, whose ROWIX is the row's own index. -/

namespace Sys2Proof.Machine

/-- The region in which a row issues, and its number. -/
def State.rowRegion (s : State) : Region := s.region s.site.g
def State.setRowRegion (s : State) (r : Region) : State := s.setRegion s.site.g r

/-- The kind of the row at an index; 12 where the queue has no such row (R67). -/
def Region.kindAt (r : Region) (ix : Nat) : Nat := (r.rows[ix]?).elim 12 fun w => bits64 w 60 4

/-- Its issue-cycle field. -/
def Region.cycleAt (r : Region) (ix : Nat) : Nat := (r.rows[ix]?).elim 0 fun w => bits64 w 24 24

/-- Whether the row at ROWIX lies in the body of the loop span that is open (R178). -/
def Region.inBody (r : Region) : Bool :=
  match r.span with
  | some sp => decide (sp.row < r.rowix) && decide (r.rowix < sp.endl)
  | none => false

/-- A row that a loop body does not permit: a configuration fault (R178). -/
def State.outsideBody (s : State) (f : State → State) : Out :=
  if s.rowRegion.inBody then .next (s.detect s.site.g 2) else .next (f s)

/-- STEP: its phase and stage-enable field are broadcast in this cycle (R175). -/
def execStepRow (h : RowHdr) (phase : BitVec 5) (s : State) : Out :=
  s.outsideBody fun s => s.setRowRegion { s.rowRegion with step := some (h, phase.toNat) }

/-! ### Loop spans (R177-R182) -/

/-- The ENDL row of a LOOP row: the first after it that names it; past the queue where there is none. -/
def Region.endlOf (r : Region) (row : Nat) : Nat :=
  (((List.range r.rows.length).filter fun i => decide (row < i)).find? fun i =>
    r.kindAt i == 2 && (r.rows[i]?).elim false fun w => bits64 w 0 12 == row).getD r.rows.length

/-- Results and egress of an ended span belong to no iteration: they are settled (R181). -/
def Land.settled : Land → Land
  | .exitf _ => .exitf none
  | .egress e => .egress { e with iter := none, settled := true }
  | w => w

def Region.endSpan (r : Region) : Region :=
  { r with
    span := none,
    egress := r.egress.map (fun e => { e with iter := none, settled := true }),
    flight := r.flight.map (fun f => { f with what := f.what.settled }) }

/-- LOOP: a loop span opens with iteration 0 admitted (R177). -/
def execLoopRow (h : RowHdr) (ii : BitVec 5) (count : BitVec 19) (s : State) : Out :=
  s.outsideBody fun s =>
    let r := s.rowRegion.endSpan
    s.setRowRegion { r with
      modc := 0, itern := 1, gr := { r.gr with rexit := false },
      span := some {
        row := r.rowix, hdr := h, base := h.cycle.toNat, ii := ii.toNat + 1, count := count.toNat,
        endl := r.endlOf r.rowix, v := 0, stopped := count == 1, exited := false, exitMin := none, e := 0, boundary := false,
        epil := 0, since := 0 } }

/-- ENDL: at the first boundary after admission has stopped it ends the span, or begins its drain where EPIL rows follow; one
that closes no open span does nothing (R182). -/
def execEndl (_h : RowHdr) (_row : BitVec 12) (s : State) : Out :=
  s.outsideBody fun s =>
    let r := s.rowRegion
    match r.span with
    | some sp =>
      if r.rowix = sp.endl then
        if r.kindAt (r.rowix + 1) = 4 then s.setRowRegion { r with span := some { sp with epil := r.rowix, boundary := false } }
        else s.setRowRegion r.endSpan
      else s
    | none => s

/-- EPIL: its header governs one interval of the drain; one outside a drain does nothing (R182). -/
def execEpil (h : RowHdr) (s : State) : Out :=
  s.outsideBody fun s =>
    let r := s.rowRegion
    match r.span with
    | some sp =>
      if sp.epil ≠ 0 then s.setRowRegion { r with span := some { sp with hdr := h, epil := r.rowix, since := 0, boundary := false } }
      else s
    | none => s

/-- An egress of a squashed iteration. -/
def Egress.above (x : Egress) (e : Int) : Bool :=
  match x.iter with
  | some i => decide (e < i)
  | none => false

/-- A result in flight after an exit: the egress of a squashed iteration is removed (R180, R181). -/
def Land.squash (e : Int) : Land → Land
  | .egress x => if x.above e then .nothing else .egress x
  | w => w

/-- The loop exits: admission stops, iterations above E are squashed, their egress is discarded (R180, R181). -/
def Region.exit (r : Region) (sp : Span) : Region :=
  let e := sp.exitMin.getD ((r.itern : Int) - 1)
  { r with
    span := some { sp with stopped := true, exited := true, e := e },
    egress := r.egress.filter (fun x => !x.above e),
    flight := r.flight.map (fun f => { f with what := f.what.squash e }) }

/-- EXIT: in a span it tests REXIT and exits the loop; outside one it acts as END where REXIT is 1 (R180, R183). -/
def execExitRow (_h : RowHdr) (s : State) : Out :=
  let r := s.rowRegion
  match r.span with
  | some sp => .next (if r.gr.rexit && !sp.exited then s.setRowRegion (r.exit sp) else s)
  | none => .next (if r.gr.rexit then s.beginDrain s.site.g .endRow else s)

/-! ### Matrix passes (R327) -/

/-- One tile's part of an MPASS row. -/
def State.startPass (s : State) (acc : Nat) (int clear : Bool) (n : Nat) (t : Nat) : State :=
  let r := s.rowRegion
  let tl := s.tile t
  if tl.busy r.rc then s.detect s.site.g 2
  else
    let u := s.touchAcc s.site.g t acc
    u.setTile t { (if clear then tl.clearAcc acc else tl) with pass := some ⟨acc, int, n, r.rc⟩ }

/-- MPASS: a pass starts in every tile of the region; a busy array is a configuration fault (R327). -/
def execMpass (_h : RowHdr) (acc : BitVec 2) (int clear : Bool) (groups : BitVec 12) (s : State) : Out :=
  .next (s.each (s.rowRegion.tileIds s.site.g) fun t k => t.startPass acc.toNat int clear (groups.toNat + 1) k)

/-! ### Rows that settle, wait and close -/

/-- FORM: the region settles for 64 unheld cycles (R243). -/
def execForm (_h : RowHdr) (_w : BitVec 4) (_ht : BitVec 3) (s : State) : Out :=
  s.outsideBody fun s => s.setRowRegion { s.rowRegion with settle := true }

/-- FORM_SETTLING_END (R243): the settling has run its 64 cycles. -/
def execFormSettlingEnd (g : Nat) (s : State) : Out :=
  let r := s.region g
  if r.settle && decide (64 ≤ r.relapsed) then .next (s.setRegion g { r with settle := false }) else .next s

/-- RECONF: the window closes and the region waits for the switch (R244). -/
def execReconf (_h : RowHdr) (x : BitVec 16) (s : State) : Out := s.outsideBody fun s => s.beginDrain s.site.g (.reconf x.toNat)

/-- The streams queued, running or stalled on one of the ports, by AGU and run (R184). -/
def State.streamsOn (s : State) (g : Nat) (ports : List Nat) : List (Nat × Nat) :=
  (s.agus.filter fun p =>
    (p.2.st == .queued || p.2.st == .running || p.2.st == .stalled)
      && (match p.2.attach with
        | some (_, h) => h == g
        | none => false)
      && ports.contains (fld p.2.aword.toNat 13 4)).map fun p => (p.1, p.2.run)

/-- BARRIER: the region holds until the ports of its mask are quiet (R184). -/
def execBarrier (_h : RowHdr) (ports : BitVec 16) (s : State) : Out :=
  s.outsideBody fun s =>
    let ps := (List.range 16).filter ports.getLsbD
    s.setRowRegion { s.rowRegion with waits := s.rowRegion.waits ++ [.barrier ps (s.streamsOn s.site.g ps)] }

/-- COMMIT: the window closes and the next one opens at this row (R144). -/
def execCommit (_h : RowHdr) (s : State) : Out := .next (s.beginDrain s.site.g .commit)

/-- WAITQ: the region holds until the port is ready (R185). -/
def execWaitq (_h : RowHdr) (port : BitVec 4) (s : State) : Out :=
  .next (s.setRowRegion { s.rowRegion with waits := s.rowRegion.waits ++ [.queue port.toNat] })

/-- END: the tile-task ends at the boundary, when every word issued before has landed (R172, R186). -/
def execEndRow (_h : RowHdr) (s : State) : Out := s.outsideBody fun s => s.beginDrain s.site.g .endRow

/-! ### Iterations (R177) -/

/-- ITERATION_ADMISSION (R177): at the wrap that begins interval V, iteration V is admitted while admission has not stopped; the
last one of a count, or number 524,287, stops it. -/
def execIterationAdmission (g : Nat) (s : State) : Out :=
  let r := s.region g
  match r.span with
  | some sp =>
    if !sp.stopped && sp.v == r.itern then
      let n := r.itern + 1
      .next (s.setRegion g { r with itern := n, span := some { sp with stopped := n == sp.count || (sp.count == 0 && n == 524287) } })
    else .next s
  | none => .next s

/-! ### Shares of the commit buffer (R191, R203) -/

/-- Bytes of a port's share that an egress takes. -/
def Egress.share (e : Egress) (p : Nat) : Nat :=
  match e.kind with
  | .stage q ws _ => if q = p then 4 * ws.length else 0
  | .frag q _ => if q = p then 16 else 0
  | .scratch _ => 0

/-- Bytes of the commit buffer that it takes. -/
def Egress.size (e : Egress) : Nat :=
  match e.kind with
  | .stage _ ws _ => 4 * ws.length
  | .frag _ _ => 16
  | .scratch bs => bs.length

/-- The egress among the results in flight. -/
def Region.flying (r : Region) : List Egress :=
  r.flight.filterMap fun f => match f.what with
    | .egress e => some e
    | _ => none

/-- Bytes a port has in the buffer, released or not: each egress from its cycle +4 (R191, R203; log 23). -/
def Region.shareOf (r : Region) (p : Nat) : Nat := ((r.egress ++ r.released).map fun e => e.share p).sum

/-- Bytes of a port that are still in flight: they come into the buffer at their cycle +4, when it must have room for them (R191). -/
def Region.inFlightOf (r : Region) (p : Nat) : Nat := (r.flying.map fun e => e.share p).sum

/-- A port's share. -/
def portShare : Nat := 65536

/-- Whether a wait of a BARRIER or WAITQ row is over (R184, R185). -/
def State.waitOver (s : State) (g : Nat) : Wait → Bool
  | .barrier ports runs =>
    let r := s.region g
    (runs.all fun p => !((s.streamsOn g ports).contains p)) && ports.all fun p => !(s.portOut r p) || r.shareOf p == 0
  | .queue p =>
    let r := s.region g
    if s.portIn r p then decide (2 ≤ (r.queue p).length)
    else if s.portOut r p then decide (r.shareOf p + 128 ≤ portShare)
    else true

end Sys2Proof.Machine
end

