-- ==== Sys2Proof/Machine/Queues.lean ====
section
/-! DEFINITION. Hardware work queues: records, levels, doorbells, the tests of a record, contexts and teardown, and the dispatcher
window (R20, R162-R169, R275, R405). -/

namespace Sys2Proof.Machine

/-! ### Dies (R248, R249) -/

/-- A die that is present and has a present tile. -/
def State.dieUsable (s : State) (d : Nat) : Bool := s.diePresent d && (s.pkg.tiles[d]?).getD 0 != 0

/-- Whether an affinity mask names a usable die. -/
def State.maskUsable (s : State) (m : BitVec 8) : Bool := (List.range 8).any fun d => m.getLsbD d && s.dieUsable d

/-! ### Records (R165) -/

/-- A launch record from its 64 bytes. -/
def recordOf (bs : List Byte) : Record :=
  { gd := BitVec.ofNat 64 (leAt bs 0 8), args := BitVec.ofNat 64 (leAt bs 8 8), ctx := BitVec.ofNat 12 (leAt bs 16 2),
    gen := BitVec.ofNat 8 (leAt bs 18 1), prio := BitVec.ofNat 3 (leAt bs 19 1), mask := BitVec.ofNat 8 (leAt bs 20 1),
    dep := bitOf (leAt bs 21 1) 0, dphase := BitVec.ofNat 12 (leAt bs 22 2), dthresh := BitVec.ofNat 32 (leAt bs 24 4),
    cw := BitVec.ofNat 64 (leAt bs 32 8), tag := BitVec.ofNat 32 (leAt bs 40 4),
    clean := zeroAt bs 7 1 && zeroAt bs 15 1 && decide (leAt bs 16 2 < 4096) && decide (leAt bs 19 1 < 8) && decide (leAt bs 21 1 < 2)
      && decide (leAt bs 22 2 < 4096) && zeroAt bs 28 4 && zeroAt bs 39 1 && leAt bs 32 1 % 8 == 0 && zeroAt bs 44 20 }

/-! ### Rings (R163) -/

/-- The size code, and whether it makes the queue usable. -/
def Queue.code (q : Queue) : Nat := bits64 q.ring 0 6
def Queue.usable (q : Queue) : Bool := decide (1 ≤ q.code) && decide (q.code ≤ 16)
def Queue.entries (q : Queue) : Nat := 2 ^ q.code

/-- The virtual address of record `j`. -/
def Queue.slot (q : Queue) (j : Nat) : Nat := bits64 q.ring 6 50 * 64 + 64 * (j % q.entries)

/-- TAILIX − HEADIX, modulo 2^32. -/
def Queue.count (q : Queue) : Nat := (q.tailix - q.headix).toNat

/-- TAILIX moves to `v`; the records it covers became visible in this cycle. -/
def State.setTail (s : State) (q : Nat) (v : W32) : State :=
  let x := s.queue q
  s.setQueue q { x with tailix := v, ages := if v = x.tailix then x.ages else x.ages ++ [(v, s.gcyc)] }

/-- The head record leaves: its level count and its age go with it. -/
def State.popHead (s : State) (q : Nat) : State :=
  let x := s.queue q
  let h := x.headix + 1
  s.setQueue q { x with headix := h, raises := 0, waited := 0, ages := x.ages.filter fun a => a.1 != h, lost := none }

/-- When the head record became visible. -/
def Queue.age (q : Queue) : W64 :=
  match q.ages with
  | a :: _ => a.2
  | [] => 0

/-! ### The head record (R167, R405) -/

inductive Fate where
  | idle                              -- no head record, or its queue takes none
  | unreadable
  | reject (r : Record) (status : Nat)
  | waits (r : Record)
  | ready (r : Record)
  deriving DecidableEq, Repr

/-- The ring slot of the head record. -/
def Queue.headSlot (q : Queue) : Nat × Nat := (q.slot q.headix.toNat, 64)

/-- The machine as the dispatcher's reads for a queue see it. -/
def State.forQueue (s : State) (q : Nat) : State := { s with gone := (s.queue q).lost }

/-- The record at the head, if it can be read. -/
def State.headRecord (s : State) (q : Nat) : Option Record :=
  ((s.forQueue q).ctxRead (s.queue q).ctx.toNat (s.queue q).headSlot.1 64).map recordOf

/-- The tests of R167 in their order. -/
def State.judge (s : State) (x : Queue) (r : Record) : Fate :=
  let p := s.phase r.dphase.toNat
  if !r.clean || r.ctx != x.ctx then .reject r 8
  else if r.gen != (s.ctx r.ctx.toNat).gen then .reject r 2
  else if !s.maskUsable r.mask then .reject r 3
  else if r.dep && p.own != r.ctx then .reject r 9
  else if r.dep && decide (p.cnt.toNat < r.dthresh.toNat) then .waits r
  else .ready r

/-- What becomes of the head of queue `q`; one behind a span link that is down is waited for (R376). The head of a queue that takes no
record is not ready (log 111). -/
def State.fate (s : State) (q : Nat) : Fate :=
  let x := s.queue q
  if !x.en || !x.usable || x.count == 0 then .idle
  else match s.headRecord q with
    | none => if (s.ctxHeld x.ctx.toNat .load [x.headSlot]).isSome then .idle else .unreadable
    | some r => s.judge x r

/-- The current level of a queue (R20): the priority of its head record and its raises; 0 without a head record that can be read
(log 111). -/
def State.level (s : State) (q : Nat) : Nat :=
  if (s.queue q).count = 0 then 0
  else match s.headRecord q with
    | none => 0
    | some r => min 7 (r.prio.toNat + (s.queue q).raises)

/-- Whether the head of a queue is ready. -/
def State.isReady (s : State) (q : Nat) : Bool :=
  match s.fate q with
  | .ready _ => true
  | _ => false

/-- Whether a ready head comes before another by level and then by age (R20). -/
def State.beats (s : State) (a b : Nat) : Bool :=
  decide (s.level b < s.level a) || (s.level a == s.level b && decide ((s.queue a).age.toNat < (s.queue b).age.toNat))

/-- 2 ms in cycles of the fabric clock. -/
def raiseCycles : Nat := 4000000

/-- One cycle of a queue's wait: it counts while the head is ready and is not taken (R20; log 111). -/
def State.countWait (s : State) (q : Nat) : State :=
  if s.isReady q then s.setQueue q { s.queue q with waited := (s.queue q).waited + 1 } else s

/-- Whether a ready head has waited 2 ms since it became ready or was raised. -/
def State.raiseDue (s : State) (q : Nat) : Bool := s.isReady q && decide (raiseCycles ≤ (s.queue q).waited)

/-- QUEUE_LEVEL_RAISE (R20): a ready head has waited 2 ms: its queue goes up one level, up to 7, and the count starts again. -/
def execQueueLevelRaise (q : Nat) (s : State) : Out :=
  if s.raiseDue q then
    .next (s.setQueue q { s.queue q with
      raises := (s.queue q).raises + (if s.level q < 7 then 1 else 0), waited := 0 })
  else .next s

/-- RECORD_REJECTION (R167, R405): a head record that cannot be read, or that a test rejects, leaves at once. -/
def execRecordRejection (q : Nat) (s : State) : Out :=
  match s.fate q with
  | .unreadable =>
    let t := (s.readReport (s.queue q).ctx.toNat [(s.queue q).headSlot]).popHead q
    .next ((t.setQueue q { t.queue q with dberr := true }).queueIrq q)
  | .reject r st =>
    let c := (s.queue q).ctx.toNat
    .next ((((s.readReport c [(s.queue q).headSlot]).popHead q).complete q c r st).count 0x301 1)
  | _ => .next s

/-! ### Taking a record (R167, R235, R236, R238) -/

/-- Whether a tile rectangle lies on present tiles of a die. -/
def State.tilesThere (s : State) (d tx ty w h : Nat) : Bool :=
  (List.range h).all fun y => (List.range w).all fun x => decide (tx + x < 16) && decide (ty + y < 8)
    && s.tilePresent (128 * d + 16 * (ty + y) + tx + x)

/-- Whether a die could hold a load at an anchor, were every tile idle. -/
def State.couldHold (s : State) (l : LoadDesc) (d tx ty : Nat) : Bool :=
  l.regions.all fun r => s.tilesThere d (tx + r.dx) (ty + r.dy) r.w r.h

/-- Whether some die of a mask could hold a load. -/
def State.couldFit (s : State) (mask : BitVec 8) (l : LoadDesc) : Bool :=
  (List.range 8).any fun d => mask.getLsbD d && s.dieUsable d &&
    (List.range 16).any fun tx => (List.range 8).any fun ty => s.couldHold l d tx ty

/-- The entry loads of a graph's stages, each as its index, its address and its descriptor; none where one is refused. -/
def State.entriesOf (s : State) (c : Nat) (g : Graph) : Option (List (Nat × Nat × LoadDesc)) :=
  allSome (g.entry.map fun x => (g.table[x]?).bind fun a => (s.loadDescAt c a).map fun l => (x, a, l))

/-- What the dispatcher reads when it takes a record (R238). -/
def State.takeRanges (s : State) (c gd : Nat) : List (Nat × Nat) :=
  s.graphRanges c gd ++ match s.graphAt c gd with
    | none => []
    | some g => g.entry.flatMap fun x => (g.table[x]?).elim [] (s.loadRanges c)

/-- The SQDs that the queue-bound output ports of a load push into (R240). -/
def LoadDesc.pushes (l : LoadDesc) : List W64 :=
  (l.regions.flatMap fun r => (r.ports.filter fun p => p.kind == 3).map fun p => BitVec.ofNat 64 (l.sqd p)).eraseDups

/-- A load as it joins the pending-load list. -/
def newLoad (launch stage x a level : Nat) (l : LoadDesc) (gcyc : W64) : Load :=
  { Load.reset with
    st := .pending, launch := launch, stage := stage, x := x, fld := BitVec.ofNat 64 a, desc := l, ttcount := l.ttcount,
    fragseq := l.fragseq, level := level, sqds := l.sqds.map (BitVec.ofNat 64), since := gcyc }

/-- The lowest number that names no live load. -/
def State.freeLoad (s : State) : Nat := firstFree (fun k => (s.load k).st != .ended) (s.loads.length + 1) 0

/-- The entry loads of a launch's stages join the pending-load list. -/
def State.addStages (s : State) (launch level : Nat) : List (Nat × Nat × Nat × LoadDesc) → State
  | [] => s
  | (k, x, a, l) :: rest => (s.setLoad s.freeLoad (newLoad launch k x a level l s.gcyc)).addStages launch level rest

/-- A record that has been chosen is taken: its graph descriptor, with every entry of its load table, and the descriptors of its entry
loads are read, and the entry loads join the pending-load list; a refused descriptor, or a form that no die of the mask could hold, ends
the launch (R238, R239). -/
def State.takeRecord (s : State) (q : Nat) (r : Record) : State :=
  let lev := s.level q
  let c := r.ctx.toNat
  let v := s.forQueue q
  let t := ((s.readReport c ((s.queue q).headSlot :: v.takeRanges c r.gd.toNat)).popHead q).count 0x300 1
  match v.graphAt c r.gd.toNat with
  | none => t.complete q c r 6
  | some g =>
    match v.entriesOf c g with
    | none => t.complete q c r 6
    | some ls =>
      if ls.all fun p => s.couldFit r.mask p.2.2 then
        let k := firstFree (fun i => (s.launch i).live) (s.launches.length + 1) 0
        let stages := ls.zip (List.range ls.length)
        let u := t.setLaunch k
          { live := true, queue := q, record := r, level := lev, nload := g.nload, nstage := g.nstage, quantum := g.quantum,
            entry := g.entry, ended := [], pushes := mapOf [] (ls.map fun p => p.2.2.pushes), fail := 0, failAt := 0, table := g.table,
            descs := ls.map fun p => (p.1, p.2.2) }
        u.addStages k lev (stages.map fun p => (p.2, p.1.1, p.1.2.1, p.1.2.2))
      else t.complete q c r 6

/-- RECORD_TAKE (R20, R167): a ready head that no other ready head comes before is taken; a descriptor behind a span link that is down
is waited for (R376). -/
def execRecordTake (q : Nat) (s : State) : Out :=
  match s.fate q with
  | .ready r =>
    if s.queues.any (fun p => s.isReady p.1 && s.beats p.1 q)
        || (s.ctxHeld r.ctx.toNat .load ((s.forQueue q).takeRanges r.ctx.toNat r.gd.toNat)).isSome
    then .next s
    else .next (s.takeRecord q r)
  | _ => .next s

/-! ### Doorbells (R164) -/

/-- Whether the part is in service: powered, and past the last step of R378. -/
def State.inService (s : State) : Bool := s.pkg.power && s.pkg.bootStep == 6

/-- Who may write the dispatcher window: the host, once the part is in service (R378; log 44), and a supervisor in privileged mode
(R162). -/
def State.mayDispatch (s : State) : Party → Bool
  | .host => s.inService
  | .bmc => false
  | .core n => isSup n && !(s.core n).user

/-- A new TAILIX that a doorbell brings: taken where it does not move back or pass HEADIX + entries; else DBERR. -/
def State.ring (s : State) (q : Nat) (v : W32) : State :=
  let x := s.queue q
  let d := (v - x.headix).toNat
  if !x.dev && x.usable && s.pkg.bootStep == 6 && decide (x.count ≤ d) && decide (d ≤ x.entries) then s.setTail q v
  else s.setQueue q { x with dberr := true }

/-- Whose doorbells reach the dispatcher: before the part is in service it discards them, with DBERR (R163, R378). -/
def State.mayRing (s : State) : Party → Bool
  | .host => s.pkg.power
  | p => s.mayDispatch p

/-- DOORBELL (R164): a write of bytes 16-19 of the QCB; the host's arrives in its order. -/
def execDoorbell (p : Party) (q : Nat) (v : W32) (s : State) : Out :=
  if s.mayRing p && decide (q < 262144) then .next (s.inOrder p (32 * q + 16) 4 v.toNat (s.ring q v)) else .next s

/-! ### Teardown (R169, R255, R259) -/

/-- The ownership table after a teardown of its claiming context. -/
def State.dropOwner (s : State) (c : Nat) : State :=
  if s.otctx.getLsbD 12 && fld s.otctx.toNat 0 12 == c then
    { s with own := SMap.mapVal 0 (fun e => e &&& 0x7FFFFFFF) s.own, otctx := s.otctx &&& 0xFFF }
  else s

/-- V := 0 in every subarray slot of a context. -/
def State.dropTables (s : State) (c : Nat) : State :=
  s.each (List.range 16) fun t k =>
    t.setStack k { t.stack k with
      tables := SMap.mapVal SubTable.reset (fun x => if x.ctx.toNat = c then { x with v := false } else x) (t.stack k).tables }

/-- The streams of a context that a translation fault has stalled are abandoned (R213). -/
def State.dropStalled (s : State) (c : Nat) : State :=
  s.each ((s.agus.filter fun p => p.2.st == .stalled && p.2.ctx.toNat == c).map (·.1)) fun t i =>
    t.leavePort i { t.agu i with run := (t.agu i).run + 1 }

/-- A teardown, in the cycle its write reaches the dispatcher. -/
def State.tearDown (s : State) (c : Nat) : State :=
  let x := s.ctx c
  if x.busy then s
  else
    let t := (((s.setCtx c { x with gen := x.gen + 1, busy := true }).dropOwner c).dropTables c).dropStalled c
    let ks := ((t.launches.map (·.1)).eraseDups).filter fun k => (t.launch k).live && (t.launch k).record.ctx.toNat == c
    ((t.each ks fun u k => u.failLaunch k statusAborted).each ks State.settleLaunch).settleContext c

/-- TEARDOWN (R169): a write of TD = 1 to the CTXCTL of the context; the host's arrives in its order. -/
def execTeardown (p : Party) (c : Nat) (s : State) : Out :=
  if s.mayDispatch p && decide (c < 4096) then .next (s.inOrder p (0x1000000 + 16 * c + 8) 4 256 (s.tearDown c)) else .next s

/-! ### The dispatcher window (R162, R163, R169, R206, R248, R275) -/

/-- The low 32 bits, and the high 32 bits, of a register. -/
def lo32 (v : W64) : Nat := bits64 v 0 32
def hi32 (v : W64) : Nat := bits64 v 32 32

/-- A 64-bit value with one of its halves replaced, under a mask of the bits that exist. -/
def putHalf (v : W64) (hi : Bool) (w : Nat) (mask : W64) : W64 :=
  BitVec.ofNat 64 (if hi then lo32 v + w * 2 ^ 32 else w + hi32 v * 2 ^ 32) &&& mask

/-- Whether the head record of a queue waits on its dependence: WAITDEP. -/
def State.waitDep (s : State) (q : Nat) : Bool :=
  match s.fate q with
  | .waits _ => true
  | _ => false

/-- Word `j` of a QCB. -/
def State.qcbWord (s : State) (q j : Nat) : Nat :=
  let x := s.queue q
  match j with
  | 0 => lo32 x.ring
  | 1 => hi32 x.ring
  | 2 => x.ctx.toNat + x.irq.toNat * 2 ^ 29 + x.dev.toNat * 2 ^ 30 + x.en.toNat * 2 ^ 31
  | 3 => x.headix.toNat
  | 4 => x.tailix.toNat
  | 5 => s.level q + (s.waitDep q).toNat * 2 ^ 4 + x.dberr.toNat * 2 ^ 5
  | _ => 0

/-- Byte `i` of the present map. -/
def State.mapByte (s : State) (i : Nat) : Byte :=
  if i < 128 then (if s.diePresent (i / 16) then BitVec.ofNat 8 ((s.pkg.tiles[i / 16]?).getD 0 / 256 ^ (i % 16)) else 0)
  else if i < 136 then (if s.diePresent (i - 128) then 1 else 0)
  else if i < 144 then BitVec.ofNat 8 ((s.pkg.spare[i - 136]?).getD 0)
  else 0

/-- The 4-byte word at an offset of the window; what the manual lays nothing at reads as 0. -/
def State.dispWord (s : State) (off : Nat) : Nat :=
  if off < 0x800000 then s.qcbWord (off / 32) (off % 32 / 4)
  else if off < 0x1000000 then 0
  else if off < 0x1010000 then
    let x := s.ctx ((off - 0x1000000) / 16)
    match off % 16 / 4 with
    | 0 => lo32 x.save
    | 1 => hi32 x.save
    | 2 => x.gen.toNat + x.busy.toNat * 2 ^ 9
    | _ => 0
  else if off < 0x1020000 then
    let x := s.ctx ((off - 0x1010000) / 16)
    match off % 16 / 4 with
    | 0 => lo32 x.root
    | 1 => hi32 x.root
    | 2 => lo32 x.btd
    | _ => hi32 x.btd
  else leNat ((List.range 4).map fun k => s.mapByte (off - 0x1020000 + k))

/-- A write of RING, the size code or the context id while EN = 1 that would change it is ignored as a whole, with DBERR. -/
def State.qcbSet (s : State) (q : Nat) (x : Queue) : State :=
  let o := s.queue q
  if o.en && (x.ring != o.ring || x.ctx != o.ctx) then s.setQueue q { o with dberr := true } else s.setQueue q x

/-- A write of word 2: EN needs a usable size code, and a dispatcher in service (R163, R378). -/
def State.qcbControl (s : State) (q v : Nat) : State :=
  let o := s.queue q
  let want := bitOf v 31
  let can := o.usable && s.pkg.bootStep == 6
  s.qcbSet q { o with
    en := want && can, dev := bitOf v 30, irq := bitOf v 29, ctx := BitVec.ofNat 12 v, dberr := o.dberr || (want && !o.usable) }

/-- A write of word `j` of a QCB. -/
def State.qcbWrite (s : State) (q j v : Nat) : State :=
  let o := s.queue q
  match j with
  | 0 => s.qcbSet q { o with ring := putHalf o.ring false v 0x00FFFFFFFFFFFFFF }
  | 1 => s.qcbSet q { o with ring := putHalf o.ring true v 0x00FFFFFFFFFFFFFF }
  | 2 => s.qcbControl q v
  | 4 => s.ring q (BitVec.ofNat 32 v)
  | 5 => s.setQueue q { o with dberr := false }
  | _ => s

/-- A 4-byte write of the window; read-only fields and the present map ignore it. -/
def State.dispWrite (s : State) (off v : Nat) : State :=
  if off < 0x800000 then s.qcbWrite (off / 32) (off % 32 / 4) v
  else if off < 0x1000000 then s
  else if off < 0x1010000 then
    let c := (off - 0x1000000) / 16
    let x := s.ctx c
    match off % 16 / 4 with
    | 0 => s.setCtx c { x with save := putHalf x.save false v 0x00FFFFFFFFFFF000 }
    | 1 => s.setCtx c { x with save := putHalf x.save true v 0x00FFFFFFFFFFF000 }
    | 2 => if bitOf v 8 then s.tearDown c else s
    | _ => s
  else if off < 0x1020000 then
    let c := (off - 0x1010000) / 16
    let x := s.ctx c
    match off % 16 / 4 with
    | 0 => s.setCtx c { x with root := putHalf x.root false v 0x000FFFFFFFFFE001 }
    | 1 => s.setCtx c { x with root := putHalf x.root true v 0x000FFFFFFFFFE001 }
    | 2 => s.setCtx c { x with btd := putHalf x.btd false v 0x000FFFFFFFFFFFC1 }
    | _ => s.setCtx c { x with btd := putHalf x.btd true v 0x000FFFFFFFFFFFC1 }
  else s

/-- A 4- or 8-byte write, low word first. -/
def State.dispStore (s : State) (off size v : Nat) : State :=
  let t := s.dispWrite off (v % 2 ^ 32)
  if size = 8 then t.dispWrite (off + 4) (v / 2 ^ 32 % 2 ^ 32) else t

/-- A 4- or 8-byte read. -/
def State.dispLoad (s : State) (off size : Nat) : Nat :=
  s.dispWord off + (if size = 8 then s.dispWord (off + 4) * 2 ^ 32 else 0)

/-- An access of the window that is 4 or 8 bytes wide and naturally aligned. -/
def dispAligned (off size : Nat) : Bool := (size == 4 || size == 8) && off % size == 0

/-- Offsets the window has. -/
def dispThere (off size : Nat) : Bool := decide (off + size ≤ 0x1020100)

/-- DISPATCHER_WINDOW_WRITE (R162); the host's arrives in its order (R164, R374). -/
def execDispatcherWindowWrite (p : Party) (off : Nat) (size : Nat) (v : W64) (s : State) : Out :=
  if s.mayDispatch p && dispAligned off size && dispThere off size then .next (s.inOrder p off size v.toNat (s.dispStore off size v.toNat)) else .next s

end Sys2Proof.Machine
end

