-- ==== Sys2Proof/Machine/Placement.lean ====
section
/-! DEFINITION. Placement, start pulses, tile-task boundaries, pre-emption and resumption, and the switch between loads
(R17, R170, R172, R173, R195, R239-R247, R313, R358). -/

namespace Sys2Proof.Machine

/-! ### Where a load can go (R17, R147, R239, R358, R382, R384) -/

/-- The AGU that a port entry names, for a load on die `d` (R237). -/
def PortDesc.aguId (p : PortDesc) (d : Nat) : Nat := 64 * scratchDie d p.side + p.agu

/-- The origin tile of a region of a load at an anchor. -/
def RegionDesc.origin (r : RegionDesc) (a : PlaceArgs) : Nat := 128 * a.die + 16 * (a.ty + r.dy) + (a.tx + r.dx)

/-- The tiles of a region of a load at an anchor. -/
def RegionDesc.tiles (r : RegionDesc) (a : PlaceArgs) : List Nat :=
  (List.range r.h).flatMap fun y => (List.range r.w).map fun x => r.origin a + 16 * y + x

/-- The AGUs of a load on a die, with the region and the port of each. -/
def LoadDesc.attach (l : LoadDesc) (d : Nat) : List Nat :=
  l.regions.flatMap fun r => (r.ports.filter fun p => p.kind == 1).map fun p => p.aguId d

/-- The factor stores of a load on a die. -/
def LoadDesc.stores (l : LoadDesc) (d : Nat) : List Nat := ((List.range 8).filter l.fsbind.getLsbD).map fun i => 8 * d + i

/-- Whether a store is owned by another context. -/
def State.storeForeign (s : State) (c f : Nat) : Bool :=
  let o := (s.fstore f).own
  o.getLsbD 12 && fld o.toNat 0 12 != c

/-- Whether a store is bound to another load. -/
def State.storeTaken (s : State) (l f : Nat) : Bool :=
  match (s.fstore f).bound with
  | some m => m != l
  | none => false

/-- Whether a core may supervise a load of die `d`: a core of the two adjacent memory-port dies that no double fault has stopped. -/
def State.maySupervise (s : State) (d n : Nat) : Bool :=
  (n / 16 == (d + 7) % 8 || n / 16 == d) && decide (n < 128) && (s.core n).run != .frozen

/-- Bytes of a replay area (R147). -/
def replaySize (w h : Nat) : Nat := 8192 + 9216 * (16 * w * h) + 17408 * (w * h) + 262144

/-- A range of a list of (address, length) in one window of stack memory. -/
def inStack (p : Nat × Nat) : Bool := decide (p.1 + p.2 ≤ stackBase) || (decide (stackBase ≤ p.1) && decide (p.1 + p.2 ≤ lpBase))

/-- Two ranges share an address. -/
def rangesMeet (a b : Nat × Nat) : Bool := decide (a.1 < b.1 + b.2) && decide (b.1 < a.1 + a.2)

/-- The replay areas of the regions that hold tiles. -/
def State.replayAreas (s : State) : List (Nat × Nat) :=
  (s.regions.filter fun p => p.2.holds).map fun p => (p.2.replay, replaySize p.2.w p.2.h)

/-- Whether the replay areas that the dispatcher chose lie in stack memory and apart from all others. -/
def State.areasOk (s : State) (l : LoadDesc) (as : List Nat) : Bool :=
  let new := (as.zip l.regions).map fun p => (p.1, replaySize p.2.w p.2.h)
  as.length == l.regions.length && new.all inStack && apart rangesMeet (new ++ s.replayAreas)

/-- The fabric die of a UCIe link: links 2m and 2m + 1 join MD m to FD m and to FD m + 1, link 16 + d joins FD d to the configuration
die; 8 for a link that no fabric die has (R7, R8; log 19). -/
def linkDie (k : Nat) : Nat := if k < 16 then (k / 2 + k % 2) % 8 else if k < 24 then k - 16 else 8

/-- Whether the timing domains of a fabric die use die `x`: 0-7 fabric dies, 8-15 memory-port dies (R23). -/
def dieUses (d x : Nat) : Bool := x == d || (decide (8 ≤ x) && (x - 8 == d || (x - 8 + 1) % 8 == d))

/-- Whether a link ends at a die: 0-7 fabric dies, 8-15 memory-port dies; link 24 + m joins MD m to the configuration die. -/
def linkEnds (k x : Nat) : Bool := (decide (x < 8) && linkDie k == x) || (decide (8 ≤ x) && (if k < 16 then 8 + k / 2 == x else k == 16 + x))

/-- Whether a die waits for a change of a frequency or of a link's width that its timing domains use, or for such a link to report stable
(R384). -/
def State.changePending (s : State) (d : Nat) : Bool :=
  (s.pkg.pendFreq.any fun p => p.2.isSome && dieUses d p.1) || (s.pkg.pendWidth.any fun p => p.2.isSome && linkDie p.1 == d)
    || s.pkg.settling.any fun k => linkDie k == d

/-- Whether the tiles and the AGUs that a load needs at an anchor are free (R239). -/
def State.spotFree (s : State) (mask : BitVec 8) (l : LoadDesc) (a : PlaceArgs) : Bool :=
  mask.getLsbD a.die && s.dieUsable a.die && s.pkg.bootStep == 6 && !s.pkg.fabricOff && !s.changePending a.die
    && s.couldHold l a.die a.tx a.ty
    && (l.regions.all fun r => (r.tiles a).all fun t => (s.regionOfTile t).isNone)
    && ((l.attach a.die).all fun i => (s.agu i).attach.isNone)

/-- Whether the stores that a load binds on a die are free of other loads (R358). -/
def State.storesFree (s : State) (m : Nat) (l : LoadDesc) (d : Nat) : Bool := (l.stores d).all fun f => !s.storeTaken m f

/-- Whether the dispatcher may place a load where the arguments say, its factor stores apart. -/
def State.canPlace (s : State) (mask : BitVec 8) (l : LoadDesc) (a : PlaceArgs) : Bool :=
  s.spotFree mask l a && s.maySupervise a.die a.sup && s.areasOk l a.replay

/-! ### The steps of placement (R240) -/

/-- An AGU attached to region `g` of load `m`; only ATTACH changes (R194). -/
def State.attachAgu (s : State) (m g c i : Nat) : State :=
  s.setAgu i { s.agu i with attach := some (m, g), ctx := BitVec.ofNat 12 c }

/-- A port's binding. -/
def LoadDesc.binding (l : LoadDesc) (d : Nat) (p : PortDesc) : PBind :=
  match p.kind with
  | 1 => .stream (p.aguId d)
  | 2 => .input (BitVec.ofNat 64 (l.sqd p))
  | 3 => .output (BitVec.ofNat 64 (l.sqd p))
  | _ => .unbound

/-- The bindings of a region's ports. -/
def LoadDesc.bindings (l : LoadDesc) (d : Nat) (r : RegionDesc) : SMap PBind := mapOf .unbound (r.ports.map (l.binding d))

/-- The AGUs of a region's stream-bound ports attached. -/
def State.attachRegion (s : State) (m g c d : Nat) (r : RegionDesc) : State :=
  s.each ((r.ports.filter fun p => p.kind == 1).map fun p => p.aguId d) fun t i => t.attachAgu m g c i

/-- The element a slot or a rule entry is for: row `y`, column `x` of region `g`. -/
def regionElem (g y x : Nat) : Nat := elemOfTile g 0 0 + 64 * y + x

/-- A context slot applied: V = 1 makes the entry LIVE, V = 0 makes it EMPTY (R232). -/
def State.applySlot (s : State) (g : Nat) (w : SlotWrite) : State :=
  let e := s.elem (regionElem g w.y w.x)
  s.setElem (regionElem g w.y w.x)
    { e with ctx := SMap.set CtxEntry.reset e.ctx w.entry (if w.slot.getLsbD 44 then ⟨.live, w.slot⟩ else CtxEntry.reset) }

/-- A rule entry written. -/
def State.applyRule (s : State) (g : Nat) (w : RuleWrite) : State :=
  let e := s.elem (regionElem g w.y w.x)
  s.setElem (regionElem g w.y w.x) { e with rules := SMap.set 0 e.rules w.ix w.val }

/-- A palette image applied (R253). -/
def Region.applyPal (r : Region) (p : PalImage) : Region :=
  { r with
    pal := p.pals.foldl (fun m e => SMap.set 0 m e.1 e.2) r.pal,
    lq8 := match p.lq8 with
      | some l => mapOf 0 l
      | none => r.lq8 }

def Region.applyPalette (r : Region) (p : Option PalImage) : Region :=
  match p with
  | some i => r.applyPal i
  | none => r

/-- k0-k255 loaded into every tile of a region. -/
def State.loadKbank (s : State) (g : Nat) (k : Option (List W32)) : State :=
  match k with
  | none => s
  | some ws => s.each ((s.region g).tileIds g) fun t i => t.setTile i { t.tile i with kbank := mapOf 0 ws }

/-- The stage-out port of each element of a region. -/
def State.setSoports (s : State) (g : Nat) (ps : List Nat) : State :=
  s.each (((s.region g).elemIds g).zip ps) fun t p => t.setElem p.1 { t.elem p.1 with soport := BitVec.ofNat 4 p.2 }

/-- What steps 4 to 6 of R240 load into a region: constant bank, palette, rule tables, context records, row queue. -/
def State.loadImages (s : State) (g : Nat) (i : RegionImage) : State :=
  let s1 := s.loadKbank g i.kbank
  let s2 := s1.setRegion g { (s1.region g).applyPalette i.pal with rows := i.rows }
  let s3 := s2.each i.rules fun t w => t.applyRule g w
  s3.each i.slots fun t w => t.applySlot g w

/-- A tile as fresh placement leaves it before its images: accumulators and constant bank are 0, and no pass is in progress; AFLAG and the
operand slots have no such change (R240, R323). -/
def Tile.cleared (t : Tile) : Tile := { t with kbank := [], acc := [], accp := [], pass := none, groups := [] }

/-- A region's elements and tiles as fresh placement leaves them before its images. -/
def State.clearRegion (s : State) (g : Nat) : State :=
  (s.each ((s.region g).elemIds g) fun t e => t.setElem e Elem.reset).each ((s.region g).tileIds g) fun t i => t.setTile i (t.tile i).cleared

/-- One region set up: everything cleared, then its registers, bindings and images. -/
def State.setupRegion (s : State) (m ix c : Nat) (a : PlaceArgs) (l : LoadDesc) (d : RegionDesc) (i : RegionImage) (replay : Nat) :
    State :=
  let g := d.origin a
  let s1 := s.setRegion g { Region.reset with
    mode := .ready, load := m, sup := a.sup, ctx := BitVec.ofNat 12 c, idx := ix, w := d.w, h := d.h, gr := d.gr, binds := l.bindings a.die d, replay := replay }
  (((s1.clearRegion g).setSoports g i.soports).loadImages g i).attachRegion m g c a.die d

/-- A store bound to load `m` of context `c`; an unowned one is claimed. -/
def State.bindStore (s : State) (m c f : Nat) : State :=
  let x := s.fstore f
  s.setFstore f { x with bound := some m, own := if x.own.getLsbD 12 then x.own else BitVec.ofNat 13 (4096 + c) }

/-- The images of a load's regions, or none where one is refused. -/
def State.imagesOf (s : State) (c : Nat) (l : LoadDesc) (needForm : Bool) : Option (List RegionImage) :=
  allSome (l.regions.map fun r => s.regionImage c r needForm)

/-- Every region of a load set up, its stores bound, and the load resident. -/
def State.place (s : State) (m c : Nat) (l : LoadDesc) (is : List RegionImage) (a : PlaceArgs) : State :=
  let items := (l.regions.zip is).zip ((List.range is.length).zip a.replay)
  let s1 := s.each items fun t p => t.setupRegion m p.2.1 c a l p.1.1 p.1.2 p.2.2
  let s2 := s1.each (l.stores a.die) fun t f => t.bindStore m c f
  { s2 with serial := s2.serial + 1 }.setLoad m { s2.load m with
    st := .resident, serial := s2.serial + 1, desc := l, die := a.die, regions := l.regions.map (fun (r : RegionDesc) => r.origin a), placedAt := s.gcyc, lost := none,
    fs := l.stores a.die, sqds := l.sqds.map (BitVec.ofNat 64), fresh := true, counted := false, reqPreempt := false }

/-- The queues a stage pushes into grow by those of a load that it was placed with or switched to (R240). -/
def State.addPushes (s : State) (m : Nat) (l : LoadDesc) : State :=
  let x := s.load m
  let k := s.launch x.launch
  s.setLaunch x.launch { k with
    pushes := SMap.set [] k.pushes x.stage ((SMap.get [] k.pushes x.stage ++ l.pushes).eraseDups) }

/-- A pending load fails with a status; it ends once no sample that it released is left (R322). -/
def State.failPending (s : State) (l status : Nat) : State :=
  if s.samplesLeft l then s.failLaunch (s.load l).launch status else s.endLoad l status

/-- Whether the dispatcher waits for a span link before it can read some ranges in the context of a load (R376). -/
def State.loadHeld (s : State) (l : Nat) (rs : List (Nat × Nat)) : Bool := (s.ctxHeld (s.loadCtx l) .load rs).isSome

/-- The machine as the dispatcher's reads for a load see it. -/
def State.forLoad (s : State) (l : Nat) : State := { s with gone := (s.load l).lost }

/-- PLACEMENT (R239, R240, R358): a pending load waits while no die and anchor can take it; placed, its images are read, and a refusal
ends its launch. -/
def execPlacement (l : Nat) (site : PlaceArgs) (s : State) : Out :=
  let x := s.load l
  let c := s.loadCtx l
  let mask := (s.launch x.launch).record.mask
  let d := x.desc
  let v := s.forLoad l
  let rs := v.descRanges c d
  if x.st != .pending || x.stop != 0 || x.image.isSome then .next s
  else if !s.couldFit mask d then .next (s.endLoad l 6)
  else if !s.canPlace mask d site then .next s
  else if (d.stores site.die).any (s.storeForeign c) then .next (s.endLoad l 6)
  else if !s.storesFree l d site.die || s.loadHeld l rs then .next s
  else match v.imagesOf c d true with
  | none => .next ((s.readReport c rs).endLoad l 6)
  | some is =>
    let t := (s.readReport c rs).place l c d is site
    .next ((t.setLoad l { t.load l with ttcount := d.ttcount, ttrun := 0, fragseq := d.fragseq }).addPushes l d)

/-! ### Start pulses (R174, R240, R312, R323) -/

/-- What a start pulse changes in a region's elements and tiles: QUIET := 0, V := 0 in every operand slot. -/
def State.pulseItems (s : State) (g : Nat) : State :=
  let r := s.region g
  let s1 := s.each (r.elemIds g) fun t e => t.setElem e { t.elem e with estat := setQuiet (t.elem e).estat false }
  s1.each (r.tileIds g) fun t i => t.setTile i { t.tile i with opa := invalidate (t.tile i).opa, opb := invalidate (t.tile i).opb }

/-- A region's own part of a start pulse; the first one of a load sets LSTART. -/
def State.pulseRegion (s : State) (fresh : Bool) (g : Nat) : State :=
  let t := s.pulseItems g
  let r := t.region g
  (t.setRegion g { r with
    mode := .run, beat := s.dieBeat (g / 128), touched := [], switched := false, rowix := 0, relapsed := 0, started := false, step := none, waits := [], settle := false, formReq := false,
    span := none, pkrem := [], work := [], saved := [], closed := false, held := false,
    lstart := if fresh then s.gcyc - BitVec.ofNat 64 r.rc else r.lstart }).openWindow g

/-- Whether every region of a load is in one mode. -/
def State.allIn (s : State) (l : Nat) (m : RMode) : Bool := (s.load l).regions.all fun g => (s.region g).mode == m

/-- Whether a waiting `ctxload`, `rtload` or `palload` is to be performed before the next start pulse of a load (R252-R254). -/
def State.pulseWaits (s : State) (l : Nat) : Bool := s.cores.any fun p => p.2.await == some ((s.load l).serial, true)

/-- TILE_TASK_START (R240): every region of the load receives its start pulse in the same cycle. -/
def execTileTaskStart (l : Nat) (s : State) : Out :=
  let x := s.load l
  if x.st == .resident && s.allIn l .ready && !s.pulseWaits l then
    let t := s.each x.regions fun u g => u.pulseRegion x.fresh g
    .next (t.setLoad l { t.load l with fresh := false, counted := false })
  else .next s

/-! ### Input queues (R170, R240) -/

/-- The stage queues that the regions of a resident load read, by SQD address. -/
def State.inputsOf (s : State) (l : Nat) : List W64 :=
  ((s.load l).regions.flatMap fun g => (s.region g).binds.filterMap fun p => match p.2 with
    | .input q => some q
    | _ => none).eraseDups

/-- Whether a stage queue holds an entry. -/
def State.queueHolds (s : State) (c : Nat) (q : W64) : Bool :=
  match s.sqdAt dispParty c false q.toNat with
  | some d => d.count != 0
  | none => false

/-- When a stage queue became non-empty, as far as its pushes tell; else this cycle (R170). -/
def State.fedAt (s : State) (c : Nat) (q : W64) : W64 :=
  (((s.translate dispParty c false .load q.toNat).bind s.canon).bind fun a => SMap.get none s.fed a).getD s.gcyc

/-- Whether an input queue of a resident load is not empty. -/
def State.hasInput (s : State) (l : Nat) : Bool := (s.inputsOf l).any (s.queueHolds (s.loadCtx l))

/-- The stage queues that a load's regions read, as its descriptor names them. -/
def State.queuesIn (s : State) (l : Nat) : List W64 :=
  let d := (s.load l).desc
  (d.regions.flatMap fun r => (r.ports.filter fun p => p.kind == 2).map d.sqd).map (BitVec.ofNat 64)

/-- Whether an input queue of a pending load is not empty. -/
def State.pendingInput (s : State) (l : Nat) : Bool := (s.queuesIn l).any (s.queueHolds (s.loadCtx l))

/-- The earliest moment at which a non-empty input queue of a load became so. -/
def State.inputFrom (s : State) (l : Nat) : W64 :=
  let c := s.loadCtx l
  ((s.queuesIn l).filter (s.queueHolds c)).foldl (fun m q => if (s.fedAt c q).toNat < m.toNat then s.fedAt c q else m) s.gcyc

/-- The ranges of those queues' descriptors that meet a soft error. -/
def State.badQueues (s : State) (l : Nat) : List (Nat × Nat) :=
  ((s.queuesIn l).map fun q => (q.toNat, 64)).filter fun r => !(s.readBad dispParty (s.loadCtx l) false r.1 r.2).isEmpty

/-- A soft error that the dispatcher meets in such a descriptor, as it looks for input: it is reported once, on the supervisor of its stack's
die, and the queue counts as empty (R50, R352; log 118). -/
def State.noteBadQueues (s : State) (l : Nat) : State :=
  let rs := s.badQueues l
  let x := s.load l
  if x.sqdBad == !rs.isEmpty then s
  else (if rs.isEmpty then s else s.readReport (s.loadCtx l) rs).setLoad l { x with sqdBad := !rs.isEmpty }

/-- Whether a resident load is dry. -/
def State.dry (s : State) (l : Nat) : Bool :=
  !s.hasInput l && (s.load l).regions.all fun g => (s.region g).ports.all fun p => p.2.isEmpty

/-- Whether every stage that pushes into a load's input queues has ended. -/
def State.producersEnded (s : State) (l : Nat) : Bool :=
  let k := s.launch (s.load l).launch
  let ins := s.inputsOf l
  k.pushes.all fun p => k.ended.contains p.1 || !(p.2.any ins.contains)

/-! ### Quiet tile-tasks (R313) -/

/-- Whether the next tile-task of a load is skipped. -/
def State.skips (s : State) (l : Nat) : Bool :=
  (s.load l).regions.all (fun g =>
    let r := s.region g
    (r.elemIds g).all (fun e =>
      let x := s.elem e
      (!(x.ctx.any fun p => p.2.st == .live) || x.quiet) && x.links.all fun p => !p.2.full)
      && r.ports.all fun p => p.2.isEmpty)
    && (s.loadAgus l).all fun i => !(s.agu i).st.live

/-! ### Pre-emption images (R173, R195, R381) -/

/-- The stream record of a port. -/
def State.streamRecord (s : State) (d : Nat) (r : Region) (p : Nat) : List Byte :=
  match r.bind p with
  | .stream i =>
    let a := s.agu i
    a.record i (if i / 64 = d then 1 else 0) a.progress (a.op == opShadow && a.st.live)
  | _ => zeros 96

/-- The 4,096-byte header of a region's image; `row` is the resumable position. -/
def State.imageHeader (s : State) (l g row : Nat) : List Byte :=
  let x := s.load l
  let r := s.region g
  leBytes 4 1 ++ [BitVec.ofNat 8 (r.w - 1 + 16 * (r.h - 1)), BitVec.ofNat 8 x.die]
    ++ leBytes 2 (g % 16 + 256 * (g % 128 / 16)) ++ leBytes 8 x.fld.toNat ++ leBytes 8 (positionWord row 0) ++ leBytes 4 r.itern
    ++ leBytes 4 x.fragseq.toNat ++ leBytes 8 r.rc ++ leBytes 4 x.sqds.length ++ zeros 20
    ++ ((List.range 16).flatMap fun i => leBytes 8 ((x.sqds[i]?).getD 0).toNat)
    ++ ((List.range 16).flatMap fun p => s.streamRecord x.die r p) ++ zeros 2368

/-- A rule table entry list's 8,192 bytes. -/
def Elem.ruleBytes (e : Elem) : List Byte := (SMap.getRun 0 e.rules 0 4096).flatMap fun v => leBytes 2 v.toNat

/-- The image of one region. -/
def State.regionBytes (s : State) (l g row : Nat) : List Byte :=
  let r := s.region g
  s.imageHeader l g row ++ regionRecord r.gr r.rowix r.modc r.relapsed r.ports
    ++ ((r.elemIds g).flatMap fun e => elemRecord (s.elem e) [])
    ++ ((r.tileIds g).flatMap fun t => tileRecord (s.tile t) [])
    ++ ((r.elemIds g).flatMap fun e => ((List.range 16).flatMap (s.elem e).planeBytes) ++ (s.elem e).ruleBytes)
    ++ ((r.tileIds g).flatMap fun t => wordBytes (SMap.getRun 0 (s.tile t).kbank 0 256) ++ (List.range 4).flatMap (s.tile t).accBytes)

/-- Bytes of the image of a region of w × h tiles. -/
def imageSize (w h : Nat) : Nat := 8192 + 16 * w * h * (9216 + 40960) + w * h * (17408 + 33792)

/-- A unit as the security engine writes it: XTS keeps its length. -/
def sealedUnit (c gen i : Nat) (p : List Byte) : List Byte := (Config.sealUnit c gen i p ++ zeros p.length).take p.length

/-- The image as the security engine writes it, in units of 4,096 bytes. -/
def sealImage (c gen : Nat) (bs : List Byte) : List Byte :=
  (List.range ((bs.length + 4095) / 4096)).flatMap fun i => sealedUnit c gen i ((bs.drop (4096 * i)).take 4096)

/-- What an image opens to: a unit as it was written, or what a changed unit decrypts to (R381). -/
def openImage (c gen : Nat) (plain mem : List Byte) : List Byte :=
  (List.range ((plain.length + 4095) / 4096)).flatMap fun i =>
    let p := (plain.drop (4096 * i)).take 4096
    let m := (mem.drop (4096 * i)).take 4096
    if m = sealedUnit c gen i p then p else (Config.openUnit c gen i m ++ zeros 4096).take p.length

/-- Where the next image of a context goes: its save area, past the images of its other pending loads. -/
def State.imageBase (s : State) (c : Nat) : Nat :=
  (s.loadsWith fun x => x.image.isSome && (s.launch x.launch).record.ctx.toNat == c).foldl
    (fun m l => match (s.load l).image with
      | some b => max m (b + (s.load l).imageLen)
      | none => m) (s.ctx c).save.toNat

/-- The bytes of an image stored granule by granule; a granule that cannot be reached is left out. -/
def State.storeImage (s : State) (c : Nat) : Nat → Nat → List Byte → State
  | 0, _, _ => s
  | fuel + 1, va, bs =>
    if bs = [] then s
    else (s.dispPut c va (bs.take 16) none).storeImage c fuel (va + 16) (bs.drop 16)

/-- Whether every running stream of a load stands at a stopping point (R195). -/
def State.streamsStopped (s : State) (l : Nat) : Bool :=
  (s.loadAgus l).all fun i => (s.agu i).st != .running || (s.agu i).atStop

/-- The pre-emption itself (R172): the image is written, the load returns to the pending-load list, its regions are free. Egress
that was released and has not left the buffer waits for the resumption. -/
def State.preempt (s : State) (l : Nat) : State :=
  let x := s.load l
  let c := s.loadCtx l
  let plain := x.regions.flatMap fun g => s.regionBytes l g 0
  let base := s.imageBase c
  let sealed := sealImage c (s.ctx c).gen.toNat plain
  let s1 := s.storeImage c (sealed.length / 16 + 1) base sealed
  let y : Load := { x with
    st := .pending, regions := [], image := some base, imageLen := plain.length, plain := plain, imageKey := true,
    genAt := (s.ctx c).gen, reqPreempt := false, since := s.gcyc, counted := false, fresh := false,
    saved := (s.loadAgus l).map fun i => (i, s.agu i), out := x.regions.map fun g => (s.region g).released }
  let s2 := (s1.each x.regions State.freeRegion).each (s.loadAgus l) State.detach
  (s2.setLoad l y).count 0x303 1

/-- Whether a further tile-task of a load is due, and is skipped (R313). -/
def State.skipDue (s : State) (l : Nat) : Bool :=
  (s.load l).ttcount != 0 && decide ((s.load l).ttrun < (s.load l).ttcount) && s.skips l

/-- PREEMPTION (R172, R195): a requested pre-emption at the boundary of every region of a load, its tile-task counted and what is quiet
skipped, or where FORM rows have settled or a switch has been made; running streams first come to a stopping point. A load that a
teardown or a failure stops is not saved. -/
def execPreemption (l : Nat) (s : State) : Out :=
  let x := s.load l
  if x.st == .resident && x.stop == 0 && s.streamsStopped l
      && ((x.reqPreempt && ((s.allIn l .boundary && x.counted && !s.skipDue l)
          || (x.fresh && s.allIn l .ready && x.regions.all fun g => (s.region g).switched)))
        || (s.allIn l .boundary && x.regions.any fun g => (s.region g).formReq))
  then .next (s.preempt l)
  else .next s

/-! ### Resumption (R90, R173, R195, R240) -/

/-- An element's planes and rule tables from their 40,960 bytes. -/
def Elem.restorePlanes (e : Elem) (bs : List Byte) : Elem :=
  let h := fun n off => (List.range n).map fun i => (BitVec.ofNat 16 (leAt bs (off + 2 * i) 2) : W16)
  { e with planes := mapOf 0 (h 16384 0), pp := [], rules := mapOf 0 (h 4096 32768) }

/-- A tile's constant bank and accumulators from their 33,792 bytes. -/
def Tile.restoreBanks (t : Tile) (bs : List Byte) : Tile :=
  { t with kbank := mapOf 0 (wordsAt bs 0 256), acc := mapOf 0 (wordsAt bs 1024 8192), accp := [] }

/-- A region restored from its part of an image. -/
def State.restoreRegion (s : State) (g : Nat) (open_ : List Byte) : State :=
  let r := s.region g
  let es := r.elemIds g
  let ts := r.tileIds g
  let rec_ := open_.drop 4096
  let tb := 8192 + 9216 * es.length
  let pb := tb + 17408 * ts.length
  let kb := pb + 40960 * es.length
  let at_ := fun off n => (open_.drop off).take n
  let s1 := s.setRegion g { r with
    gr := GRegs.ofBytes rec_, ports := portsOfBytes rec_, rowix := leAt rec_ 12 2, modc := leAt rec_ 14 1, relapsed := leAt rec_ 16 4,
    itern := leAt open_ 24 4, rc := leAt open_ 32 8 }
  let s2 := s1.each (es.zip (List.range es.length)) fun t p =>
    t.setElem p.1 (((t.elem p.1).restore (at_ (8192 + 9216 * p.2) 4904)).restorePlanes (at_ (pb + 40960 * p.2) 40960))
  s2.each (ts.zip (List.range ts.length)) fun t p =>
    t.setTile p.1 (((t.tile p.1).restoreFlags (at_ (tb + 17408 * p.2) 32)).restoreBanks (at_ (kb + 33792 * p.2) 33792))

/-- Every region restored, each from its part of the image. -/
def State.restoreAll (s : State) : List Nat → List Byte → State
  | [], _ => s
  | g :: gs, o =>
    let n := imageSize (s.region g).w (s.region g).h
    (s.restoreRegion g (o.take n)).restoreAll gs (o.drop n)

/-- A saved stream in its AGU, attached to the region it had; a stalled one walks its element again. -/
def State.restoreStream (s : State) (i : Nat) (a : Agu) : State :=
  let b := s.agu i
  s.setAgu i { a with attach := b.attach, ctx := b.ctx, run := b.run, st := if a.st = .stalled then .running else a.st }

/-- RESUMPTION (R173, R195, R240, R381): a pre-empted load goes to a region of the same form on its own die, and all that its image
holds is restored; an image under an erased key ends the load with ALARM. -/
def execResumption (l : Nat) (site : PlaceArgs) (s : State) : Out :=
  let x := s.load l
  let c := s.loadCtx l
  let mask := (s.launch x.launch).record.mask
  let v := s.forLoad l
  match x.image with
  | none => .next s
  | some va =>
    if x.st != .pending || x.stop != 0 then .next s
    else if !x.imageKey then .next (s.failPending l 7)
    else if site.die ≠ x.die ∨ !s.canPlace mask x.desc site then .next s
    else if s.loadHeld l ((va, x.imageLen) :: v.loadRanges c x.fld.toNat) then .next s
    else match v.loadDescAt c x.fld.toNat with
    | none => .next ((s.readReport c (v.loadRanges c x.fld.toNat)).failPending l 6)
    | some d =>
      let rs := v.loadRanges c x.fld.toNat ++ v.descRanges c d ++ [(va, x.imageLen)]
      if !s.canPlace mask d site then .next s
      else if (d.stores site.die).any (s.storeForeign c) then .next (s.failPending l 6)
      else if !s.storesFree l d site.die || s.loadHeld l rs then .next s
      else match v.imagesOf c d true, v.ctxRead c va x.imageLen with
      | none, _ => .next ((s.readReport c rs).failPending l 6)
      | _, none => .next ((s.readReport c rs).failPending l 6)
      | some is, some mem =>
          let t := (s.readReport c rs).place l c d is site
          let u := t.restoreAll (t.load l).regions (openImage c x.genAt.toNat x.plain mem)
          let u2 := u.each x.saved fun w p => w.restoreStream p.1 p.2
          let w := u2.each ((u2.load l).regions.zip x.out) fun w p => w.setRegion p.1 { w.region p.1 with released := p.2 }
          .next (w.setLoad l { w.load l with image := none, imageLen := 0, plain := [], saved := [], out := [] })

/-! ### Requests (R172) -/

/-- Whether a load could be placed now on some die of a mask. -/
def State.fitsNow (s : State) (m : Nat) (mask : BitVec 8) (l : LoadDesc) : Bool :=
  (List.range 8).any fun d => s.storesFree m l d &&
    (List.range 16).any fun tx => (List.range 8).any fun ty => s.spotFree mask l { die := d, tx := tx, ty := ty, sup := 0, replay := [] }

/-- Whether the entry loads of a record cannot all be placed now on dies of its mask. -/
def State.recordBlocked (s : State) (q : Nat) : Bool :=
  match s.fate q with
  | .ready r =>
    (match ((s.forQueue q).graphAt r.ctx.toNat r.gd.toNat).bind ((s.forQueue q).entriesOf r.ctx.toNat) with
      | some ls => ls.any fun p => !s.fitsNow s.freeLoad r.mask p.2.2
      | none => false)
  | _ => false

/-- Whether a pending load cannot be placed now on any die that it can go to. -/
def State.loadBlocked (s : State) (m : Nat) : Bool :=
  let x := s.load m
  !s.fitsNow m (if x.image.isSome then 1#8 <<< x.die else (s.launch x.launch).record.mask) x.desc

/-- Whether a ready record, or a load that has been taken, of a level above a load's cannot be placed on any die of its mask (R172). -/
def State.higherWaits (s : State) (lev : Nat) : Bool :=
  s.queues.any (fun p => s.isReady p.1 && decide (lev < s.level p.1) && s.recordBlocked p.1)
    || s.loads.any fun p => p.2.st == .pending && decide (lev < p.2.level) && s.loadBlocked p.1

/-- When the input of a load became non-empty, that it is not now apart (R170). -/
def State.inputStart (s : State) (l : Nat) : Nat := ((s.load l).inputSince.getD (s.inputFrom l)).toNat

/-- Since when a stage has waited: it is not resident and its input is not empty (R170). -/
def State.waitSince (s : State) (l : Nat) : Nat := max (s.load l).since.toNat (s.inputStart l)

/-- The waiting stages of a load's graph that its regions could be swapped to (R170). -/
def State.waitingStages (s : State) (l : Nat) : List Nat :=
  let x := s.load l
  let mask := (s.launch x.launch).record.mask
  (s.loads.filter fun p => p.2.st == .pending && p.2.stop == 0 && p.2.launch == x.launch && p.2.stage != x.stage
      && (if p.2.image.isSome then p.2.die == x.die else mask.getLsbD x.die) && s.pendingInput p.1).map (·.1)

/-- Cycles of a swap quantum: 2.0 GHz. -/
def Launch.quantumCycles (k : Launch) : Nat := 2000 * k.quantum

/-- Whether a stage's input became non-empty before another's; of one moment the lower stage comes first (R170). -/
def State.inputBefore (s : State) (a b : Nat) : Bool :=
  decide (s.inputStart a < s.inputStart b) || (s.inputStart a == s.inputStart b && decide ((s.load a).stage < (s.load b).stage))

/-- The stage a load gives its region to at a boundary: its load dry, the one whose input came first; or, after its quantum, one that
has waited for a quantum (R170). -/
def State.swapTo (s : State) (l : Nat) : Option Nat :=
  let x := s.load l
  let q := (s.launch x.launch).quantumCycles
  let ws := s.waitingStages l
  let old := ws.filter fun m => decide (s.waitSince m + q ≤ s.gcyc.toNat)
  let from_ := if s.dry l then ws else if x.placedAt.toNat + q ≤ s.gcyc.toNat then old else []
  from_.foldl (fun b m => match b with
    | none => some m
    | some v => if s.inputBefore m v then some m else some v) none

/-- Whether the cause of a request is there; whether R170 calls for a swap is decided at the boundary itself. -/
def State.mayRequest (s : State) (why : PreemptWhy) (l : Nat) : Bool :=
  match why with
  | .higher => s.higherWaits (s.load l).level
  | .swap => false
  | .host => true
  | .change => s.changePending (s.load l).die

/-- PREEMPTION_REQUEST (R172): it waits for the load's boundary, or, while its regions settle after FORM, for the end of settling. -/
def execPreemptionRequest (why : PreemptWhy) (l : Nat) (s : State) : Out :=
  let x := s.load l
  if x.st == .resident && s.mayRequest why l then
    let t := s.setLoad l { x with reqPreempt := true }
    if x.regions.all fun g => (s.region g).settle && (s.region g).mode == .run then
      .next (t.each x.regions fun u g => u.setRegion g { u.region g with formReq := true })
    else .next t
  else .next s

/-- A region whose FORM row has settled under a request stands at position (FORM row, 0). -/
def State.formStop (s : State) (g : Nat) : State :=
  let r := s.region g
  if r.formReq && !r.settle && r.mode == .run then s.setRegion g { r with mode := .boundary, work := [] } else s

/-! ### Boundaries (R170, R172, R240) -/

/-- Whether released egress of a load still waits for a stage queue, or a stream out of one of its regions still runs. -/
def State.outputsLeft (s : State) (l : Nat) : Bool :=
  ((s.loadAgus l).any fun i => (s.agu i).st.live && (s.agu i).outward)
    || (s.load l).regions.any fun g =>
      let r := s.region g
      r.released.any fun e => match e.kind with
        | .stage p _ _ => (match r.bind p with
            | .output _ => true
            | _ => false)
        | _ => false

/-- The load ends at its boundary, once its egress has left the buffer and its samples are blended. -/
def State.endAtBoundary (s : State) (l status : Nat) : State :=
  if status = 1 ∧ s.outputsLeft l then s else s.tryEnd l status

/-- A stage swap (R170): the load is pre-empted, and the waiting one placed where it stood, if it can be. -/
def State.swap (s : State) (l m : Nat) : Out :=
  let x := s.load l
  let g := (x.regions[0]?).getD 0
  let r := s.region g
  let d := x.desc.regions[0]?
  let site : PlaceArgs :=
    { die := x.die, tx := g % 16 - d.elim 0 (·.dx), ty := g % 128 / 16 - d.elim 0 (·.dy), sup := r.sup,
      replay := x.regions.map fun h => (s.region h).replay }
  let t := (s.preempt l).count 0x302 1
  if r.mode = .boundary then (if (t.load m).image.isSome then execResumption m site t else execPlacement m site t) else .next s

/-- What follows when every region of a load stands at its boundary and the tile-task has been counted: its end; a due tile-task
that is skipped (R313); a pre-emption; a swap (R170); or the next start pulse (R240). -/
def State.afterTask (s : State) (l : Nat) : Out :=
  let x := s.load l
  let next := s.each x.regions fun t g => t.setRegion g { t.region g with mode := .ready }
  if x.stop ≠ 0 then .next (s.tryEnd l x.stop)
  else if x.ttcount ≠ 0 ∧ x.ttcount ≤ x.ttrun then .next (s.endAtBoundary l 1)
  else if x.ttcount = 0 ∧ s.dry l ∧ s.producersEnded l then .next (s.endAtBoundary l 1)
  else if s.skipDue l then .next ((s.setLoad l { x with ttrun := x.ttrun + 1 }).count (0x100 + 16 * x.die + 3) 1)
  else if x.reqPreempt then execPreemption l s
  else match s.swapTo l with
  | some m => if s.streamsStopped l then s.swap l m else .next s
  | none => if x.ttcount ≠ 0 ∨ s.hasInput l then .next next else .next s

/-- Whether the tile-task that a load is in is its last (R240). -/
def State.lastTask (s : State) (l : Nat) : Bool :=
  let x := s.load l
  if x.ttcount = 0 then s.dry l && s.producersEnded l else decide (x.ttcount ≤ x.ttrun + 1)

/-- Whether a load ends at the boundary that its regions reach or stand at (R240), or is to stop there. -/
def State.overAt (s : State) (l : Nat) : Bool :=
  let x := s.load l
  x.stop != 0 || (if x.counted && x.ttcount != 0 then decide (x.ttcount ≤ x.ttrun) else s.lastTask l)

/-- TILE_TASK_BOUNDARY (R172, R240, R244): a region stands at its boundary; when all of its load do, the tile-task is over. A region
that ends its last tile-task while another waits at a RECONF row is a configuration fault. A load torn down while a request stands at its
settled FORM rows ends there. -/
def execTileTaskBoundary (g : Nat) (s : State) : Out :=
  let r := s.region g
  let x := s.load r.load
  if r.mode != .boundary then .next s
  else if (x.regions.any fun h => (s.region h).mode matches .switching _) && s.lastTask r.load then .next (s.detect g 2)
  else if !s.allIn r.load .boundary then .next s
  else if x.regions.any fun h => (s.region h).formReq then
    (if x.stop ≠ 0 then .next (s.tryEnd r.load x.stop) else execPreemption r.load s)
  else if x.counted then s.afterTask r.load
  else (s.setLoad r.load { x with ttrun := x.ttrun + 1, counted := true }).afterTask r.load

/-! ### Switching (R244-R247) -/

/-- The index that every region of a load names at its RECONF rows, where all have issued one. -/
def State.switchIndex (s : State) (l : Nat) : Option Nat :=
  let xs := (s.load l).regions.map fun g => match (s.region g).mode with
    | .switching x => some x
    | _ => none
  match allSome xs with
  | some (x :: rest) => if rest.all (· == x) then some x else none
  | _ => none

/-- Two regions of a load name different indices. -/
def State.switchDiffers (s : State) (l : Nat) : Bool :=
  let xs := (s.load l).regions.filterMap fun g => match (s.region g).mode with
    | .switching x => some x
    | _ => none
  xs.any fun x => xs.any fun y => x != y

/-- The address of the FLD that a switch names; none where the index passes NLOAD (R244). -/
def State.switchAddr (s : State) (l : Nat) : Option (Nat × Nat) :=
  (s.switchIndex l).bind fun x => ((s.launch (s.load l).launch).table[x]?).map fun a => (x, a)

/-- The descriptor of an entry load that the take has read already (R238). -/
def State.entryDesc (s : State) (l x : Nat) : Option LoadDesc :=
  ((s.launch (s.load l).launch).descs.find? fun p => p.1 == x).map (·.2)

/-- The next load of a switch: its index, address and descriptor; none where it is refused. -/
def State.switchTarget (s : State) (l : Nat) : Option (Nat × Nat × LoadDesc) :=
  (s.switchAddr l).bind fun p =>
    ((s.entryDesc l p.1).orElse fun _ => (s.forLoad l).loadDescAt (s.loadCtx l) p.2).map fun d => (p.1, p.2, d)

/-- The addresses from which a switch reads a descriptor. -/
def State.switchDescRanges (s : State) (l : Nat) : List (Nat × Nat) :=
  match s.switchAddr l with
  | none => []
  | some p => if (s.entryDesc l p.1).isSome then [] else (s.forLoad l).loadRanges (s.loadCtx l) p.2

/-- What the dispatcher reads at a switch. -/
def State.switchRanges (s : State) (l : Nat) : List (Nat × Nat) :=
  let c := s.loadCtx l
  s.switchDescRanges l ++ match s.switchTarget l with
    | none => []
    | some p => (s.forLoad l).descRanges c p.2.2

/-- Whether a switch to a load is in place: the same regions of the same forms in the same places as the resident one (R244). -/
def State.sameForms (s : State) (l : Nat) (d : LoadDesc) : Bool :=
  (s.load l).desc.regions.map (fun r => (r.w, r.h, r.dx, r.dy)) == d.regions.map fun r => (r.w, r.h, r.dx, r.dy)

/-- Whether the drain of a switch is over: released egress has left the buffers, every stream has completed (R245), and no factor store
that the load binds has an operation in progress (R373). -/
def State.switchDrained (s : State) (l : Nat) : Bool :=
  ((s.load l).regions.all fun g => (s.region g).released.isEmpty) && ((s.loadAgus l).all fun i => !(s.agu i).st.live)
    && (s.load l).fs.all fun f => (s.fstore f).busy.isNone

/-- A configuration fault of a load's regions at a switch; a bad residue that the reading met is reported (R352). -/
def State.switchFault (s : State) (l : Nat) : State :=
  match (s.load l).regions with
  | g :: _ =>
    if (s.region g).freeze.any fun f => f.ending.isSome then s else (s.readReport (s.loadCtx l) (s.switchRanges l)).detect g 2
  | [] => s

/-- One region of an in-place switch: what it holds stays, and what the next load's descriptor gives it is loaded (R245, R246). -/
def State.switchRegion (s : State) (m c die g : Nat) (l : LoadDesc) (d : RegionDesc) (i : RegionImage) : State :=
  let r := s.region g
  let s1 := (s.each (r.elemIds g) State.clearCtx).each (r.elemIds g) fun t e => t.setElem e { t.elem e with planeBusy := 0 }
  let s2 := s1.setRegion g { r with
    mode := .ready, switched := true, gr := d.gr, binds := l.bindings die d, rc := 0, rowix := 0, relapsed := 0, modc := 0, itern := 0, started := false }
  ((s2.setSoports g i.soports).loadImages g i).attachRegion m g c die d

/-- The in-place switch to FLD `x` (R245): the old AGUs are detached, and steps 2 to 8 of placement follow. -/
def State.switchTo (s : State) (l x a : Nat) (d : LoadDesc) (is : List RegionImage) : State :=
  let y := s.load l
  let c := s.loadCtx l
  let new := d.stores y.die
  let s1 := (s.each (s.loadAgus l) State.detach).each (y.fs.filter fun f => !new.contains f) State.unbind
  let s2 := s1.each ((y.regions.zip d.regions).zip is) fun t p => t.switchRegion l c y.die p.1.1 d p.1.2 p.2
  let s3 := s2.each new fun t f => t.bindStore l c f
  (s3.setLoad l { s3.load l with
    x := x, fld := BitVec.ofNat 64 a, desc := d, ttcount := d.ttcount, ttrun := 0, fragseq := d.fragseq, sqds := d.sqds.map (BitVec.ofNat 64),
    fs := new, fresh := true, counted := false, lost := none }).addPushes l d

/-- A slot staged (R233, R245): a LIVE entry is left. -/
def State.stageSlot (s : State) (g : Nat) (w : SlotWrite) : State :=
  let n := regionElem g w.y w.x
  let e := s.elem n
  if (SMap.get CtxEntry.reset e.ctx w.entry).st = .live then s
  else s.setElem n
    { e with ctx := SMap.set CtxEntry.reset e.ctx w.entry (if w.slot.getLsbD 44 then ⟨.staged, w.slot⟩ else CtxEntry.reset) }

/-- The slots of the next load, staged while the drain lasts (R245). -/
def State.stageAhead (s : State) (l : Nat) (is : List RegionImage) : State :=
  s.each ((s.load l).regions.zip is) fun t p => t.each p.2.slots fun u w => u.stageSlot p.1 w

/-- IN_PLACE_SWITCH (R245-R247, R358): once every region has issued RECONF and the drain is over, and no other load holds a store or an
AGU of the next load, that load takes over the regions; a teardown or a pre-emption that came in the meantime follows at once. -/
def execInPlaceSwitch (l : Nat) (s : State) : Out :=
  let y := s.load l
  let c := s.loadCtx l
  if s.loadHeld l (s.switchRanges l) then .next s
  else match s.switchTarget l with
  | none => .next (if (s.switchIndex l).isSome then s.switchFault l else s)
  | some (x, a, d) =>
    if y.st != .resident || !s.sameForms l d then .next s
    else match (s.forLoad l).imagesOf c d false with
    | none => .next (s.switchFault l)
    | some is =>
      let free := (d.attach y.die).all fun i => (s.agu i).attach.isNone || (s.agu i).of l
      if !s.switchDrained l then .next (s.stageAhead l is)
      else if (d.stores y.die).any (s.storeForeign c) then .next (if y.stop ≠ 0 then s.tryEnd l y.stop else s.switchFault l)
      else if !s.storesFree l d y.die || !free then .next s
      else if y.stop ≠ 0 then .next (s.tryEnd l y.stop)
      else execPreemption l ((s.readReport c (s.switchRanges l)).switchTo l x a d is)

/-- RE_PLACEMENT (R244, R246): the regions of the next load differ, so after the drain the resident load gives up its regions and the
next one joins the pending-load list at the current level. -/
def execRePlacement (l : Nat) (s : State) : Out :=
  let y := s.load l
  if s.loadHeld l (s.switchRanges l) then .next s
  else match s.switchTarget l with
  | none => .next (if (s.switchIndex l).isSome then s.switchFault l else s)
  | some (x, a, d) =>
    if y.st != .resident || s.sameForms l d || !s.switchDrained l || s.samplesLeft l then .next s
    else if y.stop ≠ 0 then .next (s.tryEnd l y.stop)
    else
      let t := (s.readReport (s.loadCtx l) (s.switchDescRanges l)).dropLoad l
      .next ((t.setLoad l (newLoad y.launch y.stage x a y.level d s.gcyc)).addPushes l d)

/-- A region's turn while it waits for a switch: two indices, or the switch itself. -/
def switchTurn (g : Nat) (s : State) : Out :=
  let l := (s.region g).load
  if s.switchDiffers l then .next (s.detect g 2)
  else if s.loadHeld l (s.switchRanges l) then .next s
  else match s.switchTarget l with
  | some (_, _, d) => if s.sameForms l d then execInPlaceSwitch l s else execRePlacement l s
  | none => .next (if (s.switchIndex l).isSome then s.switchFault l else s)

end Sys2Proof.Machine
end

