-- ==== Sys2Proof/Machine/CoreMem.lean ====
section
/-! DEFINITION. Loads and stores of a control core, with the fabric memories and the dispatcher window (R267, R274, R275,
R282-R284). -/

namespace Sys2Proof.Machine

/-! ### Fabric memories (R274) -/

/-- A byte of a fabric memory: a site's, an accumulator entry's, a constant-bank entry's, a rule entry's. -/
inductive FabByte where
  | plane (el key byte : Nat)
  | acc (tile key byte : Nat)
  | kbank (tile key byte : Nat)
  | rule (el key byte : Nat)
  deriving DecidableEq, Repr

/-- The tile of a fabric byte. -/
def FabByte.tile : FabByte → Nat
  | .plane e _ _ => tileOfElem e
  | .acc t _ _ => t
  | .kbank t _ _ => t
  | .rule e _ _ => tileOfElem e

/-- What a physical address of the fabric memories names; none at a reserved byte. -/
def fabByteAt (pa : Nat) : Option FabByte :=
  if pa < tileBase then
    let x := pa - planeBase
    if x < 8 * 0x4000000 then some (.plane (x / 0x8000) (x % 0x8000 / 2) (x % 2)) else none
  else
    let x := pa - tileBase
    let t := x / 0x40000
    let o := x % 0x40000
    if 8 * 0x2000000 ≤ x then none
    else if o < 0x8000 then some (.acc t (o / 4) (o % 4))
    else if o < 0x8400 then some (.kbank t ((o - 0x8000) / 4) (o % 4))
    else if 0x20000 ≤ o then
      let e := (o - 0x20000) / 0x2000
      some (.rule (elemOfTile t (e % 4) (e / 4)) (o % 0x2000 / 2) (o % 2))
    else none

/-- Byte `i` of a number. -/
def byteOf (v i : Nat) : Byte := BitVec.ofNat 8 (v / 256 ^ i)

/-- A number with byte `i` replaced. -/
def putByte (v i : Nat) (b : Byte) : Nat := v - (byteOf v i).toNat * 256 ^ i + b.toNat * 256 ^ i

def State.fabRead (s : State) : FabByte → Byte
  | .plane e k i => byteOf (SMap.get 0 (s.elem e).planes k).toNat i
  | .acc t k i => byteOf (SMap.get 0 (s.tile t).acc k).toNat i
  | .kbank t k i => byteOf (SMap.get 0 (s.tile t).kbank k).toNat i
  | .rule e k i => byteOf (SMap.get 0 (s.elem e).rules k).toNat i

/-- A byte of a fabric memory stored: a clean write, which clears the poison of its site or entry (R143). -/
def State.fabWrite (s : State) (x : FabByte) (b : Byte) : State :=
  match x with
  | .plane e k i =>
    let y := s.elem e
    s.setElem e { y with
      planes := SMap.set 0 y.planes k (BitVec.ofNat 16 (putByte (SMap.get 0 y.planes k).toNat i b)),
      pp := SMap.set 0 y.pp (k / 32) (SMap.get 0 y.pp (k / 32) &&& ~~~(1#32 <<< (k % 32))) }
  | .acc t k i =>
    let y := s.tile t
    s.setTile t { y with
      acc := SMap.set 0 y.acc k (BitVec.ofNat 32 (putByte (SMap.get 0 y.acc k).toNat i b)), accp := SMap.set false y.accp k false }
  | .kbank t k i =>
    let y := s.tile t
    s.setTile t { y with kbank := SMap.set 0 y.kbank k (BitVec.ofNat 32 (putByte (SMap.get 0 y.kbank k).toNat i b)) }
  | .rule e k i =>
    let y := s.elem e
    s.setElem e { y with rules := SMap.set 0 y.rules k (BitVec.ofNat 16 (putByte (SMap.get 0 y.rules k).toNat i b)) }

/-- Whether a fabric byte can be reached by a party: its tile's region stopped or gated, and the party privileged or the region's
supervising core. -/
def State.fabOpen (s : State) (privileged : Bool) (n : Nat) (x : FabByte) : Bool :=
  match s.regionOfTile x.tile with
  | none => false
  | some g =>
    let r := s.region g
    r.frozen && (privileged || r.sup == n)

/-- The fabric bytes of an access, or none where one of them cannot be reached. -/
def State.fabBytes (s : State) (privileged : Bool) (n pa : Nat) : Nat → Option (List FabByte)
  | 0 => some []
  | k + 1 =>
    match fabByteAt pa, s.fabBytes privileged n (pa + 1) k with
    | some x, some xs => if s.fabOpen privileged n x then some (x :: xs) else none
    | _, _ => none

/-- Bytes stored one after another. -/
def State.fabStore (s : State) : List FabByte → List Byte → State
  | x :: xs, b :: bs => (s.fabWrite x b).fabStore xs bs
  | _, _ => s

/-! ### One access of a core -/

/-- Whether a party of context `c` may read an offset of the dispatcher window (R275). -/
def State.windowOpen (s : State) (user : Bool) (c off : Nat) : Bool :=
  !user || (decide (off < 0x800000) && (s.queue (off / 32)).ctx.toNat == c)

/-- Whether the executing core may. -/
def State.mayReadDisp (s : State) (off : Nat) : Bool := s.windowOpen s.me.user s.me.ctx off

/-- How an access ends: the state after it with what was read, or a cause of R141. -/
inductive Access where
  | ok (s : State) (bs : List Byte)
  | wait (s : State)
  | fault (cause : Nat)
  deriving Repr

/-- An access of `z` bytes that reaches no memory now: a span link is down, and it waits; its package became unreachable while it
waited, and it reads 0xFF or writes nothing; else it takes the data access fault (R267, R376). -/
def State.noCells (s : State) (pa z : Nat) : Access :=
  match s.heldBy pa with
  | some p => .wait (s.holdOn p)
  | none => if s.me.spanLost then .ok s.unspan (List.replicate z 0xFF) else .fault causeAccess

/-- An access whose translation failed: its walk waits for a span link (R376), or it takes the data access fault. -/
def State.noMap (s : State) (va : Nat) : Access :=
  match s.walkHeld s.cur s.me.ctx va with
  | some p => .wait (s.holdOn p)
  | none => .fault causeAccess

/-- `z` bytes read at a virtual address aligned to `z`. A write through another window of stack memory that no `fence.win` has ordered need
not be seen (R270). -/
def State.loadBytes (s : State) (ea : W64) (z : Nat) : Access :=
  if ea.toNat % z ≠ 0 then .fault causeMisaligned
  else match s.coreVa s.cur .load ea.toNat with
  | none => s.noMap ea.toNat
  | some pa =>
    if isDisp pa then
      let off := pa - dispBase
      if !dispAligned off z then .fault causeMisaligned
      else if s.mayReadDisp off && dispThere off z then .ok (s.coreWalk ea.toNat z) (leBytes z (s.dispLoad off z))
      else .fault causeAccess
    else if isFabric pa then
      match s.fabBytes (!s.me.user) s.cur pa z with
      | some xs => .ok (s.coreWalk ea.toNat z) (xs.map s.fabRead)
      | none => .fault causeAccess
    else match s.liveCells pa z with
    | none => s.noCells pa z
    | some as =>
      .ok (((s.coreWalk ea.toNat z).checkRead s.cur (cellRun pa z)).countMem as false) (s.sees (Via.core.path (s.windowOf pa)) as)

/-- Bytes stored at a virtual address aligned to their number; a store narrower than a word meets the word's residue (R352). -/
def State.storeBytes (s : State) (ea : W64) (bs : List Byte) : Access :=
  let z := bs.length
  if ea.toNat % z ≠ 0 then .fault causeMisaligned
  else match s.coreVa s.cur .store ea.toNat with
  | none => s.noMap ea.toNat
  | some pa =>
    if isDisp pa then
      let off := pa - dispBase
      if !dispAligned off z then .fault causeMisaligned
      else if s.mayDispatch (.core s.cur) && dispThere off z then .ok ((s.coreWalk ea.toNat z).dispStore off z (leNat bs)) []
      else .fault causeAccess
    else if isFabric pa then
      match s.fabBytes (!s.me.user) s.cur pa z with
      | some xs => .ok ((s.coreWalk ea.toNat z).fabStore xs bs) []
      | none => .fault causeAccess
    else match s.liveCells pa z with
    | none => s.noCells pa z
    | some as =>
      let t := s.coreWalk ea.toNat z
      let u := if z < 4 then t.checkRead s.cur (cellRun pa z) else t
      .ok ((u.put .core s.cur (s.windowOf pa) as bs).countMem as true) []

/-! ### The forms (R282, R284) -/

/-- The address of a form: its register, and its offset where it has one. -/
def State.ea (s : State) (ra : SReg) (off : Option (BitVec 32)) : W64 :=
  match off with
  | none => s.readS ra
  | some o => s.readS ra + o.signExtend 64

/-- Bytes of a form's words. -/
def formLen (off : Option (BitVec 32)) : Nat := if off.isSome then 8 else 4

/-- What a loaded number becomes in a register. -/
def extendTo (z : Nat) (sgn : Bool) (n : Nat) : W64 := if sgn then BitVec.ofInt 64 (signedOf (8 * z) n) else BitVec.ofNat 64 n

/-- A load of `z` bytes (R282): a pending token of its mask holds it, a fault leaves all as it was. -/
def State.loadForm (s : State) (z : Nat) (sgn : Bool) (rd : DReg) (ra : SReg) (m : MArgs) (off : Option (BitVec 32)) : Out :=
  let a := s.ea ra off
  if s.me.waits m.wait then .next s
  else match s.loadBytes a z with
  | .fault c => .next (s.accessTrap c a.toNat)
  | .wait t => .next t
  | .ok t bs => .next (t.finish rd (extendTo z sgn (leNat bs)) (formLen off))

/-- A store of `z` bytes (R282). -/
def State.storeForm (s : State) (z : Nat) (rs ra : SReg) (m : MArgs) (off : Option (BitVec 32)) : Out :=
  let a := s.ea ra off
  if s.me.waits m.wait then .next s
  else match s.storeBytes a (leBytes z (s.readS rs).toNat) with
  | .fault c => .next (s.accessTrap c a.toNat)
  | .wait t => .next t
  | .ok t _ => .next (t.skip (formLen off))

/-- ldp (R284): the low 8 bytes to the even register, the high ones to the next. -/
def State.loadPair (s : State) (rp : PReg) (ra : SReg) (m : MArgs) (off : Option (BitVec 32)) : Out :=
  let a := s.ea ra off
  if s.me.waits m.wait then .next s
  else match s.loadBytes a 16 with
  | .fault c => .next (s.accessTrap c a.toNat)
  | .wait t => .next t
  | .ok t bs =>
    let c := (t.me.writeD rp.lo (BitVec.ofNat 64 (leNat (bs.take 8)))).writeD rp.hi (BitVec.ofNat 64 (leNat (bs.drop 8)))
    .next (t.setMe (c.advance (formLen off)))

/-- stp (R284). -/
def State.storePair (s : State) (rp : PReg) (ra : SReg) (m : MArgs) (off : Option (BitVec 32)) : Out :=
  let a := s.ea ra off
  if s.me.waits m.wait then .next s
  else match s.storeBytes a (leBytes 8 (s.me.readD rp.lo).toNat ++ leBytes 8 (s.me.readD rp.hi).toNat) with
  | .fault c => .next (s.accessTrap c a.toNat)
  | .wait t => .next t
  | .ok t _ => .next (t.skip (formLen off))

/-- R282 LD_I8. -/
def execLdI8 (rd : DReg) (ra : SReg) (m : MArgs) (s : State) : Out := s.loadForm 1 true rd ra m none

/-- R282 LD_I8_EXT. -/
def execLdI8Ext (rd : DReg) (ra : SReg) (m : MArgs) (off : BitVec 32) (s : State) : Out :=
  s.loadForm 1 true rd ra m (some off)

/-- R282 LD_I16. -/
def execLdI16 (rd : DReg) (ra : SReg) (m : MArgs) (s : State) : Out := s.loadForm 2 true rd ra m none

/-- R282 LD_I16_EXT. -/
def execLdI16Ext (rd : DReg) (ra : SReg) (m : MArgs) (off : BitVec 32) (s : State) : Out :=
  s.loadForm 2 true rd ra m (some off)

/-- R282 LD_I32. -/
def execLdI32 (rd : DReg) (ra : SReg) (m : MArgs) (s : State) : Out := s.loadForm 4 true rd ra m none

/-- R282 LD_I32_EXT. -/
def execLdI32Ext (rd : DReg) (ra : SReg) (m : MArgs) (off : BitVec 32) (s : State) : Out :=
  s.loadForm 4 true rd ra m (some off)

/-- R282 LD_I64. -/
def execLdI64 (rd : DReg) (ra : SReg) (m : MArgs) (s : State) : Out := s.loadForm 8 true rd ra m none

/-- R282 LD_I64_EXT. -/
def execLdI64Ext (rd : DReg) (ra : SReg) (m : MArgs) (off : BitVec 32) (s : State) : Out :=
  s.loadForm 8 true rd ra m (some off)

/-- R282 LD_N8. -/
def execLdN8 (rd : DReg) (ra : SReg) (m : MArgs) (s : State) : Out := s.loadForm 1 false rd ra m none

/-- R282 LD_N8_EXT. -/
def execLdN8Ext (rd : DReg) (ra : SReg) (m : MArgs) (off : BitVec 32) (s : State) : Out :=
  s.loadForm 1 false rd ra m (some off)

/-- R282 LD_N16. -/
def execLdN16 (rd : DReg) (ra : SReg) (m : MArgs) (s : State) : Out := s.loadForm 2 false rd ra m none

/-- R282 LD_N16_EXT. -/
def execLdN16Ext (rd : DReg) (ra : SReg) (m : MArgs) (off : BitVec 32) (s : State) : Out :=
  s.loadForm 2 false rd ra m (some off)

/-- R282 LD_N32. -/
def execLdN32 (rd : DReg) (ra : SReg) (m : MArgs) (s : State) : Out := s.loadForm 4 false rd ra m none

/-- R282 LD_N32_EXT. -/
def execLdN32Ext (rd : DReg) (ra : SReg) (m : MArgs) (off : BitVec 32) (s : State) : Out :=
  s.loadForm 4 false rd ra m (some off)

/-- R282 LD_N64. -/
def execLdN64 (rd : DReg) (ra : SReg) (m : MArgs) (s : State) : Out := s.loadForm 8 false rd ra m none

/-- R282 LD_N64_EXT. -/
def execLdN64Ext (rd : DReg) (ra : SReg) (m : MArgs) (off : BitVec 32) (s : State) : Out :=
  s.loadForm 8 false rd ra m (some off)

/-- R282 ST_8. -/
def execSt8 (rs ra : SReg) (m : MArgs) (s : State) : Out := s.storeForm 1 rs ra m none

/-- R282 ST_8_EXT. -/
def execSt8Ext (rs ra : SReg) (m : MArgs) (off : BitVec 32) (s : State) : Out := s.storeForm 1 rs ra m (some off)

/-- R282 ST_16. -/
def execSt16 (rs ra : SReg) (m : MArgs) (s : State) : Out := s.storeForm 2 rs ra m none

/-- R282 ST_16_EXT. -/
def execSt16Ext (rs ra : SReg) (m : MArgs) (off : BitVec 32) (s : State) : Out := s.storeForm 2 rs ra m (some off)

/-- R282 ST_32. -/
def execSt32 (rs ra : SReg) (m : MArgs) (s : State) : Out := s.storeForm 4 rs ra m none

/-- R282 ST_32_EXT. -/
def execSt32Ext (rs ra : SReg) (m : MArgs) (off : BitVec 32) (s : State) : Out := s.storeForm 4 rs ra m (some off)

/-- R282 ST_64. -/
def execSt64 (rs ra : SReg) (m : MArgs) (s : State) : Out := s.storeForm 8 rs ra m none

/-- R282 ST_64_EXT. -/
def execSt64Ext (rs ra : SReg) (m : MArgs) (off : BitVec 32) (s : State) : Out := s.storeForm 8 rs ra m (some off)

/-- R284 LDP. -/
def execLdp (rp : PReg) (ra : SReg) (m : MArgs) (s : State) : Out := s.loadPair rp ra m none

/-- R284 LDP_EXT. -/
def execLdpExt (rp : PReg) (ra : SReg) (m : MArgs) (off : BitVec 32) (s : State) : Out := s.loadPair rp ra m (some off)

/-- R284 STP. -/
def execStp (rp : PReg) (ra : SReg) (m : MArgs) (s : State) : Out := s.storePair rp ra m none

/-- R284 STP_EXT. -/
def execStpExt (rp : PReg) (ra : SReg) (m : MArgs) (off : BitVec 32) (s : State) : Out := s.storePair rp ra m (some off)

end Sys2Proof.Machine
end

