-- ==== Sys2Proof/Machine/CoreConf.lean ====
section
/-! DEFINITION. The C-words that configure resident regions and the screen, and those of stage queues and launches (R168, R171, R233,
R252, R254, R256). -/

namespace Sys2Proof.Machine

/-! ### What these words read -/

/-- The cells of `n` bytes at a virtual address of the executing core, granule by granule, or the first address that fails. -/
def State.coreRange (s : State) (a : Acc) : Nat → Nat → Nat → Except Nat (List Nat)
  | 0, va, n => if n = 0 then .ok [] else .error va
  | fuel + 1, va, n =>
    if n = 0 then .ok []
    else
      let k := min n (16 - va % 16)
      match s.coreCells a va k with
      | none => .error va
      | some as => match s.coreRange a fuel (va + k) (n - k) with
        | .ok bs => .ok (as ++ bs)
        | .error v => .error v

/-- The window of stack memory that an address of the executing core reaches. -/
def State.coreWindow (s : State) (a : Acc) (va : Nat) : Nat := s.windowOf ((s.coreVa s.cur a va).getD 0)

/-- What the executing core sees in the cells `as` of bytes from a virtual address (R270). -/
def State.coreSees (s : State) (va : Nat) (as : List Nat) : List Byte :=
  if s.lags.isEmpty then as.map s.readCell
  else (as.zip (List.range as.length)).map fun p => s.see (Via.core.path (s.coreWindow .load (va + p.2))) p.1

/-- `n` bytes that a word loads: the bytes and the state after their check, or the address of a data access fault. -/
def State.coreLoad (s : State) (va n : Nat) : Except Nat (State × List Byte) :=
  match s.coreRange .load (n / 16 + 2) va n with
  | .ok as => .ok (((s.coreWalk va n).checkRead s.cur (s.corePas .load va n)).countMem as false, s.coreSees va as)
  | .error v => .error v

/-- `n` bytes of which those that a package took with it read as 0xFF (R376). -/
def State.lostBytes (s : State) (va n : Nat) : List Byte :=
  (List.range n).map fun k => match s.coreCells .load (va + k) 1 with
    | some (a :: _) => s.readCell a
    | _ => 0xFF

/-- Whether a core's access at an address is one whose package became unreachable while it waited. -/
def State.lostAt (s : State) (a : Acc) (va : Nat) : Bool := s.me.spanLost && (s.coreHeld a va).isNone

/-- A configuration fault at an address. -/
def State.confFault (s : State) (va : Nat) : Out := .next (s.trap causeConfig (BitVec.ofNat 64 va))

/-- The offset in the dispatcher window that an access of the executing core reaches (R275). -/
def State.windowAt (s : State) (a : Acc) (va n : Nat) : Option Nat :=
  match s.coreVa s.cur a va with
  | some pa => if n ≠ 0 ∧ isDisp pa then some (pa - dispBase) else none
  | none => none

/-- The data of a load of plain memory, or its fault. -/
def State.withPlain (s : State) (va n : Nat) (f : State → List Byte → Out) : Out :=
  match s.coreLoad va n with
  | .ok (t, bs) => f t bs
  | .error v => if s.lostAt .load v then f s.unspan (s.lostBytes va n) else s.reachFault .load v

/-- The data of a load, or its fault. A load of the dispatcher window is 4 or 8 bytes wide and aligned (R275). -/
def State.withLoad (s : State) (va n : Nat) (f : State → List Byte → Out) : Out :=
  match s.windowAt .load va n with
  | some off =>
    if !dispAligned off n then .next (s.trap causeMisaligned (BitVec.ofNat 64 va))
    else if s.mayReadDisp off && dispThere off n then f (s.coreWalk va n) (leBytes n (s.dispLoad off n))
    else .next (s.accessTrap causeAccess va)
  | none => s.withPlain va n f

/-- The resident region that bytes 0-7 of a target descriptor name (R233). -/
def State.targetRegion (s : State) (bs : List Byte) : Option Nat :=
  let g := 128 * leAt bs 0 1 + leAt bs 1 1 % 16 + leAt bs 1 1 / 16 * 16
  let r := s.region g
  if decide (leAt bs 0 1 < 8) && decide (leAt bs 1 1 < 128) && zeroAt bs 2 6 && r.holds
      && (s.load r.load).st == .resident && (s.load r.load).regions.contains g
  then some g else none

/-- Whether a user-mode core may configure a region: its load is of the core's context. -/
def State.mayConfigure (s : State) (g : Nat) : Bool := !s.me.user || s.loadCtx (s.region g).load == s.me.ctx

/-! ### ctxload (R233) -/

/-- Whether a RECONF row has issued and its switch has not been made. -/
def RMode.reconf : RMode → Bool
  | .drain (.reconf _) => true
  | .switching _ => true
  | .stopped (.reconf _) => true
  | .gated _ m => m.reconf
  | _ => false

/-- Whether a region lies between the issue of a RECONF row and the next start pulse. -/
def Region.switches (r : Region) : Bool := r.mode.reconf || r.switched

/-- A word that waits for something of region `g`, and does `f` once `go` holds; where the load it began to wait for has left the
region, it takes the configuration fault (R233, R252, R254); `pulse` says that the start pulse waits for it. -/
def State.awaitRegion (s : State) (g rb : Nat) (pulse go : Bool) (f : State → State) : Out :=
  let c := s.me
  let w := ((s.load (s.region g).load).serial, pulse)
  if c.await.isSome && c.await != some w then (s.setMe { c with await := none }).confFault rb
  else if go then .next ((f (s.setMe { c with await := none })).skip 4)
  else .next (s.setMe { c with await := some w })

/-- A configuration fault at the target descriptor, which also ends a wait. -/
def State.targetFault (s : State) (rb : Nat) : Out := (s.setMe { s.me with await := none }).confFault rb

/-- R233 CTXLOAD. -/
def execCtxload (ra rb : SReg) (s : State) : Out :=
  let a := s.readS ra
  let b := s.readS rb
  if a.toNat % 8 ≠ 0 then .next (s.trap causeMisaligned a)
  else if b.toNat % 16 ≠ 0 then .next (s.trap causeMisaligned b)
  else s.withLoad b.toNat 16 fun s td =>
    match s.targetRegion td, ctxTargetOf td 8 with
    | some g, some t =>
      let r := s.region g
      if inForm t.x0 t.y0 t.w t.h r.w r.h && s.mayConfigure g then
        s.withLoad a.toNat (8 * t.slots) fun s img =>
          let sl := (List.range t.slots).map fun i => leAt img (8 * i) 8
          match sl.findIdx? fun w => !slotOk w with
          | some i => s.confFault (a.toNat + 8 * i)
          | none =>
            s.awaitRegion g b.toNat false (!r.switches) fun s => s.each (slotWrites t.first t.count t.rect t.per sl) fun u w => u.stageSlot g w
      else s.targetFault b.toNat
    | _, _ => s.targetFault b.toNat

/-! ### rtload and palload (R252, R254) -/

/-- Whether a region stands between a tile-task boundary and its next start pulse: the boundary is not that of a load that ends there,
nor a settled FORM row. -/
def State.between (s : State) (g : Nat) : Bool :=
  let r := s.region g
  (r.mode == .boundary && !r.formReq && !s.overAt r.load) || r.mode == .ready

/-- A word that waits for a boundary of region `g`, and writes there; the next start pulse waits for it. The load torn down, it takes the
configuration fault (R252, R254). -/
def State.atBoundary (s : State) (g rb : Nat) (f : State → State) : Out :=
  if (s.load (s.region g).load).stop = statusAborted then s.targetFault rb else s.awaitRegion g rb true (s.between g) f

/-- R252 RTLOAD. -/
def execRtload (ra rb : SReg) (s : State) : Out :=
  let a := s.readS ra
  let b := s.readS rb
  if a.toNat % 2 ≠ 0 then .next (s.trap causeMisaligned a)
  else if b.toNat % 32 ≠ 0 then .next (s.trap causeMisaligned b)
  else s.withLoad b.toNat 32 fun s td =>
    match s.targetRegion td, ruleTargetOf td with
    | some g, some t =>
      let r := s.region g
      if inForm t.x0 t.y0 t.w t.h r.w r.h && s.mayConfigure g then
        s.withLoad a.toNat (2 * t.size) fun s img =>
          s.atBoundary g b.toNat fun s => s.each (t.writes img) fun u w => u.applyRule g w
      else s.targetFault b.toNat
    | _, _ => s.targetFault b.toNat

/-- R254 PALLOAD. -/
def execPalload (ra rb : SReg) (s : State) : Out :=
  let a := s.readS ra
  let b := s.readS rb
  if a.toNat % 16 ≠ 0 then .next (s.trap causeMisaligned a)
  else if b.toNat % 16 ≠ 0 then .next (s.trap causeMisaligned b)
  else s.withLoad b.toNat 16 fun s td =>
    match s.targetRegion td with
    | some g =>
      if zeroAt td 8 8 && s.mayConfigure g then
        s.withLoad a.toNat 64 fun u hd => u.withLoad a.toNat (palSize hd) fun v img =>
          let s := if palSize hd = 64 then u else v
          match palOffender hd with
          | some o => s.confFault (a.toNat + o)
          | none => s.atBoundary g b.toNat fun s => s.setRegion g ((s.region g).applyPal (palImageOf img))
      else s.targetFault b.toNat
    | none => s.targetFault b.toNat

/-! ### ownload (R255, R256) -/

/-- The offset of the first field of an ownership descriptor that breaks its table. -/
def ownOffender (d : List Byte) : Option Nat :=
  if 65536 < leAt d 0 2 + leAt d 2 2 + 1 then some 0
  else if 3 < leAt d 8 1 then some 8
  else ((List.range 7).find? fun i => leAt d (9 + i) 1 != 0).map (· + 9)

/-- An entry's die and slot. -/
def ownSlot (e : W32) : Nat := fld e.toNat 0 14

/-- Whether an entry has a reserved bit set or names an unusable die. -/
def State.ownBad (s : State) (e : W32) : Bool := fld e.toNat 14 17 != 0 || (e.getLsbD 31 && !s.dieUsable (fld e.toNat 11 3))

/-- The table that the entries would make. -/
def State.ownAfter (s : State) (first : Nat) (es : List W32) : SMap W32 :=
  (es.zip (List.range es.length)).foldl (fun m p => SMap.set 0 m (first + p.2) p.1) s.own

/-- Whether entry `t` of a table shares its die and slot with another valid one. -/
def ownShared (m : SMap W32) (t : Nat) : Bool :=
  let e := SMap.get 0 m t
  e.getLsbD 31 && m.any fun p => p.1 != t && p.2.getLsbD 31 && ownSlot p.2 == ownSlot e

/-- The first entry that is refused. -/
def State.ownEntryOffender (s : State) (first : Nat) (es : List W32) : Option Nat :=
  let m := s.ownAfter first es
  (List.range es.length).find? fun i => s.ownBad ((es[i]?).getD 0) || ownShared m (first + i)

/-- A sample of a tile of a range is still on its way to its reorder window. -/
def State.samplesUnderWay (s : State) (first n : Nat) : Bool :=
  let hit := fun (m : Sample) => decide (first ≤ m.tile) && decide (m.tile < first + n)
  let out := fun (es : List Egress) => es.any fun e => match e.kind with
    | .frag _ m => hit m
    | _ => false
  s.exch.any (fun p => p.2.any hit) || s.regions.any (fun p => out p.2.released) || s.loads.any fun p => p.2.out.any out

/-- Entries written, with their reorder windows emptied and NEXTSEQ set. -/
def State.putOwners (s : State) (first : Nat) (seq0 : W32) (es : List W32) : State :=
  s.each (es.zip (List.range es.length)) fun t p =>
    { t with own := SMap.set 0 t.own (first + p.2) p.1, nextseq := SMap.set 0 t.nextseq (first + p.2) seq0,
             windows := SMap.set [] t.windows (first + p.2) [] }

/-- R256 OWNLOAD. -/
def execOwnload (ra rb : SReg) (s : State) : Out :=
  let a := s.readS ra
  let b := s.readS rb
  if a.toNat % 4 ≠ 0 then .next (s.trap causeMisaligned a)
  else if b.toNat % 16 ≠ 0 then .next (s.trap causeMisaligned b)
  else s.withLoad b.toNat 16 fun s d =>
    let first := leAt d 0 2
    let n := leAt d 2 2 + 1
    let otv := s.otctx.getLsbD 12
    s.withLoad a.toNat (4 * n) fun s eb =>
      let es := wordsAt eb 0 n
      if s.me.user && ((otv && fld s.otctx.toNat 0 12 != s.me.ctx) || (!otv && !bitOf (leAt d 8 1) 0)) then .next (s.trap causeAccess b)
      else match ownOffender d with
      | some o => s.confFault (b.toNat + o)
      | none => match s.ownEntryOffender first es with
        | some i => s.confFault (a.toNat + 4 * i)
        | none =>
          let u := { s with otctx := if otv then s.otctx else BitVec.ofNat 13 (4096 + s.me.ctx) }
          if u.samplesUnderWay first n then .next u
          else
            let t := u.putOwners first (BitVec.ofNat 32 (leAt d 4 4)) es
            .next ({ t with otctx := if bitOf (leAt d 8 1) 1 then u.otctx &&& 0xFFF else u.otctx }.skip 4)

/-! ### Stage queues (R171) -/

/-- The cells of a range of the executing core settled: operations on a stage queue have one total order (R171). -/
def State.settleAt (s : State) (a : Acc) (va n : Nat) : State :=
  match s.coreRange a (n / 16 + 2) va n with
  | .ok as => s.settle as
  | .error _ => s

/-- The SQD at an address as a core reaches it, or none where R171 refuses it. -/
def State.coreSqd (s : State) (a : Acc) (va : Nat) : Option (State × Sqd) :=
  if addrOk va 6 then
    match s.coreVa s.cur a va with
    | none => none
    | some pa =>
      if queueHome pa then
        match (s.settleAt .load va 64).coreLoad va 64 with
        | .ok (t, bs) => (sqdOf bs).map fun q => (t, q)
        | .error _ => none
      else none
  else none

/-- What the load of such a descriptor that is refused leaves: its counters, and the soft errors it met (R161, R352). -/
def State.sqdNote (s : State) (a : Acc) (va : Nat) : State :=
  if addrOk va 6 && (s.coreVa s.cur a va).any queueHome then
    match s.coreLoad va 64 with
    | .ok (t, _) => t
    | .error _ => s
  else s

/-- Bytes stored one by one, but for those that a package took with it (R376). -/
def State.storeSome (s : State) : Nat → List Byte → State
  | _, [] => s
  | va, b :: bs => (match s.coreCells .store va 1 with
    | some as => s.put .core s.cur (s.coreWindow .store va) as [b]
    | none => s).storeSome (va + 1) bs

/-- Cells of consecutive bytes from `va` written, granule by granule, through the window that `win` gives. -/
def State.storeRun (s : State) (win : Nat → Nat) : Nat → Nat → List Nat → List Byte → State
  | 0, _, _, _ => s
  | fuel + 1, va, as, bs =>
    let k := 16 - va % 16
    (s.put .core s.cur (win va) (as.take k) (bs.take k)).storeRun win fuel (va + k) (as.drop k) (bs.drop k)

/-- Bytes stored at an address that has been found reachable. -/
def State.coreStore (s : State) (va : Nat) (bs : List Byte) : Except Nat State :=
  match s.coreRange .store (bs.length / 16 + 2) va bs.length with
  | .ok as => .ok (((s.coreWalk va bs.length).storeRun (s.coreWindow .store) ((va + bs.length + 15) / 16 - va / 16) va as bs).countMem as true)
  | .error v => if s.lostAt .store v then .ok (s.unspan.storeSome va bs) else .error v

/-- The entry of 8 bytes that `qpop` reads; its package gone while it waited, 0xFF (R376). -/
def State.loadEntry (s : State) (va : Nat) : Except Nat (State × List Byte) :=
  match (s.settleAt .load va 8).coreLoad va 8 with
  | .ok r => .ok r
  | .error v => if s.lostAt .load v then .ok (s.unspan, s.lostBytes va 8) else .error v

/-- The cell of the SQD at an address of the executing core. -/
def State.sqdCell (s : State) (a : Acc) (va : Nat) : Option Nat := (s.coreVa s.cur a va).bind s.canon

/-- R171 QPUSH. -/
def execQpush (ra rb : SReg) (s : State) : Out :=
  let a := s.readS ra
  match s.coreSqd .store a.toNat with
  | none => s.reachFaultOf (s.sqdNote .store a.toNat) .store a.toNat
  | some (t, q) =>
    if q.esize ≠ 8 then .next (t.trap causeAccess a)
    else if q.count = q.cap then .next s
    else match (t.settleAt .store (q.entry q.tail) 8).coreStore (q.entry q.tail) (leBytes 8 (s.readS rb).toNat) with
    | .error v => s.reachFaultOf t .store v
    | .ok u =>
      match u.coreStore (a.toNat + 24) (leBytes 8 (q.tail + 1)) with
      | .error v => s.reachFaultOf t .store v
      | .ok t => .next ((if q.count = 0 then t.noteFed (s.sqdCell .store a.toNat) (some s.gcyc) else t).skip 4)

/-- R171 QPOP. -/
def execQpop (rd : DReg) (ra : SReg) (s : State) : Out :=
  let a := s.readS ra
  match s.coreSqd .store a.toNat with
  | none => s.reachFaultOf (s.sqdNote .store a.toNat) .store a.toNat
  | some (t, q) =>
    if q.esize ≠ 8 then .next (t.trap causeAccess a)
    else if q.count = 0 then .next s
    else match t.loadEntry (q.entry q.head) with
    | .error v => s.reachFaultOf t .load v
    | .ok (t, bs) =>
      match t.coreStore (a.toNat + 16) (leBytes 8 (q.head + 1)) with
      | .error v => s.reachFaultOf t .store v
      | .ok t => .next ((if q.count = 1 then t.noteFed (s.sqdCell .store a.toNat) none else t).finish rd (BitVec.ofNat 64 (leNat bs)) 4)

/-- R171 QCOUNT. -/
def execQcount (rd : DReg) (ra : SReg) (s : State) : Out :=
  let a := s.readS ra
  match s.coreSqd .load a.toNat with
  | none => s.reachFaultOf (s.sqdNote .load a.toNat) .load a.toNat
  | some (t, q) => .next (t.finish rd (BitVec.ofNat 64 q.count) 4)

/-! ### launch (R168) -/

/-- A record appended to queue `n`: its slot is written in the queue's context; the word waits for a span link, or takes the data access
fault at the slot, also where its package has become unreachable meanwhile (R168, R376, R405; log 109). -/
def State.launchRecord (s : State) (n : Nat) (bs : List Byte) : Out :=
  let q := s.queue n
  let c := q.ctx.toNat
  let va := q.slot q.tailix.toNat
  match s.ctxWrite c va bs with
  | some u => .next (((u.countWalk dispParty c va).setTail n (q.tailix + 1)).skip 4)
  | none =>
    match s.ctxHeld c .store [(va, 64)] with
    | some p => .next (s.holdOn p)
    | none => .next ((s.walkReport s.cur dispParty c va).trap causeAccess (BitVec.ofNat 64 va))

/-- R168 LAUNCH. -/
def execLaunch (ra rb : SReg) (s : State) : Out :=
  let n := (s.readS ra).toNat
  let b := s.readS rb
  let q := s.queue n
  if 262143 < n ∨ !q.en ∨ !q.dev ∨ !q.usable then .next (s.trap causeAccess b)
  else if s.me.user && q.ctx.toNat != s.me.ctx then .next (s.trap causeAccess b)
  else if b.toNat % 64 ≠ 0 then .next (s.trap causeMisaligned b)
  else if q.count = q.entries then .next s
  else if (s.windowAt .load b.toNat 64).isSome then .next (s.trap causeMisaligned b)
  else match s.coreLoad b.toNat 64 with
  | .error v =>
    if s.lostAt .load v then s.unspan.launchRecord n (s.lostBytes b.toNat 64)
    else match s.coreHeld .load v with
      | some p => .next (s.holdOn p)
      | none => .next ((s.coreReport v).trap causeAccess b)
  | .ok (t, bs) => t.launchRecord n bs

end Sys2Proof.Machine
end

