-- ==== Sys2Proof/Machine/CorePhase.lean ====
section
/-! DEFINITION. The phase forms (R154, R155), the snapshot forms (R159, R161) and the fences (R291-R293). Fences order
a core's own stores before its fetches, its copies and its accesses through the other window (R93, R289, R293); what they order
towards other parties one interleaving does not show (log 2). -/

namespace Sys2Proof.Machine

/-- The selector of a phase form: bits that must be 0 are 0 (R154). `phset` with OP 0 uses the scope field, with OP 1 the
BIND and token fields; the others use the phase number alone. -/
def phsetSelOk (v : Nat) : Bool :=
  if bitOf v 15 then decide (v < 2 ^ 20) && fld v 12 3 == 0
  else decide (v < 2 ^ 15) && decide (2 ≤ fld v 12 3) && decide (fld v 12 3 ≤ 5)

/-- The selector of `phadd` and `phrd`: the phase number alone. -/
def phaseSelOk (v : Nat) : Bool := decide (v < 2 ^ 12)

/-- A user-mode form on another owner's phase (R154). -/
def State.phaseDenied (s : State) (n : Nat) : Bool :=
  s.me.user && decide ((s.phase n).own.toNat ≠ s.me.ctx)

/-- What `phrd` returns (R155). -/
def Phase.word (p : Phase) : W64 :=
  BitVec.ofNat 64 (p.cnt.toNat + p.ovf.toNat * 2 ^ 32 + p.scope.toNat * 2 ^ 33 + p.own.toNat * 2 ^ 36)

/-- `phset` with OP 0 (R155). -/
def State.phaseSet (s : State) (v : Nat) (val : W64) : State :=
  s.setPhase (v % 4096) ⟨val.setWidth 32, false, BitVec.ofNat 3 (fld v 12 3), BitVec.ofNat 12 s.me.ctx, 0, s.gcyc⟩

/-- `phset` with OP 1 (R155): bind or unbind a token. -/
def Core.bindTok (c : Core) (v : Nat) : Core :=
  { c with tokbind := SMap.set 0 c.tokbind (fld v 16 3) (if bitOf v 19 then BitVec.ofNat 13 (4096 + v % 4096) else 0) }

/-- R155 PHSET. In user mode every form on another owner's phase faults, an unbind too, which R154 does not name apart (log 97).
A set that comes after another operation of its cycle waits for the next (R157, log 119). -/
def execPhset (ra rb : SReg) (s : State) : Out :=
  let v := (s.readS ra).toNat
  if !phsetSelOk v then .next s.illegal
  else if s.phaseDenied (v % 4096) then .next (s.trap causeAccess (BitVec.ofNat 64 (v % 4096)))
  else if bitOf v 15 then .next (s.setMe ((s.me.bindTok v).advance 4))
  else if (s.phase (v % 4096)).late 0 s.gcyc then .next s
  else .next ((s.phaseSet v (s.readS rb)).skip 4)

/-- R155 PHADD: the count clamps to 32 bits, and PHOVF records that it did. One that comes after a completion of its cycle waits for the
next (R157, log 119). -/
def execPhadd (ra rb : SReg) (s : State) : Out :=
  let v := (s.readS ra).toNat
  if !phaseSelOk v then .next s.illegal
  else if s.phaseDenied v then .next (s.trap causeAccess (BitVec.ofNat 64 v))
  else if (s.phase v).late 1 s.gcyc then .next s
  else
    let p := { s.phase v with last := (1, s.gcyc) }
    let x : Int := p.cnt.toNat + (s.readS rb).toInt
    let p' := if x < 0 then { p with cnt := 0, ovf := true }
      else if 4294967295 < x then { p with cnt := 0xFFFFFFFF, ovf := true }
      else { p with cnt := BitVec.ofInt 32 x }
    .next ((s.setPhase v p').skip 4)

/-- R155 PHRD. -/
def execPhrd (rd : DReg) (ra : SReg) (s : State) : Out :=
  let v := (s.readS ra).toNat
  if !phaseSelOk v then .next s.illegal
  else if s.phaseDenied v then .next (s.trap causeAccess (BitVec.ofNat 64 v))
  else .next (s.finish rd (s.phase v).word 4)

/-- R159 SNAP: a request waits while one is pending. -/
def execSnap (ra : SReg) (s : State) : Out :=
  if s.snappend then .next s
  else
    let g := (s.readS ra).toNat
    .next ({ s with snappend := true, snapat := BitVec.ofNat 64 (max g (s.gcyc.toNat + 256)) }.count 0x304 1 |>.skip 4)

/-- The views that `fence` and `fence.rel` let catch up: the core's own fetches from scope `.die` (R93), near-memory units on the copies and
streams from scope `.pkg` (R354). -/
def fenceViews (n : Nat) (sc : Scope) (v : Nat) : Bool :=
  (sc != .rg && decide (viewFetch n 0 ≤ v) && decide (v < viewFetch (n + 1) 0)) || (v == viewUnit && (sc == .pkg || sc == .dom || sc == .sys))

/-- R291 FENCE. -/
def execFence (sc : Scope) (s : State) : Out := .next ((s.sync (fenceViews s.cur sc)).skip 4)

/-- R291 FENCE_ACQ. -/
def execFenceAcq (_sc : Scope) (s : State) : Out := .next (s.skip 4)

/-- R291 FENCE_REL. -/
def execFenceRel (sc : Scope) (s : State) : Out := .next ((s.sync (fenceViews s.cur sc)).skip 4)

/-- R292 FENCE_PATH: earlier stores to a scratchpad come before later copies, at any scope (log 95). -/
def execFencePath (_sc : Scope) (s : State) : Out := .next ((s.sync (· == viewCopy)).skip 4)

/-- The views of stack memory: its windows, and the near-memory units. -/
def stackViews (v : Nat) : Bool := v == 1 || v == 2 || v == 3 || v == viewUnit

/-- R293 FENCE_WIN: writes through one window come before later accesses through the other, at any scope (log 95). -/
def execFenceWin (_sc : Scope) (s : State) : Out := .next ((s.sync stackViews).skip 4)

/-! ### The snapshot latch (R160) -/

/-- A performance counter as a snapshot register shows it: byte counts in units of 64, 48 bits. -/
def perfShown (k : Nat) (v : W64) : W64 :=
  let n := if 0x200 ≤ k ∧ k < 0x280 ∧ (k % 16 = 1 ∨ k % 16 = 2) then v.toNat / 64 else v.toNat
  BitVec.ofNat 64 (n % 2 ^ 48)

/-- The position word of a region (R161): ROWIX, RELAPSED, held, resident origin. -/
def Region.snapWord (r : Region) : W64 :=
  let held : Bool := r.held
  BitVec.ofNat 64 (r.rowix % 4096 + r.relapsed % 2 ^ 24 * 4096 + held.toNat * 2 ^ 36 + r.holds.toNat * 2 ^ 37)

/-- The snapshot registers as they latch. -/
def State.snapshot (s : State) : SMap W64 :=
  let base := SMap.set 0 (SMap.set 0 [] 0 ((s.snapseq + 1).setWidth 64)) 1 s.snapat
  let m1 := (s.perf.filter fun p => decide (0x100 ≤ p.1) && decide (p.1 < 0x400)).foldr (fun p m => SMap.set 0 m p.1 (perfShown p.1 p.2)) base
  let m2 := (List.range 16).foldl (fun m k => SMap.set 0 m (0x400 + k) ((SMap.get 0 s.serrcnt k).setWidth 64)) m1
  let m3 := (List.range 16).foldl (fun m k => SMap.set 0 m (0x410 + k) (SMap.get 0 s.serradr k)) m2
  let m4 := s.regions.foldl (fun m p => if p.2.holds then SMap.set 0 m (0x1000 + p.1) p.2.snapWord else m) m3
  s.phases.foldl (fun m p => SMap.set 0 m (0x2000 + p.1) p.2.word) m4

/-- A snapshot register. Once a latch has come, a phase that no entry lists reads as its reset: scope `.pkg` (R161, R155). -/
def State.snapRead (s : State) (k : Nat) : W64 :=
  if 0x2000 ≤ k ∧ k < 0x3000 ∧ !s.snapreg.isEmpty then
    match s.snapreg.find? fun p => p.1 == k with
    | some p => p.2
    | none => Phase.reset.word
  else SMap.get 0 s.snapreg k

/-- R161 SNAPRD: a register that is not assigned, or of an absent unit, reads 0. -/
def execSnaprd (rd : DReg) (ra : SReg) (s : State) : Out :=
  .next (s.finish rd (s.snapRead ((s.readS ra).toNat % 65536)) 4)

/-- Whether the latch comes at the end of this cycle (R160). -/
def State.latchDue (s : State) : Bool := s.snappend && decide (s.snapat.toNat ≤ s.gcyc.toNat)

/-- Every counter copied in one cycle. -/
def State.latch (s : State) : State := { s with snapreg := s.snapshot, snapseq := s.snapseq + 1, snappend := false }

end Sys2Proof.Machine
end

