-- ==== Sys2Proof/Machine/Blocks.lean ====
section
/-! DEFINITION. KV block tables (R216-R225): the structures in memory, the five block-table words, demotion and promotion, and what a
stream's access finds. -/

namespace Sys2Proof.Machine

/-! ### The structures in memory (R216, R217) -/

/-- A block table descriptor. -/
structure Btd where
  addr : Nat
  map : Nat
  pool : Nat
  hot : Nat
  cold : Nat
  empty : Bool
  head : Nat
  free : Nat
  zlog : Nat
  ls : Nat
  lb : Nat
  npool : Nat
  deriving DecidableEq, Repr

/-- The bytes of a block. -/
def Btd.size (b : Btd) : Nat := 2 ^ b.zlog
def Btd.hotSlot (b : Btd) (i : Nat) : Nat := b.hot + i * b.size
def Btd.coldSlot (b : Btd) (i : Nat) : Nat := b.cold + i * b.size
def Btd.mapAt (b : Btd) (s l : Nat) : Nat := b.map + 4 * (s * 2 ^ b.lb + l)
def Btd.poolAt (b : Btd) (i : Nat) : Nat := b.pool + 8 * i
/-- Free blocks a form may take. -/
def Btd.avail (b : Btd) : Nat := if b.empty then 0 else b.free

/-- A physical base of a descriptor: bits [63:52] and [5:0] 0. -/
def baseOk (v : Nat) : Bool := decide (v < 2 ^ 52) && v % 64 == 0

/-- The block table of context `c`; none where BV = 0 or the descriptor is malformed. -/
def State.btdOf (s : State) (c : Nat) : Option Btd :=
  let r := (s.ctx c).btd.toNat
  let a := fld r 6 46 * 64
  if !bitOf r 0 then none
  else match s.physRead a 64 with
  | none => none
  | some bs =>
    let fh := leAt bs 32 4
    let b : Btd := ⟨a, leAt bs 0 8, leAt bs 8 8, leAt bs 16 8, leAt bs 24 8, bitOf fh 31, fld fh 0 20, leAt bs 36 4, 14 + leAt bs 40 1,
      leAt bs 41 1, leAt bs 42 1, leAt bs 44 4⟩
    if baseOk b.map && baseOk b.pool && baseOk b.hot && baseOk b.cold && fld fh 20 11 == 0 && decide (b.zlog ≤ 17)
        && decide (b.ls ≤ 20) && decide (b.lb ≤ 16) && zeroAt bs 43 1 && decide (1 ≤ b.npool) && decide (b.npool ≤ 2 ^ 20) && zeroAt bs 48 16
        && decide (b.hot + b.npool * b.size ≤ lpBase) && decide (lpBase ≤ b.cold) && decide (b.cold + b.npool * b.size ≤ portBase)
    then some b else none

/-- A map entry's 32 bits; an unassigned address holds an entry that is not valid (R267). -/
def State.mapWord (s : State) (b : Btd) (q l : Nat) : Nat := (s.physNat (b.mapAt q l) 4).getD 0

/-- The pool index that a valid map entry of a sequence's logical block holds (R217); one outside the pool names no block (R218,
log 104). -/
def State.mapped (s : State) (b : Btd) (q l : Nat) : Option Nat :=
  let v := s.mapWord b q l
  if bitOf v 31 then some (fld v 0 20) else none

/-- A pool block entry. -/
structure Pbe where
  st : Nat          -- 0 FREE, 1 LIVE, 2 MIGRATING, 3 COLD
  cold : Bool       -- T
  cmp : Nat
  bf16 : Bool       -- LF
  ref : Nat
  next : Nat
  clen : Nat
  deriving DecidableEq, Repr

def pbeOf (v : Nat) : Pbe := ⟨fld v 62 2, bitOf v 61, fld v 59 2, bitOf v 58, fld v 40 16, fld v 20 20, fld v 0 20⟩

def Pbe.word (p : Pbe) : Nat :=
  p.clen % 2 ^ 20 + p.next % 2 ^ 20 * 2 ^ 20 + p.ref % 2 ^ 16 * 2 ^ 40 + p.bf16.toNat * 2 ^ 58 + p.cmp % 4 * 2 ^ 59 + p.cold.toNat * 2 ^ 61
    + p.st % 4 * 2 ^ 62

/-- LIVE in its hot slot with one reference, its cold slot not written. -/
def Pbe.fresh : Pbe := ⟨1, false, 3, false, 1, 0, 0⟩

/-- The entry of a pool block; an index outside the pool has none, and is taken as FREE. -/
def State.pbe (s : State) (b : Btd) (i : Nat) : Pbe := if i < b.npool then pbeOf ((s.physNat (b.poolAt i) 8).getD 0) else pbeOf 0

/-- Bytes written through to a structure of the table; an unassigned address holds nothing (R267). -/
def State.through (s : State) (pa : Nat) (bs : List Byte) : State := (s.physWrite pa bs).getD s

/-- A pool block entry written; nothing is written outside the pool (R218). -/
def State.setPbe (s : State) (b : Btd) (i : Nat) (p : Pbe) : State :=
  if i < b.npool then s.through (b.poolAt i) (leBytes 8 p.word) else s

/-- A map entry: valid with an index, or with V := 0 and its other bits as they were (R221). -/
def State.setMap (s : State) (b : Btd) (q l : Nat) (i : Option Nat) : State :=
  s.through (b.mapAt q l) (leBytes 4 (match i with
    | some k => 2 ^ 31 + k % 2 ^ 20
    | none => fld (s.mapWord b q l) 0 31))

/-- The free list of a table in memory. -/
def State.setFree (s : State) (b : Btd) : State :=
  s.through (b.addr + 32) (leBytes 4 (b.head % 2 ^ 20 + b.empty.toNat * 2 ^ 31) ++ leBytes 4 b.free)

/-- The next `n` blocks of the free list; none where it leaves the pool (log 104). -/
def State.freeRun (s : State) (b : Btd) : Nat → Nat → Option (List Nat)
  | 0, _ => some []
  | n + 1, i => if i < b.npool then (s.freeRun b n (s.pbe b i).next).map (i :: ·) else none

/-- The blocks that a form finds free, where `n` of them are. -/
def State.freeBlocks (s : State) (b : Btd) (n : Nat) : Option (List Nat) := if b.avail < n then none else s.freeRun b n b.head

/-- A pop (R221): the block taken, the table after it. -/
def State.popFree (s : State) (b : Btd) : Nat × Btd × State :=
  let c := { b with head := (s.pbe b b.head).next, free := b.free - 1, empty := b.free == 1 }
  (b.head, c, s.setFree c)

/-- A push (R221). -/
def State.pushFree (s : State) (b : Btd) (i : Nat) : Btd × State :=
  let c := { b with head := i, free := b.free + 1, empty := false }
  (c, (s.setPbe b i { s.pbe b i with st := 0, ref := 0, next := b.head }).setFree c)

/-! ### Reads of the structures (R50, R161, R352) -/

/-- Where the descriptor of a context's table lies. -/
def State.btdRange (s : State) (c : Nat) : List (Nat × Nat) :=
  let r := (s.ctx c).btd.toNat
  if bitOf r 0 then [(fld r 6 46 * 64, 64)] else []

/-- Where the entry of a pool block lies. -/
def Btd.poolRange (b : Btd) (i : Nat) : List (Nat × Nat) := if i < b.npool then [(b.poolAt i, 8)] else []

/-- Where the map entry of a logical block lies, and the entry of the pool block that it names. -/
def State.entryRanges (s : State) (b : Btd) (q l : Nat) : List (Nat × Nat) :=
  (b.mapAt q l, 4) :: match s.mapped b q l with
    | some i => b.poolRange i
    | none => []

/-- The package whose span link a read of a structure waits for (R376). -/
def State.rangesHeld (s : State) (rs : List (Nat × Nat)) : Option Nat := rs.findSome? fun r => s.heldBy r.1

/-- Physical ranges that have been read: their stack bytes are counted and their soft errors reported on core `n`; the stored bits are
used (R352; log 105). -/
def State.readRanges (s : State) (n : Nat) (rs : List (Nat × Nat)) : State :=
  rs.foldl (fun t r => (t.checkRead n (cellRun r.1 r.2)).countRead r.1 r.2) s

/-- Structures that a copy on write, a demotion or a promotion reads: the same, reported on the supervisor of their stack's die. -/
def State.moveReads (s : State) (rs : List (Nat × Nat)) : State :=
  rs.foldl (fun t r => (t.checkMove (cellRun r.1 r.2)).countRead r.1 r.2) s

/-! ### Migrations (R222, R224) -/

/-- The migration of block `i` of a context, and its number. -/
def State.migrOf (s : State) (c i : Nat) : Option (Nat × Migr) :=
  s.migrs.findSome? fun p => match p.2 with
    | some m => if m.ctx.toNat == c && m.blk == i then some (p.1, m) else none
    | none => none

/-- A migration ends: it is forgotten, and counted in its phase. -/
def State.endMigr (s : State) (k : Nat) (m : Migr) : State :=
  let t := { s with migrs := SMap.set none s.migrs k none }
  match m.post with
  | some n => t.phaseInc n
  | none => t

/-- A migration of block `i`, if any, ends. -/
def State.dropMigr (s : State) (c i : Nat) : State :=
  match s.migrOf c i with
  | some (k, m) => s.endMigr k m
  | none => s

/-- A migration begins. -/
def State.startMigr (s : State) (b : Btd) (i : Nat) (m : Migr) : State :=
  let k := firstFree (fun k => (SMap.get none s.migrs k).isSome) (s.migrs.length + 1) 0
  let t := s.setPbe b i { s.pbe b i with st := 2, cold := m.promote }
  { t with migrs := SMap.set none t.migrs k (some m) }

/-- A running demotion is cancelled at once (R224). -/
def State.cancelDemotion (s : State) (c : Nat) (b : Btd) (i : Nat) : State :=
  (s.dropMigr c i).setPbe b i { s.pbe b i with st := 1, cold := false }

/-! ### Data of a block (R52, R217, R225) -/

/-- The bytes of a hot slot; a soft error among them is reported on the supervisor of its stack (R352). -/
def State.hotData (s : State) (b : Btd) (i : Nat) : List Byte := ((s.physRead (b.hotSlot i) b.size).getD [])

/-- The physical addresses of a hot slot. -/
def Btd.hotPas (b : Btd) (i : Nat) : List Nat := cellRun (b.hotSlot i) b.size

/-- `n` bytes that nothing constrains. -/
def State.freeBytes (s : State) (n : Nat) : List Byte := (List.range n).map fun k => (s.free k).setWidth 8

/-- What reads of a block in its cold slot return: the slot's bytes where it is raw, else the values it restores to. -/
def State.coldData (s : State) (b : Btd) (i : Nat) : List Byte :=
  let a := b.coldSlot i
  let p := s.pbe b i
  if p.cmp = 1 ∨ p.cmp = 2 then
    match SMap.get [] s.cold a with
    | [] => s.freeBytes b.size
    | bs => bs
  else (s.physRead a b.size).getD []

/-- The exponent of a run's scale (R52). -/
def lossyExp (xs : List FVal) : Int :=
  let big := xs.foldl (fun (m : Option FVal) x => if x.isZero then m else match m with
    | none => some (FVal.fin false (match x with | .fin _ k _ => k | _ => 0) (match x with | .fin _ _ e => e | _ => 0))
    | some y => let a := FVal.fin false (match x with | .fin _ k _ => k | _ => 0) (match x with | .fin _ _ e => e | _ => 0)
      if FVal.cmp a y = some .gt then some a else some y) none
  match big with
  | none => -127
  | some v =>
    let e0 := v.floorLog2 - 8
    let past := FVal.cmp v (.fin false 448 e0) = some .gt
    max (-127) (if past then e0 + 1 else e0)

/-- A finite value times a power of two. -/
def FVal.scale2 (v : FVal) (k : Int) : FVal :=
  match v with
  | .fin s m e => .fin s m (e + k)
  | x => x

/-- An element as a lossy cold slot restores it. -/
def lossyElem (f : Fmt) (e : Int) (x : FVal) : Nat :=
  let q := (fmtE4M3.round false (x.scale2 (-e))).1
  (f.round true ((fmtE4M3.decode q).scale2 e)).1

/-- Runs of `n` elements of a list; `fuel` bounds their number. -/
def runsOf {α : Type} (n : Nat) : Nat → List α → List (List α)
  | 0, _ => []
  | fuel + 1, xs => if xs.isEmpty then [] else xs.take n :: runsOf n fuel (xs.drop n)

/-- What a block's bytes restore to after a lossy demotion; none where it meets an infinity or a NaN (R52). -/
def lossyBytes (f : Fmt) (bs : List Byte) : Option (List Byte) :=
  let xs := (List.range (bs.length / 2)).map fun k => f.decode (leAt bs (2 * k) 2)
  if xs.any fun x => x.isNaN || x.isInf then none
  else some ((runsOf 128 (xs.length / 128 + 1) xs).flatMap fun r =>
    let e := lossyExp r
    r.flatMap fun x => leBytes 2 (lossyElem f e x))

/-- A demotion's flip (R224): form, coded length, and what the slot restores to; none for a raw one. -/
def demotedForm (m : Migr) (size coded : Nat) (bs : List Byte) : Nat × Nat × Option (List Byte) :=
  let lossless := if size ≤ coded then (0, size, none) else (1, coded, some bs)
  match m.form with
  | 0 => (0, size, none)
  | 1 => lossless
  | _ => match lossyBytes (if m.bf16 then fmtBF16 else fmtF16) bs with
    | some r => (2, coded % (size + 1), some r)
    | none => lossless

/-- Whether a migration waits for a span link. -/
def State.migrHeld (s : State) (m : Migr) : Bool :=
  (s.rangesHeld (s.btdRange m.ctx.toNat)).isSome
    || (s.btdOf m.ctx.toNat).elim false fun b => (s.rangesHeld [(b.poolAt m.blk, 8)]).isSome

/-- DEMOTION_COMPLETION (R224): the block flips to COLD. -/
def execDemotionCompletion (i : Nat) (s : State) : Out :=
  match SMap.get none s.migrs i with
  | none => .next s
  | some m =>
    if s.migrHeld m then .next s
    else if m.promote then .next s
    else
      let t := s.moveReads (s.btdRange m.ctx.toNat)
      match s.btdOf m.ctx.toNat with
      | none => .next (t.endMigr i m)
      | some b =>
        let bs := s.hotData b m.blk
        let (form, len, keep) := demotedForm m b.size (Config.codedSize s.tick) bs
        let t := ((t.moveReads (b.poolRange m.blk)).checkMove (b.hotPas m.blk)).countRead (b.hotSlot m.blk) b.size
        let t := t.through (b.coldSlot m.blk) (if keep.isNone then bs else s.freeBytes len)
        let t := { t with cold := SMap.set [] t.cold (b.coldSlot m.blk) (keep.getD []) }
        let t := t.setPbe b m.blk { s.pbe b m.blk with st := 3, cold := true, cmp := form, bf16 := form == 2 && m.bf16, clen := len }
        .next ((t.endMigr i m).count (0x200 + 16 * portDieOf (b.coldSlot m.blk) + 6) 1)

/-- PROMOTION_COMPLETION (R224, R225): the cold slot's values are in the hot slot, and the block flips to LIVE. -/
def execPromotionCompletion (i : Nat) (s : State) : Out :=
  match SMap.get none s.migrs i with
  | none => .next s
  | some m =>
    if s.migrHeld m then .next s
    else if !m.promote then .next s
    else
      let t := s.moveReads (s.btdRange m.ctx.toNat)
      match s.btdOf m.ctx.toNat with
      | none => .next (t.endMigr i m)
      | some b =>
        let t := (t.moveReads (b.poolRange m.blk)).through (b.hotSlot m.blk) (s.coldData b m.blk)
        let t := t.setPbe b m.blk { s.pbe b m.blk with st := 1, cold := false, cmp := 3 }
        .next (t.endMigr i m)

/-! ### Block-table words (R220-R222) -/

/-- A block range: sequence, first logical block, count. -/
structure BlockRange where
  seq : Nat
  first : Nat
  count : Nat
  deriving DecidableEq, Repr

def blockRangeOf (v : Nat) : Option BlockRange :=
  if fld v 56 8 = 0 ∧ fld v 16 4 = 0 then some ⟨fld v 36 20, fld v 20 16, fld v 0 16 + 1⟩ else none

/-- RANGE of a range and a second sequence (R221). -/
def BlockRange.outside (r : BlockRange) (b : Btd) (q : Nat) : Bool :=
  decide (2 ^ b.ls ≤ r.seq) || decide (2 ^ b.ls ≤ q) || decide (2 ^ b.lb < r.first + r.count)

/-- The logical blocks of a range. -/
def BlockRange.blocks (r : BlockRange) : List Nat := (List.range r.count).map (r.first + ·)

/-- What a form answers and does on OK: its status or its count with the new state. -/
abbrev BtOut := Except Nat (State × Nat)

/-- A block-table form: its operand checks, then its table, its range and its effect (R220, R221). -/
def State.btForm (s : State) (rd : DReg) (ra : SReg) (bad : Bool) (denied : Option Nat) (q : Option Nat)
    (f : State → Btd → BlockRange → BtOut) : Out :=
  match blockRangeOf (s.readS ra).toNat with
  | none => .next s.illegal
  | some r =>
    if bad then .next s.illegal
    else match denied with
    | some n => .next (s.trap causeAccess (BitVec.ofNat 64 n))
    | none =>
      let answer := fun (t : State) (status n : Nat) => Host.Outcome.next (t.finish rd (BitVec.ofNat 64 (status * 2 ^ 32 + n)) 4)
      let t := s.readRanges s.cur (s.btdRange s.me.ctx)
      match s.rangesHeld (s.btdRange s.me.ctx), s.btdOf s.me.ctx with
      | some p, _ => .next (s.holdOn p)
      | none, none => answer t 6 0
      | none, some b =>
        if r.outside b (q.getD r.seq) then answer t 1 0
        else
          let rs := (r.seq :: q.toList).flatMap fun k => r.blocks.flatMap (s.entryRanges b k)
          match s.rangesHeld rs with
          | some p => .next (s.holdOn p)
          | none =>
            let t := t.readRanges s.cur rs
            match f t b r with
            | .ok (u, n) => answer u 0 n
            | .error e => answer t e 0

/-- Blocks allocated one after another. -/
def State.allocAll (s : State) (b : Btd) (q : Nat) (zero : Bool) : List Nat → State
  | [] => s
  | l :: ls =>
    let (i, c, t) := s.popFree b
    let t := t.setPbe b i Pbe.fresh
    let t := if zero then t.through (b.hotSlot i) (zeros b.size) else t
    (t.setMap b q l (some i)).allocAll c q zero ls

/-- R221 BTALLOC. Where statuses 3 and 4 both apply it writes 3 (log 116). -/
def execBtalloc (rd : DReg) (ra rb : SReg) (s : State) : Out :=
  let v := (s.readS rb).toNat
  s.btForm rd ra (decide (2 ≤ v)) none none fun s b r =>
    if r.blocks.any fun l => (s.mapped b r.seq l).isSome then .error 3
    else match s.freeBlocks b r.count with
      | none => .error 4
      | some is =>
        let t := s.readRanges s.cur (is.map fun i => (b.poolAt i, 8))
        .ok (t.allocAll b r.seq (v == 1) r.blocks, r.count)

/-- Blocks shared one after another; none where a reference count would pass its top. -/
def State.shareAll (s : State) (b : Btd) (q p : Nat) : List Nat → Option State
  | [] => some s
  | l :: ls =>
    match s.mapped b q l with
    | none => s.shareAll b q p ls
    | some i =>
      let e := s.pbe b i
      if 65535 ≤ e.ref then none
      else ((s.setPbe b i { e with ref := e.ref + 1 }).setMap b p l (some i)).shareAll b q p ls

/-- R221 BTFORK. Of the statuses 2, 3 and 5 that apply it writes the lowest (log 116). -/
def execBtfork (rd : DReg) (ra rb : SReg) (s : State) : Out :=
  let v := (s.readS rb).toNat
  let p := fld v 36 20
  s.btForm rd ra (v != p * 2 ^ 36) none (some p) fun s b r =>
    if r.blocks.any fun l => (s.mapped b r.seq l).isNone then .error 2
    else if r.blocks.any fun l => (s.mapped b p l).isSome then .error 3
    else match s.shareAll b r.seq p r.blocks with
      | some t => .ok (t, r.count)
      | none => .error 5

/-- Entries dropped one after another: the table and the number of blocks freed. -/
def State.dropAll (s : State) (c : Nat) (b : Btd) (q : Nat) : Nat → List Nat → State × Nat
  | n, [] => (s, n)
  | n, l :: ls =>
    match s.mapped b q l with
    | none => s.dropAll c b q n ls
    | some i =>
      let e := s.pbe b i
      let t := s.setMap b q l none
      if b.npool ≤ i then t.dropAll c b q n ls
      else if e.ref ≤ 1 then
        let (b2, u) := (t.dropMigr c i).pushFree b i
        u.dropAll c b2 q (n + 1) ls
      else (t.setPbe b i { e with ref := e.ref - 1 }).dropAll c b q n ls

/-- R221 BTDROP. -/
def execBtdrop (rd : DReg) (ra : SReg) (s : State) : Out :=
  s.btForm rd ra false none none fun s b r => .ok (s.dropAll s.me.ctx b r.seq 0 r.blocks)

/-- Migrations started one after another, of the blocks in a state: the new state and their number. -/
def State.migrateAll (s : State) (b : Btd) (q st : Nat) (m : Migr) : Nat → List Nat → State × Nat
  | n, [] => (s, n)
  | n, l :: ls =>
    match s.mapped b q l with
    | none => s.migrateAll b q st m n ls
    | some i =>
      if (s.pbe b i).st = st then (s.startMigr b i { m with blk := i }).migrateAll b q st m (n + 1) ls
      else s.migrateAll b q st m n ls

/-- The migration that an rb of R222 asks for. -/
def migrOfArg (c v : Nat) (promote : Bool) : Migr :=
  ⟨BitVec.ofNat 12 c, 0, promote, fld v 13 2, bitOf v 15, if bitOf v 12 then some (fld v 0 12) else none⟩

/-- The phase a user-mode form may not count in (R222). -/
def State.migrDenied (s : State) (v : Nat) : Option Nat :=
  if bitOf v 12 && s.phaseDenied (fld v 0 12) then some (fld v 0 12) else none

/-- R221 BTDEMOTE. -/
def execBtdemote (rd : DReg) (ra rb : SReg) (s : State) : Out :=
  let v := (s.readS rb).toNat
  let bad := decide (2 ^ 16 ≤ v) || fld v 13 2 == 3 || (bitOf v 15 && fld v 13 2 != 2)
  s.btForm rd ra bad (s.migrDenied v) none fun s b r => .ok (s.migrateAll b r.seq 1 (migrOfArg s.me.ctx v false) 0 r.blocks)

/-- R221 BTPROMOTE. -/
def execBtpromote (rd : DReg) (ra rb : SReg) (s : State) : Out :=
  let v := (s.readS rb).toNat
  s.btForm rd ra (decide (2 ^ 13 ≤ v)) (s.migrDenied v) none fun s b r =>
    .ok (s.migrateAll b r.seq 3 (migrOfArg s.me.ctx v true) 0 r.blocks)

/-! ### Streams through a table (R219, R223) -/

/-- Where a KV address leads: the table, the sequence and logical block, the pool block, the byte in it. -/
structure KvAt where
  b : Btd
  seq : Nat
  l : Nat
  i : Nat
  off : Nat
  deriving DecidableEq, Repr

/-- The lookup of a KV address; none where it fails. -/
def State.kvAt (s : State) (c a : Nat) : Option KvAt :=
  match s.btdOf c with
  | none => none
  | some b =>
    let q := fld a 36 20
    let o := fld a 0 36
    let l := o / b.size
    if 2 ^ b.ls ≤ q ∨ 2 ^ b.lb ≤ l ∨ 2 ^ 56 ≤ a then none
    else match s.mapped b q l with
      | some i => if (s.pbe b i).st = 0 then none else some ⟨b, q, l, i, o % b.size⟩
      | none => none

/-- What a lookup of a KV address reads of the structures. -/
def State.kvRanges (s : State) (c a : Nat) : List (Nat × Nat) :=
  s.btdRange c ++ match s.btdOf c with
    | some b => s.entryRanges b (fld a 36 20) (fld a 0 36 / b.size)
    | none => []

/-- Whether the data of a block is read in its hot slot. -/
def Pbe.inHot (p : Pbe) : Bool := p.st == 1 || (p.st == 2 && !p.cold)

/-- `n` bytes that a read for a stream finds, with the physical addresses in a hot slot that it reads. -/
def State.kvRead (s : State) (k : KvAt) (n : Nat) : List Byte × List Nat :=
  if (s.pbe k.b k.i).inHot then
    let pa := k.b.hotSlot k.i + k.off
    (s.sees (Via.stream.path (s.windowOf pa)) ((s.cells pa n).getD []), cellRun pa n)
  else (((s.coldData k.b k.i).drop k.off).take n, [])

/-- What a write meets. -/
inductive KvWrite where
  | ready (s : State) (pas : List Nat)   -- the physical addresses to write
  | wait (s : State)                    -- a promotion must end first
  | share                               -- the block is shared: copy on write
  deriving Repr

/-- A write of `n` bytes (R219). -/
def State.kvWrite (s : State) (c : Nat) (k : KvAt) (n : Nat) : KvWrite :=
  let p := s.pbe k.b k.i
  let cells := cellRun (k.b.hotSlot k.i + k.off) n
  if p.st = 2 ∧ p.cold then .wait s
  else if p.ref ≠ 1 then .share
  else if p.st = 3 then .wait (s.startMigr k.b k.i ⟨BitVec.ofNat 12 c, k.i, true, 0, false, none⟩)
  else if p.st = 2 then .ready (s.cancelDemotion c k.b k.i) cells
  else .ready s cells

/-- The copy of a shared block, one step of R220, and whether the free list had a block for it. The entry of the block that it takes is
read besides what the stream's lookup has read. -/
def State.copyBlock (s : State) (c : Nat) (k : KvAt) : State × Bool :=
  let p := s.pbe k.b k.i
  let s1 := if p.st = 2 ∧ !p.cold then s.cancelDemotion c k.b k.i else s
  if (s1.freeBlocks k.b 1).isNone then (s1, false)
  else
    let hot := (s1.pbe k.b k.i).inHot
    let bs := if hot then s1.hotData k.b k.i else s1.coldData k.b k.i
    let s2 := if hot then (s1.checkMove (k.b.hotPas k.i)).countRead (k.b.hotSlot k.i) k.b.size else s1
    let (j, _, s3) := (s2.moveReads (k.b.poolRange k.b.head)).popFree k.b
    let s4 := (s3.setPbe k.b j Pbe.fresh).through (k.b.hotSlot j) bs
    ((s4.setMap k.b k.seq k.l (some j)).setPbe k.b k.i { s4.pbe k.b k.i with ref := p.ref - 1 }, true)

end Sys2Proof.Machine
end

