-- ==== Sys2Proof/Machine/Compositor.lean ====
section
/-! DEFINITION. The blend units: samples that reach the head of their exchange queue, and blends (R255, R320, R321). -/

namespace Sys2Proof.Machine

/-- The owner die and the slot of an ownership entry (R255). -/
def entryDie (e : W32) : Nat := fld e.toNat 11 3
def entrySlot (e : W32) : Nat := fld e.toNat 0 11

/-- Samples of a reorder window that can wait: NEXTSEQ to NEXTSEQ + 4,095. -/
def windowSize : Nat := 4096

/-- How far a sample is ahead of its tile's NEXTSEQ, modulo 2^32. -/
def State.ahead (s : State) (m : Sample) : Nat := (m.seq - SMap.get 0 s.nextseq m.tile).toNat

/-- Whether the slot of a sample is full. -/
def State.slotFull (s : State) (m : Sample) : Bool := (SMap.get [] s.windows m.tile).any fun x => x.seq == m.seq

/-- The head of an exchange queue has left it. -/
def State.popExchange (s : State) (k : Nat) : State := { s with exch := SMap.set [] s.exch k ((SMap.get [] s.exch k).drop 1) }

/-- SAMPLE_ARRIVAL (R320): what becomes of the sample at the head of the exchange queue from die `src` to die `dst`. A tile that the
owner die no longer owns takes none (log 17). -/
def execSampleArrival (src dst : Nat) (s : State) : Out :=
  let k := 8 * src + dst
  match SMap.get [] s.exch k with
  | [] => .next s
  | m :: _ =>
    let e := SMap.get 0 s.own m.tile
    let t := s.popExchange k
    let d := s.ahead m
    if !e.getLsbD 31 || entryDie e != dst then .next t
    else if d < windowSize then
      .next (if s.slotFull m then t else { t with windows := SMap.set [] t.windows m.tile (SMap.get [] t.windows m.tile ++ [m]) })
    else if d < 2 ^ 31 then .next s
    else .next t

/-- The address of a sample's pixel (R321). -/
def pixelAt (e : W32) (m : Sample) : Nat :=
  let px := fld m.pixel.toNat 0 12
  let py := fld m.pixel.toNat 12 12
  screenBase + entryDie e * 0x400000 + entrySlot e * 2048 + 8 * (16 * (py % 16) + px % 16)

/-- C + T × c and T − T × a, each rounded once. -/
def blendPixel (old : Nat) (v : W32) : Nat :=
  let t := fmtF32.decode (fld old 32 32)
  let c := fmtF16.decode (fld v.toNat 0 16)
  let a := fmtF16.decode (fld v.toNat 16 16)
  (roundF32 (t.fma c (fmtF32.decode (fld old 0 32))).1).1 + (roundF32 (t.fma a.neg t).1).1 * 2 ^ 32

/-- A sample leaves slot 0 of its window, which moves by one. -/
def State.takeSample (s : State) (t : Nat) (m : Sample) : State :=
  { s with windows := SMap.set [] s.windows t ((SMap.get [] s.windows t).filter fun x => x.seq != m.seq),
           nextseq := SMap.set 0 s.nextseq t (SMap.get 0 s.nextseq t + 1) }

/-- BLEND (R320, R321): the sample in slot 0 of a tile's window is blended into its pixel. -/
def execBlend (t : Nat) (s : State) : Out :=
  match (SMap.get [] s.windows t).find? fun m => m.seq == SMap.get 0 s.nextseq t with
  | none => .next s
  | some m =>
    let a := pixelAt (SMap.get 0 s.own t) m
    let u := s.takeSample t m
    match s.physNat a 8 with
    | some old => .next (u.store a (leBytes 8 (blendPixel old m.value)))
    | none => .next u

end Sys2Proof.Machine
end

