-- ==== Sys2Proof/Machine/CoreAlu.lean ====
section
/-! DEFINITION. The register forms of a control core: arithmetic, compares, select, predicates (R95-R99). Every form reads
its sources, writes its destination and moves the pc by 4; none traps on its result. -/

namespace Sys2Proof.Machine

/-- A three-register form: rd := f(ra, rb). -/
def State.alu (s : State) (f : W64 → W64 → W64) (rd : DReg) (ra rb : SReg) : Out :=
  .next (s.finish rd (f (s.readS ra) (s.readS rb)) 4)

/-- A compare: qd := f(ra, rb). -/
def State.cmp (s : State) (f : W64 → W64 → Bool) (qd : QReg) (ra rb : SReg) : Out :=
  .next (s.finishQ qd (f (s.readS ra) (s.readS rb)) 4)

/-- A count of the bits of ra. -/
def State.aluCount (s : State) (f : W64 → Nat) (rd : DReg) (ra : SReg) : Out :=
  .next (s.finish rd (BitVec.ofNat 64 (f (s.readS ra))) 4)

/-- A predicate form. -/
def State.aluQ (s : State) (f : Bool → Bool → Bool) (qd qa qb : QReg) : Out :=
  .next (s.finishQ qd (f (s.me.readQ qa) (s.me.readQ qb)) 4)

/-- `R95` ADD: a + b, modulo 2^64. -/
def execAdd (rd : DReg) (ra rb : SReg) (s : State) : Out := s.alu (fun a b => a + b) rd ra rb

/-- `R95` SUB: a − b, modulo 2^64. -/
def execSub (rd : DReg) (ra rb : SReg) (s : State) : Out := s.alu (fun a b => a - b) rd ra rb

/-- `R95` AND: a AND b. -/
def execAnd (rd : DReg) (ra rb : SReg) (s : State) : Out := s.alu (fun a b => a &&& b) rd ra rb

/-- `R95` OR: a OR b. -/
def execOr (rd : DReg) (ra rb : SReg) (s : State) : Out := s.alu (fun a b => a ||| b) rd ra rb

/-- `R95` XOR: a XOR b. -/
def execXor (rd : DReg) (ra rb : SReg) (s : State) : Out := s.alu (fun a b => a ^^^ b) rd ra rb

/-- `R95` SHL: a shifted left by b[5:0]. -/
def execShl (rd : DReg) (ra rb : SReg) (s : State) : Out := s.alu shiftL64 rd ra rb

/-- `R95` SHR: a shifted right by b[5:0], zeros enter. -/
def execShr (rd : DReg) (ra rb : SReg) (s : State) : Out := s.alu shiftR64 rd ra rb

/-- `R95` SRA: a shifted right by b[5:0], copies of a[63] enter. -/
def execSra (rd : DReg) (ra rb : SReg) (s : State) : Out := s.alu shiftA64 rd ra rb

/-- `R95` MUL: the low 64 bits of a × b. -/
def execMul (rd : DReg) (ra rb : SReg) (s : State) : Out := s.alu (fun a b => a * b) rd ra rb

/-- `R95` MULH_I64: bits [127:64] of the signed product. -/
def execMulhI64 (rd : DReg) (ra rb : SReg) (s : State) : Out := s.alu mulHighS rd ra rb

/-- `R95` MULH_N64: bits [127:64] of the unsigned product. -/
def execMulhN64 (rd : DReg) (ra rb : SReg) (s : State) : Out := s.alu mulHighU rd ra rb

/-- `R96` DIV_I64: the signed quotient (R96). -/
def execDivI64 (rd : DReg) (ra rb : SReg) (s : State) : Out := s.alu divS rd ra rb

/-- `R96` DIV_N64: the unsigned quotient (R96). -/
def execDivN64 (rd : DReg) (ra rb : SReg) (s : State) : Out := s.alu divU rd ra rb

/-- `R96` REM_I64: the signed remainder (R96). -/
def execRemI64 (rd : DReg) (ra rb : SReg) (s : State) : Out := s.alu remS rd ra rb

/-- `R96` REM_N64: the unsigned remainder (R96). -/
def execRemN64 (rd : DReg) (ra rb : SReg) (s : State) : Out := s.alu remU rd ra rb

/-- `R95` MIN_I64: the smaller, signed. -/
def execMinI64 (rd : DReg) (ra rb : SReg) (s : State) : Out := s.alu minS rd ra rb

/-- `R95` MAX_I64: the larger, signed. -/
def execMaxI64 (rd : DReg) (ra rb : SReg) (s : State) : Out := s.alu maxS rd ra rb

/-- `R95` MIN_N64: the smaller, unsigned. -/
def execMinN64 (rd : DReg) (ra rb : SReg) (s : State) : Out := s.alu minU rd ra rb

/-- `R95` MAX_N64: the larger, unsigned. -/
def execMaxN64 (rd : DReg) (ra rb : SReg) (s : State) : Out := s.alu maxU rd ra rb

/-- `R95` ANDN: a AND NOT b. -/
def execAndn (rd : DReg) (ra rb : SReg) (s : State) : Out := s.alu (fun a b => a &&& ~~~b) rd ra rb

/-- `R95` ORN: a OR NOT b. -/
def execOrn (rd : DReg) (ra rb : SReg) (s : State) : Out := s.alu (fun a b => a ||| ~~~b) rd ra rb

/-- R97 CMPEQ. -/
def execCmpeq (qd : QReg) (ra rb : SReg) (s : State) : Out := s.cmp (fun a b => a == b) qd ra rb

/-- R97 CMPNE. -/
def execCmpne (qd : QReg) (ra rb : SReg) (s : State) : Out := s.cmp (fun a b => a != b) qd ra rb

/-- R97 CMPLT. -/
def execCmplt (qd : QReg) (ra rb : SReg) (s : State) : Out := s.cmp ltS qd ra rb

/-- R97 CMPGE. -/
def execCmpge (qd : QReg) (ra rb : SReg) (s : State) : Out := s.cmp (fun a b => !ltS a b) qd ra rb

/-- R97 CMPLT_N64. -/
def execCmpltN64 (qd : QReg) (ra rb : SReg) (s : State) : Out := s.cmp ltU qd ra rb

/-- R97 CMPGE_N64. -/
def execCmpgeN64 (qd : QReg) (ra rb : SReg) (s : State) : Out := s.cmp (fun a b => !ltU a b) qd ra rb

/-- R95 CLZ. -/
def execClz (rd : DReg) (ra : SReg) (s : State) : Out := s.aluCount leadingZeros rd ra

/-- R95 CTZ. -/
def execCtz (rd : DReg) (ra : SReg) (s : State) : Out := s.aluCount trailingZeros rd ra

/-- R95 POPC. -/
def execPopc (rd : DReg) (ra : SReg) (s : State) : Out := s.aluCount popcount rd ra

/-- R98 SEL: ra where the predicate is 1, rb otherwise. -/
def execSel (rd : DReg) (q : QReg) (ra rb : SReg) (s : State) : Out :=
  .next (s.finish rd (if s.me.readQ q then s.readS ra else s.readS rb) 4)

/-- R99 PAND. -/
def execPand (qd qa qb : QReg) (s : State) : Out := s.aluQ (fun a b => a && b) qd qa qb

/-- R99 POR. -/
def execPor (qd qa qb : QReg) (s : State) : Out := s.aluQ (fun a b => a || b) qd qa qb

/-- R99 PXOR. -/
def execPxor (qd qa qb : QReg) (s : State) : Out := s.aluQ (fun a b => a ^^ b) qd qa qb

/-- R99 PNOT. -/
def execPnot (qd qa : QReg) (s : State) : Out := .next (s.finishQ qd (!s.me.readQ qa) 4)

end Sys2Proof.Machine
end

