-- ==== Sys2Proof/Machine/CoreBranch.lean ====
section
/-! DEFINITION. Branches, calls and returns (R80-R82, R102-R106): targets are checked before anything changes, a call slides
the window by its frame and leaves a link word, a return takes it back. -/

namespace Sys2Proof.Machine

/-- check_target (R103). -/
def badTarget (t : W64) : Bool := fld t.toNat 0 2 != 0 || fld t.toNat 56 8 != 0

/-- The target of a relative form (R102). -/
def State.relTarget (s : State) (off : W64) : W64 := s.me.pc + (off <<< 2)

/-- Continue at a checked target, or take the instruction-fetch trap at this word with TVAL the target (R103). -/
def State.goto (s : State) (t : W64) : Out :=
  if badTarget t then .next (s.trap causeFetch t) else .next (s.setMe { s.me with pc := t })

/-- A branch of `n` bytes. -/
def State.branch (s : State) (taken : Bool) (off : W64) (n : Nat) : Out :=
  if taken then s.goto (s.relTarget off) else .next (s.skip n)

/-- The link word of R80. -/
def linkWord (ret : W64) (fc : FrameCode) : W64 := (ret &&& ~~~(3 : W64)) ||| BitVec.ofNat 64 fc.code

/-- A call to `t` with a frame, from a word of `n` bytes (R81): spills first, then the link, the slide and the pc. -/
def State.callTo (s : State) (fc : FrameCode) (t : W64) (n : Nat) : Out :=
  if badTarget t then .next (s.trap causeFetch t)
  else
    let f := 8 * fc.code
    match s.spillTo s.cur (224 - f) 33 with
    | .ok u =>
      let c := u.me
      .next (u.setMe { c with
        link := SMap.set 0 c.link ((c.wbase.toNat + f - 8) % 256 / 8) (linkWord (c.pc + BitVec.ofNat 64 n) fc),
        wbase := c.wbase + BitVec.ofNat 8 f, wfill := c.wfill + BitVec.ofNat 8 f, pc := t })
    | .spillFault u tval => .next (u.trap causeSpill tval)
    | .noRecord u => .next u
    | .held u p => .next (u.holdOn p)

/-- The link slot directly below w0 (R80). -/
def Core.linkIx (c : Core) : Nat := (c.wbase.toNat + 248) % 256 / 8

/-- The end of a return once enough groups are resident (R82). -/
def State.retFrom (s : State) (lw : W64) : State :=
  let c := s.me
  let f := BitVec.ofNat 8 (8 * (lw.toNat % 4))
  s.setMe { c with link := SMap.set 0 c.link c.linkIx 0, wbase := c.wbase - f, wfill := c.wfill - f, pc := lw &&& ~~~(3 : W64) }

/-- How a refill for a return ends, when it does not succeed: the refills already made stay (R82, R85). -/
def State.refillFails : Moved → State
  | .ok u => u
  | .spillFault u tval => u.trap causeSpill tval
  | .noRecord u => u.illegal
  | .held u p => u.holdOn p

/-- R102 BR. -/
def execBr (q : QReg) (off : BitVec 18) (s : State) : Out := s.branch (s.me.readQ q) (off.signExtend 64) 4

/-- R102 BR_EXT. -/
def execBrExt (q : QReg) (off : BitVec 50) (s : State) : Out := s.branch (s.me.readQ q) (off.signExtend 64) 8

/-- R102 BRN. -/
def execBrn (q : QReg) (off : BitVec 18) (s : State) : Out := s.branch (!s.me.readQ q) (off.signExtend 64) 4

/-- R102 BRN_EXT. -/
def execBrnExt (q : QReg) (off : BitVec 50) (s : State) : Out := s.branch (!s.me.readQ q) (off.signExtend 64) 8

/-- R102 JMP. -/
def execJmp (off : BitVec 18) (s : State) : Out := s.branch true (off.signExtend 64) 4

/-- R102 JMP_EXT. -/
def execJmpExt (off : BitVec 50) (s : State) : Out := s.branch true (off.signExtend 64) 8

/-- R104 CALL. -/
def execCall (fc : FrameCode) (off : BitVec 18) (s : State) : Out := s.callTo fc (s.relTarget (off.signExtend 64)) 4

/-- R104 CALL_EXT. -/
def execCallExt (fc : FrameCode) (off : BitVec 50) (s : State) : Out := s.callTo fc (s.relTarget (off.signExtend 64)) 8

/-- R105 JMPR. -/
def execJmpr (ra : SReg) (s : State) : Out := s.goto (s.readS ra)

/-- R105 CALLR: the target is read before the window moves. -/
def execCallr (fc : FrameCode) (ra : SReg) (s : State) : Out := s.callTo fc (s.readS ra) 4

/-- R82 RET. -/
def execRet (s : State) : Out :=
  match s.refillTo s.cur 8 1 with
  | .ok u =>
    let lw := SMap.get 0 u.me.link u.me.linkIx
    if lw.toNat % 4 = 0 then .next u.illegal
    else match u.refillTo u.cur (8 * (lw.toNat % 4)) 4 with
      | .ok v => .next (v.retFrom lw)
      | m => .next (State.refillFails m)
  | m => .next (State.refillFails m)

end Sys2Proof.Machine
end

