-- ==== Sys2Proof/Machine/CoreCopy.lean ====
section
/-! DEFINITION. Background copies (R288-R290) and the tokens they count on (R152): a copy is checked and translated when it
issues, moves granule by granule in any order, and completes once everything is moved. -/

namespace Sys2Proof

/-- Bytes of one element of a reduction (R56). -/
def RedTy.size : RedTy → Nat
  | .i32 | .n32 | .f32 => 4
  | .i64 | .n64 => 8
  | .f16 | .bf16 => 2

/-- The format of a float element type. -/
def RedTy.fmt : RedTy → Option Machine.Fmt
  | .f32 => some Machine.fmtF32
  | .f16 => some Machine.fmtF16
  | .bf16 => some Machine.fmtBF16
  | _ => none

/-- Whether an element type is signed. -/
def RedTy.signed : RedTy → Bool
  | .i32 | .i64 => true
  | _ => false

end Sys2Proof

namespace Sys2Proof.Machine

/-- The physical 64 KiB pages of a range, or the first address that fails (R211, R267): `k` pages from `va`. -/
def State.copyPages (s : State) (a : Acc) : Nat → Nat → Except Nat (List Nat)
  | _, 0 => .ok []
  | va, k + 1 =>
    match s.coreVa s.cur a va with
    | none => .error va
    | some pa =>
      if (s.canon pa).isNone then .error va
      else match s.copyPages a ((va / 65536 + 1) * 65536) k with
        | .ok ps => .ok ((pa - va % 65536) :: ps)
        | .error e => .error e

/-- dest := OP(dest, src) on the bits of one element (R290). -/
def redApply (op : RedOp) (ty : RedTy) (d x : Nat) : Nat :=
  let w := 8 * ty.size
  match op with
  | .and => d &&& x
  | .or => d ||| x
  | .xor => d ^^^ x
  | .add => match ty.fmt with
    | some f => (f.addBits d x).1
    | none => (d + x) % 2 ^ w
  | .max => match ty.fmt with
    | some f => (f.minMax true d x).1
    | none => if ty.signed then (if signedOf w d ≤ signedOf w x then x else d) else max d x
  | .min => match ty.fmt with
    | some f => (f.minMax false d x).1
    | none => if ty.signed then (if signedOf w d ≤ signedOf w x then d else x) else min d x

/-- The physical address of byte `va` of a range that begins at `base`. -/
def pagePa (pages : List Nat) (base va : Nat) : Nat := (pages[va / 65536 - base / 65536]?).getD 0 + va % 65536

/-- The parts a copy moves one at a time: source granules of 16 bytes, or elements of a reduction. -/
def Copy.parts (c : Copy) : Nat :=
  match c.red with
  | none => (c.src + (c.len - 1)) / 16 - c.src / 16 + 1
  | some (_, ty) => c.len / ty.size

/-- The first byte and the length of part `k`. -/
def Copy.part (c : Copy) (k : Nat) : Nat × Nat :=
  match c.red with
  | none =>
    let lo := max c.src ((c.src / 16 + k) * 16)
    let hi := min (c.src + c.len) ((c.src / 16 + k + 1) * 16)
    (lo - c.src, hi - lo)
  | some (_, ty) => (k * ty.size, ty.size)

/-- The cells of `n` bytes from offset `off` of a translated range; none for a byte that has become unassigned (R376). -/
def State.rangeCells (s : State) (pages : List Nat) (base off : Nat) : Nat → List (Option Nat)
  | 0 => []
  | n + 1 => s.canon (pagePa pages base (base + off)) :: s.rangeCells pages base (off + 1) n

/-- The bytes that a path shows in cells; one that is unassigned reads as 0xFF (R376). -/
def State.seesSome (s : State) (vs : List Nat) (as : List (Option Nat)) : List Byte := as.map fun a => a.elim 0xFF (s.see vs)

/-- Those of some physical addresses that are there, each with its byte of a list; one that is unassigned is not written (R376). -/
def State.thereOf (s : State) (pas : List Nat) (bs : List Byte) : List (Nat × Byte) := (pas.zip bs).filter fun p => (s.canon p.1).isSome

/-- Whether a copy's access of a physical address waits: for a span link (R376), or for a link on its way to become stable (R384). -/
def State.copyHeld (s : State) (c : Copy) (pa : Nat) : Bool :=
  let d := 8 + (if isSup c.core then c.core - 128 else c.core / 16)
  (s.heldBy pa).isSome || s.crossStalled d (s.dieBehind d pa)

/-- Whether part `k` of a copy waits. -/
def State.partHeld (s : State) (c : Copy) (k : Nat) : Bool :=
  s.copyHeld c (pagePa c.srcPages c.src (c.src + (c.part k).1)) || s.copyHeld c (pagePa c.dstPages c.dst (c.dst + (c.part k).1))
    || s.copyHeld c (pagePa c.dstPages c.dst (c.dst + (c.part k).1 + (c.part k).2 - 1))

/-- Overlapping ranges (R290: a reduction then leaves undefined values, which are free). -/
def Copy.overlaps (c : Copy) : Bool := decide (c.dst < c.src + c.len) && decide (c.src < c.dst + c.len)

/-- Whether a copy uses the old bits of byte `k` of its destination: all of a reduction, and of a plain copy the bytes of a
32-bit word that it writes only in part (R290, R352). -/
def Copy.merges (c : Copy) (k : Nat) : Bool :=
  c.red.isSome || inPartWord c.dst c.len (c.dst + k)

/-- The physical addresses that part `off`, `n` of a copy reads. -/
def Copy.srcPas (c : Copy) (off n : Nat) : List Nat := (List.range n).map fun j => pagePa c.srcPages c.src (c.src + off + j)

/-- Those that it writes. -/
def Copy.dstPas (c : Copy) (off n : Nat) : List Nat := (List.range n).map fun j => pagePa c.dstPages c.dst (c.dst + off + j)

/-- Those of the old bits that it uses. -/
def Copy.mergePas (c : Copy) (off n : Nat) : List Nat :=
  ((List.range n).filter fun j => c.merges (off + j)).map fun j => pagePa c.dstPages c.dst (c.dst + off + j)

/-- The window that offset `off` of a translated range lies in. -/
def State.rangeWindow (s : State) (pages : List Nat) (base off : Nat) : Nat := s.windowOf (pagePa pages base (base + off))

/-- One part of a copy is read and written; the soft errors that it meets are reported (R352). A store of its core to a scratchpad that no
`fence.path` has ordered, or through another window of stack memory, need not be seen, and may land later (R270, R289); an element of a
reduction is read and written at one place in the order of the writes to it (R290). -/
def State.copyPart (s : State) (c : Copy) (k : Nat) : State :=
  let (off, n) := c.part k
  let src := s.rangeCells c.srcPages c.src off n
  let dst := s.rangeCells c.dstPages c.dst off n
  let wd := s.rangeWindow c.dstPages c.dst off
  let bs := s.seesSome (Via.copy.path (s.rangeWindow c.srcPages c.src off)) src
  let t := ((s.checkRead c.core (c.srcPas off n)).checkRead c.core (c.mergePas off n)).countMem (src.filterMap id) false
  let u := if c.red.isSome then t.countMem (dst.filterMap id) false else t
  let out := match c.red with
    | none => bs
    | some (op, ty) =>
      if c.overlaps then leBytes ty.size ((s.free (2 * k)).toNat + 2 ^ 32 * (s.free (2 * k + 1)).toNat)
      else leBytes ty.size (redApply op ty (leNat (s.seesSome (Via.copy.path wd) dst)) (leNat bs))
  let ws := s.thereOf (c.dstPas off n) out
  (u.putPas .copy c.core (ws.map (·.1)) (ws.map (·.2))).countMem (dst.filterMap id) true

/-- One more part of copy `i`, where it is still to be moved. -/
def State.moveGranule (s : State) (i k : Nat) : State :=
  match s.copy i with
  | some c =>
    if k < c.parts ∧ !c.moved.contains k ∧ !s.partHeld c k then (s.copyPart c k).setCopy i (some { c with moved := k :: c.moved }) else s
  | none => s

/-- The parts from `k` down to 0 that are still to be moved. -/
def State.moveRest (s : State) (c : Copy) : Nat → State
  | 0 => s
  | k + 1 =>
    let t := s.moveRest c k
    if c.moved.contains k then t else t.copyPart c k

/-- A token's count changes. -/
def Core.setTok (c : Core) (i : Nat) (v : Nat) : Core := { c with tokcnt := SMap.set 0 c.tokcnt i (BitVec.ofNat 4 v) }

/-- A copy that has been moved whole: the phase, then the token (R152). -/
def State.copyDone (s : State) (i : Nat) (c : Copy) : State :=
  let t := match c.bind with
    | some n => s.phaseInc n
    | none => s
  let d := t.core c.core
  (t.setCore c.core (d.setTok c.tok (d.tok c.tok - 1))).setCopy i none

/-- COPY_COMPLETION (R152): every byte is visible, then the increment, then the token. -/
def execCopyCompletion (i : Nat) (s : State) : Out :=
  match s.copy i with
  | some c =>
    if (List.range c.parts).any fun k => !c.moved.contains k && s.partHeld c k then .next s
    else .next ((s.moveRest c c.parts).copyDone i c)
  | none => .next s

/-- The first operand of a reduction that is not a multiple of the element size (R290). -/
def redMisaligned (red : Option (RedOp × RedTy)) (vals : List W64) : Option W64 :=
  match red with
  | none => none
  | some (_, ty) => vals.find? fun v => v.toNat % ty.size ≠ 0

/-- The copy as it issues, with its pages, on a free number. -/
def State.copyStart (s : State) (dst src len : Nat) (dp sp : List Nat) (tok : BitVec 3) (sc : Scope)
    (red : Option (RedOp × RedTy)) (n : Nat) : State :=
  let c := s.me
  let b := SMap.get 0 c.tokbind tok.toNat
  let i := firstFree (fun k => (s.copy k).isSome) (s.copies.length + 1) s.tick
  let cp : Copy :=
    { core := s.cur, user := c.user, ctx := c.ctxid, dst := dst, src := src, len := len, dstPages := dp, srcPages := sp,
      leaves := s.leavesOf s.cur c.ctx src len ++ s.leavesOf s.cur c.ctx dst len,
      tok := tok.toNat, sc := sc, bind := if bitOf b.toNat 12 then some (b.toNat % 4096) else none, red := red, moved := [] }
  (s.setCopy i (some cp)).setMe ((c.setTok tok.toNat (c.tok tok.toNat + 1)).advance n)

/-- The walks of the pages of a range before the one of `va`, which failed, counted (R161). -/
def State.coreWalkTo (s : State) (base va : Nat) : State := if va / 65536 = base / 65536 then s else s.coreWalk base (va - base)

/-- A copy form of `n` bytes (R288, R290). -/
def State.copyForm (s : State) (rd ra rb : SReg) (tok : BitVec 3) (sc : Scope) (wait : BitVec 8)
    (red : Option (RedOp × RedTy)) (n : Nat) : Out :=
  let d := s.readS rd
  let a := s.readS ra
  let len := s.readS rb
  if s.me.waits wait ∨ s.me.tok tok.toNat = 15 then .next s
  else match redMisaligned red [d, a, len] with
    | some v => .next (s.trap causeMisaligned v)
    | none =>
      if len = 0 then .next (s.skip n)
      else if 2 ^ 30 < len.toNat then .next (s.trap causeAccess len)
      else match s.copyPages .load a.toNat (pagesOf a.toNat len.toNat) with
        | .error va => s.reachFaultOf (s.coreWalkTo a.toNat va) .load va
        | .ok sp => match s.copyPages .store d.toNat (pagesOf d.toNat len.toNat) with
          | .error va => s.reachFaultOf ((s.coreWalk a.toNat len.toNat).coreWalkTo d.toNat va) .store va
          | .ok dp => .next (((s.coreWalk a.toNat len.toNat).coreWalk d.toNat len.toNat).copyStart d.toNat a.toNat len.toNat dp sp tok sc red n)

/-- R288 COPY. -/
def execCopy (rd ra rb : SReg) (tok : BitVec 3) (sc : Scope) (s : State) : Out := s.copyForm rd ra rb tok sc 0 none 4

/-- R288 COPY_EXT. -/
def execCopyExt (rd ra rb : SReg) (tok : BitVec 3) (sc : Scope) (wait : BitVec 8) (s : State) : Out :=
  s.copyForm rd ra rb tok sc wait none 8

/-- R290 COPY_RED. -/
def execCopyRed (rd ra rb : SReg) (tok : BitVec 3) (sc : Scope) (wait : BitVec 8) (op : RedOp) (ty : RedTy) (s : State) : Out :=
  s.copyForm rd ra rb tok sc wait (some (op, ty)) 8

end Sys2Proof.Machine
end

