-- ==== Sys2Proof/Machine/CoreImm.lean ====
section
/-! DEFINITION. The immediate forms of a control core (R100): the immediate is imm12, or the 44-bit value an extension word
completes, sign-extended; the pc moves by 4, or by 8 with the extension word. -/

namespace Sys2Proof.Machine

/-- rd := f(ra, imm), of a word of `n` bytes. -/
def State.aluImm (s : State) (f : W64 → W64 → W64) (rd : DReg) (ra : SReg) (imm : W64) (n : Nat) : Out :=
  .next (s.finish rd (f (s.readS ra) imm) n)

/-- qd := f(ra, imm), of a word of `n` bytes. -/
def State.cmpImm (s : State) (f : W64 → W64 → Bool) (qd : QReg) (ra : SReg) (imm : W64) (n : Nat) : Out :=
  .next (s.finishQ qd (f (s.readS ra) imm) n)

/-- R100 ADDI. -/
def execAddi (rd : DReg) (ra : SReg) (imm : BitVec 12) (s : State) : Out :=
  s.aluImm (fun a b => a + b) rd ra (imm.signExtend 64) 4

/-- R100 ADDI_EXT. -/
def execAddiExt (rd : DReg) (ra : SReg) (imm : BitVec 44) (s : State) : Out :=
  s.aluImm (fun a b => a + b) rd ra (imm.signExtend 64) 8

/-- R100 SUBI. -/
def execSubi (rd : DReg) (ra : SReg) (imm : BitVec 12) (s : State) : Out :=
  s.aluImm (fun a b => a - b) rd ra (imm.signExtend 64) 4

/-- R100 SUBI_EXT. -/
def execSubiExt (rd : DReg) (ra : SReg) (imm : BitVec 44) (s : State) : Out :=
  s.aluImm (fun a b => a - b) rd ra (imm.signExtend 64) 8

/-- R100 ANDI. -/
def execAndi (rd : DReg) (ra : SReg) (imm : BitVec 12) (s : State) : Out :=
  s.aluImm (fun a b => a &&& b) rd ra (imm.signExtend 64) 4

/-- R100 ANDI_EXT. -/
def execAndiExt (rd : DReg) (ra : SReg) (imm : BitVec 44) (s : State) : Out :=
  s.aluImm (fun a b => a &&& b) rd ra (imm.signExtend 64) 8

/-- R100 ORI. -/
def execOri (rd : DReg) (ra : SReg) (imm : BitVec 12) (s : State) : Out :=
  s.aluImm (fun a b => a ||| b) rd ra (imm.signExtend 64) 4

/-- R100 ORI_EXT. -/
def execOriExt (rd : DReg) (ra : SReg) (imm : BitVec 44) (s : State) : Out :=
  s.aluImm (fun a b => a ||| b) rd ra (imm.signExtend 64) 8

/-- R100 XORI. -/
def execXori (rd : DReg) (ra : SReg) (imm : BitVec 12) (s : State) : Out :=
  s.aluImm (fun a b => a ^^^ b) rd ra (imm.signExtend 64) 4

/-- R100 XORI_EXT. -/
def execXoriExt (rd : DReg) (ra : SReg) (imm : BitVec 44) (s : State) : Out :=
  s.aluImm (fun a b => a ^^^ b) rd ra (imm.signExtend 64) 8

/-- R100 MULI. -/
def execMuli (rd : DReg) (ra : SReg) (imm : BitVec 12) (s : State) : Out :=
  s.aluImm (fun a b => a * b) rd ra (imm.signExtend 64) 4

/-- R100 MULI_EXT. -/
def execMuliExt (rd : DReg) (ra : SReg) (imm : BitVec 44) (s : State) : Out :=
  s.aluImm (fun a b => a * b) rd ra (imm.signExtend 64) 8

/-- R100 SHLI: the amount is imm12[5:0]. -/
def execShli (rd : DReg) (ra : SReg) (n : BitVec 6) (s : State) : Out := s.aluImm shiftL64 rd ra (n.setWidth 64) 4

/-- R100 SHRI: the amount is imm12[5:0]. -/
def execShri (rd : DReg) (ra : SReg) (n : BitVec 6) (s : State) : Out := s.aluImm shiftR64 rd ra (n.setWidth 64) 4

/-- R100 SRAI: the amount is imm12[5:0]. -/
def execSrai (rd : DReg) (ra : SReg) (n : BitVec 6) (s : State) : Out := s.aluImm shiftA64 rd ra (n.setWidth 64) 4

/-- R100 CMPEQI. -/
def execCmpeqi (qd : QReg) (ra : SReg) (imm : BitVec 12) (s : State) : Out :=
  s.cmpImm (fun a b => a == b) qd ra (imm.signExtend 64) 4

/-- R100 CMPEQI_EXT. -/
def execCmpeqiExt (qd : QReg) (ra : SReg) (imm : BitVec 44) (s : State) : Out :=
  s.cmpImm (fun a b => a == b) qd ra (imm.signExtend 64) 8

/-- R100 CMPNEI. -/
def execCmpnei (qd : QReg) (ra : SReg) (imm : BitVec 12) (s : State) : Out :=
  s.cmpImm (fun a b => a != b) qd ra (imm.signExtend 64) 4

/-- R100 CMPNEI_EXT. -/
def execCmpneiExt (qd : QReg) (ra : SReg) (imm : BitVec 44) (s : State) : Out :=
  s.cmpImm (fun a b => a != b) qd ra (imm.signExtend 64) 8

/-- R100 CMPLTI. -/
def execCmplti (qd : QReg) (ra : SReg) (imm : BitVec 12) (s : State) : Out :=
  s.cmpImm ltS qd ra (imm.signExtend 64) 4

/-- R100 CMPLTI_EXT. -/
def execCmpltiExt (qd : QReg) (ra : SReg) (imm : BitVec 44) (s : State) : Out :=
  s.cmpImm ltS qd ra (imm.signExtend 64) 8

/-- R100 CMPGEI. -/
def execCmpgei (qd : QReg) (ra : SReg) (imm : BitVec 12) (s : State) : Out :=
  s.cmpImm (fun a b => !ltS a b) qd ra (imm.signExtend 64) 4

/-- R100 CMPGEI_EXT. -/
def execCmpgeiExt (qd : QReg) (ra : SReg) (imm : BitVec 44) (s : State) : Out :=
  s.cmpImm (fun a b => !ltS a b) qd ra (imm.signExtend 64) 8

/-- R100 CMPLTI_N64. -/
def execCmpltiN64 (qd : QReg) (ra : SReg) (imm : BitVec 12) (s : State) : Out :=
  s.cmpImm ltU qd ra (imm.signExtend 64) 4

/-- R100 CMPLTI_N64_EXT. -/
def execCmpltiN64Ext (qd : QReg) (ra : SReg) (imm : BitVec 44) (s : State) : Out :=
  s.cmpImm ltU qd ra (imm.signExtend 64) 8

/-- R100 CMPGEI_N64. -/
def execCmpgeiN64 (qd : QReg) (ra : SReg) (imm : BitVec 12) (s : State) : Out :=
  s.cmpImm (fun a b => !ltU a b) qd ra (imm.signExtend 64) 4

/-- R100 CMPGEI_N64_EXT. -/
def execCmpgeiN64Ext (qd : QReg) (ra : SReg) (imm : BitVec 44) (s : State) : Out :=
  s.cmpImm (fun a b => !ltU a b) qd ra (imm.signExtend 64) 8

end Sys2Proof.Machine
end

