-- ==== Sys2Proof/Machine/CoreSys.lean ====
section
/-! DEFINITION. The system forms of a control core: system registers (R78, R79, R108), traps and returns (R109, R138), token
waits (R110), idling (R111), TLB invalidation (R214). -/

namespace Sys2Proof.Machine

/-- The system registers of R78. -/
inductive SysReg where
  | cstat | tepc | tcause | tval | tstat | tvec | wbase | wfill | splb | spll | spp | ovfp | ovfn | ctxid
  deriving DecidableEq, Repr

/-- The register of a number (R78); a number absent from the table has none. -/
def sysRegOf : Nat → Option SysReg
  | 0 => some .cstat
  | 1 => some .tepc
  | 2 => some .tcause
  | 3 => some .tval
  | 4 => some .tstat
  | 5 => some .tvec
  | 8 => some .wbase
  | 9 => some .wfill
  | 10 => some .splb
  | 11 => some .spll
  | 12 => some .spp
  | 13 => some .ovfp
  | 14 => some .ovfn
  | 16 => some .ctxid
  | _ => none

/-- A system register, zero-extended to 64 bits (R108). -/
def Core.readSys (c : Core) : SysReg → W64
  | .cstat => c.cstat
  | .tepc => c.tepc
  | .tcause => c.tcause
  | .tval => c.tval
  | .tstat => c.tstat
  | .tvec => c.tvec
  | .wbase => c.wbase.setWidth 64
  | .wfill => c.wfill.setWidth 64
  | .splb => c.splb
  | .spll => c.spll
  | .spp => c.spp
  | .ovfp => c.ovfp
  | .ovfn => c.ovfn.setWidth 64
  | .ctxid => c.ctxid.setWidth 64

/-- WFILL as a write stores it: bits [7:3], and 224 for a value above it (R78). -/
def wfillOf (v : W64) : BitVec 8 := BitVec.ofNat 8 (min (fld v.toNat 3 5 * 8) 224)

/-- A system register written, reserved bits ignored (R4, R78); `sup` is the supervisor form of the spill registers. -/
def Core.writeSys (c : Core) (sup : Bool) (r : SysReg) (v : W64) : Core :=
  match r with
  | .cstat => { c with cstat := keepBits v 1 0 }
  | .tepc => { c with tepc := v }
  | .tcause => { c with tcause := keepBits v 15 0 }
  | .tval => { c with tval := v }
  | .tstat => { c with tstat := v }
  | .tvec => { c with tvec := keepBits v 63 2 }
  | .wbase => { c with wbase := BitVec.ofNat 8 (fld v.toNat 3 5 * 8) }
  | .wfill => { c with wfill := wfillOf v }
  | .splb => { c with splb := keepBits v (if sup then 55 else 18) 3 }
  | .spll => { c with spll := keepBits v (if sup then 31 else 19) 3 }
  | .spp => { c with spp := keepBits v (if sup then 55 else 18) 3 }
  | .ovfp => { c with ovfp := keepBits v 55 3 }
  | .ovfn => { c with ovfn := v.setWidth 32 }
  | .ctxid => { c with ctxid := v.setWidth 20 }

/-- R108 MFSR. -/
def execMfsr (rd : DReg) (n : BitVec 12) (s : State) : Out :=
  match sysRegOf n.toNat with
  | some r => .next (s.finish rd (s.me.readSys r) 4)
  | none => .next s.illegal

/-- R108 MTSR: every register of R78 has access P. -/
def execMtsr (n : BitVec 12) (ra : SReg) (s : State) : Out :=
  match sysRegOf n.toNat with
  | some r =>
    if s.me.user then .next s.privileged
    else .next (s.setMe ((s.me.writeSys (isSup s.cur) r (s.readS ra)).advance 4))
  | none => .next s.illegal

/-- R109 TRAP: TVAL is n, and TEPC the address of the next word. -/
def execTrap (n : BitVec 12) (s : State) : Out := .next (s.trapAt causeSoftware (n.setWidth 64) (s.me.pc + 4))

/-- R138 TREEN. -/
def execTreen (s : State) : Out :=
  if s.me.user then .next s.privileged
  else .next (s.setMe ({ s.me with cstat := s.me.cstat ||| 1 }.advance 4))

/-- R138 TRET. -/
def execTret (s : State) : Out := if s.me.user then .next s.privileged else .next s.trapReturn

/-- R110 WAITT: stalls while a named token is pending. -/
def execWaitt (mask : BitVec 8) (s : State) : Out := if s.me.waits mask then .next s else .next (s.skip 4)

/-- R111 IDLE: the core stops issuing at this word; IDLE_WAKE completes it. -/
def execIdle (s : State) : Out :=
  .next (s.setMe { s.me with run := .idle, idleTok := s.me.pendingToks, wake := false })

/-! ### TLB invalidation (R214) -/

/-- What an invalidation covers. -/
inductive TlbSel where
  | page (c va : Nat)
  | ctx (c : Nat)
  | all
  deriving DecidableEq, Repr

/-- Whether a TLB entry is dropped. -/
def TlbSel.drops : TlbSel → TlbEntry → Bool
  | .page c va, t => t.ctx == c && t.page == va / 2 ^ t.bits
  | .ctx c, t => t.ctx == c
  | .all, _ => true

/-- Whether an invalidation covers a stalled stream's failing address: its context, and the page that now maps the address,
or its 64 KiB page where none does. -/
def State.tlbCovers (s : State) (x : TlbSel) (k a : Nat) : Bool :=
  match x with
  | .page c va => k == c && (va / 65536 == a / 65536 ||
      match s.walk k a with
      | some (_, b) => va / 2 ^ b == a / 2 ^ b
      | none => false)
  | .ctx c => k == c
  | .all => true

/-- Whether an invalidation covers work of a context that was translated through some pages (R214). -/
def TlbSel.holds (x : TlbSel) (c : Nat) (leaves : List (Nat × Nat)) : Bool :=
  match x with
  | .page k va => c == k && leaves.any fun l => va / 2 ^ l.2 == l.1
  | .ctx k => c == k && !leaves.isEmpty
  | .all => !leaves.isEmpty

/-- The packets that a near-memory unit or a stack controller runs or holds. -/
def State.packets (s : State) : List Packet :=
  (s.nmus.flatMap fun p => p.2.cmd.toList ++ p.2.queue) ++ s.kstacks.flatMap fun p => p.2.queue

/-- Covered work translated before and not yet performed: the copies, and the commands of which an operand or the status word has been
translated. -/
def State.tlbWork (s : State) (x : TlbSel) : List Nat × List Nat :=
  (s.copies.filterMap fun p => match p.2 with
    | some c => if x.holds (c.ctx.toNat % 4096) c.leaves then some p.1 else none
    | none => none,
   (s.packets.filter fun k => x.holds (leAt k.bytes 4 2) k.leaves || x.holds k.posted.1 k.posted.2).map (·.id))

/-- What of that work is still not performed. -/
def State.stillBusy (s : State) (w : List Nat × List Nat) : List Nat × List Nat :=
  (w.1.filter fun i => (s.copy i).isSome, w.2.filter fun i => s.packets.any fun k => k.id == i)

/-- Stalled streams that the invalidation covers walk again (R213): they run once more. -/
def State.rewalk (s : State) (x : TlbSel) : State :=
  { s with agus := s.agus.map fun (i, a) =>
      (i, if a.st = .stalled ∧ s.tlbCovers x a.ctx.toNat a.failVa then { a with st := .running } else a) }

/-- The invalidation: the entries are dropped as it begins; it waits for the covered work; then streams restart and the
next word follows. While it waits, it is not fetched again, and asynchronous causes are held (R91). -/
def State.tlbInvalidate (s : State) (x : TlbSel) : State :=
  let w := match s.me.inval with
    | some w => s.stillBusy w
    | none => s.tlbWork x
  let t := { s with tlb := s.tlb.filter (fun e => !(x.drops e && s.me.inval.isNone)) }
  if w.1.isEmpty && w.2.isEmpty then
    let u := t.rewalk x
    u.setMe ({ u.me with inval := none, begun := none }.advance 4)
  else (t.setMe { t.me with inval := some w }).begin

/-- A tlbinv form: the value checks of R214, then the mode (R112). -/
def State.tlbForm (s : State) (bad : Bool) (x : TlbSel) : Out :=
  if bad then .next s.illegal else if s.me.user then .next s.privileged else .next (s.tlbInvalidate x)

/-- R214 TLBINV_PG. -/
def execTlbinvPg (ra rb : SReg) (s : State) : Out :=
  let a := (s.readS ra).toNat
  let b := (s.readS rb).toNat
  s.tlbForm (decide (2 ^ 56 ≤ a) || decide (2 ^ 12 ≤ b)) (.page b a)

/-- R214 TLBINV_CX. -/
def execTlbinvCx (rb : SReg) (s : State) : Out :=
  let b := (s.readS rb).toNat
  s.tlbForm (decide (2 ^ 12 ≤ b)) (.ctx b)

/-- R214 TLBINV_ALL. -/
def execTlbinvAll (s : State) : Out := s.tlbForm false .all

end Sys2Proof.Machine
end

