-- ==== Sys2Proof/Machine/ElemFp.lean ====
section
/-! DEFINITION. The floating-point and conversion E-words (R123-R128). -/

namespace Sys2Proof.Machine

/-- A result of the format's bits, as a lane. -/
def f32Res (r : Nat × Flags) : W32 × Flags := (BitVec.ofNat 32 r.1, r.2)

/-- A 16-bit word of two halves: each computed on its own, the flags ORed (R125). -/
def halves (f : Nat → Nat → Nat → Nat × Flags) (a b c : W32) : W32 × Flags :=
  let lo := f (fld a.toNat 0 16) (fld b.toNat 0 16) (fld c.toNat 0 16)
  let hi := f (fld a.toNat 16 16) (fld b.toNat 16 16) (fld c.toNat 16 16)
  (BitVec.ofNat 32 (lo.1 % 65536 + 65536 * (hi.1 % 65536)), lo.2 ||| hi.2)

/-- FP32 words of one, two and three sources. -/
def State.fp1 (s : State) (w : EArgs) (f : Nat → Nat × Flags) : Out :=
  s.word1 .f32 w fun a => fpLane s.fpten (f32Res (f a.toNat))
def State.fp2 (s : State) (w : EArgs) (f : Nat → Nat → Nat × Flags) : Out :=
  s.word2 .f32 w fun a b => fpLane s.fpten (f32Res (f a.toNat b.toNat))
def State.fp3 (s : State) (w : EArgs) (f : Nat → Nat → Nat → Nat × Flags) : Out :=
  s.word3 .f32 w fun a b c => fpLane s.fpten (f32Res (f a.toNat b.toNat c.toNat))

/-- 16-bit words of two and three sources. -/
def State.half2 (s : State) (g : Fmt) (w : EArgs) (f : Nat → Nat → Nat × Flags) : Out :=
  s.word2 (.halves g) w fun a b => fpLane s.fpten (halves (fun x y _ => f x y) a b 0)
def State.half3 (s : State) (g : Fmt) (w : EArgs) (f : Nat → Nat → Nat → Nat × Flags) : Out :=
  s.word3 (.halves g) w fun a b c => fpLane s.fpten (halves f a b c)

/-- A field of `width` bits at position k of a lane replaced (R126). -/
def putField (m : W32) (width k y : Nat) : W32 :=
  let mask : W32 := (BitVec.ofNat 32 (2 ^ width - 1)) <<< (width * k)
  (m &&& ~~~mask) ||| ((BitVec.ofNat 32 y <<< (width * k)) &&& mask)

/-- A narrowing conversion: source A to the format, into the field of C that literal B names (R126). -/
def State.narrow (s : State) (g : Fmt) (sat : Bool) (w : EArgs) : Out :=
  .next (s.write w.dst w.pred fun i =>
    let a := s.src .f32 w.a i
    let c := s.src .f32 w.c i
    let y := convertBits fmtF32 g sat a.1.toNat
    let r := fpLane s.fpten (putField c.1 g.width w.b.raw y.1, y.2)
    { r with poison := r.poison || a.2 || c.2 })

/-- A widening conversion: the field of A that literal B names, exactly to FP32 (R127). -/
def State.widen (s : State) (g : Fmt) (w : EArgs) : Out :=
  s.word1 .f32 w fun a => fpLane s.fpten (f32Res (convertBits g fmtF32 false (fld a.toNat (g.width * w.b.raw) g.width)))

/-- FP32 to an integer of range lo to hi (R128, R48). -/
def toIntRes (lo hi : Int) (a : W32) : W32 × Flags :=
  let r := (fmtF32.decode a.toNat).toIntSat lo hi
  (BitVec.ofInt 32 r.1, r.2)

/-- add.f32 (R123, R124). -/
def execAddF32 (w : EArgs) (s : State) : Out := s.fp2 w fmtF32.addBits

/-- sub.f32 (R123, R124). -/
def execSubF32 (w : EArgs) (s : State) : Out := s.fp2 w fmtF32.subBits

/-- mul.f32 (R123, R124). -/
def execMulF32 (w : EArgs) (s : State) : Out := s.fp2 w fmtF32.mulBits

/-- fma.f32 (R123, R124). -/
def execFmaF32 (w : EArgs) (s : State) : Out := s.fp3 w fmtF32.fmaBits

/-- fnma.f32 (R123, R124). -/
def execFnmaF32 (w : EArgs) (s : State) : Out := s.fp3 w fmtF32.fnmaBits

/-- min.f32 (R124). -/
def execMinF32 (w : EArgs) (s : State) : Out := s.fp2 w (fmtF32.minMax false)

/-- max.f32 (R124). -/
def execMaxF32 (w : EArgs) (s : State) : Out := s.fp2 w (fmtF32.minMax true)

/-- div.f32 (R123, R124). -/
def execDivF32 (w : EArgs) (s : State) : Out := s.fp2 w fmtF32.divBits

/-- sqrt.f32 (R123, R124). -/
def execSqrtF32 (w : EArgs) (s : State) : Out := s.fp1 w fmtF32.sqrtBits

/-- abs.f32 (R123, R124). -/
def execAbsF32 (w : EArgs) (s : State) : Out := s.fp1 w fmtF32.absBits

/-- neg.f32 (R123, R124). -/
def execNegF32 (w : EArgs) (s : State) : Out := s.fp1 w fmtF32.negBits

/-- add.f16 (R125). -/
def execAddF16 (w : EArgs) (s : State) : Out := s.half2 fmtF16 w fmtF16.addBits

/-- mul.f16 (R125). -/
def execMulF16 (w : EArgs) (s : State) : Out := s.half2 fmtF16 w fmtF16.mulBits

/-- fma.f16 (R125). -/
def execFmaF16 (w : EArgs) (s : State) : Out := s.half3 fmtF16 w fmtF16.fmaBits

/-- fma.bf16 (R125). -/
def execFmaBf16 (w : EArgs) (s : State) : Out := s.half3 fmtBF16 w fmtBF16.fmaBits

/-- cvt.f32.i32 (R128). -/
def execCvtF32I32 (w : EArgs) (s : State) : Out := s.word1 .int w fun a => fpLane s.fpten (f32Res (fmtF32.ofIntRound a.toInt))

/-- cvt.f32.n32 (R128). -/
def execCvtF32N32 (w : EArgs) (s : State) : Out := s.word1 .int w fun a => fpLane s.fpten (f32Res (fmtF32.ofIntRound a.toNat))

/-- cvt.i32.f32 (R128). -/
def execCvtI32F32 (w : EArgs) (s : State) : Out := s.word1 .f32 w fun a => fpLane s.fpten (toIntRes (-2 ^ 31) (2 ^ 31 - 1) a)

/-- cvt.n32.f32 (R128). -/
def execCvtN32F32 (w : EArgs) (s : State) : Out := s.word1 .f32 w fun a => fpLane s.fpten (toIntRes 0 (2 ^ 32 - 1) a)

/-- cvt.f16.f32 (R126). -/
def execCvtF16F32 (w : EArgs) (s : State) : Out := s.narrow fmtF16 false w

/-- cvt.f16.f32.sat (R126). -/
def execCvtF16F32Sat (w : EArgs) (s : State) : Out := s.narrow fmtF16 true w

/-- cvt.bf16.f32 (R126). -/
def execCvtBf16F32 (w : EArgs) (s : State) : Out := s.narrow fmtBF16 false w

/-- cvt.bf16.f32.sat (R126). -/
def execCvtBf16F32Sat (w : EArgs) (s : State) : Out := s.narrow fmtBF16 true w

/-- cvt.e4m3.f32 (R126). -/
def execCvtE4m3F32 (w : EArgs) (s : State) : Out := s.narrow fmtE4M3 false w

/-- cvt.e4m3.f32.sat (R126). -/
def execCvtE4m3F32Sat (w : EArgs) (s : State) : Out := s.narrow fmtE4M3 true w

/-- cvt.e5m2.f32 (R126). -/
def execCvtE5m2F32 (w : EArgs) (s : State) : Out := s.narrow fmtE5M2 false w

/-- cvt.e5m2.f32.sat (R126). -/
def execCvtE5m2F32Sat (w : EArgs) (s : State) : Out := s.narrow fmtE5M2 true w

/-- cvt.f32.f16 (R127). -/
def execCvtF32F16 (w : EArgs) (s : State) : Out := s.widen fmtF16 w

/-- cvt.f32.bf16 (R127). -/
def execCvtF32Bf16 (w : EArgs) (s : State) : Out := s.widen fmtBF16 w

/-- cvt.f32.e4m3 (R127). -/
def execCvtF32E4m3 (w : EArgs) (s : State) : Out := s.widen fmtE4M3 w

/-- cvt.f32.e5m2 (R127). -/
def execCvtF32E5m2 (w : EArgs) (s : State) : Out := s.widen fmtE5M2 w

end Sys2Proof.Machine
end

