-- ==== Sys2Proof/Machine/ElemInt.lean ====
section
/-! DEFINITION. The integer and logical E-words (R121, R122). -/

namespace Sys2Proof.Machine

/-- A clean result without a flag. -/
def clean (v : W32) : LaneRes := LaneRes.pure v false

/-- A sum clamped to a range, as 32 bits (R121). -/
def clamp32 (lo hi v : Int) : W32 := BitVec.ofInt 32 (max lo (min hi v))

/-- Leading zeros, trailing zeros and one bits of a lane, 0-32 (R121). -/
def clz32 (v : W32) : W32 := if v = 0 then 32 else BitVec.ofNat 32 (31 - Nat.log2 v.toNat)
def ctz32 (v : W32) : W32 := BitVec.ofNat 32 (((List.range 32).find? v.getLsbD).getD 32)
def popc32 (v : W32) : W32 := BitVec.ofNat 32 ((List.range 32).countP v.getLsbD)

/-- The low `w` bits of a lane; 32 or more keep all (R122). -/
def lowMask32 (w : Nat) : W32 := if 32 ≤ w then 0xFFFFFFFF else (1#32 <<< w) - 1

/-- `bfx`: width c[5:0], at most 32, from bit b[4:0]. -/
def bfx32 (a b c : W32) : W32 := (a >>> fld b.toNat 0 5) &&& lowMask32 (fld c.toNat 0 6)

/-- `bfi`: the low bits of `a` put into `c` at bit b[4:0], width b[13:8]. -/
def bfi32 (a b c : W32) : W32 :=
  let m := lowMask32 (fld b.toNat 8 6) <<< fld b.toNat 0 5
  (c &&& ~~~m) ||| ((a <<< fld b.toNat 0 5) &&& m)

/-- add.i32 (R121). -/
def execAddI32 (w : EArgs) (s : State) : Out := s.word2 .int w fun a b => clean (a + b)

/-- sub.i32 (R121). -/
def execSubI32 (w : EArgs) (s : State) : Out := s.word2 .int w fun a b => clean (a - b)

/-- mul.i32 (R121). -/
def execMulI32 (w : EArgs) (s : State) : Out := s.word2 .int w fun a b => clean (a * b)

/-- mulh.i32 (R121). -/
def execMulhI32 (w : EArgs) (s : State) : Out := s.word2 .int w fun a b => clean (BitVec.ofInt 32 (a.toInt * b.toInt / 2 ^ 32))

/-- mulh.n32 (R121). -/
def execMulhN32 (w : EArgs) (s : State) : Out := s.word2 .int w fun a b => clean (BitVec.ofNat 32 (a.toNat * b.toNat / 2 ^ 32))

/-- mad.i32 (R121). -/
def execMadI32 (w : EArgs) (s : State) : Out := s.word3 .int w fun a b c => clean (a * b + c)

/-- min.i32 (R121). -/
def execMinI32 (w : EArgs) (s : State) : Out := s.word2 .int w fun a b => clean (if a.slt b then a else b)

/-- max.i32 (R121). -/
def execMaxI32 (w : EArgs) (s : State) : Out := s.word2 .int w fun a b => clean (if a.slt b then b else a)

/-- min.n32 (R121). -/
def execMinN32 (w : EArgs) (s : State) : Out := s.word2 .int w fun a b => clean (if a.ult b then a else b)

/-- max.n32 (R121). -/
def execMaxN32 (w : EArgs) (s : State) : Out := s.word2 .int w fun a b => clean (if a.ult b then b else a)

/-- abs.i32 (R121). -/
def execAbsI32 (w : EArgs) (s : State) : Out := s.word1 .int w fun a => clean (if a.msb then -a else a)

/-- adds.i32 (R121). -/
def execAddsI32 (w : EArgs) (s : State) : Out := s.word2 .int w fun a b => clean (clamp32 (-2 ^ 31) (2 ^ 31 - 1) (a.toInt + b.toInt))

/-- subs.i32 (R121). -/
def execSubsI32 (w : EArgs) (s : State) : Out := s.word2 .int w fun a b => clean (clamp32 (-2 ^ 31) (2 ^ 31 - 1) (a.toInt - b.toInt))

/-- adds.n32 (R121). -/
def execAddsN32 (w : EArgs) (s : State) : Out := s.word2 .int w fun a b => clean (clamp32 0 (2 ^ 32 - 1) (a.toNat + b.toNat))

/-- subs.n32 (R121). -/
def execSubsN32 (w : EArgs) (s : State) : Out := s.word2 .int w fun a b => clean (clamp32 0 (2 ^ 32 - 1) ((a.toNat : Int) - b.toNat))

/-- and (R121). -/
def execEAnd (w : EArgs) (s : State) : Out := s.word2 .int w fun a b => clean (a &&& b)

/-- or (R121). -/
def execEOr (w : EArgs) (s : State) : Out := s.word2 .int w fun a b => clean (a ||| b)

/-- xor (R121). -/
def execEXor (w : EArgs) (s : State) : Out := s.word2 .int w fun a b => clean (a ^^^ b)

/-- andn (R121). -/
def execEAndn (w : EArgs) (s : State) : Out := s.word2 .int w fun a b => clean (a &&& ~~~b)

/-- shl (R121). -/
def execEShl (w : EArgs) (s : State) : Out := s.word2 .int w fun a b => clean (a <<< fld b.toNat 0 5)

/-- shr (R121). -/
def execEShr (w : EArgs) (s : State) : Out := s.word2 .int w fun a b => clean (a >>> fld b.toNat 0 5)

/-- sra (R121). -/
def execESra (w : EArgs) (s : State) : Out := s.word2 .int w fun a b => clean (a.sshiftRight (fld b.toNat 0 5))

/-- rol (R121). -/
def execRol (w : EArgs) (s : State) : Out := s.word2 .int w fun a b => clean (a.rotateLeft (fld b.toNat 0 5))

/-- popc (R121). -/
def execEPopc (w : EArgs) (s : State) : Out := s.word1 .int w fun a => clean (popc32 a)

/-- clz (R121). -/
def execEClz (w : EArgs) (s : State) : Out := s.word1 .int w fun a => clean (clz32 a)

/-- ctz (R121). -/
def execECtz (w : EArgs) (s : State) : Out := s.word1 .int w fun a => clean (ctz32 a)

/-- bfx (R122). -/
def execBfx (w : EArgs) (s : State) : Out := s.word3 .int w fun a b c => clean (bfx32 a b c)

/-- bfi (R122). -/
def execBfi (w : EArgs) (s : State) : Out := s.word3 .int w fun a b c => clean (bfi32 a b c)

end Sys2Proof.Machine
end

