-- ==== Sys2Proof/Machine/ElemLink.lean ====
section
/-! DEFINITION. The link and port E-words (R187-R192). -/

namespace Sys2Proof.Machine

/-- lrecv: the slot is emptied at issue and its lanes land at +4; a wholly nullified or squashed receive empties nothing
(R188, R189). -/
def execLrecv (w : EArgs) (s : State) : Out :=
  let d := dirOf w.a.raw
  let k := s.myElem.slot d
  if s.active w.pred = 0 then .next (s.write w.dst w.pred fun _ => LaneRes.pure 0 false)
  else if !k.full then .next s.flyNothing
  else .next ((s.takeSlot d).write w.dst w.pred fun i => LaneRes.pure (k.lane i).1 (k.lane i).2)

/-- stin: two entries of the port are popped at issue and land at +4 (R188, R192). -/
def execStin (w : EArgs) (s : State) : Out :=
  if s.active w.pred = 0 then .next (s.write w.dst w.pred fun _ => LaneRes.pure 0 false)
  else match s.popPair w.a.raw with
    | none => .next s.flyNothing
    | some (a, b, t) => .next (t.write w.dst w.pred fun i => LaneRes.pure (pairLane a b i).1 (pairLane a b i).2)

/-- lpoll: 1 in every lane if the slot holds a landed value, else 0; it never holds (R188). -/
def execLpoll (w : EArgs) (s : State) : Out :=
  .next (s.write w.dst w.pred fun _ => LaneRes.pure (if (s.myElem.slot (dirOf w.a.raw)).full then 1 else 0) false)

end Sys2Proof.Machine
end

