-- ==== Sys2Proof/Machine/ElemMask.lean ====
section
/-! DEFINITION. The select, compare, mask and special E-words (R129-R135). -/

namespace Sys2Proof.Machine

/-- A bit of a mask destination. -/
def bitRes (b : Bool) : LaneRes := LaneRes.pure (if b then 1 else 0) false

/-- sel: in each lane A's bit chooses between B and C; only the chosen one's poison counts (R129, R143). -/
def execESel (w : EArgs) (s : State) : Out :=
  .next (s.write w.dst w.pred fun i =>
    let m := (s.src .int w.a i).1
    let r := if m.getLsbD i then s.src .int w.b i else s.src .int w.c i
    LaneRes.pure r.1 (r.2 || (s.srcMaskP w.a).getLsbD i))

/-- cmpeq.i32 (R130). -/
def execCmpeqI32 (w : EArgs) (s : State) : Out := s.word2 .int w fun a b => bitRes (a == b)

/-- cmplt.i32 (R130). -/
def execCmpltI32 (w : EArgs) (s : State) : Out := s.word2 .int w fun a b => bitRes (a.slt b)

/-- cmple.i32 (R130). -/
def execCmpleI32 (w : EArgs) (s : State) : Out := s.word2 .int w fun a b => bitRes (a.sle b)

/-- cmplt.n32 (R130). -/
def execCmpltN32 (w : EArgs) (s : State) : Out := s.word2 .int w fun a b => bitRes (a.ult b)

/-- cmple.n32 (R130). -/
def execCmpleN32 (w : EArgs) (s : State) : Out := s.word2 .int w fun a b => bitRes (a.ule b)

/-- An FP compare: `ok` judges the order, `nan` what a NaN operand gives, `quietNV` whether a quiet NaN raises NV too (R130). -/
def fpCompare (ok : Ordering → Bool) (nan quietNV : Bool) (a b : W32) : W32 × Flags :=
  let x := fmtF32.decode a.toNat
  let y := fmtF32.decode b.toNat
  let sig := x.isSig || y.isSig
  match x.cmp y with
  | none => (if nan then 1 else 0, if quietNV || sig then flagNV else flagNone)
  | some o => (if ok o then 1 else 0, flagNone)

/-- cmpeq.f32 (R130). -/
def execCmpeqF32 (w : EArgs) (s : State) : Out :=
  s.word2 .f32 w fun a b => fpLane s.fpten (fpCompare (· == .eq) false false a b)

/-- cmplt.f32 (R130). -/
def execCmpltF32 (w : EArgs) (s : State) : Out :=
  s.word2 .f32 w fun a b => fpLane s.fpten (fpCompare (· == .lt) false true a b)

/-- cmple.f32 (R130). -/
def execCmpleF32 (w : EArgs) (s : State) : Out :=
  s.word2 .f32 w fun a b => fpLane s.fpten (fpCompare (· != .gt) false true a b)

/-- cmpun.f32 (R130). -/
def execCmpunF32 (w : EArgs) (s : State) : Out :=
  s.word2 .f32 w fun a b => fpLane s.fpten (fpCompare (fun _ => false) true false a b)

/-- A mask logic word: bit i from bit i of its masks, poison of either poisons it (R131, R143). -/
def State.maskWord (s : State) (w : EArgs) (f : Bool → Bool → Bool) : Out :=
  .next (s.write w.dst w.pred fun i =>
    let r := bitRes (f ((s.src .int w.a i).1.getLsbD i) ((s.src .int w.b i).1.getLsbD i))
    { r with poison := (s.srcMaskP w.a).getLsbD i || (s.srcMaskP w.b).getLsbD i })

/-- mand (R131). -/
def execMand (w : EArgs) (s : State) : Out := s.maskWord w (· && ·)

/-- mor (R131). -/
def execMor (w : EArgs) (s : State) : Out := s.maskWord w (· || ·)

/-- mxor (R131). -/
def execMxor (w : EArgs) (s : State) : Out := s.maskWord w (· != ·)

/-- mnot (R131). -/
def execMnot (w : EArgs) (s : State) : Out := s.maskWord w (fun a _ => !a)

/-- mlane: bits lo to hi, both read from lane 0 and clamped to 31 (R131). -/
def execMlane (w : EArgs) (s : State) : Out :=
  let a := s.src .int w.a 0
  let b := s.src .int w.b 0
  .next (s.write w.dst w.pred fun i =>
    let r := bitRes (decide (min a.1.toNat 31 ≤ i) && decide (i ≤ min b.1.toNat 31))
    { r with poison := a.2 || b.2 })

/-- The active mask bits of an `exitf` that are poisoned (R145). -/
def State.exitPoison (s : State) (w : EArgs) : W32 := s.active .always &&& s.srcMaskP w.a

/-- exitf: REXIT at +4 where an active lane's bit is set (R132); a poisoned active bit raises fault 6 instead and gates the
region (R145). -/
def execExitf (w : EArgs) (s : State) : Out :=
  let act := s.active .always
  if s.exitPoison w ≠ 0 then
    .next (s.flyIn 4 .nothing 0 (((List.range 32).find? (s.exitPoison w).getLsbD).map fun i => (6, i)))
  else if act &&& (s.src .int w.a 0).1 ≠ 0 then .next (s.fly (.exitf s.site.iter))
  else .next s.flyNothing

/-- nop (R133). -/
def execENop (_w : EArgs) (s : State) : Out := .next s.flyNothing

/-- mov (R133). -/
def execEMov (w : EArgs) (s : State) : Out := s.word1 .int w fun a => LaneRes.pure a false

/-- What `lane n` writes in lane `i` (R133). -/
def State.laneNumber (s : State) (n i : Nat) : Nat :=
  let x := s.site.el % 64
  let y := s.site.el % 2048 / 64
  match n with
  | 0 => i
  | 1 => x - s.site.g % 16 * 4
  | 2 => y - s.site.g % 128 / 16 * 4
  | _ => x % 4 + 4 * (y % 4)

/-- lane (R133). -/
def execLane (w : EArgs) (s : State) : Out :=
  .next (s.write w.dst w.pred fun i => LaneRes.pure (BitVec.ofNat 32 (s.laneNumber w.a.raw i)) false)

/-- The iteration number of R134: (j − T) mod 2^32 inside a loop, 0 outside any. -/
def State.iterNumber (s : State) : W32 :=
  match s.myRegion.span with
  | some _ => BitVec.ofInt 32 ((s.myRegion.itern : Int) - 1 - (s.site.tag : Int))
  | none => 0

/-- iter (R133, R134). -/
def execIter (w : EArgs) (s : State) : Out :=
  .next (s.write w.dst w.pred fun _ => LaneRes.pure s.iterNumber false)

/-- rdst: ESTAT as it stands at +0 (R133). -/
def execRdst (w : EArgs) (s : State) : Out :=
  .next (s.write w.dst w.pred fun _ => LaneRes.pure s.myElem.estat false)

/-- A word that changes ESTAT at +4 where the element is not quiet and the word is neither squashed nor nullified (R118). -/
def State.estatWord (s : State) (what : Land) : Out :=
  if s.active .always = 0 then .next s.flyNothing else .next (s.fly what)

/-- clrst: ESTAT[15:8] and ESTAT[4:0] cleared at +4 (R133, R135). -/
def execClrst (_w : EArgs) (s : State) : Out := s.estatWord .clrst

/-- kbsel: ESTAT.KBSEL at +4 (R133, R135). -/
def execKbsel (w : EArgs) (s : State) : Out := s.estatWord (.kbsel (BitVec.ofNat 2 w.a.raw))

end Sys2Proof.Machine
end

