-- ==== Sys2Proof/Machine/ElemMatrix.lean ====
section
/-! DEFINITION. The matrix feed and accumulator E-words (R329-R337). -/

namespace Sys2Proof.Machine

/-- The executing word acts where lane 0 is active (R329). -/
def State.lane0 (s : State) (p : EPred) : Bool := (s.active p).getLsbD 0

/-- A position: a literal, or bits [5:0] of a register; and its poison (R329). -/
def State.position (s : State) (x : ESrc) : Nat × Bool :=
  let a := s.src .int x 0
  (fld a.1.toNat 0 6, a.2)

/-- The selector fault of a matrix word; it belongs to no lane, and is recorded with lane 0 (log 102). -/
def State.selectorFault (s : State) : State := s.flyIn 4 .nothing 0 (some (7, 0))

/-- 128 bytes to feed, with the poison of each 4 bytes. -/
structure FeedData where
  bytes : List Byte
  poison : W32
  deriving DecidableEq, Repr

/-- The palette entry `tag` that a header of port `p`, still in flight, reloads. -/
def Flight.reloads (f : Flight) (p tag : Nat) : Option W32 :=
  match f.what with
  | .pal q vals => if q = p then (vals.find? fun v => v.1 == tag).map (·.2) else none
  | _ => none

/-- The palette entry a feed word uses: a header popped from its own port governs it at once (R330), a reload from any other
source from its landing (R37). -/
def Region.palFor (r : Region) (port : Option Nat) (tag : Nat) : W32 :=
  match port with
  | none => SMap.get 0 r.pal tag
  | some p => r.flight.foldl (fun pe f => (f.reloads p tag).getD pe) (SMap.get 0 r.pal tag)

/-- Whether any lane covering bytes off to off + n − 1 is poisoned. -/
def bytesPoisoned (psn : W32) (off n : Nat) : Bool :=
  (List.range 32).any fun l => psn.getLsbD l && decide (4 * l < off + n) && decide (off < 4 * l + 4)

/-- The slots a feed writes from position `pos` (R329). -/
def feedSlots (s : State) (isB : Bool) (pe : W32) (d : FeedData) (pos : Nat) (predP : Bool) : List (Nat × OpSlot) :=
  let z := tokenBytes (palFmt pe)
  let kv := SMap.get 0 (s.tile s.myTile).kbank (palKidx pe)
  let feeder := BitVec.ofNat 4 (s.site.el % 4 + 4 * (s.site.el / 64 % 4))
  ((List.range (128 / z)).filter fun t => decide (pos + t < (if isB then 64 else 32))).map fun t =>
    (pos + t, { OpSlot.reset with
      v := true, ent := pe, data := (d.bytes.drop (t * z)).take z, kv := kv, feeder := feeder,
      dp := bytesPoisoned d.poison (t * z) z || !palV pe || predP })

/-- Tokens fed into the slots of the element's tile at +4; a tag whose entry is not valid is element fault 3 (R329). -/
def State.feedWith (s : State) (isB : Bool) (w : EArgs) (port : Option Nat) (pos : Nat) (d : FeedData) : State :=
  let pe := s.myRegion.palFor port w.b.raw
  s.flyIn 4 (.feed s.myTile isB (feedSlots s isB pe d pos (s.predP w.pred 0))) 0 (if palV pe then none else some (3, 0))

/-- A tile packet header (R330). -/
structure Header where
  pals : List W32
  mask : Nat
  n : Nat
  ok : Bool
  deriving DecidableEq, Repr

def headerOf (a b : PEntry) : Header :=
  let bs := a.data ++ b.data
  let pals := (List.range 8).map fun i => BitVec.ofNat 32 (leAt bs (4 * i) 4)
  let mask := leAt bs 32 1
  ⟨pals, mask, leAt bs 34 2,
    leAt bs 33 1 == 0 && (bs.drop 36).all (· == 0) && a.poison == 0 && b.poison == 0
      && (List.range 8).all fun i => !(bitOf mask i && palRefused ((pals[i]?).getD 0))⟩

/-- What a feed word from port `p` would pop: a header where PKREM is 0 (R330). -/
def Region.headerNext (r : Region) (p : Nat) : Bool := SMap.get 0 r.pkrem p == 0

/-- A header popped from port `p`: PKREM now, the palette entries of its mask at +4. A header that is refused changes neither; its
region detects the configuration fault (R330). -/
def State.takeHeader (s : State) (p : Nat) (h : Header) : State :=
  if h.ok then
    let r := s.myRegion
    let t := s.setRegion s.site.g { r with pkrem := SMap.set 0 r.pkrem p (BitVec.ofNat 16 h.n) }
    t.fly (.pal p (((List.range 8).filter fun i => bitOf h.mask i).map fun i => (i, (h.pals[i]?).getD 0)))
  else s.flyNothing

/-- mfa and mfb (R329, R330). -/
def State.feed (s : State) (isB : Bool) (w : EArgs) : State :=
  let pos := s.position w.c
  if !s.lane0 w.pred then s.flyNothing
  else if pos.2 then s.selectorFault
  else match w.a with
  | .lit p =>
    match s.popPair p.toNat with
    | none => s.flyNothing
    | some (a, b, t) =>
      if s.myRegion.headerNext p.toNat then t.takeHeader p.toNat (headerOf a b)
      else
        let r := t.myRegion
        let u := t.setRegion s.site.g { r with pkrem := SMap.set 0 r.pkrem p.toNat (SMap.get 0 r.pkrem p.toNat - 1) }
        u.feedWith isB w (some p.toNat) pos.1 ⟨a.data ++ b.data, b.poison ++ a.poison⟩
  | x =>
    let lanes := (List.range 32).map fun i => s.src .int x i
    s.feedWith isB w none pos.1 ⟨lanes.flatMap fun l => leBytes 4 l.1.toNat, maskOf fun i => (s.src .int x i).2⟩

/-- mfa (R329). -/
def execMfa (w : EArgs) (s : State) : Out := .next (s.feed false w)

/-- mfb (R329). -/
def execMfb (w : EArgs) (s : State) : Out := .next (s.feed true w)

/-- The scales that `mfas` and `mfbs` write: slot, SC, SS, whether SS is written, SP (R331). -/
def State.scaleVals (s : State) (isB : Bool) (w : EArgs) (pos : Nat) : List (Nat × (W32 × W32 × Bool × Bool)) :=
  let l := fun i => s.src .int w.a i
  let pp := s.predP w.pred 0
  let all := if w.b.raw = 0 then
      (List.range 32).map fun t => (pos + t, ((l t).1, (0 : W32), false, (l t).2 || pp))
    else
      (List.range 16).map fun t => (pos + t, ((l (2 * t + 1)).1, (l (2 * t)).1, true, (l (2 * t)).2 || (l (2 * t + 1)).2 || pp))
  all.filter fun p => decide (p.1 < (if isB then 64 else 32))

/-- mfas and mfbs (R331). -/
def State.feedScales (s : State) (isB : Bool) (w : EArgs) : State :=
  let pos := s.position w.c
  if !s.lane0 w.pred then s.flyNothing
  else if pos.2 then s.selectorFault
  else s.fly (.scales s.myTile isB (s.scaleVals isB w pos.1))

/-- mfas (R331). -/
def execMfas (w : EArgs) (s : State) : Out := .next (s.feedScales false w)

/-- mfbs (R331). -/
def execMfbs (w : EArgs) (s : State) : Out := .next (s.feedScales true w)

/-- The entry that lane `l` of mode 0 or 1 names (R333). -/
def accKey (sel idx l : Nat) : Nat :=
  if sel / 4 % 4 = 0 then 2048 * (sel % 4) + 64 * l + idx
  else 2048 * (sel % 4) + 64 * (idx % 32) + 32 * (idx / 32) + l

/-- ard: an accumulator column, row or flags (R333); a poisoned index poisons what it writes and escapes (R329). -/
def execArd (w : EArgs) (s : State) : Out :=
  let sel := w.a.raw
  let idx := s.position w.b
  let t := s.tile s.myTile
  if sel / 4 = 2 then
    .next (s.write w.dst w.pred fun _ => LaneRes.pure ((SMap.get 0 t.aflag (sel % 4)).setWidth 32) false)
  else if idx.2 then
    let u := if s.active w.pred = 0 then s else s.flyIn 4 .nothing 0 (escape (s.active w.pred))
    .next (u.write w.dst w.pred fun i => LaneRes.pure (s.free i) true)
  else .next (s.write w.dst w.pred fun i =>
    LaneRes.pure (SMap.get 0 t.acc (accKey sel idx.1 i)) (SMap.get false t.accp (accKey sel idx.1 i)))

/-- awr: the active lanes into the entries that sel and idx name, at +4 (R334). One that meets a pass over its accumulator is a
configuration fault, which its region detects, and has no effect (R337). -/
def execAwr (w : EArgs) (s : State) : Out :=
  let sel := w.a.raw
  let idx := s.position w.b
  let act := s.active w.pred
  if act = 0 then .next s.flyNothing
  else if idx.2 then .next (s.flyIn 4 .nothing 0 (escape act))
  else if (s.tile s.myTile).accBusy (sel % 4) then .next s.flyNothing
  else
    .next ((s.touchAcc s.site.g s.myTile (sel % 4)).fly (.accw s.myTile
      (((List.range 32).filter fun i => act.getLsbD i).map fun i =>
        let v := s.src .int w.c i
        (accKey sel idx.1 i, (v.1, v.2 || s.predP w.pred i)))))

/-- aclr: flags and slot validity cleared at +4 (R335), under the same rules. -/
def execAclr (w : EArgs) (s : State) : Out :=
  let ctl := s.src .int w.a 0
  let c := fld ctl.1.toNat 0 5
  if !s.lane0 w.pred then .next s.flyNothing
  else if ctl.2 then .next s.selectorFault
  else if bitOf c 2 && (s.tile s.myTile).accBusy (c % 4) then .next s.flyNothing
  else .next (s.fly (.aclr s.myTile (BitVec.ofNat 5 c)))

end Sys2Proof.Machine
end

