-- ==== Sys2Proof/Machine/ElemPlane.lean ====
section
/-! DEFINITION. The plane store's words and the world's edges (R297-R312). -/

namespace Sys2Proof.Machine

/-! ### Sites (R297-R300) -/

/-- A site's value and its poison bit. -/
abbrev Site16 := W16 × Bool

/-- Site (x, y) of plane `n` of an element. -/
def Elem.site (e : Elem) (n x y : Nat) : Site16 :=
  (SMap.get 0 e.planes (1024 * n + 32 * y + x), (SMap.get 0 e.pp (32 * n + y)).getLsbD x)

/-- The edge modes of GBND (R89). -/
inductive EdgeMode where
  | wrap | fixed | reflect | clamp
  deriving DecidableEq, Repr

def edgeMode : Nat → EdgeMode
  | 0 => .wrap
  | 1 => .fixed
  | 2 => .reflect
  | _ => .clamp

/-- edge_map of R300, for a coordinate one step beyond a world of `w` sites. -/
def edgeMap (m : EdgeMode) (z w : Int) : Int :=
  match m with
  | .wrap => z % w
  | .clamp => if z < 0 then 0 else w - 1
  | .reflect => if z < 0 then -z else 2 * (w - 1) - z
  | .fixed => z

/-- The world an element sees: its size in sites, its modes and its fixed values; and where the element stands in it. -/
structure World where
  wx : Nat
  wy : Nat
  c : Nat
  r : Nat
  gr : GRegs
  alone : Bool      -- the element lies outside the region's world (R299)
  deriving DecidableEq, Repr

/-- The world of an element of region `g` (R299). -/
def State.world (s : State) (g el : Nat) : World :=
  let gr := (s.region g).gr
  let c := el % 64 - g % 16 * 4
  let r := el % 2048 / 64 - g % 128 / 16 * 4
  let ex := fld gr.gext.toNat 0 6 + 1
  let ey := fld gr.gext.toNat 8 6 + 1
  if c < ex ∧ r < ey then ⟨32 * ex, 32 * ey, c, r, gr, false⟩
  else ⟨32, 32, 0, 0, { GRegs.reset with gbnd := 0x55 }, true⟩

/-- One coordinate resolved: a fixed value, or a coordinate inside the world. -/
inductive Resolved where
  | fixed (v : W16)
  | at (z : Nat)
  deriving DecidableEq, Repr

/-- A coordinate against its two edges, each with a mode and a fixed value (R300). -/
def resolve (z : Int) (w : Nat) (loMode hiMode : Nat) (loFix hiFix : W16) : Resolved :=
  if z < 0 then
    match edgeMode loMode with
    | .fixed => .fixed loFix
    | m => .at (edgeMap m z w).toNat
  else if (w : Int) ≤ z then
    match edgeMode hiMode with
    | .fixed => .fixed hiFix
    | m => .at (edgeMap m z w).toNat
  else .at z.toNat

/-- The element of a world at column c and row r. -/
def World.elemAt (wd : World) (g el c r : Nat) : Nat :=
  if wd.alone then el else elemOfTile g 0 0 + 64 * r + c

/-- site_value of R300 for the site (x + dx, y + dy) of an element: the horizontal edge is resolved first. -/
def State.siteValue (s : State) (g el n : Nat) (x y dx dy : Int) : Site16 :=
  let wd := s.world g el
  let gb := wd.gr.gbnd.toNat
  match resolve (32 * (wd.c : Int) + x + dx) wd.wx (fld gb 0 2) (fld gb 4 2) wd.gr.gfixw wd.gr.gfixe with
  | .fixed v => (v, false)
  | .at X =>
    match resolve (32 * (wd.r : Int) + y + dy) wd.wy (fld gb 6 2) (fld gb 2 2) wd.gr.gfixn wd.gr.gfixs with
    | .fixed v => (v, false)
    | .at Y => (s.elem (wd.elemAt g el (X / 32) (Y / 32))).site n (X % 32) (Y % 32)

/-- The unit step of a direction, east +x and south +y (R63, R304). -/
def stepOf : Nat → Int × Int
  | 0 => (0, -1)
  | 1 => (1, -1)
  | 2 => (1, 0)
  | 3 => (1, 1)
  | 4 => (0, 1)
  | 5 => (-1, 1)
  | 6 => (-1, 0)
  | _ => (-1, -1)

/-! ### Sources and results of a plane word (R301-R303) -/

/-- The plane a source names. -/
def planeNo : ESrc → Nat
  | .p n => n.toNat
  | _ => 0

/-- What a source supplies at a site: a plane its site, another source the same 16 bits everywhere (R303). -/
def State.psrc (s : State) (x : ESrc) (sx sy : Nat) : Site16 :=
  match x with
  | .p n => s.myElem.site n.toNat sx sy
  | _ => let a := s.src .int x 0; (a.1.setWidth 16, a.2)

/-- A position that a literal or the low `bits` bits of a register give, and whether it is poisoned. -/
def State.selector (s : State) (x : ESrc) (bits : Nat) : Nat × Bool :=
  let a := s.src .int x 0
  (fld a.1.toNat 0 bits, a.2)

/-- The plane a destination names. -/
def dstPlane : EDst → Nat
  | .p n => n.toNat
  | _ => 0

/-- A result site; under a poisoned predicate bit it is poisoned, and the value of a poisoned site is free (R302; log 9). -/
def State.siteOut (s : State) (p : EPred) (f : Nat → Nat → Site16) (x y : Nat) : Site16 :=
  let r := f x y
  if r.2 || s.predP p y then ((s.free (32 * y + x)).setWidth 16, true) else r

/-- A word that writes rows `rows` of a plane at +4: `f` gives each site (R302).
The word occupies the plane unit for four cycles; one that finds it occupied is a configuration fault, which its region
detects (R301), and has no effect. -/
def State.planeWord (s : State) (w : EArgs) (rows : W32) (fault : Option (Nat × Nat)) (f : Nat → Nat → Site16) : State :=
  let e := s.myElem
  if s.myRegion.rc < e.planeBusy then s.flyNothing
  else
    let n := dstPlane w.dst
    let o := s.siteOut w.pred f
    let t := (s.setElem s.site.el { e with planeBusy := s.myRegion.rc + 4 }).touchPlane n
    t.flyIn 4 (.plane n rows
      ((List.range 1024).map fun k => if rows.getLsbD (k / 32) then (o (k % 32) (k / 32)).1 else 0)
      ((List.range 32).map fun y => if rows.getLsbD y then maskOf fun x => (o x y).2 else 0)) 0 fault

/-- A plane word of the rows its predicate admits; a squashed or wholly nullified word writes nothing (R302). -/
def State.planeOut (s : State) (w : EArgs) (f : Nat → Nat → Site16) : Out :=
  let rows := s.active w.pred
  if rows = 0 then .next s.flyNothing else .next (s.planeWord w rows none f)

/-! ### Shifts, ports and links (R304-R306) -/

/-- pshift (R304); it counts in the die's plane-shift counter (R161). -/
def execPshift (w : EArgs) (s : State) : Out :=
  let d := stepOf w.b.raw
  let t := if s.active w.pred = 0 ∨ s.myRegion.rc < s.myElem.planeBusy then s else s.count (0x100 + 16 * (s.site.el / 2048) + 7) 1
  t.planeOut w fun x y => s.siteValue s.site.g s.site.el (planeNo w.a) x y (-d.1) (-d.2)

/-- The two sites of entry lane k: bytes 2x and 2x + 1 (R305). -/
def entrySite (e : PEntry) (x : Nat) : Site16 := (BitVec.ofNat 16 (leAt e.data (2 * x) 2), e.poison.getLsbD (x / 2))

/-- pld: rows 2j and 2j + 1 from two entries of the port; a poisoned pair pops nothing and poisons every admitted row (R305, R143). -/
def execPld (w : EArgs) (s : State) : Out :=
  let rows := s.active w.pred
  let j := s.selector w.b 4
  if rows = 0 then .next s.flyNothing
  else if j.2 then .next (s.planeWord w rows (escape rows) fun _ _ => ((s.free 0).setWidth 16, true))
  else if s.myRegion.rc < s.myElem.planeBusy then .next s.flyNothing
  else match s.popPair w.a.raw with
    | none => .next s.flyNothing
    | some (a, b, t) =>
      .next (t.planeWord w (rows &&& (3#32 <<< (2 * j.1))) none fun x y => entrySite (if y = 2 * j.1 then a else b) x)

/-- Lane `i` of rows 2j and 2j + 1 of a plane (R306). -/
def Elem.rowPair (e : Elem) (n j i : Nat) : LVal :=
  let y := 2 * j + i / 16
  let a := e.site n (2 * (i % 16)) y
  let b := e.site n (2 * (i % 16) + 1) y
  (b.1 ++ a.1, a.2 || b.2)

/-- pst: rows 2j and 2j + 1 as one send or stage-out; a poisoned pair sends all 32 lanes poisoned and escapes (R306, R143). -/
def execPst (w : EArgs) (s : State) : Out :=
  let j := s.selector w.b 4
  let act := s.active w.pred
  if act = 0 then .next s.flyNothing
  else if j.2 then
    .next ((s.flyIn 4 .nothing 0 (some (7, 0))).out w.dst 0xFFFFFFFF fun i => LaneRes.pure (s.free i) true)
  else .next (s.write w.dst w.pred fun i =>
    let r := s.myElem.rowPair (planeNo w.a) j.1 i
    LaneRes.pure r.1 r.2)

/-! ### Rules (R307, R308) -/

/-- The neighbourhood code of a site by MODE (R308), and whether a site that the word reads is poisoned: its own and all eight
neighbours, in every MODE (R302, R307). `v d` is neighbour d. -/
def ruleCode (mode b : Nat) (own : Site16) (v : Nat → Site16) : Nat × Bool :=
  let bit := fun (x : Site16) => fld x.1.toNat b 1
  (match mode with
    | 0 => fld own.1.toNat b 10
    | 1 => (List.range 8).foldl (fun c d => c + bit (v d) * 2 ^ (d + 1)) (bit own)
    | 2 => (List.range 4).foldl (fun c k => c + fld (v (2 * k)).1.toNat b 2 * 4 ^ (k + 1)) (fld own.1.toNat b 2)
    | _ => (List.range 8).foldl (fun c d => c + bit (v d) * 2) (bit own),
   own.2 || (List.range 8).any fun d => (v d).2)

/-- rule: each site's field under M becomes the entry its code selects (R307). -/
def execRule (w : EArgs) (s : State) : Out :=
  let ctl := s.src .int w.c 0
  let m : W16 := BitVec.ofNat 16 (fld ctl.1.toNat 16 16)
  s.planeOut w fun x y =>
    let own := s.myElem.site (planeNo w.a) x y
    let code := ruleCode (fld ctl.1.toNat 4 2) (fld ctl.1.toNat 0 4) own fun d =>
      s.siteValue s.site.g s.site.el (planeNo w.a) x y (stepOf d).1 (stepOf d).2
    let t := s.psrc w.b x y
    let e := SMap.get 0 s.myElem.rules (1024 * fld t.1.toNat 0 2 + code.1)
    ((own.1 &&& ~~~m) ||| (e &&& m), code.2 || own.2 || t.2 || ctl.2)

/-! ### Fields and arithmetic (R309, R310) -/

/-- pbx: one field bit across one row, into an s register or bit by bit into a mask; a poisoned bit or row poisons what it
writes and escapes (R309, R143). -/
def execPbx (w : EArgs) (s : State) : Out :=
  let b := s.selector w.b 4
  let r := s.selector w.c 5
  let sel := b.2 || r.2
  let val := fun x => (s.myElem.site (planeNo w.a) x r.1).1.getLsbD b.1
  let psn := fun x => sel || (s.myElem.site (planeNo w.a) x r.1).2
  let act := match w.dst with
    | .s _ => s.active w.pred &&& 1
    | _ => s.active w.pred
  let t := if sel then (if act = 0 then s else s.flyIn 4 .nothing 0 (escape act)) else s
  match w.dst with
  | .s _ => .next (t.write w.dst w.pred fun _ => LaneRes.pure (maskOf val) ((List.range 32).any psn))
  | _ => .next (t.write w.dst w.pred fun i => LaneRes.pure (if val i then 1 else 0) (psn i))

/-- The bit position and width of `pbi`'s control: a literal names a position of width 1 (R309). -/
def pbiField (x : ESrc) (v : W32) : Nat × Nat :=
  match x with
  | .lit n => (n.toNat, 1)
  | _ => (fld v.toNat 0 4, min (fld v.toNat 4 5) (16 - fld v.toNat 0 4))

/-- pbi: the low w bits of c inserted at bit b of every admitted site (R309). -/
def execPbi (w : EArgs) (s : State) : Out :=
  let ctl := s.src .int w.b 0
  let f := pbiField w.b ctl.1
  let m : W16 := BitVec.ofNat 16 ((2 ^ f.2 - 1) * 2 ^ f.1)
  s.planeOut w fun x y =>
    let a := s.psrc w.a x y
    let c := s.psrc w.c x y
    ((a.1 &&& ~~~m) ||| ((c.1 <<< f.1) &&& m), a.2 || c.2 || ctl.2)

/-- A site word of two sources (R310). -/
def State.siteWord (s : State) (w : EArgs) (f : W16 → W16 → W16) : Out :=
  s.planeOut w fun x y =>
    let a := s.psrc w.a x y
    let b := s.psrc w.b x y
    (f a.1 b.1, a.2 || b.2)

/-- padd.i16 (R310). -/
def execPaddI16 (w : EArgs) (s : State) : Out := s.siteWord w (· + ·)

/-- psub.i16 (R310). -/
def execPsubI16 (w : EArgs) (s : State) : Out := s.siteWord w (· - ·)

/-- pand (R310). -/
def execEPand (w : EArgs) (s : State) : Out := s.siteWord w (· &&& ·)

/-- por (R310). -/
def execEPor (w : EArgs) (s : State) : Out := s.siteWord w (· ||| ·)

/-- pxor (R310). -/
def execEPxor (w : EArgs) (s : State) : Out := s.siteWord w (· ^^^ ·)

/-! ### Quiet elements (R311, R312) -/

/-- Whether a plane and a source agree at all 1,024 sites with nothing poisoned. -/
def State.allEqual (s : State) (a b : ESrc) : Bool :=
  (List.range 1024).all fun k =>
    let x := s.psrc a (k % 32) (k / 32)
    let y := s.psrc b (k % 32) (k / 32)
    x.1 == y.1 && !x.2 && !y.2

/-- pquiet: QUIET at +4, where the lane-0 bit of its predicate admits it; it runs while QUIET is 1 (R311). -/
def execPquiet (w : EArgs) (s : State) : Out :=
  let p := s.myElem.predBits w.pred
  if s.site.null || s.site.squashed || !((p.1 ||| p.2).getLsbD 0) then .next s.flyNothing
  else .next (s.fly (.quiet (s.allEqual w.a w.b)))

end Sys2Proof.Machine
end

