-- ==== Sys2Proof/Machine/ElemRay.lean ====
section
/-! DEFINITION. The ray E-words (R314-R319). -/

namespace Sys2Proof.Machine

/-- A ray's step component: signed 16 bits clamped to −256 … 256 (R314). -/
def rayStep (n : Nat) : Int := max (-256) (min 256 (signedOf 16 n))

/-- EXIT of a ray that left: 1 + the direction of R63, by the vertical and horizontal edge it passed; 0 inside (R316). -/
def rayExit (x y : Int) : Nat :=
  if y < 0 then (if x < 0 then 8 else if 8192 ≤ x then 2 else 1)
  else if 8192 ≤ y then (if x < 0 then 6 else if 8192 ≤ x then 4 else 5)
  else if x < 0 then 7 else if 8192 ≤ x then 3 else 0

/-- A ray position advanced by one step (R316). -/
def marchRay (r step : W32) : W32 :=
  if r.getLsbD 31 = false ∨ fld r.toNat 26 4 ≠ 0 then r
  else
    let x := (fld r.toNat 0 13 : Int) + rayStep (fld step.toNat 0 16)
    let y := (fld r.toNat 13 13 : Int) + rayStep (fld step.toNat 16 16)
    (r &&& 0xC0000000) |||
      BitVec.ofNat 32 (rayExit x y * 2 ^ 26 + (y % 8192).toNat * 2 ^ 13 + (x % 8192).toNat)

/-- rmarch (R316). -/
def execRmarch (w : EArgs) (s : State) : Out := s.word2 .int w fun r st => LaneRes.pure (marchRay r st) false

/-- A site as `rsamp`'s format reads it: zero-extended, an F16 value as FP32, sign-extended (R317). -/
def sampleAs (fmt : Nat) (v : W16) : W32 × Flags :=
  match fmt with
  | 0 => (v.setWidth 32, flagNone)
  | 1 => let r := convertBits fmtF16 fmtF32 false v.toNat; (BitVec.ofNat 32 r.1, r.2)
  | _ => (v.signExtend 32, flagNone)

/-- rsamp: the site under a live ray inside the patch, else 0 (R317). -/
def execRsamp (w : EArgs) (s : State) : Out :=
  .next (s.write w.dst w.pred fun i =>
    let r := s.src .int w.a i
    let t := s.src .int w.b i
    if r.1.getLsbD 31 = false ∨ fld r.1.toNat 26 4 ≠ 0 then LaneRes.pure 0 (r.2 || t.2)
    else
      let v := s.myElem.site (fld t.1.toNat 27 4) (fld r.1.toNat 8 5) (fld r.1.toNat 21 5)
      let q := fpLane s.fpten (sampleAs w.c.raw v.1)
      { q with poison := r.2 || t.2 || v.2 })

/-- A sample from a pixel, a value and a sequence number. -/
def sampleOf (value tag seq : W32) (load : Nat) : Sample := ⟨BitVec.ofNat 24 (fld tag.toNat 0 24), value, seq, load, 0⟩

/-- The samples of one word in ascending lane, each with its poison; automatic numbers count up from `n` (R319). -/
def emit (s : State) (w : EArgs) (act : W32) : List Nat → W32 → List (Sample × Bool × Nat) × W32
  | [], n => ([], n)
  | i :: is, n =>
    let v := s.src .int w.a i
    let t := s.src .int w.b i
    let q := s.src .int w.c i
    let auto := match w.c with
      | .lit _ => true
      | _ => false
    let psn := v.2 || t.2 || q.2 || s.predP w.pred i
    if act.getLsbD i && (t.1.getLsbD 31 || t.2) then
      let r := emit s w act is (if auto then n + 1 else n)
      ((sampleOf v.1 t.1 (if auto then n else q.1) s.myRegion.load, psn, i) :: r.1, r.2)
    else emit s w act is n

/-- The samples of a word put into the commit buffer at +4, as egress of the element's stage-out port. -/
def State.flySamples (s : State) : List (Sample × Bool × Nat) → State
  | [] => s
  | (m, psn, i) :: ms =>
    (s.flyIn 4 (.egress (s.egressOf (.frag s.myElem.soport.toNat m))) 0 (if psn then some (7, i) else none)).flySamples ms

/-- fragout: one sample for each active lane whose tag is live; a poisoned sample escapes (R319, R143). -/
def execFragout (w : EArgs) (s : State) : Out :=
  let act := s.active w.pred
  let l := s.load s.myRegion.load
  let r := emit s w act (List.range 32) l.fragseq
  match r.1 with
  | [] => .next s.flyNothing
  | ms =>
    let t := s.setLoad s.myRegion.load { l with fragseq := r.2 }
    .next (t.flySamples ms)

/-- EXIT after the hop from the slot's side has lost its component (R318); sides 0 n, 1 e, 2 s, 3 w. -/
def dropHop (side ex : Nat) : Nat :=
  match side, ex with
  | 3, 2 => 1 | 3, 3 => 0 | 3, 4 => 5
  | 1, 8 => 1 | 1, 7 => 0 | 1, 6 => 5
  | 0, 4 => 3 | 0, 5 => 0 | 0, 6 => 7
  | 2, 2 => 3 | 2, 1 => 0 | 2, 8 => 7
  | _, e => e

/-- An incoming ray position of kind 1 (R318). -/
def arriveRay (side : Nat) (r : W32) : W32 :=
  (r &&& 0xC3FFFFFF) ||| BitVec.ofNat 32 (dropHop side (fld r.toNat 26 4) * 2 ^ 26)

/-- rrecv: an incoming live lane replaces the lane of vc (R318); the slot is emptied as `lrecv` does. -/
def execRrecv (w : EArgs) (s : State) : Out :=
  let d := dirOf w.a.raw
  let k := s.myElem.slot d
  if s.active w.pred = 0 then .next (s.write w.dst w.pred fun _ => LaneRes.pure 0 false)
  else if !k.full then .next s.flyNothing
  else .next ((s.takeSlot d).write w.dst w.pred fun i =>
    let a := k.lane i
    let c := s.src .int w.c i
    if a.1.getLsbD 31 then LaneRes.pure (if w.b.raw = 1 then arriveRay d a.1 else a.1) (a.2 || c.2)
    else LaneRes.pure c.1 (a.2 || c.2))

end Sys2Proof.Machine
end

