-- ==== Sys2Proof/Machine/Cycle.lean ====
section
/-! DEFINITION. One region cycle (R116, R174-R192, R404): the E-words of a broadcast by their opcode, hold conditions, implicit
closes, and the end of the cycle. -/

namespace Sys2Proof

/-- Whether a stage tag passes a row's stage-enable field (R67). -/
def RowHdr.enables (h : RowHdr) (tag : Nat) : Bool := if h.le then decide (tag ≤ h.tag.toNat) else decide (h.tag.toNat ≤ tag)

/-- Whether a hold field covers empty inputs, and full destinations (R176). -/
def Hold.empties : Hold → Bool
  | .on => true
  | .empty => true
  | _ => false
def Hold.fulls : Hold → Bool
  | .on => true
  | .full => true
  | _ => false

end Sys2Proof

namespace Sys2Proof.Machine

/-- The meaning of the E-word of an opcode; the same as `exec` of the instruction that the decoder reads (R64). -/
def elementWord (op : Nat) (w : EArgs) (s : State) : Out :=
  match op with
  | 0 => execAddI32 w s
  | 1 => execSubI32 w s
  | 2 => execMulI32 w s
  | 3 => execMulhI32 w s
  | 4 => execMulhN32 w s
  | 5 => execMadI32 w s
  | 6 => execMinI32 w s
  | 7 => execMaxI32 w s
  | 8 => execMinN32 w s
  | 9 => execMaxN32 w s
  | 10 => execAbsI32 w s
  | 11 => execAddsI32 w s
  | 12 => execSubsI32 w s
  | 13 => execAddsN32 w s
  | 14 => execSubsN32 w s
  | 16 => execEAnd w s
  | 17 => execEOr w s
  | 18 => execEXor w s
  | 19 => execEAndn w s
  | 20 => execEShl w s
  | 21 => execEShr w s
  | 22 => execESra w s
  | 23 => execRol w s
  | 24 => execEPopc w s
  | 25 => execEClz w s
  | 26 => execECtz w s
  | 27 => execBfx w s
  | 28 => execBfi w s
  | 64 => execAddF32 w s
  | 65 => execSubF32 w s
  | 66 => execMulF32 w s
  | 67 => execFmaF32 w s
  | 68 => execFnmaF32 w s
  | 69 => execMinF32 w s
  | 70 => execMaxF32 w s
  | 71 => execDivF32 w s
  | 72 => execSqrtF32 w s
  | 73 => execAbsF32 w s
  | 74 => execNegF32 w s
  | 75 => execAddF16 w s
  | 76 => execMulF16 w s
  | 77 => execFmaF16 w s
  | 78 => execFmaBf16 w s
  | 80 => execCvtF32I32 w s
  | 81 => execCvtF32N32 w s
  | 82 => execCvtI32F32 w s
  | 83 => execCvtN32F32 w s
  | 84 => execCvtF16F32 w s
  | 85 => execCvtF16F32Sat w s
  | 86 => execCvtBf16F32 w s
  | 87 => execCvtBf16F32Sat w s
  | 88 => execCvtE4m3F32 w s
  | 89 => execCvtE4m3F32Sat w s
  | 90 => execCvtE5m2F32 w s
  | 91 => execCvtE5m2F32Sat w s
  | 92 => execCvtF32F16 w s
  | 93 => execCvtF32Bf16 w s
  | 94 => execCvtF32E4m3 w s
  | 95 => execCvtF32E5m2 w s
  | 128 => execPshift w s
  | 129 => execPld w s
  | 130 => execPst w s
  | 131 => execRule w s
  | 132 => execPquiet w s
  | 133 => execPbx w s
  | 134 => execPbi w s
  | 135 => execPaddI16 w s
  | 136 => execPsubI16 w s
  | 137 => execEPand w s
  | 138 => execEPor w s
  | 139 => execEPxor w s
  | 160 => execESel w s
  | 161 => execCmpeqI32 w s
  | 162 => execCmpltI32 w s
  | 163 => execCmpleI32 w s
  | 164 => execCmpltN32 w s
  | 165 => execCmpleN32 w s
  | 166 => execCmpeqF32 w s
  | 167 => execCmpltF32 w s
  | 168 => execCmpleF32 w s
  | 169 => execCmpunF32 w s
  | 170 => execMand w s
  | 171 => execMor w s
  | 172 => execMxor w s
  | 173 => execMnot w s
  | 174 => execMlane w s
  | 175 => execExitf w s
  | 176 => execLrecv w s
  | 177 => execStin w s
  | 178 => execLpoll w s
  | 192 => execSldN32 w s
  | 193 => execSldN16 w s
  | 194 => execSldI16 w s
  | 195 => execSstN32 w s
  | 196 => execSstN16 w s
  | 208 => execMfa w s
  | 209 => execMfb w s
  | 210 => execMfas w s
  | 211 => execMfbs w s
  | 212 => execArd w s
  | 213 => execAwr w s
  | 214 => execAclr w s
  | 224 => execRmarch w s
  | 225 => execRsamp w s
  | 226 => execFragout w s
  | 227 => execRrecv w s
  | 240 => execENop w s
  | 241 => execEMov w s
  | 242 => execLane w s
  | 243 => execIter w s
  | 244 => execRdst w s
  | 245 => execClrst w s
  | 246 => execKbsel w s
  | _ => .next s

/-! ### What is broadcast (R115, R175, R177) -/

/-- A broadcast: the row in force, its phase, and V and ITERN inside a loop span. -/
structure Cast where
  hdr : RowHdr
  phase : Nat
  loop : Option (Nat × Nat)
  deriving DecidableEq, Repr

/-- What the region broadcasts in this cycle. -/
def Region.cast (r : Region) : Option Cast :=
  match r.span with
  | some sp => some ⟨sp.hdr, r.modc, some (sp.v, r.itern)⟩
  | none => r.step.map fun p => ⟨p.1, p.2, none⟩

/-- The enable test (R177): the iteration an entry of stage tag `tag` executes for, `some none` outside a loop; none where it fails. -/
def Cast.test (c : Cast) (tag : Nat) : Option (Option Int) :=
  if !c.hdr.enables tag then none
  else match c.loop with
  | none => some none
  | some (v, n) =>
    let j : Int := (v : Int) - tag
    if 0 ≤ j ∧ j < n then some (some j) else none

/-- Whether an iteration is squashed (R180). -/
def Region.squashes (r : Region) (iter : Option Int) : Bool :=
  match r.span, iter with
  | some sp, some i => sp.exited && decide (sp.e < i)
  | _, _ => false

/-- One word of a broadcast: where it executes, its opcode and its operands. -/
structure WordAt where
  site : Site
  op : Nat
  w : EArgs
  deriving DecidableEq, Repr

/-- The word of an element under a broadcast, if it executes one (R114, R229). -/
def State.wordAt (s : State) (g : Nat) (c : Cast) (el : Nat) : Option WordAt :=
  let r := s.region g
  let e := SMap.get CtxEntry.reset (s.elem el).ctx c.phase
  let tag := bits64 e.slot 40 4
  if e.st == .live && e.slot.getLsbD 44 then
    match c.test tag with
    | none => none
    | some it => (eFields (bits64 e.slot 0 40)).map fun f => ⟨⟨g, el, c.phase, tag, it, r.squashes it, false⟩, f.1, f.2⟩
  else none

/-- The words of this cycle's broadcast, by die y and then die x. -/
def State.wordsOf (s : State) (g : Nat) : List WordAt :=
  let r := s.region g
  match r.cast with
  | none => []
  | some c => (r.elemIds g).filterMap (s.wordAt g c)

/-! ### What a word needs at its issue (R176, R191) -/

/-- Whether a word is performed at all: not wholly nullified by its predicate, QUIET or a squash. -/
def State.performed (s : State) (op : Nat) (w : EArgs) : Bool :=
  if op = 0xD0 ∨ op = 0xD1 ∨ op = 0xD2 ∨ op = 0xD3 ∨ op = 0xD6 then s.lane0 w.pred else s.active w.pred != 0

/-- The port a word pops two entries of, where it is performed and its selector is clean (R188, R305, R329). -/
def State.pops (s : State) (op : Nat) (w : EArgs) : Option Nat :=
  if !s.performed op w then none
  else if op = 0xB1 then some w.a.raw
  else if op = 0x81 then (if (s.selector w.b 4).2 then none else some w.a.raw)
  else if op = 0xD0 ∨ op = 0xD1 then
    match w.a with
    | .lit p => if (s.position w.c).2 then none else some p.toNat
    | _ => none
  else none

/-- The slot a receive empties. -/
def State.receives (s : State) (op : Nat) (w : EArgs) : Option Nat :=
  if (op = 0xB0 ∨ op = 0xE3) ∧ s.performed op w then some (dirOf w.a.raw) else none

/-- Whether it sends into a slot that is reserved already. -/
def State.sendsFull (s : State) (op : Nat) (w : EArgs) : Bool :=
  match w.dst with
  | .link d =>
    s.performed op w && (match s.sendTo d.toNat with
      | some e => s.linkTaken e (faceBack d.toNat)
      | none => false)
  | _ => false

/-- Samples that a `fragout` emits. -/
def State.samplesOf (s : State) (op : Nat) (w : EArgs) : Nat :=
  if op = 0xE2 then (emit s w (s.active w.pred) (List.range 32) 0).1.length else 0

/-- Whether it is a stage-out that is performed. -/
def State.stagesOut (s : State) (op : Nat) (w : EArgs) : Bool :=
  match w.dst with
  | .stage => s.performed op w
  | _ => false

/-- Bytes it puts into its port's share (R191, R203). -/
def State.shareOf (s : State) (op : Nat) (w : EArgs) : Nat :=
  (if s.stagesOut op w then 128 else 0) + 16 * s.samplesOf op w

/-- The words that occupy the plane unit (R301). -/
def usesPlaneUnit (op : Nat) : Bool :=
  op == 0x80 || op == 0x81 || op == 0x83 || (decide (0x86 ≤ op) && decide (op ≤ 0x8B))

/-- The accumulator whose pass a word may not meet (R337). -/
def State.accUsed (s : State) (op : Nat) (w : EArgs) : Option Nat :=
  if op = 0xD5 ∧ s.performed op w ∧ !(s.position w.b).2 then some (w.a.raw % 4)
  else if op = 0xD6 ∧ s.performed op w then
    let c := s.src .int w.a 0
    if !c.2 && c.1.getLsbD 2 then some (fld c.1.toNat 0 2) else none
  else none

/-- What a word meets at its issue. -/
structure Meets where
  empty : Bool
  full : Bool
  samples : Bool        -- a `fragout` that meets a full share
  direction : Bool      -- a port of the wrong direction
  config : Bool         -- another configuration fault, by which it has no effect
  deriving DecidableEq, Repr

/-- Ports that earlier elements pop in this cycle, and bytes they put into the shares of ports. -/
structure Taken where
  ports : List Nat
  shares : SMap Nat
  deriving DecidableEq, Repr

/-- Whether a refused tile header would be popped (R330). -/
def Region.badHeader (r : Region) (op p : Nat) : Bool :=
  (op == 0xD0 || op == 0xD1) && r.headerNext p &&
    (match r.queue p with
      | a :: b :: _ => !(headerOf a b).ok
      | _ => false)

/-- What a word meets. A slot that its receiver empties in this cycle is still full (log 113), and a port's share has room for what is in
flight to it (log 23). -/
def State.meets (s : State) (x : WordAt) (t : Taken) : Meets :=
  let s := { s with site := x.site }
  let r := s.myRegion
  let pop := s.pops x.op x.w
  let so := s.myElem.soport.toNat
  let n := s.shareOf x.op x.w
  let wrong := pop.elim false (fun p => !(s.portIn r p)) || (s.stagesOut x.op x.w && !(s.portOut r so))
  let beyond := n != 0 && decide (portShare < r.shareOf so + r.inFlightOf so + SMap.get 0 t.shares so + n)
  { direction := wrong,
    empty := !wrong && (pop.elim false (fun p => decide ((r.queue p).length < 2) || t.ports.contains p)
      || (s.receives x.op x.w).elim false fun d => !(s.myElem.slot d).full),
    full := !wrong && (s.sendsFull x.op x.w || (s.stagesOut x.op x.w && beyond)),
    samples := x.op == 0xE2 && beyond,
    config := (usesPlaneUnit x.op && s.performed x.op x.w && decide (r.rc < s.myElem.planeBusy))
      || (s.accUsed x.op x.w).elim false (fun a => (s.tile s.myTile).accBusy a)
      || pop.elim false fun p => r.badHeader x.op p }

/-- The outcome of the hold test of a broadcast: whether the region is held, whether a timing fault is detected, whether a
configuration fault would be, and the words with their nullifications. -/
structure Tested where
  held : Bool
  timing : Bool
  config : Bool
  words : List WordAt
  deriving DecidableEq, Repr

/-- The hold test over the words in order: a word that meets a condition takes nothing from those after it (R176, R192). -/
def State.holdTest (s : State) (h : Hold) : List WordAt → Taken → Tested
  | [], _ => ⟨false, false, false, []⟩
  | x :: xs, t =>
    let m := s.meets x t
    let bad := (m.empty && !h.empties) || (m.full && !h.fulls)
    let stop := m.empty || m.full || m.samples || m.direction
    let u := { s with site := x.site }
    let t' : Taken :=
      if stop then t
      else ⟨(u.pops x.op x.w).elim t.ports (fun p => p :: t.ports),
        SMap.set 0 t.shares u.myElem.soport.toNat (SMap.get 0 t.shares u.myElem.soport.toNat + u.shareOf x.op x.w)⟩
    let rest := s.holdTest h xs t'
    { held := rest.held || m.samples || (m.empty && h.empties) || (m.full && h.fulls),
      timing := rest.timing || bad,
      config := rest.config || m.direction || m.config,
      words := { x with site := { x.site with null := bad || m.direction } } :: rest.words }

/-! ### Implicit closes (R144) -/

/-- What a broadcast's words add to a window. -/
structure Demand where
  buffer : Nat
  log : Nat
  planes : List (Nat × Nat)     -- element, plane
  accs : List (Nat × Nat)       -- tile, accumulator
  deriving DecidableEq, Repr

/-- Bytes per lane of a scratchpad word. -/
def scratchSize (op : Nat) : Nat := if op = 0xC0 ∨ op = 0xC3 then 4 else 2

/-- Bytes of a scratchpad word's lanes that are in range. -/
def State.scratchBytes (s : State) (op : Nat) (w : EArgs) : Nat :=
  if 0xC0 ≤ op ∧ op ≤ 0xC4 ∧ s.performed op w ∧ !s.scratchP w then
    let z := scratchSize op
    let act := scratchLanes w.dst (s.active w.pred)
    z * (List.range 32).countP fun i => act.getLsbD i && (s.laneAddr (s.scratch w) z i).isSome
  else 0

def State.demandOf (s : State) (x : WordAt) : Demand :=
  let s := { s with site := x.site }
  { buffer := s.shareOf x.op x.w + (if 0xC3 ≤ x.op then s.scratchBytes x.op x.w else 0),
    log := (if (s.pops x.op x.w).isSome then 128 else 0)
      + (s.receives x.op x.w).elim 0 (fun d => if s.edgeRecv d then 128 else 0)
      + (if x.op < 0xC3 then s.scratchBytes x.op x.w else 0),
    planes := if usesPlaneUnit x.op && s.performed x.op x.w then [(x.site.el, dstPlane x.w.dst)] else [],
    accs := if x.op = 0xD5 ∧ s.performed x.op x.w ∧ !(s.position x.w.b).2 then [(tileOfElem x.site.el, x.w.a.raw % 4)] else [] }

/-- Bytes of scratchpad loads whose bank read is still to come. -/
def Region.readsFlying (r : Region) : Nat :=
  (r.flight.map fun f => match f.what with
    | .sread _ z _ act _ as => z * (List.range 32).countP fun i => act.getLsbD i && ((as[i]?).join).isSome
    | _ => 0).sum

/-- Some item would have more than two undo slots in use: `had` gives those it has written. -/
def undoFull (had : Nat → List Nat) (new : List (Nat × Nat)) : Bool :=
  new.any fun p => decide (2 < ((had p.1 ++ (new.filter fun q => q.1 == p.1).map (·.2)).eraseDups).length)

/-- 256 KiB. -/
def bufferSize : Nat := 262144

/-- Whether the words of this cycle would overflow the buffer, the log or an undo slot. -/
def State.overflows (s : State) (g : Nat) (xs : List WordAt) : Bool :=
  let r := s.region g
  let ds := xs.map s.demandOf
  decide (bufferSize < ((r.egress ++ r.flying).map Egress.size).sum + (ds.map (·.buffer)).sum)
    || decide (bufferSize < r.win.logLen + r.readsFlying + (ds.map (·.log)).sum)
    || undoFull (fun e => SMap.get [] r.win.planes e) (ds.flatMap (·.planes))
    || undoFull (fun t => SMap.get [] r.win.accs t) (ds.flatMap (·.accs))

/-- Whether an MPASS row would write a third accumulator in a tile of its region. -/
def State.passOverflows (s : State) (g ix : Nat) : Bool :=
  let r := s.region g
  match (r.rows[ix]?).bind fun w => decodeRow w.toNat with
  | some (.mpass _ acc _ _ _) => undoFull (fun t => SMap.get [] r.win.accs t) ((r.tileIds g).map fun t => (t, acc.toNat))
  | _ => false

/-- Whether the region waits at a BARRIER or WAITQ row. -/
def State.waiting (s : State) (g : Nat) : Bool := (s.region g).waits.any fun w => !s.waitOver g w

/-- Whether the cycle's next item needs an implicit close first: at most one comes in a cycle. -/
def State.wantsClose (s : State) (g : Nat) : Bool :=
  let r := s.region g
  r.mode == .run && !r.closed &&
    (match r.work with
      | .words :: _ => !s.waiting g && s.overflows g (s.wordsOf g)
      | .row ix :: _ => s.passOverflows g ix
      | _ => false)

/-- IMPLICIT_CLOSE (R144): the region makes a drain wait, after which the cycle goes on. -/
def execImplicitClose (g : Nat) (s : State) : Out :=
  if s.wantsClose g then .next ((s.setRegion g { s.region g with closed := true }).beginDrain g .implicit) else .next s

/-! ### Rows that are due (R174, R178, R182) -/

/-- The in-loop rows of an open span that issue in the current cycle (R178). -/
def Region.bodyRows (r : Region) : List Work :=
  match r.span with
  | some sp =>
    ((List.range (sp.endl - sp.row - 1)).map fun k => sp.row + 1 + k).filterMap fun ix =>
      if (r.cycleAt ix + 2 ^ 24 - sp.base) % 2 ^ 24 % sp.ii = r.modc then some (.row ix) else none
  | none => []

/-- The row that follows outside a span, where its time has come (R174, R243). -/
def Region.nextRow (r : Region) : List Work :=
  if !r.started then (if r.cycleAt 0 ≤ r.relapsed then [.row 0] else [])
  else
    let d := r.cycleAt (r.rowix + 1) - r.cycleAt r.rowix
    let d := if r.settle || r.kindAt r.rowix == 6 then max 64 d else max 1 d
    if r.rows.length ≤ r.rowix + 1 then (if 1 ≤ r.relapsed then [.row (r.rowix + 1)] else [])
    else if d ≤ r.relapsed then [.row (r.rowix + 1)] else []

/-- The region's rows that issue in this cycle, with the end of a drain. -/
def Region.dueRows (r : Region) : Region × List Work :=
  match r.span with
  | none => (r, r.nextRow)
  | some sp =>
    if r.modc = 0 ∧ sp.boundary ∧ sp.stopped then
      if sp.epil = 0 then
        if r.kindAt (sp.endl + 1) = 4 ∧ sp.endl < r.rows.length then (r, .row sp.endl :: .row (sp.endl + 1) :: r.bodyRows)
        else (r, [.row sp.endl])
      else if r.kindAt (sp.epil + 1) = 4 then (r, .row (sp.epil + 1) :: r.bodyRows)
      else
        let q := { r.endSpan with rowix := sp.epil, relapsed := sp.since }
        (q, q.nextRow)
    else (r, r.bodyRows)

/-- The meaning of an S-row (R68, R175); the same as `exec` of the row. -/
def rowMeaning (i : Instr) (s : State) : Out :=
  match i with
  | .stepRow h p => execStepRow h p s
  | .loopRow h ii n => execLoopRow h ii n s
  | .endl h n => execEndl h n s
  | .exitRow h => execExitRow h s
  | .epil h => execEpil h s
  | .mpass h a i c n => execMpass h a i c n s
  | .form h w k => execForm h w k s
  | .reconf h x => execReconf h x s
  | .barrier h p => execBarrier h p s
  | .commit h => execCommit h s
  | .waitq h p => execWaitq h p s
  | .endRow h => execEndRow h s
  | _ => .next s

/-- A row issues: its decoded form takes effect in the region (R174, R175); past the queue there is none (R175). -/
def State.issueRow (s : State) (g ix : Nat) : Out :=
  let r := s.region g
  match (r.rows[ix]?).bind fun w => decodeRow w.toNat with
  | none => .next (s.detect g 2)
  | some i =>
    let t := (s.setRegion g { r with rowix := ix, relapsed := 0, started := true }).count (0x100 + 16 * (g / 128) + 1) 1
    match rowMeaning i { t with site := { Site.reset with g := g } } with
    | .next u =>
      let q := u.region g
      .next (if r.kindAt ix = 1 ∧ q.mode = .run ∧ q.span.any (fun sp => sp.row == ix) then
        u.setRegion g { q with work := q.bodyRows ++ q.work } else u)
    | o => o

/-! ### The words of a cycle -/

/-- The hold test and, where nothing holds the region, the words themselves as items of the cycle (R176, R184, R185). -/
def State.testWords (s : State) (g : Nat) : State :=
  let r := s.region g
  let ws := r.waits.filter fun w => !s.waitOver g w
  if ws ≠ [] then s.setRegion g { r with waits := ws, held := true }
  else
    let r := { r with waits := [] }
    match r.cast with
    | none => s.setRegion g { r with held := false }
    | some c =>
      let t := s.holdTest c.hdr.hold (s.wordsOf g) ⟨[], []⟩
      let r1 := if t.timing then r.detect 1 else r
      if t.held then s.setRegion g { r1 with held := true }
      else
        let r2 := if t.config then r1.detect 2 else r1
        s.setRegion g { r2 with
          held := false,
          work := (t.words.map fun x => Work.word x.site.el x.site.entry x.site.tag x.site.iter x.site.null) ++ r2.work }

/-- One word executes in its element. -/
def State.runWord (s : State) (g el entry tag : Nat) (iter : Option Int) (null : Bool) : Out :=
  let e := SMap.get CtxEntry.reset (s.elem el).ctx entry
  match eFields (bits64 e.slot 0 40) with
  | none => .next s
  | some f => elementWord f.1 f.2 { s with site := ⟨g, el, entry, tag, iter, (s.region g).squashes iter, null⟩ }

/-! ### The end of a cycle (R149, R151, R177, R404) -/

/-- The counters of a loop span after an unheld cycle. -/
def Region.stepSpan (r : Region) : Region :=
  match r.span with
  | none => r
  | some sp =>
    let wrap := r.modc + 1 = sp.ii
    { r with
      modc := if wrap then 0 else r.modc + 1,
      span := some { sp with
        since := sp.since + 1,
        v := if wrap then sp.v + 1 else sp.v,
        boundary := sp.boundary || (decide wrap && sp.stopped) } }

/-- The counters of a region after a cycle that ran, or that was held, or that was part of a drain wait. -/
def Region.afterCycle (r : Region) : Region :=
  match r.mode with
  | .run =>
    if r.held then r
    else { r.stepSpan with relapsed := (r.relapsed + 1) % 2 ^ 24, step := none, closed := false, rc := r.rc + 1 }
  | _ => { r with rc := r.rc + 1 }

/-- The region is in the next cycle of its die. -/
def Region.nextBeat (r : Region) : Region := { r with beat := r.beat + 1 }

/-- A detected cause after a fabric cycle: its stopping cycle moves with each of the two cycles that are not held (R149). -/
def Freeze.tick (f : Freeze) (held : Bool) : Freeze :=
  { f with left := f.left - 1, stop := if f.left < 3 && !held then f.stop + 1 else f.stop }

/-- The fabric cycle of a detected cause. -/
def State.tickFreeze (s : State) (g : Nat) (held : Bool) : Out :=
  let r := s.region g
  match r.freeze with
  | none => .next s
  | some f => execClockGate g (s.setRegion g { r with freeze := some (f.tick held) })

/-- The end of a region cycle. -/
def State.endCycle (s : State) (g : Nat) : Out :=
  let r := s.region g
  let held := r.held && r.mode == .run
  let k := 0x100 + 16 * (g / 128)
  let s1 := (s.setRegion g r.afterCycle.nextBeat).count k (r.w * r.h)
  let s2 := if held then s1.count (k + 2) 1 else s1
  let wrapped := r.mode == .run && !held && (r.stepSpan.modc == 0)
  (if wrapped then execIterationAdmission g s2 else .next s2).then fun s3 =>
    (execFormSettlingEnd g s3).then fun s4 => (s4.pushSamples g).tickFreeze g held

/-- The items of a region's next cycle. -/
def Region.cycleWork (r : Region) : List Work :=
  match r.mode with
  | .drain _ => [.land, .groups, .drainCheck, .snapshots, .endCycle]
  | _ => [.land, .groups, .rows, .snapshots, .words, .endCycle]

/-- One after another. -/
def Out.all {α : Type} (s : State) (xs : List α) (f : α → State → Out) : Out :=
  xs.foldl (fun o x => o.then (f x)) (.next s)

/-- One landing of the cycle. -/
def State.landItem (s : State) (g : Nat) : State :=
  match s.landNext g with
  | some t => t.setRegion g { t.region g with work := .land :: (t.region g).work }
  | none => s

/-- The running regions of a die that are in the cycle that a region is in; they have one clock (log 98). -/
def State.peers (s : State) (g : Nat) : List Nat :=
  (s.regions.filter fun p => p.1 / 128 == g / 128 && p.1 != g && p.2.running && p.2.beat == (s.region g).beat).map (·.1)

/-- A bank conflict of the cycle, in the region of the later element: a timing fault (R273). A region of the die that has stopped in that
cycle counts. -/
def State.bankCheck (s : State) (g : Nat) : State :=
  let r := s.region g
  let others := (s.regions.filter fun p => p.1 / 128 == g / 128 && p.1 != g && p.2.holds && p.2.touchedAt == r.beat).flatMap (·.2.touched)
  if r.touched.any fun a => (r.touched ++ others).any (bankMeets a) then s.detect g 1 else s

/-- Whether a region has still to land what is due in its cycle. -/
def Region.toLand (r : Region) : Bool := r.work.isEmpty || r.work.contains .land

/-- Whether it has still to execute words of its cycle. -/
def Region.toSpeak (r : Region) : Bool := r.work.any fun x => match x with
  | .words => true
  | .word .. => true
  | _ => false

/-- Whether the next item of a region's cycle waits for another region of its die: a cycle begins where none is behind, its results
have landed in all before one goes on, and the regions of one load execute their words in ascending index (R187, R273, R319; log 98). -/
def State.waitsTurn (s : State) (g : Nat) : Bool :=
  let r := s.region g
  match r.work with
  | [] => s.regions.any fun p => p.1 / 128 == g / 128 && p.2.running && decide (p.2.beat < r.beat)
  | .groups :: _ => (s.peers g).any fun h => (s.region h).toLand
  | .words :: _ => (s.peers g).any fun h =>
      (s.region h).load == r.load && decide ((s.region h).idx < r.idx) && (s.region h).toSpeak
  | _ => false

/-- One item of a region's cycle. -/
def State.workItem (s : State) (g : Nat) (x : Work) : Out :=
  match x with
  | .land => .next (s.landItem g)
  | .groups => Out.all (s.bankCheck g) ((s.region g).tileIds g) (execMatrixGroupLanding g)
  | .rows =>
    let r := s.region g
    if r.held || !r.waits.isEmpty then .next s
    else
      let d := r.dueRows
      .next (s.setRegion g { d.1 with work := d.2 ++ d.1.work })
  | .row ix => s.issueRow g ix
  | .drainCheck => execCommitWindowClose g s
  | .snapshots => Out.all s ((s.region g).tileIds g) (execMatrixGroupSnapshot g)
  | .words => .next (s.testWords g)
  | .word el entry tag iter null => s.runWord g el entry tag iter null
  | .endCycle => s.endCycle g

/-- A turn of a region that runs or drains: an implicit close where one is needed, else the next item of its cycle. -/
def State.cycleTurn (s : State) (g : Nat) : Out :=
  let r := s.region g
  if s.waitsTurn g then .next s
  else match r.work with
  | [] => .next (s.setRegion g { r with work := r.cycleWork, touched := r.linesDue, touchedAt := r.beat })
  | x :: rest => if s.wantsClose g then execImplicitClose g s else (s.setRegion g { r with work := rest }).workItem g x

end Sys2Proof.Machine
end

