-- ==== Sys2Proof/Machine/Factor.lean ====
section
/-! DEFINITION. The factor store (R356-R373): the eight forms of major 0x64. -/

namespace Sys2Proof.Machine

/-! ### Arithmetic (R363) -/

/-- A binary32 pattern and the flags its rounding raised. -/
abbrev Rne := W32 × Flags

def f32 (x : W32) : FVal := fmtF32.decode x.toNat

/-- An exact value rounded once. -/
def rne (v : FVal × Flags) : Rne :=
  let r := fmtF32.result v.1 v.2
  (BitVec.ofNat 32 r.1, r.2)

/-- The exact product of two values, with its flags. -/
def exMul (a b : FVal) : FVal × Flags := a.mul b

/-- The exact sum or difference of two exact values. -/
def exAdd (a b : FVal × Flags) : FVal × Flags :=
  let r := a.1.add b.1
  (r.1, r.2 ||| a.2 ||| b.2)

def exNeg (a : FVal × Flags) : FVal × Flags := (a.1.neg, a.2)

/-- rne(a × b). -/
def rneMul (a b : W32) : Rne := rne (exMul (f32 a) (f32 b))

/-- rne(a × b + c × d). -/
def rneMulAdd (a b c d : W32) : Rne := rne (exAdd (exMul (f32 a) (f32 b)) (exMul (f32 c) (f32 d)))

/-- rne(a × b − c × d). -/
def rneMulSub (a b c d : W32) : Rne := rne (exAdd (exMul (f32 a) (f32 b)) (exNeg (exMul (f32 c) (f32 d))))

/-- rne(u − s × v). -/
def rneSubMul (u s v : W32) : Rne := rne (exAdd (f32 u, 0) (exNeg (exMul (f32 s) (f32 v))))

/-- rne(e / b) of an exact value. -/
def rneDivBy (e : FVal × Flags) (b : W32) : Rne :=
  let r := fmtF32.divide e.1 (f32 b)
  (BitVec.ofNat 32 r.1, r.2 ||| e.2)

/-- rne(a / b). -/
def rneDiv (a b : W32) : Rne := rneDivBy (f32 a, 0) b

/-- rne((u − s × v) / c). -/
def rneSubDiv (u s v c : W32) : Rne := rneDivBy (exAdd (f32 u, 0) (exNeg (exMul (f32 s) (f32 v)))) c

/-- sqrt_rne of an exact value. -/
def sqrtRne (e : FVal × Flags) : Rne :=
  let r := fmtF32.squareRoot e.1
  (BitVec.ofNat 32 r.1, r.2 ||| e.2)

/-- ±0. -/
def isZero32 (x : W32) : Bool := x &&& 0x7FFFFFFF == 0

/-! ### The store in an operation -/

/-- Entry (i, j) of L. -/
def lIx (i j : Nat) : Nat := i * (i + 1) / 2 + j

/-- What an operation works on: L, B, the vector x and its right-hand side y, and the flags so far. -/
structure FsWork where
  l : SMap W32
  b : SMap W32
  x : SMap W32
  y : SMap W32
  fl : Flags
  deriving DecidableEq, Repr

def FsWork.getL (w : FsWork) (i j : Nat) : W32 := SMap.get 0 w.l (lIx i j)
def FsWork.getB (w : FsWork) (i j : Nat) : W32 := SMap.get 0 w.b (8 * i + j)
def FsWork.getX (w : FsWork) (i : Nat) : W32 := SMap.get 0 w.x i
def FsWork.getY (w : FsWork) (j : Nat) : W32 := SMap.get 0 w.y j
def FsWork.setL (w : FsWork) (i j : Nat) (v : Rne) : FsWork := { w with l := SMap.set 0 w.l (lIx i j) v.1, fl := w.fl ||| v.2 }
def FsWork.setB (w : FsWork) (i j : Nat) (v : Rne) : FsWork := { w with b := SMap.set 0 w.b (8 * i + j) v.1, fl := w.fl ||| v.2 }
def FsWork.setX (w : FsWork) (i : Nat) (v : Rne) : FsWork := { w with x := SMap.set 0 w.x i v.1, fl := w.fl ||| v.2 }
def FsWork.setY (w : FsWork) (j : Nat) (v : Rne) : FsWork := { w with y := SMap.set 0 w.y j v.1, fl := w.fl ||| v.2 }

/-- A step repeated for each number of a list. -/
def FsWork.each (w : FsWork) (is : List Nat) (f : FsWork → Nat → FsWork) : FsWork := is.foldl f w

/-- The numbers from `a` to `n - 1`. -/
def span (a n : Nat) : List Nat := (List.range (n - a)).map (a + ·)

/-- The vector scaled by the root of its weight (R365). -/
def FsWork.weigh (w : FsWork) (n : Nat) (wt : W32) : FsWork :=
  let sg := sqrtRne (f32 wt, 0)
  let w0 := { w with fl := w.fl ||| sg.2 }
  let w1 := w0.each (List.range n) fun u i => u.setX i (rneMul sg.1 (u.getX i))
  w1.each (List.range 8) fun u j => u.setY j (rneMul sg.1 (u.getY j))

/-- One column of `fsupd`. -/
def FsWork.rotate (w : FsWork) (n k : Nat) : FsWork :=
  let a := w.getL k k
  let b := w.getX k
  if isZero32 a && isZero32 b then w
  else
    let r := sqrtRne (exAdd (exMul (f32 a) (f32 a)) (exMul (f32 b) (f32 b)))
    let c := rneDiv a r.1
    let s := rneDiv b r.1
    let w1 := { w.setL k k r with fl := w.fl ||| r.2 ||| c.2 ||| s.2 }
    let w2 := w1.each (span (k + 1) n) fun q i =>
      let u := q.getL i k
      let v := q.getX i
      (q.setL i k (rneMulAdd c.1 u s.1 v)).setX i (rneMulSub c.1 v s.1 u)
    w2.each (List.range 8) fun q j =>
      let u := q.getB k j
      let v := q.getY j
      (q.setB k j (rneMulAdd c.1 u s.1 v)).setY j (rneMulSub c.1 v s.1 u)

/-- The definiteness test of `fsddt`, on exact values. -/
def definite (a b eps : W32) : Bool :=
  let aa := exMul (f32 a) (f32 a)
  FVal.cmp (f32 a) (.fin false 0 0) == some .gt
    && FVal.cmp (exAdd aa (exNeg (exMul (f32 b) (f32 b)))).1 ((f32 eps).mul aa.1).1 == some .gt

/-- One column of `fsddt`; none where definiteness is lost. -/
def FsWork.unrotate (w : FsWork) (n k : Nat) (eps : W32) : Option FsWork :=
  let a := w.getL k k
  let b := w.getX k
  if !definite a b eps then none
  else
    let r := sqrtRne (exAdd (exMul (f32 a) (f32 a)) (exNeg (exMul (f32 b) (f32 b))))
    let c := rneDiv r.1 a
    let s := rneDiv b a
    let w1 := { w.setL k k r with fl := w.fl ||| r.2 ||| c.2 ||| s.2 }
    let w2 := w1.each (span (k + 1) n) fun q i =>
      let v := q.getX i
      let t := rneSubDiv (q.getL i k) s.1 v c.1
      (q.setL i k t).setX i (rneMulSub c.1 v s.1 t.1)
    some (w2.each (List.range 8) fun q j =>
      let v := q.getY j
      let t := rneSubDiv (q.getB k j) s.1 v c.1
      (q.setB k j t).setY j (rneMulSub c.1 v s.1 t.1))

/-- The columns from `k` on, `m` of them; the first that loses definiteness. -/
def FsWork.downdate (w : FsWork) (n : Nat) (eps : W32) : Nat → Nat → Except Nat FsWork
  | _, 0 => .ok w
  | k, m + 1 =>
    match w.unrotate n k eps with
    | none => .error k
    | some u => u.downdate n eps (k + 1) m

/-- One column of `fssolve` (R367). -/
def FsWork.solve (w : FsWork) (n : Nat) (back : Bool) (j : Nat) : FsWork :=
  let rows := if back then (List.range n).reverse else List.range n
  w.each rows fun q i =>
    let ms := if back then (span (i + 1) n).reverse else List.range i
    let t := ms.foldl (fun (t : Rne) m =>
      let l := if back then q.getL m i else q.getL i m
      let r := rneSubMul t.1 l (q.getB m j)
      (r.1, t.2 ||| r.2)) (q.getB i j, 0)
    let d := rneDiv t.1 (q.getL i i)
    q.setB i j (d.1, t.2 ||| d.2)

/-- Every entry of rows 0 to n − 1 times σ (R368). -/
def FsWork.scale (w : FsWork) (n : Nat) (lam : W32) : FsWork :=
  let sg := sqrtRne (f32 lam, 0)
  let w0 := { w with fl := w.fl ||| sg.2 }
  let w1 := w0.each (List.range n) fun q i => q.each (List.range (i + 1)) fun q j => q.setL i j (rneMul sg.1 (q.getL i j))
  w1.each (List.range n) fun q i => q.each (List.range 8) fun q j => q.setB i j (rneMul sg.1 (q.getB i j))

/-! ### Checks (R357, R360-R362) -/

def fsStore (a : Nat) : Nat := fld a 0 6
def fsMid (a : Nat) : Nat := fld a 8 8
def fsMask (a : Nat) : Nat := fld a 16 8
def fsArg (a : Nat) : W32 := BitVec.ofNat 32 (fld a 32 32)

/-- The must-be-0 bits of a selector: ARG, MASK and the middle byte where the form does not use them. -/
def fsSelOk (a : Nat) (arg mask : Bool) (midMax : Nat) : Bool :=
  fld a 24 8 == 0 && fld a 6 2 == 0 && (arg || fsArg a == 0) && (mask || fsMask a == 0) && decide (fsMid a ≤ midMax)

/-- A weight or a factor: sign 0, finite, no NaN. -/
def fsArgOk (w : W32) : Bool := decide (w.toNat < 0x7F800000)

/-- ε: sign 0 and below 1.0. -/
def fsEpsOk (w : W32) : Bool := decide (w.toNat < 0x3F800000)

/-- Whether the executing word may operate on a store (R357); `claim` says that it is `fsinit` with n ≥ 1. -/
def State.fsMay (s : State) (f : Nat) (claim : Bool) : Bool :=
  let o := (s.fstore f).own
  s.diePresent (f / 8)
    && (!s.me.user || (if o.getLsbD 12 then fld o.toNat 0 12 == s.me.ctx else claim))

/-- rd of a form that ends (R361). -/
def fsAnswer (status : Nat) (fl : Flags) : W64 := BitVec.ofNat 64 (status * 2 ^ 48 + fl.toNat)

/-- The executing core's word takes up store `f`: one that waits for its operand leaves its wait. -/
def State.fsResume (s : State) (f : Nat) : State :=
  let t := if s.me.begun.isSome then s.setMe { s.me with begun := none } else s
  if (t.fstore f).busy = some t.cur then t.setFstore f { t.fstore f with busy := none } else t

/-- The accepted word waits for a span link: the store stays taken, and asynchronous causes are held (R362, R376). -/
def State.fsWait (s : State) (f p : Nat) : State := ((s.holdOn p).begin).setFstore f { s.fstore f with busy := some s.cur }

/-- The operand of an accepted word on store `f` cannot be reached: it waits for a span link, or takes the data access fault. -/
def State.fsReach (s : State) (f : Nat) (a : Acc) (va : Nat) : Out :=
  match s.coreHeld a va with
  | some p => .next (s.fsWait f p)
  | none => .next (s.accessTrap causeAccess va)

/-- The `n` bytes of that operand. -/
def State.fsRead (s : State) (f va n : Nat) (k : State → List Byte → Out) : Out :=
  match s.coreLoad va n with
  | .ok (t, bs) => k t bs
  | .error v => if s.lostAt .load v then k s.unspan (s.lostBytes va n) else s.fsReach f .load v

/-- A store that its context's teardown left to the operation in progress is cleared after it (R373). -/
def State.fsSettle (s : State) (f : Nat) : State :=
  if (s.fstore f).due ∧ (s.fstore f).busy = none then s.setFstore f FStore.reset else s

/-- A factor-store form: the selector, the owner, the memory operand's alignment, then, once the store is free, the statuses in their
order and the operation. -/
def State.fsForm (s : State) (rd : DReg) (ra : SReg) (ok : Nat → Bool) (claim : Nat → Bool) (mem : Option SReg) (argOk : Nat → Bool)
    (needs : Nat → Bool) (halted : W64) (run : State → Nat → FStore → Out) : Out :=
  let a := s.readS ra
  let v := a.toNat
  let f := fsStore v
  let s := s.fsResume f
  let x := s.fstore f
  if !ok v then .next s.illegal
  else if !s.fsMay f (claim v) then .next (s.trap causeAccess a)
  else if mem.elim false fun r => (s.readS r).toNat % 16 != 0 then .next (s.trap causeMisaligned ((mem.map s.readS).getD 0))
  else if x.busy.isSome then .next s
  else if s.pkg.haltFs then .next (s.finish rd halted 4)
  else if !argOk v then .next (s.finish rd (fsAnswer 1 0) 4)
  else if needs v && x.n == 0 then .next (s.finish rd (fsAnswer 2 0) 4)
  else (run s v x).then fun t => .next (t.fsSettle f)

/-- The store's contents as an operation takes them up. -/
def FStore.work (x : FStore) (v : List W32) : FsWork :=
  ⟨x.l, x.b, mapOf 0 (v.take x.n), mapOf 0 ((v.drop x.n).take 8), 0⟩

/-- What an operation leaves in the store. -/
def FStore.done (x : FStore) (w : FsWork) : FStore := { x with l := w.l, b := w.b, flag := x.flag ||| w.fl }

/-- The word completes: the store takes the result, rd status OK and the flags. -/
def State.fsFinish (s : State) (rd : DReg) (f : Nat) (x : FStore) (w : FsWork) : Out :=
  .next ((s.setFstore f (x.done w)).finish rd (fsAnswer 0 w.fl) 4)

/-! ### The forms -/

/-- A store with its contents cleared, its owner and binding kept. -/
def FStore.cleared (x : FStore) : FStore := { FStore.reset with own := x.own, bound := x.bound }

/-- The store after `fsinit` (R357, R364). -/
def FStore.init (x : FStore) (n ctx : Nat) (delta eps : W32) : FStore :=
  if n = 0 then (if x.bound.isSome then x.cleared else { x.cleared with own := 0 })
  else { x.cleared with
    n := n, eps := eps, l := (List.range n).foldl (fun m k => SMap.set 0 m (lIx k k) delta) [],
    own := if x.own.getLsbD 12 then x.own else BitVec.ofNat 13 (4096 + ctx) }

/-- R364 FSINIT. -/
def execFsinit (rd : DReg) (ra rb : SReg) (s : State) : Out :=
  let p := (s.readS rb).toNat
  let delta := BitVec.ofNat 32 (fld p 0 32)
  let eps := BitVec.ofNat 32 (fld p 32 32)
  s.fsForm rd ra (fun v => fsSelOk v false false 128) (fun v => fsMid v != 0) none (fun _ => fsArgOk delta && fsEpsOk eps) (fun _ => false)
    (fsAnswer 5 0) fun s v x => .next ((s.setFstore (fsStore v) (x.init (fsMid v) s.me.ctx delta eps)).finish rd (fsAnswer 0 0) 4)

/-- R365 FSUPD. -/
def execFsupd (rd : DReg) (ra rb : SReg) (s : State) : Out :=
  s.fsForm rd ra (fun v => fsSelOk v true false 0) (fun _ => false) (some rb) (fun v => fsArgOk (fsArg v)) (fun _ => true) (fsAnswer 5 0)
    fun s v x => s.fsRead (fsStore v) (s.readS rb).toNat (4 * (x.n + 8)) fun t bs =>
      let w := ((x.work (wordsAt bs 0 (x.n + 8))).weigh x.n (fsArg v)).each (List.range x.n) fun w k => w.rotate x.n k
      t.fsFinish rd (fsStore v) x w

/-- R366 FSDDT: all or nothing; the first failing column raises the lost-definiteness trap. -/
def execFsddt (rd : DReg) (ra rb : SReg) (s : State) : Out :=
  s.fsForm rd ra (fun v => fsSelOk v true false 0) (fun _ => false) (some rb) (fun v => fsArgOk (fsArg v)) (fun _ => true) (fsAnswer 5 0)
    fun s v x => s.fsRead (fsStore v) (s.readS rb).toNat (4 * (x.n + 8)) fun t bs =>
      match ((x.work (wordsAt bs 0 (x.n + 8))).weigh x.n (fsArg v)).downdate x.n x.eps 0 x.n with
      | .ok w => t.fsFinish rd (fsStore v) x w
      | .error k => .next (t.trap causeLostDef (BitVec.ofNat 64 k))

/-- R367 FSSOLVE. -/
def execFssolve (rd : DReg) (ra : SReg) (s : State) : Out :=
  s.fsForm rd ra (fun v => fsSelOk v false true 1) (fun _ => false) none (fun _ => true) (fun _ => true) (fsAnswer 5 0)
    fun s v x => s.fsFinish rd (fsStore v) x
      ((x.work []).each ((List.range 8).filter (bitOf (fsMask v))) fun w j => w.solve x.n (fsMid v == 1) j)

/-- R368 FSSCALE: λ = 1 is an exact identity. -/
def execFsscale (rd : DReg) (ra : SReg) (s : State) : Out :=
  s.fsForm rd ra (fun v => fsSelOk v true false 0) (fun _ => false) none (fun v => fsArgOk (fsArg v)) (fun _ => true) (fsAnswer 5 0)
    fun s v x => s.fsFinish rd (fsStore v) x
      (if fsArg v = 0x3F800000 then x.work [] else (x.work []).scale x.n (fsArg v))

/-- The bytes of one part of a store (R370, R371). -/
def FStore.part (x : FStore) (p : Nat) : List Byte :=
  match p with
  | 0 => wordBytes (SMap.getRun 0 x.l 0 (lIx x.n 0))
  | 1 => wordBytes (SMap.getRun 0 x.b 0 (8 * x.n))
  | _ => [BitVec.ofNat 8 x.n, x.flag.setWidth 8] ++ leBytes 2 x.own.toNat ++ leBytes 4 x.eps.toNat
      ++ [if x.bound.isSome then 1 else 0] ++ zeros 7

/-- Entries 0 to n − 1 of a map replaced. -/
def putRun (m : SMap W32) (vs : List W32) : SMap W32 := SMap.setRun 0 m 0 vs

/-- The store after `fswrite` of one part; none where its EPS is out of its domain. -/
def FStore.putPart (x : FStore) (p : Nat) (bs : List Byte) : Option FStore :=
  match p with
  | 0 => some { x with l := putRun x.l (wordsAt bs 0 (lIx x.n 0)) }
  | 1 => some { x with b := putRun x.b (wordsAt bs 0 (8 * x.n)) }
  | _ => if fsEpsOk (w32At bs 4) then some { x with eps := w32At bs 4, flag := BitVec.ofNat 5 (leAt bs 1 1) } else none

/-- R370 FSREAD. -/
def execFsread (rd : DReg) (ra rb : SReg) (s : State) : Out :=
  s.fsForm rd ra (fun v => fsSelOk v false false 2) (fun _ => false) (some rb) (fun _ => true) (fun v => fsMid v != 2) (fsAnswer 5 0)
    fun s v x => match s.coreStore (s.readS rb).toNat (x.part (fsMid v)) with
      | .ok t => .next (t.finish rd (fsAnswer 0 0) 4)
      | .error a => s.fsReach (fsStore v) .store a

/-- R370 FSWRITE. -/
def execFswrite (rd : DReg) (ra rb : SReg) (s : State) : Out :=
  s.fsForm rd ra (fun v => fsSelOk v false false 2) (fun _ => false) (some rb) (fun _ => true) (fun v => fsMid v != 2) (fsAnswer 5 0)
    fun s v x => s.fsRead (fsStore v) (s.readS rb).toNat (x.part (fsMid v)).length fun t bs =>
      match x.putPart (fsMid v) bs with
      | some y => .next ((t.setFstore (fsStore v) y).finish rd (fsAnswer 0 0) 4)
      | none => .next (t.finish rd (fsAnswer 1 0) 4)

/-- How far a log-determinant has come: P, E, and whether a step was inexact; or the status that stops it. -/
structure LogDet where
  p : W32
  e : Int
  fl : Flags
  st : Nat
  deriving DecidableEq, Repr

/-- One diagonal entry (R369). -/
def LogDet.step (d : LogDet) (x : W32) : LogDet :=
  if d.st ≠ 0 then d
  else match f32 (x &&& 0x7FFFFFFF) with
    | .fin _ m k =>
      if m = 0 then { d with st := 3 }
      else
        let e := leadExp m k
        let p := rne (exMul (f32 d.p) (.fin false m (k - e)))
        if 0x40000000 ≤ p.1.toNat then ⟨p.1 - 0x800000, d.e + 1 + e, d.fl ||| p.2, 0⟩ else ⟨p.1, d.e + e, d.fl ||| p.2, 0⟩
    | _ => { d with st := 4 }

/-- rd of `fslogdet`. -/
def LogDet.answer (d : LogDet) : W64 :=
  if d.st ≠ 0 then BitVec.ofNat 64 (d.st * 2 ^ 48 + 0x3F800000)
  else BitVec.ofNat 64 ((d.e % 2 ^ 16).toNat * 2 ^ 32 + d.p.toNat)

/-- R369 FSLOGDET. -/
def execFslogdet (rd : DReg) (ra : SReg) (s : State) : Out :=
  s.fsForm rd ra (fun v => fsSelOk v false false 0) (fun _ => false) none (fun _ => true) (fun _ => false) (LogDet.answer ⟨0, 0, 0, 5⟩)
    fun s v x =>
      let d := (List.range x.n).foldl (fun d k => LogDet.step d (SMap.get 0 x.l (lIx k k))) ⟨0x3F800000, 0, 0, 0⟩
      .next ((s.setFstore (fsStore v) { x with flag := x.flag ||| (d.fl &&& 1) }).finish rd d.answer 4)

end Sys2Proof.Machine
end

