-- ==== Sys2Proof/Machine/Near.lean ====
section
/-! DEFINITION. What near-memory units and stack controllers share: the check of a command packet at issue (R75, R260, R340), the
translation of an operand (R210), the completion of a command (R262, R342). -/

namespace Sys2Proof.Machine

/-! ### Packets (R74, R75) -/

def Packet.kind (p : Packet) : Nat := leAt p.bytes 0 1
def Packet.flags (p : Packet) : Nat := leAt p.bytes 1 1
/-- The entry or table number. -/
def Packet.number (p : Packet) : Nat := leAt p.bytes 2 2
def Packet.ctx (p : Packet) : Nat := leAt p.bytes 4 2
def Packet.gen (p : Packet) : Nat := leAt p.bytes 6 1
def Packet.phase (p : Packet) : Nat := leAt p.bytes 8 2
/-- OP0 to OP2. -/
def Packet.op (p : Packet) (k : Nat) : Nat := leAt p.bytes (24 + 8 * k) 8
/-- ARG0 to ARG3. -/
def Packet.arg (p : Packet) (k : Nat) : Nat := leAt p.bytes (48 + 4 * k) 4

def kindCall : Nat := 1
def kindQuery : Nat := 2
def kindTable : Nat := 3

/-- The check of R75 on a packet's 64 bytes, for the form whose KIND is `k`. -/
def packetOk (k : Nat) (bs : List Byte) : Bool :=
  let p : Packet := ⟨bs, 0, false, none, (0, []), [], 0⟩
  p.kind == k
    && (if k = kindQuery then decide (p.flags < 4) else p.flags == 0)
    && decide (p.number < if k = kindCall then 64 else 256)
    && decide (p.ctx < 4096) && decide (2 ≤ leAt bs 7 1) && decide (leAt bs 7 1 ≤ 5) && decide (p.phase < 4096) && zeroAt bs 10 6
    && leAt bs 16 1 % 8 == 0
    && (if k = kindQuery then decide (1 ≤ p.arg 0) && decide (p.arg 0 ≤ 256) && zeroAt bs 40 8 && zeroAt bs 52 12
        else if k = kindTable then zeroAt bs 32 16 && zeroAt bs 52 12
        else true)

/-- A number for a packet that no other packet has. -/
def State.packetId (s : State) : Nat := s.tick

/-- A packet that a word of the executing core posts: aligned, readable, in form, of the core's own context in user mode, its
status word translated as a store into stack memory; `send` delivers it. -/
def State.post (s : State) (k : Nat) (ra : SReg) (send : State → Packet → Out) : Out :=
  let a := s.readS ra
  if a.toNat % 64 ≠ 0 then .next (s.trap causeMisaligned a)
  else s.withLoad a.toNat 64 fun t bs =>
    let st := leAt bs 16 8
    if !packetOk k bs then .next (t.trap causeCommand a)
    else if s.me.user && leAt bs 4 2 != s.me.ctx then .next (t.trap causeCommand a)
    else if st = 0 then send t ⟨bs, s.cur, s.me.user, none, (0, []), [], s.packetId⟩
    else match s.walkHeld s.cur s.me.ctx st with
    | some p => .next (s.holdOn p)
    | none => match t.coreVa t.cur .store st with
      | none => .next (t.accessTrap causeAccess st)
      | some pa =>
        if (t.canon pa).elim false isStackCell then
          send (t.coreWalk st 8) ⟨bs, s.cur, s.me.user, some pa, (t.me.ctx, t.leavesOf t.cur t.me.ctx st 8), [], s.packetId⟩
        else .next (t.accessTrap causeAccess st)

/-- The walk of a packet's OP0 by the core that posts it, counted; a bad residue at which it ended is reported (R352). -/
def State.homeReport (s : State) (op0 : Nat) : State := if op0 = 0 then s else s.coreReport op0

/-- The package that this walk waits for (R376). -/
def State.homeHeld (s : State) (op0 : Nat) : Option Nat := if op0 = 0 then none else s.walkHeld s.cur s.me.ctx op0

/-- The canonical cell of an operand by the issuing core's translation. -/
def State.operandCell (s : State) (va : Nat) : Option Nat :=
  if va = 0 then none
  else match (s.coreVa s.cur .load va).bind s.canon with
    | some a => if isStackCell a then some a else none
    | none => none

/-- A packet appended to a stack controller's queue. -/
def State.sendStack (s : State) (k : Nat) (p : Packet) : State :=
  s.setStack k { s.stack k with queue := (s.stack k).queue ++ [p] }

/-- The memory-port die of a core; a supervisor, which sits on the configuration die, uses the stacks and AGUs of MD(n − 128) (R16; log 108). -/
def dieOfCore (n : Nat) : Nat := if isSup n then n - 128 else n / 16

/-! ### Operands (R209, R210) -/

/-- Whether a leaf is one of a physically contiguous 2 MiB page with CC, PIN and BS. -/
def leafNear (e bits : Nat) : Bool := bits == 21 && bitOf e 7 && bitOf e 6 && bitOf e 5

/-- The physical address of an operand as party `who` translates it, in a page that meets R210. -/
def State.nearPa (s : State) (who c : Nat) (user : Bool) (a : Acc) (va : Nat) : Option Nat :=
  match s.leafOf who c va with
  | some (e, b) =>
    let pa := pteAddr e + va % 2 ^ b
    if leafNear e b && pteAllows e user a && (s.canon pa).isSome then some pa else none
  | none => none

/-- The walks of a command's first `n` operands, counted; a bad residue at which one ended is reported on the issuing core (R352). -/
def State.operandReport (s : State) (who : Nat) (p : Packet) (n : Nat) : State :=
  s.each (List.range n) fun t i => if p.op i = 0 then t else t.walkReport p.core who p.ctx (p.op i)

/-- A packet whose first `n` operands party `who` has translated. -/
def State.translated (s : State) (who : Nat) (p : Packet) (n : Nat) : Packet :=
  { p with leaves := p.leaves ++ (List.range n).flatMap fun i => if p.op i = 0 then [] else s.leavesOf who p.ctx (p.op i) 1 }

/-- What a command sees in some cells of its operands' pages, which lie in the bank-linear window (R210): writes through an interleaved
alias need a `fence.win`, and those of copies and streams a fence (R354). -/
def State.commandSees (s : State) (as : List Nat) : List Byte := s.sees (Via.unit.path 2) as

/-- Bytes that a command writes in them. -/
def State.commandWrites (s : State) (p : Packet) (as : List Nat) (bs : List Byte) : State := (s.put .unit p.core 2 as bs).countMem as true

/-- Units and stack controllers as parties that translate. -/
def unitParty (u : Nat) : Nat := 3000 + u
def stackParty (k : Nat) : Nat := 5000 + k

/-- Whether `n` bytes from an address stay in its 2 MiB page. -/
def inPage (pa n : Nat) : Bool := decide (pa % 2 ^ 21 + n ≤ 2 ^ 21)

/-- A command on its way from its issuing core to a stack is stalled by a link that is not stable yet (R384). -/
def State.commandStalled (s : State) (p : Packet) (k : Nat) : Bool := s.crossStalled (8 + dieOfCore p.core) (8 + k / 2)

/-! ### Completion (R156, R262, R342) -/

/-- The status word is written where the packet names one. -/
def State.putStatus (s : State) (p : Packet) (status reason count : Nat) : State :=
  match p.status.bind fun pa => s.cells pa 8 with
  | some as =>
    (s.put .unit p.core (p.status.elim 0 s.windowOf) as (leBytes 8 (status + 65536 * reason + 2 ^ 32 * count))).countMem as true
  | none => s

/-- A command completes: the status word, then the phase. -/
def State.finishCommand (s : State) (p : Packet) (status reason count : Nat) : State :=
  (s.putStatus p status reason count).phaseInc p.phase

/-- A command is rejected: as a completion, but reason 8 counts nowhere. -/
def State.rejectCommand (s : State) (p : Packet) (reason : Nat) : State :=
  if reason = 8 then s.putStatus p 2 8 0 else s.finishCommand p 2 reason 0

/-- The tests that every command meets first: its generation (7), then the owner of its phase (8); 0 where both hold. -/
def State.firstTests (s : State) (p : Packet) : Nat :=
  if (s.ctx p.ctx).gen.toNat ≠ p.gen then 7
  else if (s.phase p.phase).own.toNat ≠ p.ctx then 8
  else 0

end Sys2Proof.Machine
end

