-- ==== Sys2Proof/Machine/Nmus.lean ====
section
/-! DEFINITION. Near-memory units: `nmload` (R258), `nmcall` (R340), acceptance (R339, R341), N-words (R343-R348) and the standard
firmware (R349-R351). -/

namespace Sys2Proof.Machine

/-! ### nmload (R73, R257, R258) -/

/-- `n` numbers of `k` bytes each, one after another. -/
def numsOf (k : Nat) : Nat → List Byte → List Nat
  | 0, _ => []
  | n + 1, bs => leNat (bs.take k) :: numsOf k n (bs.drop k)

/-- The control-store words and the entries of an image's 4,352 bytes. -/
def imageOf (bs : List Byte) : List (BitVec 128) × List W32 :=
  ((numsOf 16 256 bs).map (BitVec.ofNat 128), (numsOf 4 64 (bs.drop 4096)).map (BitVec.ofNat 32))

/-- Whether an image is accepted: no reserved code, no reserved bit, no entry above the store. -/
def imageOk (m : List (BitVec 128) × List W32) : Bool :=
  m.1.all (fun w => (nArgsOf w.toNat).wf) && m.2.all fun e => fld e.toNat 16 15 == 0 && decide (fld e.toNat 0 16 < 256)

/-- An image given to a unit: at once where it is idle, else when its running command ends. A unit that holds it already keeps it. -/
def Nmu.give (n : Nmu) (m : List (BitVec 128) × List W32) : Nmu :=
  if n.next.isNone && n.image == some m then n
  else if n.cmd.isNone then { n with image := some m, next := none }
  else { n with next := some m }

/-- R258 NMLOAD: it waits until every named unit holds the image. A unit descriptor whose reserved bits or bytes are not 0, of which
R258 gives no fate, raises the command-fault trap with TVAL rb (log 99). -/
def execNmload (ra rb : SReg) (s : State) : Out :=
  let a := s.readS ra
  let b := s.readS rb
  if s.me.user then .next s.privileged
  else if a.toNat % 16 ≠ 0 then .next (s.trap causeMisaligned a)
  else if b.toNat % 16 ≠ 0 then .next (s.trap causeMisaligned b)
  else s.withLoad a.toNat 4352 fun t bs => t.withLoad b.toNat 16 fun t d =>
    if !imageOk (imageOf bs) then .next (t.trap causeCommand a)
    else if !(decide (leAt d 8 1 < 16) && zeroAt d 9 7) then .next (t.trap causeCommand b)
    else
      let us := ((List.range 64).filter (bitOf (leAt d 0 8))).map (64 * leAt d 8 1 + ·)
      let u := t.each us fun v i => v.setNmu i ((v.nmu i).give (imageOf bs))
      .next (if us.all fun i => (u.nmu i).next.isNone then u.skip 4 else u)

/-! ### nmcall (R339, R340) -/

/-- R340 NMCALL: the packet joins the queue of its home unit, or goes to the stack controller of the core's die. -/
def execNmcall (ra : SReg) (s : State) : Out :=
  s.post kindCall ra fun t p =>
    match s.homeHeld (p.op 0), s.operandCell (p.op 0) with
    | some h, _ => .next (s.holdOn h)
    | none, none => .next (((t.homeReport (p.op 0)).sendStack (2 * dieOfCore s.cur) p).skip 4)
    | none, some a =>
      let u := unitOf a
      let t := t.homeReport (p.op 0)
      if 32 ≤ (s.nmu u).queue.length then .next s
      else .next ((t.setNmu u { t.nmu u with queue := (t.nmu u).queue ++ [p] }).skip 4)

/-! ### Acceptance and the end of a command (R339, R341, R342) -/

/-- Lane `l` of a 16-lane register whose first key is `k`. -/
def laneOf (m : SMap W32) (k l : Nat) : W32 := SMap.get 0 m (k + l)

/-- The physical address of operand `i` as the unit translates it: 0 for an operand that is 0, none where test 1 fails. -/
def State.unitOp (s : State) (u : Nat) (p : Packet) (i : Nat) : Option Nat :=
  if p.op i = 0 then some 0 else s.nearPa (unitParty u) p.ctx p.user (if i = 2 then .store else .load) (p.op i)

/-- The three operands, all in one stack. -/
def State.unitOps (s : State) (u : Nat) (p : Packet) : Option (List Nat) :=
  match allSome ((List.range 3).map (s.unitOp u p)) with
  | some as => if (as.filter (· != 0)).all fun a => stackOf a == u / 64 then some as else none
  | none => none

/-- Whether entry `e` of a unit is valid, and the word it names; of the standard image entries 0 to 5 are valid (R349). -/
def Nmu.entryOf (n : Nmu) (e : Nat) : Option (BitVec 8) :=
  match n.image with
  | none => if e < 6 then some (Config.firmwareEntry e) else none
  | some m =>
    let w := (m.2[e]?).getD 0
    if w.getLsbD 31 then some (w.setWidth 8) else none

/-- The registers a command starts with (R339). -/
def Nmu.accept (n : Nmu) (u : Nat) (p : Packet) (ops : List Nat) (upc : BitVec 8) : Nmu :=
  { Nmu.reset with
    image := n.image, next := n.next, queue := n.queue.drop 1, cmd := some p, ops := ops,
    x := mapOf 0 (((List.range 4).map fun k => BitVec.ofNat 32 (p.arg k)) ++ [BitVec.ofNat 32 p.number, BitVec.ofNat 32 (u % 64)]),
    upc := upc }

/-- COMMAND_ACCEPTANCE (R341): an idle unit takes the command at the head of its queue, or rejects it. -/
def execCommandAcceptance (u : Nat) (s : State) : Out :=
  let n := s.nmu u
  match n.queue with
  | [] => .next s
  | p :: rest =>
    let t := s.setNmu u { n with queue := rest }
    let f := s.firstTests p
    if n.cmd.isSome ∨ n.next.isSome ∨ s.commandStalled p (u / 64) then .next s
    else if f ≠ 0 then .next (t.rejectCommand p f)
    else match n.entryOf (p.number % 64) with
      | none => .next (t.rejectCommand p 9)
      | some upc => match s.unitOps u p with
        | none => .next ((t.operandReport (unitParty u) p 3).rejectCommand p 1)
        | some ops => .next ((s.operandReport (unitParty u) p 3).setNmu u (n.accept u (s.translated (unitParty u) p 3) ops upc))

/-- A unit's command ends: a soft error outranks every other status; an image that waits comes into force. -/
def State.endCommand (s : State) (u : Nat) (p : Packet) (status reason count : Nat) : State :=
  let n := s.nmu u
  let t := s.setNmu u { n with cmd := none, ops := [], next := none, image := if n.next.isSome then n.next else n.image }
  if n.rmiss then t.finishCommand p 3 0 count else t.finishCommand p status reason count

/-! ### N-words (R343-R348) -/

/-- A command address: the cells of a transfer, or the reason that ends the command. -/
def Nmu.cellsAt (n : Nmu) (c size : Nat) : Except Nat (List Nat) :=
  let k := fld c 21 2
  let op := (n.ops[k]?).getD 0
  let a := (op + fld c 0 21) / size * size
  if c / 2 ^ 23 ≠ 0 ∨ k = 3 ∨ op = 0 then .error 2
  else if a / 2 ^ 21 ≠ op / 2 ^ 21 then .error 2
  else .ok (cellRun a size)

/-- Bytes that RD or WR moves. -/
def moveSize (code : BitVec 4) : Nat := if code = 1 then 32 else if code = 2 then 64 else 0

/-- An address generator's next value (R345). -/
def Nmu.generate (n : Nmu) (old : W32) (reg mode : BitVec 4) (size : Nat) (imm : BitVec 56) : W32 :=
  let x := laneOf n.x (16 * reg.toNat)
  match mode.toNat with
  | 1 => old + BitVec.ofNat 32 size
  | 2 => x 0
  | 3 => old + imm.setWidth 32
  | 4 => x 2 + SMap.get 0 n.rdr (x 0 &&& 15).toNat * x 1
  | _ => old

/-- What a source supplies in a lane. -/
def Nmu.source (n : Nmu) (code : BitVec 5) (imm : BitVec 56) (l : Nat) : W32 :=
  if code.toNat < 16 then laneOf n.x (16 * code.toNat) l
  else if code = 16 then SMap.get 0 n.rdr l
  else if code = 17 then imm.setWidth 32
  else 0

/-- The value a destination holds in a lane. -/
def Nmu.old (n : Nmu) (code : BitVec 5) (l : Nat) : W32 :=
  if code.toNat < 16 then laneOf n.x (16 * code.toNat) l
  else if code = 16 then SMap.get 0 n.wbuf l
  else 0

/-- The four products of `mac.i8`, summed exactly. -/
def dot4 (a b : W32) : Int :=
  (List.range 4).foldl (fun t j => t + signedOf 8 (fld a.toNat (8 * j) 8) * signedOf 8 (fld b.toNat (8 * j) 8)) 0

/-- The exact sum of a word's products in a lane; 0 for a word that multiplies nothing into its sum (R348). -/
def macSum (alu : Nat) (a b : W32) : Int :=
  if alu = 2 then a.toInt * b.toInt else if alu = 0x10 then dot4 a b else 0

/-- The lane result of ALUOP (R346). -/
def aluLane (alu : Nat) (a b d : W32) : W32 :=
  match alu with
  | 0x01 => a + b
  | 0x02 => d + a * b
  | 0x03 => BitVec.ofNat 32 (fmtF32.addBits a.toNat b.toNat).1
  | 0x04 => BitVec.ofNat 32 (fmtF32.minMax true a.toNat b.toNat).1
  | 0x05 => if a.toInt ≤ b.toInt then b else a
  | 0x06 => a
  | 0x07 => a &&& b
  | 0x08 => a ||| b
  | 0x09 => a ^^^ b
  | 0x0A => a <<< (b &&& 31).toNat
  | 0x0B => a >>> (b &&& 31).toNat
  | 0x0C => BitVec.ofNat 32 (fmtF32.mulBits a.toNat b.toNat).1
  | 0x0D => BitVec.ofNat 32 (fmtF32.fmaBits a.toNat b.toNat d.toNat).1
  | 0x0E => if a = b then 1 else 0
  | 0x0F => if a.toInt < b.toInt then 1 else 0
  | 0x10 => d + BitVec.ofInt 32 (dot4 a b)
  | 0x11 => if d ≠ 0 then a else b
  | _ => d

/-- A residue of a signed value (R51). -/
def residue (i : Int) : Nat := (i % 15).toNat

/-- How often 2^32 was removed from an exact sum to give a signed result. -/
def wrapsOf (exact : Int) (r : W32) : Int := (exact - r.toInt) / 2 ^ 32

/-- Step 3: the result in every lane, and ZN. -/
def Nmu.alu (n : Nmu) (w : NArgs) : Nmu :=
  if w.alu = 0 then n
  else
    let r := fun l => aluLane w.alu.toNat (n.source w.srcA w.imm l) (n.source w.srcB w.imm l) (n.old w.dst l)
    let put := fun (m : SMap W32) (k : Nat) => SMap.setRun 0 m k ((List.range 16).map r)
    let z : BitVec 2 := (if r 0 = 0 then 2 else 0) ||| (if (r 0).toInt < 0 then 1 else 0)
    let n1 := { n with zn := z }
    if w.dst.toNat < 16 then { n1 with x := put n.x (16 * w.dst.toNat) }
    else if w.dst = 16 then { n1 with wbuf := put n.wbuf 0 }
    else n1

/-- Step 4 (R348), from the registers before and after step 3: the new unit, and whether a check failed. -/
def Nmu.check (n0 n : Nmu) (w : NArgs) : Nmu × Bool :=
  let d := fun l => n0.old w.dst l
  let sum := fun l => macSum w.alu.toNat (n0.source w.srcA w.imm l) (n0.source w.srcB w.imm l)
  let r := fun l => n.old w.dst l
  let ls := List.range 16
  match w.res.toNat with
  | 3 => ({ n with rpred := mapOf 0 (ls.map fun l => BitVec.ofNat 4 (residue (d l).toInt)), wraps := [] }, false)
  | 1 => ({ n with
      rpred := mapOf 0 (ls.map fun l => BitVec.ofNat 4 (residue (((SMap.get 0 n.rpred l).toNat : Int) + sum l)))
      wraps := mapOf 0 (ls.map fun l => SMap.get 0 n.wraps l + wrapsOf ((d l).toInt + sum l) (d l + BitVec.ofInt 32 (sum l))) }, false)
  | 2 => (n, ls.any fun l => residue ((r l).toInt + SMap.get 0 n.wraps l) != (SMap.get 0 n.rpred l).toNat)
  | _ => (n, false)

/-- COND (R347); 4 is nothing the manual states (log 12). -/
def Nmu.cond (n : Nmu) (full : Bool) (c : BitVec 4) : Bool :=
  match c.toNat with
  | 0 => true
  | 1 => n.zn.getLsbD 1
  | 2 => n.zn.getLsbD 0
  | 3 => decide ((laneOf n.x 240 15).toNat ≤ n.aga.toNat)
  | 4 => full
  | 5 => n.rmiss
  | _ => false

/-- LOOP (R347). -/
def Nmu.loop (n : Nmu) (w : NArgs) : Nmu :=
  let k := w.loopN.toNat
  match w.loopOp.toNat with
  | 1 => { n with lc := SMap.set 0 n.lc k (w.imm.setWidth 16) }
  | 2 => { n with lc := SMap.set 0 n.lc k (if SMap.get 0 n.lc k = 0 then 0 else SMap.get 0 n.lc k - 1) }
  | _ => n

/-- Step 6: the unit with its counters moved on, and how the command ends where it does: status and reason. -/
def Nmu.sequence (n0 : Nmu) (full : Bool) (w : NArgs) : Nmu × Option (Nat × Nat) :=
  let n := n0.loop w
  let c := n.cond full w.cond
  let jump := (w.seq = 1) ∨ (w.seq = 2 ∧ c) ∨ (w.seq = 3 ∧ !c) ∨ (w.seq = 4 ∧ SMap.get 0 n.lc w.loopN.toNat ≠ 0)
  let m := { n with wcount := n.wcount + 1, upc := if jump then w.next else n.upc + 1 }
  if w.post = 2 then (m, some (2, fld w.imm.toNat 0 16))
  else if w.post = 1 ∨ w.seq = 5 then (m, some (1, 0))
  else if (¬ jump ∧ n.upc = 255) ∨ m.wcount = 0 then (m, some (2, 12))
  else (m, none)

/-- A soft error of the running command (R348, R352). -/
def State.commandError (s : State) (u : Nat) (p : Packet) (a : Nat) : State :=
  (s.softError p.core a).setNmu u { (s.softError p.core a).nmu u with rmiss := true }

/-- Cells that the running command reads: their bytes are counted, and each word without a matching residue is a soft error of it. -/
def State.commandRead (s : State) (u : Nat) (p : Packet) (as : List Nat) : State :=
  (s.badWords as).foldl (fun t a => t.commandError u p a) (s.countMem as false)

/-- Steps 1 and 2: the addresses, then the read; with the reason where the read ends the command. -/
def State.unitRead (s : State) (u : Nat) (p : Packet) (w : NArgs) : State × Option Nat :=
  let n := s.nmu u
  let m := { n with aga := n.generate n.aga w.agaReg w.agaMode (moveSize w.rd) w.imm,
                    agb := n.generate n.agb w.agbReg w.agbMode (moveSize w.wr) w.imm }
  let s1 := s.setNmu u m
  if w.rd = 0 then (s1, none)
  else match m.cellsAt m.aga.toNat (moveSize w.rd) with
    | .error r => (s1, some r)
    | .ok as =>
      let t := s1.setNmu u { m with rdr := mapOf 0 (wordsAt (s.commandSees as) 0 (moveSize w.rd / 4)) }
      (t.commandRead u p as, none)

/-- Step 5: the write, where no soft error has come; none where it ends the command. -/
def State.unitWrite (s : State) (u : Nat) (p : Packet) (w : NArgs) : Except Nat State :=
  let n := s.nmu u
  if w.wr = 0 ∨ n.rmiss then .ok s
  else match n.cellsAt n.agb.toNat (moveSize w.wr) with
    | .error r => .error r
    | .ok as =>
      if fld n.agb.toNat 21 2 < 2 then .error 13
      else .ok (s.commandWrites p as (wordBytes ((List.range (moveSize w.wr / 4)).map fun l => SMap.get 0 n.wbuf l)))

/-- Where a failed check is reported: the address of the word's write, else OP2. -/
def Nmu.checkAddr (n : Nmu) (w : NArgs) : Nat :=
  match n.cellsAt n.agb.toNat (moveSize w.wr) with
  | .ok (a :: _) => a
  | _ => (n.ops[2]?).getD 0

/-- Step 6: the unit goes on, or its command ends with lane 0 of x14 as its count. -/
def State.unitNext (s : State) (u : Nat) (p : Packet) (w : NArgs) : State :=
  let r := (s.nmu u).sequence (Config.writeQueueFull s.tick) w
  let t := s.setNmu u r.1
  match r.2 with
  | some (st, rs) => t.endCommand u p st rs (laneOf r.1.x 224 0).toNat
  | none => t

/-- R344 N_WORD: the word that the executing unit's command runs, in six steps. -/
def execNWord (w : NArgs) (s : State) : Out :=
  let u := s.unit
  match (s.nmu u).cmd with
  | none => .next s
  | some p =>
    let die := fun (t : State) (r : Nat) => t.endCommand u p 2 r (laneOf (t.nmu u).x 224 0).toNat
    let (s2, r) := s.unitRead u p w
    match r with
    | some k => .next (die s2 k)
    | none =>
      let n2 := s2.nmu u
      let (n4, bad) := n2.check (n2.alu w) w
      let s3 := s2.setNmu u n4
      let s4 := if bad then s3.commandError u p (n4.checkAddr w) else s3
      match s4.unitWrite u p w with
      | .error k => .next (die s4 k)
      | .ok s5 => .next (s5.unitNext u p w)

/-! ### The standard firmware (R349-R351) -/

/-- What a standard entry needs of its arguments: extents of the operands it reads and writes (0 for one it does not use), the index
vector's row count where there is one, and whether its arguments are in range. -/
structure Entry where
  args : Bool
  ext : List Nat
  rows : Option Nat
  count : Nat
  deriving DecidableEq, Repr

def inRange (v lo hi step : Nat) : Bool := decide (lo ≤ v) && decide (v ≤ hi) && v % step == 0

def entryPool (p : Packet) : Entry :=
  ⟨inRange (p.arg 0) 1 65536 1 && inRange (p.arg 1) 16 8192 16 && decide (1 ≤ p.arg 2) && p.arg 3 == 0,
   [4 * p.arg 0, 4 * p.arg 1 * p.arg 2, 4 * p.arg 1], some (p.arg 2), p.arg 0⟩

def entryGather (p : Packet) : Entry :=
  ⟨inRange (p.arg 0) 1 65536 1 && inRange (p.arg 1) 64 65536 64 && p.arg 3 == 0,
   [4 * p.arg 0, p.arg 2 * p.arg 1, p.arg 0 * p.arg 1], some (p.arg 2), p.arg 0⟩

def entryAxpy (p : Packet) : Entry :=
  ⟨inRange (p.arg 0) 16 524288 16 && p.arg 2 == 0 && p.arg 3 == 0, [4 * p.arg 0, 0, 4 * p.arg 0], none, p.arg 0⟩

def entryImac (p : Packet) : Entry :=
  ⟨inRange (p.arg 0) 1 65536 1 && inRange (p.arg 1) 64 65536 64 && p.arg 3 == 0,
   [p.arg 0 * p.arg 1, p.arg 1, 4 * p.arg 0], none, p.arg 0⟩

/-- Whether two byte ranges share a byte. -/
def byteRangesMeet (a n b m : Nat) : Bool := decide (a < b + m) && decide (b < a + n)

def entryRelayout (p : Packet) (ops : List Nat) : Entry :=
  let h := p.arg 0
  let e0 := (h - 1) * p.arg 2 + p.arg 1
  let e2 := (h - 1) * p.arg 3 + p.arg 1
  let meets := byteRangesMeet ((ops[0]?).getD 0) e0 ((ops[2]?).getD 0) e2
  ⟨inRange h 1 65535 1 && p.arg 1 % 64 == 0 && p.arg 2 % 64 == 0 && p.arg 3 % 64 == 0
      && decide (p.arg 1 ≤ p.arg 2) && decide (p.arg 1 ≤ p.arg 3) && !meets,
   [e0, 0, e2], none, h⟩

/-- The operands that an entry's number uses. -/
def usesOp1 (n : Nat) : Bool := n == 0 || n == 1 || n == 2 || n == 4

/-- The reason that ends a standard entry before its first access (R349), tests 10 and 2; 0 where both pass. -/
def Entry.reason (e : Entry) (num : Nat) (ops : List Nat) : Nat :=
  let op := fun k => (ops[k]?).getD 0
  if !((List.range 3).all fun k => op k % 64 == 0) || (!usesOp1 num && op 1 != 0) || !e.args then 10
  else if !((List.range 3).all fun k => (k == 1 && !usesOp1 num) || (op k != 0 && inPage (op k) ((e.ext[k]?).getD 0))) then 2
  else 0

/-- The 32-bit words at consecutive cells, as a command sees them. -/
def State.wordsFrom (s : State) (a n : Nat) : List W32 :=
  (List.range n).map fun i => BitVec.ofNat 32 (leNat (s.commandSees (cellRun (a + 4 * i) 4)))

/-- A standard entry: its checks, the cells it reads besides the index vector, what it writes to OP2, and the address of a result whose
arithmetic check fails, if one does. A soft error of any word it reads leaves the outputs as they were. -/
def State.standard (s : State) (u num : Nat) (shape : Packet → List Nat → Entry) (reads : Packet → List Nat → List Nat → List Nat)
    (result : State → Packet → List Nat → List Nat → List (Nat × List Byte)) (fails : Packet → List Nat → Option Nat) : State :=
  let n := s.nmu u
  match n.cmd with
  | none => s
  | some p =>
    if n.image.isSome ∨ p.number ≠ num then s
    else
      let e := shape p n.ops
      let r := e.reason num n.ops
      let op0 := (n.ops[0]?).getD 0
      let stop := fun (t : State) (reason : Nat) => t.endCommand u p 2 reason 0
      if r ≠ 0 then stop s r
      else
        let ix := match e.rows with
          | some _ => (s.wordsFrom op0 (p.arg 0)).map (·.toNat)
          | none => []
        let ixCells := if e.rows.isSome then cellRun op0 (4 * p.arg 0) else []
        let t := s.commandRead u p ixCells
        if (s.badAt ixCells).isSome then t.endCommand u p 3 0 0
        else if e.rows.elim false (fun k => ix.any fun i => decide (k ≤ i)) then stop t 11
        else
          let cells := reads p n.ops ix
          let t := t.commandRead u p cells
          if (s.badAt cells).isSome then t.endCommand u p 3 0 0
          else
            let out := result s p n.ops ix
            let v := t.each out fun v o => v.commandWrites p (cellRun o.1 o.2.length) o.2
            match fails p n.ops with
            | some a => (v.commandError u p a).endCommand u p 3 0 0
            | none => (v.setNmu u { n with x := SMap.set 0 n.x 224 (BitVec.ofNat 32 e.count) }).endCommand u p 1 0 e.count

/-- The cells of the table rows of a list of indices; a row is `b` bytes. -/
def rowCells (op1 b : Nat) (ix : List Nat) : List Nat := ix.eraseDups.flatMap fun i => cellRun (op1 + i * b) b

/-- The bytes of a row. -/
def State.bytesFrom (s : State) (a n : Nat) : List Byte := s.commandSees (cellRun a n)

/-- Rows pooled element by element, in index order (R351). -/
def State.poolRows (s : State) (f : W32 → W32 → W32) (op1 len : Nat) : List Nat → List W32
  | [] => []
  | i :: rest => rest.foldl (fun acc j => (acc.zip (s.wordsFrom (op1 + j * (4 * len)) len)).map fun q => f q.1 q.2)
      (s.wordsFrom (op1 + i * (4 * len)) len)

/-- No result of an entry is checked. -/
def unchecked (_ : Packet) (_ : List Nat) : Option Nat := none

def opAt (ops : List Nat) (k : Nat) : Nat := (ops[k]?).getD 0

/-- IRSUM and IRMAX. -/
def State.poolEntry (s : State) (u num : Nat) (f : W32 → W32 → W32) : State :=
  s.standard u num (fun p _ => entryPool p) (fun p ops ix => rowCells (opAt ops 1) (4 * p.arg 1) ix)
    (fun t p ops ix => [(opAt ops 2, wordBytes (t.poolRows f (opAt ops 1) (p.arg 1) ix))]) unchecked

/-- IRSUM (R351): the sum of indexed rows. -/
def execIrsum (u : Nat) (s : State) : Out := .next (s.poolEntry u 0 fun a b => BitVec.ofNat 32 (fmtF32.addBits a.toNat b.toNat).1)

/-- IRMAX (R351): the maximum of indexed rows. -/
def execIrmax (u : Nat) (s : State) : Out := .next (s.poolEntry u 1 fun a b => BitVec.ofNat 32 (fmtF32.minMax true a.toNat b.toNat).1)

/-- GATHER (R351): output row i is table row idx i. -/
def execGather (u : Nat) (s : State) : Out :=
  .next (s.standard u 2 (fun p _ => entryGather p) (fun p ops ix => rowCells (opAt ops 1) (p.arg 1) ix)
    (fun t p ops ix => (ix.zip (List.range ix.length)).map fun q =>
      (opAt ops 2 + q.2 * p.arg 1, t.bytesFrom (opAt ops 1 + q.1 * p.arg 1) (p.arg 1))) unchecked)

/-- AXPY (R351): y := a × x + y, fused. -/
def execAxpy (u : Nat) (s : State) : Out :=
  .next (s.standard u 3 (fun p _ => entryAxpy p) (fun p ops _ => cellRun (opAt ops 0) (4 * p.arg 0) ++ cellRun (opAt ops 2) (4 * p.arg 0))
    (fun t p ops _ =>
      let xs := t.wordsFrom (opAt ops 0) (p.arg 0)
      let ys := t.wordsFrom (opAt ops 2) (p.arg 0)
      [(opAt ops 2, wordBytes ((xs.zip ys).map fun q => BitVec.ofNat 32 (fmtF32.fmaBits (p.arg 1) q.1.toNat q.2.toNat).1))]) unchecked)

/-- The sum of products of two vectors of I8. -/
def dotBytes (a b : List Byte) : Int := (a.zip b).foldl (fun t q => t + q.1.toInt * q.2.toInt) 0

/-- The row of a running IMAC whose arithmetic check fails (R51). -/
def Nmu.missRow (n : Nmu) (p : Packet) : Option Nat := n.miss.bind fun r => if r < p.arg 0 then some r else none

/-- The rows whose results IMAC writes: all, or those of the 16-byte granules before that of a row whose check fails (R349, R351;
log 105). -/
def Nmu.imacRows (n : Nmu) (p : Packet) : Nat := (n.missRow p).elim (p.arg 0) fun r => r / 4 * 4

/-- IMAC (R351): each row's products with b, summed from the initial value and wrapped, and checked. -/
def execImac (u : Nat) (s : State) : Out :=
  let n := s.nmu u
  .next (s.standard u 4 (fun p _ => entryImac p) (fun p ops _ => cellRun (opAt ops 0) (p.arg 0 * p.arg 1) ++ cellRun (opAt ops 1) (p.arg 1))
    (fun t p ops _ =>
      let b := t.bytesFrom (opAt ops 1) (p.arg 1)
      [(opAt ops 2, wordBytes ((List.range (n.imacRows p)).map fun r =>
        BitVec.ofInt 32 (signedOf 32 (p.arg 2) + dotBytes (t.bytesFrom (opAt ops 0 + r * p.arg 1) (p.arg 1)) b)))])
    fun p ops => (n.missRow p).map fun r => opAt ops 2 + 4 * r)

/-- RELAYOUT (R351): rows from one pitch to another. -/
def execRelayout (u : Nat) (s : State) : Out :=
  .next (s.standard u 5 entryRelayout
    (fun p ops _ => (List.range (p.arg 0)).flatMap fun j => cellRun (opAt ops 0 + j * p.arg 2) (p.arg 1))
    (fun t p ops _ => (List.range (p.arg 0)).map fun j =>
      (opAt ops 2 + j * p.arg 3, t.bytesFrom (opAt ops 0 + j * p.arg 2) (p.arg 1))) unchecked)

end Sys2Proof.Machine
end

