-- ==== Sys2Proof/Machine/Tables.lean ====
section
/-! DEFINITION. Subarray tables: the words that post a command (R260) and what a stack controller does with it (R259, R261-R263). -/

namespace Sys2Proof.Machine

/-! ### Posting (R260) -/

/-- The stack a table command goes to: the one that holds OP0, else one of the issuing core's die (a supervisor's: log 108). -/
def State.tableStack (s : State) (op0 : Nat) : Nat :=
  match s.operandCell op0 with
  | some a => stackOf a
  | none => 2 * dieOfCore s.cur

/-- A table command posted, or held where the walk of its OP0 waits. -/
def State.postTable (s : State) (k : Nat) (ra : SReg) : Out :=
  s.post k ra fun t p =>
    match s.homeHeld (p.op 0) with
    | some h => .next (s.holdOn h)
    | none => .next (((t.homeReport (p.op 0)).sendStack (s.tableStack (p.op 0)) p).skip 4)

/-- R260 TLOAD. -/
def execTload (ra : SReg) (s : State) : Out := s.postTable kindTable ra

/-- R260 TQ. -/
def execTq (ra : SReg) (s : State) : Out := s.postTable kindQuery ra

/-! ### Tables (R259) -/

/-- The geometry of an image length: wide index, wide result. -/
def tableGeometry : Nat → Option (Bool × Bool)
  | 256 => some (false, false)
  | 512 => some (false, true)
  | 1024 => some (true, false)
  | 2048 => some (true, true)
  | _ => none

/-- The entries of a table image. -/
def tableEntries (wideRes : Bool) (bs : List Byte) : List W16 :=
  let z := if wideRes then 2 else 1
  (List.range (bs.length / z)).map fun i => BitVec.ofNat 16 (leAt bs (z * i) z)

def StackCtl.table (k : StackCtl) (n : Nat) : SubTable := SMap.get SubTable.reset k.tables n

/-- The table that context `c` may query in a stack. -/
def StackCtl.tableOf (k : StackCtl) (n c : Nat) : Option SubTable :=
  let t := k.table n
  if t.v && t.ctx.toNat == c then some t else none

/-- The entry of an index. -/
def SubTable.look (t : SubTable) (x : Nat) : W16 := (t.entries[x]?).getD 0

/-- Index `i` of packed indices (R26). -/
def packedIndex (wide : Bool) (bs : List Byte) (i : Nat) : Nat :=
  if wide then fld (leNat bs) (10 * i) 10 else leAt bs i 1

/-! ### Commands at a stack controller (R261-R263) -/

/-- The command at the head of the queue leaves it. -/
def State.popStack (s : State) (k : Nat) : State := s.setStack k { s.stack k with queue := (s.stack k).queue.drop 1 }

/-- Whether OP0 lies in this stack and in a page of R210. -/
def State.stackOp (s : State) (k : Nat) (p : Packet) (i : Nat) (a : Acc) : Option Nat :=
  if p.op i = 0 then none
  else match s.nearPa (stackParty k) p.ctx p.user a (p.op i) with
    | some pa => if stackOf pa = k then some pa else none
    | none => none

/-- The bytes of results of `tq`. -/
def queryResults (t : SubTable) (n : Nat) (idx : List Byte) : List Byte :=
  (List.range n).flatMap fun i => leBytes (if t.wideRes then 2 else 1) (t.look (packedIndex t.wideIdx idx i)).toNat

/-- The query of a command whose operands are in place. -/
def State.query (s : State) (k : Nat) (p : Packet) (pa0 pa1 : Nat) : State :=
  let n := p.arg 0
  let wi := bitOf p.flags 0
  let wr := bitOf p.flags 1
  let n0 := ((if wi then 10 else 8) * n + 7) / 8
  let n1 := (if wr then 2 else 1) * n
  if !(inPage pa0 n0 && inPage pa1 n1) then s.rejectCommand p 2
  else match (s.stack k).tableOf p.number p.ctx with
  | none => s.rejectCommand p 4
  | some t =>
    if t.wideIdx != wi || t.wideRes != wr then s.rejectCommand p 5
    else
      let src := cellRun pa0 n0
      let u := (s.checkRead p.core src).countMem src false
      if (s.badAt src).isSome then u.finishCommand p 3 0 0
      else
        let dst := cellRun pa1 n1
        ((u.checkRead p.core (dst.filter (inPartWord pa1 n1))).commandWrites p dst (queryResults t n (s.commandSees src))).finishCommand p 1 0 n

/-- TQ_COMMAND (R261-R263): the query at the head of a stack controller's queue; a near-memory call that no unit could take is
rejected here (R340). -/
def execTqCommand (k : Nat) (s : State) : Out :=
  match (s.stack k).queue with
  | [] => .next s
  | p :: _ =>
    let t := s.popStack k
    let f := s.firstTests p
    if p.kind = kindTable ∨ s.commandStalled p k then .next s
    else if f ≠ 0 then .next (t.rejectCommand p f)
    else if p.kind = kindCall then .next (t.rejectCommand p 1)
    else
      let u := t.operandReport (stackParty k) p 2
      match s.stackOp k p 0 .load, s.stackOp k p 1 .store with
      | some a, some b => .next (u.query k p a b)
      | _, _ => .next (u.rejectCommand p 1)

/-- TLOAD_COMMAND (R259, R261, R262): the table load at the head of a stack controller's queue. -/
def execTloadCommand (k : Nat) (s : State) : Out :=
  match (s.stack k).queue with
  | [] => .next s
  | p :: _ =>
    let t := s.popStack k
    let f := s.firstTests p
    if p.kind ≠ kindTable ∨ s.commandStalled p k then .next s
    else if f ≠ 0 then .next (t.rejectCommand p f)
    else
      let t := t.operandReport (stackParty k) p 1
      match s.stackOp k p 0 .load with
      | none => .next (t.rejectCommand p 1)
      | some pa =>
        match tableGeometry (p.arg 0) with
        | none => .next (t.rejectCommand p 6)
        | some (wi, wr) =>
          let old := (s.stack k).table p.number
          let src := cellRun pa (p.arg 0)
          if !inPage pa (p.arg 0) then .next (t.rejectCommand p 2)
          else if old.v && old.ctx.toNat != p.ctx then .next (t.rejectCommand p 3)
          else
            let u := (t.checkRead p.core src).countMem src false
            if (s.badAt src).isSome then .next (u.finishCommand p 3 0 0)
            else
              let es := tableEntries wr (s.commandSees src)
              let c := u.stack k
              let v := u.setStack k
                { c with tables := SMap.set SubTable.reset c.tables p.number ⟨true, BitVec.ofNat 12 p.ctx, wi, wr, es⟩ }
              .next (v.finishCommand p 1 0 es.length)

end Sys2Proof.Machine
end

