-- ==== Sys2Proof/Machine/Streams.lean ====
section
/-! DEFINITION. Streams: shadow windows (R226-R228), `sbind`, `sgo` and `sbar` (R196-R198), the fused operators (R201, R202, R264),
a stream's start, its element accesses and its completion (R197, R199, R213, R223), and queue-bound ports (R193). -/

namespace Sys2Proof.Machine

/-! ### Shadow windows (R226, R227) -/

def State.shadow (s : State) (k : Nat) : Shadow := SMap.get Shadow.reset s.shadows k

/-- One past the window's last byte. -/
def Shadow.limit (w : Shadow) : Nat := w.winb.toNat + w.npos * esizeOf w.esize

/-- Bytes of an index. -/
def Shadow.width (w : Shadow) : Nat := if w.wide then 8 else 4

/-- Whether a descriptor's 32 bytes meet R226. -/
def shadowOk (bs : List Byte) : Bool :=
  let w := Shadow.ofBytes bs
  let z := leAt bs 28 1 % 8
  addrOk (leAt bs 0 8) 6 && addrOk (leAt bs 8 8) z && addrOk (leAt bs 16 8) (if w.wide then 3 else 2)
    && decide (leAt bs 24 4 ≤ 16777216) && decide (leAt bs 28 1 < 16) && decide (z ≤ 6) && zeroAt bs 29 3

/-- Whether a window overlaps that of another bound slot of a context. -/
def State.shadowMeets (s : State) (c slot : Nat) (w : Shadow) : Bool :=
  s.shadows.any fun p => p.1 / 64 == c && p.1 % 64 != slot && p.2.npos != 0
    && decide (p.2.winb.toNat < w.limit) && decide (w.winb.toNat < p.2.limit)

/-- R227 SWBIND. -/
def execSwbind (rd : DReg) (ra rb : SReg) (s : State) : Out :=
  let a := s.readS ra
  let n := (s.readS rb).toNat
  if 63 < n then .next s.illegal
  else if a.toNat % 32 ≠ 0 then .next (s.trap causeMisaligned a)
  else s.withLoad a.toNat 32 fun t bs =>
    let w := Shadow.ofBytes bs
    let k := 64 * s.me.ctx + n
    let none_ := leAt bs 24 4 % 2 ^ 25 == 0
    if !none_ && (!shadowOk bs || s.shadowMeets s.me.ctx n w) then .next (t.trap causeStream a)
    else
      let u := { t with shadows := SMap.set Shadow.reset t.shadows k (if none_ then Shadow.reset else w) }
      .next (u.finish rd (s.shadow k).winb 4)

/-! ### sbind (R71, R196) -/

/-- The check of R71. -/
def Agu.wordOk (a : Agu) : Bool :=
  fld a.aword.toNat 18 3 != 7 && decide (a.op ≤ 11) && (a.op != opNone || a.arg == 0)
    && (!a.bt || a.op == opNone || a.op == opScale || a.reduces || a.op == opConvert)

/-- Whether an AGU is attached, and its port stream-bound in its region. -/
def State.aguPlaced (s : State) (a : Agu) : Bool :=
  match a.attach with
  | some (_, g) => (match (s.region g).bind a.port with
    | .stream _ => true
    | _ => false)
  | none => false

/-- AGU `n` of the executing core's die; of MD(n − 128) for a supervisor (log 108). -/
def State.myAgu (s : State) (n : Nat) : Nat := 64 * dieOfCore s.cur + n

/-- R196 SBIND. -/
def execSbind (ra rb : SReg) (s : State) : Out :=
  let a := s.readS ra
  let n := (s.readS rb).toNat
  if 63 < n then .next s.illegal
  else if a.toNat % 16 ≠ 0 then .next (s.trap causeMisaligned a)
  else s.withLoad a.toNat 16 fun t bs =>
    let old := s.agu (s.myAgu n)
    let x := { old with aword := BitVec.ofNat 128 (leNat bs), st := .bound }
    if !x.wordOk || !s.aguPlaced x || (s.me.user && old.ctx.toNat != s.me.ctx) then .next (t.trap causeStream a)
    else if old.st.live then .next s
    else .next ((t.setAgu (s.myAgu n) x).skip 4)

/-! ### sgo (R197, R201, R228, R264) -/

/-- The constant-bank entries an operator uses. -/
def Agu.entriesUsed (a : Agu) : Nat :=
  if a.op = opNone ∨ a.op = opShadow ∨ a.op = opCompact then 0
  else if a.op = opFilter then 2
  else if a.op = opKeyed then 4
  else 1

/-- Entry `k` of an AGU's ARGS. -/
def Agu.argWord (a : Agu) (k : Nat) : W32 := (a.args[k]?).getD 0

/-- The formats of R25 that CONVERT admits. -/
def convFmt : Nat → Option Fmt
  | 0 => some fmtF32
  | 1 => some fmtF16
  | 2 => some fmtBF16
  | 3 => some fmtE4M3
  | 4 => some fmtE5M2
  | _ => none

/-- The bound slot of a context whose window holds an address. -/
def State.shadowAt (s : State) (c va : Nat) : Option Shadow :=
  (s.shadows.find? fun p => p.1 / 64 == c && p.2.npos != 0 && decide (p.2.winb.toNat ≤ va) && decide (va < p.2.limit)).map (·.2)

/-- What an operator requires of its A-word and its entries (R201, R202, R228, R264). -/
def Agu.opOk (a : Agu) (win : Option Shadow) : Bool :=
  let k := (a.argWord 0).toNat
  if a.op = opScale then decide (4 ≤ a.esize)
  else if a.op = opFilter then decide (4 ≤ a.esize) && decide (k % 8 ≤ 5)
  else if a.reduces then decide (4 ≤ a.esize)
  else if a.op = opKeyed then
    let l := fld (a.argWord 1).toNat 0 5
    a.outward && a.esize == 8 && k % 64 == 0 && decide (1 ≤ l) && decide (l ≤ 20) && decide (k + 8 * 2 ^ l ≤ 0x6000000)
  else if a.op = opQuery then !a.outward && k / 1024 == 0 && a.esize == (if bitOf k 8 then 2 else 1)
  else if a.op = opShadow then a.count1 == 1 && a.count2 == 1 && win.elim false fun w => esizeOf w.esize == a.esize
  else if a.op = opIntMac then !a.outward && (a.esize == 16 || a.esize == 32 || a.esize == 64)
  else if a.op = opConvert then
    match convFmt (fld k 0 5), convFmt (fld k 8 5) with
    | some f, some _ => fld k 0 5 != fld k 8 5 && a.esize % (f.width / 8) == 0
    | _, _ => false
  else if a.op = opCompact then !a.outward
  else true

/-- Entries k(arg) to k(arg + 3) of the attached region's origin tile; free values where the AGU is attached to none (log 114). -/
def State.bankArgs (s : State) (a : Agu) : List W32 :=
  (List.range 4).map fun k =>
    if a.entriesUsed ≤ k then 0
    else match a.attach with
      | some t => SMap.get 0 (s.tile t.2).kbank (a.arg + k)
      | none => (s.free k).setWidth 32

/-- Streams before a new one on the port of an AGU's region. -/
def State.placeOf (s : State) (a : Agu) : Nat := a.attach.elim 0 fun t => (s.rivals t.2 a.port).length

/-- R197 SGO. A bound AGU whose load has ended has no region: its stream is queued, and has no port to start on (log 114). -/
def execSgo (ra : SReg) (s : State) : Out :=
  let n := (s.readS ra).toNat
  let i := s.myAgu n
  let a := s.agu i
  if 63 < n then .next (s.trap causeStream ((s.free 0).setWidth 64))
  else
    let base := BitVec.ofNat 64 a.base
    let b := { a with args := s.bankArgs a }
    let win := if a.op = opShadow then s.shadowAt a.ctx.toNat a.base else none
    if a.st ≠ .bound then .next (s.trap causeStream base)
    else if 256 < a.arg + a.entriesUsed ∨ !b.opOk win then .next (s.trap causeStream base)
    else .next ((s.setAgu i { Agu.reset with
      attach := a.attach, ctx := a.ctx, aword := a.aword, args := b.args, st := .queued, run := a.run + 1, issuer := s.cur,
      user := s.me.user, place := s.placeOf a, shadow := win.getD Shadow.reset }).skip 4)

/-- R198 SBAR. -/
def execSbar (ra : SReg) (s : State) : Out :=
  let m := (s.readS ra).toNat
  if (List.range 64).any fun n => bitOf m n && (s.agu (s.myAgu n)).st.live then .next s else .next (s.skip 4)

/-- STREAM_START (R197): a queued stream with none before it on its port runs. -/
def execStreamStart (i : Nat) (s : State) : Out :=
  let a := s.agu i
  if a.st = .queued ∧ a.place = 0 ∧ a.attach.isSome then .next (s.setAgu i { a with st := .running }) else .next s

/-- STREAM_COMPLETION (R197): a stream that has delivered all it has is bound again, and those behind it on its port move up. -/
def execStreamCompletion (i : Nat) (s : State) : Out :=
  let a := s.agu i
  if a.st = .running ∧ a.done ∧ a.closed ∧ (a.outward ∨ a.bytes = []) then
    .next (s.leavePort i a)
  else .next s

/-! ### The walk over elements (R199) -/

/-- The address of the next element, 64 bits. -/
def Agu.addr (a : Agu) : Nat :=
  (((a.base + a.i0 * a.esize : Nat) : Int) + (a.i1 * a.stride1 + a.i2 * a.stride2) * a.unit) % 2 ^ 64 |>.toNat

/-- The next element is behind. -/
def Agu.advance (a : Agu) : Agu :=
  if a.i0 + 1 < a.count0 then { a with i0 := a.i0 + 1 }
  else if a.i1 + 1 < a.count1 then { a with i0 := 0, i1 := a.i1 + 1 }
  else if a.i2 + 1 < a.count2 then { a with i0 := 0, i1 := 0, i2 := a.i2 + 1 }
  else { a with i0 := 0, i1 := 0, i2 := a.i2 + 1, done := true }

/-- Elements still to come. -/
def Agu.left (a : Agu) : Nat := a.count0 * a.count1 * a.count2 - (a.i0 + a.count0 * (a.i1 + a.count1 * a.i2))

/-- An AGU as a party that translates. -/
def aguParty (i : Nat) : Nat := 1000 + i

/-- The package whose span link an access of a stream waits for, in a walk, in a block table or at its address (R376). -/
def State.streamHeld (s : State) (i : Nat) (a : Agu) (va : Nat) : Option Nat :=
  if a.bt then s.rangesHeld (s.kvRanges a.ctx.toNat va)
  else match s.translate (aguParty i) a.ctx.toNat a.user .load va with
    | some pa => s.heldBy pa
    | none => s.walkHeld (aguParty i) a.ctx.toNat va

/-- What a stream's access of `n` bytes read to find them: walks are counted, and reads of a block table counted and checked. -/
def State.streamWalk (s : State) (i : Nat) (a : Agu) (va n : Nat) : State :=
  if a.bt then s.readRanges a.issuer (s.kvRanges a.ctx.toNat va ++ s.kvRanges a.ctx.toNat (va + n - 1)).dedup
  else s.walkNote (aguParty i) a.ctx.toNat va n

/-- Whether a stream's access at an address is one whose package became unreachable while it waited (R376). -/
def State.streamLost (s : State) (i : Nat) (a : Agu) (va : Nat) : Bool :=
  (match a.span with
    | some (_, b) => b
    | none => false)
    && !a.bt && (s.translate (aguParty i) a.ctx.toNat a.user .load va).isSome && (s.streamHeld i a va).isNone

/-- An address that a stream cannot reach: it waits for a span link, or it takes a translation fault (R213): the stream stalls alone,
and its issuer hears of it. -/
def State.stallStream (s : State) (i va : Nat) : State :=
  let a := s.agu i
  match s.streamHeld i a va with
  | some p => s.setAgu i { a with span := some (p, false) }
  | none =>
  let s := if a.bt then s.readRanges a.issuer (s.kvRanges a.ctx.toNat va) else s.walkReport a.issuer (aguParty i) a.ctx.toNat va
  ((s.setAgu i { a with st := .stalled, failVa := va % 2 ^ 56 }).pend a.issuer 0x101 (BitVec.ofNat 64 (i % 64 * 2 ^ 56 + va % 2 ^ 56))).count
    (0x200 + 16 * (i / 64) + 4) 1

/-- What a stream's read of `k` bytes at a physical address finds: a write through another window that no `fence.win` has ordered need not
be seen; a store to a scratchpad that its `sgo` released is (R197, R270). The dispatcher window is read 4 or 8 aligned bytes at a time
(R275). -/
def State.streamAt (s : State) (a : Agu) (pa k : Nat) : Option (List Byte × List Nat) :=
  if isDisp pa then
    let off := pa - dispBase
    if dispAligned off k && dispThere off k && s.windowOpen a.user a.ctx.toNat off then some (leBytes k (s.dispLoad off k), []) else none
  else (s.liveCells pa k).map fun as => (s.sees (Via.stream.path (s.windowOf pa)) as, cellRun pa k)

/-- What a stream's read finds, granule by granule: bytes and the physical addresses they come from, or the address that fails. -/
def State.fetchFrom (s : State) (i : Nat) (a : Agu) : Nat → Nat → Nat → Except Nat (List Byte × List Nat)
  | 0, va, n => if n = 0 then .ok ([], []) else .error va
  | fuel + 1, va, n =>
    if n = 0 then .ok ([], [])
    else
      let k := min n (16 - va % 16)
      let got := if a.bt then (s.kvAt a.ctx.toNat va).map fun x => s.kvRead x k
        else (s.translate (aguParty i) a.ctx.toNat a.user .load va).bind fun pa => s.streamAt a pa k
      match (if got.isNone && s.streamLost i a va then some (List.replicate k 0xFF, []) else got) with
      | none => .error va
      | some (bs, as) => match s.fetchFrom i a fuel (va + k) (n - k) with
        | .ok (cs, ds) => .ok (bs ++ cs, as ++ ds)
        | .error v => .error v

/-- A stream's read of `n` bytes: the state after its checks, the bytes, and whether a soft error poisons them. -/
def State.streamRead (s : State) (i : Nat) (a : Agu) (va n : Nat) : Except Nat (State × List Byte × Bool) :=
  match s.fetchFrom i a (n / 16 + 2) va n with
  | .ok (bs, pas) =>
    .ok (((s.streamWalk i a va n).checkRead a.issuer pas).countMem (pas.filterMap s.canon) false, bs, (s.badPa pas).isSome)
  | .error v => .error v

/-- What a stream's write of an element meets. -/
inductive Aim where
  | cells (s : State) (pas : List Nat)
  | fault (va : Nat)
  | wait (s : State)
  | share (k : KvAt)
  | lost
  deriving Repr

/-- The physical addresses a write reaches, granule by granule (R199, R219). -/
def State.aim (s : State) (i : Nat) (a : Agu) : Nat → Nat → Nat → Aim
  | 0, va, n => if n = 0 then .cells s [] else .fault va
  | fuel + 1, va, n =>
    if n = 0 then .cells s []
    else
      let k := min n (16 - va % 16)
      let here : Aim :=
        if a.bt then match s.kvAt a.ctx.toNat va with
          | none => .fault va
          | some x => match s.kvWrite a.ctx.toNat x k with
            | .ready t as => .cells t as
            | .wait t => .wait t
            | .share => .share x
        else match (s.translate (aguParty i) a.ctx.toNat a.user .store va).bind fun pa => (s.liveCells pa k).map fun _ => cellRun pa k with
          | none => if s.streamLost i a va then .lost else .fault va
          | some as => .cells s as
      match here with
      | .cells t as => (match t.aim i a fuel (va + k) (n - k) with
        | .cells u bs => .cells u (as ++ bs)
        | o => o)
      | o => o

/-! ### Operators on the words of an element (R201) -/

/-- The 32-bit words of an element. -/
def elemWords (bs : List Byte) : List W32 := wordsAt bs 0 (bs.length / 4)

/-- The test of FILTER on a word. -/
def filterTest (code : Nat) (x t : W32) : Bool :=
  let c := FVal.cmp (fmtF32.decode x.toNat) (fmtF32.decode t.toNat)
  match code with
  | 0 => x == t
  | 1 => x != t
  | 2 => decide (x.toInt < t.toInt)
  | 3 => decide (t.toInt ≤ x.toInt)
  | 4 => c == some .lt
  | _ => c == some .gt || c == some .eq

/-- A reduction of two words. -/
def Agu.reduceWord (a : Agu) (x y : W32) : W32 :=
  let fp := (a.argWord 0).getLsbD 0
  if a.op = opSum then (if fp then BitVec.ofNat 32 (fmtF32.addBits x.toNat y.toNat).1 else x + y)
  else
    let big := a.op == opMax
    if fp then BitVec.ofNat 32 (fmtF32.minMax big x.toNat y.toNat).1
    else if (x.toInt ≤ y.toInt) == big then y else x

def Agu.reduceWords (a : Agu) (xs ys : List W32) : List W32 := (xs.zip ys).map fun p => a.reduceWord p.1 p.2

/-- The fields of an element converted and packed. -/
def Agu.convert (a : Agu) (bs : List Byte) : List Byte :=
  let k := (a.argWord 0).toNat
  match convFmt (fld k 0 5), convFmt (fld k 8 5) with
  | some f, some t =>
    let w := f.width / 8
    (List.range (bs.length / w)).flatMap fun j => leBytes (t.width / 8) (convertBits f t (bitOf k 16) (leAt bs (w * j) w)).1
  | _, _ => bs

/-- INT-MAC of an element's halves. -/
def Agu.intMac (a : Agu) (bs : List Byte) : W32 :=
  let h := bs.length / 2
  BitVec.ofInt 32 ((a.argWord 0).toInt + ((bs.take h).zip (bs.drop h)).foldl (fun t p => t + p.1.toInt * p.2.toInt) 0)

/-- SCALE of an element. -/
def Agu.scale (a : Agu) (bs : List Byte) : List Byte :=
  wordBytes ((elemWords bs).map fun x => BitVec.ofNat 32 (fmtF32.mulBits x.toNat (a.argWord 0).toNat).1)

/-! ### Into the fabric -/

/-- Bytes delivered to the entry that is being filled. -/
def Agu.deliver (a : Agu) (bs : List Byte) (bad : Bool) : Agu :=
  { a with bytes := a.bytes ++ bs, poison := a.poison ++ List.replicate bs.length bad }

/-- Zero bytes that fill a partial entry. -/
def Agu.padded (a : Agu) : Agu := a.deliver (zeros ((64 - a.bytes.length % 64) % 64)) false

/-- What follows the last element: the partial entry filled, COMPACT's count, and a zero entry where the entries are odd in number
(R199, R201). -/
def Agu.close (a : Agu) : Agu :=
  let b := a.padded
  let c := if a.op = opCompact then b.deliver (leBytes 8 a.count ++ zeros 56) false else b
  let d := if (a.entries + c.bytes.length / 64) % 2 = 1 then c.deliver (zeros 64) false else c
  { d with closed := true }

/-- An element's bytes pass through the operator, and the walk goes on. -/
def Agu.takeIn (a : Agu) (bs : List Byte) (bad : Bool) : Agu :=
  let b :=
    if a.op = opScale then a.deliver (a.scale bs) bad
    else if a.op = opFilter then
      (if bad || filterTest ((a.argWord 0).toNat % 8) (w32At bs 0) (a.argWord 1) then a.deliver bs bad else a)
    else if a.reduces then
      let xs := if a.i0 = 0 then elemWords bs else a.reduceWords a.acc (elemWords bs)
      let p := bad || (a.i0 != 0 && a.accBad)
      if a.i0 + 1 = a.count0 then { a.deliver (wordBytes xs) p with acc := [], accBad := false } else { a with acc := xs, accBad := p }
    else if a.op = opIntMac then a.deliver (leBytes 4 (a.intMac bs).toNat) bad
    else if a.op = opConvert then a.deliver (a.convert bs) bad
    else if a.op = opCompact then (if !bad && bs.all (· == 0) then a else { a.deliver bs bad with count := a.count + 1 })
    else a.deliver bs bad
  let c := b.advance
  if c.done then c.close else c

/-- The port entry that the first 64 bytes waiting make. -/
def Agu.entry (a : Agu) : PEntry :=
  ⟨a.bytes.take 64, BitVec.ofNat 16 (packBits ((List.range 16).map fun w => ((a.poison.drop (4 * w)).take 4).any id))⟩

/-- A target of SHADOW: the address behind position `p` of its window, or the address that fails; and whether a soft error met the
index (R228). -/
def State.shadowTarget (s : State) (i : Nat) (a : Agu) : Except Nat (State × Nat × Bool) :=
  let va := a.addr
  let w := a.shadow
  let p := (va - w.winb.toNat) / a.esize
  if w.npos ≤ p then .error va
  else match s.streamRead i a (w.idxa.toNat + p * w.width) w.width with
    | .error v => .error v
    | .ok (t, bs, bad) =>
      let x := (w.tgtb.toNat + leNat bs * a.esize) % 2 ^ 64
      if 2 ^ 56 ≤ x then .error x else .ok (t, x, bad)

/-- QUERY of an index at an address (R264): its result and whether it is poisoned. -/
def State.streamQuery (s : State) (i : Nat) (a : Agu) : Except Nat (State × List Byte × Bool) :=
  let k := (a.argWord 0).toNat
  match s.nearPa (aguParty i) a.ctx.toNat a.user .load a.addr with
  | none => .error a.addr
  | some pa =>
    let as := cellRun pa a.esize
    let wr := bitOf k 9
    let t := ((s.walkNote (aguParty i) a.ctx.toNat a.addr a.esize).checkRead a.issuer as).countMem as false
    let x := leNat (s.sees (Via.stream.path 2) as) % (if bitOf k 8 then 1024 else 256)
    let hit := match (s.stack (stackOf pa)).tableOf (k % 256) a.ctx.toNat with
      | some b => if b.wideIdx == bitOf k 8 && b.wideRes == wr && (s.badAt as).isNone then some (b.look x).toNat else none
      | none => none
    .ok (t, leBytes (if wr then 2 else 1) (hit.getD 0), hit.isNone)

/-- The bytes of the next element of a stream into the fabric. -/
def State.nextIn (s : State) (i : Nat) (a : Agu) : Except Nat (State × List Byte × Bool) :=
  if a.op = opQuery then s.streamQuery i a
  else if a.op = opShadow then
    match s.shadowTarget i a with
    | .error v => .error v
    | .ok (t, x, bad) => match t.streamRead i a x a.esize with
      | .error v => .error v
      | .ok (u, bs, bad2) => .ok (u, bs, bad || bad2)
  else s.streamRead i a a.addr a.esize

/-- The residue check of an INT-MAC element does not match (R51): a soft error on its issuer. The result has no write: its stack, one of the
AGU's die, and its address are free (log 117). -/
def State.macMiss (s : State) (i : Nat) (a : Agu) : State :=
  s.softErrorIn a.issuer (2 * (i / 64) + (s.free 1).toNat % 2) ((s.free 0).setWidth 64)

/-- An element's bytes are taken in; an INT-MAC word whose check does not match is delivered poisoned (R201). -/
def State.takeElement (s : State) (i : Nat) (a : Agu) (bs : List Byte) (bad : Bool) : State :=
  if a.op = opIntMac ∧ a.miss then (s.macMiss i a).setAgu i ({ a with miss := false }.takeIn bs true)
  else s.setAgu i (a.takeIn bs bad)

/-- One access of a stream into the fabric: a whole entry goes to its port first; no latch of a stopped region changes (R150). -/
def State.streamIn (s : State) (i : Nat) : State :=
  let a := s.agu i
  let g := a.attach.elim 0 (·.2)
  let r := s.region g
  if 64 ≤ a.bytes.length then
    if !r.isStopped ∧ (r.queue a.port).length < 2 then
      (s.setRegion g { r with ports := SMap.set [] r.ports a.port (r.queue a.port ++ [a.entry]) }).setAgu i
        { a with bytes := a.bytes.drop 64, poison := a.poison.drop 64, entries := a.entries + 1 }
    else s
  else if a.done then s
  else match s.nextIn i a with
    | .error va => s.stallStream i va
    | .ok (t, bs, bad) => t.takeElement i a bs bad

/-! ### Out of the fabric -/

/-- A scan freeze holds a region: none of its latches changes (R150). -/
def Region.scanned (r : Region) : Bool :=
  match r.mode with
  | .gated 3 _ => true
  | _ => false

/-- The first entry of released egress for a port, and the buffer without it (R191, R193). -/
def takeEntry (p : Nat) : List Egress → Option (List Byte × List Egress)
  | [] => none
  | e :: es =>
    match e.kind with
    | .stage q ws po =>
      if q = p then
        let rest := if 16 < ws.length then { e with kind := .stage q (ws.drop 16) (po >>> 16) } :: es else es
        some (wordBytes (ws.take 16), rest)
      else (takeEntry p es).map fun x => (x.1, e :: x.2)
    | _ => (takeEntry p es).map fun x => (x.1, e :: x.2)

/-- An entry that a region has released for a port, and what is then left; a scan freeze holds it back. -/
def Region.entryOut (r : Region) (p : Nat) : Option (List Byte × List Egress) := if r.scanned then none else takeEntry p r.released

/-- Whether the output of a load is at its end: every region at the last boundary of the load (R199, R240). -/
def State.outputOver (s : State) (l : Nat) : Bool :=
  let x := s.load l
  x.st == .resident && x.counted && s.allIn l .boundary
    && (if x.ttcount = 0 then s.dry l && s.producersEnded l else decide (x.ttcount ≤ x.ttrun))

/-- The element is written; a soft error of what it was to be combined with leaves memory as it is (R352). -/
def State.putElement (s : State) (i : Nat) (a : Agu) (pas : List Nat) (bs : List Byte) : State :=
  let as := pas.filterMap s.canon
  let t := if a.reduces ∨ pas.length < 4 then s.checkRead a.issuer pas else s
  let old := s.seesPas .stream pas
  let new := if a.reduces then wordBytes (a.reduceWords (elemWords old) (elemWords bs)) else bs
  let t := if a.reduces then t.countMem as false else t
  let u := if a.reduces && (s.badPa pas).isSome then t else (t.putPas .stream a.issuer pas new).countMem as true
  u.setAgu i { (u.agu i) with bytes := a.bytes.drop a.esize, poison := [] }

/-- A stream's AGU after an element has gone out. -/
def State.passed (s : State) (i : Nat) : State :=
  let b := (s.agu i).advance
  s.setAgu i { b with closed := b.done }

/-- An element that is dropped: not written, its address consumed. -/
def State.dropElement (s : State) (i : Nat) (a : Agu) : State := (s.setAgu i { a with bytes := a.bytes.drop a.esize }).passed i

/-- The next element is written at an address whose lookups have been read. -/
def State.writeElement (s : State) (i : Nat) (a : Agu) (va : Nat) (bs : List Byte) : State :=
  match s.aim i a (bs.length / 16 + 2) va bs.length with
  | .cells t as => (t.putElement i a as bs).passed i
  | .fault v => s.stallStream i v
  | .wait t => t
  | .share _ => s
  | .lost => s.dropElement i a

/-- The next element is written at an address. -/
def State.writeAt (s : State) (i : Nat) (a : Agu) (va : Nat) (bs : List Byte) : State :=
  (s.streamWalk i a va bs.length).writeElement i a va bs

/-- The bytes an element stores. -/
def Agu.outBytes (a : Agu) : List Byte :=
  let bs := a.bytes.take a.esize
  if a.op = opScale then a.scale bs else if a.op = opConvert then a.convert bs else bs

/-- One access of a stream out of the fabric. -/
def State.streamOut (s : State) (i : Nat) : State :=
  let a := s.agu i
  let l := a.attach.elim 0 (·.1)
  let g := a.attach.elim 0 (·.2)
  let r := s.region g
  if a.done then s
  else if a.bytes.length < a.esize then
    match r.entryOut a.port with
    | some (bs, rest) => (s.setRegion g { r with released := rest }).setAgu i { a with bytes := a.bytes ++ bs }
    | none => if s.outputOver l then s.setAgu i { a with done := true, closed := true } else s
  else if a.op = opFilter ∧ !filterTest ((a.argWord 0).toNat % 8) (w32At a.bytes 0) (a.argWord 1) then s.dropElement i a
  else if a.op = opShadow then
    match s.shadowTarget i a with
    | .error v => s.stallStream i v
    | .ok (t, x, bad) => if bad then t.dropElement i a else t.writeAt i a x a.outBytes
  else s.writeAt i a a.addr a.outBytes

/-! ### Pushes onto stage queues (R171) -/

/-- How a push or a pop of a queue ends. -/
inductive Queued where
  | ok (s : State)
  | stall
  | held (p : Nat)        -- it waits for the span link of a package (R376)
  | fault (va : Nat)
  deriving Repr

/-- An access of a queue that reaches nothing: it waits for a span link, or fails at an address. -/
def State.queueFault (s : State) (who c : Nat) (user : Bool) (a : Acc) (va n : Nat) : Queued :=
  match s.vaHeld who c user a va n with
  | some p => .held p
  | none => .fault va

/-- The cell of the SQD at an address of a party. -/
def State.sqdCellOf (s : State) (who c : Nat) (user : Bool) (va : Nat) : Option Nat := (s.translate who c user .load va).bind s.canon

/-- An entry pushed by a party; the queue's entries must have its size. -/
def State.pushQueue (s : State) (who c : Nat) (user : Bool) (va : Nat) (bs : List Byte) : Queued :=
  match s.sqdAt who c user va with
  | none => s.queueFault who c user .load va 64
  | some q =>
    if q.esize ≠ bs.length then .fault va
    else if q.count = q.cap then .stall
    else match s.writeVa who c user (q.entry q.tail) bs with
      | none => s.queueFault who c user .store (q.entry q.tail) bs.length
      | some t => match t.writeVa who c user (va + 24) (leBytes 8 (q.tail + 1)) with
        | none => s.queueFault who c user .store va 64
        | some u =>
          let v := (u.readNote who c [(va, 64)]).walkNote who c (q.entry q.tail) bs.length
          .ok (if q.count = 0 then v.noteFed (s.sqdCellOf who c user va) (some s.gcyc) else v)

/-- The words without a matching residue of an entry of a queue. -/
def State.entryBad (s : State) (who c : Nat) (user : Bool) (va n : Nat) : List Nat :=
  (List.range (n / 16)).flatMap fun k => s.readBad who c user (va + 16 * k) 16

/-- The oldest entry popped, which arrives clean (R193); soft errors among its words are reported on the supervisor of their stack's die
(R352; log 106). -/
def State.popQueue (s : State) (who c : Nat) (user : Bool) (va n : Nat) : Except Queued (State × PEntry) :=
  match s.sqdAt who c user va with
  | none => .error (s.queueFault who c user .load va 64)
  | some q =>
    let e := q.entry q.head
    if q.esize ≠ n then .error (.fault va)
    else if q.count = 0 then .error .stall
    else match s.vaCells who c user .load (granulesOf n) e n with
      | none => .error (s.queueFault who c user .load e n)
      | some as => match s.writeVa who c user (va + 16) (leBytes 8 (q.head + 1)) with
        | none => .error (s.queueFault who c user .store va 64)
        | some u =>
          let t := u.readNote who c [(va, 64), (e, n)]
          let v := (s.entryBad who c user e n).foldl (fun t pa => t.softError (svOf (t.stackAt pa / 2)) pa) t
          .ok (if q.count = 1 then v.noteFed (s.sqdCellOf who c user va) none else v, ⟨as.map s.readCell, 0⟩)

/-! ### KEYED-REDUCE (R202) -/

def keyEmpty : W32 := 0xFFFFFFFF

/-- The spill queue's SQD address. -/
def Agu.spillQueue (a : Agu) : Nat := (a.argWord 2).toNat + 2 ^ 32 * (a.argWord 3).toNat

/-- The operation on two values. -/
def Agu.keyedOp (a : Agu) (x y : W32) : W32 :=
  match fld (a.argWord 1).toNat 8 2 with
  | 0 => x + y
  | 1 => BitVec.ofNat 32 (fmtF32.addBits x.toNat y.toNat).1
  | 2 => if x.toInt ≤ y.toInt then y else x
  | _ => BitVec.ofNat 32 (fmtF32.minMax true x.toNat y.toNat).1

/-- The physical addresses of the slots a key probes, in order. -/
def Agu.probes (a : Agu) (md : Nat) (key : W32) : List Nat :=
  let l := fld (a.argWord 1).toNat 0 5
  let h := key.toNat * 0x9E3779B1 % 2 ^ 32 / 2 ^ (32 - l)
  (List.range (min 8 (2 ^ l))).map fun k => portBase + md * 2 ^ 28 + (a.argWord 0).toNat + 8 * ((h + k) % 2 ^ l)

/-- A word at consecutive cells. -/
def State.cellWord (s : State) (pa : Nat) : W32 := BitVec.ofNat 32 (leNat ((cellRun pa 4).map s.readCell))

/-- A pair applied to the table; none where it is to be spilled. -/
def State.applyPair (s : State) (md : Nat) (a : Agu) (k v : W32) : Option State :=
  if a.rowOver || k == keyEmpty then none
  else
    let ps := a.probes md k
    match ps.find? fun p => s.cellWord p == k with
    | some p => some ((s.put .stream a.issuer 0 (cellRun (p + 4) 4) (leBytes 4 (a.keyedOp (s.cellWord (p + 4)) v).toNat)).countMem [p] true)
    | none => match ps.find? fun p => s.cellWord p == keyEmpty with
      | some p => some ((s.put .stream a.issuer 0 (cellRun p 8) (leBytes 4 k.toNat ++ leBytes 4 v.toNat)).countMem [p] true)
      | none => none

/-- Whether one of some physical addresses lies across a link that is not stable yet, as seen from an AGU (R384). -/
def State.linkStalls (s : State) (i : Nat) (pas : List Nat) : Bool := pas.any fun pa => s.crossStalled (8 + i / 64) (s.dieBehind (8 + i / 64) pa)

/-- Where a push onto the spill queue leads: its descriptor and the entry behind its tail. -/
def State.spillPas (s : State) (i : Nat) (a : Agu) : List Nat :=
  (s.translate (aguParty i) a.ctx.toNat a.user .load a.spillQueue).toList
    ++ ((s.sqdAt (aguParty i) a.ctx.toNat a.user a.spillQueue).bind fun q =>
      s.translate (aguParty i) a.ctx.toNat a.user .store (q.entry q.tail)).toList

/-- A pair pushed onto the spill queue; it waits for a link that is not stable yet (R384). -/
def State.spillPair (s : State) (i : Nat) (a : Agu) (k v : W32) : Queued :=
  if s.linkStalls i (s.spillPas i a) then .stall
  else s.pushQueue (aguParty i) a.ctx.toNat a.user a.spillQueue (leBytes 4 k.toNat ++ leBytes 4 v.toNat)

/-- A push onto the spill queue that is not performed: the stream waits, or stalls at the address that failed; a soft error of the
descriptor is reported on its issuer (R352). -/
def State.spillWaits (s : State) (i : Nat) : Queued → State
  | .held p => s.setAgu i { s.agu i with span := some (p, false) }
  | .fault va =>
    let a := s.agu i
    let sqd := (s.translate (aguParty i) a.ctx.toNat a.user .load a.spillQueue).elim [] (cellRun · 64)
    (if va = a.spillQueue then s.checkRead a.issuer sqd else s).stallStream i va
  | _ => s

/-- The pairs of the row that is in hand, one after another, until a spill has to wait. -/
def State.applyRow (s : State) (i : Nat) : List (W32 × W32) → State
  | [] => s
  | (k, v) :: rest =>
    let a := s.agu i
    match s.applyPair (i / 64) a k v with
    | some t => (t.setAgu i { a.advance with row := rest }).applyRow i rest
    | none =>
      match s.spillPair i a k v with
      | .ok t => (t.setAgu i { a.advance with
          row := rest, rowOver := a.rowOver || k != keyEmpty, partialFlag := true, spilled := a.spilled + 1 }).applyRow i rest
      | o => (s.setAgu i { a with row := (k, v) :: rest, rowOver := a.rowOver || k != keyEmpty }).spillWaits i o

/-- The pairs of a port entry. -/
def pairsOf (bs : List Byte) (n : Nat) : List (W32 × W32) := (List.range n).map fun j => (w32At bs (8 * j), w32At bs (8 * j + 4))

/-- One access of a KEYED-REDUCE stream: the rest of a row, the next row, or the completion token. -/
def State.streamKeyed (s : State) (i : Nat) : State :=
  let a := s.agu i
  let g := a.attach.elim 0 (·.2)
  let r := s.region g
  if a.row ≠ [] then s.applyRow i a.row
  else if a.done then
    if a.closed then s
    else match s.spillPair i a keyEmpty (BitVec.ofNat 32 (a.spilled % 2 ^ 31 + if a.partialFlag then 2 ^ 31 else 0)) with
      | .ok t => t.setAgu i { a with closed := true }
      | o => s.spillWaits i o
  else match r.entryOut a.port with
    | some (bs, rest) =>
      let ps := pairsOf bs (min 8 a.left)
      ((s.setRegion g { r with released := rest }).setAgu i { a with row := ps, rowOver := false }).applyRow i ps
    | none => if s.outputOver (a.attach.elim 0 (·.1)) then s.setAgu i { a with done := true } else s

/-- The physical addresses of an access of `n` bytes: its first and its last byte. -/
def State.endsOf (s : State) (i : Nat) (a : Agu) (va n : Nat) : List Nat :=
  [va, va + n - 1].filterMap fun v => s.translate (aguParty i) a.ctx.toNat a.user .load v

/-- Where the memory of a stream's next element lies: behind a block table with what the lookup reads; a shadow index and the target that
it names; the element itself. A KEYED-REDUCE table is in its AGU's own die. -/
def State.nextPas (s : State) (i : Nat) (a : Agu) : List Nat :=
  if a.op = opKeyed then []
  else if a.bt then
    (s.kvRanges a.ctx.toNat a.addr).map (·.1) ++ match s.kvAt a.ctx.toNat a.addr with
      | some k => if (s.pbe k.b k.i).inHot then [k.b.hotSlot k.i + k.off] else [k.b.coldSlot k.i + k.off]
      | none => []
  else if a.op = opShadow then
    s.endsOf i a (a.shadow.idxa.toNat + (a.addr - a.shadow.winb.toNat) / a.esize * a.shadow.width) a.shadow.width
      ++ match s.shadowTarget i a with
        | .ok (_, x, _) => s.endsOf i a x a.esize
        | .error _ => []
  else s.endsOf i a a.addr a.esize

/-- Whether a stream crosses a link that is not stable yet: between its memory-port die and its region's fabric die, or on the way to the
memory of its next element (R384). -/
def State.streamStalled (s : State) (i : Nat) (a : Agu) : Bool :=
  s.pkg.settling.any (fun k => linkEnds k (8 + i / 64) && a.attach.elim false fun t => linkEnds k (t.2 / 128))
    || s.linkStalls i (s.nextPas i a)

/-- STREAM_ELEMENT_ACCESS (R199-R202, R213, R219, R228, R264): a running stream performs its next access. -/
def execStreamElementAccess (i : Nat) (s : State) : Out :=
  let a := s.agu i
  if a.st ≠ .running ∨ s.streamStalled i a then .next s
  else
    let t := if a.op = opKeyed then s.streamKeyed i else if a.outward then s.streamOut i else s.streamIn i
    .next (match a.span with
      | some (_, true) => t.setAgu i { t.agu i with span := none }
      | _ => t)

/-- COPY_ON_WRITE (R223): the shared block that a stream's next write meets is copied and remapped, and the write performed. It is
counted on the memory-port die of the stream's AGU (R161, which does not say on which; log 104). -/
def execCopyOnWrite (i : Nat) (s : State) : Out :=
  let a := s.agu i
  let bs := a.outBytes
  if a.st = .running ∧ !s.streamStalled i a ∧ a.outward ∧ a.bt ∧ !a.done ∧ a.esize ≤ a.bytes.length then
    match s.aim i a (bs.length / 16 + 2) a.addr bs.length with
    | .share k =>
      let (t, ok) := (s.streamWalk i a a.addr bs.length).copyBlock a.ctx.toNat k
      if ok then .next ((t.writeElement i (t.agu i) a.addr bs).count (0x200 + 16 * (i / 64) + 5) 1) else .next (t.stallStream i a.addr)
    | _ => .next s
  else .next s

/-! ### Queue-bound ports (R193) -/

/-- The context of a region's load. -/
def State.regionCtx (s : State) (g : Nat) : Nat := (s.region g).ctx.toNat

/-- PORT_QUEUE_FILL (R193): an entry of the stage queue enters a free place of an input port's queue; no latch of a stopped region
changes (R150). -/
def execPortQueueFill (g port : Nat) (s : State) : Out :=
  let r := s.region g
  match r.bind port with
  | .input q =>
    if !r.holds || r.isStopped || decide (2 ≤ (r.queue port).length) then .next s
    else match s.popQueue dispParty (s.regionCtx g) false q.toNat 64 with
      | .ok (t, e) => .next (t.setRegion g { r with ports := SMap.set [] r.ports port (r.queue port ++ [e]) })
      | .error (.fault v) => .next (s.readReport (s.regionCtx g) ((q.toNat, 64) :: if v = q.toNat then [] else [(v, 64)]))
      | .error _ => .next s
  | _ => .next s

/-- PORT_QUEUE_PUSH (R193): a released entry of an output port joins its stage queue. -/
def execPortQueuePush (g port : Nat) (s : State) : Out :=
  let r := s.region g
  match r.bind port with
  | .output q =>
    match r.entryOut port with
    | none => .next s
    | some (bs, rest) =>
      match s.pushQueue dispParty (s.regionCtx g) false q.toNat bs with
      | .ok t => .next (t.setRegion g { r with released := rest })
      | .fault v =>
        .next (if v = q.toNat then s.readReport (s.regionCtx g) [(v, 64)] else s.writeReport dispParty (s.regionCtx g) v bs.length)
      | _ => .next s
  | _ => .next s

end Sys2Proof.Machine
end

