-- ==== Sys2Proof/Machine/System.lean ====
section
/-! DEFINITION. The part and its surroundings: core reset, bring-up, flash, the host, alarms, span links, Ethernet, link and clock
changes, power (R76, R374-R385). -/

namespace Sys2Proof.Machine

/-! ### Reset (R76, R265) -/

/-- The package as a core reset leaves it: bring-up, flash, record, links and alarm source stay; the fabric runs again (R373, R382). -/
def Package.afterReset (p : Package) : Package := { p with haltFs := false, fabricOff := false }

/-- Every control core and supervisor starts at its TVEC (R378). -/
def State.startCores (s : State) : State :=
  s.each (List.range 136) fun t n => t.setCore n { t.core n with run := .running, pc := (t.core n).tvec &&& ~~~(3 : W64) }

/-- The machine with every item at the value of R76. What lies beyond the package, GCYC, which only power-on clears (R151), and the
interrupts raised so far stay. -/
def State.cleared (s : State) : State :=
  { State.reset with
    agenda := s.agenda, tick := s.tick, serial := s.serial, gcyc := s.gcyc, irqs := s.irqs, hostIn := s.hostIn,
    mem := s.mem.filter (fun p => decide (spanBase ≤ p.1)), pkg := s.pkg }

/-- CORE_RESET (R76): the configuration loader resets the part; its cores run again once bring-up has started them (R140). -/
def execCoreReset (s : State) : Out :=
  let t := { s.cleared with pkg := s.pkg.afterReset }
  if !s.pkg.power then .next s else .next (if 5 ≤ s.pkg.bootStep then t.startCores else t)

/-! ### Bring-up (R378-R380) -/

/-- The boot status changes: the step, with bit 7 for FAILED, and vector 2,042 (log 20). -/
def State.bootNote (s : State) (step : Nat) (ok : Bool) : State :=
  { s with pkg := { s.pkg with bootStatus := BitVec.ofNat 8 (step + if ok then 0 else 128) :: s.pkg.bootStatus } }.raiseIrq 2042

/-- A bring-up step is done. -/
def State.bootDone (s : State) (step : Nat) : State := { s with pkg := { s.pkg with bootStep := step } }.bootNote step true

/-- A check of step 1 or 2 fails: recovery. -/
def State.bootFail (s : State) (step : Nat) : State := { s with pkg := { s.pkg with recovery := true } }.bootNote step false

/-- What flash holds survives a loss of power; a replacement record takes effect (R379, R380). -/
def Package.powered (p : Package) (on : Bool) : Package :=
  { Package.reset with
    power := on, flashOk := p.flashOk, fwVersion := p.fwVersion, record := if on then p.nextRecord.getD p.record else p.record,
    nextRecord := if on then none else p.nextRecord, keyErased := p.keyErased, pkgCount := p.pkgCount, ownPkg := p.ownPkg }

/-- Step 3: what self-test finds, and stack memory zeroed with its residues. -/
def State.selfTest (s : State) (r : BootArgs) : State :=
  { s with
    mem := s.mem.filter (fun p => !isStackCell p.1), resid := [],
    pkg := { s.pkg with dies := r.dies, tiles := (List.range 8).map fun d => (r.tiles[d]?).getD 0 } }

/-- Step 4: the present map is the intersection of record and self-test (R1, R248); a die of the record is one with a tile. -/
def State.presentMap (s : State) : State :=
  let rec_ := s.pkg.record
  let tiles := (List.range 8).map fun d => (s.pkg.tiles[d]?).getD 0 &&& (rec_.tiles[d]?).getD 0
  let dies := (List.range 8).foldl
    (fun (m : BitVec 8) d => if s.pkg.dies.getLsbD d && (rec_.tiles[d]?).getD 0 != 0 then m ||| (1#8 <<< d) else m) 0
  { s with pkg := { s.pkg with dies := dies, tiles := tiles, spare := rec_.spare.map (·.length) } }

/-- The numbers that the host writes for the domain (R376). -/
def State.numberPackages (s : State) (r : BootArgs) : State :=
  if r.own < r.pkgs ∧ r.pkgs ≤ 1024 then { s with pkg := { s.pkg with pkgCount := r.pkgs, ownPkg := r.own } } else s

/-- The next step of bring-up. -/
def State.bootNext (s : State) (r : BootArgs) : State :=
  if s.pkg.recovery then s
  else match s.pkg.bootStep with
  | 0 => if r.ok && s.pkg.flashOk && decide (s.pkg.record.minfw ≤ s.pkg.fwVersion) then s.bootDone 1 else s.bootFail 1
  | 1 => if r.ok then s.bootDone 2 else s.bootFail 2
  | 2 => (s.selfTest r).bootDone 3
  | 3 => s.presentMap.bootDone 4
  | 4 => ({ s with nmus := [] }.startCores).bootDone 5
  | 5 => (s.numberPackages r).bootDone 6
  | _ => s

/-- FIRMWARE_IMAGE_UPDATE (R380): an image that the check of step 1 passes is written to flash; in recovery the part starts again at
step 1. `valid` is the outcome of digest and signature. -/
def execFirmwareImageUpdate (version : Nat) (valid : Bool) (s : State) : Out :=
  let p := s.pkg
  if p.power && valid && decide (p.record.minfw ≤ version) then
    .next { s with pkg := { p with flashOk := true, fwVersion := version, recovery := false,
                                   bootStep := if p.recovery then 0 else p.bootStep } }
  else .next s

/-- CONFIGURATION_RECORD_UPDATE (R379): a signed record of the same SKU replaces the record from the next power-on. -/
def execConfigurationRecordUpdate (h : ConfigRecord) (valid : Bool) (s : State) : Out :=
  if s.pkg.power && valid && h.sku == s.pkg.record.sku then .next { s with pkg := { s.pkg with nextRecord := some h } } else .next s

/-! ### The host (R374) -/

/-- A host write that arrives: the dispatcher window, a fabric memory of a stopped region, or plain memory; where nothing is reached,
nothing is written. -/
def State.hostWrite (s : State) (pa : Nat) (bs : List Byte) : State :=
  let n := bs.length
  if isDisp pa then
    let off := pa - dispBase
    if dispAligned off n && dispThere off n then s.dispStore off n (leNat bs) else s
  else if isFabric pa then
    match s.fabBytes true 0 pa n with
    | some xs => s.fabStore xs bs
    | none => s
  else ((if n < 4 then s.checkMove (cellRun pa n) else s).physWrite pa bs).getD s

/-- What a host read changes beside its return: the soft errors it meets, and the counters (R352, R161). -/
def State.hostRead (s : State) (pa n : Nat) : State :=
  if isDisp pa || isFabric pa then s
  else match s.liveCells pa n with
  | some as => (s.checkMove (cellRun pa n)).countMem as false
  | none => s

/-- What a host read returns; 0xFF where nothing answers. -/
def State.hostBytes (s : State) (pa n : Nat) : List Byte :=
  let none_ := List.replicate n 0xFF
  if isDisp pa then
    let off := pa - dispBase
    if dispAligned off n && dispThere off n then leBytes n (s.dispLoad off n) else none_
  else if isFabric pa then (s.fabBytes true 0 pa n).elim none_ fun xs => xs.map s.fabRead
  else (s.physRead pa n).getD none_

/-- An access of the host that arrives: a read of `n` bytes, or a write where `n` is 0. -/
def State.hostDo (s : State) (pa n : Nat) (bs : List Byte) : State :=
  if n = 0 then s.hostWrite pa bs else { s.hostRead pa n with hostIn := s.hostBytes pa n :: s.hostIn }

/-- An access of the host: it waits for a span link that is down (R376), and behind an earlier one that does: writes arrive in their
order, and a read returns after every earlier write (R374). -/
def State.hostAccess (s : State) (pa n : Nat) (bs : List Byte) : State :=
  if s.hostLate || (s.heldBy pa).isSome then { s with late := s.late ++ [⟨none, pa, bs, none, true, n⟩] } else s.hostDo pa n bs

/-- HOST_ACCESS (R374): a privileged access of the host, once the Ocica service is ready (R378). -/
def execHostAccess (a : HostArgs) (s : State) : Out :=
  if !s.pkg.power || s.pkg.bootStep != 6 then .next s
  else .next (if a.write then s.hostAccess a.pa 0 a.data else if a.size = 0 then s else s.hostAccess a.pa a.size [])

/-- The accesses that waited for a span link are tried again, in their order (R376). -/
def State.flushLate (s : State) : State :=
  s.late.foldl (fun t w => match w.ctx with
    | some c => t.dispPut c w.va w.bytes w.queue
    | none => if w.host then t.hostAccess w.va w.size w.bytes else t.physPut w.va w.bytes) { s with late := [] }

/-! ### Alarms (R373, R382) -/

/-- A region under an alarm: gated with cause 5; one that a scan freeze has stopped ends its load at once. -/
def State.alarmRegion (s : State) (g : Nat) : State :=
  let r := s.region g
  match r.mode with
  | .gated 3 was => (s.setRegion g { r with mode := was }).gate g ⟨5, 0, r.rc, none⟩
  | _ => if r.gateable then s.detect g 5 else s

/-- A factor store that is halted: N := 0 and cleared contents; EPS, FSFLAG, its owner and its binding are kept (R356, R373). -/
def FStore.halted (f : FStore) : FStore := if f.due then FStore.reset else { f with n := 0, l := [], b := [], busy := none }

def State.haltStores (s : State) : State :=
  { s with fstores := SMap.mapVal FStore.reset FStore.halted s.fstores, pkg := { s.pkg with haltFs := true, fabricOff := true } }

/-- The key store erased, where the policy names the source; a thermal trip never erases it. The images of it can be restored no more. -/
def State.eraseKeys (s : State) (source : Nat) : State :=
  if source ≤ 4 ∧ s.pkg.record.alarmpol.getLsbD (source - 1) then
    { s with
      pkg := { s.pkg with keyErased := true, scanLocked := true },
      loads := SMap.mapVal Load.reset (fun x => if x.image.isSome then { x with imageKey := false } else x) s.loads }
  else s

/-- An alarm of this cycle has been taken already (R382). -/
def State.alarmedNow (s : State) : Bool := s.pkg.alarm != 0 && s.pkg.alarmAt == s.gcyc

/-- The source of an alarm recorded. -/
def State.alarmSource (s : State) (n : Nat) : State := { s with pkg := { s.pkg with alarm := n, alarmAt := s.gcyc } }

/-- TVAL of the alarm cause that an alarm of this cycle raised becomes the lower source code; one that was pending before keeps its own
(R136). -/
def State.lowerAlarm (s : State) (n k : Nat) : State :=
  let c := s.core (svOf k)
  match SMap.get none c.pend 0x105 with
  | some _ => s.setCore (svOf k) { c with pend := SMap.set none c.pend 0x105 (some (BitVec.ofNat 64 n)) }
  | _ => s

/-- The supervisors on which no alarm cause is pending. -/
def State.alarmFree (s : State) : List Nat :=
  (List.range 8).filter fun k => (SMap.get none (s.core (svOf k)).pend 0x105).isNone

/-- SECURITY_ALARM (R382): its steps for source 1 to 5; the third follows at the end of the cycle. Alarms of one cycle are one alarm, of
the lowest of their source codes (log 107). -/
def execSecurityAlarm (source : BitVec 3) (s : State) : Out :=
  let n := source.toNat
  if !s.pkg.power || n = 0 || decide (5 < n) then .next s
  else if s.alarmedNow then
    .next (if n < s.pkg.alarm then (s.each s.pkg.alarmOn (State.lowerAlarm · n)).alarmSource n else s)
  else
    let s1 := s.each (s.regions.map (·.1)) State.alarmRegion
    let s2 := { s1.haltStores with pkg := { s1.haltStores.pkg with alarmOn := s1.alarmFree } }
    let s3 := s2.each (List.range 8) fun t k => t.pend (svOf k) 0x105 (BitVec.ofNat 64 n)
    .next ((s3.raiseIrq 2041).alarmSource n)

/-- Step 3 of an alarm, at the end of its cycle, when its source is settled (R382; log 107). -/
def State.alarmEnd (s : State) : State := if s.alarmedNow then s.eraseKeys s.pkg.alarm else s

/-! ### Power comes and goes (R378, R380) -/

/-- Power comes, or goes: every item at its reset value. -/
def State.powerTo (s : State) (on : Bool) : State :=
  { s.cleared with gcyc := 0, irqs := s.irqs, pkg := s.alarmEnd.pkg.powered on }

/-- POWER_ON (R378): power comes, and bring-up passes through one more step; `r` is what the step finds. -/
def execPowerOn (r : BootArgs) (s : State) : Out := .next ((if s.pkg.power then s else s.powerTo true).bootNext r)

/-- POWER_LOSS (R380): flash that was being written holds no whole image. -/
def execPowerLoss (flashing : Bool) (s : State) : Out :=
  let t := s.powerTo false
  .next (if flashing then { t with pkg := { t.pkg with flashOk := false } } else t)

/-! ### Scan reads (R150, R383) -/

/-- What scan can read. -/
inductive ScanItem where
  | bootStatus
  | alarmSource
  | region (g : Nat)
  | element (e : Nat)
  | tile (t : Nat)
  | core (n : Nat)
  deriving DecidableEq, Repr

/-- What a scan read shows: a byte of the configuration die, or every latch of a stopped region's registers, of an element or a tile of
it, or of a double-faulted core. -/
inductive ScanOut where
  | byte (b : Byte)
  | region (r : Region)
  | element (e : Elem)
  | tile (t : Tile)
  | core (c : Core)
  deriving DecidableEq, Repr

/-- Whether the region that holds a tile is stopped. -/
def State.tileStopped (s : State) (t : Nat) : Bool := (s.regionOfTile t).elim false fun g => (s.region g).frozen

/-- A scan read (R150, R383): privileged; after an alarm that erased the key store it shows only the boot status and the alarm source
until the next power-on. -/
def State.scanRead (s : State) (p : Party) (x : ScanItem) : Option ScanOut :=
  if !s.mayScan p then none
  else match x with
    | .bootStatus => (s.pkg.bootStatus.head?).map .byte
    | .alarmSource => some (.byte (BitVec.ofNat 8 s.pkg.alarm))
    | _ =>
      if s.pkg.scanLocked then none
      else match x with
        | .region g => if (s.region g).frozen then some (.region (s.region g)) else none
        | .element e => if s.tileStopped (tileOfElem e) then some (.element (s.elem e)) else none
        | .tile t => if s.tileStopped t then some (.tile (s.tile t)) else none
        | .core n => if (s.core n).run = .frozen then some (.core (s.core n)) else none
        | _ => none

/-! ### Span links and Ethernet (R376, R377) -/

/-- The waits of cores and streams for a package change. -/
def State.spanWaits (s : State) (f : Nat × Bool → Option (Nat × Bool)) : State :=
  { s with
    cores := SMap.mapVal Core.reset (fun c => { c with span := c.span.bind f }) s.cores,
    agus := SMap.mapVal Agu.reset (fun a => { a with span := a.span.bind f }) s.agus }

/-- SPAN_LINK_LOSS (R376): a span link drops; accesses through it wait. -/
def execSpanLinkLoss (link : Nat) (s : State) : Out :=
  if link < 16 ∧ !s.pkg.linkDown.contains link then .next { s with pkg := { s.pkg with linkDown := link :: s.pkg.linkDown } } else .next s

/-- SPAN_LINK_RETRAIN (R376): it is back, and the accesses that waited go on. -/
def execSpanLinkRetrain (link : Nat) (s : State) : Out :=
  .next ((({ s with pkg := { s.pkg with linkDown := s.pkg.linkDown.filter (· != link) } }).spanWaits fun p =>
    if !p.2 && Config.spanLink p.1 == link then none else some p).flushLate)

/-- The package whose span link the dispatcher waits for at the head of a queue: for the record, or for what its take reads. -/
def State.queueWaits (s : State) (q : Nat) : Option Nat :=
  let x := s.queue q
  if !x.en || !x.usable || x.count == 0 then none
  else match s.ctxHeld x.ctx.toNat .load [x.headSlot], s.fate q with
    | some p, _ => some p
    | none, .ready r => s.ctxHeld r.ctx.toNat .load ((s.forQueue q).takeRanges r.ctx.toNat r.gd.toNat)
    | none, _ => none

/-- The package for which it waits to place, to resume or to switch to a load. -/
def State.loadWaits (s : State) (l : Nat) : Option Nat :=
  let x := s.load l
  let c := s.loadCtx l
  match x.st with
  | .pending => s.ctxHeld c .load (match x.image with
      | none => (s.forLoad l).descRanges c x.desc
      | some va => (va, x.imageLen) :: (s.forLoad l).loadRanges c x.fld.toNat ++ (s.forLoad l).descRanges c x.desc)
  | .resident => s.ctxHeld c .load (s.switchRanges l)
  | .ended => none

/-- The dispatcher's reads that wait for a package go on without it: its bytes read 0xFF (R376). -/
def State.loseReads (s : State) (p : Nat) : State :=
  { s with
    queues := s.queues.map fun q => (q.1, if s.queueWaits q.1 = some p then { q.2 with lost := some p } else q.2),
    loads := s.loads.map fun l => (l.1, if s.loadWaits l.1 = some p then { l.2 with lost := some p } else l.2) }

/-- SPAN_UNREACHABLE (R376): a package whose link is down has stayed so for 10 ms; its span window becomes unassigned, and the accesses
that wait for it complete without it. -/
def execSpanUnreachable (pkg : Nat) (s : State) : Out :=
  if s.pkg.linkDown.contains (Config.spanLink pkg) && !s.pkg.unreachable.contains pkg && pkg != s.pkg.ownPkg then
    let s := s.loseReads pkg
    .next ((({ s with pkg := { s.pkg with unreachable := pkg :: s.pkg.unreachable } }).spanWaits fun p =>
      some (if p.1 = pkg then (pkg, true) else p)).flushLate)
  else .next s

/-- ETHERNET_MESSAGE_COMPLETION (R377): the bytes of a message are in memory. -/
def execEthernetMessageCompletion (pa : Nat) (bytes : List Byte) (s : State) : Out := .next (s.physPut pa bytes)

/-! ### Links, clocks, power (R384, R385) -/

/-- Whether every region whose fabric die meets a test has reached a fabric-load boundary. -/
def State.diesClear (s : State) (f : Nat → Bool) : Bool := !(s.regions.any fun p => p.2.holds && !p.2.awaitScan && f (p.1 / 128))

/-- Whether no region's timing domain uses a link, or a die. -/
def State.linkClear (s : State) (k : Nat) : Bool := s.diesClear fun d => linkDie k == d
def State.dieClear (s : State) (x : Nat) : Bool := s.diesClear fun d => dieUses d x

/-- A link's width, and a die's frequency; until a change they are as brought up (log 21). -/
def fullWidth : Nat := 64
def State.widthOf (s : State) (k : Nat) : Nat := SMap.get fullWidth s.pkg.width k
def State.clkOf (s : State) (d : Nat) : Nat := (s.pkg.record.clk[d]?).getD 0
def State.freqOf (s : State) (d : Nat) : Nat := (s.clkOf d) - SMap.get 0 s.pkg.freq d

/-- LINK_WIDTH_CHANGE (R384): a request waits; it is made once no region uses the link; then the link is not stable until it reports so
at its new width, and the change has completed. -/
def execLinkWidthChange (link width : Nat) (s : State) : Out :=
  let p := s.pkg
  if SMap.get none p.pendWidth link = some width then
    if s.linkClear link then
      .next { s with pkg := { p with
        pendWidth := SMap.set none p.pendWidth link none, width := SMap.set fullWidth p.width link width,
        settling := link :: p.settling.filter (· != link) } }
    else .next s
  else if p.settling.contains link && s.widthOf link == width then
    .next { s with pkg := { p with settling := p.settling.filter (· != link) } }
  else .next { s with pkg := { p with pendWidth := SMap.set none p.pendWidth link (some width) } }

/-- A width reduction of one of a die's links is still to come, or such a link is not stable yet. -/
def State.reductionPending (s : State) (d : Nat) : Bool :=
  (s.pkg.pendWidth.any fun p => linkEnds p.1 d && p.2.elim false fun w => decide (w < s.widthOf p.1))
    || s.pkg.settling.any fun k => linkEnds k d

/-- A frequency is asked for. -/
def State.askFreq (s : State) (d f : Nat) : State := { s with pkg := { s.pkg with pendFreq := SMap.set none s.pkg.pendFreq d (some f) } }

/-- FREQUENCY_CHANGE (R384): a request waits; it is made once no region uses the die, no width reduction of its links is still to come
and its links are stable. A die runs no faster than its record allows (R379). -/
def execFrequencyChange (die freq : Nat) (s : State) : Out :=
  let p := s.pkg
  if SMap.get none p.pendFreq die = some freq then
    if s.dieClear die && !s.reductionPending die then
      .next { s with pkg := { p with pendFreq := SMap.set none p.pendFreq die none, freq := SMap.set 0 p.freq die (s.clkOf die - freq) } }
    else .next s
  else if die < 16 ∧ freq ≤ s.clkOf die then .next (s.askFreq die freq)
  else .next s

/-- A die is to run no faster than a power cap lets it (R385): the step is asked for as any other. -/
def State.capDie (s : State) (d : Nat) : State :=
  let f := Config.capFreq s.pkg.cap d
  if f < s.freqOf d then s.askFreq d f else s

/-- POWER_CAP (R385): the cap, 2,400 W at most, is met by stepping die frequencies down; to which, the manual does not say (log 75). -/
def execPowerCap (watts : Nat) (s : State) : Out :=
  .next (({ s with pkg := { s.pkg with cap := min watts 2400 } }).each (List.range 16) State.capDie)

/-- THERMAL_LIMIT (R385): the die is stepped down by one; the change is made as any other. -/
def execThermalLimit (die : Nat) (s : State) : Out := if die < 16 then .next (s.askFreq die (s.freqOf die - 1)) else .next s

end Sys2Proof.Machine
end

