-- ==== Sys2Proof/Machine/Turns.lean ====
section
/-! DEFINITION. The turns of the agents that are no cores: a region by its mode, a near-memory unit, the fabric clock, a granule of a
copy, a TLB (log 1). -/

namespace Sys2Proof.Machine

/-! ### Regions (R149, R172, R174, R203, R240) -/

/-- A region that runs no cycle: samples it released leave its buffer, and a detected cause counts its fabric cycles. -/
def State.idleCycle (s : State) (g : Nat) (next : State → Out) : Out := ((s.pushSamples g).tickFreeze g true).then next

/-- A cycle in which a region waits for the other regions of its load, for input or for a switch: a region cycle like any unheld one,
unless the wait ends with it (R147). -/
def State.waitCycle (s : State) (g : Nat) (next : State → Out) : Out :=
  (((s.pushSamples g).tickFreeze g false).then next).then fun t =>
    .next (if (t.region g).mode = (s.region g).mode then t.setRegion g { t.region g with rc := (t.region g).rc + 1 } else t)

/-- The control word of a stopped region's replay area (R147); one that meets a soft error is not acted on (R352). -/
def State.pollCtrl (s : State) (g : Nat) : State :=
  let pas := cellRun (s.region g).replay 8
  match s.physNat (s.region g).replay 8 with
  | some v => if (s.badPa pas).isSome then s.checkMove pas else s.replayCtrl g v
  | none => s

/-- A region whose load has failed: samples it released leave their buffer, and the load ends once it can (R149, R322). -/
def State.failedCycle (s : State) (g : Nat) : State := (s.pushSamples g).endFailed (s.region g).load

/-- A region's turn. -/
def regionTurn (g : Nat) (s : State) : Out :=
  match (s.region g).mode with
  | .free => .next s
  | .ready => s.idleCycle g fun t => execTileTaskStart (t.region g).load t
  | .run => (s.cycleTurn g).then fun t => .next (t.formStop g)
  | .drain _ => s.cycleTurn g
  | .boundary => s.waitCycle g (execTileTaskBoundary g)
  | .switching _ => s.waitCycle g fun t => if (t.region g).mode matches .switching _ then switchTurn g t else .next t
  | .stopped _ => s.idleCycle g fun t => .next (t.pollCtrl g)
  | .gated c _ => .next (if c = 3 || (s.region g).awaitScan then s else s.failedCycle g)
  | .spent => .next (s.failedCycle g)

/-! ### Near-memory units (R341, R344, R349) -/

/-- The standard firmware's entry of a number. -/
def standardEntry (n u : Nat) (s : State) : Out :=
  match n with
  | 0 => execIrsum u s
  | 1 => execIrmax u s
  | 2 => execGather u s
  | 3 => execAxpy u s
  | 4 => execImac u s
  | 5 => execRelayout u s
  | _ => .next s

/-- The meaning of an N-word; the same as `exec` of it. -/
def nWordMeaning (i : Instr) (s : State) : Out :=
  match i with
  | .nWord w => execNWord w s
  | _ => .next s

/-- A unit's turn: a command from its queue, the next word of the one it runs, or the whole of a standard entry. -/
def unitTurn (u : Nat) (s : State) : Out :=
  let n := s.nmu u
  let t := { s with unit := u }
  match n.cmd with
  | none => execCommandAcceptance u t
  | some p =>
    match n.image with
    | none => standardEntry (p.number % 64) u t
    | some m =>
      match decodeN ((m.1[n.upc.toNat]?).getD 0).toNat with
      | some i => nWordMeaning i t
      | none => .next (t.endCommand u p 2 0 0)

/-! ### The clock (R5, R151, R160, R170) -/

/-- Since when the input of a load that has not ended is not empty (R170). -/
def State.noteInput (s0 : State) (l : Nat) : State :=
  let s := if (s0.load l).st == .ended then s0 else s0.noteBadQueues l
  let x := s.load l
  let t := if s.pendingInput l then some (x.inputSince.getD (s.inputFrom l)) else none
  if x.st == .ended || x.inputSince == t then s else s.setLoad l { x with inputSince := t }

/-- A cycle of a pending load: samples it released go on their way, and it ends if it is to (R322). -/
def State.tickPending (s : State) (l : Nat) : State :=
  if (s.load l).st == .pending then (s.pushSaved l).endPending l else s

/-- A cycle of a queue's wait; a raise that is due comes next (R20). -/
def State.tickQueue (s : State) (q : Nat) : State :=
  let t := s.countWait q
  if t.raiseDue q then { t with agenda := .event (.queueLevelRaise q) :: t.agenda } else t

/-- The fabric clock moves on by one cycle. -/
def State.tickClock (s : State) : State :=
  let t := { s.alarmEnd with gcyc := s.gcyc + 1 }
  let ls := (t.loads.map (·.1)).eraseDups
  ((t.each ((t.queues.map (·.1)).eraseDups) State.tickQueue).each ls State.noteInput).each ls State.tickPending

/-- SNAPSHOT_LATCH (R160): the end of cycle SNAPAT: every counter is copied, with every event of that cycle in it, and the next cycle
begins. -/
def execSnapshotLatch (s : State) : Out := if s.latchDue then .next s.latch.tickClock else .next s

/-- One fabric-clock cycle of the package: it may end with a latch; then the next begins. -/
def clockTurn (s : State) : Out :=
  if !s.pkg.power then .next s else if s.latchDue then execSnapshotLatch s else .next s.tickClock

/-! ### TLBs (R211) -/

/-- A party takes in the leaf that a walk gives; one that fails is not kept. -/
def State.tlbFill (s : State) (who c va : Nat) : State :=
  if (s.tlbHit who c va).isSome then s
  else match s.walk c va with
  | some (e, b) =>
    { s with tlb := ⟨who, c, va / 2 ^ b, b, BitVec.ofNat 64 e⟩ :: s.tlb }
  | none => s

end Sys2Proof.Machine
end

