-- ==== Sys2Proof/Machine/Dispatch.lean ====
section
/-! DEFINITION. The dispatch of every step of the part to its meaning, one arm per constructor. -/

namespace Sys2Proof.Machine

def exec (i : Instr) (s : State) : Host.Outcome State Fault Refusal :=
  match i with
  | .add rd ra rb => Sys2Proof.Machine.execAdd rd ra rb s
  | .sub rd ra rb => Sys2Proof.Machine.execSub rd ra rb s
  | .and rd ra rb => Sys2Proof.Machine.execAnd rd ra rb s
  | .or rd ra rb => Sys2Proof.Machine.execOr rd ra rb s
  | .xor rd ra rb => Sys2Proof.Machine.execXor rd ra rb s
  | .shl rd ra rb => Sys2Proof.Machine.execShl rd ra rb s
  | .shr rd ra rb => Sys2Proof.Machine.execShr rd ra rb s
  | .sra rd ra rb => Sys2Proof.Machine.execSra rd ra rb s
  | .mul rd ra rb => Sys2Proof.Machine.execMul rd ra rb s
  | .mulhI64 rd ra rb => Sys2Proof.Machine.execMulhI64 rd ra rb s
  | .mulhN64 rd ra rb => Sys2Proof.Machine.execMulhN64 rd ra rb s
  | .divI64 rd ra rb => Sys2Proof.Machine.execDivI64 rd ra rb s
  | .divN64 rd ra rb => Sys2Proof.Machine.execDivN64 rd ra rb s
  | .remI64 rd ra rb => Sys2Proof.Machine.execRemI64 rd ra rb s
  | .remN64 rd ra rb => Sys2Proof.Machine.execRemN64 rd ra rb s
  | .minI64 rd ra rb => Sys2Proof.Machine.execMinI64 rd ra rb s
  | .maxI64 rd ra rb => Sys2Proof.Machine.execMaxI64 rd ra rb s
  | .minN64 rd ra rb => Sys2Proof.Machine.execMinN64 rd ra rb s
  | .maxN64 rd ra rb => Sys2Proof.Machine.execMaxN64 rd ra rb s
  | .cmpeq qd ra rb => Sys2Proof.Machine.execCmpeq qd ra rb s
  | .cmpne qd ra rb => Sys2Proof.Machine.execCmpne qd ra rb s
  | .cmplt qd ra rb => Sys2Proof.Machine.execCmplt qd ra rb s
  | .cmpge qd ra rb => Sys2Proof.Machine.execCmpge qd ra rb s
  | .cmpltN64 qd ra rb => Sys2Proof.Machine.execCmpltN64 qd ra rb s
  | .cmpgeN64 qd ra rb => Sys2Proof.Machine.execCmpgeN64 qd ra rb s
  | .clz rd ra => Sys2Proof.Machine.execClz rd ra s
  | .ctz rd ra => Sys2Proof.Machine.execCtz rd ra s
  | .popc rd ra => Sys2Proof.Machine.execPopc rd ra s
  | .andn rd ra rb => Sys2Proof.Machine.execAndn rd ra rb s
  | .orn rd ra rb => Sys2Proof.Machine.execOrn rd ra rb s
  | .sel rd q ra rb => Sys2Proof.Machine.execSel rd q ra rb s
  | .pand qd qa qb => Sys2Proof.Machine.execPand qd qa qb s
  | .por qd qa qb => Sys2Proof.Machine.execPor qd qa qb s
  | .pxor qd qa qb => Sys2Proof.Machine.execPxor qd qa qb s
  | .pnot qd qa => Sys2Proof.Machine.execPnot qd qa s
  | .addi rd ra imm => Sys2Proof.Machine.execAddi rd ra imm s
  | .addiExt rd ra imm => Sys2Proof.Machine.execAddiExt rd ra imm s
  | .subi rd ra imm => Sys2Proof.Machine.execSubi rd ra imm s
  | .subiExt rd ra imm => Sys2Proof.Machine.execSubiExt rd ra imm s
  | .andi rd ra imm => Sys2Proof.Machine.execAndi rd ra imm s
  | .andiExt rd ra imm => Sys2Proof.Machine.execAndiExt rd ra imm s
  | .ori rd ra imm => Sys2Proof.Machine.execOri rd ra imm s
  | .oriExt rd ra imm => Sys2Proof.Machine.execOriExt rd ra imm s
  | .xori rd ra imm => Sys2Proof.Machine.execXori rd ra imm s
  | .xoriExt rd ra imm => Sys2Proof.Machine.execXoriExt rd ra imm s
  | .shli rd ra n => Sys2Proof.Machine.execShli rd ra n s
  | .shri rd ra n => Sys2Proof.Machine.execShri rd ra n s
  | .srai rd ra n => Sys2Proof.Machine.execSrai rd ra n s
  | .muli rd ra imm => Sys2Proof.Machine.execMuli rd ra imm s
  | .muliExt rd ra imm => Sys2Proof.Machine.execMuliExt rd ra imm s
  | .cmpeqi qd ra imm => Sys2Proof.Machine.execCmpeqi qd ra imm s
  | .cmpeqiExt qd ra imm => Sys2Proof.Machine.execCmpeqiExt qd ra imm s
  | .cmpnei qd ra imm => Sys2Proof.Machine.execCmpnei qd ra imm s
  | .cmpneiExt qd ra imm => Sys2Proof.Machine.execCmpneiExt qd ra imm s
  | .cmplti qd ra imm => Sys2Proof.Machine.execCmplti qd ra imm s
  | .cmpltiExt qd ra imm => Sys2Proof.Machine.execCmpltiExt qd ra imm s
  | .cmpgei qd ra imm => Sys2Proof.Machine.execCmpgei qd ra imm s
  | .cmpgeiExt qd ra imm => Sys2Proof.Machine.execCmpgeiExt qd ra imm s
  | .cmpltiN64 qd ra imm => Sys2Proof.Machine.execCmpltiN64 qd ra imm s
  | .cmpltiN64Ext qd ra imm => Sys2Proof.Machine.execCmpltiN64Ext qd ra imm s
  | .cmpgeiN64 qd ra imm => Sys2Proof.Machine.execCmpgeiN64 qd ra imm s
  | .cmpgeiN64Ext qd ra imm => Sys2Proof.Machine.execCmpgeiN64Ext qd ra imm s
  | .br q off => Sys2Proof.Machine.execBr q off s
  | .brExt q off => Sys2Proof.Machine.execBrExt q off s
  | .brn q off => Sys2Proof.Machine.execBrn q off s
  | .brnExt q off => Sys2Proof.Machine.execBrnExt q off s
  | .jmp off => Sys2Proof.Machine.execJmp off s
  | .jmpExt off => Sys2Proof.Machine.execJmpExt off s
  | .call fc off => Sys2Proof.Machine.execCall fc off s
  | .callExt fc off => Sys2Proof.Machine.execCallExt fc off s
  | .jmpr ra => Sys2Proof.Machine.execJmpr ra s
  | .callr fc ra => Sys2Proof.Machine.execCallr fc ra s
  | .ret => Sys2Proof.Machine.execRet s
  | .ldI8 rd ra m => Sys2Proof.Machine.execLdI8 rd ra m s
  | .ldI8Ext rd ra m off => Sys2Proof.Machine.execLdI8Ext rd ra m off s
  | .ldI16 rd ra m => Sys2Proof.Machine.execLdI16 rd ra m s
  | .ldI16Ext rd ra m off => Sys2Proof.Machine.execLdI16Ext rd ra m off s
  | .ldI32 rd ra m => Sys2Proof.Machine.execLdI32 rd ra m s
  | .ldI32Ext rd ra m off => Sys2Proof.Machine.execLdI32Ext rd ra m off s
  | .ldI64 rd ra m => Sys2Proof.Machine.execLdI64 rd ra m s
  | .ldI64Ext rd ra m off => Sys2Proof.Machine.execLdI64Ext rd ra m off s
  | .ldN8 rd ra m => Sys2Proof.Machine.execLdN8 rd ra m s
  | .ldN8Ext rd ra m off => Sys2Proof.Machine.execLdN8Ext rd ra m off s
  | .ldN16 rd ra m => Sys2Proof.Machine.execLdN16 rd ra m s
  | .ldN16Ext rd ra m off => Sys2Proof.Machine.execLdN16Ext rd ra m off s
  | .ldN32 rd ra m => Sys2Proof.Machine.execLdN32 rd ra m s
  | .ldN32Ext rd ra m off => Sys2Proof.Machine.execLdN32Ext rd ra m off s
  | .ldN64 rd ra m => Sys2Proof.Machine.execLdN64 rd ra m s
  | .ldN64Ext rd ra m off => Sys2Proof.Machine.execLdN64Ext rd ra m off s
  | .st8 rs ra m => Sys2Proof.Machine.execSt8 rs ra m s
  | .st8Ext rs ra m off => Sys2Proof.Machine.execSt8Ext rs ra m off s
  | .st16 rs ra m => Sys2Proof.Machine.execSt16 rs ra m s
  | .st16Ext rs ra m off => Sys2Proof.Machine.execSt16Ext rs ra m off s
  | .st32 rs ra m => Sys2Proof.Machine.execSt32 rs ra m s
  | .st32Ext rs ra m off => Sys2Proof.Machine.execSt32Ext rs ra m off s
  | .st64 rs ra m => Sys2Proof.Machine.execSt64 rs ra m s
  | .st64Ext rs ra m off => Sys2Proof.Machine.execSt64Ext rs ra m off s
  | .ldp rp ra m => Sys2Proof.Machine.execLdp rp ra m s
  | .ldpExt rp ra m off => Sys2Proof.Machine.execLdpExt rp ra m off s
  | .stp rp ra m => Sys2Proof.Machine.execStp rp ra m s
  | .stpExt rp ra m off => Sys2Proof.Machine.execStpExt rp ra m off s
  | .copy rd ra rb tok sc => Sys2Proof.Machine.execCopy rd ra rb tok sc s
  | .copyExt rd ra rb tok sc wait => Sys2Proof.Machine.execCopyExt rd ra rb tok sc wait s
  | .copyRed rd ra rb tok sc wait op ty => Sys2Proof.Machine.execCopyRed rd ra rb tok sc wait op ty s
  | .amoadd rd ra rb a => Sys2Proof.Machine.execAmoadd rd ra rb a s
  | .amoand rd ra rb a => Sys2Proof.Machine.execAmoand rd ra rb a s
  | .amoor rd ra rb a => Sys2Proof.Machine.execAmoor rd ra rb a s
  | .amoxor rd ra rb a => Sys2Proof.Machine.execAmoxor rd ra rb a s
  | .amomaxI rd ra rb a => Sys2Proof.Machine.execAmomaxI rd ra rb a s
  | .amominI rd ra rb a => Sys2Proof.Machine.execAmominI rd ra rb a s
  | .amomaxN rd ra rb a => Sys2Proof.Machine.execAmomaxN rd ra rb a s
  | .amominN rd ra rb a => Sys2Proof.Machine.execAmominN rd ra rb a s
  | .amoswap rd ra rb a => Sys2Proof.Machine.execAmoswap rd ra rb a s
  | .amocas rd ra rb a => Sys2Proof.Machine.execAmocas rd ra rb a s
  | .fence sc => Sys2Proof.Machine.execFence sc s
  | .fenceAcq sc => Sys2Proof.Machine.execFenceAcq sc s
  | .fenceRel sc => Sys2Proof.Machine.execFenceRel sc s
  | .fencePath sc => Sys2Proof.Machine.execFencePath sc s
  | .fenceWin sc => Sys2Proof.Machine.execFenceWin sc s
  | .launch ra rb => Sys2Proof.Machine.execLaunch ra rb s
  | .sbind ra rb => Sys2Proof.Machine.execSbind ra rb s
  | .sgo ra => Sys2Proof.Machine.execSgo ra s
  | .sbar ra => Sys2Proof.Machine.execSbar ra s
  | .qpush ra rb => Sys2Proof.Machine.execQpush ra rb s
  | .qpop rd ra => Sys2Proof.Machine.execQpop rd ra s
  | .qcount rd ra => Sys2Proof.Machine.execQcount rd ra s
  | .ctxload ra rb => Sys2Proof.Machine.execCtxload ra rb s
  | .rtload ra rb => Sys2Proof.Machine.execRtload ra rb s
  | .palload ra rb => Sys2Proof.Machine.execPalload ra rb s
  | .ownload ra rb => Sys2Proof.Machine.execOwnload ra rb s
  | .tload ra => Sys2Proof.Machine.execTload ra s
  | .tq ra => Sys2Proof.Machine.execTq ra s
  | .nmload ra rb => Sys2Proof.Machine.execNmload ra rb s
  | .nmcall ra => Sys2Proof.Machine.execNmcall ra s
  | .fsinit rd ra rb => Sys2Proof.Machine.execFsinit rd ra rb s
  | .fsupd rd ra rb => Sys2Proof.Machine.execFsupd rd ra rb s
  | .fsddt rd ra rb => Sys2Proof.Machine.execFsddt rd ra rb s
  | .fssolve rd ra => Sys2Proof.Machine.execFssolve rd ra s
  | .fsscale rd ra => Sys2Proof.Machine.execFsscale rd ra s
  | .fsread rd ra rb => Sys2Proof.Machine.execFsread rd ra rb s
  | .fswrite rd ra rb => Sys2Proof.Machine.execFswrite rd ra rb s
  | .fslogdet rd ra => Sys2Proof.Machine.execFslogdet rd ra s
  | .phset ra rb => Sys2Proof.Machine.execPhset ra rb s
  | .phadd ra rb => Sys2Proof.Machine.execPhadd ra rb s
  | .phrd rd ra => Sys2Proof.Machine.execPhrd rd ra s
  | .btalloc rd ra rb => Sys2Proof.Machine.execBtalloc rd ra rb s
  | .btfork rd ra rb => Sys2Proof.Machine.execBtfork rd ra rb s
  | .btdrop rd ra => Sys2Proof.Machine.execBtdrop rd ra s
  | .btdemote rd ra rb => Sys2Proof.Machine.execBtdemote rd ra rb s
  | .btpromote rd ra rb => Sys2Proof.Machine.execBtpromote rd ra rb s
  | .swbind rd ra rb => Sys2Proof.Machine.execSwbind rd ra rb s
  | .snap ra => Sys2Proof.Machine.execSnap ra s
  | .snaprd rd ra => Sys2Proof.Machine.execSnaprd rd ra s
  | .mfsr rd n => Sys2Proof.Machine.execMfsr rd n s
  | .mtsr n ra => Sys2Proof.Machine.execMtsr n ra s
  | .trap n => Sys2Proof.Machine.execTrap n s
  | .treen => Sys2Proof.Machine.execTreen s
  | .tret => Sys2Proof.Machine.execTret s
  | .waitt mask => Sys2Proof.Machine.execWaitt mask s
  | .tlbinvPg ra rb => Sys2Proof.Machine.execTlbinvPg ra rb s
  | .tlbinvCx rb => Sys2Proof.Machine.execTlbinvCx rb s
  | .tlbinvAll => Sys2Proof.Machine.execTlbinvAll s
  | .idle => Sys2Proof.Machine.execIdle s
  | .stepRow h phase => Sys2Proof.Machine.execStepRow h phase s
  | .loopRow h ii count => Sys2Proof.Machine.execLoopRow h ii count s
  | .endl h row => Sys2Proof.Machine.execEndl h row s
  | .exitRow h => Sys2Proof.Machine.execExitRow h s
  | .epil h => Sys2Proof.Machine.execEpil h s
  | .mpass h acc int clear groups => Sys2Proof.Machine.execMpass h acc int clear groups s
  | .form h w ht => Sys2Proof.Machine.execForm h w ht s
  | .reconf h x => Sys2Proof.Machine.execReconf h x s
  | .barrier h ports => Sys2Proof.Machine.execBarrier h ports s
  | .commit h => Sys2Proof.Machine.execCommit h s
  | .waitq h port => Sys2Proof.Machine.execWaitq h port s
  | .endRow h => Sys2Proof.Machine.execEndRow h s
  | .nWord w => Sys2Proof.Machine.execNWord w s
  | .wordResultLanding g => Sys2Proof.Machine.execWordResultLanding g s
  | .linkSlotFill g => Sys2Proof.Machine.execLinkSlotFill g s
  | .iterationAdmission g => Sys2Proof.Machine.execIterationAdmission g s
  | .formSettlingEnd g => Sys2Proof.Machine.execFormSettlingEnd g s
  | .implicitClose g => Sys2Proof.Machine.execImplicitClose g s
  | .commitWindowClose g => Sys2Proof.Machine.execCommitWindowClose g s
  | .replayCtrlWrite g v => Sys2Proof.Machine.execReplayCtrlWrite g v s
  | .matrixGroupSnapshot g t => Sys2Proof.Machine.execMatrixGroupSnapshot g t s
  | .matrixGroupLanding g t => Sys2Proof.Machine.execMatrixGroupLanding g t s
  | .clockGate g => Sys2Proof.Machine.execClockGate g s
  | .scanRequest p g => Sys2Proof.Machine.execScanRequest p g s
  | .scanRelease p g => Sys2Proof.Machine.execScanRelease p g s
  | .asyncTrapDelivery n => Sys2Proof.Machine.execAsyncTrapDelivery n s
  | .idleWake n => Sys2Proof.Machine.execIdleWake n s
  | .copyCompletion i0 => Sys2Proof.Machine.execCopyCompletion i0 s
  | .coreReset => Sys2Proof.Machine.execCoreReset s
  | .doorbell p q v => Sys2Proof.Machine.execDoorbell p q v s
  | .dispatcherWindowWrite p off size v => Sys2Proof.Machine.execDispatcherWindowWrite p off size v s
  | .teardown p c => Sys2Proof.Machine.execTeardown p c s
  | .queueLevelRaise q => Sys2Proof.Machine.execQueueLevelRaise q s
  | .recordRejection q => Sys2Proof.Machine.execRecordRejection q s
  | .recordTake q => Sys2Proof.Machine.execRecordTake q s
  | .placement l site => Sys2Proof.Machine.execPlacement l site s
  | .resumption l site => Sys2Proof.Machine.execResumption l site s
  | .tileTaskStart l => Sys2Proof.Machine.execTileTaskStart l s
  | .tileTaskBoundary g => Sys2Proof.Machine.execTileTaskBoundary g s
  | .preemptionRequest why l => Sys2Proof.Machine.execPreemptionRequest why l s
  | .preemption l => Sys2Proof.Machine.execPreemption l s
  | .inPlaceSwitch l => Sys2Proof.Machine.execInPlaceSwitch l s
  | .rePlacement l => Sys2Proof.Machine.execRePlacement l s
  | .streamStart a => Sys2Proof.Machine.execStreamStart a s
  | .streamElementAccess a => Sys2Proof.Machine.execStreamElementAccess a s
  | .streamCompletion a => Sys2Proof.Machine.execStreamCompletion a s
  | .copyOnWrite a => Sys2Proof.Machine.execCopyOnWrite a s
  | .demotionCompletion i0 => Sys2Proof.Machine.execDemotionCompletion i0 s
  | .promotionCompletion i0 => Sys2Proof.Machine.execPromotionCompletion i0 s
  | .portQueueFill g port => Sys2Proof.Machine.execPortQueueFill g port s
  | .portQueuePush g port => Sys2Proof.Machine.execPortQueuePush g port s
  | .sampleArrival src dst => Sys2Proof.Machine.execSampleArrival src dst s
  | .blend t => Sys2Proof.Machine.execBlend t s
  | .commandAcceptance u => Sys2Proof.Machine.execCommandAcceptance u s
  | .irsum u => Sys2Proof.Machine.execIrsum u s
  | .irmax u => Sys2Proof.Machine.execIrmax u s
  | .gather u => Sys2Proof.Machine.execGather u s
  | .axpy u => Sys2Proof.Machine.execAxpy u s
  | .imac u => Sys2Proof.Machine.execImac u s
  | .relayout u => Sys2Proof.Machine.execRelayout u s
  | .tqCommand k => Sys2Proof.Machine.execTqCommand k s
  | .tloadCommand k => Sys2Proof.Machine.execTloadCommand k s
  | .snapshotLatch => Sys2Proof.Machine.execSnapshotLatch s
  | .powerOn r => Sys2Proof.Machine.execPowerOn r s
  | .firmwareImageUpdate version valid => Sys2Proof.Machine.execFirmwareImageUpdate version valid s
  | .configurationRecordUpdate h valid => Sys2Proof.Machine.execConfigurationRecordUpdate h valid s
  | .hostAccess a => Sys2Proof.Machine.execHostAccess a s
  | .securityAlarm source => Sys2Proof.Machine.execSecurityAlarm source s
  | .spanLinkLoss link => Sys2Proof.Machine.execSpanLinkLoss link s
  | .spanUnreachable pkg => Sys2Proof.Machine.execSpanUnreachable pkg s
  | .ethernetMessageCompletion pa bytes => Sys2Proof.Machine.execEthernetMessageCompletion pa bytes s
  | .linkWidthChange link width => Sys2Proof.Machine.execLinkWidthChange link width s
  | .frequencyChange die freq => Sys2Proof.Machine.execFrequencyChange die freq s
  | .powerCap watts => Sys2Proof.Machine.execPowerCap watts s
  | .thermalLimit die => Sys2Proof.Machine.execThermalLimit die s
  | .spanLinkRetrain link => Sys2Proof.Machine.execSpanLinkRetrain link s
  | .powerLoss flashing => Sys2Proof.Machine.execPowerLoss flashing s
  | .addI32 w => Sys2Proof.Machine.execAddI32 w s
  | .subI32 w => Sys2Proof.Machine.execSubI32 w s
  | .mulI32 w => Sys2Proof.Machine.execMulI32 w s
  | .mulhI32 w => Sys2Proof.Machine.execMulhI32 w s
  | .mulhN32 w => Sys2Proof.Machine.execMulhN32 w s
  | .madI32 w => Sys2Proof.Machine.execMadI32 w s
  | .minI32 w => Sys2Proof.Machine.execMinI32 w s
  | .maxI32 w => Sys2Proof.Machine.execMaxI32 w s
  | .minN32 w => Sys2Proof.Machine.execMinN32 w s
  | .maxN32 w => Sys2Proof.Machine.execMaxN32 w s
  | .absI32 w => Sys2Proof.Machine.execAbsI32 w s
  | .addsI32 w => Sys2Proof.Machine.execAddsI32 w s
  | .subsI32 w => Sys2Proof.Machine.execSubsI32 w s
  | .addsN32 w => Sys2Proof.Machine.execAddsN32 w s
  | .subsN32 w => Sys2Proof.Machine.execSubsN32 w s
  | .eAnd w => Sys2Proof.Machine.execEAnd w s
  | .eOr w => Sys2Proof.Machine.execEOr w s
  | .eXor w => Sys2Proof.Machine.execEXor w s
  | .eAndn w => Sys2Proof.Machine.execEAndn w s
  | .eShl w => Sys2Proof.Machine.execEShl w s
  | .eShr w => Sys2Proof.Machine.execEShr w s
  | .eSra w => Sys2Proof.Machine.execESra w s
  | .rol w => Sys2Proof.Machine.execRol w s
  | .ePopc w => Sys2Proof.Machine.execEPopc w s
  | .eClz w => Sys2Proof.Machine.execEClz w s
  | .eCtz w => Sys2Proof.Machine.execECtz w s
  | .bfx w => Sys2Proof.Machine.execBfx w s
  | .bfi w => Sys2Proof.Machine.execBfi w s
  | .addF32 w => Sys2Proof.Machine.execAddF32 w s
  | .subF32 w => Sys2Proof.Machine.execSubF32 w s
  | .mulF32 w => Sys2Proof.Machine.execMulF32 w s
  | .fmaF32 w => Sys2Proof.Machine.execFmaF32 w s
  | .fnmaF32 w => Sys2Proof.Machine.execFnmaF32 w s
  | .minF32 w => Sys2Proof.Machine.execMinF32 w s
  | .maxF32 w => Sys2Proof.Machine.execMaxF32 w s
  | .divF32 w => Sys2Proof.Machine.execDivF32 w s
  | .sqrtF32 w => Sys2Proof.Machine.execSqrtF32 w s
  | .absF32 w => Sys2Proof.Machine.execAbsF32 w s
  | .negF32 w => Sys2Proof.Machine.execNegF32 w s
  | .addF16 w => Sys2Proof.Machine.execAddF16 w s
  | .mulF16 w => Sys2Proof.Machine.execMulF16 w s
  | .fmaF16 w => Sys2Proof.Machine.execFmaF16 w s
  | .fmaBf16 w => Sys2Proof.Machine.execFmaBf16 w s
  | .cvtF32I32 w => Sys2Proof.Machine.execCvtF32I32 w s
  | .cvtF32N32 w => Sys2Proof.Machine.execCvtF32N32 w s
  | .cvtI32F32 w => Sys2Proof.Machine.execCvtI32F32 w s
  | .cvtN32F32 w => Sys2Proof.Machine.execCvtN32F32 w s
  | .cvtF16F32 w => Sys2Proof.Machine.execCvtF16F32 w s
  | .cvtF16F32Sat w => Sys2Proof.Machine.execCvtF16F32Sat w s
  | .cvtBf16F32 w => Sys2Proof.Machine.execCvtBf16F32 w s
  | .cvtBf16F32Sat w => Sys2Proof.Machine.execCvtBf16F32Sat w s
  | .cvtE4m3F32 w => Sys2Proof.Machine.execCvtE4m3F32 w s
  | .cvtE4m3F32Sat w => Sys2Proof.Machine.execCvtE4m3F32Sat w s
  | .cvtE5m2F32 w => Sys2Proof.Machine.execCvtE5m2F32 w s
  | .cvtE5m2F32Sat w => Sys2Proof.Machine.execCvtE5m2F32Sat w s
  | .cvtF32F16 w => Sys2Proof.Machine.execCvtF32F16 w s
  | .cvtF32Bf16 w => Sys2Proof.Machine.execCvtF32Bf16 w s
  | .cvtF32E4m3 w => Sys2Proof.Machine.execCvtF32E4m3 w s
  | .cvtF32E5m2 w => Sys2Proof.Machine.execCvtF32E5m2 w s
  | .pshift w => Sys2Proof.Machine.execPshift w s
  | .pld w => Sys2Proof.Machine.execPld w s
  | .pst w => Sys2Proof.Machine.execPst w s
  | .rule w => Sys2Proof.Machine.execRule w s
  | .pquiet w => Sys2Proof.Machine.execPquiet w s
  | .pbx w => Sys2Proof.Machine.execPbx w s
  | .pbi w => Sys2Proof.Machine.execPbi w s
  | .paddI16 w => Sys2Proof.Machine.execPaddI16 w s
  | .psubI16 w => Sys2Proof.Machine.execPsubI16 w s
  | .ePand w => Sys2Proof.Machine.execEPand w s
  | .ePor w => Sys2Proof.Machine.execEPor w s
  | .ePxor w => Sys2Proof.Machine.execEPxor w s
  | .eSel w => Sys2Proof.Machine.execESel w s
  | .cmpeqI32 w => Sys2Proof.Machine.execCmpeqI32 w s
  | .cmpltI32 w => Sys2Proof.Machine.execCmpltI32 w s
  | .cmpleI32 w => Sys2Proof.Machine.execCmpleI32 w s
  | .cmpltN32 w => Sys2Proof.Machine.execCmpltN32 w s
  | .cmpleN32 w => Sys2Proof.Machine.execCmpleN32 w s
  | .cmpeqF32 w => Sys2Proof.Machine.execCmpeqF32 w s
  | .cmpltF32 w => Sys2Proof.Machine.execCmpltF32 w s
  | .cmpleF32 w => Sys2Proof.Machine.execCmpleF32 w s
  | .cmpunF32 w => Sys2Proof.Machine.execCmpunF32 w s
  | .mand w => Sys2Proof.Machine.execMand w s
  | .mor w => Sys2Proof.Machine.execMor w s
  | .mxor w => Sys2Proof.Machine.execMxor w s
  | .mnot w => Sys2Proof.Machine.execMnot w s
  | .mlane w => Sys2Proof.Machine.execMlane w s
  | .exitf w => Sys2Proof.Machine.execExitf w s
  | .lrecv w => Sys2Proof.Machine.execLrecv w s
  | .stin w => Sys2Proof.Machine.execStin w s
  | .lpoll w => Sys2Proof.Machine.execLpoll w s
  | .sldN32 w => Sys2Proof.Machine.execSldN32 w s
  | .sldN16 w => Sys2Proof.Machine.execSldN16 w s
  | .sldI16 w => Sys2Proof.Machine.execSldI16 w s
  | .sstN32 w => Sys2Proof.Machine.execSstN32 w s
  | .sstN16 w => Sys2Proof.Machine.execSstN16 w s
  | .mfa w => Sys2Proof.Machine.execMfa w s
  | .mfb w => Sys2Proof.Machine.execMfb w s
  | .mfas w => Sys2Proof.Machine.execMfas w s
  | .mfbs w => Sys2Proof.Machine.execMfbs w s
  | .ard w => Sys2Proof.Machine.execArd w s
  | .awr w => Sys2Proof.Machine.execAwr w s
  | .aclr w => Sys2Proof.Machine.execAclr w s
  | .rmarch w => Sys2Proof.Machine.execRmarch w s
  | .rsamp w => Sys2Proof.Machine.execRsamp w s
  | .fragout w => Sys2Proof.Machine.execFragout w s
  | .rrecv w => Sys2Proof.Machine.execRrecv w s
  | .eNop w => Sys2Proof.Machine.execENop w s
  | .eMov w => Sys2Proof.Machine.execEMov w s
  | .lane w => Sys2Proof.Machine.execLane w s
  | .iter w => Sys2Proof.Machine.execIter w s
  | .rdst w => Sys2Proof.Machine.execRdst w s
  | .clrst w => Sys2Proof.Machine.execClrst w s
  | .kbsel w => Sys2Proof.Machine.execKbsel w s

end Sys2Proof.Machine
end

