-- ==== Sys2Proof/Machine/Moves.lean ====
section
/-! DEFINITION. The turn of each agent (log 1), and how a word is placed where the next step runs it (log 7). -/

namespace Sys2Proof.Machine

/-- Core `n` becomes the one that executes, and its cycle count moves on (R94, R111). -/
def State.enter (s : State) (n : Nat) : State :=
  let c := s.core n
  { s.setCore n { c with cyc := c.cyc + 1 + BitVec.ofNat 64 (Config.cycleGap s.tick % 2 ^ 32) } with cur := n }

/-- The executing core's word: its decoded form takes effect, or it is an illegal instruction. -/
def State.runWordC (s : State) (w e : Nat) : Out :=
  let u := { s with ir := BitVec.ofNat 32 w }
  match decodeC w e with
  | some i => exec i u
  | none => .next u.illegal

/-- A core's turn: an `idle` whose token has completed is over; else an asynchronous cause comes first (R136), then the wait of `idle`,
then the word at the pc, which one that has begun is already (R91). -/
def coreTurn (n : Nat) (s : State) : Out :=
  let c := s.core n
  let t := s.enter n
  if !c.live then .next s
  else if c.run == .idle && c.tokenDone then exec (.idleWake n) t
  else if c.takesAsync && c.firstCause.isSome then exec (.asyncTrapDelivery n) t
  else if c.run == .idle then exec (.idleWake n) t
  else match c.begun with
  | some w => t.runWordC w.toNat 0
  | none => match t.fetch n with
    | .fault va => .next ((t.fetchFailed n va).trap causeFetch va)
    | .held p => .next (t.holdOn p)
    | .ok w e => (t.fetched n w).runWordC w e
    | .lost w e => t.unspan.runWordC w e

/-- One turn. -/
def turn (x : Turn) (s : State) : Out :=
  match x with
  | .core n => if n < 136 then coreTurn n s else .fault .noSuchAgent
  | .region g => regionTurn g s
  | .unit u => unitTurn u s
  | .copyGranule i k => .next (s.moveGranule i k)
  | .clock => clockTurn s
  | .tlbFill n c va => .next (s.tlbFill n c va)
  | .tlbDrop i => .next { s with tlb := s.tlb.eraseIdx i }
  | .upset w v m => .next (s.upset w v m)
  | .catchUp i => .next (s.catchUp i)
  | .macMiss i => .next (s.setAgu i { s.agu i with miss := true })
  | .macError u r => .next (s.setNmu u { s.nmu u with miss := some r })
  | .event i => exec i s

/-! ### A word placed where the next step runs it (log 7) -/

/-- The number `v` in `n` bytes at physical address `a`. -/
def State.poke (s : State) (a n v : Nat) : State := ((s.cells a n).map fun as => s.writeMem as (leBytes n v)).getD s

/-- A C-word: core 0 is about to fetch it at address 0, which its TLB maps onto physical address 0 in context 0, with a 64 GiB page of every
permission. -/
def State.withCWord (s : State) (n w : Nat) : State :=
  let s1 := s.setCore 0 { s.core 0 with run := .running, pc := 0, cstat := 3, pend := [], ctxid := 0, span := none, begun := none }
  { s1 with agenda := [.core 0], tlb := [⟨0, 0, 0, 36, 0x1F⟩] }.poke 0 (max 16 n) w

/-- Region 0, of one tile, in a cycle whose next item is `x`, with a load of its own. -/
def State.withRegion (s : State) (x : Work) (rows : List W64) : State :=
  let s1 := { s with agenda := [.region 0] }
  let s2 := s1.setLoad 0 { Load.reset with st := .resident, regions := [0], ttcount := 1 }
  (s2.setRegion 0 { Region.reset with mode := .run, w := 1, h := 1, rows := rows, work := [x], started := true }).openWindow 0

/-- An E-word: entry 0 of element 0 holds it, LIVE, and the region executes it. -/
def State.withEWord (s : State) (w : Nat) : State :=
  let t := s.withRegion (.word 0 0 0 none false) []
  t.setElem 0 { t.elem 0 with ctx := SMap.set CtxEntry.reset (t.elem 0).ctx 0 ⟨.live, BitVec.ofNat 64 (w % 2 ^ 40 + 2 ^ 44)⟩ }

/-- An N-word: word 0 of the image of unit 0, which runs a command. -/
def State.withNWord (s : State) (w : Nat) : State :=
  let p : Packet := ⟨List.replicate 64 0, 0, false, none, (0, []), [], 0⟩
  { s with agenda := [.unit 0] }.setNmu 0 { Nmu.reset with image := some ([BitVec.ofNat 128 w], []), cmd := some p, ops := [0, 0, 0] }

end Sys2Proof.Machine
end

