-- ==== Sys2Proof/Machine/Step.lean ====
section
/-! DEFINITION. One step of the part: the next agent of the agenda moves (log 1). -/

namespace Sys2Proof.Machine

/-- One step: the head of the agenda, or the schedule nothing constrains, says who moves. -/
def step (s : State) : Host.Outcome State Fault Refusal :=
  match s.agenda with
  | x :: rest => turn x { s with agenda := rest, tick := s.tick + 1 }
  | [] => turn (Config.schedule s.tick) { s with tick := s.tick + 1 }

/-- The word of `nbits` bits about to run. -/
def State.withFetchWord (s : State) (nbits w : Nat) : State :=
  if nbits = 40 then s.withEWord w
  else if nbits = 128 then s.withNWord w
  else if nbits = 64 ∧ (w % 2 = 0 ∨ (decodeC (fld w 0 32) (fld w 32 32)).isNone) then s.withRegion (.row 0) [BitVec.ofNat 64 w]
  else s.withCWord (nbits / 8) w

end Sys2Proof.Machine
end

