-- ==== Sys2Proof/Laws/Codes.lean ====
section
/-! SUPPORT. Encoding and decoding of one field: every code lies within its field, and decoding a code gives the operand back; and the
fields of a packed word, each read where it was put. -/

namespace Sys2Proof

/-! ### Bounds of the codes -/

theorem SReg.code_lt (r : SReg) : r.code < 64 := by cases r <;> simp only [SReg.code] <;> omega
theorem DReg.code_lt (r : DReg) : r.code < 64 := by cases r <;> simp only [DReg.code] <;> omega
theorem qcode_lt (q : QReg) : qcode q < 64 := by simp only [qcode]; omega
theorem PReg.code_lt (r : PReg) : r.code < 64 := by cases r <;> simp only [PReg.code] <;> omega
theorem Scope.code_lt (s : Scope) : s.code < 8 := by cases s <;> decide
theorem FrameCode.code_lt (f : FrameCode) : f.code < 64 := by cases f <;> decide
theorem AOrd.code_lt (a : AOrd) : a.code < 4 := by cases a <;> decide
theorem RedOp.code_lt (a : RedOp) : a.code < 8 := by cases a <;> decide
theorem RedTy.code_lt (a : RedTy) : a.code < 16 := by cases a <;> decide

/-! ### Decoding a code -/

@[simp] theorem ofNat_toNat' {w : Nat} (x : BitVec w) : BitVec.ofNat w x.toNat = x := by simp

@[simp] theorem sregOf_code (r : SReg) : sregOf r.code = some r := by
  cases r with
  | g n => have := n.isLt; simp [sregOf, SReg.code, this]
  | w n =>
    have := n.isLt
    simp [sregOf, SReg.code, show ¬ (16 + n.toNat < 16) by omega, show 16 + n.toNat < 48 by omega]
  | pcw => rfl
  | core => rfl
  | cyc => rfl

@[simp] theorem dregOf_code (r : DReg) : dregOf r.code = some r := by
  cases r with
  | g n => have := n.isLt; simp [dregOf, DReg.code, this]
  | w n =>
    have := n.isLt
    simp [dregOf, DReg.code, show ¬ (16 + n.toNat < 16) by omega, show 16 + n.toNat < 48 by omega]

@[simp] theorem qregOf_code (q : QReg) : qregOf (qcode q) = some q := by
  have := q.isLt
  simp [qregOf, qcode, show 48 + q.toNat < 56 by omega]

theorem pregOf_code (r : PReg) (h : r.wf = true) : pregOf r.code = some r := by
  cases r with
  | g n =>
    have h1 := n.isLt
    have h2 : n.toNat ≠ 0 := by intro e; simp [PReg.wf] at h; exact h (BitVec.eq_of_toNat_eq (by simpa using e))
    simp [pregOf, PReg.code, show 2 * n.toNat < 16 by omega, show 2 ≤ 2 * n.toNat by omega]
  | w n =>
    have h1 := n.isLt
    simp [pregOf, PReg.code, show ¬ (16 + 2 * n.toNat < 16) by omega, show 16 + 2 * n.toNat < 48 by omega,
      show (16 + 2 * n.toNat) % 2 = 0 by omega]

@[simp] theorem scopeOf_code (s : Scope) : scopeOf s.code = some s := by cases s <;> rfl
@[simp] theorem frameOf_code (f : FrameCode) : frameOf f.code = some f := by cases f <;> rfl
@[simp] theorem aordOf_code (a : AOrd) : aordOf a.code = a := by cases a <;> rfl
@[simp] theorem redOpOf_code (a : RedOp) : redOpOf a.code = some a := by cases a <;> rfl
@[simp] theorem redTyOf_code (a : RedTy) : redTyOf a.code = some a := by cases a <;> rfl
@[simp] theorem holdOf_code (h : Hold) : holdOf h.code = h := by cases h <;> rfl
@[simp] theorem epredOf_code (p : EPred) : epredOf p.code = p := by cases p <;> rfl
@[simp] theorem toNat_beq_one (b : Bool) : (b.toNat == 1) = b := by cases b <;> rfl

/-! ### Fields of a sum of fields -/

/-- The field at `lo` of a word whose bits below are `x` and above are `y`. -/
theorem fld_mid {x v y lo n : Nat} (hx : x < 2 ^ lo) (hv : v < 2 ^ n) : fld (x + 2 ^ lo * (v + 2 ^ n * y)) lo n = v := by
  unfold fld
  rw [Nat.add_mul_div_left _ _ (Nat.two_pow_pos lo), Nat.div_eq_of_lt hx, Nat.zero_add, Nat.add_mul_mod_self_left, Nat.mod_eq_of_lt hv]

section packed

variable {maj rd ra rb fn : Nat}

theorem fld_packR (h0 : maj < 128) (h1 : rd < 64) (h2 : ra < 64) (h3 : rb < 64) (h4 : fn < 64) :
    fld (packR maj rd ra rb fn) 25 7 = maj ∧ fld (packR maj rd ra rb fn) 19 6 = rd ∧ fld (packR maj rd ra rb fn) 13 6 = ra
      ∧ fld (packR maj rd ra rb fn) 7 6 = rb ∧ fld (packR maj rd ra rb fn) 1 6 = fn ∧ fld (packR maj rd ra rb fn) 0 1 = 0 := by
  simp only [packR, fld]; omega

theorem fld_packI {imm x : Nat} (h0 : maj < 128) (h1 : rd < 64) (h2 : ra < 64) (h3 : imm < 4096) (h4 : x < 2) :
    fld (packI maj rd ra imm x) 25 7 = maj ∧ fld (packI maj rd ra imm x) 19 6 = rd ∧ fld (packI maj rd ra imm x) 13 6 = ra
      ∧ fld (packI maj rd ra imm x) 1 12 = imm ∧ fld (packI maj rd ra imm x) 0 1 = x := by
  simp only [packI, fld]; omega

theorem fld_packB {c off x : Nat} (h0 : maj < 128) (h1 : c < 64) (h2 : off < 262144) (h3 : x < 2) :
    fld (packB maj c off x) 25 7 = maj ∧ fld (packB maj c off x) 19 6 = c ∧ fld (packB maj c off x) 1 18 = off
      ∧ fld (packB maj c off x) 0 1 = x := by
  simp only [packB, fld]; omega

theorem fld_packM {m : MArgs} {x : Nat} (h0 : maj < 128) (h1 : rd < 64) (h2 : ra < 64) (h3 : x < 2) :
    fld (packM maj rd ra m x) 25 7 = maj ∧ fld (packM maj rd ra m x) 19 6 = rd ∧ fld (packM maj rd ra m x) 13 6 = ra
      ∧ fld (packM maj rd ra m x) 5 8 = m.wait.toNat ∧ fld (packM maj rd ra m x) 2 3 = m.sc.code
      ∧ fld (packM maj rd ra m x) 1 1 = m.ord.toNat ∧ fld (packM maj rd ra m x) 0 1 = x := by
  have := m.wait.isLt; have := m.sc.code_lt; have := m.ord.toNat_lt
  simp only [packM, fld]; omega

theorem fld_packC {tok sc x : Nat} (h0 : maj < 128) (h1 : rd < 64) (h2 : ra < 64) (h3 : rb < 64) (h4 : tok < 8) (h5 : sc < 8) (h6 : x < 2) :
    fld (packC maj rd ra rb tok sc x) 25 7 = maj ∧ fld (packC maj rd ra rb tok sc x) 19 6 = rd ∧ fld (packC maj rd ra rb tok sc x) 13 6 = ra
      ∧ fld (packC maj rd ra rb tok sc x) 7 6 = rb ∧ fld (packC maj rd ra rb tok sc x) 4 3 = tok
      ∧ fld (packC maj rd ra rb tok sc x) 1 3 = sc ∧ fld (packC maj rd ra rb tok sc x) 0 1 = x := by
  simp only [packC, fld]; omega

theorem fld_packA {a : AArgs} (h0 : maj < 128) (h1 : rd < 64) (h2 : ra < 64) (h3 : rb < 64) :
    fld (packA maj rd ra rb a) 25 7 = maj ∧ fld (packA maj rd ra rb a) 19 6 = rd ∧ fld (packA maj rd ra rb a) 13 6 = ra
      ∧ fld (packA maj rd ra rb a) 7 6 = rb ∧ fld (packA maj rd ra rb a) 4 3 = a.sc.code ∧ fld (packA maj rd ra rb a) 3 1 = a.sz.toNat
      ∧ fld (packA maj rd ra rb a) 1 2 = a.ord.code ∧ fld (packA maj rd ra rb a) 0 1 = 0 := by
  have := a.sc.code_lt; have := a.ord.code_lt; have := a.sz.toNat_lt
  simp only [packA, fld]; omega

theorem fld_packF {sc kind : Nat} (h0 : maj < 128) (h1 : sc < 8) (h2 : kind < 4) :
    fld (packF maj sc kind) 25 7 = maj ∧ fld (packF maj sc kind) 7 18 = 0 ∧ fld (packF maj sc kind) 4 3 = sc
      ∧ fld (packF maj sc kind) 2 2 = kind ∧ fld (packF maj sc kind) 0 2 = 0 := by
  simp only [packF, fld]; omega

end packed

end Sys2Proof
end

