-- ==== Sys2Proof/Laws/EWords.lean ====
section
/-! SUPPORT. An E-word through its decoder: every operand that an opcode's shape accepts is read back from its code. -/

namespace Sys2Proof

open Machine (DstKind SrcKind EShape eShape)

theorem EDst.code_lt (d : EDst) : d.code < 64 := by cases d <;> simp only [EDst.code] <;> omega
theorem ESrc.code_lt (x : ESrc) : x.code < 256 := by cases x <;> simp only [ESrc.code] <;> omega
theorem EPred.code_lt (p : EPred) : p.code < 4 := by cases p <;> decide

/-- Opcodes whose destinations and sources 0-15 are planes (R61, R62). -/
def planeOp (op : Nat) : Bool := decide (128 ≤ op) && decide (op < 160)

/-- Opcodes whose sources 48-55 are masks. -/
def maskOp (op : Nat) : Bool := decide (160 ≤ op) && decide (op < 176)

def dstFits (op : Nat) : DstKind → Bool
  | .v => !planeOp op
  | .p => planeOp op
  | _ => true

def srcFits (op : Nat) : SrcKind → Bool
  | .v => !planeOp op
  | .p => planeOp op
  | .m => maskOp op
  | _ => true

/-- The kinds of a shape are the kinds that its opcode's codes stand for. -/
def EShape.fits (op : Nat) (sh : EShape) : Bool :=
  sh.dst.all (dstFits op) && sh.a.all (srcFits op) && sh.b.all (srcFits op) && sh.c.all (srcFits op)

theorem eShape_fits {op : Nat} {sh : EShape} (h : eShape op = some sh) : EShape.fits op sh = true := by
  revert h
  unfold eShape
  split <;> intro h <;> first | (cases h; rfl) | cases h

theorem edstOf_code {op : Nat} {k : DstKind} {d : EDst} (hf : dstFits op k = true) (hk : k.ok d = true) : edstOf op d.code = some d := by
  cases k <;> cases d <;> simp only [DstKind.ok, Bool.false_eq_true] at hk <;> simp only [dstFits, planeOp, Bool.not_eq_true', Bool.and_eq_true,
    Bool.and_eq_false_iff, decide_eq_true_eq, decide_eq_false_iff_not] at hf
  case v.v n => have := n.isLt; simp [edstOf, EDst.code, this, show ¬ (128 ≤ op ∧ op < 160) by omega]
  case s.s n =>
    have := n.isLt
    simp [edstOf, EDst.code, show ¬ (32 + n.toNat < 32) by omega, show 32 + n.toNat < 48 by omega]
  case m.m n =>
    have := n.isLt
    simp [edstOf, EDst.code, show ¬ (48 + n.toNat < 32) by omega, show ¬ (48 + n.toNat < 48) by omega, show 48 + n.toNat < 56 by omega]
  case send.link n =>
    have := n.isLt
    simp [edstOf, EDst.code, show ¬ (56 + n.toNat < 32) by omega, show ¬ (56 + n.toNat < 48) by omega, show ¬ (56 + n.toNat < 56) by omega,
      show 56 + n.toNat < 60 by omega]
  case send.stage => rfl
  case null.null => rfl
  case p.p n => have := n.isLt; simp [edstOf, EDst.code, show n.toNat < 32 by omega, hf, this]

theorem esrcOf_code {op : Nat} {j : SrcKind} {x : ESrc} (hf : srcFits op j = true) (hk : j.ok x = true) : esrcOf op x.code = some x := by
  cases j <;> cases x <;> simp only [SrcKind.ok, Bool.false_eq_true] at hk <;> simp only [srcFits, planeOp, maskOp, Bool.not_eq_true', Bool.and_eq_true,
    Bool.and_eq_false_iff, decide_eq_true_eq, decide_eq_false_iff_not] at hf
  case v.v n =>
    have := n.isLt
    simp [esrcOf, ESrc.code, show n.toNat < 64 by omega, show n.toNat % 64 = n.toNat by omega, show ¬ (128 ≤ op ∧ op < 160) by omega, this]
  case s.s n =>
    have := n.isLt
    simp [esrcOf, ESrc.code, show ¬ (64 + n.toNat < 64) by omega, show 64 + n.toNat < 128 by omega, show (64 + n.toNat) % 64 = n.toNat by omega, this]
  case k.k n =>
    have := n.isLt
    simp [esrcOf, ESrc.code, show ¬ (128 + n.toNat < 64) by omega, show ¬ (128 + n.toNat < 128) by omega, show 128 + n.toNat < 192 by omega,
      show (128 + n.toNat) % 64 = n.toNat by omega]
  case m.m n =>
    have := n.isLt
    simp [esrcOf, ESrc.code, show 48 + n.toNat < 64 by omega, show (48 + n.toNat) % 64 = 48 + n.toNat by omega,
      show ¬ (128 ≤ op ∧ op < 160) by omega, show ¬ (48 + n.toNat < 32) by omega,
      show 160 ≤ op ∧ op < 176 ∧ 48 ≤ 48 + n.toNat ∧ 48 + n.toNat < 56 by omega]
  case p.p n =>
    have := n.isLt
    simp [esrcOf, ESrc.code, show n.toNat < 64 by omega, show n.toNat % 64 = n.toNat by omega, hf, this]
  case lit.lit _ _ n =>
    have := n.isLt
    simp [esrcOf, ESrc.code, show ¬ (192 + n.toNat < 64) by omega, show ¬ (192 + n.toNat < 128) by omega, show ¬ (192 + n.toNat < 192) by omega,
      show (192 + n.toNat) % 64 = n.toNat by omega]

theorem esrcAt_code {op : Nat} {ks : List SrcKind} {x : ESrc} (hf : ks.all (srcFits op) = true) (hk : Machine.srcOk ks x = true) :
    esrcAt op ks x.code = some x := by
  cases ks with
  | nil =>
    have : x = .none := by simpa [Machine.srcOk] using hk
    subst this; rfl
  | cons j0 ks =>
    simp only [Machine.srcOk, List.any_eq_true] at hk
    obtain ⟨j, hm, hj⟩ := hk
    exact esrcOf_code (List.all_eq_true.mp hf j hm) hj

/-- The bits of an E-word. -/
def packE (op : Nat) (w : EArgs) : Nat :=
  op * 2 ^ 32 + w.dst.code * 2 ^ 26 + w.a.code * 2 ^ 18 + w.b.code * 2 ^ 10 + w.c.code * 2 ^ 2 + w.pred.code

theorem packE_lt {op : Nat} (h : op < 256) (w : EArgs) : packE op w < 2 ^ 40 := by
  have := w.dst.code_lt; have := w.a.code_lt; have := w.b.code_lt; have := w.c.code_lt; have := w.pred.code_lt
  simp only [packE]; omega

theorem fld_packE {op : Nat} (h : op < 256) (w : EArgs) :
    fld (packE op w) 32 8 = op ∧ fld (packE op w) 26 6 = w.dst.code ∧ fld (packE op w) 18 8 = w.a.code ∧ fld (packE op w) 10 8 = w.b.code
      ∧ fld (packE op w) 2 8 = w.c.code ∧ fld (packE op w) 0 2 = w.pred.code := by
  have := w.dst.code_lt; have := w.a.code_lt; have := w.b.code_lt; have := w.c.code_lt; have := w.pred.code_lt
  simp only [packE, fld]; omega

/-- An E-word whose fields read as an accepted shape of operands. -/
theorem eFields_of {x op : Nat} {sh : EShape} {w : EArgs} (h0 : fld x 32 8 = op) (hs : eShape op = some sh)
    (hd : edstOf op (fld x 26 6) = some w.dst) (ha : esrcAt op sh.a (fld x 18 8) = some w.a) (hb : esrcAt op sh.b (fld x 10 8) = some w.b)
    (hc : esrcAt op sh.c (fld x 2 8) = some w.c) (hp : epredOf (fld x 0 2) = w.pred) (hw : sh.ok w = true) : eFields x = some (op, w) := by
  subst h0
  rw [eFields, hs]
  dsimp only
  rw [hd, ha, hb, hc, hp]
  exact if_pos hw

/-- An accepted E-word reads back its opcode and operands. -/
theorem eFields_packE {op : Nat} {sh : EShape} {w : EArgs} (hop : op < 256) (hs : eShape op = some sh) (hw : sh.ok w = true) :
    eFields (packE op w) = some (op, w) := by
  obtain ⟨f0, f1, f2, f3, f4, f5⟩ := fld_packE hop w
  have hf := eShape_fits hs
  simp only [EShape.fits, Bool.and_eq_true] at hf
  have hw' := hw
  simp only [EShape.ok, Bool.and_eq_true, List.any_eq_true] at hw'
  obtain ⟨⟨⟨⟨⟨k, hm, hk⟩, ha⟩, hb⟩, hc⟩, -⟩ := hw'
  exact eFields_of f0 hs (by rw [f1]; exact edstOf_code (List.all_eq_true.mp hf.1.1.1 k hm) hk) (by rw [f2]; exact esrcAt_code hf.1.1.2 ha)
    (by rw [f3]; exact esrcAt_code hf.1.2 hb) (by rw [f4]; exact esrcAt_code hf.2 hc) (by rw [f5, epredOf_code]) hw

end Sys2Proof
end

