-- ==== Sys2Proof/Laws/Rows.lean ====
section
/-! SUPPORT. S-rows and N-words through their decoders: every field is read where it was put. -/

namespace Sys2Proof

theorem Hold.code_lt (h : Hold) : h.code < 4 := by cases h <;> decide

theorem packRow_lt {kind phase o : Nat} (h : RowHdr) (h0 : kind < 16) (h1 : phase < 32) (h2 : o < 2 ^ 24) : packRow kind phase h o < 2 ^ 64 := by
  have := h.hold.code_lt; have := h.le.toNat_lt; have := h.tag.isLt; have := h.cycle.isLt
  simp only [packRow]; omega

theorem fld_packRow {kind phase o : Nat} (h : RowHdr) (h0 : kind < 16) (h1 : phase < 32) (h2 : o < 2 ^ 24) :
    fld (packRow kind phase h o) 60 4 = kind ∧ fld (packRow kind phase h o) 55 5 = phase ∧ fld (packRow kind phase h o) 53 2 = h.hold.code
      ∧ fld (packRow kind phase h o) 52 1 = h.le.toNat ∧ fld (packRow kind phase h o) 48 4 = h.tag.toNat
      ∧ fld (packRow kind phase h o) 24 24 = h.cycle.toNat ∧ fld (packRow kind phase h o) 0 24 = o := by
  have := h.hold.code_lt; have := h.le.toNat_lt; have := h.tag.isLt; have := h.cycle.isLt
  simp only [packRow, fld]; omega

/-- What `decodeRow` does with the fields it has read. -/
def rowOf (kind phase : Nat) (h : RowHdr) (o : Nat) : Option Instr :=
  if kind = 0 then (if o = 0 then some (.stepRow h (BitVec.ofNat 5 phase)) else none)
  else if phase ≠ 0 then none
  else match kind with
  | 1 => some (.loopRow h (BitVec.ofNat 5 (fld o 19 5)) (BitVec.ofNat 19 (fld o 0 19)))
  | 2 => if o < 4096 then some (.endl h (BitVec.ofNat 12 o)) else none
  | 3 => if o = 0 then some (.exitRow h) else none
  | 4 => if o = 0 then some (.epil h) else none
  | 5 => if fld o 0 8 = 0 then
      some (.mpass h (BitVec.ofNat 2 (fld o 22 2)) (fld o 21 1 == 1) (fld o 20 1 == 1) (BitVec.ofNat 12 (fld o 8 12)))
    else none
  | 6 => if fld o 0 17 = 0 then some (.form h (BitVec.ofNat 4 (fld o 20 4)) (BitVec.ofNat 3 (fld o 17 3))) else none
  | 7 => if o < 65536 then some (.reconf h (BitVec.ofNat 16 o)) else none
  | 8 => if o < 65536 then some (.barrier h (BitVec.ofNat 16 o)) else none
  | 9 => if o = 0 then some (.commit h) else none
  | 10 => if o < 16 then some (.waitq h (BitVec.ofNat 4 o)) else none
  | 11 => if o = 0 then some (.endRow h) else none
  | _ => none

theorem decodeRow_eq (w : Nat) :
    decodeRow w = rowOf (fld w 60 4) (fld w 55 5)
      ⟨holdOf (fld w 53 2), fld w 52 1 == 1, BitVec.ofNat 4 (fld w 48 4), BitVec.ofNat 24 (fld w 24 24)⟩ (fld w 0 24) := rfl

theorem decodeRow_packRow {kind phase o : Nat} (h : RowHdr) (h0 : kind < 16) (h1 : phase < 32) (h2 : o < 2 ^ 24) :
    decodeRow (packRow kind phase h o) = rowOf kind phase h o := by
  obtain ⟨f0, f1, f2, f3, f4, f5, f6⟩ := fld_packRow h h0 h1 h2
  rw [decodeRow_eq, f0, f1, f2, f3, f4, f5, f6, holdOf_code, toNat_beq_one, ofNat_toNat', ofNat_toNat']

/-! ### N-words -/

/-- The bits of an N-word. -/
def packN (a : NArgs) : Nat :=
  a.next.toNat * 2 ^ 120 + a.seq.toNat * 2 ^ 117 + a.cond.toNat * 2 ^ 113 + a.loopOp.toNat * 2 ^ 111
    + a.loopN.toNat * 2 ^ 108 + a.agaReg.toNat * 2 ^ 104 + a.agaMode.toNat * 2 ^ 100 + a.agbReg.toNat * 2 ^ 96
    + a.agbMode.toNat * 2 ^ 92 + a.rd.toNat * 2 ^ 88 + a.wr.toNat * 2 ^ 84 + a.alu.toNat * 2 ^ 78 + a.srcA.toNat * 2 ^ 73
    + a.srcB.toNat * 2 ^ 68 + a.dst.toNat * 2 ^ 63 + a.res.toNat * 2 ^ 60 + a.post.toNat * 2 ^ 56 + a.imm.toNat

theorem packN_lt (a : NArgs) : packN a < 2 ^ 128 := by
  have := a.next.isLt; have := a.seq.isLt; have := a.cond.isLt; have := a.loopOp.isLt; have := a.loopN.isLt; have := a.agaReg.isLt
  have := a.agaMode.isLt; have := a.agbReg.isLt; have := a.agbMode.isLt; have := a.rd.isLt; have := a.wr.isLt; have := a.alu.isLt
  have := a.srcA.isLt; have := a.srcB.isLt; have := a.dst.isLt; have := a.res.isLt; have := a.post.isLt; have := a.imm.isLt
  simp only [packN]; omega

theorem nArgsOf_packN (a : NArgs) : nArgsOf (packN a) = a := by
  have := a.next.isLt; have := a.seq.isLt; have := a.cond.isLt; have := a.loopOp.isLt; have := a.loopN.isLt; have := a.agaReg.isLt
  have := a.agaMode.isLt; have := a.agbReg.isLt; have := a.agbMode.isLt; have := a.rd.isLt; have := a.wr.isLt; have := a.alu.isLt
  have := a.srcA.isLt; have := a.srcB.isLt; have := a.dst.isLt; have := a.res.isLt; have := a.post.isLt; have := a.imm.isLt
  have e1 : fld (packN a) 120 8 = a.next.toNat := by simp only [packN, fld]; omega
  have e2 : fld (packN a) 117 3 = a.seq.toNat := by simp only [packN, fld]; omega
  have e3 : fld (packN a) 113 4 = a.cond.toNat := by simp only [packN, fld]; omega
  have e4 : fld (packN a) 111 2 = a.loopOp.toNat := by simp only [packN, fld]; omega
  have e5 : fld (packN a) 108 3 = a.loopN.toNat := by simp only [packN, fld]; omega
  have e6 : fld (packN a) 104 4 = a.agaReg.toNat := by simp only [packN, fld]; omega
  have e7 : fld (packN a) 100 4 = a.agaMode.toNat := by simp only [packN, fld]; omega
  have e8 : fld (packN a) 96 4 = a.agbReg.toNat := by simp only [packN, fld]; omega
  have e9 : fld (packN a) 92 4 = a.agbMode.toNat := by simp only [packN, fld]; omega
  have e10 : fld (packN a) 88 4 = a.rd.toNat := by simp only [packN, fld]; omega
  have e11 : fld (packN a) 84 4 = a.wr.toNat := by simp only [packN, fld]; omega
  have e12 : fld (packN a) 78 6 = a.alu.toNat := by simp only [packN, fld]; omega
  have e13 : fld (packN a) 73 5 = a.srcA.toNat := by simp only [packN, fld]; omega
  have e14 : fld (packN a) 68 5 = a.srcB.toNat := by simp only [packN, fld]; omega
  have e15 : fld (packN a) 63 5 = a.dst.toNat := by simp only [packN, fld]; omega
  have e16 : fld (packN a) 60 3 = a.res.toNat := by simp only [packN, fld]; omega
  have e17 : fld (packN a) 56 4 = a.post.toNat := by simp only [packN, fld]; omega
  have e18 : fld (packN a) 0 56 = a.imm.toNat := by simp only [packN, fld]; omega
  rw [nArgsOf, e1, e2, e3, e4, e5, e6, e7, e8, e9, e10, e11, e12, e13, e14, e15, e16, e17, e18]
  simp only [ofNat_toNat']

theorem decodeN_packN {a : NArgs} (h : a.wf = true) : decodeN (packN a) = some (.nWord a) := by
  rw [decodeN, nArgsOf_packN]; exact if_pos h

end Sys2Proof
end

