-- ==== Sys2Proof/Laws/Words.lean ====
section
/-! SUPPORT. A packed word through the decoder of its form: which shape of operands the decoder tries, and that the shape takes the
operands whose codes were packed. -/

namespace Sys2Proof

/-! ### Which form a C-word's opcode selects -/

theorem decodeC_packR {maj rd ra rb fn e : Nat} (h0 : maj < 128) (h1 : rd < 64) (h2 : ra < 64) (h3 : rb < 64) (h4 : fn < 64)
    (hm : maj < 16 ∨ 36 ≤ maj ∧ maj ≤ 38 ∨ 80 ≤ maj ∧ maj ≤ 111 ∨ maj = 115 ∨ maj = 116 ∨ maj = 118 ∨ maj = 119) :
    decodeC (packR maj rd ra rb fn) e =
      if maj = 14 then decSel fn rd ra rb else if maj = 37 then decCallr fn rd ra rb else decR maj fn rd ra rb := by
  obtain ⟨f0, f1, f2, f3, f4, f5⟩ := fld_packR h0 h1 h2 h3 h4
  simp only [decodeC, decReg, f0, f1, f2, f3, f4, f5]
  rw [if_neg (by omega), if_neg (by omega), if_neg (by omega), if_neg (by omega), if_neg (by omega), if_neg (by omega), if_pos trivial]

theorem decodeC_packI {maj rd ra imm x e : Nat} (h0 : maj < 128) (h1 : rd < 64) (h2 : ra < 64) (h3 : imm < 4096) (h4 : x < 2)
    (hm : 16 ≤ maj ∧ maj ≤ 30 ∨ 112 ≤ maj ∧ maj ≤ 114 ∨ maj = 117) :
    decodeC (packI maj rd ra imm x) e = if x = 0 then decI maj rd ra imm else decIExt maj rd ra (imm + 4096 * e) := by
  obtain ⟨f0, f1, f2, f3, f4⟩ := fld_packI h0 h1 h2 h3 h4
  simp only [decodeC, decImm, f0, f1, f2, f3, f4]
  rw [if_pos hm]

theorem decodeC_packB {maj c off x e : Nat} (h1 : c < 64) (h2 : off < 262144) (h3 : x < 2) (hm : 32 ≤ maj ∧ maj ≤ 35) :
    decodeC (packB maj c off x) e = if x = 0 then decBr maj c off false else decBr maj c (off + 262144 * e) true := by
  obtain ⟨f0, f1, f2, f3⟩ := fld_packB (show maj < 128 by omega) h1 h2 h3
  simp only [decodeC, decBranch, f0, f1, f2, f3]
  rw [if_neg (by omega), if_pos hm]

theorem decMem_of {w maj e : Nat} {sc : Scope} (h : scopeOf (fld w 2 3) = some sc) :
    decMem w maj e = decM maj (fld w 19 6) (fld w 13 6) ⟨BitVec.ofNat 8 (fld w 5 8), sc, fld w 1 1 == 1⟩ (fld w 0 1 == 1) e := by
  rw [decMem, h]

theorem decAtomic_of {w maj : Nat} {sc : Scope} (h : scopeOf (fld w 4 3) = some sc) (h0 : fld w 0 1 = 0) :
    decAtomic w maj = decA3 maj (fld w 19 6) (fld w 13 6) (fld w 7 6) ⟨sc, fld w 3 1 == 1, aordOf (fld w 1 2)⟩ := by
  rw [decAtomic, h]; exact if_pos h0

theorem decFence_of {w maj : Nat} {sc : Scope} (h : scopeOf (fld w 4 3) = some sc) (h0 : fld w 7 18 = 0 ∧ fld w 0 2 = 0) :
    decFence w maj = decF maj (fld w 2 2) sc := by
  rw [decFence, h]; exact if_pos h0

theorem decodeC_packM {maj rd ra x e : Nat} {m : MArgs} (h1 : rd < 64) (h2 : ra < 64) (h3 : x < 2) (hm : 48 ≤ maj ∧ maj ≤ 61) :
    decodeC (packM maj rd ra m x) e = decM maj rd ra m (x == 1) e := by
  obtain ⟨f0, f1, f2, f3, f4, f5, f6⟩ := fld_packM (m := m) (show maj < 128 by omega) h1 h2 h3
  have h : scopeOf (fld (packM maj rd ra m x) 2 3) = some m.sc := by rw [f4, scopeOf_code]
  rw [decodeC, f0, if_neg (by omega), if_neg (by omega), if_pos hm, decMem_of h, f1, f2, f3, f5, f6, toNat_beq_one, ofNat_toNat']

theorem decodeC_packC {maj rd ra rb tok sc x e : Nat} (h1 : rd < 64) (h2 : ra < 64) (h3 : rb < 64) (h4 : tok < 8) (h5 : sc < 8) (h6 : x < 2)
    (hm : maj = 62 ∨ maj = 63) : decodeC (packC maj rd ra rb tok sc x) e = decCopy maj rd ra rb tok sc (x == 1) e := by
  obtain ⟨f0, f1, f2, f3, f4, f5, f6⟩ := fld_packC (show maj < 128 by omega) h1 h2 h3 h4 h5 h6
  simp only [decodeC, f0, f1, f2, f3, f4, f5, f6]
  rw [if_neg (by omega), if_neg (by omega), if_neg (by omega), if_pos hm]

theorem decodeC_packA {maj rd ra rb e : Nat} {a : AArgs} (h1 : rd < 64) (h2 : ra < 64) (h3 : rb < 64) (hm : 64 ≤ maj ∧ maj ≤ 73) :
    decodeC (packA maj rd ra rb a) e = decA3 maj rd ra rb a := by
  obtain ⟨f0, f1, f2, f3, f4, f5, f6, f7⟩ := fld_packA (a := a) (show maj < 128 by omega) h1 h2 h3
  have h : scopeOf (fld (packA maj rd ra rb a) 4 3) = some a.sc := by rw [f4, scopeOf_code]
  rw [decodeC, f0, if_neg (by omega), if_neg (by omega), if_neg (by omega), if_neg (by omega), if_pos hm, decAtomic_of h f7, f1, f2, f3,
    f5, f6, toNat_beq_one, aordOf_code]

theorem decodeC_packF {maj kind e : Nat} {sc : Scope} (h1 : kind < 4) (hm : 74 ≤ maj ∧ maj ≤ 76) :
    decodeC (packF maj sc.code kind) e = decF maj kind sc := by
  obtain ⟨f0, f1, f2, f3, f4⟩ := fld_packF (show maj < 128 by omega) sc.code_lt h1
  have h : scopeOf (fld (packF maj sc.code kind) 4 3) = some sc := by rw [f2, scopeOf_code]
  rw [decodeC, f0, if_neg (by omega), if_neg (by omega), if_neg (by omega), if_neg (by omega), if_neg (by omega), if_pos hm,
    decFence_of h ⟨f1, f4⟩, f3]

/-! ### The shapes of operands -/

theorem decIII_code (rd : DReg) (ra rb : SReg) (k : DReg → SReg → SReg → Instr) :
    decIII rd.code ra.code rb.code k = some (k rd ra rb) := by simp [decIII]
theorem decQII_code (qd : QReg) (ra rb : SReg) (k : QReg → SReg → SReg → Instr) :
    decQII (qcode qd) ra.code rb.code k = some (k qd ra rb) := by simp [decQII]
theorem decII_code (rd : DReg) (ra : SReg) (k : DReg → SReg → Instr) : decII rd.code ra.code 0 k = some (k rd ra) := by simp [decII]
theorem decQQQ_code (qd qa qb : QReg) (k : QReg → QReg → QReg → Instr) :
    decQQQ (qcode qd) (qcode qa) (qcode qb) k = some (k qd qa qb) := by simp [decQQQ]
theorem decQQ_code (qd qa : QReg) (k : QReg → QReg → Instr) : decQQ (qcode qd) (qcode qa) 0 k = some (k qd qa) := by simp [decQQ]
theorem decA_code (ra : SReg) (k : SReg → Instr) : decA 0 ra.code 0 k = some (k ra) := by simp [decA]
theorem decAB_code (ra rb : SReg) (k : SReg → SReg → Instr) : decAB 0 ra.code rb.code k = some (k ra rb) := by simp [decAB]
theorem decB_code (rb : SReg) (k : SReg → Instr) : decB 0 0 rb.code k = some (k rb) := by simp [decB]
theorem decIImm_code (rd : DReg) (ra : SReg) (k : DReg → SReg → Instr) : decIImm rd.code ra.code k = some (k rd ra) := by simp [decIImm]
theorem decQImm_code (qd : QReg) (ra : SReg) (k : QReg → SReg → Instr) : decQImm (qcode qd) ra.code k = some (k qd ra) := by simp [decQImm]
theorem decStore_code (rs ra : SReg) (k : SReg → SReg → Instr) : decStore rs.code ra.code k = some (k rs ra) := by simp [decStore]
theorem decPair_code (rp : PReg) (ra : SReg) (k : PReg → SReg → Instr) (h : rp.wf = true) :
    decPair rp.code ra.code k = some (k rp ra) := by simp [decPair, pregOf_code rp h]
theorem decShift_code (rd : DReg) (ra : SReg) (n : BitVec 6) (k : DReg → SReg → BitVec 6 → Instr) :
    decShift rd.code ra.code n.toNat k = some (k rd ra n) := by
  have := n.isLt; simp [decShift, decIImm, this]

end Sys2Proof
end

