-- ==== Sys2Proof/Laws/PerInstr.lean ====
section
/-! SUPPORT. Decoding what was encoded, one lemma per instruction: the word of a well-formed instruction decodes to that instruction, with
every operand at every value that its encoding admits. An event has no word. -/

namespace Sys2Proof.Laws.RoundTrip

/-- Encoding and decoding agree on an instruction, whichever family its word belongs to: the bits fit the word, bit 0 of a C-word says
whether an extension word follows, and decoding gives the instruction back. -/
def Statement (i : Instr) : Prop := i.wf = true →
  (∀ w e, encodeC i = some (w, e) → w < 2 ^ 32 ∧ w % 2 = (if e.isSome then 1 else 0) ∧ e.getD 0 < 2 ^ 32 ∧ decodeC w (e.getD 0) = some i)
  ∧ (∀ w, encodeE i = some w → w < 2 ^ 40 ∧ decodeE w = some i)
  ∧ (∀ w, encodeRow i = some w → w < 2 ^ 64 ∧ decodeRow w = some i)
  ∧ (∀ w, encodeN i = some w → w < 2 ^ 128 ∧ decodeN w = some i)

/-! ### One family at a time -/

theorem ofC {i : Instr} {w : Nat} {e : Option Nat} (hC : encodeC i = some (w, e)) (hE : encodeE i = none) (hR : encodeRow i = none)
    (hN : encodeN i = none) (h : i.wf = true → w < 2 ^ 32 ∧ w % 2 = (if e.isSome then 1 else 0) ∧ e.getD 0 < 2 ^ 32 ∧ decodeC w (e.getD 0) = some i) :
    Statement i := by
  intro hw
  refine ⟨fun w' e' h' => ?_, fun _ h' => ?_, fun _ h' => ?_, fun _ h' => ?_⟩
  · rw [hC] at h'; cases h'; exact h hw
  · rw [hE] at h'; cases h'
  · rw [hR] at h'; cases h'
  · rw [hN] at h'; cases h'

theorem ofE {i : Instr} {op : Nat} {w : EArgs} {sh : Machine.EShape} (hop : op < 256) (hC : encodeC i = none)
    (hE : encodeE i = some (packE op w)) (hR : encodeRow i = none) (hN : encodeN i = none) (hs : Machine.eShape op = some sh)
    (hw : i.wf = sh.ok w) (hk : (eCtor op).map (fun k => k w) = some i) : Statement i := by
  intro h
  refine ⟨fun _ _ h' => ?_, fun _ h' => ?_, fun _ h' => ?_, fun _ h' => ?_⟩
  · rw [hC] at h'; cases h'
  · rw [hE] at h'; cases h'
    refine ⟨packE_lt hop w, ?_⟩
    rw [decodeE, eFields_packE hop hs (hw ▸ h)]; exact hk
  · rw [hR] at h'; cases h'
  · rw [hN] at h'; cases h'

theorem ofRow {i : Instr} {kind phase o : Nat} {h : RowHdr} (h0 : kind < 16) (h1 : phase < 32) (h2 : o < 2 ^ 24) (hC : encodeC i = none)
    (hE : encodeE i = none) (hR : encodeRow i = some (packRow kind phase h o)) (hN : encodeN i = none)
    (hd : rowOf kind phase h o = some i) : Statement i := by
  intro _
  refine ⟨fun _ _ h' => ?_, fun _ h' => ?_, fun _ h' => ?_, fun _ h' => ?_⟩
  · rw [hC] at h'; cases h'
  · rw [hE] at h'; cases h'
  · rw [hR] at h'; cases h'
    exact ⟨packRow_lt h h0 h1 h2, (decodeRow_packRow h h0 h1 h2).trans hd⟩
  · rw [hN] at h'; cases h'

theorem ofEvent {i : Instr} (hC : encodeC i = none) (hE : encodeE i = none) (hR : encodeRow i = none) (hN : encodeN i = none) :
    Statement i := by
  intro _
  refine ⟨fun _ _ h' => ?_, fun _ h' => ?_, fun _ h' => ?_, fun _ h' => ?_⟩
  · rw [hC] at h'; cases h'
  · rw [hE] at h'; cases h'
  · rw [hR] at h'; cases h'
  · rw [hN] at h'; cases h'

/-! ### The forms of a C-word -/

/-- Form R. -/
theorem ofR {i : Instr} {maj rd ra rb fn : Nat} (hC : encodeC i = some (packR maj rd ra rb fn, none)) (hE : encodeE i = none)
    (hR : encodeRow i = none) (hN : encodeN i = none) (h0 : maj < 128) (h1 : rd < 64) (h2 : ra < 64) (h3 : rb < 64) (h4 : fn < 64)
    (hm : maj < 16 ∨ 36 ≤ maj ∧ maj ≤ 38 ∨ 80 ≤ maj ∧ maj ≤ 111 ∨ maj = 115 ∨ maj = 116 ∨ maj = 118 ∨ maj = 119)
    (hd : (if maj = 14 then decSel fn rd ra rb else if maj = 37 then decCallr fn rd ra rb else decR maj fn rd ra rb) = some i) :
    Statement i := by
  refine ofC hC hE hR hN fun _ => ⟨?_, ?_, by simp, (decodeC_packR h0 h1 h2 h3 h4 hm).trans hd⟩
  · simp only [packR]; omega
  · simp only [packR]; simp only [Option.isSome_none, Bool.false_eq_true, if_false]; omega

/-- Form I, in one word. -/
theorem ofI {i : Instr} {maj rd ra imm : Nat} (hC : encodeC i = some (packI maj rd ra imm 0, none)) (hE : encodeE i = none)
    (hR : encodeRow i = none) (hN : encodeN i = none) (h0 : maj < 128) (h1 : rd < 64) (h2 : ra < 64) (h3 : imm < 4096)
    (hm : 16 ≤ maj ∧ maj ≤ 30 ∨ 112 ≤ maj ∧ maj ≤ 114 ∨ maj = 117) (hd : decI maj rd ra imm = some i) : Statement i := by
  refine ofC hC hE hR hN fun _ => ⟨?_, ?_, by simp, (decodeC_packI h0 h1 h2 h3 (by omega) hm).trans hd⟩
  · simp only [packI]; omega
  · simp only [packI]; simp only [Option.isSome_none, Bool.false_eq_true, if_false]; omega

/-- Form I, with its extension word. -/
theorem ofIExt {i : Instr} {maj rd ra imm : Nat} (hC : encodeC i = some (packI maj rd ra (imm % 4096) 1, some (imm / 4096)))
    (hE : encodeE i = none) (hR : encodeRow i = none) (hN : encodeN i = none) (h0 : maj < 128) (h1 : rd < 64) (h2 : ra < 64)
    (h3 : imm < 2 ^ 44) (hm : 16 ≤ maj ∧ maj ≤ 30 ∨ 112 ≤ maj ∧ maj ≤ 114 ∨ maj = 117) (hd : decIExt maj rd ra imm = some i) :
    Statement i := by
  have e : decodeC (packI maj rd ra (imm % 4096) 1) (imm / 4096) = some i := by
    rw [decodeC_packI h0 h1 h2 (by omega) (by omega) hm, Nat.mod_add_div]; exact hd
  refine ofC hC hE hR hN fun _ => ⟨?_, ?_, ?_, e⟩
  · simp only [packI]; omega
  · simp only [packI]; simp only [Option.isSome_some, if_true]; omega
  · simp only [Option.getD_some]; omega

/-- Form B, in one word. -/
theorem ofB {i : Instr} {maj c off : Nat} (hC : encodeC i = some (packB maj c off 0, none)) (hE : encodeE i = none)
    (hR : encodeRow i = none) (hN : encodeN i = none) (h1 : c < 64) (h2 : off < 262144)
    (hm : 32 ≤ maj ∧ maj ≤ 35) (hd : decBr maj c off false = some i) : Statement i := by
  refine ofC hC hE hR hN fun _ => ⟨?_, ?_, by simp, (decodeC_packB h1 h2 (by omega) hm).trans hd⟩
  · simp only [packB]; omega
  · simp only [packB]; simp only [Option.isSome_none, Bool.false_eq_true, if_false]; omega

/-- Form B, with its extension word. -/
theorem ofBExt {i : Instr} {maj c off : Nat} (hC : encodeC i = some (packB maj c (off % 262144) 1, some (off / 262144)))
    (hE : encodeE i = none) (hR : encodeRow i = none) (hN : encodeN i = none) (h1 : c < 64)
    (h2 : off < 2 ^ 50) (hm : 32 ≤ maj ∧ maj ≤ 35) (hd : decBr maj c off true = some i) : Statement i := by
  have e : decodeC (packB maj c (off % 262144) 1) (off / 262144) = some i := by
    rw [decodeC_packB h1 (by omega) (by omega) hm, Nat.mod_add_div]; exact hd
  refine ofC hC hE hR hN fun _ => ⟨?_, ?_, ?_, e⟩
  · simp only [packB]; omega
  · simp only [packB]; simp only [Option.isSome_some, if_true]; omega
  · simp only [Option.getD_some]; omega

/-- Form M, in one word. -/
theorem ofM {i : Instr} {maj rd ra : Nat} {m : MArgs} (hC : encodeC i = some (packM maj rd ra m 0, none)) (hE : encodeE i = none)
    (hR : encodeRow i = none) (hN : encodeN i = none) (h1 : rd < 64) (h2 : ra < 64) (hm : 48 ≤ maj ∧ maj ≤ 61)
    (hd : i.wf = true → decM maj rd ra m false 0 = some i) : Statement i := by
  have := m.wait.isLt; have := m.sc.code_lt; have := m.ord.toNat_lt
  refine ofC hC hE hR hN fun h => ⟨?_, ?_, by simp, (decodeC_packM h1 h2 (by omega) hm).trans (hd h)⟩
  · simp only [packM]; omega
  · simp only [packM]; simp only [Option.isSome_none, Bool.false_eq_true, if_false]; omega

/-- Form M, with its extension word. -/
theorem ofMExt {i : Instr} {maj rd ra off : Nat} {m : MArgs} (hC : encodeC i = some (packM maj rd ra m 1, some off)) (hE : encodeE i = none)
    (hR : encodeRow i = none) (hN : encodeN i = none) (h1 : rd < 64) (h2 : ra < 64) (h3 : off < 2 ^ 32) (hm : 48 ≤ maj ∧ maj ≤ 61)
    (hd : i.wf = true → decM maj rd ra m true off = some i) : Statement i := by
  have := m.wait.isLt; have := m.sc.code_lt; have := m.ord.toNat_lt
  refine ofC hC hE hR hN fun h => ⟨?_, ?_, ?_, (decodeC_packM h1 h2 (by omega) hm).trans (hd h)⟩
  · simp only [packM]; omega
  · simp only [packM]; simp only [Option.isSome_some, if_true]; omega
  · simpa using h3

/-- Form C; `o` is the extension word, if any. -/
theorem ofCopy {i : Instr} {maj rd ra rb tok sc x : Nat} {o : Option Nat} (hC : encodeC i = some (packC maj rd ra rb tok sc x, o))
    (hE : encodeE i = none) (hR : encodeRow i = none) (hN : encodeN i = none) (h1 : rd < 64) (h2 : ra < 64) (h3 : rb < 64)
    (h4 : tok < 8) (h5 : sc < 8) (hx : x = (if o.isSome then 1 else 0)) (ho : o.getD 0 < 2 ^ 32) (hm : maj = 62 ∨ maj = 63)
    (hd : decCopy maj rd ra rb tok sc (x == 1) (o.getD 0) = some i) : Statement i := by
  have h6 : x < 2 := by rw [hx]; split <;> decide
  refine ofC hC hE hR hN fun _ => ⟨?_, ?_, ho, (decodeC_packC h1 h2 h3 h4 h5 h6 hm).trans hd⟩
  · simp only [packC]; omega
  · rw [← hx]; simp only [packC]; omega

/-- Form A. -/
theorem ofA {i : Instr} {maj rd ra rb : Nat} {a : AArgs} (hC : encodeC i = some (packA maj rd ra rb a, none)) (hE : encodeE i = none)
    (hR : encodeRow i = none) (hN : encodeN i = none) (h1 : rd < 64) (h2 : ra < 64) (h3 : rb < 64)
    (hm : 64 ≤ maj ∧ maj ≤ 73) (hd : decA3 maj rd ra rb a = some i) : Statement i := by
  have := a.sc.code_lt; have := a.ord.code_lt; have := a.sz.toNat_lt
  refine ofC hC hE hR hN fun _ => ⟨?_, ?_, by simp, (decodeC_packA h1 h2 h3 hm).trans hd⟩
  · simp only [packA]; omega
  · simp only [packA]; simp only [Option.isSome_none, Bool.false_eq_true, if_false]; omega

/-- Form F. -/
theorem ofF {i : Instr} {maj kind : Nat} {sc : Scope} (hC : encodeC i = some (packF maj sc.code kind, none)) (hE : encodeE i = none)
    (hR : encodeRow i = none) (hN : encodeN i = none) (h1 : kind < 4) (hm : 74 ≤ maj ∧ maj ≤ 76)
    (hd : decF maj kind sc = some i) : Statement i := by
  have := sc.code_lt
  refine ofC hC hE hR hN fun _ => ⟨?_, ?_, by simp, (decodeC_packF h1 hm).trans hd⟩
  · simp only [packF]; omega
  · simp only [packF]; simp only [Option.isSome_none, Bool.false_eq_true, if_false]; omega

/-! ### The instructions -/

theorem add (rd : DReg) (ra rb : SReg) : Statement (.add rd ra rb) :=
  ofR rfl rfl rfl rfl (by decide) rd.code_lt ra.code_lt rb.code_lt (by decide) (by decide)
    (decIII_code _ _ _ _)
theorem sub (rd : DReg) (ra rb : SReg) : Statement (.sub rd ra rb) :=
  ofR rfl rfl rfl rfl (by decide) rd.code_lt ra.code_lt rb.code_lt (by decide) (by decide)
    (decIII_code _ _ _ _)
theorem and (rd : DReg) (ra rb : SReg) : Statement (.and rd ra rb) :=
  ofR rfl rfl rfl rfl (by decide) rd.code_lt ra.code_lt rb.code_lt (by decide) (by decide)
    (decIII_code _ _ _ _)
theorem or (rd : DReg) (ra rb : SReg) : Statement (.or rd ra rb) :=
  ofR rfl rfl rfl rfl (by decide) rd.code_lt ra.code_lt rb.code_lt (by decide) (by decide)
    (decIII_code _ _ _ _)
theorem xor (rd : DReg) (ra rb : SReg) : Statement (.xor rd ra rb) :=
  ofR rfl rfl rfl rfl (by decide) rd.code_lt ra.code_lt rb.code_lt (by decide) (by decide)
    (decIII_code _ _ _ _)
theorem shl (rd : DReg) (ra rb : SReg) : Statement (.shl rd ra rb) :=
  ofR rfl rfl rfl rfl (by decide) rd.code_lt ra.code_lt rb.code_lt (by decide) (by decide)
    (decIII_code _ _ _ _)
theorem shr (rd : DReg) (ra rb : SReg) : Statement (.shr rd ra rb) :=
  ofR rfl rfl rfl rfl (by decide) rd.code_lt ra.code_lt rb.code_lt (by decide) (by decide)
    (decIII_code _ _ _ _)
theorem sra (rd : DReg) (ra rb : SReg) : Statement (.sra rd ra rb) :=
  ofR rfl rfl rfl rfl (by decide) rd.code_lt ra.code_lt rb.code_lt (by decide) (by decide)
    (decIII_code _ _ _ _)
theorem mul (rd : DReg) (ra rb : SReg) : Statement (.mul rd ra rb) :=
  ofR rfl rfl rfl rfl (by decide) rd.code_lt ra.code_lt rb.code_lt (by decide) (by decide)
    (decIII_code _ _ _ _)
theorem mulhI64 (rd : DReg) (ra rb : SReg) : Statement (.mulhI64 rd ra rb) :=
  ofR rfl rfl rfl rfl (by decide) rd.code_lt ra.code_lt rb.code_lt (by decide) (by decide)
    (decIII_code _ _ _ _)
theorem mulhN64 (rd : DReg) (ra rb : SReg) : Statement (.mulhN64 rd ra rb) :=
  ofR rfl rfl rfl rfl (by decide) rd.code_lt ra.code_lt rb.code_lt (by decide) (by decide)
    (decIII_code _ _ _ _)
theorem divI64 (rd : DReg) (ra rb : SReg) : Statement (.divI64 rd ra rb) :=
  ofR rfl rfl rfl rfl (by decide) rd.code_lt ra.code_lt rb.code_lt (by decide) (by decide)
    (decIII_code _ _ _ _)
theorem divN64 (rd : DReg) (ra rb : SReg) : Statement (.divN64 rd ra rb) :=
  ofR rfl rfl rfl rfl (by decide) rd.code_lt ra.code_lt rb.code_lt (by decide) (by decide)
    (decIII_code _ _ _ _)
theorem remI64 (rd : DReg) (ra rb : SReg) : Statement (.remI64 rd ra rb) :=
  ofR rfl rfl rfl rfl (by decide) rd.code_lt ra.code_lt rb.code_lt (by decide) (by decide)
    (decIII_code _ _ _ _)
theorem remN64 (rd : DReg) (ra rb : SReg) : Statement (.remN64 rd ra rb) :=
  ofR rfl rfl rfl rfl (by decide) rd.code_lt ra.code_lt rb.code_lt (by decide) (by decide)
    (decIII_code _ _ _ _)
theorem minI64 (rd : DReg) (ra rb : SReg) : Statement (.minI64 rd ra rb) :=
  ofR rfl rfl rfl rfl (by decide) rd.code_lt ra.code_lt rb.code_lt (by decide) (by decide)
    (decIII_code _ _ _ _)
theorem maxI64 (rd : DReg) (ra rb : SReg) : Statement (.maxI64 rd ra rb) :=
  ofR rfl rfl rfl rfl (by decide) rd.code_lt ra.code_lt rb.code_lt (by decide) (by decide)
    (decIII_code _ _ _ _)
theorem minN64 (rd : DReg) (ra rb : SReg) : Statement (.minN64 rd ra rb) :=
  ofR rfl rfl rfl rfl (by decide) rd.code_lt ra.code_lt rb.code_lt (by decide) (by decide)
    (decIII_code _ _ _ _)
theorem maxN64 (rd : DReg) (ra rb : SReg) : Statement (.maxN64 rd ra rb) :=
  ofR rfl rfl rfl rfl (by decide) rd.code_lt ra.code_lt rb.code_lt (by decide) (by decide)
    (decIII_code _ _ _ _)
theorem cmpeq (qd : QReg) (ra rb : SReg) : Statement (.cmpeq qd ra rb) :=
  ofR rfl rfl rfl rfl (by decide) (qcode_lt qd) ra.code_lt rb.code_lt (by decide) (by decide)
    (decQII_code _ _ _ _)
theorem cmpne (qd : QReg) (ra rb : SReg) : Statement (.cmpne qd ra rb) :=
  ofR rfl rfl rfl rfl (by decide) (qcode_lt qd) ra.code_lt rb.code_lt (by decide) (by decide)
    (decQII_code _ _ _ _)
theorem cmplt (qd : QReg) (ra rb : SReg) : Statement (.cmplt qd ra rb) :=
  ofR rfl rfl rfl rfl (by decide) (qcode_lt qd) ra.code_lt rb.code_lt (by decide) (by decide)
    (decQII_code _ _ _ _)
theorem cmpge (qd : QReg) (ra rb : SReg) : Statement (.cmpge qd ra rb) :=
  ofR rfl rfl rfl rfl (by decide) (qcode_lt qd) ra.code_lt rb.code_lt (by decide) (by decide)
    (decQII_code _ _ _ _)
theorem cmpltN64 (qd : QReg) (ra rb : SReg) : Statement (.cmpltN64 qd ra rb) :=
  ofR rfl rfl rfl rfl (by decide) (qcode_lt qd) ra.code_lt rb.code_lt (by decide) (by decide)
    (decQII_code _ _ _ _)
theorem cmpgeN64 (qd : QReg) (ra rb : SReg) : Statement (.cmpgeN64 qd ra rb) :=
  ofR rfl rfl rfl rfl (by decide) (qcode_lt qd) ra.code_lt rb.code_lt (by decide) (by decide)
    (decQII_code _ _ _ _)
theorem clz (rd : DReg) (ra : SReg) : Statement (.clz rd ra) :=
  ofR rfl rfl rfl rfl (by decide) rd.code_lt ra.code_lt (by decide) (by decide) (by decide)
    (decII_code _ _ _)
theorem ctz (rd : DReg) (ra : SReg) : Statement (.ctz rd ra) :=
  ofR rfl rfl rfl rfl (by decide) rd.code_lt ra.code_lt (by decide) (by decide) (by decide)
    (decII_code _ _ _)
theorem popc (rd : DReg) (ra : SReg) : Statement (.popc rd ra) :=
  ofR rfl rfl rfl rfl (by decide) rd.code_lt ra.code_lt (by decide) (by decide) (by decide)
    (decII_code _ _ _)
theorem andn (rd : DReg) (ra rb : SReg) : Statement (.andn rd ra rb) :=
  ofR rfl rfl rfl rfl (by decide) rd.code_lt ra.code_lt rb.code_lt (by decide) (by decide)
    (decIII_code _ _ _ _)
theorem orn (rd : DReg) (ra rb : SReg) : Statement (.orn rd ra rb) :=
  ofR rfl rfl rfl rfl (by decide) rd.code_lt ra.code_lt rb.code_lt (by decide) (by decide)
    (decIII_code _ _ _ _)
theorem sel (rd : DReg) (q : QReg) (ra rb : SReg) : Statement (.sel rd q ra rb) :=
  ofR rfl rfl rfl rfl (by decide) rd.code_lt ra.code_lt rb.code_lt (by have := q.isLt; omega) (by decide)
    (by have := q.isLt; simp [decSel, decIII, this])
theorem pand (qd qa qb : QReg) : Statement (.pand qd qa qb) :=
  ofR rfl rfl rfl rfl (by decide) (qcode_lt qd) (qcode_lt qa) (qcode_lt qb) (by decide) (by decide)
    (decQQQ_code _ _ _ _)
theorem por (qd qa qb : QReg) : Statement (.por qd qa qb) :=
  ofR rfl rfl rfl rfl (by decide) (qcode_lt qd) (qcode_lt qa) (qcode_lt qb) (by decide) (by decide)
    (decQQQ_code _ _ _ _)
theorem pxor (qd qa qb : QReg) : Statement (.pxor qd qa qb) :=
  ofR rfl rfl rfl rfl (by decide) (qcode_lt qd) (qcode_lt qa) (qcode_lt qb) (by decide) (by decide)
    (decQQQ_code _ _ _ _)
theorem pnot (qd qa : QReg) : Statement (.pnot qd qa) :=
  ofR rfl rfl rfl rfl (by decide) (qcode_lt qd) (qcode_lt qa) (by decide) (by decide) (by decide)
    (decQQ_code _ _ _)
theorem addi (rd : DReg) (ra : SReg) (imm : BitVec 12) : Statement (.addi rd ra imm) :=
  ofI rfl rfl rfl rfl (by decide) rd.code_lt ra.code_lt (by have := imm.isLt; omega) (by decide)
    ((decIImm_code _ _ _).trans (by rw [ofNat_toNat']))
theorem addiExt (rd : DReg) (ra : SReg) (imm : BitVec 44) : Statement (.addiExt rd ra imm) :=
  ofIExt (imm := imm.toNat) rfl rfl rfl rfl (by decide) rd.code_lt ra.code_lt imm.isLt (by decide)
    ((decIImm_code _ _ _).trans (by rw [ofNat_toNat']))
theorem subi (rd : DReg) (ra : SReg) (imm : BitVec 12) : Statement (.subi rd ra imm) :=
  ofI rfl rfl rfl rfl (by decide) rd.code_lt ra.code_lt (by have := imm.isLt; omega) (by decide)
    ((decIImm_code _ _ _).trans (by rw [ofNat_toNat']))
theorem subiExt (rd : DReg) (ra : SReg) (imm : BitVec 44) : Statement (.subiExt rd ra imm) :=
  ofIExt (imm := imm.toNat) rfl rfl rfl rfl (by decide) rd.code_lt ra.code_lt imm.isLt (by decide)
    ((decIImm_code _ _ _).trans (by rw [ofNat_toNat']))
theorem andi (rd : DReg) (ra : SReg) (imm : BitVec 12) : Statement (.andi rd ra imm) :=
  ofI rfl rfl rfl rfl (by decide) rd.code_lt ra.code_lt (by have := imm.isLt; omega) (by decide)
    ((decIImm_code _ _ _).trans (by rw [ofNat_toNat']))
theorem andiExt (rd : DReg) (ra : SReg) (imm : BitVec 44) : Statement (.andiExt rd ra imm) :=
  ofIExt (imm := imm.toNat) rfl rfl rfl rfl (by decide) rd.code_lt ra.code_lt imm.isLt (by decide)
    ((decIImm_code _ _ _).trans (by rw [ofNat_toNat']))
theorem ori (rd : DReg) (ra : SReg) (imm : BitVec 12) : Statement (.ori rd ra imm) :=
  ofI rfl rfl rfl rfl (by decide) rd.code_lt ra.code_lt (by have := imm.isLt; omega) (by decide)
    ((decIImm_code _ _ _).trans (by rw [ofNat_toNat']))
theorem oriExt (rd : DReg) (ra : SReg) (imm : BitVec 44) : Statement (.oriExt rd ra imm) :=
  ofIExt (imm := imm.toNat) rfl rfl rfl rfl (by decide) rd.code_lt ra.code_lt imm.isLt (by decide)
    ((decIImm_code _ _ _).trans (by rw [ofNat_toNat']))
theorem xori (rd : DReg) (ra : SReg) (imm : BitVec 12) : Statement (.xori rd ra imm) :=
  ofI rfl rfl rfl rfl (by decide) rd.code_lt ra.code_lt (by have := imm.isLt; omega) (by decide)
    ((decIImm_code _ _ _).trans (by rw [ofNat_toNat']))
theorem xoriExt (rd : DReg) (ra : SReg) (imm : BitVec 44) : Statement (.xoriExt rd ra imm) :=
  ofIExt (imm := imm.toNat) rfl rfl rfl rfl (by decide) rd.code_lt ra.code_lt imm.isLt (by decide)
    ((decIImm_code _ _ _).trans (by rw [ofNat_toNat']))
theorem shli (rd : DReg) (ra : SReg) (n : BitVec 6) : Statement (.shli rd ra n) :=
  ofI rfl rfl rfl rfl (by decide) rd.code_lt ra.code_lt (by have := n.isLt; omega) (by decide)
    (decShift_code _ _ _ _)
theorem shri (rd : DReg) (ra : SReg) (n : BitVec 6) : Statement (.shri rd ra n) :=
  ofI rfl rfl rfl rfl (by decide) rd.code_lt ra.code_lt (by have := n.isLt; omega) (by decide)
    (decShift_code _ _ _ _)
theorem srai (rd : DReg) (ra : SReg) (n : BitVec 6) : Statement (.srai rd ra n) :=
  ofI rfl rfl rfl rfl (by decide) rd.code_lt ra.code_lt (by have := n.isLt; omega) (by decide)
    (decShift_code _ _ _ _)
theorem muli (rd : DReg) (ra : SReg) (imm : BitVec 12) : Statement (.muli rd ra imm) :=
  ofI rfl rfl rfl rfl (by decide) rd.code_lt ra.code_lt (by have := imm.isLt; omega) (by decide)
    ((decIImm_code _ _ _).trans (by rw [ofNat_toNat']))
theorem muliExt (rd : DReg) (ra : SReg) (imm : BitVec 44) : Statement (.muliExt rd ra imm) :=
  ofIExt (imm := imm.toNat) rfl rfl rfl rfl (by decide) rd.code_lt ra.code_lt imm.isLt (by decide)
    ((decIImm_code _ _ _).trans (by rw [ofNat_toNat']))
theorem cmpeqi (qd : QReg) (ra : SReg) (imm : BitVec 12) : Statement (.cmpeqi qd ra imm) :=
  ofI rfl rfl rfl rfl (by decide) (qcode_lt qd) ra.code_lt (by have := imm.isLt; omega) (by decide)
    ((decQImm_code _ _ _).trans (by rw [ofNat_toNat']))
theorem cmpeqiExt (qd : QReg) (ra : SReg) (imm : BitVec 44) : Statement (.cmpeqiExt qd ra imm) :=
  ofIExt (imm := imm.toNat) rfl rfl rfl rfl (by decide) (qcode_lt qd) ra.code_lt imm.isLt (by decide)
    ((decQImm_code _ _ _).trans (by rw [ofNat_toNat']))
theorem cmpnei (qd : QReg) (ra : SReg) (imm : BitVec 12) : Statement (.cmpnei qd ra imm) :=
  ofI rfl rfl rfl rfl (by decide) (qcode_lt qd) ra.code_lt (by have := imm.isLt; omega) (by decide)
    ((decQImm_code _ _ _).trans (by rw [ofNat_toNat']))
theorem cmpneiExt (qd : QReg) (ra : SReg) (imm : BitVec 44) : Statement (.cmpneiExt qd ra imm) :=
  ofIExt (imm := imm.toNat) rfl rfl rfl rfl (by decide) (qcode_lt qd) ra.code_lt imm.isLt (by decide)
    ((decQImm_code _ _ _).trans (by rw [ofNat_toNat']))
theorem cmplti (qd : QReg) (ra : SReg) (imm : BitVec 12) : Statement (.cmplti qd ra imm) :=
  ofI rfl rfl rfl rfl (by decide) (qcode_lt qd) ra.code_lt (by have := imm.isLt; omega) (by decide)
    ((decQImm_code _ _ _).trans (by rw [ofNat_toNat']))
theorem cmpltiExt (qd : QReg) (ra : SReg) (imm : BitVec 44) : Statement (.cmpltiExt qd ra imm) :=
  ofIExt (imm := imm.toNat) rfl rfl rfl rfl (by decide) (qcode_lt qd) ra.code_lt imm.isLt (by decide)
    ((decQImm_code _ _ _).trans (by rw [ofNat_toNat']))
theorem cmpgei (qd : QReg) (ra : SReg) (imm : BitVec 12) : Statement (.cmpgei qd ra imm) :=
  ofI rfl rfl rfl rfl (by decide) (qcode_lt qd) ra.code_lt (by have := imm.isLt; omega) (by decide)
    ((decQImm_code _ _ _).trans (by rw [ofNat_toNat']))
theorem cmpgeiExt (qd : QReg) (ra : SReg) (imm : BitVec 44) : Statement (.cmpgeiExt qd ra imm) :=
  ofIExt (imm := imm.toNat) rfl rfl rfl rfl (by decide) (qcode_lt qd) ra.code_lt imm.isLt (by decide)
    ((decQImm_code _ _ _).trans (by rw [ofNat_toNat']))
theorem cmpltiN64 (qd : QReg) (ra : SReg) (imm : BitVec 12) : Statement (.cmpltiN64 qd ra imm) :=
  ofI rfl rfl rfl rfl (by decide) (qcode_lt qd) ra.code_lt (by have := imm.isLt; omega) (by decide)
    ((decQImm_code _ _ _).trans (by rw [ofNat_toNat']))
theorem cmpltiN64Ext (qd : QReg) (ra : SReg) (imm : BitVec 44) : Statement (.cmpltiN64Ext qd ra imm) :=
  ofIExt (imm := imm.toNat) rfl rfl rfl rfl (by decide) (qcode_lt qd) ra.code_lt imm.isLt (by decide)
    ((decQImm_code _ _ _).trans (by rw [ofNat_toNat']))
theorem cmpgeiN64 (qd : QReg) (ra : SReg) (imm : BitVec 12) : Statement (.cmpgeiN64 qd ra imm) :=
  ofI rfl rfl rfl rfl (by decide) (qcode_lt qd) ra.code_lt (by have := imm.isLt; omega) (by decide)
    ((decQImm_code _ _ _).trans (by rw [ofNat_toNat']))
theorem cmpgeiN64Ext (qd : QReg) (ra : SReg) (imm : BitVec 44) : Statement (.cmpgeiN64Ext qd ra imm) :=
  ofIExt (imm := imm.toNat) rfl rfl rfl rfl (by decide) (qcode_lt qd) ra.code_lt imm.isLt (by decide)
    ((decQImm_code _ _ _).trans (by rw [ofNat_toNat']))
theorem br (q : QReg) (off : BitVec 18) : Statement (.br q off) :=
  ofB rfl rfl rfl rfl (qcode_lt q) off.isLt (by decide) (by simp [decBr])
theorem brExt (q : QReg) (off : BitVec 50) : Statement (.brExt q off) :=
  ofBExt (off := off.toNat) rfl rfl rfl rfl (qcode_lt q) off.isLt (by decide) (by simp [decBr])
theorem brn (q : QReg) (off : BitVec 18) : Statement (.brn q off) :=
  ofB rfl rfl rfl rfl (qcode_lt q) off.isLt (by decide) (by simp [decBr])
theorem brnExt (q : QReg) (off : BitVec 50) : Statement (.brnExt q off) :=
  ofBExt (off := off.toNat) rfl rfl rfl rfl (qcode_lt q) off.isLt (by decide) (by simp [decBr])
theorem jmp (off : BitVec 18) : Statement (.jmp off) := ofB rfl rfl rfl rfl (by decide) off.isLt (by decide) (by simp [decBr])
theorem jmpExt (off : BitVec 50) : Statement (.jmpExt off) :=
  ofBExt (off := off.toNat) rfl rfl rfl rfl (by decide) off.isLt (by decide) (by simp [decBr])
theorem call (fc : FrameCode) (off : BitVec 18) : Statement (.call fc off) :=
  ofB rfl rfl rfl rfl fc.code_lt off.isLt (by decide) (by simp [decBr])
theorem callExt (fc : FrameCode) (off : BitVec 50) : Statement (.callExt fc off) :=
  ofBExt (off := off.toNat) rfl rfl rfl rfl fc.code_lt off.isLt (by decide) (by simp [decBr])
theorem jmpr (ra : SReg) : Statement (.jmpr ra) :=
  ofR rfl rfl rfl rfl (by decide) (by decide) ra.code_lt (by decide) (by decide) (by decide)
    (decA_code _ _)
theorem callr (fc : FrameCode) (ra : SReg) : Statement (.callr fc ra) :=
  ofR rfl rfl rfl rfl (by decide) fc.code_lt ra.code_lt (by decide) (by decide) (by decide) (by simp [decCallr])
theorem ret : Statement (.ret) :=
  ofR rfl rfl rfl rfl (by decide) (by decide) (by decide) (by decide) (by decide) (by decide)
    (rfl)
theorem ldI8 (rd : DReg) (ra : SReg) (m : MArgs) : Statement (.ldI8 rd ra m) :=
  ofM rfl rfl rfl rfl rd.code_lt ra.code_lt (by decide) (fun _ => (decIImm_code _ _ _))
theorem ldI8Ext (rd : DReg) (ra : SReg) (m : MArgs) (off : BitVec 32) : Statement (.ldI8Ext rd ra m off) :=
  ofMExt rfl rfl rfl rfl rd.code_lt ra.code_lt off.isLt (by decide)
    (fun _ => (decIImm_code _ _ _).trans (by rw [ofNat_toNat']))
theorem ldI16 (rd : DReg) (ra : SReg) (m : MArgs) : Statement (.ldI16 rd ra m) :=
  ofM rfl rfl rfl rfl rd.code_lt ra.code_lt (by decide) (fun _ => (decIImm_code _ _ _))
theorem ldI16Ext (rd : DReg) (ra : SReg) (m : MArgs) (off : BitVec 32) : Statement (.ldI16Ext rd ra m off) :=
  ofMExt rfl rfl rfl rfl rd.code_lt ra.code_lt off.isLt (by decide)
    (fun _ => (decIImm_code _ _ _).trans (by rw [ofNat_toNat']))
theorem ldI32 (rd : DReg) (ra : SReg) (m : MArgs) : Statement (.ldI32 rd ra m) :=
  ofM rfl rfl rfl rfl rd.code_lt ra.code_lt (by decide) (fun _ => (decIImm_code _ _ _))
theorem ldI32Ext (rd : DReg) (ra : SReg) (m : MArgs) (off : BitVec 32) : Statement (.ldI32Ext rd ra m off) :=
  ofMExt rfl rfl rfl rfl rd.code_lt ra.code_lt off.isLt (by decide)
    (fun _ => (decIImm_code _ _ _).trans (by rw [ofNat_toNat']))
theorem ldI64 (rd : DReg) (ra : SReg) (m : MArgs) : Statement (.ldI64 rd ra m) :=
  ofM rfl rfl rfl rfl rd.code_lt ra.code_lt (by decide) (fun _ => (decIImm_code _ _ _))
theorem ldI64Ext (rd : DReg) (ra : SReg) (m : MArgs) (off : BitVec 32) : Statement (.ldI64Ext rd ra m off) :=
  ofMExt rfl rfl rfl rfl rd.code_lt ra.code_lt off.isLt (by decide)
    (fun _ => (decIImm_code _ _ _).trans (by rw [ofNat_toNat']))
theorem ldN8 (rd : DReg) (ra : SReg) (m : MArgs) : Statement (.ldN8 rd ra m) :=
  ofM rfl rfl rfl rfl rd.code_lt ra.code_lt (by decide) (fun _ => (decIImm_code _ _ _))
theorem ldN8Ext (rd : DReg) (ra : SReg) (m : MArgs) (off : BitVec 32) : Statement (.ldN8Ext rd ra m off) :=
  ofMExt rfl rfl rfl rfl rd.code_lt ra.code_lt off.isLt (by decide)
    (fun _ => (decIImm_code _ _ _).trans (by rw [ofNat_toNat']))
theorem ldN16 (rd : DReg) (ra : SReg) (m : MArgs) : Statement (.ldN16 rd ra m) :=
  ofM rfl rfl rfl rfl rd.code_lt ra.code_lt (by decide) (fun _ => (decIImm_code _ _ _))
theorem ldN16Ext (rd : DReg) (ra : SReg) (m : MArgs) (off : BitVec 32) : Statement (.ldN16Ext rd ra m off) :=
  ofMExt rfl rfl rfl rfl rd.code_lt ra.code_lt off.isLt (by decide)
    (fun _ => (decIImm_code _ _ _).trans (by rw [ofNat_toNat']))
theorem ldN32 (rd : DReg) (ra : SReg) (m : MArgs) : Statement (.ldN32 rd ra m) :=
  ofM rfl rfl rfl rfl rd.code_lt ra.code_lt (by decide) (fun _ => (decIImm_code _ _ _))
theorem ldN32Ext (rd : DReg) (ra : SReg) (m : MArgs) (off : BitVec 32) : Statement (.ldN32Ext rd ra m off) :=
  ofMExt rfl rfl rfl rfl rd.code_lt ra.code_lt off.isLt (by decide)
    (fun _ => (decIImm_code _ _ _).trans (by rw [ofNat_toNat']))
theorem ldN64 (rd : DReg) (ra : SReg) (m : MArgs) : Statement (.ldN64 rd ra m) :=
  ofM rfl rfl rfl rfl rd.code_lt ra.code_lt (by decide) (fun _ => (decIImm_code _ _ _))
theorem ldN64Ext (rd : DReg) (ra : SReg) (m : MArgs) (off : BitVec 32) : Statement (.ldN64Ext rd ra m off) :=
  ofMExt rfl rfl rfl rfl rd.code_lt ra.code_lt off.isLt (by decide)
    (fun _ => (decIImm_code _ _ _).trans (by rw [ofNat_toNat']))
theorem st8 (rs ra : SReg) (m : MArgs) : Statement (.st8 rs ra m) :=
  ofM rfl rfl rfl rfl rs.code_lt ra.code_lt (by decide) (fun _ => (decStore_code _ _ _))
theorem st8Ext (rs ra : SReg) (m : MArgs) (off : BitVec 32) : Statement (.st8Ext rs ra m off) :=
  ofMExt rfl rfl rfl rfl rs.code_lt ra.code_lt off.isLt (by decide)
    (fun _ => (decStore_code _ _ _).trans (by rw [ofNat_toNat']))
theorem st16 (rs ra : SReg) (m : MArgs) : Statement (.st16 rs ra m) :=
  ofM rfl rfl rfl rfl rs.code_lt ra.code_lt (by decide) (fun _ => (decStore_code _ _ _))
theorem st16Ext (rs ra : SReg) (m : MArgs) (off : BitVec 32) : Statement (.st16Ext rs ra m off) :=
  ofMExt rfl rfl rfl rfl rs.code_lt ra.code_lt off.isLt (by decide)
    (fun _ => (decStore_code _ _ _).trans (by rw [ofNat_toNat']))
theorem st32 (rs ra : SReg) (m : MArgs) : Statement (.st32 rs ra m) :=
  ofM rfl rfl rfl rfl rs.code_lt ra.code_lt (by decide) (fun _ => (decStore_code _ _ _))
theorem st32Ext (rs ra : SReg) (m : MArgs) (off : BitVec 32) : Statement (.st32Ext rs ra m off) :=
  ofMExt rfl rfl rfl rfl rs.code_lt ra.code_lt off.isLt (by decide)
    (fun _ => (decStore_code _ _ _).trans (by rw [ofNat_toNat']))
theorem st64 (rs ra : SReg) (m : MArgs) : Statement (.st64 rs ra m) :=
  ofM rfl rfl rfl rfl rs.code_lt ra.code_lt (by decide) (fun _ => (decStore_code _ _ _))
theorem st64Ext (rs ra : SReg) (m : MArgs) (off : BitVec 32) : Statement (.st64Ext rs ra m off) :=
  ofMExt rfl rfl rfl rfl rs.code_lt ra.code_lt off.isLt (by decide)
    (fun _ => (decStore_code _ _ _).trans (by rw [ofNat_toNat']))
theorem ldp (rp : PReg) (ra : SReg) (m : MArgs) : Statement (.ldp rp ra m) :=
  ofM rfl rfl rfl rfl rp.code_lt ra.code_lt (by decide) (fun h => (decPair_code _ _ _ h))
theorem ldpExt (rp : PReg) (ra : SReg) (m : MArgs) (off : BitVec 32) : Statement (.ldpExt rp ra m off) :=
  ofMExt rfl rfl rfl rfl rp.code_lt ra.code_lt off.isLt (by decide)
    (fun h => (decPair_code _ _ _ h).trans (by rw [ofNat_toNat']))
theorem stp (rp : PReg) (ra : SReg) (m : MArgs) : Statement (.stp rp ra m) :=
  ofM rfl rfl rfl rfl rp.code_lt ra.code_lt (by decide) (fun h => (decPair_code _ _ _ h))
theorem stpExt (rp : PReg) (ra : SReg) (m : MArgs) (off : BitVec 32) : Statement (.stpExt rp ra m off) :=
  ofMExt rfl rfl rfl rfl rp.code_lt ra.code_lt off.isLt (by decide)
    (fun h => (decPair_code _ _ _ h).trans (by rw [ofNat_toNat']))
theorem copy (rd ra rb : SReg) (tok : BitVec 3) (sc : Scope) : Statement (.copy rd ra rb tok sc) :=
  ofCopy rfl rfl rfl rfl rd.code_lt ra.code_lt rb.code_lt tok.isLt sc.code_lt rfl (by decide) (by decide)
    (by simp [decCopy])
theorem copyExt (rd ra rb : SReg) (tok : BitVec 3) (sc : Scope) (wait : BitVec 8) : Statement (.copyExt rd ra rb tok sc wait) :=
  ofCopy rfl rfl rfl rfl rd.code_lt ra.code_lt rb.code_lt tok.isLt sc.code_lt rfl (by have := wait.isLt; simp only [Option.getD_some]; omega) (by decide)
    (by have := wait.isLt; simp [decCopy, this])
theorem copyRed (rd ra rb : SReg) (tok : BitVec 3) (sc : Scope) (wait : BitVec 8) (op : RedOp) (ty : RedTy) : Statement (.copyRed rd ra rb tok sc wait op ty) :=
  ofCopy rfl rfl rfl rfl rd.code_lt ra.code_lt rb.code_lt tok.isLt sc.code_lt rfl (by have := wait.isLt; have := op.code_lt; have := ty.code_lt; simp only [Option.getD_some]; omega) (by decide)
    (by
      have h1 := wait.isLt; have h2 := op.code_lt; have h3 := ty.code_lt
      have e1 : fld (wait.toNat + 256 * op.code + 2048 * ty.code) 8 3 = op.code := by simp only [fld]; omega
      have e2 : fld (wait.toNat + 256 * op.code + 2048 * ty.code) 11 4 = ty.code := by simp only [fld]; omega
      have e3 : fld (wait.toNat + 256 * op.code + 2048 * ty.code) 0 8 = wait.toNat := by simp only [fld]; omega
      have e4 : wait.toNat + 256 * op.code + 2048 * ty.code < 32768 := by omega
      simp [decCopy, e1, e2, e3, e4])
theorem amoadd (rd : DReg) (ra rb : SReg) (a : AArgs) : Statement (.amoadd rd ra rb a) :=
  ofA rfl rfl rfl rfl rd.code_lt ra.code_lt rb.code_lt (by decide) (decIII_code _ _ _ _)
theorem amoand (rd : DReg) (ra rb : SReg) (a : AArgs) : Statement (.amoand rd ra rb a) :=
  ofA rfl rfl rfl rfl rd.code_lt ra.code_lt rb.code_lt (by decide) (decIII_code _ _ _ _)
theorem amoor (rd : DReg) (ra rb : SReg) (a : AArgs) : Statement (.amoor rd ra rb a) :=
  ofA rfl rfl rfl rfl rd.code_lt ra.code_lt rb.code_lt (by decide) (decIII_code _ _ _ _)
theorem amoxor (rd : DReg) (ra rb : SReg) (a : AArgs) : Statement (.amoxor rd ra rb a) :=
  ofA rfl rfl rfl rfl rd.code_lt ra.code_lt rb.code_lt (by decide) (decIII_code _ _ _ _)
theorem amomaxI (rd : DReg) (ra rb : SReg) (a : AArgs) : Statement (.amomaxI rd ra rb a) :=
  ofA rfl rfl rfl rfl rd.code_lt ra.code_lt rb.code_lt (by decide) (decIII_code _ _ _ _)
theorem amominI (rd : DReg) (ra rb : SReg) (a : AArgs) : Statement (.amominI rd ra rb a) :=
  ofA rfl rfl rfl rfl rd.code_lt ra.code_lt rb.code_lt (by decide) (decIII_code _ _ _ _)
theorem amomaxN (rd : DReg) (ra rb : SReg) (a : AArgs) : Statement (.amomaxN rd ra rb a) :=
  ofA rfl rfl rfl rfl rd.code_lt ra.code_lt rb.code_lt (by decide) (decIII_code _ _ _ _)
theorem amominN (rd : DReg) (ra rb : SReg) (a : AArgs) : Statement (.amominN rd ra rb a) :=
  ofA rfl rfl rfl rfl rd.code_lt ra.code_lt rb.code_lt (by decide) (decIII_code _ _ _ _)
theorem amoswap (rd : DReg) (ra rb : SReg) (a : AArgs) : Statement (.amoswap rd ra rb a) :=
  ofA rfl rfl rfl rfl rd.code_lt ra.code_lt rb.code_lt (by decide) (decIII_code _ _ _ _)
theorem amocas (rd : DReg) (ra rb : SReg) (a : AArgs) : Statement (.amocas rd ra rb a) :=
  ofA rfl rfl rfl rfl rd.code_lt ra.code_lt rb.code_lt (by decide) (decIII_code _ _ _ _)
theorem fence (sc : Scope) : Statement (.fence sc) := ofF rfl rfl rfl rfl (by decide) (by decide) rfl
theorem fenceAcq (sc : Scope) : Statement (.fenceAcq sc) := ofF rfl rfl rfl rfl (by decide) (by decide) rfl
theorem fenceRel (sc : Scope) : Statement (.fenceRel sc) := ofF rfl rfl rfl rfl (by decide) (by decide) rfl
theorem fencePath (sc : Scope) : Statement (.fencePath sc) := ofF rfl rfl rfl rfl (by decide) (by decide) rfl
theorem fenceWin (sc : Scope) : Statement (.fenceWin sc) := ofF rfl rfl rfl rfl (by decide) (by decide) rfl
theorem launch (ra rb : SReg) : Statement (.launch ra rb) :=
  ofR rfl rfl rfl rfl (by decide) (by decide) ra.code_lt rb.code_lt (by decide) (by decide)
    (decAB_code _ _ _)
theorem sbind (ra rb : SReg) : Statement (.sbind ra rb) :=
  ofR rfl rfl rfl rfl (by decide) (by decide) ra.code_lt rb.code_lt (by decide) (by decide)
    (decAB_code _ _ _)
theorem sgo (ra : SReg) : Statement (.sgo ra) :=
  ofR rfl rfl rfl rfl (by decide) (by decide) ra.code_lt (by decide) (by decide) (by decide)
    (decA_code _ _)
theorem sbar (ra : SReg) : Statement (.sbar ra) :=
  ofR rfl rfl rfl rfl (by decide) (by decide) ra.code_lt (by decide) (by decide) (by decide)
    (decA_code _ _)
theorem qpush (ra rb : SReg) : Statement (.qpush ra rb) :=
  ofR rfl rfl rfl rfl (by decide) (by decide) ra.code_lt rb.code_lt (by decide) (by decide)
    (decAB_code _ _ _)
theorem qpop (rd : DReg) (ra : SReg) : Statement (.qpop rd ra) :=
  ofR rfl rfl rfl rfl (by decide) rd.code_lt ra.code_lt (by decide) (by decide) (by decide)
    (decII_code _ _ _)
theorem qcount (rd : DReg) (ra : SReg) : Statement (.qcount rd ra) :=
  ofR rfl rfl rfl rfl (by decide) rd.code_lt ra.code_lt (by decide) (by decide) (by decide)
    (decII_code _ _ _)
theorem ctxload (ra rb : SReg) : Statement (.ctxload ra rb) :=
  ofR rfl rfl rfl rfl (by decide) (by decide) ra.code_lt rb.code_lt (by decide) (by decide)
    (decAB_code _ _ _)
theorem rtload (ra rb : SReg) : Statement (.rtload ra rb) :=
  ofR rfl rfl rfl rfl (by decide) (by decide) ra.code_lt rb.code_lt (by decide) (by decide)
    (decAB_code _ _ _)
theorem palload (ra rb : SReg) : Statement (.palload ra rb) :=
  ofR rfl rfl rfl rfl (by decide) (by decide) ra.code_lt rb.code_lt (by decide) (by decide)
    (decAB_code _ _ _)
theorem ownload (ra rb : SReg) : Statement (.ownload ra rb) :=
  ofR rfl rfl rfl rfl (by decide) (by decide) ra.code_lt rb.code_lt (by decide) (by decide)
    (decAB_code _ _ _)
theorem tload (ra : SReg) : Statement (.tload ra) :=
  ofR rfl rfl rfl rfl (by decide) (by decide) ra.code_lt (by decide) (by decide) (by decide)
    (decA_code _ _)
theorem tq (ra : SReg) : Statement (.tq ra) :=
  ofR rfl rfl rfl rfl (by decide) (by decide) ra.code_lt (by decide) (by decide) (by decide)
    (decA_code _ _)
theorem nmload (ra rb : SReg) : Statement (.nmload ra rb) :=
  ofR rfl rfl rfl rfl (by decide) (by decide) ra.code_lt rb.code_lt (by decide) (by decide)
    (decAB_code _ _ _)
theorem nmcall (ra : SReg) : Statement (.nmcall ra) :=
  ofR rfl rfl rfl rfl (by decide) (by decide) ra.code_lt (by decide) (by decide) (by decide)
    (decA_code _ _)
theorem fsinit (rd : DReg) (ra rb : SReg) : Statement (.fsinit rd ra rb) :=
  ofR rfl rfl rfl rfl (by decide) rd.code_lt ra.code_lt rb.code_lt (by decide) (by decide)
    (decIII_code _ _ _ _)
theorem fsupd (rd : DReg) (ra rb : SReg) : Statement (.fsupd rd ra rb) :=
  ofR rfl rfl rfl rfl (by decide) rd.code_lt ra.code_lt rb.code_lt (by decide) (by decide)
    (decIII_code _ _ _ _)
theorem fsddt (rd : DReg) (ra rb : SReg) : Statement (.fsddt rd ra rb) :=
  ofR rfl rfl rfl rfl (by decide) rd.code_lt ra.code_lt rb.code_lt (by decide) (by decide)
    (decIII_code _ _ _ _)
theorem fssolve (rd : DReg) (ra : SReg) : Statement (.fssolve rd ra) :=
  ofR rfl rfl rfl rfl (by decide) rd.code_lt ra.code_lt (by decide) (by decide) (by decide)
    (decII_code _ _ _)
theorem fsscale (rd : DReg) (ra : SReg) : Statement (.fsscale rd ra) :=
  ofR rfl rfl rfl rfl (by decide) rd.code_lt ra.code_lt (by decide) (by decide) (by decide)
    (decII_code _ _ _)
theorem fsread (rd : DReg) (ra rb : SReg) : Statement (.fsread rd ra rb) :=
  ofR rfl rfl rfl rfl (by decide) rd.code_lt ra.code_lt rb.code_lt (by decide) (by decide)
    (decIII_code _ _ _ _)
theorem fswrite (rd : DReg) (ra rb : SReg) : Statement (.fswrite rd ra rb) :=
  ofR rfl rfl rfl rfl (by decide) rd.code_lt ra.code_lt rb.code_lt (by decide) (by decide)
    (decIII_code _ _ _ _)
theorem fslogdet (rd : DReg) (ra : SReg) : Statement (.fslogdet rd ra) :=
  ofR rfl rfl rfl rfl (by decide) rd.code_lt ra.code_lt (by decide) (by decide) (by decide)
    (decII_code _ _ _)
theorem phset (ra rb : SReg) : Statement (.phset ra rb) :=
  ofR rfl rfl rfl rfl (by decide) (by decide) ra.code_lt rb.code_lt (by decide) (by decide)
    (decAB_code _ _ _)
theorem phadd (ra rb : SReg) : Statement (.phadd ra rb) :=
  ofR rfl rfl rfl rfl (by decide) (by decide) ra.code_lt rb.code_lt (by decide) (by decide)
    (decAB_code _ _ _)
theorem phrd (rd : DReg) (ra : SReg) : Statement (.phrd rd ra) :=
  ofR rfl rfl rfl rfl (by decide) rd.code_lt ra.code_lt (by decide) (by decide) (by decide)
    (decII_code _ _ _)
theorem btalloc (rd : DReg) (ra rb : SReg) : Statement (.btalloc rd ra rb) :=
  ofR rfl rfl rfl rfl (by decide) rd.code_lt ra.code_lt rb.code_lt (by decide) (by decide)
    (decIII_code _ _ _ _)
theorem btfork (rd : DReg) (ra rb : SReg) : Statement (.btfork rd ra rb) :=
  ofR rfl rfl rfl rfl (by decide) rd.code_lt ra.code_lt rb.code_lt (by decide) (by decide)
    (decIII_code _ _ _ _)
theorem btdrop (rd : DReg) (ra : SReg) : Statement (.btdrop rd ra) :=
  ofR rfl rfl rfl rfl (by decide) rd.code_lt ra.code_lt (by decide) (by decide) (by decide)
    (decII_code _ _ _)
theorem btdemote (rd : DReg) (ra rb : SReg) : Statement (.btdemote rd ra rb) :=
  ofR rfl rfl rfl rfl (by decide) rd.code_lt ra.code_lt rb.code_lt (by decide) (by decide)
    (decIII_code _ _ _ _)
theorem btpromote (rd : DReg) (ra rb : SReg) : Statement (.btpromote rd ra rb) :=
  ofR rfl rfl rfl rfl (by decide) rd.code_lt ra.code_lt rb.code_lt (by decide) (by decide)
    (decIII_code _ _ _ _)
theorem swbind (rd : DReg) (ra rb : SReg) : Statement (.swbind rd ra rb) :=
  ofR rfl rfl rfl rfl (by decide) rd.code_lt ra.code_lt rb.code_lt (by decide) (by decide)
    (decIII_code _ _ _ _)
theorem snap (ra : SReg) : Statement (.snap ra) :=
  ofR rfl rfl rfl rfl (by decide) (by decide) ra.code_lt (by decide) (by decide) (by decide)
    (decA_code _ _)
theorem snaprd (rd : DReg) (ra : SReg) : Statement (.snaprd rd ra) :=
  ofR rfl rfl rfl rfl (by decide) rd.code_lt ra.code_lt (by decide) (by decide) (by decide)
    (decII_code _ _ _)
theorem mfsr (rd : DReg) (n : BitVec 12) : Statement (.mfsr rd n) :=
  ofI rfl rfl rfl rfl (by decide) rd.code_lt (by decide) (by have := n.isLt; omega) (by decide)
    (by simp [decI, decMfsr])
theorem mtsr (n : BitVec 12) (ra : SReg) : Statement (.mtsr n ra) :=
  ofI rfl rfl rfl rfl (by decide) (by decide) ra.code_lt (by have := n.isLt; omega) (by decide)
    (by simp [decI, decMtsr])
theorem trap (n : BitVec 12) : Statement (.trap n) :=
  ofI rfl rfl rfl rfl (by decide) (by decide) (by decide) (by have := n.isLt; omega) (by decide)
    (by simp [decI, decTrap])
theorem treen : Statement (.treen) :=
  ofR rfl rfl rfl rfl (by decide) (by decide) (by decide) (by decide) (by decide) (by decide)
    (rfl)
theorem tret : Statement (.tret) :=
  ofR rfl rfl rfl rfl (by decide) (by decide) (by decide) (by decide) (by decide) (by decide)
    (rfl)
theorem waitt (mask : BitVec 8) : Statement (.waitt mask) :=
  ofI rfl rfl rfl rfl (by decide) (by decide) (by decide) (by have := mask.isLt; omega) (by decide)
    (by have := mask.isLt; simp [decI, decWaitt, this])
theorem tlbinvPg (ra rb : SReg) : Statement (.tlbinvPg ra rb) :=
  ofR rfl rfl rfl rfl (by decide) (by decide) ra.code_lt rb.code_lt (by decide) (by decide)
    (decAB_code _ _ _)
theorem tlbinvCx (rb : SReg) : Statement (.tlbinvCx rb) :=
  ofR rfl rfl rfl rfl (by decide) (by decide) (by decide) rb.code_lt (by decide) (by decide)
    (decB_code _ _)
theorem tlbinvAll : Statement (.tlbinvAll) :=
  ofR rfl rfl rfl rfl (by decide) (by decide) (by decide) (by decide) (by decide) (by decide)
    (rfl)
theorem idle : Statement (.idle) :=
  ofR rfl rfl rfl rfl (by decide) (by decide) (by decide) (by decide) (by decide) (by decide)
    (rfl)
theorem stepRow (h : RowHdr) (phase : BitVec 5) : Statement (.stepRow h phase) :=
  ofRow (kind := 0) (by decide) phase.isLt (by decide) rfl rfl rfl rfl
    (by simp [rowOf])
theorem loopRow (h : RowHdr) (ii : BitVec 5) (count : BitVec 19) : Statement (.loopRow h ii count) :=
  ofRow (kind := 1) (by decide) (by decide) (by have := ii.isLt; have := count.isLt; omega) rfl rfl rfl rfl
    (by
      have h1 := ii.isLt; have h2 := count.isLt
      have e1 : fld (ii.toNat * 2 ^ 19 + count.toNat) 19 5 = ii.toNat := by simp only [fld]; omega
      have e2 : fld (ii.toNat * 2 ^ 19 + count.toNat) 0 19 = count.toNat := by simp only [fld]; omega
      rw [rowOf, if_neg (by decide), if_neg (by decide), e1, e2, ofNat_toNat', ofNat_toNat'])
theorem endl (h : RowHdr) (row : BitVec 12) : Statement (.endl h row) :=
  ofRow (kind := 2) (by decide) (by decide) (by have := row.isLt; omega) rfl rfl rfl rfl
    (by have := row.isLt; simp [rowOf, this])
theorem exitRow (h : RowHdr) : Statement (.exitRow h) :=
  ofRow (kind := 3) (by decide) (by decide) (by decide) rfl rfl rfl rfl
    (rfl)
theorem epil (h : RowHdr) : Statement (.epil h) :=
  ofRow (kind := 4) (by decide) (by decide) (by decide) rfl rfl rfl rfl
    (rfl)
theorem mpass (h : RowHdr) (acc : BitVec 2) (int clear : Bool) (groups : BitVec 12) : Statement (.mpass h acc int clear groups) :=
  ofRow (kind := 5) (by decide) (by decide) (by have := acc.isLt; have := int.toNat_lt; have := clear.toNat_lt; have := groups.isLt; omega) rfl rfl rfl rfl
    (by
      have h1 := acc.isLt; have h2 := int.toNat_lt; have h3 := clear.toNat_lt; have h4 := groups.isLt
      have e1 : fld (acc.toNat * 2 ^ 22 + int.toNat * 2 ^ 21 + clear.toNat * 2 ^ 20 + groups.toNat * 2 ^ 8) 0 8 = 0 := by simp only [fld]; omega
      have e2 : fld (acc.toNat * 2 ^ 22 + int.toNat * 2 ^ 21 + clear.toNat * 2 ^ 20 + groups.toNat * 2 ^ 8) 22 2 = acc.toNat := by
        simp only [fld]; omega
      have e3 : fld (acc.toNat * 2 ^ 22 + int.toNat * 2 ^ 21 + clear.toNat * 2 ^ 20 + groups.toNat * 2 ^ 8) 21 1 = int.toNat := by
        simp only [fld]; omega
      have e4 : fld (acc.toNat * 2 ^ 22 + int.toNat * 2 ^ 21 + clear.toNat * 2 ^ 20 + groups.toNat * 2 ^ 8) 20 1 = clear.toNat := by
        simp only [fld]; omega
      have e5 : fld (acc.toNat * 2 ^ 22 + int.toNat * 2 ^ 21 + clear.toNat * 2 ^ 20 + groups.toNat * 2 ^ 8) 8 12 = groups.toNat := by
        simp only [fld]; omega
      rw [rowOf, if_neg (by decide), if_neg (by decide)]
      simp only [e1, e2, e3, e4, e5, toNat_beq_one, ofNat_toNat', if_true])
theorem form (h : RowHdr) (w : BitVec 4) (ht : BitVec 3) : Statement (.form h w ht) :=
  ofRow (kind := 6) (by decide) (by decide) (by have := w.isLt; have := ht.isLt; omega) rfl rfl rfl rfl
    (by
      have h1 := w.isLt; have h2 := ht.isLt
      have e1 : fld (w.toNat * 2 ^ 20 + ht.toNat * 2 ^ 17) 0 17 = 0 := by simp only [fld]; omega
      have e2 : fld (w.toNat * 2 ^ 20 + ht.toNat * 2 ^ 17) 20 4 = w.toNat := by simp only [fld]; omega
      have e3 : fld (w.toNat * 2 ^ 20 + ht.toNat * 2 ^ 17) 17 3 = ht.toNat := by simp only [fld]; omega
      rw [rowOf, if_neg (by decide), if_neg (by decide)]
      simp only [e1, e2, e3, ofNat_toNat', if_true])
theorem reconf (h : RowHdr) (x : BitVec 16) : Statement (.reconf h x) :=
  ofRow (kind := 7) (by decide) (by decide) (by have := x.isLt; omega) rfl rfl rfl rfl
    (by have := x.isLt; simp [rowOf, this])
theorem barrier (h : RowHdr) (ports : BitVec 16) : Statement (.barrier h ports) :=
  ofRow (kind := 8) (by decide) (by decide) (by have := ports.isLt; omega) rfl rfl rfl rfl
    (by have := ports.isLt; simp [rowOf, this])
theorem commit (h : RowHdr) : Statement (.commit h) :=
  ofRow (kind := 9) (by decide) (by decide) (by decide) rfl rfl rfl rfl
    (rfl)
theorem waitq (h : RowHdr) (port : BitVec 4) : Statement (.waitq h port) :=
  ofRow (kind := 10) (by decide) (by decide) (by have := port.isLt; omega) rfl rfl rfl rfl
    (by have := port.isLt; simp [rowOf, this])
theorem endRow (h : RowHdr) : Statement (.endRow h) :=
  ofRow (kind := 11) (by decide) (by decide) (by decide) rfl rfl rfl rfl
    (rfl)
theorem nWord (w : NArgs) : Statement (.nWord w) := by
  intro h
  refine ⟨fun _ _ h' => ?_, fun _ h' => ?_, fun _ h' => ?_, fun x h' => ?_⟩
  · cases h'
  · cases h'
  · cases h'
  · have : x = packN w := (Option.some.inj h').symm
    subst this; exact ⟨packN_lt w, decodeN_packN h⟩
theorem wordResultLanding (g : Nat) : Statement (.wordResultLanding g) := ofEvent rfl rfl rfl rfl
theorem linkSlotFill (g : Nat) : Statement (.linkSlotFill g) := ofEvent rfl rfl rfl rfl
theorem iterationAdmission (g : Nat) : Statement (.iterationAdmission g) := ofEvent rfl rfl rfl rfl
theorem formSettlingEnd (g : Nat) : Statement (.formSettlingEnd g) := ofEvent rfl rfl rfl rfl
theorem implicitClose (g : Nat) : Statement (.implicitClose g) := ofEvent rfl rfl rfl rfl
theorem commitWindowClose (g : Nat) : Statement (.commitWindowClose g) := ofEvent rfl rfl rfl rfl
theorem replayCtrlWrite (g : Nat) (v : W32) : Statement (.replayCtrlWrite g v) := ofEvent rfl rfl rfl rfl
theorem matrixGroupSnapshot (g t : Nat) : Statement (.matrixGroupSnapshot g t) := ofEvent rfl rfl rfl rfl
theorem matrixGroupLanding (g t : Nat) : Statement (.matrixGroupLanding g t) := ofEvent rfl rfl rfl rfl
theorem clockGate (g : Nat) : Statement (.clockGate g) := ofEvent rfl rfl rfl rfl
theorem scanRequest (p : Party) (g : Nat) : Statement (.scanRequest p g) := ofEvent rfl rfl rfl rfl
theorem scanRelease (p : Party) (g : Nat) : Statement (.scanRelease p g) := ofEvent rfl rfl rfl rfl
theorem asyncTrapDelivery (n : Nat) : Statement (.asyncTrapDelivery n) := ofEvent rfl rfl rfl rfl
theorem idleWake (n : Nat) : Statement (.idleWake n) := ofEvent rfl rfl rfl rfl
theorem copyCompletion (i : Nat) : Statement (.copyCompletion i) := ofEvent rfl rfl rfl rfl
theorem coreReset : Statement (.coreReset) := ofEvent rfl rfl rfl rfl
theorem doorbell (p : Party) (q : Nat) (v : W32) : Statement (.doorbell p q v) := ofEvent rfl rfl rfl rfl
theorem dispatcherWindowWrite (p : Party) (off : Nat) (size : Nat) (v : W64) : Statement (.dispatcherWindowWrite p off size v) :=
  ofEvent rfl rfl rfl rfl
theorem teardown (p : Party) (c : Nat) : Statement (.teardown p c) := ofEvent rfl rfl rfl rfl
theorem queueLevelRaise (q : Nat) : Statement (.queueLevelRaise q) := ofEvent rfl rfl rfl rfl
theorem recordRejection (q : Nat) : Statement (.recordRejection q) := ofEvent rfl rfl rfl rfl
theorem recordTake (q : Nat) : Statement (.recordTake q) := ofEvent rfl rfl rfl rfl
theorem placement (l : Nat) (site : PlaceArgs) : Statement (.placement l site) := ofEvent rfl rfl rfl rfl
theorem resumption (l : Nat) (site : PlaceArgs) : Statement (.resumption l site) := ofEvent rfl rfl rfl rfl
theorem tileTaskStart (l : Nat) : Statement (.tileTaskStart l) := ofEvent rfl rfl rfl rfl
theorem tileTaskBoundary (g : Nat) : Statement (.tileTaskBoundary g) := ofEvent rfl rfl rfl rfl
theorem preemptionRequest (why : PreemptWhy) (l : Nat) : Statement (.preemptionRequest why l) := ofEvent rfl rfl rfl rfl
theorem preemption (l : Nat) : Statement (.preemption l) := ofEvent rfl rfl rfl rfl
theorem inPlaceSwitch (l : Nat) : Statement (.inPlaceSwitch l) := ofEvent rfl rfl rfl rfl
theorem rePlacement (l : Nat) : Statement (.rePlacement l) := ofEvent rfl rfl rfl rfl
theorem streamStart (a : Nat) : Statement (.streamStart a) := ofEvent rfl rfl rfl rfl
theorem streamElementAccess (a : Nat) : Statement (.streamElementAccess a) := ofEvent rfl rfl rfl rfl
theorem streamCompletion (a : Nat) : Statement (.streamCompletion a) := ofEvent rfl rfl rfl rfl
theorem copyOnWrite (a : Nat) : Statement (.copyOnWrite a) := ofEvent rfl rfl rfl rfl
theorem demotionCompletion (i : Nat) : Statement (.demotionCompletion i) := ofEvent rfl rfl rfl rfl
theorem promotionCompletion (i : Nat) : Statement (.promotionCompletion i) := ofEvent rfl rfl rfl rfl
theorem portQueueFill (g port : Nat) : Statement (.portQueueFill g port) := ofEvent rfl rfl rfl rfl
theorem portQueuePush (g port : Nat) : Statement (.portQueuePush g port) := ofEvent rfl rfl rfl rfl
theorem sampleArrival (src dst : Nat) : Statement (.sampleArrival src dst) := ofEvent rfl rfl rfl rfl
theorem blend (t : Nat) : Statement (.blend t) := ofEvent rfl rfl rfl rfl
theorem commandAcceptance (u : Nat) : Statement (.commandAcceptance u) := ofEvent rfl rfl rfl rfl
theorem irsum (u : Nat) : Statement (.irsum u) := ofEvent rfl rfl rfl rfl
theorem irmax (u : Nat) : Statement (.irmax u) := ofEvent rfl rfl rfl rfl
theorem gather (u : Nat) : Statement (.gather u) := ofEvent rfl rfl rfl rfl
theorem axpy (u : Nat) : Statement (.axpy u) := ofEvent rfl rfl rfl rfl
theorem imac (u : Nat) : Statement (.imac u) := ofEvent rfl rfl rfl rfl
theorem relayout (u : Nat) : Statement (.relayout u) := ofEvent rfl rfl rfl rfl
theorem tqCommand (k : Nat) : Statement (.tqCommand k) := ofEvent rfl rfl rfl rfl
theorem tloadCommand (k : Nat) : Statement (.tloadCommand k) := ofEvent rfl rfl rfl rfl
theorem snapshotLatch : Statement (.snapshotLatch) := ofEvent rfl rfl rfl rfl
theorem powerOn (r : BootArgs) : Statement (.powerOn r) := ofEvent rfl rfl rfl rfl
theorem firmwareImageUpdate (version : Nat) (valid : Bool) : Statement (.firmwareImageUpdate version valid) := ofEvent rfl rfl rfl rfl
theorem configurationRecordUpdate (rec : ConfigRecord) (valid : Bool) : Statement (.configurationRecordUpdate rec valid) :=
  ofEvent rfl rfl rfl rfl
theorem hostAccess (a : HostArgs) : Statement (.hostAccess a) := ofEvent rfl rfl rfl rfl
theorem securityAlarm (source : BitVec 3) : Statement (.securityAlarm source) := ofEvent rfl rfl rfl rfl
theorem spanLinkLoss (link : Nat) : Statement (.spanLinkLoss link) := ofEvent rfl rfl rfl rfl
theorem spanUnreachable (pkg : Nat) : Statement (.spanUnreachable pkg) := ofEvent rfl rfl rfl rfl
theorem ethernetMessageCompletion (pa : Nat) (bytes : List Byte) : Statement (.ethernetMessageCompletion pa bytes) :=
  ofEvent rfl rfl rfl rfl
theorem linkWidthChange (link : Nat) (width : Nat) : Statement (.linkWidthChange link width) := ofEvent rfl rfl rfl rfl
theorem frequencyChange (die : Nat) (freq : Nat) : Statement (.frequencyChange die freq) := ofEvent rfl rfl rfl rfl
theorem powerCap (watts : Nat) : Statement (.powerCap watts) := ofEvent rfl rfl rfl rfl
theorem thermalLimit (die : Nat) : Statement (.thermalLimit die) := ofEvent rfl rfl rfl rfl
theorem spanLinkRetrain (link : Nat) : Statement (.spanLinkRetrain link) := ofEvent rfl rfl rfl rfl
theorem powerLoss (flashing : Bool) : Statement (.powerLoss flashing) := ofEvent rfl rfl rfl rfl
theorem addI32 (w : EArgs) : Statement (.addI32 w) := ofE (op := 0) (by decide) rfl rfl rfl rfl rfl rfl rfl
theorem subI32 (w : EArgs) : Statement (.subI32 w) := ofE (op := 1) (by decide) rfl rfl rfl rfl rfl rfl rfl
theorem mulI32 (w : EArgs) : Statement (.mulI32 w) := ofE (op := 2) (by decide) rfl rfl rfl rfl rfl rfl rfl
theorem mulhI32 (w : EArgs) : Statement (.mulhI32 w) := ofE (op := 3) (by decide) rfl rfl rfl rfl rfl rfl rfl
theorem mulhN32 (w : EArgs) : Statement (.mulhN32 w) := ofE (op := 4) (by decide) rfl rfl rfl rfl rfl rfl rfl
theorem madI32 (w : EArgs) : Statement (.madI32 w) := ofE (op := 5) (by decide) rfl rfl rfl rfl rfl rfl rfl
theorem minI32 (w : EArgs) : Statement (.minI32 w) := ofE (op := 6) (by decide) rfl rfl rfl rfl rfl rfl rfl
theorem maxI32 (w : EArgs) : Statement (.maxI32 w) := ofE (op := 7) (by decide) rfl rfl rfl rfl rfl rfl rfl
theorem minN32 (w : EArgs) : Statement (.minN32 w) := ofE (op := 8) (by decide) rfl rfl rfl rfl rfl rfl rfl
theorem maxN32 (w : EArgs) : Statement (.maxN32 w) := ofE (op := 9) (by decide) rfl rfl rfl rfl rfl rfl rfl
theorem absI32 (w : EArgs) : Statement (.absI32 w) := ofE (op := 10) (by decide) rfl rfl rfl rfl rfl rfl rfl
theorem addsI32 (w : EArgs) : Statement (.addsI32 w) := ofE (op := 11) (by decide) rfl rfl rfl rfl rfl rfl rfl
theorem subsI32 (w : EArgs) : Statement (.subsI32 w) := ofE (op := 12) (by decide) rfl rfl rfl rfl rfl rfl rfl
theorem addsN32 (w : EArgs) : Statement (.addsN32 w) := ofE (op := 13) (by decide) rfl rfl rfl rfl rfl rfl rfl
theorem subsN32 (w : EArgs) : Statement (.subsN32 w) := ofE (op := 14) (by decide) rfl rfl rfl rfl rfl rfl rfl
theorem eAnd (w : EArgs) : Statement (.eAnd w) := ofE (op := 16) (by decide) rfl rfl rfl rfl rfl rfl rfl
theorem eOr (w : EArgs) : Statement (.eOr w) := ofE (op := 17) (by decide) rfl rfl rfl rfl rfl rfl rfl
theorem eXor (w : EArgs) : Statement (.eXor w) := ofE (op := 18) (by decide) rfl rfl rfl rfl rfl rfl rfl
theorem eAndn (w : EArgs) : Statement (.eAndn w) := ofE (op := 19) (by decide) rfl rfl rfl rfl rfl rfl rfl
theorem eShl (w : EArgs) : Statement (.eShl w) := ofE (op := 20) (by decide) rfl rfl rfl rfl rfl rfl rfl
theorem eShr (w : EArgs) : Statement (.eShr w) := ofE (op := 21) (by decide) rfl rfl rfl rfl rfl rfl rfl
theorem eSra (w : EArgs) : Statement (.eSra w) := ofE (op := 22) (by decide) rfl rfl rfl rfl rfl rfl rfl
theorem rol (w : EArgs) : Statement (.rol w) := ofE (op := 23) (by decide) rfl rfl rfl rfl rfl rfl rfl
theorem ePopc (w : EArgs) : Statement (.ePopc w) := ofE (op := 24) (by decide) rfl rfl rfl rfl rfl rfl rfl
theorem eClz (w : EArgs) : Statement (.eClz w) := ofE (op := 25) (by decide) rfl rfl rfl rfl rfl rfl rfl
theorem eCtz (w : EArgs) : Statement (.eCtz w) := ofE (op := 26) (by decide) rfl rfl rfl rfl rfl rfl rfl
theorem bfx (w : EArgs) : Statement (.bfx w) := ofE (op := 27) (by decide) rfl rfl rfl rfl rfl rfl rfl
theorem bfi (w : EArgs) : Statement (.bfi w) := ofE (op := 28) (by decide) rfl rfl rfl rfl rfl rfl rfl
theorem addF32 (w : EArgs) : Statement (.addF32 w) := ofE (op := 64) (by decide) rfl rfl rfl rfl rfl rfl rfl
theorem subF32 (w : EArgs) : Statement (.subF32 w) := ofE (op := 65) (by decide) rfl rfl rfl rfl rfl rfl rfl
theorem mulF32 (w : EArgs) : Statement (.mulF32 w) := ofE (op := 66) (by decide) rfl rfl rfl rfl rfl rfl rfl
theorem fmaF32 (w : EArgs) : Statement (.fmaF32 w) := ofE (op := 67) (by decide) rfl rfl rfl rfl rfl rfl rfl
theorem fnmaF32 (w : EArgs) : Statement (.fnmaF32 w) := ofE (op := 68) (by decide) rfl rfl rfl rfl rfl rfl rfl
theorem minF32 (w : EArgs) : Statement (.minF32 w) := ofE (op := 69) (by decide) rfl rfl rfl rfl rfl rfl rfl
theorem maxF32 (w : EArgs) : Statement (.maxF32 w) := ofE (op := 70) (by decide) rfl rfl rfl rfl rfl rfl rfl
theorem divF32 (w : EArgs) : Statement (.divF32 w) := ofE (op := 71) (by decide) rfl rfl rfl rfl rfl rfl rfl
theorem sqrtF32 (w : EArgs) : Statement (.sqrtF32 w) := ofE (op := 72) (by decide) rfl rfl rfl rfl rfl rfl rfl
theorem absF32 (w : EArgs) : Statement (.absF32 w) := ofE (op := 73) (by decide) rfl rfl rfl rfl rfl rfl rfl
theorem negF32 (w : EArgs) : Statement (.negF32 w) := ofE (op := 74) (by decide) rfl rfl rfl rfl rfl rfl rfl
theorem addF16 (w : EArgs) : Statement (.addF16 w) := ofE (op := 75) (by decide) rfl rfl rfl rfl rfl rfl rfl
theorem mulF16 (w : EArgs) : Statement (.mulF16 w) := ofE (op := 76) (by decide) rfl rfl rfl rfl rfl rfl rfl
theorem fmaF16 (w : EArgs) : Statement (.fmaF16 w) := ofE (op := 77) (by decide) rfl rfl rfl rfl rfl rfl rfl
theorem fmaBf16 (w : EArgs) : Statement (.fmaBf16 w) := ofE (op := 78) (by decide) rfl rfl rfl rfl rfl rfl rfl
theorem cvtF32I32 (w : EArgs) : Statement (.cvtF32I32 w) := ofE (op := 80) (by decide) rfl rfl rfl rfl rfl rfl rfl
theorem cvtF32N32 (w : EArgs) : Statement (.cvtF32N32 w) := ofE (op := 81) (by decide) rfl rfl rfl rfl rfl rfl rfl
theorem cvtI32F32 (w : EArgs) : Statement (.cvtI32F32 w) := ofE (op := 82) (by decide) rfl rfl rfl rfl rfl rfl rfl
theorem cvtN32F32 (w : EArgs) : Statement (.cvtN32F32 w) := ofE (op := 83) (by decide) rfl rfl rfl rfl rfl rfl rfl
theorem cvtF16F32 (w : EArgs) : Statement (.cvtF16F32 w) := ofE (op := 84) (by decide) rfl rfl rfl rfl rfl rfl rfl
theorem cvtF16F32Sat (w : EArgs) : Statement (.cvtF16F32Sat w) := ofE (op := 85) (by decide) rfl rfl rfl rfl rfl rfl rfl
theorem cvtBf16F32 (w : EArgs) : Statement (.cvtBf16F32 w) := ofE (op := 86) (by decide) rfl rfl rfl rfl rfl rfl rfl
theorem cvtBf16F32Sat (w : EArgs) : Statement (.cvtBf16F32Sat w) := ofE (op := 87) (by decide) rfl rfl rfl rfl rfl rfl rfl
theorem cvtE4m3F32 (w : EArgs) : Statement (.cvtE4m3F32 w) := ofE (op := 88) (by decide) rfl rfl rfl rfl rfl rfl rfl
theorem cvtE4m3F32Sat (w : EArgs) : Statement (.cvtE4m3F32Sat w) := ofE (op := 89) (by decide) rfl rfl rfl rfl rfl rfl rfl
theorem cvtE5m2F32 (w : EArgs) : Statement (.cvtE5m2F32 w) := ofE (op := 90) (by decide) rfl rfl rfl rfl rfl rfl rfl
theorem cvtE5m2F32Sat (w : EArgs) : Statement (.cvtE5m2F32Sat w) := ofE (op := 91) (by decide) rfl rfl rfl rfl rfl rfl rfl
theorem cvtF32F16 (w : EArgs) : Statement (.cvtF32F16 w) := ofE (op := 92) (by decide) rfl rfl rfl rfl rfl rfl rfl
theorem cvtF32Bf16 (w : EArgs) : Statement (.cvtF32Bf16 w) := ofE (op := 93) (by decide) rfl rfl rfl rfl rfl rfl rfl
theorem cvtF32E4m3 (w : EArgs) : Statement (.cvtF32E4m3 w) := ofE (op := 94) (by decide) rfl rfl rfl rfl rfl rfl rfl
theorem cvtF32E5m2 (w : EArgs) : Statement (.cvtF32E5m2 w) := ofE (op := 95) (by decide) rfl rfl rfl rfl rfl rfl rfl
theorem pshift (w : EArgs) : Statement (.pshift w) := ofE (op := 128) (by decide) rfl rfl rfl rfl rfl rfl rfl
theorem pld (w : EArgs) : Statement (.pld w) := ofE (op := 129) (by decide) rfl rfl rfl rfl rfl rfl rfl
theorem pst (w : EArgs) : Statement (.pst w) := ofE (op := 130) (by decide) rfl rfl rfl rfl rfl rfl rfl
theorem rule (w : EArgs) : Statement (.rule w) := ofE (op := 131) (by decide) rfl rfl rfl rfl rfl rfl rfl
theorem pquiet (w : EArgs) : Statement (.pquiet w) := ofE (op := 132) (by decide) rfl rfl rfl rfl rfl rfl rfl
theorem pbx (w : EArgs) : Statement (.pbx w) := ofE (op := 133) (by decide) rfl rfl rfl rfl rfl rfl rfl
theorem pbi (w : EArgs) : Statement (.pbi w) := ofE (op := 134) (by decide) rfl rfl rfl rfl rfl rfl rfl
theorem paddI16 (w : EArgs) : Statement (.paddI16 w) := ofE (op := 135) (by decide) rfl rfl rfl rfl rfl rfl rfl
theorem psubI16 (w : EArgs) : Statement (.psubI16 w) := ofE (op := 136) (by decide) rfl rfl rfl rfl rfl rfl rfl
theorem ePand (w : EArgs) : Statement (.ePand w) := ofE (op := 137) (by decide) rfl rfl rfl rfl rfl rfl rfl
theorem ePor (w : EArgs) : Statement (.ePor w) := ofE (op := 138) (by decide) rfl rfl rfl rfl rfl rfl rfl
theorem ePxor (w : EArgs) : Statement (.ePxor w) := ofE (op := 139) (by decide) rfl rfl rfl rfl rfl rfl rfl
theorem eSel (w : EArgs) : Statement (.eSel w) := ofE (op := 160) (by decide) rfl rfl rfl rfl rfl rfl rfl
theorem cmpeqI32 (w : EArgs) : Statement (.cmpeqI32 w) := ofE (op := 161) (by decide) rfl rfl rfl rfl rfl rfl rfl
theorem cmpltI32 (w : EArgs) : Statement (.cmpltI32 w) := ofE (op := 162) (by decide) rfl rfl rfl rfl rfl rfl rfl
theorem cmpleI32 (w : EArgs) : Statement (.cmpleI32 w) := ofE (op := 163) (by decide) rfl rfl rfl rfl rfl rfl rfl
theorem cmpltN32 (w : EArgs) : Statement (.cmpltN32 w) := ofE (op := 164) (by decide) rfl rfl rfl rfl rfl rfl rfl
theorem cmpleN32 (w : EArgs) : Statement (.cmpleN32 w) := ofE (op := 165) (by decide) rfl rfl rfl rfl rfl rfl rfl
theorem cmpeqF32 (w : EArgs) : Statement (.cmpeqF32 w) := ofE (op := 166) (by decide) rfl rfl rfl rfl rfl rfl rfl
theorem cmpltF32 (w : EArgs) : Statement (.cmpltF32 w) := ofE (op := 167) (by decide) rfl rfl rfl rfl rfl rfl rfl
theorem cmpleF32 (w : EArgs) : Statement (.cmpleF32 w) := ofE (op := 168) (by decide) rfl rfl rfl rfl rfl rfl rfl
theorem cmpunF32 (w : EArgs) : Statement (.cmpunF32 w) := ofE (op := 169) (by decide) rfl rfl rfl rfl rfl rfl rfl
theorem mand (w : EArgs) : Statement (.mand w) := ofE (op := 170) (by decide) rfl rfl rfl rfl rfl rfl rfl
theorem mor (w : EArgs) : Statement (.mor w) := ofE (op := 171) (by decide) rfl rfl rfl rfl rfl rfl rfl
theorem mxor (w : EArgs) : Statement (.mxor w) := ofE (op := 172) (by decide) rfl rfl rfl rfl rfl rfl rfl
theorem mnot (w : EArgs) : Statement (.mnot w) := ofE (op := 173) (by decide) rfl rfl rfl rfl rfl rfl rfl
theorem mlane (w : EArgs) : Statement (.mlane w) := ofE (op := 174) (by decide) rfl rfl rfl rfl rfl rfl rfl
theorem exitf (w : EArgs) : Statement (.exitf w) := ofE (op := 175) (by decide) rfl rfl rfl rfl rfl rfl rfl
theorem lrecv (w : EArgs) : Statement (.lrecv w) := ofE (op := 176) (by decide) rfl rfl rfl rfl rfl rfl rfl
theorem stin (w : EArgs) : Statement (.stin w) := ofE (op := 177) (by decide) rfl rfl rfl rfl rfl rfl rfl
theorem lpoll (w : EArgs) : Statement (.lpoll w) := ofE (op := 178) (by decide) rfl rfl rfl rfl rfl rfl rfl
theorem sldN32 (w : EArgs) : Statement (.sldN32 w) := ofE (op := 192) (by decide) rfl rfl rfl rfl rfl rfl rfl
theorem sldN16 (w : EArgs) : Statement (.sldN16 w) := ofE (op := 193) (by decide) rfl rfl rfl rfl rfl rfl rfl
theorem sldI16 (w : EArgs) : Statement (.sldI16 w) := ofE (op := 194) (by decide) rfl rfl rfl rfl rfl rfl rfl
theorem sstN32 (w : EArgs) : Statement (.sstN32 w) := ofE (op := 195) (by decide) rfl rfl rfl rfl rfl rfl rfl
theorem sstN16 (w : EArgs) : Statement (.sstN16 w) := ofE (op := 196) (by decide) rfl rfl rfl rfl rfl rfl rfl
theorem mfa (w : EArgs) : Statement (.mfa w) := ofE (op := 208) (by decide) rfl rfl rfl rfl rfl rfl rfl
theorem mfb (w : EArgs) : Statement (.mfb w) := ofE (op := 209) (by decide) rfl rfl rfl rfl rfl rfl rfl
theorem mfas (w : EArgs) : Statement (.mfas w) := ofE (op := 210) (by decide) rfl rfl rfl rfl rfl rfl rfl
theorem mfbs (w : EArgs) : Statement (.mfbs w) := ofE (op := 211) (by decide) rfl rfl rfl rfl rfl rfl rfl
theorem ard (w : EArgs) : Statement (.ard w) := ofE (op := 212) (by decide) rfl rfl rfl rfl rfl rfl rfl
theorem awr (w : EArgs) : Statement (.awr w) := ofE (op := 213) (by decide) rfl rfl rfl rfl rfl rfl rfl
theorem aclr (w : EArgs) : Statement (.aclr w) := ofE (op := 214) (by decide) rfl rfl rfl rfl rfl rfl rfl
theorem rmarch (w : EArgs) : Statement (.rmarch w) := ofE (op := 224) (by decide) rfl rfl rfl rfl rfl rfl rfl
theorem rsamp (w : EArgs) : Statement (.rsamp w) := ofE (op := 225) (by decide) rfl rfl rfl rfl rfl rfl rfl
theorem fragout (w : EArgs) : Statement (.fragout w) := ofE (op := 226) (by decide) rfl rfl rfl rfl rfl rfl rfl
theorem rrecv (w : EArgs) : Statement (.rrecv w) := ofE (op := 227) (by decide) rfl rfl rfl rfl rfl rfl rfl
theorem eNop (w : EArgs) : Statement (.eNop w) := ofE (op := 240) (by decide) rfl rfl rfl rfl rfl rfl rfl
theorem eMov (w : EArgs) : Statement (.eMov w) := ofE (op := 241) (by decide) rfl rfl rfl rfl rfl rfl rfl
theorem lane (w : EArgs) : Statement (.lane w) := ofE (op := 242) (by decide) rfl rfl rfl rfl rfl rfl rfl
theorem iter (w : EArgs) : Statement (.iter w) := ofE (op := 243) (by decide) rfl rfl rfl rfl rfl rfl rfl
theorem rdst (w : EArgs) : Statement (.rdst w) := ofE (op := 244) (by decide) rfl rfl rfl rfl rfl rfl rfl
theorem clrst (w : EArgs) : Statement (.clrst w) := ofE (op := 245) (by decide) rfl rfl rfl rfl rfl rfl rfl
theorem kbsel (w : EArgs) : Statement (.kbsel w) := ofE (op := 246) (by decide) rfl rfl rfl rfl rfl rfl rfl

end Sys2Proof.Laws.RoundTrip
end

