-- ==== Sys2Proof/Safety.lean ====
section
/-! DEFINITION. The terms in which the claims speak of a step: how it ends, and what it leaves alone. -/

namespace Sys2Proof.Machine

/-- Memory is in its canonical form. -/
def State.memOk (s : State) : Bool := Memory.wf s.mem

/-- The step answers a next state, and `P` holds of it. -/
def Completes (o : Out) (P : State → Prop) : Prop := ∃ t, o = .next t ∧ P t

/-- Ring register `k` is the one that a destination names: w`i` is ring register (WBASE + i) mod 256 (R94). -/
def Core.names (c : Core) (d : DReg) (k : Nat) : Bool :=
  match d with
  | .w i => k == (c.wbase.toNat + i.toNat) % 256
  | .g _ => false

/-- A word of `n` bytes of the executing core wrote `v` to the integer register `d`, moved the pc past itself, and changed
nothing else; a write to g0 is discarded (R94). -/
structure WroteReg (s : State) (d : DReg) (v : W64) (n : Nat) (t : State) : Prop where
  gpr : ∀ k : BitVec 4, t.me.readG k.toNat = if d = .g k ∧ k ≠ 0 then v else s.me.readG k.toNat
  ring : ∀ k, t.me.readRing k = if s.me.names d k then v else s.me.readRing k
  rest : t.me = { s.me with g := t.me.g, ring := t.me.ring, pc := s.me.pc + BitVec.ofNat 64 n }
  others : ∀ j, j ≠ s.cur → t.core j = s.core j
  state : t = { s with cores := t.cores }

/-- A word of `n` bytes of the executing core wrote `b` to the predicate `q`, moved the pc past itself, and changed nothing
else. -/
structure WrotePred (s : State) (q : QReg) (b : Bool) (n : Nat) (t : State) : Prop where
  pred : ∀ k : QReg, t.me.readQ k = if k = q then b else s.me.readQ k
  rest : t.me = { s.me with q := t.me.q, pc := s.me.pc + BitVec.ofNat 64 n }
  others : ∀ j, j ≠ s.cur → t.core j = s.core j
  state : t = { s with cores := t.cores }

/-- The executing core went on at `pc`, and nothing else changed. -/
structure Jumped (s : State) (pc : W64) (t : State) : Prop where
  me : t.me = { s.me with pc := pc }
  others : ∀ j, j ≠ s.cur → t.core j = s.core j
  state : t = { s with cores := t.cores }

/-- check_target accepts a target (R103). -/
def goodTarget (t : W64) : Prop := t.toNat % 4 = 0 ∧ t.toNat < 2 ^ 56

/-- A trap was taken on the executing core with no group to spill first (R137, R86): the saved registers, TEN 0 and PRIV 1, the
window 32 further, and the pc at the handler. -/
structure TookTrap (s : State) (cause : Nat) (tval epc : W64) (t : State) : Prop where
  me : t.me = { s.me with
    tstat := s.me.cstat, tepc := epc, tcause := BitVec.ofNat 64 cause, tval := tval, cstat := 2,
    wbase := s.me.wbase + 32, wfill := s.me.wfill + 32, pc := s.me.tvec &&& ~~~(3 : W64),
    link := t.me.link, run := .running, wake := false, await := none, span := none, begun := none, inval := none }
  link : ∀ k, SMap.get 0 t.me.link k = if k = (s.me.wbase.toNat + 24) % 256 / 8 then 0 else SMap.get 0 s.me.link k
  others : ∀ j, j ≠ s.cur → t.core j = s.core j
  state : t = { s with cores := t.cores }

/-- Traps are enabled on the executing core, and the window can slide by 32 without a spill. -/
def State.canTrap (s : State) : Prop := s.me.cstat.getLsbD 0 = true ∧ s.me.wfill.toNat ≤ 192

/-- The core is in privileged mode. -/
def Core.priv (c : Core) : Prop := c.cstat.getLsbD 1 = true

/-- Only performance counters differ (R161). -/
def OnlyCounted (s t : State) : Prop := t = { s with perf := t.perf }

/-- Reads were counted and soft errors reported, and nothing else changed (R161, R352). -/
def OnlyReported (s t : State) : Prop := t = { s with cores := t.cores, perf := t.perf, serrcnt := t.serrcnt, serradr := t.serradr }

/-- A trap was taken on the executing core, and performance counters moved. -/
def TookCounted (s : State) (cause : Nat) (tval epc : W64) (t : State) : Prop := ∃ u, OnlyCounted s u ∧ TookTrap u cause tval epc t

/-- Core `n`, or for it its copy, stream or command, wrote `bs` to the cells `as` through window `w`, and nothing else changed (R270, R280). The
same path sees the bytes. Memory holds them where no view of the path lags; a path that lags sees them before the writes that it does not
see. Every other byte of memory is as before, and so is the metadata of every other stack word (R50). Until a fence orders the write, it
need not be seen through another window of stack memory (R270), by the core's fetches (R93), by copies in a scratchpad where a core's
word wrote it (R289), and by near-memory units where a copy or a stream did; but a core's word comes before its later commands (R354). -/
structure Put (s : State) (k : Via) (n w : Nat) (as : List Nat) (bs : List Byte) (t : State) : Prop where
  seen : as.map (t.see (k.path w)) = bs
  landed : (∀ v ∈ k.path w, ∀ a ∈ as, lagAt s.lags v a = none) → as.map t.readCell = bs
  cells : ∀ a, a ∉ as → t.readCell a = s.readCell a
  windows : w ≠ 0 → ∀ o ∈ [1, 2, 3], o ≠ w → ∀ a, t.see [o] a = s.see [o] a
  fetches : ∀ o ∈ (if w = 0 then [0] else [1, 2, 3]), ∀ a, t.see (fetchPath n o) a = s.see (fetchPath n o) a
  copies : k = .core → w = 0 → ∀ a, isScratch a = true → t.see [viewCopy] a = s.see [viewCopy] a
  units : k = .copy ∨ k = .stream → w ≠ 0 → (∀ a ∈ as, lagAt s.lags w a = none) → ∀ a, t.see [viewUnit, 2] a = s.see [viewUnit, 2] a
  commands : k = .core → w = 2 → as.map (t.see [viewUnit, 2]) = bs
  lags : ∀ v a, a ∉ as → v ≠ viewUnit → v ≠ viewCopy → lagAt t.lags v a = lagAt s.lags v a
  marks : ∀ x, (∀ a ∈ as, a / 4 ≠ x) → SMap.get none t.resid x = SMap.get none s.resid x
  rest : t = { s with mem := t.mem, resid := t.resid, lags := t.lags }

/-- Bytes written through several windows: `ws` names that of each cell. -/
def Puts (s : State) (k : Via) (n : Nat) (ws as : List Nat) (bs : List Byte) (t : State) : Prop :=
  let part (w : Nat) := (ws.zip (as.zip bs)).filter fun p => p.1 == w
  let put (u : State) (w : Nat) := Put u k n w ((part w).map (·.2.1)) ((part w).map (·.2.2))
  ∃ u v x, put s 0 u ∧ put u 1 v ∧ put v 2 x ∧ put x 3 t

/-- Bytes were stored in the cells `as` by a word of `n` bytes of the executing core, through window `w`; nothing else changed but
performance counters. -/
structure Stored (s : State) (w : Nat) (as : List Nat) (bs : List Byte) (n : Nat) (t : State) : Prop where
  put : ∃ u, Put s .core s.cur w as bs u ∧ t = { u with cores := t.cores, perf := t.perf }
  me : t.me = { s.me with pc := s.me.pc + BitVec.ofNat 64 n }
  others : ∀ j, j ≠ s.cur → t.core j = s.core j

/-- The address of a memory form: its register, and the sign-extended offset of its extension word (R282). -/
def State.formAddr (s : State) (ra : SReg) (off : Option (BitVec 32)) : W64 :=
  s.readS ra + BitVec.ofInt 64 ((off.map BitVec.toInt).getD 0)

/-- Bytes of a memory form. -/
def formBytes (off : Option (BitVec 32)) : Nat := if off.isSome then 8 else 4

/-- The cells of a core's access of `z` bytes at `ea` to plain memory that can be performed now, and the window that it goes through: no
token of its mask is pending (R153), it is aligned, translated with permission, and no word that it reads has a residue that does not
match. -/
structure PlainAccess (s : State) (m : MArgs) (k : Acc) (ea : W64) (z w : Nat) (as : List Nat) : Prop where
  tokens : s.me.waits m.wait = false
  aligned : ea.toNat % z = 0
  reaches : ∃ pa, s.coreVa s.cur k ea.toNat = some pa ∧ isDisp pa = false ∧ isFabric pa = false
    ∧ s.heldBy pa = none ∧ s.cells pa z = some as ∧ s.windowOf pa = w ∧ s.badPa (cellRun pa z) = none

/-- The loads of R282: bytes, sign extension, and the form without and with an offset. -/
def loadTable : List (Nat × Bool × (DReg → SReg → MArgs → Option (BitVec 32) → Instr)) :=
  [(1, true, fun rd ra m o => match o with | none => .ldI8 rd ra m | some x => .ldI8Ext rd ra m x),
   (2, true, fun rd ra m o => match o with | none => .ldI16 rd ra m | some x => .ldI16Ext rd ra m x),
   (4, true, fun rd ra m o => match o with | none => .ldI32 rd ra m | some x => .ldI32Ext rd ra m x),
   (8, true, fun rd ra m o => match o with | none => .ldI64 rd ra m | some x => .ldI64Ext rd ra m x),
   (1, false, fun rd ra m o => match o with | none => .ldN8 rd ra m | some x => .ldN8Ext rd ra m x),
   (2, false, fun rd ra m o => match o with | none => .ldN16 rd ra m | some x => .ldN16Ext rd ra m x),
   (4, false, fun rd ra m o => match o with | none => .ldN32 rd ra m | some x => .ldN32Ext rd ra m x),
   (8, false, fun rd ra m o => match o with | none => .ldN64 rd ra m | some x => .ldN64Ext rd ra m x)]

/-- The stores of R282. -/
def storeTable : List (Nat × (SReg → SReg → MArgs → Option (BitVec 32) → Instr)) :=
  [(1, fun rs ra m o => match o with | none => .st8 rs ra m | some x => .st8Ext rs ra m x),
   (2, fun rs ra m o => match o with | none => .st16 rs ra m | some x => .st16Ext rs ra m x),
   (4, fun rs ra m o => match o with | none => .st32 rs ra m | some x => .st32Ext rs ra m x),
   (8, fun rs ra m o => match o with | none => .st64 rs ra m | some x => .st64Ext rs ra m x)]

/-- The pair forms of R284. -/
def ldpForm (rp : PReg) (ra : SReg) (m : MArgs) (o : Option (BitVec 32)) : Instr :=
  match o with
  | none => .ldp rp ra m
  | some x => .ldpExt rp ra m x
def stpForm (rp : PReg) (ra : SReg) (m : MArgs) (o : Option (BitVec 32)) : Instr :=
  match o with
  | none => .stp rp ra m
  | some x => .stpExt rp ra m x

/-- The atomics of R285: f(old, b, c) on `w` bits, none where nothing is written, and whether the old value is sign-extended. -/
def atomicTable : List ((DReg → SReg → SReg → AArgs → Instr) × Bool × (∀ w, BitVec w → BitVec w → BitVec w → Option (BitVec w))) :=
  [(.amoadd, false, fun _ o b _ => some (o + b)),
   (.amoand, false, fun _ o b _ => some (o &&& b)),
   (.amoor, false, fun _ o b _ => some (o ||| b)),
   (.amoxor, false, fun _ o b _ => some (o ^^^ b)),
   (.amomaxI, true, fun w o b _ => some (BitVec.ofInt w (max o.toInt b.toInt))),
   (.amominI, true, fun w o b _ => some (BitVec.ofInt w (min o.toInt b.toInt))),
   (.amomaxN, false, fun w o b _ => some (BitVec.ofNat w (max o.toNat b.toNat))),
   (.amominN, false, fun w o b _ => some (BitVec.ofNat w (min o.toNat b.toNat))),
   (.amoswap, false, fun _ _ b _ => some b),
   (.amocas, false, fun _ o b c => if o = c then some b else none)]

/-- The system registers that `mfsr` reads and `mtsr` writes, by their numbers (R78): what a read gives, and what a write stores,
where reserved bits are ignored; a supervisor's spill registers hold virtual addresses. -/
def sysTable : List (Nat × (Core → W64) × (Bool → W64 → Core → Core)) :=
  [(0x000, fun c => c.cstat, fun _ v c => { c with cstat := v &&& 3 }),
   (0x001, fun c => c.tepc, fun _ v c => { c with tepc := v }),
   (0x002, fun c => c.tcause, fun _ v c => { c with tcause := v &&& 0xFFFF }),
   (0x003, fun c => c.tval, fun _ v c => { c with tval := v }),
   (0x004, fun c => c.tstat, fun _ v c => { c with tstat := v }),
   (0x005, fun c => c.tvec, fun _ v c => { c with tvec := v &&& ~~~(3 : W64) }),
   (0x008, fun c => c.wbase.setWidth 64, fun _ v c => { c with wbase := (v &&& 0xF8).setWidth 8 })] ++
  [(0x009, fun c => c.wfill.setWidth 64, fun _ v c => { c with wfill := BitVec.ofNat 8 (min (v &&& 0xF8).toNat 224) }),
   (0x00A, fun c => c.splb, fun sup v c => { c with splb := v &&& (if sup then 0x00FFFFFFFFFFFFF8 else 0x7FFF8) }),
   (0x00B, fun c => c.spll, fun sup v c => { c with spll := v &&& (if sup then 0xFFFFFFF8 else 0xFFFF8) }),
   (0x00C, fun c => c.spp, fun sup v c => { c with spp := v &&& (if sup then 0x00FFFFFFFFFFFFF8 else 0x7FFF8) }),
   (0x00D, fun c => c.ovfp, fun _ v c => { c with ovfp := v &&& 0x00FFFFFFFFFFFFF8 }),
   (0x00E, fun c => c.ovfn.setWidth 64, fun _ v c => { c with ovfn := v.setWidth 32 }),
   (0x010, fun c => c.ctxid.setWidth 64, fun _ v c => { c with ctxid := v.setWidth 20 })]

/-- `n` bytes at a virtual address of the executing core can be loaded now: they are `bs`, and the load leaves the state `u`; they lie in
plain memory, or are an aligned word of the dispatcher window (R275). -/
def State.Gets (s : State) (va n : Nat) (u : State) (bs : List Byte) : Prop :=
  match s.windowAt .load va n with
  | none => s.coreLoad va n = .ok (u, bs)
  | some off => dispAligned off n = true ∧ s.mayReadDisp off = true ∧ dispThere off n = true
      ∧ u = s.coreWalk va n ∧ bs = leBytes n (s.dispLoad off n)

/-- The views for which `p` holds see everything written so far, every other view what it saw, and the word of 4 bytes is over (R93, R289,
R293). -/
structure Fenced (s : State) (p : Nat → Prop) (t : State) : Prop where
  ordered : ∀ v a, p v → lagAt t.lags v a = none
  kept : ∀ v a, ¬ p v → lagAt t.lags v a = lagAt s.lags v a
  me : t.me = { s.me with pc := s.me.pc + 4 }
  others : ∀ j, j ≠ s.cur → t.core j = s.core j
  state : t = { s with cores := t.cores, lags := t.lags }

/-- A context entry of an element. -/
def State.entryAt (s : State) (e j : Nat) : CtxEntry := SMap.get CtxEntry.reset (s.elem e).ctx j

/-- A word of `n` bytes of the executing core is over: the pc has moved past it and no other register of a core changed. -/
structure Passed (s : State) (n : Nat) (t : State) : Prop where
  me : t.me = { s.me with pc := s.me.pc + BitVec.ofNat 64 n }
  others : ∀ j, j ≠ s.cur → t.core j = s.core j

/-- 32 bits of code that core `n` finds at a virtual address, which it can fetch now (R93). -/
def State.codeAt (s : State) (n va w : Nat) : Prop :=
  ∃ pa as, s.coreVa n .fetch va = some pa ∧ s.heldBy pa = none ∧ s.cells pa 4 = some as
    ∧ w = leNat (as.map (s.see (fetchPath n (s.windowOf pa))))

/-! ### Rounding (R27, R28, R45-R47) -/

/-- A value that is neither an infinity nor a NaN, and the real number it is. -/
def FVal.finite : FVal → Bool
  | .fin _ _ _ => true
  | _ => false
noncomputable def FVal.real : FVal → ℝ
  | .fin neg m e => (if neg then -1 else 1) * (m : ℝ) * 2 ^ e
  | _ => 0

/-- A format that words round to, with the pattern of its largest finite value and the pattern that an overflow gives. -/
abbrev Target := Fmt × Nat × Nat

def roundTable : List Target :=
  [(fmtF32, 0x7F7FFFFF, 0x7F800000), (fmtF16, 0x7BFF, 0x7C00), (fmtBF16, 0x7F7F, 0x7F80), (fmtE4M3, 0x7E, 0x7F), (fmtE5M2, 0x7B, 0x7C)]

/-- A magnitude that is too large, rounded with an unbounded exponent: 464 still rounds to the largest E4M3 value, 448 (R47). -/
def Target.exceeds (p : Target) (x : ℝ) : Prop :=
  if p.1 = fmtE4M3 then 464 < x else (2 - 2 ^ (-(p.1.mbits : ℤ) - 1)) * 2 ^ (p.1.bias : ℤ) ≤ x

/-- The pattern and flags `r` are the magnitude `x` with sign `neg`, rounded to the nearest even; tininess is seen after rounding. -/
def Target.Rounded (p : Target) (sat neg : Bool) (x : ℝ) (r : Nat × Flags) : Prop :=
  let f := p.1
  let sign := if neg then 2 ^ (f.ebits + f.mbits) else 0
  let off (v : FVal) := |(|v.real| - x)|
  let v := f.decode r.1
  (p.exceeds x → r = (sign + (if sat then p.2.1 else p.2.2), 5))
  ∧ (¬ p.exceeds x → v.finite = true ∧ v.sign = neg ∧ r.1 < 2 ^ f.width
      ∧ (∀ b, (f.decode b).finite = true → off v ≤ off (f.decode b))
      ∧ (∀ b, (f.decode b).finite = true → |(f.decode b).real| ≠ |v.real| → off (f.decode b) = off v → r.1 % 2 = 0)
      ∧ ∀ k < 5, r.2.getLsbD k = true ↔ |v.real| ≠ x ∧ (k = 0 ∨ k = 1 ∧ x < (2 - 2 ^ (-(f.mbits : ℤ) - 1)) * 2 ^ (-(f.bias : ℤ))))

/-! ### Streams (R199) -/

/-- The walk over a stream's elements went on by one, i0 innermost, and is done once it has left the last (R199). -/
def Agu.Stepped (a b : Agu) : Prop :=
  a.i0 < a.count0 → a.i1 < a.count1 → a.i2 < a.count2 →
    b.i0 < a.count0 ∧ b.i1 < a.count1 ∧ b.i0 + a.count0 * (b.i1 + a.count1 * b.i2) = a.i0 + a.count0 * (a.i1 + a.count1 * a.i2) + 1
    ∧ (b.done = true ↔ a.done = true ∨ b.i2 = a.count2)

/-- The cells of `n` bytes from `va` that a stream's translation leads to, granule by granule, and the window of each; each granule is plain
memory that can be reached now, and `ok` of its physical address, its length and its cells. -/
def State.StreamCells (s : State) (i : Nat) (a : Agu) (k : Acc) (va n : Nat) (ok : Nat → Nat → List Nat → Prop) (ws as : List Nat) : Prop :=
  as.length = n ∧ ws.length = n ∧ ∀ x < n, (x = 0 ∨ (va + x) % 16 = 0) →
    let m := min (n - x) (16 - (va + x) % 16)
    ∃ pa, s.translate (aguParty i) a.ctx.toNat a.user k (va + x) = some pa ∧ isDisp pa = false ∧ s.heldBy pa = none
      ∧ s.cells pa m = some ((as.drop x).take m) ∧ (ws.drop x).take m = (List.range m).map (fun j => s.windowOf (pa + j))
      ∧ ok pa m ((as.drop x).take m)

/-- A stream's element `bs` was written to the cells `as` and its walk goes on; nothing else changed but counters, and reports of soft
errors (R199). -/
structure WroteElement (s : State) (i : Nat) (ws as : List Nat) (bs : List Byte) (u : State) : Prop where
  put : ∃ v x, OnlyReported s v ∧ Puts v .stream (s.agu i).issuer ws as bs x ∧ u = { x with agus := u.agus, perf := u.perf }
  agu : u.agu i = { s.agu i with
    bytes := (s.agu i).bytes.drop (s.agu i).esize, poison := [], i0 := (u.agu i).i0, i1 := (u.agu i).i1, i2 := (u.agu i).i2,
    done := (u.agu i).done, closed := (u.agu i).done }
  walk : (s.agu i).Stepped (u.agu i)
  others : ∀ k, k ≠ i → u.agu k = s.agu k

/-! ### Element words (R116-R120, R143, R187, R191) -/

/-- A result on its way: the cycles until it is due, what lands, its flags and its element fault. -/
abbrev Sent := Nat × Land × Flags × Option (Nat × Nat)

/-- A result without any effect. -/
def noEffect : Sent := (4, .nothing, 0, none)

/-- The executing element word sent the results `fs` on their way, in this order, and changed nothing else. -/
def State.Sends (s : State) (fs : List Sent) (t : State) : Prop :=
  t.region s.site.g = { s.myRegion with
    flight := s.myRegion.flight ++
      fs.map fun f => ⟨s.myRegion.rc + f.1, s.site.el, s.site.entry, f.2.1, f.2.2.1, f.2.2.2⟩ }
  ∧ (∀ h, h ≠ s.site.g → t.region h = s.region h) ∧ t = { s with regions := t.regions }

/-- A send of 32 lanes in direction `d`, beside the result `f` that lands at +4: where an element of the load stands there, its slot
that faces back is filled at +5 (R187, R190), and reserved now, unless its region is stopped, none of whose latches changes (R150). -/
def State.SendsOn (s : State) (f : Sent) (d : Nat) (vals : List W32) (poison : W32) (t : State) : Prop :=
  match s.sendTo d with
  | none => s.Sends [f] t
  | some e => ∃ u, s.Sends [f, (5, .link e ((d + 2) % 4) vals poison, 0, none)] u
      ∧ (∀ k, (t.elem e).slot k =
          if k = (d + 2) % 4 ∧ s.stoppedElem e = false then { (s.elem e).slot k with reserved := true } else (s.elem e).slot k)
      ∧ t.elem e = { s.elem e with links := (t.elem e).links } ∧ (∀ j, j ≠ e → t.elem j = s.elem j)
      ∧ t = { u with elems := t.elems }

/-- What a word with destination, predicate and lane results `f` does (R116, R118, R120, R143): its active lanes carry their
values, flags and the lowest lane's fault to the destination at +4; a lane that reads poison, or whose flags raise a fault, lands as
poison with a value that nothing fixes. A squashed word writes undefined values, without flags, fault or egress. -/
def State.Lands (s : State) (w : EArgs) (f : Nat → LaneRes) (t : State) : Prop :=
  let pick := s.picks w.pred
  let psn (i : Nat) := (f i).poison || s.predP w.pred i
  let bad (i : Nat) := psn i || (f i).fault != 0
  let n := match w.dst with
    | .s _ => 1
    | _ => 32
  ∃ (vals : List W32) (P : W32) (F : Flags) (flt : Option (Nat × Nat)), vals.length = 32
    ∧ (if s.site.squashed then P = 0 ∧ F = 0 ∧ flt = none else
        (∀ i < 32, bad i = false → vals.getD i 0 = (f i).val)
        ∧ (∀ i < 32, P.getLsbD i = bad i)
        ∧ (∀ k < 5, F.getLsbD k = (List.range n).any fun i => pick.getLsbD i && !bad i && (f i).flags.getLsbD k)
        ∧ flt = ((List.range n).find? fun i => pick.getLsbD i && !psn i && (f i).fault != 0).map fun i => ((f i).fault, i))
    ∧ (let sent := (List.range 32).map fun i => if pick.getLsbD i then vals.getD i 0 else 0
      let none_ := s.site.squashed = true ∨ pick = 0
      match w.dst with
      | .v n => s.Sends [(4, .vreg n.toNat pick vals P, F, flt)] t
      | .s n => s.Sends [if pick.getLsbD 0 then (4, .sreg n.toNat (vals.getD 0 0) (P.getLsbD 0), F, flt) else noEffect] t
      | .m n => ∃ M : W32, (∀ i < 32, M.getLsbD i = (vals.getD i 0).getLsbD 0) ∧ s.Sends [(4, .mreg n.toNat pick M P, F, flt)] t
      | .link d => (none_ → s.Sends [noEffect] t)
          ∧ (¬ none_ → s.SendsOn (4, .nothing, F, flt) d.toNat sent (P &&& pick) t)
      | .stage => (none_ → s.Sends [noEffect] t)
          ∧ (¬ none_ → s.Sends [(4, .egress ⟨s.site.iter, s.site.iter.isNone, .stage s.myElem.soport.toNat sent (P &&& pick)⟩, F,
              ((List.range 32).find? fun i => pick.getLsbD i && bad i).map fun i => (if psn i then 7 else (f i).fault, i))] t)
      | _ => s.Sends [if none_ then noEffect else (4, .nothing, F, flt)] t)

/-- A lane's result from its value, its flags and whether a source is poisoned: NV under FPTEN[0] and DZ under FPTEN[1] raise a fault
(R120). -/
def State.laneRes (s : State) (r : W32 × Flags) (poison : Bool) : LaneRes :=
  ⟨r.1, poison, r.2,
    if s.fpten.getLsbD 0 && r.2.getLsbD 4 then 1 else if s.fpten.getLsbD 1 && r.2.getLsbD 3 then 2 else 0⟩

/-- Lane results of a word of one, two and three sources that reads literals as `k` says. -/
def State.of1 (s : State) (k : LitKind) (w : EArgs) (f : W32 → W32 × Flags) (i : Nat) : LaneRes :=
  let a := s.src k w.a i
  s.laneRes (f a.1) a.2
def State.of2 (s : State) (k : LitKind) (w : EArgs) (f : W32 → W32 → W32 × Flags) (i : Nat) : LaneRes :=
  let a := s.src k w.a i
  let b := s.src k w.b i
  s.laneRes (f a.1 b.1) (a.2 || b.2)
def State.of3 (s : State) (k : LitKind) (w : EArgs) (f : W32 → W32 → W32 → W32 × Flags) (i : Nat) : LaneRes :=
  let a := s.src k w.a i
  let b := s.src k w.b i
  let c := s.src k w.c i
  s.laneRes (f a.1 b.1 c.1) (a.2 || b.2 || c.2)

/-- The integer words of one source (R121). -/
noncomputable def intTable1 : List ((EArgs → Instr) × (W32 → W32)) :=
  [(.absI32, fun a => BitVec.ofInt 32 |a.toInt|),
   (.ePopc, fun a => BitVec.ofNat 32 ((List.range 32).map fun i => (a.getLsbD i).toNat).sum),
   (.eClz, fun a => BitVec.ofNat 32 (((List.range 32).find? fun i => a.getLsbD (31 - i)).getD 32)),
   (.eCtz, fun a => BitVec.ofNat 32 (((List.range 32).find? fun i => a.getLsbD i).getD 32))]

/-- Integer arithmetic of two sources (R121). -/
noncomputable def arithTable : List ((EArgs → Instr) × (W32 → W32 → W32)) :=
  [(.addI32, fun a b => BitVec.ofInt 32 (a.toInt + b.toInt)), (.subI32, fun a b => BitVec.ofInt 32 (a.toInt - b.toInt)),
   (.mulI32, fun a b => BitVec.ofInt 32 (a.toInt * b.toInt)), (.mulhI32, fun a b => BitVec.ofInt 32 (a.toInt * b.toInt / 2 ^ 32)),
   (.mulhN32, fun a b => BitVec.ofNat 32 (a.toNat * b.toNat / 2 ^ 32)),
   (.minI32, fun a b => BitVec.ofInt 32 (min a.toInt b.toInt)), (.maxI32, fun a b => BitVec.ofInt 32 (max a.toInt b.toInt)),
   (.minN32, fun a b => BitVec.ofNat 32 (min a.toNat b.toNat)), (.maxN32, fun a b => BitVec.ofNat 32 (max a.toNat b.toNat))]
/-- Saturating sums and logic (R121). -/
noncomputable def clampTable : List ((EArgs → Instr) × (W32 → W32 → W32)) :=
  [(.addsI32, fun a b => BitVec.ofInt 32 (max (-2 ^ 31) (min (2 ^ 31 - 1) (a.toInt + b.toInt)))),
   (.subsI32, fun a b => BitVec.ofInt 32 (max (-2 ^ 31) (min (2 ^ 31 - 1) (a.toInt - b.toInt)))),
   (.addsN32, fun a b => BitVec.ofNat 32 (min (2 ^ 32 - 1) (a.toNat + b.toNat))),
   (.subsN32, fun a b => BitVec.ofNat 32 (a.toNat - b.toNat)),
   (.eAnd, fun a b => a &&& b), (.eOr, fun a b => a ||| b), (.eXor, fun a b => a ^^^ b), (.eAndn, fun a b => a &&& ~~~b)]
/-- Shifts (R121). -/
noncomputable def shiftTable : List ((EArgs → Instr) × (W32 → W32 → W32)) :=
  [(.eShl, fun a b => BitVec.ofNat 32 (a.toNat * 2 ^ (b.toNat % 32))), (.eShr, fun a b => BitVec.ofNat 32 (a.toNat / 2 ^ (b.toNat % 32))),
   (.eSra, fun a b => BitVec.ofInt 32 (a.toInt / (2 ^ (b.toNat % 32) : Nat))),
   (.rol, fun a b => BitVec.ofNat 32 (a.toNat * 2 ^ (b.toNat % 32) + a.toNat / 2 ^ (32 - b.toNat % 32)))]
/-- The integer words of two sources (R121). -/
noncomputable def intTable2 : List ((EArgs → Instr) × (W32 → W32 → W32)) := arithTable ++ clampTable ++ shiftTable

/-- The integer words of three sources (R121, R122); bfi is given by its bits. -/
noncomputable def intTable3 : List ((EArgs → Instr) × (W32 → W32 → W32 → W32)) :=
  [(.madI32, fun a b c => BitVec.ofInt 32 (a.toInt * b.toInt + c.toInt)),
   (.bfx, fun a b c => BitVec.ofNat 32 (a.toNat / 2 ^ (b.toNat % 32) % 2 ^ min (c.toNat % 64) 32)),
   (.bfi, fun a b c => maskOf fun i =>
      if b.toNat % 32 ≤ i ∧ i < b.toNat % 32 + min (b.toNat / 256 % 64) 32 then a.getLsbD (i - b.toNat % 32) else c.getLsbD i)]

/-- A format's operation on bits: exact on the decoded values, then rounded once (R45, R123, R125). -/
def Fmt.op2 (g : Fmt) (f : FVal → FVal → FVal × Flags) (a b : Nat) : Nat × Flags :=
  let r := f (g.decode a) (g.decode b)
  g.result r.1 r.2
def Fmt.op3 (g : Fmt) (f : FVal → FVal → FVal → FVal × Flags) (a b c : Nat) : Nat × Flags :=
  let r := f (g.decode a) (g.decode b) (g.decode c)
  g.result r.1 r.2

/-- The smaller or larger of two FP32 words (R124). -/
def pickF32 (larger : Bool) (a b : W32) : W32 × Flags :=
  let x := fmtF32.decode a.toNat
  let y := fmtF32.decode b.toNat
  let below := x.cmp y = some .lt ∨ (x.cmp y = some .eq ∧ x.sign = true ∧ y.sign = false)
  (if x.isNaN && y.isNaN then 0x7FC00000 else if x.isNaN then b else if y.isNaN then a
    else if below then (if larger then b else a) else if larger then a else b,
   if x.isSig || y.isSig then 16 else 0)

/-- FP32 on 32-bit words. -/
def onF32 (r : Nat × Flags) : W32 × Flags := (BitVec.ofNat 32 r.1, r.2)

/-- The FP32 words of one, two and three sources (R123, R124), and the conversions of R128. -/
noncomputable def fpTable1a : List ((EArgs → Instr) × LitKind × (W32 → W32 × Flags)) :=
  [(.sqrtF32, .f32, fun a => onF32 (fmtF32.squareRoot (fmtF32.decode a.toNat))),
   (.absF32, .f32, fun a => if (fmtF32.decode a.toNat).isNaN then (0x7FC00000, if (fmtF32.decode a.toNat).isSig then 16 else 0)
      else (a &&& 0x7FFFFFFF, 0)),
   (.negF32, .f32, fun a => if (fmtF32.decode a.toNat).isNaN then (0x7FC00000, if (fmtF32.decode a.toNat).isSig then 16 else 0)
      else (a ^^^ 0x80000000, 0))]
noncomputable def fpTable1b : List ((EArgs → Instr) × LitKind × (W32 → W32 × Flags)) :=
  [(.cvtF32I32, .int, fun a => onF32 (fmtF32.round false (ofInt a.toInt 0 false))),
   (.cvtF32N32, .int, fun a => onF32 (fmtF32.round false (ofInt a.toNat 0 false))),
   (.cvtI32F32, .f32, fun a => let r := (fmtF32.decode a.toNat).toIntSat (-2 ^ 31) (2 ^ 31 - 1); (BitVec.ofInt 32 r.1, r.2)),
   (.cvtN32F32, .f32, fun a => let r := (fmtF32.decode a.toNat).toIntSat 0 (2 ^ 32 - 1); (BitVec.ofInt 32 r.1, r.2))]
noncomputable def fpTable1 : List ((EArgs → Instr) × LitKind × (W32 → W32 × Flags)) := fpTable1a ++ fpTable1b
noncomputable def fpTable2 : List ((EArgs → Instr) × (W32 → W32 → W32 × Flags)) :=
  [(.addF32, fun a b => onF32 (fmtF32.op2 FVal.add a.toNat b.toNat)),
   (.subF32, fun a b => onF32 (fmtF32.op2 (fun x y => x.add y.neg) a.toNat b.toNat)),
   (.mulF32, fun a b => onF32 (fmtF32.op2 FVal.mul a.toNat b.toNat)),
   (.minF32, pickF32 false), (.maxF32, pickF32 true),
   (.divF32, fun a b => onF32 (fmtF32.divide (fmtF32.decode a.toNat) (fmtF32.decode b.toNat)))]
noncomputable def fpTable3 : List ((EArgs → Instr) × (W32 → W32 → W32 → W32 × Flags)) :=
  [(.fmaF32, fun a b c => onF32 (fmtF32.op3 FVal.fma a.toNat b.toNat c.toNat)),
   (.fnmaF32, fun a b c => onF32 (fmtF32.op3 (fun x y z => x.neg.fma y z) a.toNat b.toNat c.toNat))]

/-- The two halves of a 16-bit word, each on its own, flags ORed (R125). -/
def onHalves (f : Nat → Nat → Nat → Nat × Flags) (a b c : W32) : W32 × Flags :=
  let h (k : Nat) := f (a.toNat / 2 ^ k % 65536) (b.toNat / 2 ^ k % 65536) (c.toNat / 2 ^ k % 65536)
  ((BitVec.ofNat 16 (h 16).1 ++ BitVec.ofNat 16 (h 0).1 : BitVec 32), (h 0).2 ||| (h 16).2)

/-- The narrowing conversions: format, and whether they saturate; the widening ones (R126, R127). -/
noncomputable def narrowTable : List ((EArgs → Instr) × Fmt × Bool) :=
  [(.cvtF16F32, fmtF16, false), (.cvtF16F32Sat, fmtF16, true), (.cvtBf16F32, fmtBF16, false), (.cvtBf16F32Sat, fmtBF16, true),
   (.cvtE4m3F32, fmtE4M3, false), (.cvtE4m3F32Sat, fmtE4M3, true), (.cvtE5m2F32, fmtE5M2, false), (.cvtE5m2F32Sat, fmtE5M2, true)]
noncomputable def widenTable : List ((EArgs → Instr) × Fmt) :=
  [(.cvtF32F16, fmtF16), (.cvtF32Bf16, fmtBF16), (.cvtF32E4m3, fmtE4M3), (.cvtF32E5m2, fmtE5M2)]

/-- The integer compares, the FP compares with what decides each bit and whether a quiet NaN raises NV, and the mask words (R130, R131). -/
noncomputable def cmpTable : List ((EArgs → Instr) × (W32 → W32 → Bool)) :=
  [(.cmpeqI32, fun a b => decide (a = b)), (.cmpltI32, fun a b => decide (a.toInt < b.toInt)), (.cmpleI32, fun a b => decide (a.toInt ≤ b.toInt)),
   (.cmpltN32, fun a b => decide (a.toNat < b.toNat)), (.cmpleN32, fun a b => decide (a.toNat ≤ b.toNat))]
noncomputable def cmpFTable : List ((EArgs → Instr) × (Option Ordering → Bool) × Bool) :=
  [(.cmpeqF32, fun o => decide (o = some .eq), false), (.cmpltF32, fun o => decide (o = some .lt), true),
   (.cmpleF32, fun o => decide (o = some .lt ∨ o = some .eq), true), (.cmpunF32, fun o => decide (o = none), false)]
noncomputable def maskTable : List ((EArgs → Instr) × (W32 → W32 → W32)) :=
  [(.mand, fun a b => a &&& b), (.mor, fun a b => a ||| b), (.mxor, fun a b => a ^^^ b), (.mnot, fun a _ => ~~~a)]

/-- A bit as a mask lane's value. -/
def bitLane (b : Bool) : W32 := if b then 1 else 0

/-- The 16-bit words of two and three sources (R125). -/
noncomputable def halfTable2 : List ((EArgs → Instr) × Fmt × (FVal → FVal → FVal × Flags)) :=
  [(.addF16, fmtF16, FVal.add), (.mulF16, fmtF16, FVal.mul)]
noncomputable def halfTable3 : List ((EArgs → Instr) × Fmt) := [(.fmaF16, fmtF16), (.fmaBf16, fmtBF16)]

/-- Bytes joined the input log of the executing element's region (R144). -/
def Region.logged (r : Region) (bs : List Byte) : Region :=
  { r with win := { r.win with log := r.win.log ++ bs, logLen := r.win.logLen + bs.length } }

/-- The executing element took its link slot in direction `d`; on the region's edge its lanes joined the input log (R188, R190). -/
def State.TookSlot (s : State) (d : Nat) (u : State) : Prop :=
  let r := s.myRegion
  let inside := ∃ e, neighbour s.site.el d = some e ∧ r.covers s.site.g (tileOfElem e) = true
  (∀ k, u.myElem.slot k = if k = d then Slot.empty else s.myElem.slot k)
  ∧ u.myElem = { s.myElem with links := u.myElem.links } ∧ (∀ j, j ≠ s.site.el → u.elem j = s.elem j)
  ∧ (neighbour s.site.el d = none ∨ inside → u.regions = s.regions)
  ∧ (neighbour s.site.el d ≠ none → ¬ inside →
      u.myRegion = r.logged ((s.myElem.slot d).data.flatMap fun v => leBytes 4 v.toNat) ∧ ∀ h, h ≠ s.site.g → u.region h = s.region h)
  ∧ u = { s with elems := u.elems, regions := u.regions }

/-- The executing element popped the entries `a` and `b` from a port of its region (R188, R192). -/
def State.PoppedPair (s : State) (p : Nat) (a b : PEntry) (rest : List PEntry) (u : State) : Prop :=
  let r := s.myRegion.logged (a.data ++ b.data)
  (∀ k, u.myRegion.queue k = if k = p then rest else s.myRegion.queue k)
  ∧ u.myRegion = { r with ports := u.myRegion.ports } ∧ (∀ h, h ≠ s.site.g → u.region h = s.region h)
  ∧ u = { s with regions := u.regions }

/-- A word wrote rows `rows` of plane `n` of the executing element (R301, R302): a clean site takes `val`, a site is poisoned
where `psn` says so or its row's predicate bit is; the plane unit is occupied for four cycles and the window notes the plane. -/
def State.WritesPlane (s : State) (w : EArgs) (n : Nat) (rows : W32) (fault : Option (Nat × Nat)) (val : Nat → Nat → W16)
    (psn : Nat → Nat → Bool) (t : State) : Prop :=
  let r := s.myRegion
  (∃ (sites : List W16) (P : List W32),
    (∀ y < 32, rows.getLsbD y = true → ∀ x < 32,
      (psn x y = false → s.predP w.pred y = false → sites[32 * y + x]? = some (val x y))
      ∧ (P.getD y 0).getLsbD x = (psn x y || s.predP w.pred y))
    ∧ t.myRegion = { r with
        win := t.myRegion.win,
        flight := r.flight ++ [⟨r.rc + 4, s.site.el, s.site.entry, .plane n rows sites P, 0, fault⟩] })
  ∧ t.myRegion.win = { r.win with planes := t.myRegion.win.planes }
  ∧ (∀ e m, m ∈ SMap.get [] t.myRegion.win.planes e ↔ m ∈ SMap.get [] r.win.planes e ∨ (e = s.site.el ∧ m = n))
  ∧ (∀ h, h ≠ s.site.g → t.region h = s.region h)
  ∧ t.myElem = { s.myElem with planeBusy := r.rc + 4 } ∧ (∀ j, j ≠ s.site.el → t.elem j = s.elem j)
  ∧ t = { s with elems := t.elems, regions := t.regions }

/-- A plane word with the destination p`n`: it acts in the rows that its predicate selects, where the plane unit is free. -/
def State.PlaneLands (s : State) (w : EArgs) (val : Nat → Nat → W16) (psn : Nat → Nat → Bool) (t : State) : Prop :=
  let rows := s.active w.pred
  (rows = 0 ∨ s.myRegion.rc < s.myElem.planeBusy → s.Sends [noEffect] t)
  ∧ (rows ≠ 0 → s.myElem.planeBusy ≤ s.myRegion.rc → ∀ n, w.dst = .p n → s.WritesPlane w n.toNat rows none val psn t)

/-- What a source supplies at a site (R303). -/
def State.atSite (s : State) (x : ESrc) (sx sy : Nat) : W16 × Bool :=
  match x with
  | .p n => (SMap.get 0 s.myElem.planes (1024 * n.toNat + 32 * sy + sx), (SMap.get 0 s.myElem.pp (32 * n.toNat + sy)).getLsbD sx)
  | _ => ((s.src .int x 0).1.setWidth 16, (s.src .int x 0).2)

/-- The site words of two sources (R310). -/
noncomputable def siteTable : List ((EArgs → Instr) × (W16 → W16 → W16)) :=
  [(.paddI16, fun a b => BitVec.ofNat 16 (a.toNat + b.toNat)), (.psubI16, fun a b => BitVec.ofInt 16 ((a.toNat : Int) - b.toNat)),
   (.ePand, fun a b => a &&& b), (.ePor, fun a b => a ||| b), (.ePxor, fun a b => a ^^^ b)]

/-! ### Commands near memory (R262, R342) -/

/-- A phase after one completion counts in it at GCYC `now`: it saturates, and PHOVF notes it (R155). -/
def Phase.counted (p : Phase) (now : W64) : Phase :=
  { p with cnt := BitVec.ofNat 32 (min (p.cnt.toNat + 1) (2 ^ 32 - 1)), ovf := p.ovf || p.cnt == 0xFFFFFFFF, last := (2, now) }

/-- A command completed: its status word written where it names one, its phase counted unless the reason is 8; nothing else changed. -/
structure Finished (s : State) (p : Packet) (status reason count : Nat) (t : State) : Prop where
  word : ∃ u, t = { u with perf := t.perf, phases := t.phases }
    ∧ (∀ pa as, p.status = some pa → s.cells pa 8 = some as →
      Put s .unit p.core (s.windowOf pa) as (leBytes 8 (status + 65536 * reason + 2 ^ 32 * count)) u)
    ∧ ((∀ pa, p.status = some pa → s.cells pa 8 = none) → u = s)
  phase : t.phase p.phase = if reason = 8 then s.phase p.phase else (s.phase p.phase).counted s.gcyc
  phases : ∀ n, n ≠ p.phase → t.phase n = s.phase n

/-- What near-memory units see in a cell of their operands' pages, which lie in the bank-linear window (R210). -/
def State.unitByte (s : State) (a : Nat) : Byte := s.see [viewUnit, 2] a

/-- A command of core `n` wrote runs of bytes, each from a cell on, one after another; counters moved. -/
def WroteCells (s : State) (n : Nat) : List (Nat × List Byte) → State → Prop
  | [], t => OnlyCounted s t
  | o :: os, t => ∃ u v, OnlyCounted s u ∧ Put u .unit n 2 (cellRun o.1 o.2.length) o.2 v ∧ WroteCells v n os t

/-- The 32-bit word of stack memory that near-memory units see at a cell. -/
def State.memWord (s : State) (a : Nat) : W32 := BitVec.ofNat 32 (leNat ((cellRun a 4).map s.unitByte))

/-- A standard entry of a unit that runs one: its event, its number, what it needs, and what it writes (R350, R351). -/
structure StdEntry where
  event : Nat → Instr
  num : Nat
  shape : Packet → List Nat → Entry
  out : State → Packet → (Nat → Nat) → List (Nat × List Byte)

/-- Lanes pooled over the rows that the indices name. -/
def State.pooled (s : State) (f : W32 → W32 → W32) (p : Packet) (op : Nat → Nat) : List (Nat × List Byte) :=
  let row (i e : Nat) := s.memWord (op 1 + (s.memWord (op 0 + 4 * i)).toNat * (4 * p.arg 1) + 4 * e)
  [(op 2, (List.range (p.arg 1)).flatMap fun e =>
    leBytes 4 ((List.range (p.arg 0 - 1)).foldl (fun acc i => f acc (row (i + 1) e)) (row 0 e)).toNat)]

noncomputable def stdEntries : List StdEntry :=
  [⟨.irsum, 0, fun p _ => entryPool p, fun s => s.pooled fun a b => BitVec.ofNat 32 (fmtF32.op2 FVal.add a.toNat b.toNat).1⟩,
   ⟨.irmax, 1, fun p _ => entryPool p, fun s => s.pooled fun a b => (pickF32 true a b).1⟩,
   ⟨.gather, 2, fun p _ => entryGather p, fun s p op => (List.range (p.arg 0)).map fun i =>
      (op 2 + i * p.arg 1, (cellRun (op 1 + (s.memWord (op 0 + 4 * i)).toNat * p.arg 1) (p.arg 1)).map s.unitByte)⟩,
   ⟨.axpy, 3, fun p _ => entryAxpy p, fun s p op => [(op 2, (List.range (p.arg 0)).flatMap fun i =>
      leBytes 4 (fmtF32.op3 FVal.fma (p.arg 1) (s.memWord (op 0 + 4 * i)).toNat (s.memWord (op 2 + 4 * i)).toNat).1)]⟩,
   ⟨.imac, 4, fun p _ => entryImac p, fun s p op => [(op 2, (List.range (p.arg 0)).flatMap fun r =>
      leBytes 4 (BitVec.ofInt 32 ((p.arg 2 : Int) + ((List.range (p.arg 1)).map fun k =>
        (s.unitByte (op 0 + r * p.arg 1 + k)).toInt * (s.unitByte (op 1 + k)).toInt).sum)).toNat)]⟩,
   ⟨.relayout, 5, entryRelayout, fun s p op => (List.range (p.arg 0)).map fun j =>
      (op 2 + j * p.arg 3, (cellRun (op 0 + j * p.arg 2) (p.arg 1)).map s.unitByte)⟩]

/-- The lane results of ALUOP (R346): a, b and the old lane d. -/
def nAluTable : List (Nat × (W32 → W32 → W32 → W32)) :=
  [(0x01, fun a b _ => BitVec.ofNat 32 (a.toNat + b.toNat)), (0x02, fun a b d => BitVec.ofInt 32 (d.toInt + a.toInt * b.toInt)),
   (0x03, fun a b _ => BitVec.ofNat 32 (fmtF32.op2 FVal.add a.toNat b.toNat).1), (0x04, fun a b _ => (pickF32 true a b).1),
   (0x05, fun a b _ => BitVec.ofInt 32 (max a.toInt b.toInt)), (0x06, fun a _ _ => a), (0x07, fun a b _ => a &&& b),
   (0x08, fun a b _ => a ||| b), (0x09, fun a b _ => a ^^^ b)]
def nAluTable2 : List (Nat × (W32 → W32 → W32 → W32)) :=
  [(0x0A, fun a b _ => BitVec.ofNat 32 (a.toNat * 2 ^ (b.toNat % 32))), (0x0B, fun a b _ => BitVec.ofNat 32 (a.toNat / 2 ^ (b.toNat % 32))),
   (0x0C, fun a b _ => BitVec.ofNat 32 (fmtF32.op2 FVal.mul a.toNat b.toNat).1),
   (0x0D, fun a b d => BitVec.ofNat 32 (fmtF32.op3 FVal.fma a.toNat b.toNat d.toNat).1),
   (0x0E, fun a b _ => if a = b then 1 else 0), (0x0F, fun a b _ => if a.toInt < b.toInt then 1 else 0),
   (0x10, fun a b d => BitVec.ofInt 32 (d.toInt + ((List.range 4).map fun j =>
      (BitVec.ofNat 8 (a.toNat / 256 ^ j)).toInt * (BitVec.ofNat 8 (b.toNat / 256 ^ j)).toInt).sum)),
   (0x11, fun a b d => if d ≠ 0 then a else b)]

/-! ### Factor stores (R357-R369) -/

/-- The executing word may operate on factor store `f`: privileged, or as its owner (R357). -/
def State.OwnsStore (s : State) (f : Nat) : Prop :=
  s.diePresent (f / 8) = true ∧ (s.me.priv ∨ (s.fstore f).own.toNat = 4096 + s.me.ctxid.toNat % 4096)

/-- A factor-store word left `y` in store `f` and `ans` in `rd`; every other store and everything else stayed (R356, R361). A store that its
context's teardown left to the word is cleared and released instead (R373). -/
def State.FsLeaves (s : State) (rd : DReg) (f : Nat) (y : FStore) (ans : W64) (t : State) : Prop :=
  ∃ u : State, u.fstore f = (if y.due then FStore.reset else y) ∧ (∀ h, h ≠ f → u.fstore h = s.fstore h) ∧ u = { s with fstores := u.fstores }
    ∧ WroteReg u rd ans 4 t

/-- A factor-store word that does not change store `f` ended with `P`; such a store is cleared and released after it. -/
def State.FsEnds (s : State) (f : Nat) (P : State → Prop) (t : State) : Prop :=
  ∃ u : State, P u ∧ t.fstore f = (if (s.fstore f).due then FStore.reset else s.fstore f) ∧ (∀ h, h ≠ f → t.fstore h = s.fstore h)
    ∧ t = { u with fstores := t.fstores }

/-- Core `n` wrote runs of bytes, each to its cells through its window, one after another. -/
def WroteRuns (s : State) (n : Nat) : List (Nat × List Nat × List Byte) → State → Prop
  | [], t => t = s
  | o :: os, t => ∃ u, Put s .core n o.1 o.2.1 o.2.2 u ∧ WroteRuns u n os t

/-- rd of a form other than `fslogdet` (R361). -/
def fsRd (status : Nat) (fl : Flags) : W64 := BitVec.ofNat 64 (status * 2 ^ 48 + fl.toNat)

/-- L, B and the vector operand, weighted by the root of w, before the first column (R365). -/
structure FsStart (st : FStore) (wt : W32) (bs : List Byte) (w : FsWork) : Prop where
  l : w.l = st.l
  b : w.b = st.b
  x : ∀ i < st.n, w.getX i = (rneMul (sqrtRne (f32 wt, 0)).1 (BitVec.ofNat 32 (leAt bs (4 * i) 4))).1
  y : ∀ j < 8, w.getY j = (rneMul (sqrtRne (f32 wt, 0)).1 (BitVec.ofNat 32 (leAt bs (4 * (st.n + j)) 4))).1
  fl : ∀ k, w.fl.getLsbD k = ((sqrtRne (f32 wt, 0)).2.getLsbD k
    || (List.range (st.n + 8)).any fun i => (rneMul (sqrtRne (f32 wt, 0)).1 (BitVec.ofNat 32 (leAt bs (4 * i) 4))).2.getLsbD k)

/-- What one column of a rotation leaves: the new diagonal entry `d`, in column k and the vector what `pair` makes of an old
entry and the old component below it, the same for row k of B and y, and every other entry as before; the flags add up. -/
structure FsColumn (n k : Nat) (p : FsWork) (d : W32) (fl : Flags) (pair : W32 → W32 → Rne × Rne) (q : FsWork) : Prop where
  l : ∀ i j, j ≤ i → q.getL i j =
    if j = k ∧ i = k then d else if j = k ∧ i < n then (pair (p.getL i k) (p.getX i)).1.1 else p.getL i j
  x : ∀ i, q.getX i = if k < i ∧ i < n then (pair (p.getL i k) (p.getX i)).2.1 else p.getX i
  b : ∀ i j, j < 8 → q.getB i j = if i = k then (pair (p.getB k j) (p.getY j)).1.1 else p.getB i j
  y : ∀ j, q.getY j = if j < 8 then (pair (p.getB k j) (p.getY j)).2.1 else p.getY j
  fl : ∀ m, q.fl.getLsbD m = (p.fl.getLsbD m || fl.getLsbD m
    || ((List.range n).any fun i => decide (k < i)
        && ((pair (p.getL i k) (p.getX i)).1.2.getLsbD m || (pair (p.getL i k) (p.getX i)).2.2.getLsbD m))
    || (List.range 8).any fun j => (pair (p.getB k j) (p.getY j)).1.2.getLsbD m || (pair (p.getB k j) (p.getY j)).2.2.getLsbD m)

/-- Column k of `fsupd` (R365). -/
def UpColumn (n k : Nat) (p q : FsWork) : Prop :=
  let a := p.getL k k
  let b := p.getX k
  let r := sqrtRne (exAdd (exMul (f32 a) (f32 a)) (exMul (f32 b) (f32 b)))
  let c := rneDiv a r.1
  let s := rneDiv b r.1
  if a &&& 0x7FFFFFFF = 0 ∧ b &&& 0x7FFFFFFF = 0 then q = p
  else FsColumn n k p r.1 (r.2 ||| c.2 ||| s.2) (fun u v => (rneMulAdd c.1 u s.1 v, rneMulSub c.1 v s.1 u)) q

/-- Column k of `fsddt`, where it passes (R366). -/
def DownColumn (n k : Nat) (p q : FsWork) : Prop :=
  let a := p.getL k k
  let b := p.getX k
  let r := sqrtRne (exAdd (exMul (f32 a) (f32 a)) (exNeg (exMul (f32 b) (f32 b))))
  let c := rneDiv r.1 a
  let s := rneDiv b a
  FsColumn n k p r.1 (r.2 ||| c.2 ||| s.2)
    (fun u v => let t := rneSubDiv u s.1 v c.1; (t, rneMulSub c.1 v s.1 t.1)) q

/-- One entry of the diagonal enters a log-determinant: |l| = m·2^e with 1 ≤ its mantissa < 2 (R369). -/
def LogStep (l : W32) (P : W32) (E : Int) (P' : W32) (E' : Int) (inexact : Bool) : Prop :=
  ∃ (m : Nat) (k : Int), f32 (l &&& 0x7FFFFFFF) = .fin false m k ∧ m ≠ 0 ∧
    let p := rne (exMul (f32 P) (.fin false m (-(Nat.log2 m : Int))))
    inexact = p.2.getLsbD 0 ∧
    (if 0x40000000 ≤ p.1.toNat then P' = p.1 - 0x00800000 ∧ E' = E + 1 + (k + Nat.log2 m) else P' = p.1 ∧ E' = E + (k + Nat.log2 m))

/-! ### KV block tables (R216-R225) -/

/-- Bytes written through at a physical address, where it has cells that can be reached now; nothing else changed but performance
counters (R218). -/
structure WroteAt (s : State) (pa : Nat) (bs : List Byte) (t : State) : Prop where
  there : ∀ as, s.liveCells pa bs.length = some as → as.Nodup → as.map t.readCell = bs
  cells : ∀ c, (∀ as, s.liveCells pa bs.length = some as → c ∉ as) → t.readCell c = s.readCell c
  marks : ∀ w, (∀ as, s.liveCells pa bs.length = some as → ∀ a ∈ as, a / 4 ≠ w) → SMap.get none t.resid w = SMap.get none s.resid w
  rest : t = { s with mem := t.mem, resid := t.resid, perf := t.perf }

/-- The free list of a table in memory (R216). -/
def WroteFree (s : State) (b : Btd) (t : State) : Prop :=
  WroteAt s (b.addr + 32) (leBytes 4 (b.head % 2 ^ 20 + (if b.empty then 2 ^ 31 else 0)) ++ leBytes 4 b.free) t

/-- A map entry and a pool block entry in memory (R217); nothing is written outside the pool (R218). -/
def WroteMap (s : State) (b : Btd) (q l v : Nat) (t : State) : Prop := WroteAt s (b.mapAt q l) (leBytes 4 v) t
def WrotePbe (s : State) (b : Btd) (i : Nat) (p : Pbe) (t : State) : Prop :=
  (i < b.npool → WroteAt s (b.poolAt i) (leBytes 8 p.word) t) ∧ (b.npool ≤ i → t = s)

/-- A migration ended: it is forgotten, and its phase counts it (R222). -/
structure EndedMigr (s : State) (k : Nat) (m : Migr) (t : State) : Prop where
  gone : ∀ j, SMap.get none t.migrs j = if j = k then none else SMap.get none s.migrs j
  phase : ∀ n, m.post = some n → t.phase n = (s.phase n).counted s.gcyc
  phases : ∀ n, m.post ≠ some n → t.phase n = s.phase n
  rest : t = { s with migrs := t.migrs, phases := t.phases }

/-- The migration of block `i` of a context, if there is one, is abandoned (R221). -/
def AbandonedMigr (s : State) (c i : Nat) (t : State) : Prop :=
  (s.migrOf c i = none → t = s) ∧ ∀ k m, s.migrOf c i = some (k, m) → EndedMigr s k m t

/-- The shared block that a KV address leads to was copied to the first free block and remapped (R223): a demotion of it is cancelled; the
free block is popped, and is LIVE with one reference and the bytes of the source's hot slot, or the values that its cold slot restores to;
the map entry names it; the source has one reference less. -/
def CopiedBlock (s : State) (c : Nat) (k : KvAt) (t : State) : Prop :=
  let b := k.b
  let i := k.i
  let j := b.head
  let p := s.pbe b i
  let demoted := p.st = 2 ∧ p.cold = false
  ∃ (s1 s2 s3 s4 s5 s6 : State) (bs : List Byte),
    (demoted → ∃ v, AbandonedMigr s c i v ∧ WrotePbe v b i { p with st := 1, cold := false } s1) ∧ (¬ demoted → s1 = s)
    ∧ ((s1.pbe b i).inHot = true → ∀ as, s1.cells (b.hotSlot i) b.size = some as → bs = as.map s1.readCell)
    ∧ ((s1.pbe b i).inHot = false → bs = s1.coldData b i)
    ∧ OnlyReported s1 s2
    ∧ WroteFree s2 { b with head := (s2.pbe b j).next, free := b.free - 1, empty := b.free == 1 } s3
    ∧ WrotePbe s3 b j ⟨1, false, 3, false, 1, 0, 0⟩ s4 ∧ WroteAt s4 (b.hotSlot j) bs s5
    ∧ WroteMap s5 b k.seq k.l (2 ^ 31 + j % 2 ^ 20) s6 ∧ WrotePbe s6 b i { s5.pbe b i with ref := p.ref - 1 } t

/-- One block allocated by `btalloc` (R221): popped, LIVE with one reference, filled with zero where asked, mapped. -/
def Allocated (q l : Nat) (zero : Bool) (s : State) (b : Btd) (t : State) (b' : Btd) : Prop :=
  let i := b.head
  b' = { b with head := (s.pbe b i).next, free := b.free - 1, empty := b.free == 1 }
  ∧ ∃ u v w, WroteFree s b' u ∧ WrotePbe u b i ⟨1, false, 3, false, 1, 0, 0⟩ v
    ∧ (if zero then WroteAt v (b.hotSlot i) (List.replicate b.size 0) w else w = v) ∧ WroteMap w b q l (2 ^ 31 + i % 2 ^ 20) t

/-- One block shared by `btfork`. -/
def Shared (b : Btd) (q p l : Nat) (s t : State) : Prop :=
  ∃ i u, s.mapped b q l = some i ∧ (s.pbe b i).ref < 65535
    ∧ WrotePbe s b i { s.pbe b i with ref := (s.pbe b i).ref + 1 } u ∧ WroteMap u b p l (2 ^ 31 + i % 2 ^ 20) t

/-- One entry dropped by `btdrop`: V := 0, and its block freed with its last reference; and whether it was. An index outside the pool names
no block (log 104). -/
def Dropped (c q l : Nat) (s : State) (b : Btd) (t : State) (b' : Btd) (freed : Bool) : Prop :=
  (s.mapped b q l = none → t = s ∧ b' = b ∧ freed = false)
  ∧ ∀ i, s.mapped b q l = some i → ∃ u, WroteMap s b q l (s.mapWord b q l % 2 ^ 31) u
    ∧ (b.npool ≤ i → b' = b ∧ freed = false ∧ t = u)
    ∧ (i < b.npool → 1 < (s.pbe b i).ref → b' = b ∧ freed = false ∧ WrotePbe u b i { s.pbe b i with ref := (s.pbe b i).ref - 1 } t)
    ∧ (i < b.npool → (s.pbe b i).ref ≤ 1 → freed = true ∧ b' = { b with head := i, free := b.free + 1, empty := false }
        ∧ ∃ v w, AbandonedMigr u c i v ∧ WrotePbe v b i { v.pbe b i with st := 0, ref := 0, next := b.head } w ∧ WroteFree w b' t)

/-- One block that `btdemote` or `btpromote` meets, and whether its migration was started (R222, R224). -/
def Migrating (b : Btd) (q l : Nat) (m : Migr) (s t : State) (started : Bool) : Prop :=
  let from_ := if m.promote then 3 else 1
  let ready := ∃ i, s.mapped b q l = some i ∧ (s.pbe b i).st = from_
  (¬ ready → t = s ∧ started = false)
  ∧ ∀ i, s.mapped b q l = some i → (s.pbe b i).st = from_ → started = true
    ∧ ∃ k u, WrotePbe s b i { s.pbe b i with st := 2, cold := m.promote } u
      ∧ SMap.get none s.migrs k = none
      ∧ (∀ j, SMap.get none t.migrs j = if j = k then some { m with blk := i } else SMap.get none s.migrs j)
      ∧ t = { u with migrs := t.migrs }

/-! ### The dispatcher (R162-R169, R238-R247) -/

/-- Who may write the dispatcher window: the host, once the part is in service (R378; log 44), and a supervisor in privileged mode
(R162). -/
def State.Directs (s : State) (p : Party) : Prop :=
  (p = .host ∧ s.pkg.power = true ∧ s.pkg.bootStep = 6) ∨ ∃ n, p = .core n ∧ 128 ≤ n ∧ (s.core n).priv

/-- Queue `q` became `y`, and nothing else changed. -/
def State.SetsQueue (s : State) (q : Nat) (y : Queue) (t : State) : Prop :=
  t.queue q = y ∧ (∀ j, j ≠ q → t.queue j = s.queue j) ∧ t = { s with queues := t.queues }

/-- A usable ring holds 2 to 2^16 records (R163). -/
def Queue.Usable (x : Queue) : Prop := 1 ≤ x.ring.toNat % 64 ∧ x.ring.toNat % 64 ≤ 16

/-- What a doorbell of value `v` does (R164). -/
def State.Rung (s : State) (q : Nat) (v : W32) (t : State) : Prop :=
  let x := s.queue q
  let d := (v - x.headix).toNat
  let taken := x.dev = false ∧ x.Usable ∧ s.pkg.bootStep = 6 ∧ (x.tailix - x.headix).toNat ≤ d ∧ d ≤ 2 ^ (x.ring.toNat % 64)
  (taken → s.SetsQueue q { x with tailix := v, ages := if v = x.tailix then x.ages else x.ages ++ [(v, s.gcyc)] } t)
  ∧ (¬ taken → s.SetsQueue q { x with dberr := true } t)

/-- A visible head record that can be read (R163, R405). -/
def State.Heads (s : State) (q : Nat) (r : Record) : Prop :=
  let x := s.queue q
  x.en = true ∧ x.Usable ∧ x.tailix ≠ x.headix ∧ s.headRecord q = some r

/-- The status with which the tests of R167 reject a head record, in their order; none where it passes the first four. -/
def State.rejects (s : State) (q : Nat) (r : Record) : Option Nat :=
  if r.clean = false ∨ r.ctx ≠ (s.queue q).ctx then some 8
  else if r.gen ≠ (s.ctx r.ctx.toNat).gen then some 2
  else if ∀ d : Fin 8, ¬ (r.mask.getLsbD d = true ∧ s.diePresent d = true ∧ (s.pkg.tiles[d.val]?).getD 0 ≠ 0) then some 3
  else if r.dep = true ∧ (s.phase r.dphase.toNat).own ≠ r.ctx then some 9
  else none

/-- The dependence of a record holds it back (R167). -/
def State.depWaits (s : State) (r : Record) : Prop := r.dep = true ∧ (s.phase r.dphase.toNat).cnt.toNat < r.dthresh.toNat

/-- A head record left its queue (R167). -/
def Queue.popped (x : Queue) : Queue :=
  { x with headix := x.headix + 1, raises := 0, waited := 0, ages := x.ages.filter fun a => a.1 != x.headix + 1, lost := none }

/-- A completion word was written, where the record names one, and then the interrupt of its queue raised, where the queue asks for it
(R166, R375); a word that cannot be reached is not written, and the interrupt follows all the same (R405); a write behind a span link that
is down waits, and the interrupt with it (R376). -/
def State.Completed (s : State) (q c : Nat) (r : Record) (status : Nat) (t : State) : Prop :=
  let bs := leBytes 8 (status + 2 ^ 32 * r.tag.toNat)
  let put := s.ctxWrite c r.cw.toNat bs
  let rung (v : State) : State := { v with irqs := if (s.queue q).irq then q % 2040 :: v.irqs else v.irqs }
  (r.cw = 0 → t = s)
  ∧ (r.cw ≠ 0 → (∀ u, put = some u → ∃ v, OnlyCounted u v ∧ t = rung v)
    ∧ (put = none → s.ctxHeld c .store [(r.cw.toNat, 8)] ≠ none → t = { s with late := s.late ++ [⟨some c, r.cw.toNat, bs, some q, false, 0⟩] })
    ∧ (put = none → s.ctxHeld c .store [(r.cw.toNat, 8)] = none → ∃ v, OnlyReported s v ∧ t = rung v))

/-- A resident load alone in its launch and in one region, with nothing of it left outside the region. -/
structure State.Lone (s : State) (l g : Nat) : Prop where
  st : (s.load l).st = .resident
  at_ : (s.load l).regions = [g]
  going : (s.load l).stop = 0
  out : (s.load l).out = [] ∧ (s.region g).released = [] ∧ s.exch = [] ∧ s.windows = []
  live : (s.launch (s.load l).launch).live = true ∧ (s.launch (s.load l).launch).fail = 0
  last : ∀ m, m ≠ l → (s.load m).launch = (s.load l).launch → (s.load m).st = .ended
  busy : (s.ctx (s.loadCtx l)).busy = false

/-- Such a load ended with the failing status `status`, and its launch with it (R149, R166, R229, R240): `q` is the region after. -/
def State.EndsLone (s : State) (l g status : Nat) (q : Region) (t : State) : Prop :=
  let x := s.load l
  let y := s.launch x.launch
  ∃ w : State, w.region g = q ∧ (∀ h, h ≠ g → w.region h = s.region h)
    ∧ w.load l = Load.reset ∧ (∀ m, m ≠ l → w.load m = s.load m)
    ∧ w.launch x.launch = Launch.reset ∧ (∀ k, k ≠ x.launch → w.launch k = s.launch k)
    ∧ (∀ e, w.elem e = if e ∈ (s.region g).elemIds g then { s.elem e with ctx := [] } else s.elem e)
    ∧ (∀ i, w.agu i = if (s.agu i).of l then (s.agu i).detached else s.agu i)
    ∧ (∀ f, w.fstore f = if f ∈ x.fs then { s.fstore f with bound := none } else s.fstore f)
    ∧ w = { s with regions := w.regions, loads := w.loads, launches := w.launches, elems := w.elems, agus := w.agus, fstores := w.fstores }
    ∧ w.Completed y.queue y.record.ctx.toNat y.record status t

/-- A load that is to end with a status, unless it already is with another. -/
def State.stopped (s : State) (m status : Nat) : Load :=
  { s.load m with stop := if (s.load m).stop = 0 then status else (s.load m).stop }

/-- A sample that a load released is in an exchange queue or a reorder window (R322). -/
def State.OnTheWay (s : State) (m : Nat) : Prop :=
  (∃ p ∈ s.exch, ∃ x ∈ p.2, x.owner = m) ∨ ∃ p ∈ s.windows, ∃ x ∈ p.2, x.owner = m

/-- A pending load is removed with a status, or, while a sample that it released is left, is to end with it (R240, R322). -/
def State.Removes (s : State) (m status : Nat) (t : State) : Prop :=
  (t.load m = Load.reset ∨ t.load m = s.stopped m status)
  ∧ (s.OnTheWay m → t.load m = s.stopped m status)
  ∧ (¬ s.OnTheWay m → (s.load m).regions = [] → (s.load m).out = [] → t.load m = Load.reset)

/-- The other loads of a launch that fails with a status: the pending ones are removed, and the resident ones are to stop (R240). -/
def State.FailsRest (s : State) (l status : Nat) (t : State) : Prop :=
  ∀ m, m ≠ l →
    if (s.load m).launch ≠ (s.load l).launch ∨ (s.load m).st = .ended then t.load m = s.load m
    else if (s.load m).st = .pending then s.Removes m status t
    else t.load m = s.stopped m status

/-- A failing status of load `l` ended it, and its whole launch (R240). -/
def State.FailsLaunch (s : State) (l status : Nat) (t : State) : Prop := t.load l = Load.reset ∧ s.FailsRest l status t

/-- The same of a pending load, which a sample that it released keeps (R322). -/
def State.FailsPending (s : State) (l status : Nat) (t : State) : Prop := s.Removes l status t ∧ s.FailsRest l status t

/-- The regions of a descriptor have tiles and are apart, and so are its AGUs, as of every descriptor that R238 accepts. -/
def LoadDesc.Laid (d : LoadDesc) (die : Nat) : Prop :=
  (∀ r ∈ d.regions, 1 ≤ r.w ∧ 1 ≤ r.h) ∧ apart RegionDesc.meets d.regions = true ∧ (d.attach die).Nodup

/-- The last of the writes in a list that `same` picks. -/
def lastOf {α : Type} (xs : List α) (same : α → Bool) : Option α := (xs.filter same).getLast?

/-- What placement gives a region's elements, tiles and registers (R240): everything cleared but AFLAG and the operand slots, which placement
does not change (R323), then the row queue, the stage-out ports, the constant bank and the images of its descriptor. -/
structure PlacedRegion (s : State) (l c i : Nat) (site : PlaceArgs) (d : LoadDesc) (r : RegionDesc) (im : RegionImage) (area : Nat)
    (t : State) : Prop where
  region : t.region (r.origin site) = { Region.reset with
    mode := .ready, load := l, sup := site.sup, ctx := BitVec.ofNat 12 c, idx := i, w := r.w, h := r.h, gr := r.gr, replay := area,
    rows := im.rows, binds := (t.region (r.origin site)).binds, pal := (t.region (r.origin site)).pal, lq8 := (t.region (r.origin site)).lq8 }
  binds : ∀ p pd, r.ports[p]? = some pd → (t.region (r.origin site)).bind p =
    if pd.kind = 1 then .stream (pd.aguId site.die) else if pd.kind = 2 then .input (BitVec.ofNat 64 (d.sqd pd))
    else if pd.kind = 3 then .output (BitVec.ofNat 64 (d.sqd pd)) else .unbound
  elems : ∀ y < 4 * r.h, ∀ x < 4 * r.w,
    let e := t.elem (regionElem (r.origin site) y x)
    e = { Elem.reset with ctx := e.ctx, rules := e.rules, soport := BitVec.ofNat 4 ((im.soports[4 * r.w * y + x]?).getD 0) }
    ∧ (∀ k, SMap.get CtxEntry.reset e.ctx k = match lastOf im.slots (fun w => w.y == y && w.x == x && w.entry == k) with
        | some w => if w.slot.getLsbD 44 then ⟨.live, w.slot⟩ else CtxEntry.reset
        | none => CtxEntry.reset)
    ∧ (∀ k, SMap.get 0 e.rules k = match lastOf im.rules (fun w => w.y == y && w.x == x && w.ix == k) with
        | some w => w.val
        | none => 0)
  tiles : ∀ k ∈ r.tiles site, t.tile k = { s.tile k with acc := [], accp := [], pass := none, groups := [], kbank := (t.tile k).kbank }
    ∧ ∀ j, SMap.get 0 (t.tile k).kbank j = match im.kbank with
      | some ws => (ws[j]?).getD 0
      | none => 0
  agus : ∀ pd ∈ r.ports, pd.kind = 1 →
    t.agu (pd.aguId site.die) = { s.agu (pd.aguId site.die) with attach := some (l, r.origin site), ctx := BitVec.ofNat 12 c }

/-- A load's stores are bound to it, and unowned ones claimed for its context (R358). -/
def State.BindsStores (s : State) (l c : Nat) (d : LoadDesc) (die : Nat) (t : State) : Prop :=
  ∀ i < 8, let x := s.fstore (8 * die + i)
    d.fsbind.getLsbD i = true → t.fstore (8 * die + i) =
      { x with bound := some l, own := if x.own.getLsbD 12 then x.own else BitVec.ofNat 13 (4096 + c) }

end Sys2Proof.Machine
end

