-- ==== Sys2Proof/Certificates/Slice0/Obligations.lean ====
section
/-! DEFINITION. The claims about the KZ-9. -/

open Sys2Proof Sys2Proof.Machine

/-! ## Control cores: registers and predicates -/

/-- R95: what each three-register form and each count leaves in its destination, the pc 4 further, and nothing else changed. -/
def Claims.RegisterArithmetic : Prop :=
  ∀ (s : State) (rd : DReg) (ra rb : SReg),
    let a := s.readS ra
    let b := s.readS rb
    let sh := b.toNat % 64
    Completes (exec (.add rd ra rb) s) (WroteReg s rd (a + b) 4)
    ∧ Completes (exec (.sub rd ra rb) s) (WroteReg s rd (a - b) 4)
    ∧ Completes (exec (.and rd ra rb) s) (WroteReg s rd (a &&& b) 4)
    ∧ Completes (exec (.or rd ra rb) s) (WroteReg s rd (a ||| b) 4)
    ∧ Completes (exec (.xor rd ra rb) s) (WroteReg s rd (a ^^^ b) 4)
    ∧ Completes (exec (.andn rd ra rb) s) (WroteReg s rd (a &&& ~~~b) 4)
    ∧ Completes (exec (.orn rd ra rb) s) (WroteReg s rd (a ||| ~~~b) 4)
    ∧ Completes (exec (.shl rd ra rb) s) (WroteReg s rd (BitVec.ofNat 64 (a.toNat * 2 ^ sh)) 4)
    ∧ Completes (exec (.shr rd ra rb) s) (WroteReg s rd (BitVec.ofNat 64 (a.toNat / 2 ^ sh)) 4)
    ∧ Completes (exec (.sra rd ra rb) s) (WroteReg s rd (BitVec.ofInt 64 (a.toInt / (2 ^ sh : Nat))) 4)
    ∧ Completes (exec (.mul rd ra rb) s) (WroteReg s rd (BitVec.ofNat 64 (a.toNat * b.toNat)) 4)
    ∧ Completes (exec (.mulhI64 rd ra rb) s) (WroteReg s rd (BitVec.ofInt 64 (a.toInt * b.toInt / (2 ^ 64 : Nat))) 4)
    ∧ Completes (exec (.mulhN64 rd ra rb) s) (WroteReg s rd (BitVec.ofNat 64 (a.toNat * b.toNat / 2 ^ 64)) 4)
    ∧ Completes (exec (.minI64 rd ra rb) s) (WroteReg s rd (BitVec.ofInt 64 (min a.toInt b.toInt)) 4)
    ∧ Completes (exec (.maxI64 rd ra rb) s) (WroteReg s rd (BitVec.ofInt 64 (max a.toInt b.toInt)) 4)
    ∧ Completes (exec (.minN64 rd ra rb) s) (WroteReg s rd (BitVec.ofNat 64 (min a.toNat b.toNat)) 4)
    ∧ Completes (exec (.maxN64 rd ra rb) s) (WroteReg s rd (BitVec.ofNat 64 (max a.toNat b.toNat)) 4)

/-- R95: the counts of the bits of ra. A number of leading zeros is the length of the run of zero bits at the top, of trailing
zeros the one at the bottom. -/
def Claims.BitCounts : Prop :=
  ∀ (s : State) (rd : DReg) (ra : SReg),
    let a := s.readS ra
    (∃ n ≤ 64, (∀ i < 64, 64 - n ≤ i → a.getLsbD i = false) ∧ (n < 64 → a.getLsbD (63 - n) = true)
      ∧ Completes (exec (.clz rd ra) s) (WroteReg s rd (BitVec.ofNat 64 n) 4))
    ∧ (∃ n ≤ 64, (∀ i < n, a.getLsbD i = false) ∧ (n < 64 → a.getLsbD n = true)
      ∧ Completes (exec (.ctz rd ra) s) (WroteReg s rd (BitVec.ofNat 64 n) 4))
    ∧ Completes (exec (.popc rd ra) s)
        (WroteReg s rd (BitVec.ofNat 64 ((List.range 64).map fun i => (a.getLsbD i).toNat).sum) 4)

/-- R96: division truncates towards zero, a remainder takes the sign of the dividend, and no case traps. -/
def Obligations.Division : Prop :=
  ∀ (s : State) (rd : DReg) (ra rb : SReg),
    let a := s.readS ra
    let b := s.readS rb
    (b = 0 →
      Completes (exec (.divI64 rd ra rb) s) (WroteReg s rd (-1) 4)
      ∧ Completes (exec (.remI64 rd ra rb) s) (WroteReg s rd a 4)
      ∧ Completes (exec (.divN64 rd ra rb) s) (WroteReg s rd (-1) 4)
      ∧ Completes (exec (.remN64 rd ra rb) s) (WroteReg s rd a 4))
    ∧ (a.toInt = -2 ^ 63 ∧ b.toInt = -1 →
      Completes (exec (.divI64 rd ra rb) s) (WroteReg s rd a 4)
      ∧ Completes (exec (.remI64 rd ra rb) s) (WroteReg s rd 0 4))
    ∧ (b ≠ 0 ∧ ¬(a.toInt = -2 ^ 63 ∧ b.toInt = -1) →
      ∃ q r : W64, a.toInt = b.toInt * q.toInt + r.toInt ∧ |r.toInt| < |b.toInt| ∧ (r = 0 ∨ r.toInt.sign = a.toInt.sign)
        ∧ Completes (exec (.divI64 rd ra rb) s) (WroteReg s rd q 4)
        ∧ Completes (exec (.remI64 rd ra rb) s) (WroteReg s rd r 4))
    ∧ (b ≠ 0 →
      ∃ q r : W64, a.toNat = b.toNat * q.toNat + r.toNat ∧ r.toNat < b.toNat
        ∧ Completes (exec (.divN64 rd ra rb) s) (WroteReg s rd q 4)
        ∧ Completes (exec (.remN64 rd ra rb) s) (WroteReg s rd r 4))

/-- R95: the three-register forms and the counts. -/
def Obligations.RegisterForms : Prop := Claims.RegisterArithmetic ∧ Claims.BitCounts

/-- R97: each compare writes one predicate, and nothing else changes but the pc. -/
def Claims.Compares : Prop :=
  ∀ (s : State) (qd : QReg) (ra rb : SReg),
    let a := s.readS ra
    let b := s.readS rb
    Completes (exec (.cmpeq qd ra rb) s) (WrotePred s qd (decide (a = b)) 4)
    ∧ Completes (exec (.cmpne qd ra rb) s) (WrotePred s qd (decide (a ≠ b)) 4)
    ∧ Completes (exec (.cmplt qd ra rb) s) (WrotePred s qd (decide (a.toInt < b.toInt)) 4)
    ∧ Completes (exec (.cmpge qd ra rb) s) (WrotePred s qd (decide (b.toInt ≤ a.toInt)) 4)
    ∧ Completes (exec (.cmpltN64 qd ra rb) s) (WrotePred s qd (decide (a.toNat < b.toNat)) 4)
    ∧ Completes (exec (.cmpgeN64 qd ra rb) s) (WrotePred s qd (decide (b.toNat ≤ a.toNat)) 4)

/-- R98, R99: select, and the forms that combine predicates. -/
def Claims.SelectAndPredicates : Prop :=
  ∀ (s : State) (rd : DReg) (qn : QReg) (ra rb : SReg) (qd qa qb : QReg),
    (s.me.readQ qn = true → Completes (exec (.sel rd qn ra rb) s) (WroteReg s rd (s.readS ra) 4))
    ∧ (s.me.readQ qn = false → Completes (exec (.sel rd qn ra rb) s) (WroteReg s rd (s.readS rb) 4))
    ∧ Completes (exec (.pand qd qa qb) s) (WrotePred s qd (s.me.readQ qa && s.me.readQ qb) 4)
    ∧ Completes (exec (.por qd qa qb) s) (WrotePred s qd (s.me.readQ qa || s.me.readQ qb) 4)
    ∧ Completes (exec (.pxor qd qa qb) s) (WrotePred s qd (s.me.readQ qa != s.me.readQ qb) 4)
    ∧ Completes (exec (.pnot qd qa) s) (WrotePred s qd (!s.me.readQ qa) 4)

/-- R100: the immediate forms that write an integer register. The pc passes 4 bytes, and 8 where an extension word gives the
44-bit immediate. -/
def Obligations.ImmediateArithmetic : Prop :=
  ∀ (s : State) (rd : DReg) (ra : SReg) (imm : BitVec 12) (ext : BitVec 44) (n : BitVec 6),
    let a := s.readS ra
    let i := BitVec.ofInt 64 imm.toInt
    let e := BitVec.ofInt 64 ext.toInt
    Completes (exec (.addi rd ra imm) s) (WroteReg s rd (a + i) 4)
    ∧ Completes (exec (.addiExt rd ra ext) s) (WroteReg s rd (a + e) 8)
    ∧ Completes (exec (.subi rd ra imm) s) (WroteReg s rd (a - i) 4)
    ∧ Completes (exec (.subiExt rd ra ext) s) (WroteReg s rd (a - e) 8)
    ∧ Completes (exec (.andi rd ra imm) s) (WroteReg s rd (a &&& i) 4)
    ∧ Completes (exec (.andiExt rd ra ext) s) (WroteReg s rd (a &&& e) 8)
    ∧ Completes (exec (.ori rd ra imm) s) (WroteReg s rd (a ||| i) 4)
    ∧ Completes (exec (.oriExt rd ra ext) s) (WroteReg s rd (a ||| e) 8)
    ∧ Completes (exec (.xori rd ra imm) s) (WroteReg s rd (a ^^^ i) 4)
    ∧ Completes (exec (.xoriExt rd ra ext) s) (WroteReg s rd (a ^^^ e) 8)
    ∧ Completes (exec (.muli rd ra imm) s) (WroteReg s rd (BitVec.ofInt 64 (a.toInt * imm.toInt)) 4)
    ∧ Completes (exec (.muliExt rd ra ext) s) (WroteReg s rd (BitVec.ofInt 64 (a.toInt * ext.toInt)) 8)
    ∧ Completes (exec (.shli rd ra n) s) (WroteReg s rd (BitVec.ofNat 64 (a.toNat * 2 ^ n.toNat)) 4)
    ∧ Completes (exec (.shri rd ra n) s) (WroteReg s rd (BitVec.ofNat 64 (a.toNat / 2 ^ n.toNat)) 4)
    ∧ Completes (exec (.srai rd ra n) s) (WroteReg s rd (BitVec.ofInt 64 (a.toInt / (2 ^ n.toNat : Nat))) 4)

/-- R100: the immediate compares; the unsigned ones read the sign-extended immediate as an unsigned number. -/
def Claims.ImmediateCompares : Prop :=
  ∀ (s : State) (qd : QReg) (ra : SReg) (imm : BitVec 12) (ext : BitVec 44),
    let a := s.readS ra
    let i := BitVec.ofInt 64 imm.toInt
    let e := BitVec.ofInt 64 ext.toInt
    Completes (exec (.cmpeqi qd ra imm) s) (WrotePred s qd (decide (a = i)) 4)
    ∧ Completes (exec (.cmpeqiExt qd ra ext) s) (WrotePred s qd (decide (a = e)) 8)
    ∧ Completes (exec (.cmpnei qd ra imm) s) (WrotePred s qd (decide (a ≠ i)) 4)
    ∧ Completes (exec (.cmpneiExt qd ra ext) s) (WrotePred s qd (decide (a ≠ e)) 8)
    ∧ Completes (exec (.cmplti qd ra imm) s) (WrotePred s qd (decide (a.toInt < imm.toInt)) 4)
    ∧ Completes (exec (.cmpltiExt qd ra ext) s) (WrotePred s qd (decide (a.toInt < ext.toInt)) 8)
    ∧ Completes (exec (.cmpgei qd ra imm) s) (WrotePred s qd (decide (imm.toInt ≤ a.toInt)) 4)
    ∧ Completes (exec (.cmpgeiExt qd ra ext) s) (WrotePred s qd (decide (ext.toInt ≤ a.toInt)) 8)
    ∧ Completes (exec (.cmpltiN64 qd ra imm) s) (WrotePred s qd (decide (a.toNat < i.toNat)) 4)
    ∧ Completes (exec (.cmpltiN64Ext qd ra ext) s) (WrotePred s qd (decide (a.toNat < e.toNat)) 8)
    ∧ Completes (exec (.cmpgeiN64 qd ra imm) s) (WrotePred s qd (decide (i.toNat ≤ a.toNat)) 4)
    ∧ Completes (exec (.cmpgeiN64Ext qd ra ext) s) (WrotePred s qd (decide (e.toNat ≤ a.toNat)) 8)

/-- R97-R99: the words of the compares, of select, and of the forms that combine predicates. -/
def Claims.PredicateWords : Prop :=
  ∀ (rd : DReg) (qn qd qa qb : QReg) (ra rb : SReg),
    let word (major d a b fn : Nat) := major * 2 ^ 25 + d * 2 ^ 19 + a * 2 ^ 13 + b * 2 ^ 7 + fn * 2
    let q (x : QReg) := 48 + x.toNat
    let compares : List (QReg → SReg → SReg → Instr) := [.cmpeq, .cmpne, .cmplt, .cmpge, .cmpltN64, .cmpgeN64]
    let forms : List (QReg → QReg → QReg → Instr) := [.pand, .por, .pxor]
    (∀ k i, compares[k]? = some i → decodeC (word 0x0C (q qd) ra.code rb.code k) 0 = some (i qd ra rb))
    ∧ decodeC (word 0x0E rd.code ra.code rb.code qn.toNat) 0 = some (.sel rd qn ra rb)
    ∧ (∀ k i, forms[k]? = some i → decodeC (word 0x0F (q qd) (q qa) (q qb) k) 0 = some (i qd qa qb))
    ∧ decodeC (word 0x0F (q qd) (q qa) 0 3) 0 = some (.pnot qd qa)

/-- R97-R100: the compares of both kinds, select, and the forms that combine predicates. -/
def Obligations.PredicateForms : Prop :=
  Claims.Compares ∧ Claims.SelectAndPredicates ∧ Claims.ImmediateCompares ∧ Claims.PredicateWords

/-! ## Control cores: branches, calls, traps -/

/-- R102, R103, R105: a branch that is taken and a jump go on at a target that check_target accepts; a branch that is not taken
goes on at the next word. Nothing else changes. -/
def Claims.Branches : Prop :=
  ∀ (s : State) (q : QReg) (off : BitVec 18) (ext : BitVec 50) (ra : SReg),
    let near := s.me.pc + BitVec.ofInt 64 (4 * off.toInt)
    let far := s.me.pc + BitVec.ofInt 64 (4 * ext.toInt)
    (goodTarget near →
      (s.me.readQ q = true → Completes (exec (.br q off) s) (Jumped s near))
      ∧ (s.me.readQ q = false → Completes (exec (.brn q off) s) (Jumped s near))
      ∧ Completes (exec (.jmp off) s) (Jumped s near))
    ∧ (goodTarget far →
      (s.me.readQ q = true → Completes (exec (.brExt q ext) s) (Jumped s far))
      ∧ (s.me.readQ q = false → Completes (exec (.brnExt q ext) s) (Jumped s far))
      ∧ Completes (exec (.jmpExt ext) s) (Jumped s far))
    ∧ (s.me.readQ q = false →
      Completes (exec (.br q off) s) (Jumped s (s.me.pc + 4))
      ∧ Completes (exec (.brExt q ext) s) (Jumped s (s.me.pc + 8)))
    ∧ (s.me.readQ q = true →
      Completes (exec (.brn q off) s) (Jumped s (s.me.pc + 4))
      ∧ Completes (exec (.brnExt q ext) s) (Jumped s (s.me.pc + 8)))
    ∧ (goodTarget (s.readS ra) → Completes (exec (.jmpr ra) s) (Jumped s (s.readS ra)))

/-- R103: a taken transfer to a target that check_target refuses raises the instruction-fetch trap at the branching word, with TVAL
the target and no other effect. -/
def Claims.RefusedTargets : Prop :=
  ∀ (s : State) (q : QReg) (off : BitVec 18) (ext : BitVec 50) (fc : FrameCode) (ra : SReg),
    let near := s.me.pc + BitVec.ofInt 64 (4 * off.toInt)
    let far := s.me.pc + BitVec.ofInt 64 (4 * ext.toInt)
    let traps (i : Instr) (tgt : W64) := Completes (exec i s) (TookTrap s 3 tgt s.me.pc)
    s.canTrap →
    (¬ goodTarget near →
      (s.me.readQ q = true → traps (.br q off) near) ∧ (s.me.readQ q = false → traps (.brn q off) near)
      ∧ traps (.jmp off) near ∧ traps (.call fc off) near)
    ∧ (¬ goodTarget far →
      (s.me.readQ q = true → traps (.brExt q ext) far) ∧ (s.me.readQ q = false → traps (.brnExt q ext) far)
      ∧ traps (.jmpExt ext) far ∧ traps (.callExt fc ext) far)
    ∧ (¬ goodTarget (s.readS ra) → traps (.jmpr ra) (s.readS ra) ∧ traps (.callr fc ra) (s.readS ra))

/-- R102, R103, R105: branches and jumps, to targets that check_target accepts and to those that it refuses. -/
def Obligations.Transfers : Prop := Claims.Branches ∧ Claims.RefusedTargets

/-- R80, R81: a call with frame size F whose window needs no spill leaves its link word in the slot of the group below the callee's
w0, slides the window by F, goes on at the target, and changes nothing else. -/
def Claims.Calls : Prop :=
  ∀ (s : State) (fc : FrameCode) (off : BitVec 18) (ext : BitVec 50) (ra : SReg),
    let code : Nat := match fc with | .f8 => 1 | .f16 => 2 | .f24 => 3
    let f := 8 * code
    let called (target : W64) (size : Nat) (t : State) :=
      (∀ k, SMap.get 0 t.me.link k =
        if k = (s.me.wbase.toNat + f - 8) % 256 / 8 then
          BitVec.ofNat 64 ((s.me.pc + BitVec.ofNat 64 size).toNat / 4 * 4 + code) else SMap.get 0 s.me.link k)
      ∧ t.me = { s.me with link := t.me.link, wbase := s.me.wbase + BitVec.ofNat 8 f, wfill := s.me.wfill + BitVec.ofNat 8 f, pc := target }
      ∧ (∀ j, j ≠ s.cur → t.core j = s.core j) ∧ t = { s with cores := t.cores }
    s.me.wfill.toNat + f ≤ 224 →
    (goodTarget (s.me.pc + BitVec.ofInt 64 (4 * off.toInt)) →
      Completes (exec (.call fc off) s) (called (s.me.pc + BitVec.ofInt 64 (4 * off.toInt)) 4))
    ∧ (goodTarget (s.me.pc + BitVec.ofInt 64 (4 * ext.toInt)) →
      Completes (exec (.callExt fc ext) s) (called (s.me.pc + BitVec.ofInt 64 (4 * ext.toInt)) 8))
    ∧ (goodTarget (s.readS ra) → Completes (exec (.callr fc ra) s) (called (s.readS ra) 4))

/-- R82, R86, R138: `ret` and, in privileged mode, `tret` with enough resident groups take the window back and go on at the return
address or at TEPC; `tret` restores PRIV and TEN from TSTAT. -/
def Claims.Returns : Prop :=
  ∀ (s : State),
    let slot := (s.me.wbase.toNat + 248) % 256 / 8
    let lw := SMap.get 0 s.me.link slot
    let f := 8 * (lw.toNat % 4)
    (lw.toNat % 4 ≠ 0 → f ≤ s.me.wfill.toNat →
      Completes (exec .ret s) fun t =>
        (∀ k, SMap.get 0 t.me.link k = if k = slot then 0 else SMap.get 0 s.me.link k)
        ∧ t.me = { s.me with
            link := t.me.link, wbase := s.me.wbase - BitVec.ofNat 8 f, wfill := s.me.wfill - BitVec.ofNat 8 f,
            pc := BitVec.ofNat 64 (lw.toNat / 4 * 4) }
        ∧ (∀ j, j ≠ s.cur → t.core j = s.core j) ∧ t = { s with cores := t.cores })
    ∧ (lw.toNat % 4 = 0 → 8 ≤ s.me.wfill.toNat → s.canTrap →
      Completes (exec .ret s) (TookTrap s 1 (s.ir.setWidth 64) s.me.pc))
    ∧ (s.me.priv → 32 ≤ s.me.wfill.toNat →
      Completes (exec .tret s) fun t =>
        t.me = { s.me with
          wbase := s.me.wbase - 32, wfill := s.me.wfill - 32, cstat := s.me.tstat &&& 3, pc := s.me.tepc }
        ∧ (∀ j, j ≠ s.cur → t.core j = s.core j) ∧ t = { s with cores := t.cores })

/-- R83: a spill of a control core with room in its carve-out writes the oldest resident group's 72-byte record at SPP in the core's
own scratchpad, and SPP moves on by 72; that its reserved bits read 0 then too is the model's choice (log 96). -/
def Claims.SpillToCarveOut : Prop :=
  ∀ (s : State) (n : Nat),
    let c := s.core n
    let pa := 0x40800000000 + n * 0x80000 + c.spp.toNat
    let oldest := (c.wbase.toNat + 256 - c.wfill.toNat) % 256 / 8
    n < 128 → c.ovfn = 0 → c.spp.toNat + 72 ≤ c.splb.toNat + c.spll.toNat → c.splb.toNat + c.spll.toNat ≤ 0x80000 →
    ∃ t, s.spillOne n = .ok t
      ∧ (∀ i < 8, ∀ b < 8, t.readCell (pa + 8 * i + b) = BitVec.ofNat 8 ((c.readRing (8 * oldest + i)).toNat / 256 ^ b))
      ∧ (∀ b < 8, t.readCell (pa + 64 + b) = BitVec.ofNat 8 ((SMap.get 0 c.link oldest).toNat / 256 ^ b))
      ∧ (∀ a, a < pa ∨ pa + 72 ≤ a → t.readCell a = s.readCell a)
      ∧ t.core n = { c with spp := (c.spp + 72) &&& 0x7FFF8, wfill := c.wfill - 8, span := none }
      ∧ (∀ j, j ≠ n → t.core j = s.core j)
      ∧ (∀ v a, a < pa ∨ pa + 72 ≤ a → v ≠ viewCopy → v ≠ viewUnit → lagAt t.lags v a = lagAt s.lags v a)
      ∧ t = { s with cores := t.cores, mem := t.mem, resid := t.resid, lags := t.lags }

/-- R80-R83, R86, R104, R105, R138: calls, returns, and the spill of a group to the carve-out. -/
def Obligations.CallsAndReturns : Prop := Claims.Calls ∧ Claims.Returns ∧ Claims.SpillToCarveOut

/-- R109, R137: `trap n` takes the software trap with TVAL n and TEPC the next word, in either mode. -/
def Claims.SoftwareTrap : Prop :=
  ∀ (s : State) (n : BitVec 12), s.canTrap →
    Completes (exec (.trap n) s) (TookTrap s 5 (BitVec.ofNat 64 n.toNat) (s.me.pc + 4))

/-- R140: a synchronous trap with TEN = 0 is a double fault: a control core stops with its registers as they stand, and the supervisor of
its die gets cause 0x0103, unless it has one pending already, with the core's number and the second cause. -/
def Claims.DoubleFault : Prop :=
  ∀ (s : State) (n : BitVec 12), s.me.cstat.getLsbD 0 = false → s.cur < 128 →
    Completes (exec (.trap n) s) fun t =>
      t.me = { s.me with run := .frozen, await := none, begun := none, inval := none }
      ∧ (∀ j, j ≠ s.cur → j ≠ 128 + s.cur / 16 → t.core j = s.core j)
      ∧ (SMap.get none (s.core (128 + s.cur / 16)).pend 0x103 = none →
          SMap.get none (t.core (128 + s.cur / 16)).pend 0x103 = some (BitVec.ofNat 64 (s.cur + 65536 * 5)))
      ∧ (∀ v, SMap.get none (s.core (128 + s.cur / 16)).pend 0x103 = some v →
          SMap.get none (t.core (128 + s.cur / 16)).pend 0x103 = some v)
      ∧ t = { s with cores := t.cores }

/-- R91, R136, R137: between two words, with TEN = 1, the lowest pending asynchronous cause is delivered and is pending no more; the pc is its
TEPC. -/
def Claims.AsyncDelivery : Prop :=
  ∀ (s : State) (k : Nat) (v : W64), k < 2 ^ 16 → s.canTrap → s.me.run = .running → s.me.begun = none →
    (∃ rest, s.me.pend = (k, some v) :: rest) →
    Completes (exec (.asyncTrapDelivery s.cur) s)
      (TookTrap (s.setMe { s.me with pend := SMap.set none s.me.pend k none }) k v s.me.pc)

/-- R109, R136, R137, R140: the software trap, the double fault, and the delivery of an asynchronous cause. -/
def Obligations.TrapEntry : Prop := Claims.SoftwareTrap ∧ Claims.DoubleFault ∧ Claims.AsyncDelivery

/-- R108, R112: in user mode `mtsr`, `treen`, `tret` and `tlbinv` raise the privileged-instruction trap, and a number that R78 does not
list the illegal-instruction trap, with no other effect. -/
def Claims.PrivilegeAndUnlistedRegisters : Prop :=
  ∀ (s : State) (rd : DReg) (ra rb : SReg) (n : BitVec 12), s.canTrap →
    let word := s.ir.setWidth 64
    (¬ s.me.priv →
      (n.toNat ∈ sysTable.map (·.1) → Completes (exec (.mtsr n ra) s) (TookTrap s 2 word s.me.pc))
      ∧ Completes (exec .treen s) (TookTrap s 2 word s.me.pc)
      ∧ Completes (exec .tret s) (TookTrap s 2 word s.me.pc)
      ∧ Completes (exec .tlbinvAll s) (TookTrap s 2 word s.me.pc)
      ∧ ((s.readS rb).toNat < 2 ^ 12 → Completes (exec (.tlbinvCx rb) s) (TookTrap s 2 word s.me.pc))
      ∧ ((s.readS ra).toNat < 2 ^ 56 → (s.readS rb).toNat < 2 ^ 12 →
          Completes (exec (.tlbinvPg ra rb) s) (TookTrap s 2 word s.me.pc)))
    ∧ (n.toNat ∉ sysTable.map (·.1) →
      Completes (exec (.mfsr rd n) s) (TookTrap s 1 word s.me.pc)
      ∧ Completes (exec (.mtsr n ra) s) (TookTrap s 1 word s.me.pc))

/-- R78, R108: `mfsr` reads every system register in either mode; `mtsr` in privileged mode writes it, reserved bits ignored. -/
def Claims.SystemRegisters : Prop :=
  ∀ (s : State) (rd : DReg) (ra : SReg) (n : BitVec 12), ∀ p ∈ sysTable, n.toNat = p.1 →
    Completes (exec (.mfsr rd n) s) (WroteReg s rd (p.2.1 s.me) 4)
    ∧ (s.me.priv → Completes (exec (.mtsr n ra) s) fun t =>
        t.me = { p.2.2 (decide (128 ≤ s.cur)) (s.readS ra) s.me with pc := s.me.pc + 4 }
        ∧ (∀ j, j ≠ s.cur → t.core j = s.core j) ∧ t = { s with cores := t.cores })

/-- R78, R108, R112: the system registers, and what user mode and an unlisted number give. -/
def Obligations.SystemRegisterForms : Prop := Claims.PrivilegeAndUnlistedRegisters ∧ Claims.SystemRegisters

/-- R110, R111, R138, R291-R293: the waits, `idle` and its wake, `treen`, and the fences. A fence lets views of memory catch up with every write
that has been performed: `fence` and `fence.rel` the core's own fetches, from `.die` on, and near-memory units, from `.pkg` on; `fence.path`
copies in scratchpads; `fence.win` every window of stack memory, and near-memory units. Every other view sees what it saw. The scopes of the
last two are the model's choice (log 95), and what a fence orders towards other cores one interleaving of the accesses does not show
(log 2). -/
def Obligations.WaitsAndFences : Prop :=
  ∀ (s : State) (mask : BitVec 8) (sc : Scope),
    ((∀ i < 8, mask.getLsbD i = true → (SMap.get 0 s.me.tokcnt i).toNat = 0) →
      Completes (exec (.waitt mask) s) (Jumped s (s.me.pc + 4)))
    ∧ ((∃ i < 8, mask.getLsbD i = true ∧ (SMap.get 0 s.me.tokcnt i).toNat ≠ 0) → exec (.waitt mask) s = .next s)
    ∧ Completes (exec .idle s) (fun t =>
        t.me = { s.me with run := .idle, idleTok := t.me.idleTok, wake := false }
        ∧ (∀ i < 8, t.me.idleTok.getLsbD i = decide ((SMap.get 0 s.me.tokcnt i).toNat ≠ 0))
        ∧ (∀ j, j ≠ s.cur → t.core j = s.core j) ∧ t = { s with cores := t.cores })
    ∧ (s.me.run = .idle → (s.me.wake = true ∨ ∃ i < 8, s.me.idleTok.getLsbD i = true ∧ (SMap.get 0 s.me.tokcnt i).toNat = 0) →
      Completes (exec (.idleWake s.cur) s) fun t =>
        t.me = { s.me with run := .running, wake := false, idleTok := 0, pc := s.me.pc + 4 }
        ∧ (∀ j, j ≠ s.cur → t.core j = s.core j) ∧ t = { s with cores := t.cores })
    ∧ (s.me.priv → Completes (exec .treen s) fun t =>
        t.me = { s.me with cstat := s.me.cstat ||| 1, pc := s.me.pc + 4 }
        ∧ (∀ j, j ≠ s.cur → t.core j = s.core j) ∧ t = { s with cores := t.cores })
    ∧ (let fetches (v : Nat) := sc ≠ .rg ∧ 16 + 4 * s.cur ≤ v ∧ v < 16 + 4 * (s.cur + 1)
      let commands (v : Nat) := v = 5 ∧ sc ∈ [Scope.pkg, .dom, .sys]
      Completes (exec (.fence sc) s) (Fenced s fun v => fetches v ∨ commands v)
      ∧ Completes (exec (.fenceAcq sc) s) (Jumped s (s.me.pc + 4))
      ∧ Completes (exec (.fenceRel sc) s) (Fenced s fun v => fetches v ∨ commands v)
      ∧ Completes (exec (.fencePath sc) s) (Fenced s fun v => v = 4)
      ∧ Completes (exec (.fenceWin sc) s) (Fenced s fun v => v ∈ [1, 2, 3, 5]))

/-! ## Control cores: memory -/

/-- R282, R284: a load from plain memory writes the bytes that its window shows at its address (R270), extended, and `ldp` both registers of
its pair; memory and everything but performance counters stay. -/
def Claims.Loads : Prop :=
  (∀ p ∈ loadTable, ∀ (s : State) (rd : DReg) (ra : SReg) (m : MArgs) (off : Option (BitVec 32)) (w : Nat) (as : List Nat),
    PlainAccess s m .load (s.formAddr ra off) p.1 w as →
    let v := BitVec.ofNat (8 * p.1) (leNat (as.map (s.see (Via.core.path w))))
    Completes (exec (p.2.2 rd ra m off) s) fun t =>
      ∃ u, OnlyCounted s u ∧ WroteReg u rd (if p.2.1 then v.signExtend 64 else v.setWidth 64) (formBytes off) t)
  ∧ (∀ (s : State) (rp : PReg) (ra : SReg) (m : MArgs) (off : Option (BitVec 32)) (w : Nat) (as : List Nat),
    PlainAccess s m .load (s.formAddr ra off) 16 w as →
    Completes (exec (ldpForm rp ra m off) s) fun t =>
      ∃ u u', OnlyCounted s u
        ∧ WroteReg u rp.lo (BitVec.ofNat 64 (leNat ((as.take 8).map (s.see (Via.core.path w))))) 0 u'
        ∧ WroteReg u' rp.hi (BitVec.ofNat 64 (leNat ((as.drop 8).map (s.see (Via.core.path w))))) (formBytes off) t)

/-- R282, R284: a store to plain memory leaves the low bytes of its register, or both registers of its pair, at its address, lowest byte
first, as its window shows them from then on; every other byte of memory reads as before, and no register changes but the pc. -/
def Claims.Stores : Prop :=
  (∀ p ∈ storeTable, ∀ (s : State) (rs ra : SReg) (m : MArgs) (off : Option (BitVec 32)) (w : Nat) (as : List Nat),
    PlainAccess s m .store (s.formAddr ra off) p.1 w as →
    Completes (exec (p.2 rs ra m off) s)
      (Stored s w as ((List.range p.1).map fun i => BitVec.ofNat 8 ((s.readS rs).toNat / 256 ^ i)) (formBytes off)))
  ∧ (∀ (s : State) (rp : PReg) (ra : SReg) (m : MArgs) (off : Option (BitVec 32)) (w : Nat) (as : List Nat),
    PlainAccess s m .store (s.formAddr ra off) 16 w as →
    Completes (exec (stpForm rp ra m off) s)
      (Stored s w as ((List.range 16).map fun i =>
        BitVec.ofNat 8 ((s.me.readD (if i < 8 then rp.lo else rp.hi)).toNat / 256 ^ (i % 8))) (formBytes off)))

/-- R282, R284: loads and stores of plain memory. -/
def Obligations.LoadsAndStores : Prop := Claims.Loads ∧ Claims.Stores

/-- R113, R141, R282: a misaligned load or store takes cause 7 and one that no mapping permits cause 6, with TVAL the address and nothing
else changed but the counters of the walk; one whose mask names a pending token waits. -/
def Obligations.AccessTraps : Prop :=
  ∀ (s : State) (rd : DReg) (rs ra : SReg) (m : MArgs) (off : Option (BitVec 32)),
    let ea := s.formAddr ra off
    let noMap (k : Acc) := s.coreVa s.cur k ea.toNat = none ∧ s.walkBad s.cur s.me.ctx ea.toNat = []
      ∧ s.walkHeld s.cur s.me.ctx ea.toNat = none
    (∀ p ∈ loadTable,
      (s.me.waits m.wait = true → exec (p.2.2 rd ra m off) s = .next s)
      ∧ (s.me.waits m.wait = false → s.canTrap →
        (ea.toNat % p.1 ≠ 0 → Completes (exec (p.2.2 rd ra m off) s) (TookTrap s 7 ea s.me.pc))
        ∧ (ea.toNat % p.1 = 0 → noMap .load → Completes (exec (p.2.2 rd ra m off) s) (TookCounted s 6 ea s.me.pc))))
    ∧ (∀ p ∈ storeTable,
      (s.me.waits m.wait = true → exec (p.2 rs ra m off) s = .next s)
      ∧ (s.me.waits m.wait = false → s.canTrap →
        (ea.toNat % p.1 ≠ 0 → Completes (exec (p.2 rs ra m off) s) (TookTrap s 7 ea s.me.pc))
        ∧ (ea.toNat % p.1 = 0 → noMap .store → Completes (exec (p.2 rs ra m off) s) (TookCounted s 6 ea s.me.pc))))

/-- R285: an atomic takes the old value that its window shows, writes f(old, b, c) at that place in the order of the writes to those bytes,
or nothing where f writes none, and leaves the old value in rd; every other byte of memory reads as before. -/
def Obligations.Atomics : Prop :=
  ∀ p ∈ atomicTable, ∀ (s : State) (rd : DReg) (ra rb : SReg) (a : AArgs) (pa : Nat) (as : List Nat),
    let z := if a.sz then 8 else 4
    let ea := s.readS ra
    ea.toNat % z = 0 → s.coreVa s.cur .store ea.toNat = some pa → s.heldBy pa = none → s.cells pa z = some as →
    s.badPa (s.corePas .store ea.toNat z) = none →
    let w := 8 * z
    let old := BitVec.ofNat w (leNat (as.map (s.see (Via.core.path (s.windowOf pa)))))
    let new := p.2.2 w old ((s.readS rb).setWidth w) ((s.me.readD rd).setWidth w)
    Completes (exec (p.1 rd ra rb a) s) fun t =>
      ∃ u v, WroteReg u rd (if p.2.1 then old.signExtend 64 else old.setWidth 64) 4 t ∧ u = { v with perf := u.perf }
        ∧ (match new with
            | some x => Put s .core s.cur (s.windowOf pa) as (leBytes z x.toNat) v
            | none => v = s)

/-! ## Copies, tokens, phases, snapshots, translation -/

/-- R152, R288, R290: a copy or a reduction whose ranges are mapped joins the copies in progress under its token, whose count goes up by
one, with the phase that the token is bound to; the pc goes on, and no byte has moved yet. One of length 0 only goes on. -/
def Claims.CopyIssue : Prop :=
  ∀ (s : State) (rd ra rb : SReg) (tok : BitVec 3) (sc : Scope) (wait : BitVec 8) (op : RedOp) (ty : RedTy),
    let dst := s.readS rd
    let src := s.readS ra
    let len := s.readS rb
    let cnt := SMap.get 0 s.me.tokcnt tok.toNat
    let bind := SMap.get 0 s.me.tokbind tok.toNat
    let idle (w : BitVec 8) := s.me.waits w = false ∧ cnt ≠ 15
    let mapped (sp dp : List Nat) := s.copyPages .load src.toNat (pagesOf src.toNat len.toNat) = .ok sp
      ∧ s.copyPages .store dst.toNat (pagesOf dst.toNat len.toNat) = .ok dp
    let issued (red : Option (RedOp × RedTy)) (sp dp : List Nat) (n : Nat) (t : State) :=
      ∃ i, s.copy i = none
        ∧ t.copy i = some {
            core := s.cur, user := s.me.user, ctx := s.me.ctxid, dst := dst.toNat, src := src.toNat, len := len.toNat,
            dstPages := dp, srcPages := sp,
            leaves := s.leavesOf s.cur (s.me.ctxid.toNat % 4096) src.toNat len.toNat
              ++ s.leavesOf s.cur (s.me.ctxid.toNat % 4096) dst.toNat len.toNat,
            tok := tok.toNat, sc := sc, bind := (if bind.getLsbD 12 then some (bind.toNat % 4096) else none), red := red, moved := [] }
        ∧ (∀ j, j ≠ i → t.copy j = s.copy j)
        ∧ (∀ k, SMap.get 0 t.me.tokcnt k = if k = tok.toNat then cnt + 1 else SMap.get 0 s.me.tokcnt k)
        ∧ t.me = { s.me with tokcnt := t.me.tokcnt, pc := s.me.pc + BitVec.ofNat 64 n }
        ∧ (∀ j, j ≠ s.cur → t.core j = s.core j) ∧ t = { s with cores := t.cores, copies := t.copies, perf := t.perf }
    (∀ sp dp, len ≠ 0 → len.toNat ≤ 2 ^ 30 → mapped sp dp →
      (idle 0 → Completes (exec (.copy rd ra rb tok sc) s) (issued none sp dp 4))
      ∧ (idle wait → Completes (exec (.copyExt rd ra rb tok sc wait) s) (issued none sp dp 8)
        ∧ (dst.toNat % ty.size = 0 ∧ src.toNat % ty.size = 0 ∧ len.toNat % ty.size = 0 →
          Completes (exec (.copyRed rd ra rb tok sc wait op ty) s) (issued (some (op, ty)) sp dp 8))))
    ∧ (len = 0 →
      (idle 0 → Completes (exec (.copy rd ra rb tok sc) s) (Jumped s (s.me.pc + 4)))
      ∧ (idle wait → Completes (exec (.copyExt rd ra rb tok sc wait) s) (Jumped s (s.me.pc + 8))
        ∧ (dst.toNat % ty.size = 0 ∧ src.toNat % ty.size = 0 →
          Completes (exec (.copyRed rd ra rb tok sc wait op ty) s) (Jumped s (s.me.pc + 8)))))

/-- R152, R156: a copy that has been moved whole completes: first its phase counts one, saturating with PHOVF, then its token's count goes
down by one. -/
def Claims.CopyCompletion : Prop :=
  ∀ (s : State) (i : Nat) (c : Copy), s.copy i = some c → (∀ k < c.parts, k ∈ c.moved) →
    Completes (exec (.copyCompletion i) s) fun t =>
      t.copy i = none ∧ (∀ j, j ≠ i → t.copy j = s.copy j)
      ∧ (∀ k, SMap.get 0 (t.core c.core).tokcnt k =
          if k = c.tok then BitVec.ofNat 4 ((SMap.get 0 (s.core c.core).tokcnt k).toNat - 1) else SMap.get 0 (s.core c.core).tokcnt k)
      ∧ t.core c.core = { s.core c.core with tokcnt := (t.core c.core).tokcnt }
      ∧ (∀ n, c.bind ≠ some n → t.phase n = s.phase n)
      ∧ (∀ n, c.bind = some n → t.phase n = (s.phase n).counted s.gcyc)
      ∧ (∀ j, j ≠ c.core → t.core j = s.core j) ∧ t = { s with cores := t.cores, copies := t.copies, phases := t.phases }

/-- R288, R290: one part of a copy between mapped cells of memory is moved. In a plain copy its destination bytes become its source bytes as
copies see them now (R270, R289); in a reduction of integers they become OP(dest, src), read and written at one place in the order of the
writes to them. Every other byte of memory reads as before. -/
def Claims.CopyPart : Prop :=
  ∀ (s : State) (i k : Nat) (c : Copy), s.copy i = some c → k < c.parts → k ∉ c.moved → s.partHeld c k = false →
    let srcs := s.rangeCells c.srcPages c.src (c.part k).1 (c.part k).2
    let dsts := s.rangeCells c.dstPages c.dst (c.part k).1 (c.part k).2
    let src := srcs.map fun a => a.getD 0
    let dst := dsts.map fun a => a.getD 0
    let t := s.moveGranule i k
    let ws := (List.range (c.part k).2).map fun j => s.windowOf (pagePa c.dstPages c.dst (c.dst + (c.part k).1 + j))
    let bs := src.map (s.see (Via.copy.path (s.rangeWindow c.srcPages c.src (c.part k).1)))
    let moves (out : List Byte) := ∃ x y, OnlyReported s x ∧ Puts x .copy c.core ws dst out y
      ∧ t = { y with copies := t.copies, perf := t.perf } ∧ (∀ j, j ≠ i → t.copy j = s.copy j)
    (∀ a ∈ srcs, a.isSome) → (∀ a ∈ dsts, a.isSome) → dst.Nodup →
    (c.red = none → moves bs)
    ∧ (∀ op ty, c.red = some (op, ty) → ty ∈ [RedTy.i32, .n32, .i64, .n64] → c.overlaps = false →
        let w := 8 * ty.size
        let d := BitVec.ofNat w (leNat (dst.map (s.see (Via.copy.path (s.rangeWindow c.dstPages c.dst (c.part k).1)))))
        let x := BitVec.ofNat w (leNat bs)
        let new : BitVec w := match op with
          | .add => d + x
          | .and => d &&& x
          | .or => d ||| x
          | .xor => d ^^^ x
          | .max => if ty.signed then BitVec.ofInt w (max d.toInt x.toInt) else BitVec.ofNat w (max d.toNat x.toNat)
          | .min => if ty.signed then BitVec.ofInt w (min d.toInt x.toInt) else BitVec.ofNat w (min d.toNat x.toNat)
        moves (leBytes ty.size new.toNat))
    ∧ (∀ a, a ∉ dst → t.readCell a = s.readCell a)
    ∧ t.copy i = some { c with moved := k :: c.moved }

/-- R152, R156, R288, R290: a copy or reduction issues, is moved part by part, and completes. -/
def Obligations.Copies : Prop := Claims.CopyIssue ∧ Claims.CopyCompletion ∧ Claims.CopyPart

/-- R154, R155, R157: the phase forms of an owner or of privileged mode. A `phset` that comes after a `phadd` or a completion of its cycle, or
a `phadd` after a completion of it, waits for the next cycle (the model's reading of R157, log 119). -/
def Claims.PhaseForms : Prop :=
  ∀ (s : State) (rd : DReg) (ra rb : SReg),
    let sel := s.readS ra
    let n := sel.toNat % 4096
    let p := s.phase n
    let sum := (p.cnt.toNat : Int) + (s.readS rb).toInt
    let phaseIs (q : Phase) (t : State) :=
      t.phase n = q ∧ (∀ j, j ≠ n → t.phase j = s.phase j) ∧ t.me = { s.me with pc := s.me.pc + 4 }
      ∧ (∀ j, j ≠ s.cur → t.core j = s.core j) ∧ t = { s with cores := t.cores, phases := t.phases }
    (s.me.priv ∨ p.own.toNat = s.me.ctxid.toNat % 4096) →
    let missed (k : Nat) := k < p.last.1 ∧ p.last.2 = s.gcyc
    let q : Phase := { p with last := (1, s.gcyc) }
    (sel.toNat / 2 ^ 15 = 0 → 2 ≤ sel.toNat / 2 ^ 12 → sel.toNat / 2 ^ 12 ≤ 5 →
      (missed 0 → exec (.phset ra rb) s = .next s)
      ∧ (¬ missed 0 → Completes (exec (.phset ra rb) s) (phaseIs
        ⟨(s.readS rb).setWidth 32, false, BitVec.ofNat 3 (sel.toNat / 2 ^ 12), BitVec.ofNat 12 s.me.ctxid.toNat, 0, s.gcyc⟩)))
    ∧ (sel.toNat / 2 ^ 12 % 16 = 8 → sel.toNat < 2 ^ 20 →
      Completes (exec (.phset ra rb) s) fun t =>
        (∀ k, SMap.get 0 t.me.tokbind k =
          if k = sel.toNat / 2 ^ 16 % 8 then (if sel.getLsbD 19 then BitVec.ofNat 13 (4096 + n) else 0) else SMap.get 0 s.me.tokbind k)
        ∧ t.me = { s.me with tokbind := t.me.tokbind, pc := s.me.pc + 4 }
        ∧ (∀ j, j ≠ s.cur → t.core j = s.core j) ∧ t = { s with cores := t.cores })
    ∧ (sel.toNat < 4096 →
      (missed 1 → exec (.phadd ra rb) s = .next s)
      ∧ (¬ missed 1 → 0 ≤ sum → sum < 2 ^ 32 → Completes (exec (.phadd ra rb) s) (phaseIs { q with cnt := BitVec.ofInt 32 sum }))
      ∧ (¬ missed 1 → sum < 0 → Completes (exec (.phadd ra rb) s) (phaseIs { q with cnt := 0, ovf := true }))
      ∧ (¬ missed 1 → 2 ^ 32 ≤ sum → Completes (exec (.phadd ra rb) s) (phaseIs { q with cnt := 0xFFFFFFFF, ovf := true }))
      ∧ Completes (exec (.phrd rd ra) s) (WroteReg s rd
          (BitVec.ofNat 64 (p.cnt.toNat + 2 ^ 32 * p.ovf.toNat + 2 ^ 33 * p.scope.toNat + 2 ^ 36 * p.own.toNat)) 4))

/-- R154: a selector bit that must be 0, a scope outside 2 to 5, or another owner's phase in user mode, traps with no effect. -/
def Claims.PhaseRefusals : Prop :=
  ∀ (s : State) (rd : DReg) (ra rb : SReg), s.canTrap →
    let sel := (s.readS ra).toNat
    let ill (i : Instr) := Completes (exec i s) (TookTrap s 1 (s.ir.setWidth 64) s.me.pc)
    let denied (i : Instr) := Completes (exec i s) (TookTrap s 6 (BitVec.ofNat 64 (sel % 4096)) s.me.pc)
    let other := ¬ s.me.priv ∧ (s.phase (sel % 4096)).own.toNat ≠ s.me.ctxid.toNat % 4096
    (2 ^ 20 ≤ sel → ill (.phset ra rb))
    ∧ (sel / 2 ^ 15 % 2 = 0 → (sel / 2 ^ 12 % 8 < 2 ∨ 5 < sel / 2 ^ 12 % 8) → ill (.phset ra rb))
    ∧ (4096 ≤ sel → ill (.phadd ra rb) ∧ ill (.phrd rd ra))
    ∧ (other → sel < 4096 → denied (.phadd ra rb) ∧ denied (.phrd rd ra))
    ∧ (other → 2 ^ 13 ≤ sel → sel < 6 * 2 ^ 12 → denied (.phset ra rb))

/-- R154, R155, R157: the phase forms and their refusals. -/
def Obligations.Phases : Prop := Claims.PhaseForms ∧ Claims.PhaseRefusals

/-- R159, R160, R161: `snap` requests a latch at least 256 cycles ahead, or waits while one is pending; the latch copies the counters at the
end of its cycle, and the next cycle begins; `snaprd` reads what was latched, and of a phase that no latch listed its reset. -/
def Obligations.Snapshots : Prop :=
  ∀ (s : State) (rd : DReg) (ra : SReg),
    (s.snappend = true → exec (.snap ra) s = .next s)
    ∧ (s.snappend = false → Completes (exec (.snap ra) s) fun t =>
        t.snappend = true ∧ t.snapat = BitVec.ofNat 64 (max (s.readS ra).toNat (s.gcyc.toNat + 256))
        ∧ t.me = { s.me with pc := s.me.pc + 4 } ∧ (∀ j, j ≠ s.cur → t.core j = s.core j)
        ∧ t = { s with cores := t.cores, snappend := t.snappend, snapat := t.snapat, perf := t.perf })
    ∧ (s.snappend = true → s.snapat.toNat ≤ s.gcyc.toNat →
        Completes (exec .snapshotLatch s) fun t => ∃ u : State,
          u.snappend = false ∧ u.snapseq = s.snapseq + 1 ∧ SMap.get 0 u.snapreg 0 = u.snapseq.setWidth 64
          ∧ SMap.get 0 u.snapreg 1 = s.snapat
          ∧ (∀ k, 0x100 ≤ k → k < 0x400 → ¬ (0x200 ≤ k ∧ k < 0x280 ∧ (k % 16 = 1 ∨ k % 16 = 2)) →
              SMap.get 0 u.snapreg k = BitVec.ofNat 64 ((SMap.get 0 s.perf k).toNat % 2 ^ 48))
          ∧ (∀ k < 16, SMap.get 0 u.snapreg (0x400 + k) = (SMap.get 0 s.serrcnt k).setWidth 64)
          ∧ u = { s with snappend := u.snappend, snapseq := u.snapseq, snapreg := u.snapreg }
          ∧ t = u.tickClock)
    ∧ (¬ (s.snappend = true ∧ s.snapat.toNat ≤ s.gcyc.toNat) → exec .snapshotLatch s = .next s)
    ∧ (let k := (s.readS ra).toNat % 65536
      let dflt : W64 := if 0x2000 ≤ k ∧ k < 0x3000 ∧ s.snapreg ≠ [] then 0x600000000 else 0
      Completes (exec (.snaprd rd ra) s) (WroteReg s rd (SMap.get dflt s.snapreg k) 4))

/-- R212, R214: an invalidation in privileged mode, with no covered work translated before it still to be performed, drops exactly the entries
that it covers, lets the covered stalled streams walk again, and goes on; with such work it drops them and waits, a word that has begun (R91). -/
def Obligations.TlbInvalidation : Prop :=
  ∀ (s : State) (ra rb : SReg), s.me.priv → s.me.inval = none →
    let va := (s.readS ra).toNat
    let c := (s.readS rb).toNat
    let invalidates (i : Instr) (x : TlbSel) (covers : TlbEntry → Bool) :=
      (s.tlbWork x = ([], []) → Completes (exec i s) fun t =>
        t.tlb = s.tlb.filter (fun e => !covers e)
        ∧ t.agus = s.agus.map (fun p =>
            (p.1, if p.2.st = .stalled ∧ s.tlbCovers x p.2.ctx.toNat p.2.failVa then { p.2 with st := .running } else p.2))
        ∧ t.me = { s.me with pc := s.me.pc + 4, begun := none } ∧ (∀ j, j ≠ s.cur → t.core j = s.core j)
        ∧ t = { s with cores := t.cores, tlb := t.tlb, agus := t.agus })
      ∧ (s.tlbWork x ≠ ([], []) → ∃ t, exec i s = .next t
        ∧ t.tlb = s.tlb.filter (fun e => !covers e) ∧ t.me = { s.me with inval := some (s.tlbWork x), begun := some s.ir }
        ∧ (∀ j, j ≠ s.cur → t.core j = s.core j) ∧ t = { s with cores := t.cores, tlb := t.tlb })
    (va < 2 ^ 56 → c < 2 ^ 12 →
      invalidates (.tlbinvPg ra rb) (.page c va) (fun e => decide (e.ctx = c ∧ e.page = va / 2 ^ e.bits)))
    ∧ (c < 2 ^ 12 → invalidates (.tlbinvCx rb) (.ctx c) (fun e => decide (e.ctx = c)))
    ∧ invalidates .tlbinvAll .all (fun _ => true)

/-! ## Launches, stage queues, configuration -/

/-- R171: `qpush` writes its register in the next entry of a stage queue and advances TAIL, or waits while the queue is full; an input that
becomes non-empty is noted with its cycle (R170). `u` is the state after the load of the descriptor, which counts and reports, and with which
every view has caught up on the descriptor (log 95). -/
def Claims.QueuePush : Prop :=
  ∀ (s u : State) (ra rb : SReg) (q : Sqd),
    let a := (s.readS ra).toNat
    s.coreSqd .store a = some (u, q) → q.esize = 8 →
    (q.count = q.cap → exec (.qpush ra rb) s = .next s)
    ∧ (∀ v es ts, q.count ≠ q.cap →
        let x := u.settleAt .store (q.entry q.tail) 8
        x.coreRange .store 2 (q.entry q.tail) 8 = .ok es → es.length = 8 → es.Nodup →
        x.coreStore (q.entry q.tail) (leBytes 8 (s.readS rb).toNat) = .ok v →
        v.coreRange .store 2 (a + 24) 8 = .ok ts → ts.length = 8 → ts.Nodup → (∀ c ∈ es, c ∉ ts) →
        Completes (exec (.qpush ra rb) s) fun t =>
          leNat (es.map t.readCell) = (s.readS rb).toNat
          ∧ leNat (ts.map (t.see (Via.core.path (v.coreWindow .store (a + 24))))) = (q.tail + 1) % 2 ^ 64
          ∧ (∀ c, c ∉ es → c ∉ ts → t.readCell c = u.readCell c)
          ∧ (∀ k, SMap.get none t.fed k = if q.count = 0 ∧ s.sqdCell .store a = some k then some s.gcyc else SMap.get none u.fed k)
          ∧ t.me = { u.me with pc := u.me.pc + 4 } ∧ (∀ j, j ≠ u.cur → t.core j = u.core j)
          ∧ t = { u with cores := t.cores, mem := t.mem, resid := t.resid, lags := t.lags, fed := t.fed, perf := t.perf })

/-- R171: `qpop` reads the oldest entry of a stage queue and advances HEAD, or waits while the queue is empty; `qcount` reads the number of
entries. `u` is the state after the load of the descriptor, as in `QueuePush`. -/
def Claims.QueuePopAndCount : Prop :=
  ∀ (s u : State) (rd : DReg) (ra : SReg) (q : Sqd),
    let a := (s.readS ra).toNat
    (s.coreSqd .load a = some (u, q) → Completes (exec (.qcount rd ra) s) (WroteReg u rd (BitVec.ofNat 64 q.count) 4))
    ∧ (s.coreSqd .store a = some (u, q) → q.esize = 8 →
      (q.count = 0 → exec (.qpop rd ra) s = .next s)
      ∧ (∀ v bs ts, q.count ≠ 0 → u.loadEntry (q.entry q.head) = .ok (v, bs) →
          v.coreRange .store 2 (a + 16) 8 = .ok ts → ts.length = 8 → ts.Nodup →
          Completes (exec (.qpop rd ra) s) fun t =>
            leNat (ts.map (t.see (Via.core.path (v.coreWindow .store (a + 16))))) = (q.head + 1) % 2 ^ 64
            ∧ (∀ x, x ∉ ts → t.readCell x = v.readCell x)
            ∧ (∀ k, SMap.get none t.fed k = if q.count = 1 ∧ s.sqdCell .store a = some k then none else SMap.get none v.fed k)
            ∧ ∃ w, w.cores = v.cores ∧ WroteReg w rd (BitVec.ofNat 64 (leNat bs)) 4 t
              ∧ w = { v with mem := w.mem, resid := w.resid, lags := w.lags, fed := w.fed, perf := w.perf }))

/-- R171: `qpush`, `qpop` and `qcount`. -/
def Obligations.StageQueueForms : Prop := Claims.QueuePush ∧ Claims.QueuePopAndCount

/-- R168: `launch` appends the 64-byte record at rb to an enabled device-fed queue of its own context, or of any in privileged mode, and
moves TAILIX; it waits while the queue is full, and takes the data access fault on a queue it may not use, and the misaligned-access fault
where its record lies in the dispatcher window (R275). -/
def Obligations.Launches : Prop :=
  ∀ (s : State) (ra rb : SReg),
    let n := (s.readS ra).toNat
    let b := s.readS rb
    let q := s.queue n
    let open_ := n < 262144 ∧ q.en = true ∧ q.dev = true ∧ q.usable = true
    let mine := s.me.priv ∨ q.ctx.toNat = s.me.ctxid.toNat % 4096
    (¬ (open_ ∧ mine) → s.canTrap → Completes (exec (.launch ra rb) s) (TookTrap s 6 b s.me.pc))
    ∧ (open_ → mine → b.toNat % 64 = 0 →
      (q.count = q.entries → exec (.launch ra rb) s = .next s)
      ∧ (∀ off, q.count ≠ q.entries → s.windowAt .load b.toNat 64 = some off → s.canTrap →
          Completes (exec (.launch ra rb) s) (TookTrap s 7 b s.me.pc))
      ∧ (∀ u v bs, q.count ≠ q.entries → s.windowAt .load b.toNat 64 = none → s.coreLoad b.toNat 64 = .ok (u, bs) →
          u.ctxWrite q.ctx.toNat (q.slot q.tailix.toNat) bs = some v →
          Completes (exec (.launch ra rb) s) fun t =>
            t.queue n = { q with tailix := q.tailix + 1, ages := q.ages ++ [(q.tailix + 1, s.gcyc)] }
            ∧ (∀ j, j ≠ n → t.queue j = s.queue j)
            ∧ t.me = { v.me with pc := v.me.pc + 4 } ∧ (∀ j, j ≠ v.cur → t.core j = v.core j)
            ∧ t = { v with cores := t.cores, queues := t.queues, perf := t.perf }))

/-- R233: `ctxload` on a resident region that is not between a RECONF row and its start pulse stages its slots into the entries of the
rectangle that are not LIVE; every other entry and everything else of an element stays. On one that is, it waits. -/
def Obligations.ContextLoad : Prop :=
  ∀ (s u v : State) (ra rb : SReg) (td img : List Byte) (g : Nat) (c : CtxTarget),
    let a := (s.readS ra).toNat
    let b := (s.readS rb).toNat
    let r := u.region g
    let slot (x y j : Nat) : W64 := BitVec.ofNat 64 (leAt img (8 * ((if c.per then c.count * (y * c.w + x) else 0) + j)) 8)
    let elem (x y : Nat) := regionElem g (c.y0 + y) (c.x0 + x)
    a % 8 = 0 → b % 16 = 0 → s.Gets b 16 u td → u.targetRegion td = some g → ctxTargetOf td 8 = some c →
    c.x0 + c.w ≤ 4 * r.w → c.y0 + c.h ≤ 4 * r.h → r.w ≤ 16 → u.mayConfigure g = true →
    u.Gets a (8 * c.slots) v img → (∀ k < c.slots, slotOk (leAt img (8 * k) 8) = true) → v.me.await = none →
    (r.switches = true →
      exec (.ctxload ra rb) s = .next (v.setMe { v.me with await := some ((v.load (v.region g).load).serial, false) }))
    ∧ (r.switches = false → Completes (exec (.ctxload ra rb) s) fun t =>
      (∀ x < c.w, ∀ y < c.h, ∀ j < c.count,
        t.entryAt (elem x y) (c.first + j) =
          if (v.entryAt (elem x y) (c.first + j)).st = .live then v.entryAt (elem x y) (c.first + j)
          else if (slot x y j).getLsbD 44 then ⟨.staged, slot x y j⟩ else ⟨.empty, 0⟩)
      ∧ (∀ e j, (∀ x < c.w, ∀ y < c.h, e = elem x y → j < c.first ∨ c.first + c.count ≤ j) → t.entryAt e j = v.entryAt e j)
      ∧ (∀ e, t.elem e = { v.elem e with ctx := (t.elem e).ctx })
      ∧ Passed v 4 t ∧ t = { v with cores := t.cores, elems := t.elems })

/-- R252: `rtload` at a tile-task boundary writes its rule entries into the elements of the rectangle and nothing else; before the boundary
it waits, and the start pulse waits for it; once the load is being torn down, it takes the configuration fault. -/
def Claims.RuleTableLoad : Prop :=
  ∀ (s u v : State) (ra rb : SReg) (td img : List Byte) (g : Nat) (c : RuleTarget),
    let a := (s.readS ra).toNat
    let b := (s.readS rb).toNat
    let r := u.region g
    let val (x y j : Nat) : W16 := BitVec.ofNat 16 (leAt img (2 * ((if c.per then c.count * (y * c.w + x) else 0) + j)) 2)
    let elem (x y : Nat) := regionElem g (c.y0 + y) (c.x0 + x)
    let ruleAt (w : State) (e k : Nat) : W16 := SMap.get 0 (w.elem e).rules k
    a % 2 = 0 → b % 32 = 0 → s.Gets b 32 u td → u.targetRegion td = some g → ruleTargetOf td = some c →
    c.x0 + c.w ≤ 4 * r.w → c.y0 + c.h ≤ 4 * r.h → r.w ≤ 16 → u.mayConfigure g = true →
    u.Gets a (2 * c.size) v img → v.me.await = none →
    let torn := (v.load (v.region g).load).stop = 10
    (torn → v.canTrap → Completes (exec (.rtload ra rb) s) (TookTrap v 8 (s.readS rb) v.me.pc))
    ∧ (¬ torn → ¬ v.between g →
      exec (.rtload ra rb) s = .next (v.setMe { v.me with await := some ((v.load (v.region g).load).serial, true) }))
    ∧ (¬ torn → v.between g → Completes (exec (.rtload ra rb) s) fun t =>
        (∀ x < c.w, ∀ y < c.h, ∀ j < c.count, ruleAt t (elem x y) (1024 * c.table + c.first + j) = val x y j)
        ∧ (∀ e k, (∀ x < c.w, ∀ y < c.h, e = elem x y → k < 1024 * c.table + c.first ∨ 1024 * c.table + c.first + c.count ≤ k) →
            ruleAt t e k = ruleAt v e k)
        ∧ (∀ e, t.elem e = { v.elem e with rules := (t.elem e).rules })
        ∧ Passed v 4 t ∧ t = { v with cores := t.cores, elems := t.elems })

/-- R254: `palload` at a tile-task boundary writes the masked palette entries, and the LQ8 table where LQV = 1, into its region. -/
def Claims.PaletteLoad : Prop :=
  ∀ (s u v x : State) (ra rb : SReg) (td hd img : List Byte) (g : Nat),
    let a := (s.readS ra).toNat
    let b := (s.readS rb).toNat
    let w := if palSize hd = 64 then v else x
    a % 16 = 0 → b % 16 = 0 → s.Gets b 16 u td → u.targetRegion td = some g → zeroAt td 8 8 = true → u.mayConfigure g = true →
    u.Gets a 64 v hd → palOffender hd = none → v.Gets a (palSize hd) x img → w.me.await = none →
    w.between g → (w.load (w.region g).load).stop ≠ 10 →
    Completes (exec (.palload ra rb) s) fun t =>
      (∀ k, SMap.get 0 (t.region g).pal k =
        if k < 8 ∧ (leAt img 32 1).testBit k then BitVec.ofNat 32 (leAt img (4 * k) 4) else SMap.get 0 (w.region g).pal k)
      ∧ (∀ k < 256, SMap.get 0 (t.region g).lq8 k =
        if (leAt img 33 1).testBit 0 then BitVec.ofNat 16 (leAt img (64 + 2 * k) 2) else SMap.get 0 (w.region g).lq8 k)
      ∧ t.region g = { w.region g with pal := (t.region g).pal, lq8 := (t.region g).lq8 }
      ∧ (∀ h, h ≠ g → t.region h = w.region h) ∧ Passed w 4 t ∧ t = { w with cores := t.cores, regions := t.regions }

/-- R256: an `ownload` that no rule refuses, with no sample of its tiles under way, writes the ownership entries of its range, empties their
reorder windows, sets NEXTSEQ, and claims the table for its context or frees it. With one under way it claims the table and waits. -/
def Claims.OwnershipLoad : Prop :=
  ∀ (s u v : State) (ra rb : SReg) (d eb : List Byte),
    let a := (s.readS ra).toNat
    let b := (s.readS rb).toNat
    let first := leAt d 0 2
    let n := leAt d 2 2 + 1
    let owned := s.otctx.getLsbD 12
    let ctx := s.me.ctxid.toNat % 4096
    a % 4 = 0 → b % 16 = 0 → s.Gets b 16 u d → u.otctx = s.otctx → u.me = s.me → u.Gets a (4 * n) v eb →
    v.otctx = s.otctx → v.me = s.me →
    (s.me.priv ∨ (owned = true ∧ s.otctx.toNat % 4096 = ctx) ∨ (owned = false ∧ (leAt d 8 1).testBit 0)) →
    ownOffender d = none → v.ownEntryOffender first (wordsAt eb 0 n) = none →
    (v.samplesUnderWay first n = true →
      exec (.ownload ra rb) s = .next { v with otctx := if owned then s.otctx else BitVec.ofNat 13 (4096 + ctx) })
    ∧ (v.samplesUnderWay first n = false → Completes (exec (.ownload ra rb) s) fun t =>
      (∀ k, SMap.get 0 t.own k = if first ≤ k ∧ k < first + n then BitVec.ofNat 32 (leAt eb (4 * (k - first)) 4) else SMap.get 0 v.own k)
      ∧ (∀ k, SMap.get 0 t.nextseq k = if first ≤ k ∧ k < first + n then BitVec.ofNat 32 (leAt d 4 4) else SMap.get 0 v.nextseq k)
      ∧ (∀ k, SMap.get [] t.windows k = if first ≤ k ∧ k < first + n then [] else SMap.get [] v.windows k)
      ∧ t.otctx.getLsbD 12 = !(leAt d 8 1).testBit 1
      ∧ t.otctx.toNat % 4096 = (if owned then s.otctx.toNat % 4096 else ctx)
      ∧ Passed v 4 t
      ∧ t = { v with cores := t.cores, own := t.own, nextseq := t.nextseq, windows := t.windows, otctx := t.otctx })

/-- R252, R254, R256: `rtload`, `palload` and `ownload`. -/
def Obligations.TableLoads : Prop := Claims.RuleTableLoad ∧ Claims.PaletteLoad ∧ Claims.OwnershipLoad

/-! ## Streams -/

/-- R71, R196, R197, R198: `sbind` gives an attached idle AGU of the core's die its A-word, or takes the stream fault; `sgo` queues a bound one
behind the live streams of its port with its constants latched; `sbar` goes on once no named stream is live. The die of a supervisor (log 108)
and an `sgo` of an AGU whose load has ended (log 114) are the model's choices. -/
def Obligations.StreamWords : Prop :=
  ∀ (s : State) (ra rb : SReg),
    let n := (s.readS rb).toNat
    let i := 64 * (if s.cur < 128 then s.cur / 16 else s.cur - 128) + n
    let m := (s.readS ra).toNat
    let j := 64 * (if s.cur < 128 then s.cur / 16 else s.cur - 128) + m
    (∀ u bs, n < 64 → m % 16 = 0 → s.Gets m 16 u bs →
      let x := { s.agu i with aword := BitVec.ofNat 128 (leNat bs), st := .bound }
      let fine := x.wordOk = true ∧ s.aguPlaced x = true ∧ (s.me.priv ∨ (s.agu i).ctx.toNat = s.me.ctxid.toNat % 4096)
      (fine → (s.agu i).st.live = false → Completes (exec (.sbind ra rb) s) fun t =>
        t.agu i = x ∧ (∀ k, k ≠ i → t.agu k = u.agu k) ∧ Passed u 4 t ∧ t = { u with cores := t.cores, agus := t.agus })
      ∧ (fine → (s.agu i).st.live = true → exec (.sbind ra rb) s = .next s)
      ∧ (¬ fine → u.canTrap → Completes (exec (.sbind ra rb) s) (TookTrap u 9 (s.readS ra) u.me.pc)))
    ∧ (let a := s.agu j
      let b := { a with args := s.bankArgs a }
      m < 64 → a.st = .bound → a.op ≠ opShadow → a.arg + a.entriesUsed ≤ 256 → b.opOk none = true →
      Completes (exec (.sgo ra) s) fun t =>
        (t.agu j).st = .queued ∧ (t.agu j).aword = a.aword ∧ (t.agu j).attach = a.attach ∧ (t.agu j).ctx = a.ctx
        ∧ (t.agu j).issuer = s.cur ∧ (t.agu j).user = s.me.user ∧ (t.agu j).run = a.run + 1
        ∧ (∀ l g, a.attach = some (l, g) →
          (∀ k < a.entriesUsed, k < 4 → (t.agu j).argWord k = SMap.get 0 (s.tile g).kbank (a.arg + k))
          ∧ (t.agu j).place = (((s.agus.map (·.1)).eraseDups).filter fun k =>
            (s.agu k).st.live && (s.agu k).attach.elim false (fun y => y.2 == g) && (s.agu k).port == a.port).length)
        ∧ (a.attach = none → (t.agu j).place = 0)
        ∧ (t.agu j).i0 = 0 ∧ (t.agu j).i1 = 0 ∧ (t.agu j).i2 = 0 ∧ (t.agu j).entries = 0 ∧ (t.agu j).done = false
        ∧ (∀ k, k ≠ j → t.agu k = s.agu k) ∧ Passed s 4 t ∧ t = { s with cores := t.cores, agus := t.agus })
    ∧ (m < 64 → (s.agu j).st ≠ .bound → s.canTrap →
        Completes (exec (.sgo ra) s) (TookTrap s 9 (BitVec.ofNat 64 (s.agu j).base) s.me.pc))
    ∧ ((∀ k < 64, m.testBit k → (s.agu (j - m + k)).st.live = false) → Completes (exec (.sbar ra) s) (Jumped s (s.me.pc + 4)))
    ∧ ((∃ k < 64, m.testBit k ∧ (s.agu (j - m + k)).st.live = true) → exec (.sbar ra) s = .next s)

/-- R197: the first queued stream of a port starts; one that has delivered everything completes, is bound again, and those behind it on its
port move up. -/
def Claims.StreamLifecycle : Prop :=
  ∀ (s : State) (i : Nat),
    let a := s.agu i
    (a.st = .queued → a.place = 0 → a.attach.isSome → Completes (exec (.streamStart i) s) fun t =>
      t.agu i = { a with st := .running } ∧ (∀ k, k ≠ i → t.agu k = s.agu k) ∧ t = { s with agus := t.agus })
    ∧ (∀ l g, a.st = .running → a.done = true → a.closed = true → a.bytes = [] → a.attach = some (l, g) →
      Completes (exec (.streamCompletion i) s) fun t =>
        t.agu i = { a with st := .bound, bytes := [], poison := [] }
        ∧ (∀ k, k ≠ i → t.agu k =
          if (s.agu k).st.live && (s.agu k).attach.elim false (fun y => y.2 == g) && (s.agu k).port == a.port then
            { s.agu k with place := (s.agu k).place - 1 } else s.agu k)
        ∧ t = { s with agus := t.agus })

/-- R199: a running stream without an operator into the fabric reads its next element at its address, as the windows of its path show it
(R270), and joins it to the bytes that fill
its next port entry; after the last one zeros fill the entry, and one more where their number is odd. A stream that has 64 bytes fills a free
entry of its port. -/
def Claims.StreamRead : Prop :=
  ∀ (s : State) (i : Nat),
    let a := s.agu i
    let more := a.i0 + 1 < a.count0 ∨ a.i1 + 1 < a.count1 ∨ a.i2 + 1 < a.count2
    let joined (bs : List Byte) (bad : Bool) (u : State) :=
      a.Stepped (u.agu i) ∧ ∃ n,
        u.agu i = { a with
          bytes := a.bytes ++ bs ++ List.replicate n 0, poison := a.poison ++ List.replicate bs.length bad ++ List.replicate n false,
          i0 := (u.agu i).i0, i1 := (u.agu i).i1, i2 := (u.agu i).i2, done := (u.agu i).done, closed := (u.agu i).closed }
        ∧ (more → n = 0 ∧ (u.agu i).done = false ∧ (u.agu i).closed = a.closed)
        ∧ (¬ more → n < 128 ∧ (u.agu i).done = true ∧ (u.agu i).closed = true ∧ (u.agu i).bytes.length % 64 = 0
            ∧ (a.entries + (u.agu i).bytes.length / 64) % 2 = 0)
    a.st = .running → a.op = opNone → a.outward = false → a.span = none → s.streamStalled i a = false →
    (∀ t bs bad, a.bytes.length < 64 → a.done = false → s.streamRead i a a.addr a.esize = .ok (t, bs, bad) →
        Completes (exec (.streamElementAccess i) s) fun u =>
          joined bs bad u ∧ (∀ k, k ≠ i → u.agu k = t.agu k) ∧ u = { t with agus := u.agus })
    ∧ (∀ ws as, a.bytes.length < 64 → a.done = false → a.bt = false →
        s.StreamCells i a .load a.addr a.esize (fun pa m _ => s.badPa (cellRun pa m) = none) ws as →
        Completes (exec (.streamElementAccess i) s) fun u =>
          joined ((ws.zip as).map fun p => s.see (Via.stream.path p.1) p.2) false u ∧ (∀ k, k ≠ i → u.agu k = s.agu k) ∧ u = { s with agus := u.agus, perf := u.perf })
    ∧ (∀ l g, a.attach = some (l, g) → 64 ≤ a.bytes.length → (s.region g).isStopped = false → ((s.region g).queue a.port).length < 2 →
        Completes (exec (.streamElementAccess i) s) fun u =>
          (∃ e : PEntry, e.data = a.bytes.take 64 ∧ (∀ w < 16, e.poison.getLsbD w = ((a.poison.drop (4 * w)).take 4).any id)
            ∧ (u.region g).queue a.port = (s.region g).queue a.port ++ [e])
          ∧ (∀ p, p ≠ a.port → (u.region g).queue p = (s.region g).queue p)
          ∧ u.region g = { s.region g with ports := (u.region g).ports } ∧ (∀ h, h ≠ g → u.region h = s.region h)
          ∧ u.agu i = { a with bytes := a.bytes.drop 64, poison := a.poison.drop 64, entries := a.entries + 1 }
          ∧ (∀ k, k ≠ i → u.agu k = s.agu k) ∧ u = { s with agus := u.agus, regions := u.regions })

/-- R199, R219: a running stream without an operator out of the fabric takes the next entry that its region has released for its port, and
writes its next element once it has the bytes: through the page tables, or with BT = 1 in the hot slot of an unshared LIVE block; every other
byte of memory reads as before. -/
def Claims.StreamWrite : Prop :=
  ∀ (s : State) (i : Nat),
    let a := s.agu i
    let bs := a.bytes.take a.esize
    a.st = .running → a.op = opNone → a.outward = true → a.span = none → a.done = false → s.streamStalled i a = false →
    (∀ l g es rest, a.attach = some (l, g) → a.bytes.length < a.esize → (s.region g).scanned = false →
        takeEntry a.port (s.region g).released = some (es, rest) →
        Completes (exec (.streamElementAccess i) s) fun u =>
          u.region g = { s.region g with released := rest } ∧ (∀ h, h ≠ g → u.region h = s.region h)
          ∧ u.agu i = { a with bytes := a.bytes ++ es } ∧ (∀ k, k ≠ i → u.agu k = s.agu k)
          ∧ u = { s with agus := u.agus, regions := u.regions })
    ∧ (∀ ws as, a.esize ≤ a.bytes.length → a.bt = false →
        s.StreamCells i a .store a.addr a.esize (fun _ _ _ => True) ws as → as.Nodup →
        Completes (exec (.streamElementAccess i) s) (WroteElement s i ws as bs))
    ∧ (∀ k as, a.esize ≤ a.bytes.length → a.bt = true → a.addr % 16 + a.esize ≤ 16 → s.kvAt a.ctx.toNat a.addr = some k →
        (s.pbe k.b k.i).st = 1 → (s.pbe k.b k.i).ref = 1 → s.cells (k.b.hotSlot k.i + k.off) a.esize = some as → as.Nodup →
        Completes (exec (.streamElementAccess i) s)
          (WroteElement s i ((List.range a.esize).map fun j => s.windowOf (k.b.hotSlot k.i + k.off + j)) as bs))

/-- R193: an input port with a free place takes the oldest entry of its stage queue; an output port's first released entry joins its
stage queue. The entry arrives clean. That the link controller pops and pushes with the dispatcher's rights is the model's choice (log 60). -/
def Claims.QueueBoundPorts : Prop :=
  ∀ (s t : State) (g p : Nat) (q : W64) (bs : List Byte) (e : PEntry),
    let r := s.region g
    (r.bind p = .input q → r.holds = true → r.isStopped = false → (r.queue p).length < 2 →
      s.popQueue dispParty r.ctx.toNat false q.toNat 64 = .ok (t, e) →
      Completes (exec (.portQueueFill g p) s) fun u =>
        e.poison = 0 ∧ (u.region g).queue p = r.queue p ++ [e] ∧ (∀ o, o ≠ p → (u.region g).queue o = r.queue o)
        ∧ u.region g = { r with ports := (u.region g).ports } ∧ (∀ h, h ≠ g → u.region h = t.region h)
        ∧ u = { t with regions := u.regions })
    ∧ (∀ rest, r.bind p = .output q → r.scanned = false → takeEntry p r.released = some (bs, rest) →
      s.pushQueue dispParty r.ctx.toNat false q.toNat bs = .ok t →
      Completes (exec (.portQueuePush g p) s) fun u =>
        u.region g = { r with released := rest } ∧ (∀ h, h ≠ g → u.region h = t.region h) ∧ u = { t with regions := u.regions })

/-- R193, R197: how a stream starts and completes, and how a port bound to a stage queue moves entries, with the rights that log 60
chooses. -/
def Obligations.StreamsAndPorts : Prop := Claims.StreamLifecycle ∧ Claims.QueueBoundPorts

/-- R223: the shared block that an outward stream's next write meets is copied and remapped (`CopiedBlock`), with what the lookup read reported,
the write is performed where the table then leads, and one copy on write is counted; that it is counted on the die of the stream's AGU is the
model's choice (log 104). With no free block the stream takes a translation fault (R213). -/
def Claims.CopyOnWrite : Prop :=
  ∀ (s : State) (i : Nat) (k : KvAt),
    let a := s.agu i
    let bs := a.outBytes
    let n := 0x200 + 16 * (i / 64)
    let free := k.b.empty = false ∧ 1 ≤ k.b.free ∧ k.b.head < k.b.npool
    a.st = .running → a.outward = true → a.bt = true → a.done = false → a.esize ≤ a.bytes.length → s.streamStalled i a = false →
    s.aim i a (bs.length / 16 + 2) a.addr bs.length = .share k →
    (free → Completes (exec (.copyOnWrite i) s) fun u =>
      ∃ w t v, OnlyReported s w ∧ CopiedBlock w a.ctx.toNat k t ∧ v = t.writeElement i a a.addr bs
        ∧ SMap.get 0 u.perf (n + 5) = SMap.get 0 v.perf (n + 5) + 1 ∧ (∀ m, m ≠ n + 5 → SMap.get 0 u.perf m = SMap.get 0 v.perf m)
        ∧ u = { v with perf := u.perf })
    ∧ (¬ free → (s.pbe k.b k.i).st ≠ 2 → s.streamHeld i a a.addr = none → Completes (exec (.copyOnWrite i) s) fun u =>
        u.agu i = { a with st := .stalled, failVa := a.addr % 2 ^ 56 } ∧ (∀ j, j ≠ i → u.agu j = s.agu j)
        ∧ (SMap.get none (s.core a.issuer).pend 0x101 = none →
            SMap.get none (u.core a.issuer).pend 0x101 = some (BitVec.ofNat 64 (i % 64 * 2 ^ 56 + a.addr % 2 ^ 56)))
        ∧ ∃ v, OnlyReported s v ∧ u = { v with agus := u.agus, cores := u.cores, perf := u.perf })

/-- R199, R219: where a stream's write reaches cells, its element is written there, each byte through its window, and every other byte of
memory reads as before. -/
def Claims.ElementWrite : Prop :=
  ∀ (s t v : State) (i : Nat) (bs : List Byte) (va : Nat) (pas as : List Nat),
    let a := s.agu i
    a.reduces = false → t = s.streamWalk i a va bs.length → t.aim i a (bs.length / 16 + 2) va bs.length = .cells v pas →
    pas.mapM s.canon = some as → as.length = bs.length →
    let u := s.writeAt i a va bs
    (∀ c, c ∉ as → u.readCell c = v.readCell c)
    ∧ ∃ w x, OnlyReported v w ∧ (as.Nodup → Puts w .stream a.issuer (pas.map v.windowOf) as bs x)
      ∧ x = { w with mem := x.mem, resid := x.resid, lags := x.lags } ∧ u = { x with agus := u.agus, perf := u.perf }

/-- R199, R219, R223: the accesses of streams. -/
def Obligations.StreamAccesses : Prop := Claims.StreamRead ∧ Claims.StreamWrite ∧ Claims.ElementWrite ∧ Claims.CopyOnWrite

/-! ## Element words -/

/-- R116-R122: the integer and logical words, at every destination; no flag, and no fault but a stage-out's escape. -/
def Obligations.IntegerWords : Prop :=
  ∀ (s : State) (w : EArgs),
    (∀ p ∈ intTable1, Completes (exec (p.1 w) s) (s.Lands w (s.of1 .int w fun a => (p.2 a, 0))))
    ∧ (∀ p ∈ intTable2, Completes (exec (p.1 w) s) (s.Lands w (s.of2 .int w fun a b => (p.2 a b, 0))))
    ∧ (∀ p ∈ intTable3, Completes (exec (p.1 w) s) (s.Lands w (s.of3 .int w fun a b c => (p.2 a b c, 0))))

/-- R120, R123-R128: the floating-point words and the conversions: exact results rounded once, flags, and the faults that FPTEN
enables. -/
def Obligations.FloatWords : Prop :=
  ∀ (s : State) (w : EArgs),
    (∀ p ∈ fpTable1, Completes (exec (p.1 w) s) (s.Lands w (s.of1 p.2.1 w p.2.2)))
    ∧ (∀ p ∈ fpTable2, Completes (exec (p.1 w) s) (s.Lands w (s.of2 .f32 w p.2)))
    ∧ (∀ p ∈ fpTable3, Completes (exec (p.1 w) s) (s.Lands w (s.of3 .f32 w p.2)))
    ∧ (∀ p ∈ halfTable2, Completes (exec (p.1 w) s)
        (s.Lands w (s.of2 (.halves p.2.1) w fun a b => onHalves (fun x y _ => p.2.1.op2 p.2.2 x y) a b 0)))
    ∧ (∀ p ∈ halfTable3, Completes (exec (p.1 w) s) (s.Lands w (s.of3 (.halves p.2) w (onHalves (p.2.op3 FVal.fma)))))
    ∧ (∀ p ∈ narrowTable, Completes (exec (p.1 w) s) (s.Lands w fun i =>
        let a := s.src .f32 w.a i
        let c := s.src .f32 w.c i
        let y := convertBits fmtF32 p.2.1 p.2.2 a.1.toNat
        let lo := p.2.1.width * w.b.raw
        s.laneRes (maskOf fun j => if lo ≤ j ∧ j < lo + p.2.1.width then y.1.testBit (j - lo) else c.1.getLsbD j, y.2) (a.2 || c.2)))
    ∧ (∀ p ∈ widenTable, Completes (exec (p.1 w) s) (s.Lands w (s.of1 .f32 w fun a =>
        onF32 (convertBits p.2 fmtF32 false (a.toNat / 2 ^ (p.2.width * w.b.raw) % 2 ^ p.2.width)))))

/-- R39, R45-R47: every result is the nearest value of its format, ties to the even pattern, and too large a magnitude overflows; the flags tell
which; an exact zero has the sign that round-to-nearest gives it. -/
def Obligations.FloatRounding : Prop :=
  ∀ p ∈ roundTable, ∀ a b c : Nat,
    let f := p.1
    let A := f.decode a
    let B := f.decode b
    let C := f.decode c
    let signs (x y : FVal) := x.sign != y.sign
    let sums (v : ℝ) (z : Bool) (r : Nat × Flags) :=
      (v ≠ 0 → p.Rounded false (decide (v < 0)) |v| r) ∧ (v = 0 → r = (f.signBit z, 0))
    (∀ sat neg (m : Nat) (e : Int), p.Rounded sat neg ((m : ℝ) * 2 ^ e) (f.round sat (.fin neg m e)))
    ∧ (A.finite = true → B.finite = true →
      sums (A.real + B.real) (A.sign && B.sign) (f.addBits a b)
      ∧ sums (A.real - B.real) (A.sign && !B.sign) (f.subBits a b)
      ∧ p.Rounded false (signs A B) |A.real * B.real| (f.mulBits a b)
      ∧ (B.real ≠ 0 → p.Rounded false (signs A B) |A.real / B.real| (f.divBits a b))
      ∧ (C.finite = true →
        sums (A.real * B.real + C.real) (signs A B && C.sign) (f.fmaBits a b c)
        ∧ sums (C.real - A.real * B.real) (!signs A B && C.sign) (f.fnmaBits a b c)))
    ∧ (A.finite = true → 0 < A.real → p.Rounded false false (Real.sqrt A.real) (f.sqrtBits a))

/-- R129-R131: select, the compares and the mask words. -/
def Obligations.CompareAndMaskWords : Prop :=
  ∀ (s : State) (w : EArgs),
    (∀ p ∈ cmpTable, Completes (exec (p.1 w) s) (s.Lands w (s.of2 .int w fun a b => (bitLane (p.2 a b), 0))))
    ∧ (∀ p ∈ cmpFTable, Completes (exec (p.1 w) s) (s.Lands w (s.of2 .f32 w fun a b =>
        let x := fmtF32.decode a.toNat
        let y := fmtF32.decode b.toNat
        (bitLane (p.2.1 (x.cmp y)), if x.isSig || y.isSig || (p.2.2 && (x.isNaN || y.isNaN)) then 16 else 0))))
    ∧ (∀ p ∈ maskTable, Completes (exec (p.1 w) s) (s.Lands w fun i =>
        ⟨bitLane ((p.2 (s.src .int w.a i).1 (s.src .int w.b i).1).getLsbD i),
          (s.srcMaskP w.a).getLsbD i || (s.srcMaskP w.b).getLsbD i, 0, 0⟩))
    ∧ Completes (exec (.mlane w) s) (s.Lands w fun i =>
        ⟨bitLane (decide (min (s.src .int w.a 0).1.toNat 31 ≤ i ∧ i ≤ min (s.src .int w.b 0).1.toNat 31)),
          (s.src .int w.a 0).2 || (s.src .int w.b 0).2, 0, 0⟩)
    ∧ Completes (exec (.eSel w) s) (s.Lands w fun i =>
        let r := if (s.src .int w.a i).1.getLsbD i then s.src .int w.b i else s.src .int w.c i
        ⟨r.1, r.2 || (s.srcMaskP w.a).getLsbD i, 0, 0⟩)

/-- R117, R132-R134: `mov` of every kind of source, and the special words. -/
def Obligations.SpecialWords : Prop :=
  ∀ (s : State) (w : EArgs),
    let e := s.myElem
    let x := s.site.el % 64
    let y := s.site.el % 2048 / 64
    let num (val : Nat → W32) : Nat → LaneRes := fun i => ⟨val i, false, 0, 0⟩
    let acts := s.site.null = false ∧ s.site.squashed = false ∧ e.estat.getLsbD 7 = false
    (∀ n, w.a = .v n → Completes (exec (.eMov w) s)
        (s.Lands w fun i => ⟨SMap.get 0 e.v (32 * n.toNat + i), (SMap.get 0 e.vp n.toNat).getLsbD i, 0, 0⟩))
    ∧ (∀ n, w.a = .s n → Completes (exec (.eMov w) s) (s.Lands w fun _ => ⟨SMap.get 0 e.s n.toNat, SMap.get false e.sp n.toNat, 0, 0⟩))
    ∧ (∀ n, w.a = .k n → Completes (exec (.eMov w) s) (s.Lands w
        (num fun _ => SMap.get 0 (s.tile s.myTile).kbank (64 * (e.estat.toNat / 32 % 4) + n.toNat))))
    ∧ (∀ n, w.a = .lit n → Completes (exec (.eMov w) s) (s.Lands w (num fun _ => BitVec.ofInt 32 n.toInt)))
    ∧ Completes (exec (.eNop w) s) (s.Sends [noEffect])
    ∧ (∀ n : BitVec 6, w.a = .lit n → n.toNat < 4 → Completes (exec (.lane w) s) (s.Lands w (num fun i => BitVec.ofNat 32
        (match n.toNat with
          | 0 => i
          | 1 => x - 4 * (s.site.g % 16)
          | 2 => y - 4 * (s.site.g % 128 / 16)
          | _ => x % 4 + 4 * (y % 4)))))
    ∧ (s.myRegion.span = none → Completes (exec (.iter w) s) (s.Lands w (num fun _ => 0)))
    ∧ (s.myRegion.span ≠ none → Completes (exec (.iter w) s)
        (s.Lands w (num fun _ => BitVec.ofInt 32 ((s.myRegion.itern : Int) - 1 - s.site.tag))))
    ∧ Completes (exec (.rdst w) s) (s.Lands w (num fun _ => e.estat))
    ∧ (acts → Completes (exec (.clrst w) s) (s.Sends [(4, .clrst, 0, none)]))
    ∧ (acts → Completes (exec (.kbsel w) s) (s.Sends [(4, .kbsel (BitVec.ofNat 2 w.a.raw), 0, none)]))
    ∧ (¬ acts → Completes (exec (.clrst w) s) (s.Sends [noEffect]) ∧ Completes (exec (.kbsel w) s) (s.Sends [noEffect])
        ∧ Completes (exec (.exitf w) s) (s.Sends [noEffect]))
    ∧ (acts → s.srcMaskP w.a = 0 → Completes (exec (.exitf w) s)
        (s.Sends [if (s.src .int w.a 0).1 ≠ 0 then (4, .exitf s.site.iter, 0, none) else noEffect]))
    ∧ (∀ l < 32, acts → (s.srcMaskP w.a).getLsbD l = true → (∀ k < l, (s.srcMaskP w.a).getLsbD k = false) →
        Completes (exec (.exitf w) s) (s.Sends [(4, .nothing, 0, some (6, l))]))

/-- R188, R192: `lrecv` and `stin` empty the slot, or pop the port, as they issue, and land its lanes; `lpoll` only looks. -/
def Obligations.ReceiveWords : Prop :=
  ∀ (s : State) (w : EArgs) (n : BitVec 6), w.a = .lit n →
    let d := n.toNat / 2
    let k := s.myElem.slot d
    let zero : Nat → LaneRes := fun _ => ⟨0, false, 0, 0⟩
    Completes (exec (.lpoll w) s) (s.Lands w fun _ => ⟨if k.full then 1 else 0, false, 0, 0⟩)
    ∧ (s.active w.pred = 0 → Completes (exec (.lrecv w) s) (s.Lands w zero) ∧ Completes (exec (.stin w) s) (s.Lands w zero)
        ∧ Completes (exec (.rrecv w) s) (s.Lands w zero))
    ∧ (s.active w.pred ≠ 0 → k.full = true →
      Completes (exec (.lrecv w) s) (fun t => ∃ u : State, s.TookSlot d u ∧ u.Lands w (fun i => ⟨k.data.getD i 0, k.poison.getLsbD i, 0, 0⟩) t)
      ∧ (∀ m : BitVec 6, w.b = .lit m → m.toNat ≠ 1 → Completes (exec (.rrecv w) s) fun t => ∃ u : State, s.TookSlot d u
          ∧ u.Lands w (fun i =>
              let c := s.src .int w.c i
              ⟨if (k.data.getD i 0).getLsbD 31 then k.data.getD i 0 else c.1, k.poison.getLsbD i || c.2, 0, 0⟩) t))
    ∧ (∀ a b rest, s.active w.pred ≠ 0 → s.myRegion.queue n.toNat = a :: b :: rest →
      Completes (exec (.stin w) s) fun t => ∃ u : State, s.PoppedPair n.toNat a b rest u
        ∧ u.Lands w (fun i =>
            let e := if i < 16 then a else b
            ⟨BitVec.ofNat 32 (leNat ((e.data.drop (4 * (i % 16))).take 4)), e.poison.getLsbD (i % 16), 0, 0⟩) t)

/-- R300-R304, R307-R311: the words that write planes, and `pquiet`. That a word which finds the plane unit busy has no effect, and that a word
without an active row does not occupy it, are the model's choices (log 37). -/
def Claims.PlaneWords : Prop :=
  ∀ (s : State) (w : EArgs) (pa : BitVec 4), w.a = .p pa →
    let near (x y : Nat) (d : Nat) (sign : Int) :=
      s.siteValue s.site.g s.site.el pa.toNat x y (sign * (stepOf d).1) (sign * (stepOf d).2)
    let own (x y : Nat) := s.atSite w.a x y
    Completes (exec (.pshift w) s) (fun t => ∃ u : State, OnlyCounted s u
      ∧ u.PlaneLands w (fun x y => (near x y w.b.raw (-1)).1) (fun x y => (near x y w.b.raw (-1)).2) t)
    ∧ (∀ p ∈ siteTable, Completes (exec (p.1 w) s) (s.PlaneLands w
        (fun x y => p.2 (own x y).1 (s.atSite w.b x y).1) fun x y => (own x y).2 || (s.atSite w.b x y).2))
    ∧ (let ctl := s.src .int w.b 0
      let f := match w.b with
        | .lit n => (n.toNat, 1)
        | _ => (ctl.1.toNat % 16, min (ctl.1.toNat / 16 % 32) (16 - ctl.1.toNat % 16))
      Completes (exec (.pbi w) s) (s.PlaneLands w
        (fun x y => BitVec.ofNat 16 ((List.range 16).map fun j =>
          2 ^ j * (if f.1 ≤ j ∧ j < f.1 + f.2 then (s.atSite w.c x y).1.getLsbD (j - f.1) else (own x y).1.getLsbD j).toNat).sum)
        fun x y => (own x y).2 || (s.atSite w.c x y).2 || ctl.2))
    ∧ (let ctl := s.src .int w.c 0
      let m := ctl.1.toNat / 65536 % 65536
      let b := ctl.1.toNat % 16
      let bit (v : W16 × Bool) := (v.1.getLsbD b).toNat
      let moore := ctl.1.toNat / 16 % 4
      let code (x y : Nat) := match moore with
        | 0 => (own x y).1.toNat / 2 ^ b % 1024
        | 1 => bit (own x y) + ((List.range 8).map fun d => 2 ^ (d + 1) * bit (near x y d 1)).sum
        | 2 => (own x y).1.toNat / 2 ^ b % 4
            + ((List.range 4).map fun k => 4 ^ (k + 1) * ((near x y (2 * k) 1).1.toNat / 2 ^ b % 4)).sum
        | _ => bit (own x y) + 2 * ((List.range 8).map fun d => bit (near x y d 1)).sum
      let bad (x y : Nat) := (List.range 8).any fun d => (near x y d 1).2
      Completes (exec (.rule w) s) (s.PlaneLands w
        (fun x y =>
          let e := SMap.get 0 s.myElem.rules (1024 * ((s.atSite w.b x y).1.toNat % 4) + code x y)
          ((own x y).1 &&& ~~~(BitVec.ofNat 16 m)) ||| (e &&& BitVec.ofNat 16 m))
        fun x y => bad x y || (own x y).2 || (s.atSite w.b x y).2 || ctl.2))
    ∧ (s.site.null = false → s.site.squashed = false → w.pred = .always →
      let same := ∀ x < 32, ∀ y < 32, (own x y).1 = (s.atSite w.b x y).1 ∧ (own x y).2 = false ∧ (s.atSite w.b x y).2 = false
      (same → Completes (exec (.pquiet w) s) (s.Sends [(4, .quiet true, 0, none)]))
      ∧ (¬ same → Completes (exec (.pquiet w) s) (s.Sends [(4, .quiet false, 0, none)])))

/-- R300: a site one step beyond its world is resolved by the edge that it crosses, the horizontal edge first. -/
def Claims.WorldEdges : Prop :=
  ∀ (s : State) (g el n : Nat) (x y dx dy : Int),
    let gr := (s.region g).gr
    let c := el % 64 - 4 * (g % 16)
    let r := el % 2048 / 64 - 4 * (g % 128 / 16)
    let wx := 32 * (gr.gext.toNat % 64 + 1)
    let wy := 32 * (gr.gext.toNat / 256 % 64 + 1)
    let X := 32 * (c : Int) + x + dx
    let Y := 32 * (r : Int) + y + dy
    let mode (k : Nat) := gr.gbnd.toNat / 4 ^ k % 4
    let site (X Y : Int) : W16 × Bool :=
      let e := s.elem (g / 128 * 2048 + g % 128 / 16 * 256 + g % 16 * 4 + 64 * (Y / 32).toNat + (X / 32).toNat)
      (SMap.get 0 e.planes (1024 * n + 32 * (Y % 32).toNat + (X % 32).toNat), (SMap.get 0 e.pp (32 * n + (Y % 32).toNat)).getLsbD (X % 32).toNat)
    let v := s.siteValue g el n x y dx dy
    let mapped (m : Nat) (z : Int) (w : Nat) : Int :=
      if m = 0 then z % w else if m = 3 then (if z < 0 then 0 else w - 1) else if z < 0 then -z else 2 * (w - 1) - z
    32 * c < wx → 32 * r < wy → -1 ≤ X → X ≤ wx → -1 ≤ Y → Y ≤ wy →
    let inX := 0 ≤ X ∧ X < wx
    let inY := 0 ≤ Y ∧ Y < wy
    (inX → inY → v = site X Y)
    ∧ (X < 0 → mode 0 = 1 → v = (gr.gfixw, false))
    ∧ (wx ≤ X → mode 2 = 1 → v = (gr.gfixe, false))
    ∧ (inX → Y < 0 → mode 3 = 1 → v = (gr.gfixn, false))
    ∧ (inX → wy ≤ Y → mode 1 = 1 → v = (gr.gfixs, false))
    ∧ (X < 0 → inY → mode 0 ≠ 1 → v = site (mapped (mode 0) X wx) Y)
    ∧ (wx ≤ X → inY → mode 2 ≠ 1 → v = site (mapped (mode 2) X wx) Y)
    ∧ (inX → Y < 0 → mode 3 ≠ 1 → v = site X (mapped (mode 3) Y wy))
    ∧ (inX → wy ≤ Y → mode 1 ≠ 1 → v = site X (mapped (mode 1) Y wy))

/-- R300-R304, R307-R311, and the model's choices of log 37: the plane words, and the sites beyond the edges of a world. -/
def Obligations.Planes : Prop := Claims.PlaneWords ∧ Claims.WorldEdges

/-- R305, R306, R309, R143: `pld` fills two rows from a port, `pst` sends two rows, `pbx` gathers a bit of a row; a poisoned selector
escapes. That the escape of a `pst`, whose selector belongs to no one lane, is recorded at lane 0 is the model's choice (log 102). -/
def Obligations.PlanePortWords : Prop :=
  ∀ (s : State) (w : EArgs),
    let act := s.active w.pred
    let j := (s.src .int w.b 0).1.toNat % 16
    let bad := (s.src .int w.b 0).2
    let site (n x y : Nat) : W16 × Bool := s.myElem.site n x y
    let lowest (l : Nat) (m : W32) := m.getLsbD l = true ∧ ∀ k < l, m.getLsbD k = false
    (act = 0 → Completes (exec (.pld w) s) (s.Sends [noEffect]) ∧ Completes (exec (.pst w) s) (s.Sends [noEffect]))
    ∧ (∀ (p : BitVec 6) (n : BitVec 4) a b rest, w.a = .lit p → w.dst = .p n → act ≠ 0 → s.myElem.planeBusy ≤ s.myRegion.rc →
      (bad = false → s.myRegion.queue p.toNat = a :: b :: rest → Completes (exec (.pld w) s) fun t =>
        ∃ u : State, s.PoppedPair p.toNat a b rest u
          ∧ u.WritesPlane w n.toNat (maskOf fun y => act.getLsbD y && (y == 2 * j || y == 2 * j + 1)) none
              (fun x y => BitVec.ofNat 16 (leNat (((if y = 2 * j then a else b).data.drop (2 * x)).take 2)))
              (fun x y => (if y = 2 * j then a else b).poison.getLsbD (x / 2)) t)
      ∧ (∀ l < 32, bad = true → lowest l act →
        Completes (exec (.pld w) s) (s.WritesPlane w n.toNat act (some (7, l)) (fun _ _ => 0) fun _ _ => true)))
    ∧ (∀ n : BitVec 4, w.a = .p n →
      ((w.dst = .stage ∨ ∃ d, w.dst = .link d) → bad = false → Completes (exec (.pst w) s) (s.Lands w fun i =>
        let y := 2 * j + i / 16
        let lo := site n.toNat (2 * (i % 16)) y
        let hi := site n.toNat (2 * (i % 16) + 1) y
        ⟨BitVec.ofNat 32 (lo.1.toNat + 65536 * hi.1.toNat), lo.2 || hi.2, 0, 0⟩))
      ∧ (bad = true → act ≠ 0 → Completes (exec (.pst w) s) fun t => ∃ u : State, s.Sends [(4, .nothing, 0, some (7, 0))] u
        ∧ ∃ vals : List W32, vals.length = 32
          ∧ (∀ d, w.dst = .link d → u.SendsOn noEffect d.toNat vals 0xFFFFFFFF t)
          ∧ (w.dst = .stage → u.Sends
              [(4, .egress ⟨s.site.iter, s.site.iter.isNone, .stage s.myElem.soport.toNat vals 0xFFFFFFFF⟩, 0, some (7, 0))] t)))
    ∧ (∀ n : BitVec 4, w.a = .p n →
      let row := (s.src .int w.c 0).1.toNat % 32
      let poison := bad || (s.src .int w.c 0).2
      let value (x : Nat) := (site n.toNat x row).1.getLsbD j
      (∀ m, w.dst = .s m →
        let r : Nat → LaneRes := fun _ => ⟨maskOf value, poison || (List.range 32).any (fun x => (site n.toNat x row).2), 0, 0⟩
        (poison = false → Completes (exec (.pbx w) s) (s.Lands w r))
        ∧ (poison = true → act.getLsbD 0 = true → Completes (exec (.pbx w) s) fun t =>
            ∃ u : State, s.Sends [(4, .nothing, 0, some (7, 0))] u ∧ u.Lands w r t))
      ∧ (∀ m, w.dst = .m m →
        let r : Nat → LaneRes := fun i => ⟨if value i then 1 else 0, poison || (site n.toNat i row).2, 0, 0⟩
        (poison = false → Completes (exec (.pbx w) s) (s.Lands w r))
        ∧ (∀ l < 32, poison = true → lowest l act → Completes (exec (.pbx w) s) fun t =>
            ∃ u : State, s.Sends [(4, .nothing, 0, some (7, l))] u ∧ u.Lands w r t)))

/-- R271, R272, R294-R296: a scratchpad word reaches, in each active lane, the rotated offset of its operand registers in the port
scratchpad that SIDE names; a load reads its bank at +6, a store is egress of +6, and an offset out of range faults. -/
def Obligations.ScratchpadWords : Prop :=
  ∀ (s : State) (w : EArgs) (z : Nat) (sgn : Bool),
    let a := (s.src .int w.a 0).1.toNat
    let b := (s.src .int w.b 0).1.toNat
    let tp := b / 65536
    let rp := b % 65536
    let fd := s.site.el / 2048
    let md := if a / 2 ^ 23 % 2 = 0 then (fd + 7) % 8 else fd
    let off (i : Nat) := 16 * (a % 2 ^ 23) + rp * (s.site.el % 2048 / 64 - 4 * (s.site.g % 128 / 16))
      + tp * (s.site.el % 64 / 4 - s.site.g % 16) + 32 * z * (s.site.el % 4) + z * i
    let addr (i : Nat) : Option Nat :=
      if off i ≤ 0x5FFFFFF ∧ tp % 16 = 0 ∧ rp % 16 = 0 then
        some (0x40000000000 + md * 2 ^ 28 + (off i / 2 ^ 14 * 2 ^ 14 + (off i / 64 + a / 2 ^ 24) % 256 * 64 + off i % 64))
      else none
    let act := match w.dst with
      | .s _ => s.active w.pred &&& 1
      | _ => s.active w.pred
    let fault := ((List.range 32).find? fun i => act.getLsbD i && (addr i).isNone).map fun i => (5, i)
    let clean := (s.src .int w.a 0).2 = false ∧ (s.src .int w.b 0).2 = false ∧ (s.myElem.predBits w.pred).2 = 0
    s.site.squashed = false → clean →
    (∀ p ∈ ([(.sldN32, 4, false), (.sldN16, 2, false), (.sldI16, 2, true)] : List ((EArgs → Instr) × Nat × Bool)), p.2 = (z, sgn) →
      (act = 0 → Completes (exec (p.1 w) s) (s.Sends [noEffect]))
      ∧ (act ≠ 0 → Completes (exec (p.1 w) s)
          (s.Sends [(4, .nothing, 0, fault), (6, .sread w.dst z sgn act 0 ((List.range 32).map addr), 0, none)])))
    ∧ (∀ p ∈ ([(.sstN32, 4), (.sstN16, 2)] : List ((EArgs → Instr) × Nat)), p.2 = z → w.dst = .null →
      (act = 0 → Completes (exec (p.1 w) s) (s.Sends [noEffect]))
      ∧ (act ≠ 0 → (∀ i < 32, (s.src .int w.c i).2 = false) →
        let bytes := (List.range 32).flatMap fun i => match addr i with
          | some x => if act.getLsbD i then
              (List.range z).map fun k => (x + k, BitVec.ofNat 8 ((s.src .int w.c i).1.toNat / 256 ^ k), false) else []
          | none => []
        Completes (exec (p.1 w) s) (s.Sends ((4, .nothing, 0, fault)
          :: if bytes = [] then [] else [(6, .egress ⟨s.site.iter, s.site.iter.isNone, .scratch bytes⟩, 0, none)]))))

/-- R314, R316-R319: `rmarch` steps a ray and names the edge it passed, `rsamp` samples a plane under it, `rrecv` of kind 1 takes the hop out
of EXIT, and `fragout` emits one sample of each live lane. -/
def Obligations.RayWords : Prop :=
  ∀ (s : State) (w : EArgs),
    let clamp (n : Nat) : Int := max (-256) (min 256 (if n < 32768 then (n : Int) else n - 65536))
    let inside (r : W32) := r.getLsbD 31 = true ∧ r.toNat / 2 ^ 26 % 16 = 0
    let march (r st : W32) : W32 :=
      let x := (r.toNat % 8192 : Nat) + clamp (st.toNat % 65536)
      let y := (r.toNat / 8192 % 8192 : Nat) + clamp (st.toNat / 65536)
      let side (z : Int) : Int := if z < 0 then -1 else if 8192 ≤ z then 1 else 0
      let exit := ((List.range 8).find? fun d => stepOf d = (side x, side y)).elim 0 (· + 1)
      if r.getLsbD 31 = true ∧ r.toNat / 2 ^ 26 % 16 = 0 then
        BitVec.ofNat 32 (r.toNat / 2 ^ 30 * 2 ^ 30 + exit * 2 ^ 26 + (y % 8192).toNat * 8192 + (x % 8192).toNat)
      else r
    Completes (exec (.rmarch w) s) (s.Lands w (s.of2 .int w fun r st => (march r st, 0)))
    ∧ (∀ f : BitVec 6, w.c = .lit f → f.toNat < 3 → Completes (exec (.rsamp w) s) (s.Lands w fun i =>
        let r := s.src .int w.a i
        let t := s.src .int w.b i
        let v := s.myElem.site (t.1.toNat / 2 ^ 27 % 16) (r.1.toNat / 256 % 32) (r.1.toNat / 2 ^ 21 % 32)
        if inside r.1 then
          s.laneRes (match f.toNat with
            | 0 => (BitVec.ofNat 32 v.1.toNat, 0)
            | 1 => onF32 (convertBits fmtF16 fmtF32 false v.1.toNat)
            | _ => (BitVec.ofInt 32 v.1.toInt, 0)) (r.2 || t.2 || v.2)
        else ⟨0, r.2 || t.2, 0, 0⟩))
    ∧ (∀ d : BitVec 6, w.a = .lit d → w.b = .lit 1 →
      let k := s.myElem.slot (d.toNat / 2)
      let swap (r : W32) : W32 :=
        let e := r.toNat / 2 ^ 26 % 16
        let hop : List (Nat × Nat) := match d.toNat / 2 with
          | 3 => [(2, 1), (3, 0), (4, 5)]
          | 1 => [(8, 1), (7, 0), (6, 5)]
          | 0 => [(4, 3), (5, 0), (6, 7)]
          | 2 => [(2, 3), (1, 0), (8, 7)]
          | _ => []
        BitVec.ofNat 32 (r.toNat / 2 ^ 30 * 2 ^ 30 + ((hop.find? fun p => p.1 == e).elim e (·.2)) * 2 ^ 26 + r.toNat % 2 ^ 26)
      s.active w.pred ≠ 0 → k.full = true → Completes (exec (.rrecv w) s) fun t => ∃ u : State, s.TookSlot (d.toNat / 2) u
        ∧ u.Lands w (fun i =>
            let a := k.data.getD i 0
            let c := s.src .int w.c i
            ⟨if a.getLsbD 31 then swap a else c.1, k.poison.getLsbD i || c.2, 0, 0⟩) t)
    ∧ (let live := (List.range 32).filter fun i => (s.active w.pred).getLsbD i && (s.src .int w.b i).1.getLsbD 31
      let l := s.load s.myRegion.load
      let auto := ∃ n, w.c = .lit n
      let sample (k i : Nat) (seq : W32) : Sent := (4, .egress ⟨s.site.iter, s.site.iter.isNone, .frag s.myElem.soport.toNat
        ⟨BitVec.ofNat 24 (s.src .int w.b i).1.toNat, (s.src .int w.a i).1, seq + BitVec.ofNat 32 k, s.myRegion.load, 0⟩⟩, 0, none)
      (∀ i < 32, s.predP w.pred i = false ∧ (s.src .int w.a i).2 = false ∧ (s.src .int w.b i).2 = false ∧ (s.src .int w.c i).2 = false) →
      Completes (exec (.fragout w) s) fun t => ∃ u : State,
        (auto → s.Sends (if live = [] then [noEffect] else (live.zip (List.range live.length)).map fun p => sample p.2 p.1 l.fragseq) u
          ∧ (t.load s.myRegion.load).fragseq = l.fragseq + BitVec.ofNat 32 live.length)
        ∧ (¬ auto → s.Sends (if live = [] then [noEffect] else live.map fun i => sample 0 i (s.src .int w.c i).1) u
          ∧ (t.load s.myRegion.load).fragseq = l.fragseq)
        ∧ t.load s.myRegion.load = { l with fragseq := (t.load s.myRegion.load).fragseq }
        ∧ (∀ j, j ≠ s.myRegion.load → t.load j = s.load j) ∧ t = { u with loads := t.loads })

/-! ## Matrix -/

/-- R329-R335, R337: the feeds of tokens and scales, accumulator reads and writes, and `aclr`, where lane 0 is active and the selector is
clean; a poisoned selector escapes. That the escape of `mfa`, `mfb`, `mfas` or `mfbs`, whose selector belongs to no one lane, is recorded at
lane 0 is the model's choice (log 102). -/
def Claims.MatrixWords : Prop :=
  ∀ (s : State) (w : EArgs) (isB : Bool),
    let tl := s.tile s.myTile
    let pos := (s.src .int w.c 0).1.toNat % 64
    let limit := if isB then 64 else 32
    let lane0 := (s.active w.pred).getLsbD 0 = true
    let mf : EArgs → Instr := if isB then .mfb else .mfa
    let mfs : EArgs → Instr := if isB then .mfbs else .mfas
    let slots (pe : W32) (bytes : List Byte) (poison : W32) : List (Nat × OpSlot) :=
      let z := tokenBytes (palFmt pe)
      ((List.range (128 / z)).filter fun t => decide (pos + t < limit)).map fun t =>
        (pos + t, { OpSlot.reset with
          v := true, ent := pe, data := (bytes.drop (t * z)).take z,
          kv := SMap.get 0 tl.kbank (palKidx pe), feeder := BitVec.ofNat 4 (s.site.el % 4 + 4 * (s.site.el / 64 % 4)),
          dp := (List.range 32).any (fun l => poison.getLsbD l && decide (t * z < 4 * l + 4) && decide (4 * l < t * z + z))
            || !pe.getLsbD 16 || s.predP w.pred 0 })
    let fed (pe : W32) (bytes : List Byte) (poison : W32) (u t : State) :=
      u.Sends [(4, .feed s.myTile isB (slots pe bytes poison), 0, if pe.getLsbD 16 then none else some (3, 0))] t
    let dull := (s.src .int w.c 0).2 = true
    (¬ lane0 → Completes (exec (mf w) s) (s.Sends [noEffect]) ∧ Completes (exec (mfs w) s) (s.Sends [noEffect]))
    ∧ (lane0 → dull → Completes (exec (mf w) s) (s.Sends [(4, .nothing, 0, some (7, 0))])
        ∧ Completes (exec (mfs w) s) (s.Sends [(4, .nothing, 0, some (7, 0))]))
    ∧ (∀ n, w.a = .v n → lane0 → ¬ dull →
      Completes (exec (mf w) s) (fed (SMap.get 0 s.myRegion.pal w.b.raw)
        ((List.range 32).flatMap fun l => leBytes 4 (SMap.get 0 s.myElem.v (32 * n.toNat + l)).toNat) (SMap.get 0 s.myElem.vp n.toNat) s)
      ∧ Completes (exec (mfs w) s) (s.Sends [(4, .scales s.myTile isB
          (((if w.b.raw = 0 then (List.range 32).map fun t => (pos + t, ((s.src .int w.a t).1, (0 : W32), false, (s.src .int w.a t).2 || s.predP w.pred 0))
            else (List.range 16).map fun t => (pos + t, ((s.src .int w.a (2 * t + 1)).1, (s.src .int w.a (2 * t)).1, true,
              (s.src .int w.a (2 * t)).2 || (s.src .int w.a (2 * t + 1)).2 || s.predP w.pred 0)))).filter fun p => decide (p.1 < limit)), 0, none)]))
    ∧ (∀ (p : BitVec 6) a b rest, w.a = .lit p → lane0 → ¬ dull → s.myRegion.queue p.toNat = a :: b :: rest →
      let left := SMap.get 0 s.myRegion.pkrem p.toNat
      let bytes := a.data ++ b.data
      let n (u t : State) (k : W16) := (∀ q, SMap.get 0 t.myRegion.pkrem q = if q = p.toNat then k else SMap.get 0 u.myRegion.pkrem q)
        ∧ t.myRegion = { u.myRegion with pkrem := t.myRegion.pkrem } ∧ (∀ h, h ≠ s.site.g → t.region h = u.region h)
        ∧ t = { u with regions := t.regions }
      let wellMade := leAt bytes 33 1 = 0 ∧ (∀ x ∈ bytes.drop 36, x = 0) ∧ a.poison = 0 ∧ b.poison = 0
        ∧ ∀ i < 8, (leAt bytes 32 1).testBit i = true → palRefused (BitVec.ofNat 32 (leAt bytes (4 * i) 4)) = false
      (left ≠ 0 → (∀ f ∈ s.myRegion.flight, ∀ q l, f.what ≠ .pal q l) → Completes (exec (mf w) s) fun t => ∃ u v : State,
        s.PoppedPair p.toNat a b rest u ∧ n u v (left - 1) ∧ fed (SMap.get 0 s.myRegion.pal w.b.raw) bytes (b.poison ++ a.poison) v t)
      ∧ (left = 0 → wellMade → Completes (exec (mf w) s) fun t => ∃ u v : State,
        s.PoppedPair p.toNat a b rest u ∧ n u v (BitVec.ofNat 16 (leAt bytes 34 2))
        ∧ v.Sends [(4, .pal p.toNat (((List.range 8).filter fun i => (leAt bytes 32 1).testBit i).map fun i =>
            (i, BitVec.ofNat 32 (leAt bytes (4 * i) 4))), 0, none)] t)
      ∧ (left = 0 → ¬ wellMade → Completes (exec (mf w) s) fun t => ∃ u : State, s.PoppedPair p.toNat a b rest u ∧ u.Sends [noEffect] t))
    ∧ (let sel := w.a.raw
      let idx := (s.src .int w.b 0).1.toNat % 64
      let key (l : Nat) := 2048 * (sel % 4) + (if sel / 4 = 0 then 64 * l + idx else 64 * (idx % 32) + 32 * (idx / 32) + l)
      let busy (n : Nat) := (∃ p, tl.pass = some p ∧ p.acc = n ∧ 0 < p.left) ∨ ∃ g ∈ tl.groups, g.acc = n
      (sel / 4 = 2 → Completes (exec (.ard w) s) (s.Lands w fun _ => ⟨(SMap.get 0 tl.aflag (sel % 4)).setWidth 32, false, 0, 0⟩))
      ∧ (sel / 4 < 2 → (s.src .int w.b 0).2 = false →
        Completes (exec (.ard w) s) (s.Lands w fun l => ⟨SMap.get 0 tl.acc (key l), SMap.get false tl.accp (key l), 0, 0⟩)
        ∧ (s.active w.pred = 0 ∨ busy (sel % 4) → Completes (exec (.awr w) s) (s.Sends [noEffect]))
        ∧ (s.active w.pred ≠ 0 → ¬ busy (sel % 4) → Completes (exec (.awr w) s) fun t => ∃ u : State,
            u.Sends [(4, .accw s.myTile (((List.range 32).filter fun i => (s.active w.pred).getLsbD i).map fun i =>
              (key i, ((s.src .int w.c i).1, (s.src .int w.c i).2 || s.predP w.pred i))), 0, none)] t
            ∧ (∀ k m, m ∈ SMap.get [] u.myRegion.win.accs k ↔
                m ∈ SMap.get [] s.myRegion.win.accs k ∨ (k = s.myTile ∧ m = sel % 4))
            ∧ u.myRegion = { s.myRegion with win := { s.myRegion.win with accs := u.myRegion.win.accs } }
            ∧ (∀ h, h ≠ s.site.g → u.region h = s.region h) ∧ u = { s with regions := u.regions })))
    ∧ (let ctl := (s.src .int w.a 0).1.toNat % 32
      let busy := (∃ p, tl.pass = some p ∧ p.acc = ctl % 4 ∧ 0 < p.left) ∨ ∃ g ∈ tl.groups, g.acc = ctl % 4
      lane0 → (s.src .int w.a 0).2 = false →
      (¬ (ctl.testBit 2 = true ∧ busy) → Completes (exec (.aclr w) s) (s.Sends [(4, .aclr s.myTile (BitVec.ofNat 5 ctl), 0, none)]))
      ∧ (ctl.testBit 2 = true → busy → Completes (exec (.aclr w) s) (s.Sends [noEffect])))

/-- R40, R42, R326-R328: a group of a pass is snapshotted when its cycle comes and lands its sums D + 4 cycles on, in every entry whose row
and column slots are valid; a poisoned token or a wrong kind poisons the entries that it meets. That the format-kind fault
which a snapshot records names lane 0 and entry 0 is the model's choice (log 102). -/
def Claims.MatrixGroups : Prop :=
  ∀ (s : State) (g t : Nat),
    let tl := s.tile t
    let r := s.region g
    let kinds (o : OpSlot) := fmtInteger (palFmt o.ent) = false
    let held (o : OpSlot) := (∃ k < 32, o = SMap.get OpSlot.reset tl.opa k) ∨ ∃ k < 64, o = SMap.get OpSlot.reset tl.opb k
    (∀ p, tl.pass = some p → p.next ≤ r.rc → p.left = 0 → Completes (exec (.matrixGroupSnapshot g t) s) fun u =>
      u.tile t = { tl with pass := none } ∧ (∀ k, k ≠ t → u.tile k = s.tile k) ∧ u = { s with tiles := u.tiles })
    ∧ (∀ p, tl.pass = some p → p.next ≤ r.rc → p.left ≠ 0 → Completes (exec (.matrixGroupSnapshot g t) s) fun u =>
      ∃ (d width : Nat) (fs : List Flight),
        (∀ o, held o → o.v = true → fmtWidth (palFmt o.ent) ≤ width)
        ∧ (width = 0 ∨ ∃ o, held o ∧ o.v = true ∧ fmtWidth (palFmt o.ent) = width)
        ∧ d = (if 32 ≤ width then 64 else if 16 ≤ width then 16 else if 6 ≤ width then 8 else 4)
        ∧ u.tile t = { tl with
            pass := some { p with left := p.left - 1, next := r.rc + d },
            groups := tl.groups ++ [⟨r.rc + d + 4, p.acc, p.int, tl.opa, tl.opb, r.lq8⟩] }
        ∧ (∀ k, k ≠ t → u.tile k = s.tile k)
        ∧ u.region g = { r with flight := r.flight ++ fs } ∧ (∀ h, h ≠ g → u.region h = s.region h)
        ∧ (p.int = false → fs = [])
        ∧ (∀ f, f ∈ fs ↔ p.int = true ∧ ∃ o, held o ∧ o.v = true ∧ kinds o
            ∧ f = ⟨r.rc + 4, elemOfTile t (o.feeder.toNat % 4) (o.feeder.toNat / 4), 0, .nothing, 0, some (4, 0)⟩)
        ∧ SMap.get 0 u.perf (0x100 + 16 * (t / 128) + 4) = SMap.get 0 s.perf (0x100 + 16 * (t / 128) + 4) + 1
        ∧ u = { s with tiles := u.tiles, regions := u.regions, perf := u.perf })
    ∧ (∀ gr rest, tl.groups = gr :: rest → gr.due ≤ r.rc → Completes (exec (.matrixGroupLanding g t) s) fun u =>
        let tu := u.tile t
        tu = { tl with acc := tu.acc, accp := tu.accp, aflag := tu.aflag, groups := rest }
        ∧ (∀ k, k ≠ t → u.tile k = s.tile k) ∧ u = { s with tiles := u.tiles }
        ∧ (∀ n < 4, ∀ i < 32, ∀ j < 64,
          let key := 2048 * n + 64 * i + j
          let a := SMap.get OpSlot.reset gr.opa i
          let b := SMap.get OpSlot.reset gr.opb j
          let bad := a.poisoned = true ∨ b.poisoned = true ∨ (gr.int = true ∧ (kinds a ∨ kinds b)) ∨ SMap.get false tl.accp key = true
          let written := n = gr.acc ∧ a.v = true ∧ b.v = true
          (¬ written → SMap.get 0 tu.acc key = SMap.get 0 tl.acc key ∧ SMap.get false tu.accp key = SMap.get false tl.accp key)
          ∧ (written → bad → SMap.get false tu.accp key = true)
          ∧ (written → ¬ bad → SMap.get false tu.accp key = false
            ∧ (gr.int = true → SMap.get 0 tu.acc key = BitVec.ofInt 32 ((SMap.get 0 tl.acc key).toInt
                + ((List.range 16).map fun e => ((a.values []).getD e (.fin false 0 0)).toInt * ((b.values []).getD e (.fin false 0 0)).toInt).sum))
            ∧ (gr.int = false → a.skipped = false → b.skipped = false →
                let sum := (exactSum (products (a.values gr.lq8) (b.values gr.lq8)).1).1
                SMap.get 0 tu.acc key = BitVec.ofNat 32 (roundF32 ((fmtF32.decode (SMap.get 0 tl.acc key).toNat).quietly.add
                  (fmtF32.decode (roundF32 sum).1)).1).1)))
        ∧ (∀ n < 4, n ≠ gr.acc → SMap.get 0 tu.aflag n = SMap.get 0 tl.aflag n))

/-- R40, R42, R326-R335, R337: the matrix words, and the groups of a pass; where a selector's fault and a snapshot's format-kind fault are
recorded is the model's choice (log 102). -/
def Obligations.Matrix : Prop := Claims.MatrixWords ∧ Claims.MatrixGroups

/-! ## Results land -/

/-- R116, R143, R146, R187, R295: the first due result of a region lands, in the element or tile that it names, with its flags ORed into ESTAT and
its fault in ECAUSE; a bank read flies on six cycles with the bytes that it read, which join the input log; a send waits for a receiver whose
region is stopped, none of whose latches changes (R150). -/
def Obligations.Landings : Prop :=
  ∀ (s : State) (g : Nat) (pre post : List Flight) (f : Flight),
    let r := s.region g
    let e := s.elem f.el
    let isLink (x : Flight) := ∃ a b c d, x.what = .link a b c d
    let isRead (x : Flight) := ∃ a b c d e l, x.what = .sread a b c d e l
    let regionLeft (u : State) := u.region g = { r with flight := pre ++ post } ∧ (∀ h, h ≠ g → u.region h = s.region h)
    let onElem (P : Elem → Prop) (u : State) := P (u.elem f.el) ∧ (∀ j, j ≠ f.el → u.elem j = s.elem j) ∧ regionLeft u
      ∧ u = { s with elems := u.elems, regions := u.regions }
    let onTile (k : Nat) (P : Tile → Prop) (u : State) := P (u.tile k) ∧ (∀ j, j ≠ k → u.tile j = s.tile j) ∧ regionLeft u
      ∧ u = { s with tiles := u.tiles, regions := u.regions }
    let flagged (st : W32) : W32 := st ||| BitVec.ofNat 32 f.flags.toNat
    r.flight = pre ++ f :: post → f.due ≤ r.rc →
    (¬ isLink f → ¬ isRead f → (∀ x ∈ pre ++ post, isRead x → r.rc < x.due) → (∀ x ∈ pre, x.due ≤ r.rc → isLink x) →
      let lands (P : State → Prop) := Completes (exec (.wordResultLanding g) s) P
      (f.fault = none →
        (∀ n act vals P, f.what = .vreg n act vals P → n < 32 → lands (onElem fun x =>
          (∀ k < 32, ∀ i < 32, x.lane k i = if k = n ∧ act.getLsbD i = true then vals.getD i 0 else e.lane k i)
          ∧ (∀ k < 32, ∀ i < 32, x.laneP k i = if k = n ∧ act.getLsbD i = true then P.getLsbD i else e.laneP k i)
          ∧ x = { e with v := x.v, vp := x.vp, estat := flagged e.estat }))
        ∧ (∀ n v P, f.what = .sreg n v P → lands (onElem fun x =>
          (∀ k, x.sreg k = if k = n then v else e.sreg k) ∧ (∀ k, x.sregP k = if k = n then P else e.sregP k)
          ∧ x = { e with s := x.s, sp := x.sp, estat := flagged e.estat }))
        ∧ (∀ n act v P, f.what = .mreg n act v P → lands (onElem fun x =>
          (∀ k, ∀ i < 32, (x.mreg k).getLsbD i = if k = n ∧ act.getLsbD i = true then v.getLsbD i else (e.mreg k).getLsbD i)
          ∧ (∀ k, ∀ i < 32, (x.mregP k).getLsbD i = if k = n ∧ act.getLsbD i = true then P.getLsbD i else (e.mregP k).getLsbD i)
          ∧ x = { e with m := x.m, mp := x.mp, estat := flagged e.estat }))
        ∧ (∀ n rows sites P, f.what = .plane n rows sites P → sites.length = 1024 → lands (onElem fun x =>
          (∀ k, ∀ y < 32, ∀ z < 32, x.site k z y =
            if k = n ∧ rows.getLsbD y = true then (sites.getD (32 * y + z) 0, (P.getD y 0).getLsbD z) else e.site k z y)
          ∧ x = { e with planes := x.planes, pp := x.pp, estat := flagged e.estat }))
        ∧ (f.what = .clrst → f.flags = 0 → lands (onElem fun x => x = { e with estat := e.estat &&& 0xFFFF00E0 }))
        ∧ (∀ n, f.what = .kbsel n → f.flags = 0 → lands (onElem fun x =>
            x = { e with estat := (e.estat &&& 0xFFFFFF9F) ||| BitVec.ofNat 32 (32 * n.toNat) }))
        ∧ (∀ b, f.what = .quiet b → f.flags = 0 → lands (onElem fun x =>
            x = { e with estat := (e.estat &&& 0xFFFFFF7F) ||| (if b then 0x80 else 0) }))
        ∧ (f.what = .nothing → lands (onElem fun x => x = { e with estat := flagged e.estat }))
        ∧ (∀ it, f.what = .exitf it → f.flags = 0 → lands fun u =>
            (u.region g).gr = { r.gr with rexit := true }
            ∧ (u.region g).span = r.span.map (fun sp => match it with
                | some j => { sp with exitMin := some (sp.exitMin.elim j (min j)) }
                | none => sp)
            ∧ u.region g = { r with flight := pre ++ post, gr := (u.region g).gr, span := (u.region g).span }
            ∧ (∀ h, h ≠ g → u.region h = s.region h) ∧ u = { s with regions := u.regions })
        ∧ (∀ x, f.what = .egress x → f.flags = 0 → lands fun u =>
            u.region g = { r with flight := pre ++ post, egress := r.egress ++ [x] } ∧ (∀ h, h ≠ g → u.region h = s.region h)
            ∧ u = { s with regions := u.regions })
        ∧ (∀ k l, f.what = .accw k l → f.flags = 0 → (l.map (·.1)).Nodup → lands (onTile k fun x =>
          let tl := s.tile k
          (∀ q v p, (q, (v, p)) ∈ l → SMap.get 0 x.acc q = v ∧ SMap.get false x.accp q = p)
          ∧ (∀ q, q ∉ l.map (·.1) → SMap.get 0 x.acc q = SMap.get 0 tl.acc q ∧ SMap.get false x.accp q = SMap.get false tl.accp q)
          ∧ x = { tl with acc := x.acc, accp := x.accp }))
        ∧ (∀ k l, f.what = .feed k false l → f.flags = 0 → (l.map (·.1)).Nodup → lands (onTile k fun x =>
          let tl := s.tile k
          (∀ q o, (q, o) ∈ l → let old := SMap.get OpSlot.reset tl.opa q
            SMap.get OpSlot.reset x.opa q = { o with
              sc := old.sc, ss := old.ss, sp := old.sp, kv := if palSsrc o.ent = 4 then o.kv else old.kv })
          ∧ (∀ q, q ∉ l.map (·.1) → SMap.get OpSlot.reset x.opa q = SMap.get OpSlot.reset tl.opa q) ∧ x = { tl with opa := x.opa })))
      ∧ (∀ c l, f.what = .nothing → f.flags = 0 → f.fault = some (c, l) → c < 256 → c ≠ 6 → r.win.fault = none → lands fun u =>
          u.elem f.el = { e with estat := (e.estat &&& 0xFFFF00FF) ||| BitVec.ofNat 32 (256 * c) } ∧ (∀ j, j ≠ f.el → u.elem j = s.elem j)
          ∧ u.region g = { r with
              flight := pre ++ post, win := { r.win with fault := some ⟨r.rc, f.el, l, f.entry, c⟩ } }
          ∧ (∀ h, h ≠ g → u.region h = s.region h) ∧ u = { s with elems := u.elems, regions := u.regions }))
    ∧ (∀ n z sgn act psn lanes, f.what = .sread (.v n) z sgn act psn lanes → (∀ x ∈ pre, isRead x → r.rc < x.due) → r.egress = [] →
        lanes.length = 32 →
        Completes (exec (.wordResultLanding g) s) fun u => ∃ (vals : List W32) (P : W32),
          (∀ i < 32, ∀ a, lanes.getD i none = some a → psn.getLsbD i = false → P.getLsbD i = false
            ∧ vals.getD i 0 = (let v := leNat ((List.range z).map fun k => s.readCell (a + k))
                if sgn then BitVec.ofInt 32 (signedOf (8 * z) v) else BitVec.ofNat 32 v))
          ∧ (∀ i < 32, psn.getLsbD i = true ∨ lanes.getD i none = none → P.getLsbD i = true)
          ∧ u.region g = { r.logged (((List.range 32).filter fun i => act.getLsbD i).flatMap fun i =>
                ((lanes.getD i none).map fun a => (List.range z).map fun k => s.readCell (a + k)).getD []) with
              flight := pre ++ { f with due := r.rc + 6, what := .vreg n.toNat act vals P } :: post }
          ∧ (∀ h, h ≠ g → u.region h = s.region h) ∧ u = { s with regions := u.regions, perf := u.perf })
    ∧ (∀ el k vals P, f.what = .link el k vals P → s.stoppedElem el = true → (∀ x ∈ pre ++ post, x.due ≤ r.rc → ¬ isLink x) →
        exec (.linkSlotFill g) s = .next s)
    ∧ (∀ el k vals P, f.what = .link el k vals P → s.stoppedElem el = false → f.flags = 0 → f.fault = none →
        (∀ x ∈ pre, x.due ≤ r.rc → ¬ isLink x) → Completes (exec (.linkSlotFill g) s) fun u =>
          (∀ q, (u.elem el).slot q = if q = k then ⟨true, true, vals, P⟩ else (s.elem el).slot q)
          ∧ u.elem el = { s.elem el with links := (u.elem el).links } ∧ (∀ j, j ≠ el → u.elem j = s.elem j)
          ∧ regionLeft u ∧ u = { s with elems := u.elems, regions := u.regions })

/-! ## Rows -/

/-- R174-R186, R243, R244, R327: what each row does in the region where it issues, outside a loop body where the body does not permit it. -/
def Obligations.Rows : Prop :=
  ∀ (s : State) (h : RowHdr) (phase ii : BitVec 5) (count : BitVec 19) (x : BitVec 16) (port : BitVec 4),
    let g := s.site.g
    let r := s.region g
    let isRow (q : Region) (t : State) := t.region g = q ∧ (∀ k, k ≠ g → t.region k = s.region k) ∧ t = { s with regions := t.regions }
    let drains (why : DrainWhy) := isRow { r with mode := .drain why, saved := r.work, work := [.drainCheck, .snapshots, .endCycle] }
    Completes (exec (.commit h) s) (drains .commit)
    ∧ Completes (exec (.waitq h port) s) (isRow { r with waits := r.waits ++ [.queue port.toNat] })
    ∧ (r.span = none →
      Completes (exec (.stepRow h phase) s) (isRow { r with step := some (h, phase.toNat) })
      ∧ Completes (exec (.endRow h) s) (drains .endRow)
      ∧ Completes (exec (.reconf h x) s) (drains (.reconf x.toNat))
      ∧ (∀ w k, Completes (exec (.form h w k) s) (isRow { r with settle := true }))
      ∧ (r.gr.rexit = true → Completes (exec (.exitRow h) s) (drains .endRow))
      ∧ (r.gr.rexit = false → exec (.exitRow h) s = .next s)
      ∧ (∀ m, Completes (exec (.endl h m) s) (isRow r)) ∧ Completes (exec (.epil h) s) (isRow r)
      ∧ Completes (exec (.loopRow h ii count) s) (fun t => ∃ sp, (t.region g).span = some sp
          ∧ sp.row = r.rowix ∧ sp.hdr = h ∧ sp.base = h.cycle.toNat ∧ sp.ii = ii.toNat + 1 ∧ sp.count = count.toNat ∧ sp.v = 0
          ∧ sp.stopped = decide (count = 1) ∧ sp.exited = false ∧ sp.exitMin = none
          ∧ (t.region g).modc = 0 ∧ (t.region g).itern = 1 ∧ (t.region g).gr = { r.gr with rexit := false }
          ∧ (∀ k, k ≠ g → t.region k = s.region k) ∧ t = { s with regions := t.regions })
      ∧ (∀ ports : BitVec 16, Completes (exec (.barrier h ports) s) fun t => ∃ runs,
          (∀ i n, (i, n) ∈ runs ↔ ∃ a, (i, a) ∈ s.agus ∧ a.run = n ∧ (a.st = .queued ∨ a.st = .running ∨ a.st = .stalled)
            ∧ (∃ l, a.attach = some (l, g)) ∧ ports.getLsbD (a.aword.toNat / 2 ^ 13 % 16) = true)
          ∧ isRow { r with waits := r.waits ++ [.barrier ((List.range 16).filter fun p => ports.getLsbD p) runs] } t))
    ∧ (∀ sp, r.span = some sp →
      (sp.row < r.rowix → r.rowix < sp.endl →
        (∀ i ∈ [Instr.stepRow h phase, .endRow h, .reconf h x, .loopRow h ii count, .epil h, .barrier h 0],
          r.freeze = none → Completes (exec i s) (isRow { r with freeze := some ⟨2, 3, r.rc + 1, none⟩ })))
      ∧ (r.rowix = sp.endl → r.kindAt (r.rowix + 1) = 4 → Completes (exec (.endl h 0) s)
          (isRow { r with span := some { sp with epil := r.rowix, boundary := false } }))
      ∧ (r.rowix = sp.endl → r.kindAt (r.rowix + 1) ≠ 4 → Completes (exec (.endl h 0) s) fun t =>
          (t.region g).span = none ∧ (∀ e ∈ (t.region g).egress, e.iter = none ∧ e.settled = true)
          ∧ (t.region g).egress.map (·.kind) = r.egress.map (·.kind))
      ∧ (sp.epil ≠ 0 → sp.endl ≤ r.rowix → Completes (exec (.epil h) s)
          (isRow { r with span := some { sp with hdr := h, epil := r.rowix, since := 0, boundary := false } }))
      ∧ (r.gr.rexit = false ∨ sp.exited = true → exec (.exitRow h) s = .next s)
      ∧ (r.gr.rexit = true → sp.exited = false → Completes (exec (.exitRow h) s) fun t => ∃ q, (t.region g).span = some q
          ∧ q.stopped = true ∧ q.exited = true ∧ q.e = sp.exitMin.getD ((r.itern : Int) - 1)
          ∧ (t.region g).egress = r.egress.filter (fun e => !e.iter.any fun i => decide (q.e < i))
          ∧ (∀ k, k ≠ g → t.region k = s.region k) ∧ t = { s with regions := t.regions }))
    ∧ (∀ (acc : BitVec 2) (int clear : Bool) (n : BitVec 12),
      let k := acc.toNat
      r.w = 1 → r.h = 1 →
      ((s.tile g).busy r.rc = true → r.freeze = none → Completes (exec (.mpass h acc int clear n) s)
        (isRow { r with freeze := some ⟨2, 3, r.rc + 1, none⟩ }))
      ∧ ((s.tile g).busy r.rc = false → Completes (exec (.mpass h acc int clear n) s) fun t =>
          (t.tile g).pass = some ⟨k, int, n.toNat + 1, r.rc⟩
          ∧ (∀ q, SMap.get 0 (t.tile g).acc q = if clear = true ∧ q / 2048 = k then 0 else SMap.get 0 (s.tile g).acc q)
          ∧ (∀ q, SMap.get false (t.tile g).accp q = if clear = true ∧ q / 2048 = k then false else SMap.get false (s.tile g).accp q)
          ∧ (∀ q, SMap.get 0 (t.tile g).aflag q = if clear = true ∧ q = k then 0 else SMap.get 0 (s.tile g).aflag q)
          ∧ (∀ j, j ≠ g → t.tile j = s.tile j)
          ∧ t.region g = { r with win := { r.win with accs := (t.region g).win.accs } }
          ∧ t = { s with tiles := t.tiles, regions := t.regions }))

/-- R144, R177, R243: iteration V is admitted at the wrap that begins interval V; a settling ends after its 64 cycles; a window whose next words
would overflow it closes by itself; a clean window in a drained wait releases its settled egress and the region goes on. -/
def Claims.RegionProgress : Prop :=
  ∀ (s : State) (g : Nat),
    let r := s.region g
    let isRow (q : Region) (t : State) := t.region g = q ∧ (∀ k, k ≠ g → t.region k = s.region k) ∧ t = { s with regions := t.regions }
    (∀ sp, r.span = some sp → sp.stopped = false → sp.v = r.itern →
      Completes (exec (.iterationAdmission g) s) (isRow { r with
        itern := r.itern + 1,
        span := some { sp with stopped := decide (r.itern + 1 = sp.count ∨ (sp.count = 0 ∧ r.itern + 1 = 524287)) } }))
    ∧ (∀ sp, r.span = some sp → (sp.stopped = true ∨ sp.v ≠ r.itern) → exec (.iterationAdmission g) s = .next s)
    ∧ (r.settle = true → 64 ≤ r.relapsed → Completes (exec (.formSettlingEnd g) s) (isRow { r with settle := false }))
    ∧ (r.settle = true → r.relapsed < 64 → exec (.formSettlingEnd g) s = .next s)
    ∧ (s.wantsClose g = true → Completes (exec (.implicitClose g) s) (isRow { r with
        closed := true, mode := .drain .implicit, saved := r.work, work := [.drainCheck, .snapshots, .endCycle] }))
    ∧ (s.wantsClose g = false → exec (.implicitClose g) s = .next s)
    ∧ (∀ why, r.mode = .drain why →
      (s.drained g = false → exec (.commitWindowClose g) s = .next s)
      ∧ (s.drained g = true → r.win.fault = none → r.span = none → r.released = [] →
          (∀ e ∈ r.egress, ∃ bs, e.kind = .scratch bs) →
          Completes (exec (.commitWindowClose g) s) fun t =>
            let q := t.region g
            (∀ a, (∀ e ∈ r.egress, ∀ bs, e.kind = .scratch bs → ∀ b ∈ bs, b.1 ≠ a) → t.readCell a = s.readCell a)
            ∧ (∀ pre bs a b p, ∀ e, r.egress = pre ++ [e] → e.kind = .scratch bs → bs.getLast? = some (a, b, p) → t.readCell a = b)
            ∧ q.egress = [] ∧ q.win.row = r.rowix ∧ q.win.elapsed = r.relapsed ∧ q.win.gregs = r.gr ∧ q.win.ports = r.ports
            ∧ q.win.log = [] ∧ q.win.fault = none
            ∧ (∀ e, r.covers g (tileOfElem e) = true → SMap.get Elem.reset q.win.elems e = s.elem e)
            ∧ (∀ k, r.covers g k = true → SMap.get Tile.reset q.win.tiles k = s.tile k)
            ∧ q.mode = (match why with
                | .commit => .run
                | .implicit => .run
                | .endRow => .boundary
                | .reconf x => .switching x)
            ∧ (why = .commit ∨ why = .implicit → q.work = r.saved)
            ∧ (∀ h, h ≠ g → t.region h = s.region h)
            ∧ t = { s with regions := t.regions, mem := t.mem, resid := t.resid, perf := t.perf }))

/-- R146-R150: a poisoned window is discarded and the region stops with cause 0x0100 for its supervising core; the control word 1 resumes it, 2
(ABORT) ends its load with ELEMENT-FAULT, another is ignored; a detected cause gates the region three fabric cycles on, with cause 0x0102: a scan
request keeps the load, every other cause ends it with its status, also one met beside a scan request (log 78); scan asks for a gate and takes it
back, and gives back the tiles of a region whose load a gate ended, or, where that end is still to come, lets it do so. What a region given up
keeps (its R89 items) is log 79. -/
def Claims.DiscardsAndGates : Prop :=
  ∀ (s : State) (g : Nat) (p : Party) (v : W32),
    let r := s.region g
    let isRow (q : Region) (t : State) := t.region g = q ∧ (∀ k, k ≠ g → t.region k = s.region k) ∧ t = { s with regions := t.regions }
    let alerted (cause : Nat) (t : State) :=
      (SMap.get none (s.core r.sup).pend cause = none → SMap.get none (t.core r.sup).pend cause = some (BitVec.ofNat 64 r.replay))
      ∧ (∀ x, SMap.get none (s.core r.sup).pend cause = some x → SMap.get none (t.core r.sup).pend cause = some x)
      ∧ (t.core r.sup).wake = ((s.core r.sup).wake || (s.core r.sup).run == .idle)
      ∧ t.core r.sup = { s.core r.sup with pend := (t.core r.sup).pend, wake := (t.core r.sup).wake }
      ∧ (∀ j, j ≠ r.sup → t.core j = s.core j)
    let may := match p with
      | .host => True
      | .bmc => True
      | .core n => 128 ≤ n ∧ (s.core n).priv
    let gated (c : Nat) (q : Region) (t : State) := t.region g = q ∧ (∀ k, k ≠ g → t.region k = s.region k) ∧ alerted c t
      ∧ t = { s with regions := t.regions, cores := t.cores, mem := t.mem, resid := t.resid, perf := t.perf }
    let stored (t : State) := t = { s with mem := t.mem, resid := t.resid, perf := t.perf }
    let status (c : Nat) := if c = 1 then 5 else if c = 2 then 6 else if c = 4 then 4 else 7
    (∀ why, r.mode = .drain why → s.drained g = true → r.win.fault.isSome = true → r.freeze = none →
      Completes (exec (.commitWindowClose g) s) fun t =>
        t.region g = { r with mode := .stopped why, egress := [], work := [] } ∧ (∀ k, k ≠ g → t.region k = s.region k) ∧ alerted 0x100 t
        ∧ SMap.get 0 t.perf (0x100 + 16 * (g / 128) + 5) = SMap.get 0 s.perf (0x100 + 16 * (g / 128) + 5) + 1
        ∧ t = { s with regions := t.regions, cores := t.cores, mem := t.mem, resid := t.resid, perf := t.perf })
    ∧ (∀ why, r.mode = .stopped why →
      (v.toNat ≠ 1 → v.toNat ≠ 2 → Completes (exec (.replayCtrlWrite g v) s) stored)
      ∧ (v.toNat = 2 → r.freeze = none → s.Lone r.load g → Completes (exec (.replayCtrlWrite g v) s) fun t => ∃ u : State,
          stored u ∧ u.EndsLone r.load g 4 { Region.reset with gr := r.gr } t)
      ∧ (v.toNat = 1 → Completes (exec (.replayCtrlWrite g v) s) fun t =>
          (t.region g).mode = (match why with
            | .commit => .run
            | .implicit => .run
            | .endRow => .boundary
            | .reconf x => .switching x)
          ∧ (t.region g).rowix = r.rowix ∧ (t.region g).relapsed = r.relapsed ∧ (t.region g).win.fault = none
          ∧ (s.resid = [] → t.cores = s.cores) ∧ t.loads = s.loads))
    ∧ ((∀ why, r.mode ≠ .stopped why) → exec (.replayCtrlWrite g v) s = .next s)
    ∧ (∀ f, r.freeze = some f → f.left = 0 → r.gateable = true →
      (f.cause = 3 → f.also = none → Completes (exec (.clockGate g) s) (gated 0x102 { r with mode := .gated 3 r.mode, freeze := none }))
      ∧ (∀ c, (f.cause = c ∨ f.cause = 3 ∧ f.also = some c) → c ≠ 3 → s.Lone r.load g →
        let q : Region := { r with mode := .gated c r.mode, freeze := none, egress := [] }
        Completes (exec (.clockGate g) s) fun t => ∃ u : State,
          gated 0x102 q u
            ∧ u.EndsLone r.load g (status c) (if r.scanFreed then { Region.reset with gr := r.gr } else { q with awaitScan := true }) t))
    ∧ (∀ f, r.freeze = some f → f.left ≠ 0 → exec (.clockGate g) s = .next s)
    ∧ (may → r.gateable = true → r.freeze = none → Completes (exec (.scanRequest p g) s) (isRow { r with freeze := some ⟨3, 3, r.rc + 1, none⟩ }))
    ∧ (¬ may → exec (.scanRequest p g) s = .next s ∧ exec (.scanRelease p g) s = .next s)
    ∧ (∀ was, may → r.mode = .gated 3 was → Completes (exec (.scanRelease p g) s) fun t =>
        isRow { r with mode := was, beat := (t.region g).beat } t)
    ∧ (∀ c was, may → r.mode = .gated c was → c ≠ 3 → r.awaitScan = true →
        Completes (exec (.scanRelease p g) s) (isRow { Region.reset with gr := r.gr }))
    ∧ (∀ c was, may → r.mode = .gated c was → c ≠ 3 → r.awaitScan = false →
        Completes (exec (.scanRelease p g) s) (isRow { r with scanFreed := true }))

/-- R144, R146-R150, R177, R243: how a region goes on, closes its window, discards it, stops, and is gated. -/
def Obligations.RegionWindows : Prop := Claims.RegionProgress ∧ Claims.DiscardsAndGates

/-! ## Near memory -/

/-- R75, R258, R260, R340, R376: `tload`, `tq` and `nmcall` check their packet and append it to the queue of a stack controller or of the home
unit, or wait while that is full or a span link is down; `nmload` gives its image to the units that its mask names, and is over once each of
them holds it. The model's choices: a packet whose OP0 is 0 or no stack memory goes to the first stack of the core's die (log 68), an image
waits at a unit whose command runs (log 66), the mode is tested before alignment (log 29), and a unit descriptor with a reserved byte that is
not 0 takes the command-fault trap (log 99). -/
def Claims.NearMemoryPosting : Prop :=
  ∀ (s u : State) (ra rb : SReg) (bs : List Byte),
    let a := s.readS ra
    let st := leAt bs 16 8
    let op0 := leAt bs 24 8
    let inStack (c : Nat) := 0x10000000000 ≤ c ∧ c < 0x20000000000
    let cell := if op0 = 0 then none else (s.coreVa s.cur .load op0).bind s.canon
    let home (c : Nat) := cell = some c ∧ inStack c
    let die := if 128 ≤ s.cur then s.cur - 128 else s.cur / 16
    let mine := s.me.priv ∨ leAt bs 4 2 = s.me.ctxid.toNat % 4096
    let kinds : List (Instr × Nat) := [(.tload ra, 3), (.tq ra, 2), (.nmcall ra, 1)]
    let held (va : Nat) := if va = 0 then none else s.walkHeld s.cur s.me.ctx va
    let lands := ∃ pa c, u.coreVa u.cur .store st = some pa ∧ u.canon pa = some c ∧ inStack c
    let posted (p : Packet) := p.bytes = bs ∧ p.core = s.cur ∧ p.user = s.me.user
      ∧ p.status = if st = 0 then none else u.coreVa u.cur .store st
    let counted (v : State) := OnlyReported u v ∧ (s.resid = [] → OnlyCounted u v)
    let toStack (k : Nat) (t : State) := ∃ v p, counted v ∧ posted p ∧ (t.stack k).queue = (v.stack k).queue ++ [p]
      ∧ (t.stack k).tables = (v.stack k).tables ∧ (∀ j, j ≠ k → t.stack j = v.stack j) ∧ Passed v 4 t
      ∧ t = { v with cores := t.cores, kstacks := t.kstacks }
    (s.canTrap → a.toNat % 64 ≠ 0 → ∀ q ∈ kinds, Completes (exec q.1 s) (TookTrap s 7 a s.me.pc))
    ∧ (a.toNat % 64 = 0 → s.Gets a.toNat 64 u bs → ∀ q ∈ kinds,
      (u.canTrap → (packetOk q.2 bs = false ∨ ¬ mine) → Completes (exec q.1 s) (TookTrap u 10 a u.me.pc))
      ∧ (packetOk q.2 bs = true → mine →
        (∀ h, held st = some h → exec q.1 s = .next (s.holdOn h))
        ∧ (u.canTrap → held st = none → st ≠ 0 → ¬ lands → Completes (exec q.1 s) fun t => ∃ v, OnlyReported u v
            ∧ TookTrap v 6 (BitVec.ofNat 64 st) v.me.pc t)
        ∧ (held st = none → (st = 0 ∨ lands) →
          (∀ h, held op0 = some h → exec q.1 s = .next (s.holdOn h))
          ∧ (held op0 = none →
            ((∀ c, ¬ home c) → Completes (exec q.1 s) (toStack (2 * die)))
            ∧ (∀ c, home c → q.2 ≠ 1 → Completes (exec q.1 s) (toStack (c / 2 ^ 36 % 16)))
            ∧ (∀ c, home c → q.2 = 1 →
              let k := 64 * (c / 2 ^ 36 % 16) + c / 32 % 64
              (32 ≤ (s.nmu k).queue.length → exec q.1 s = .next s)
              ∧ ((s.nmu k).queue.length < 32 → Completes (exec q.1 s) fun t => ∃ v p, counted v ∧ posted p
                  ∧ t.nmu k = { v.nmu k with queue := (v.nmu k).queue ++ [p] } ∧ (∀ j, j ≠ k → t.nmu j = v.nmu j)
                  ∧ Passed v 4 t ∧ t = { v with cores := t.cores, nmus := t.nmus }))))))
    ∧ (∀ (v w : State) (img d : List Byte),
      let b := s.readS rb
      let im := imageOf img
      let units := (List.range 64).filter fun i => (leAt d 0 8).testBit i
      let unit (i : Nat) := 64 * leAt d 8 1 + i
      let given (k : Nat) := ∃ i ∈ units, k = unit i
      (¬ s.me.priv → s.canTrap → Completes (exec (.nmload ra rb) s) (TookTrap s 2 (s.ir.setWidth 64) s.me.pc))
      ∧ (s.me.priv → a.toNat % 16 = 0 → b.toNat % 16 = 0 → s.Gets a.toNat 4352 v img → v.Gets b.toNat 16 w d →
        (imageOk im = false → w.canTrap → Completes (exec (.nmload ra rb) s) (TookTrap w 10 a w.me.pc))
        ∧ (imageOk im = true → d.length = 16 → ¬ (leAt d 8 1 < 16 ∧ ∀ x ∈ d.drop 9, x = 0) → w.canTrap →
          Completes (exec (.nmload ra rb) s) (TookTrap w 10 b w.me.pc))
        ∧ (imageOk im = true → leAt d 8 1 < 16 → (∀ x ∈ d.drop 9, x = 0) → d.length = 16 →
          ((∀ i ∈ units, (w.nmu (unit i)).cmd = none) → Completes (exec (.nmload ra rb) s) fun t =>
            (∀ k, given k → t.nmu k = { w.nmu k with image := some im, next := none })
            ∧ (∀ k, ¬ given k → t.nmu k = w.nmu k) ∧ Passed w 4 t ∧ t = { w with cores := t.cores, nmus := t.nmus })
          ∧ (∀ i ∈ units, (w.nmu (unit i)).cmd ≠ none → ¬ ((w.nmu (unit i)).next = none ∧ (w.nmu (unit i)).image = some im) →
            ∃ t, exec (.nmload ra rb) s = .next t ∧ (t.nmu (unit i)).next = some im ∧ t.me = w.me))))

/-- R259, R261-R263, R339-R341, R384: a unit takes the command at the head of its queue with fresh registers, or rejects it; a stack controller
answers a query from its table, loads one, or rejects a call that no unit could take; a command waits while a link on its way is not
stable. -/
def Claims.NearMemoryCommands : Prop :=
  ∀ (s : State) (u k : Nat) (p : Packet),
    let stale := (s.ctx p.ctx).gen.toNat ≠ p.gen
    let other := (s.phase p.phase).own.toNat ≠ p.ctx
    (∀ rest, (s.nmu u).queue = p :: rest →
      let n := s.nmu u
      let popped : State := s.setNmu u { n with queue := rest }
      let rejects (r : Nat) := Completes (exec (.commandAcceptance u) s) (Finished popped p 2 r 0)
      (n.cmd ≠ none ∨ n.next ≠ none ∨ s.commandStalled p (u / 64) = true → exec (.commandAcceptance u) s = .next s)
      ∧ (n.cmd = none → n.next = none → s.commandStalled p (u / 64) = false →
        (stale → rejects 7) ∧ (¬ stale → other → rejects 8)
        ∧ (¬ stale → ¬ other → n.entryOf (p.number % 64) = none → rejects 9)
        ∧ (∀ upc, ¬ stale → ¬ other → n.entryOf (p.number % 64) = some upc → s.unitOps u p = none →
          Completes (exec (.commandAcceptance u) s) fun t => ∃ v, OnlyReported popped v ∧ Finished v p 2 1 0 t)
        ∧ (∀ upc ops, ¬ stale → ¬ other → n.entryOf (p.number % 64) = some upc → s.unitOps u p = some ops →
          Completes (exec (.commandAcceptance u) s) fun t => ∃ v, OnlyReported s v ∧ (s.resid = [] → OnlyCounted s v)
            ∧ (∀ l < 16, SMap.get 0 (t.nmu u).x l = BitVec.ofNat 32
              (if l < 4 then p.arg l else if l = 4 then p.number else if l = 5 then u % 64 else 0))
            ∧ (∀ l, 16 ≤ l → SMap.get 0 (t.nmu u).x l = 0)
            ∧ t.nmu u = { Nmu.reset with
                image := n.image, queue := rest, cmd := some (s.translated (unitParty u) p 3), ops := ops, x := (t.nmu u).x, upc := upc }
            ∧ (∀ j, j ≠ u → t.nmu j = s.nmu j) ∧ t = { v with nmus := t.nmus })))
    ∧ (∀ rest, (s.stack k).queue = p :: rest → s.commandStalled p k = true →
      exec (.tqCommand k) s = .next s ∧ exec (.tloadCommand k) s = .next s)
    ∧ (∀ rest, (s.stack k).queue = p :: rest → s.commandStalled p k = false → s.resid = [] →
      let popped : State := s.setStack k { s.stack k with queue := rest }
      let tab := (s.stack k).table p.number
      let ends (o : Out) (r : Nat) := Completes o fun t => ∃ v, OnlyCounted popped v ∧ Finished v p 2 r 0 t
      (p.kind = 1 → ¬ stale → ¬ other → Completes (exec (.tqCommand k) s) (Finished popped p 2 1 0))
      ∧ (p.kind = 2 →
        let run (P : State → Prop) := Completes (exec (.tqCommand k) s) P
        let n := p.arg 0
        let wi := p.flags.testBit 0
        let wr := p.flags.testBit 1
        let n0 := ((if wi then 10 else 8) * n + 7) / 8
        let n1 := (if wr then 2 else 1) * n
        let ends := ends (exec (.tqCommand k) s)
        (stale → run (Finished popped p 2 7 0)) ∧ (¬ stale → other → run (Finished popped p 2 8 0))
        ∧ (¬ stale → ¬ other → (s.stackOp k p 0 .load = none ∨ s.stackOp k p 1 .store = none) → ends 1)
        ∧ (∀ a b, ¬ stale → ¬ other → s.stackOp k p 0 .load = some a → s.stackOp k p 1 .store = some b →
          (2 ^ 21 < a % 2 ^ 21 + n0 ∨ 2 ^ 21 < b % 2 ^ 21 + n1 → ends 2)
          ∧ (a % 2 ^ 21 + n0 ≤ 2 ^ 21 → b % 2 ^ 21 + n1 ≤ 2 ^ 21 →
            (tab.v = false ∨ tab.ctx.toNat ≠ p.ctx → ends 4)
            ∧ (tab.v = true → tab.ctx.toNat = p.ctx →
              (tab.wideIdx ≠ wi ∨ tab.wideRes ≠ wr → ends 5)
              ∧ (tab.wideIdx = wi → tab.wideRes = wr → run fun t => ∃ v : State,
                  let idx := leNat ((cellRun a n0).map s.unitByte)
                  WroteCells popped p.core [(b, (List.range n).flatMap fun i =>
                    leBytes (if wr then 2 else 1) (tab.entries.getD (if wi then idx / 2 ^ (10 * i) % 1024 else idx / 256 ^ i % 256) 0).toNat)] v
                  ∧ v = { popped with mem := v.mem, resid := v.resid, lags := v.lags, perf := v.perf } ∧ Finished v p 1 0 n t)))))
      ∧ (p.kind = 3 →
        let run (P : State → Prop) := Completes (exec (.tloadCommand k) s) P
        let z := p.arg 0
        let ends := ends (exec (.tloadCommand k) s)
        (stale → run (Finished popped p 2 7 0)) ∧ (¬ stale → other → run (Finished popped p 2 8 0))
        ∧ (¬ stale → ¬ other → s.stackOp k p 0 .load = none → ends 1)
        ∧ (∀ a, ¬ stale → ¬ other → s.stackOp k p 0 .load = some a →
          (z ∉ [256, 512, 1024, 2048] → ends 6)
          ∧ (z ∈ [256, 512, 1024, 2048] →
            (2 ^ 21 < a % 2 ^ 21 + z → ends 2)
            ∧ (a % 2 ^ 21 + z ≤ 2 ^ 21 → tab.v = true → tab.ctx.toNat ≠ p.ctx → ends 3)
            ∧ (a % 2 ^ 21 + z ≤ 2 ^ 21 → (tab.v = false ∨ tab.ctx.toNat = p.ctx) → run fun t => ∃ v : State,
                let wide := z = 512 ∨ z = 2048
                let c := if wide then z / 2 else z
                (∀ x < c, ((v.stack k).table p.number).look x =
                  BitVec.ofNat 16 (if wide then (s.unitByte (a + 2 * x)).toNat + 256 * (s.unitByte (a + 2 * x + 1)).toNat else (s.unitByte (a + x)).toNat))
                ∧ (v.stack k).table p.number = ⟨true, BitVec.ofNat 12 p.ctx, decide (1024 ≤ z), decide wide, ((v.stack k).table p.number).entries⟩
                ∧ (∀ m, m ≠ p.number → (v.stack k).table m = (s.stack k).table m) ∧ (v.stack k).queue = rest
                ∧ (∀ j, j ≠ k → v.stack j = s.stack j) ∧ v = { popped with kstacks := v.kstacks, perf := v.perf } ∧ Finished v p 1 0 c t)))))

/-- R75, R258-R263, R339-R341: commands posted to units and stack controllers, and what takes them. -/
def Obligations.NearMemoryQueues : Prop := Claims.NearMemoryPosting ∧ Claims.NearMemoryCommands

/-- R51, R349-R351: a standard entry whose arguments, extents and indices are in range writes its results and completes with its count; one whose
are not ends with reason 10, 2 or 11 and writes nothing; an IMAC that meets a row whose check fails leaves this row and the later ones of its
granule and after it unwritten, with SOFT-ERROR. That an entry runs whole in one step is the model's choice (logs 13, 67), and so is which
rows share a granule with the failing one (log 105). -/
def Obligations.StandardEntries : Prop :=
  ∀ (s : State) (u : Nat) (p : Packet), ∀ x ∈ stdEntries,
    let n := s.nmu u
    let op (k : Nat) := n.ops.getD k 0
    let e := x.shape p n.ops
    let r := e.reason x.num n.ops
    let index (i : Nat) := (s.memWord (op 0 + 4 * i)).toNat
    let fits := ∀ rows, e.rows = some rows → ∀ i < p.arg 0, index i < rows
    let ended : State := s.setNmu u { n with cmd := none, ops := [] }
    let misses (row : Nat) := x.num = 4 ∧ n.miss = some row ∧ row < p.arg 0
    n.cmd = some p → n.image = none → n.next = none → n.rmiss = false → p.number = x.num → s.resid = [] →
    (r ≠ 0 → Completes (exec (x.event u) s) (Finished ended p 2 r 0))
    ∧ (r = 0 → ¬ fits → Completes (exec (x.event u) s) (Finished ended p 2 11 0))
    ∧ (∀ row, r = 0 → misses row → Completes (exec (x.event u) s) fun t => ∃ v w : State,
        WroteCells s p.core ((x.out s p op).map fun o => (o.1, o.2.take (16 * (row / 4)))) v
        ∧ v = { s with mem := v.mem, resid := v.resid, lags := v.lags, perf := v.perf } ∧ OnlyReported v { w with nmus := v.nmus }
        ∧ (SMap.get none (w.core p.core).pend 0x104).isSome = true
        ∧ w.nmu u = { n with cmd := none, ops := [], rmiss := true } ∧ (∀ j, j ≠ u → w.nmu j = s.nmu j) ∧ Finished w p 3 0 0 t)
    ∧ (r = 0 → fits → (∀ row, ¬ misses row) → Completes (exec (x.event u) s) fun t => ∃ v w : State,
        WroteCells s p.core (x.out s p op) w ∧ v = { w with nmus := v.nmus }
        ∧ v.nmu u = { n with cmd := none, ops := [], x := (v.nmu u).x } ∧ (∀ j, j ≠ u → v.nmu j = s.nmu j)
        ∧ v = { s with nmus := v.nmus, mem := v.mem, resid := v.resid, lags := v.lags, perf := v.perf } ∧ Finished v p 1 0 (p.arg 0) t)

/-- R343-R348: an N-word forms its addresses, reads, computes sixteen lanes, checks, writes, and goes on or ends its command. For a write that
meets both reason 2 and reason 13 the model tests 2 first, of which R343 gives no order (log 69). -/
def Obligations.NWords : Prop :=
  ∀ (s : State) (w : NArgs) (p : Packet),
    let u := s.unit
    let n := s.nmu u
    let x (k l : Nat) : W32 := SMap.get 0 n.x (16 * k + l)
    let moves (c : BitVec 4) : Nat := if c = 1 then 32 else if c = 2 then 64 else 0
    let gen (old : W32) (reg mode : BitVec 4) (size : Nat) : W32 := match mode.toNat with
      | 1 => old + BitVec.ofNat 32 size
      | 2 => x reg.toNat 0
      | 3 => old + BitVec.ofNat 32 w.imm.toNat
      | 4 => x reg.toNat 2 + SMap.get 0 n.rdr ((x reg.toNat 0).toNat % 16) * x reg.toNat 1
      | _ => old
    let aga := gen n.aga w.agaReg w.agaMode (moves w.rd)
    let agb := gen n.agb w.agbReg w.agbMode (moves w.wr)
    let place (c : W32) (z : Nat) : Option Nat :=
      let k := c.toNat / 2 ^ 21 % 4
      let o := n.ops.getD k 0
      let a := (o + c.toNat % 2 ^ 21) / z * z
      if c.toNat < 2 ^ 23 ∧ k ≠ 3 ∧ o ≠ 0 ∧ a / 2 ^ 21 = o / 2 ^ 21 then some a else none
    let lc (k : Nat) : W16 := if k = w.loopN.toNat then
        (if w.loopOp = 1 then BitVec.ofNat 16 w.imm.toNat
          else if w.loopOp = 2 then BitVec.ofNat 16 ((SMap.get 0 n.lc k).toNat - 1) else SMap.get 0 n.lc k)
      else SMap.get 0 n.lc k
    let cond (zn : BitVec 2) := w.cond = 0 ∨ (w.cond = 1 ∧ zn.getLsbD 1 = true) ∨ (w.cond = 2 ∧ zn.getLsbD 0 = true)
      ∨ (w.cond = 3 ∧ (SMap.get 0 n.x 255).toNat ≤ aga.toNat) ∨ (w.cond = 5 ∧ n.rmiss = true)
    let jumps (zn : BitVec 2) := w.seq = 1 ∨ (w.seq = 2 ∧ cond zn) ∨ (w.seq = 3 ∧ ¬ cond zn) ∨ (w.seq = 4 ∧ lc w.loopN.toNat ≠ 0)
    let moved (zn : BitVec 2) (m : Nmu) (t : State) :=
      (∀ k, SMap.get 0 (t.nmu u).lc k = lc k) ∧ (jumps zn → (t.nmu u).upc = w.next) ∧ (¬ jumps zn → (t.nmu u).upc = n.upc + 1)
      ∧ t.nmu u = { m with
          aga := aga, agb := agb, zn := zn, lc := (t.nmu u).lc, upc := (t.nmu u).upc, wcount := n.wcount + 1 }
      ∧ (∀ j, j ≠ u → t.nmu j = s.nmu j)
    let goesOn (zn : BitVec 2) := w.post = 0 ∧ w.seq ≠ 5 ∧ w.cond ≠ 4 ∧ (jumps zn ∨ n.upc ≠ 255) ∧ n.wcount ≠ 0xFFFFFF
    let ended (st rs : Nat) (t : State) := ∃ v : State, (v.nmu u).cmd = none ∧ (∀ j, j ≠ u → v.nmu j = s.nmu j)
      ∧ v = { s with nmus := v.nmus } ∧ Finished v p st rs (SMap.get 0 n.x 224).toNat t
    let run (P : State → Prop) := Completes (exec (.nWord w) s) P
    n.cmd = some p → n.rmiss = false →
    -- the lanes of a word that touches no memory
    (w.rd = 0 → w.wr = 0 → w.res = 0 →
      (∀ f ∈ nAluTable ++ nAluTable2, w.alu.toNat = f.1 → w.dst.toNat < 18 → w.srcA.toNat < 19 → w.srcB.toNat < 19 → w.cond.toNat ≠ 3 →
        let src (c : BitVec 5) (l : Nat) : W32 := if c.toNat < 16 then x c.toNat l
          else if c.toNat = 16 then SMap.get 0 n.rdr l else if c.toNat = 17 then BitVec.ofNat 32 w.imm.toNat else 0
        let old (l : Nat) : W32 := if w.dst.toNat < 16 then x w.dst.toNat l else if w.dst.toNat = 16 then SMap.get 0 n.wbuf l else 0
        let r (l : Nat) := f.2 (src w.srcA l) (src w.srcB l) (old l)
        let zn : BitVec 2 := BitVec.ofNat 2 ((if r 0 = 0 then 2 else 0) + (if (r 0).toInt < 0 then 1 else 0))
        goesOn zn → run fun t =>
          (∀ k < 16, ∀ l < 16, SMap.get 0 (t.nmu u).x (16 * k + l) = if k = w.dst.toNat then r l else x k l)
          ∧ (∀ l < 16, SMap.get 0 (t.nmu u).wbuf l = if w.dst.toNat = 16 then r l else SMap.get 0 n.wbuf l)
          ∧ moved zn { n with x := (t.nmu u).x, wbuf := (t.nmu u).wbuf } t ∧ t = { s with nmus := t.nmus })
      ∧ (w.alu = 0 → goesOn n.zn → run fun t => moved n.zn n t ∧ t = { s with nmus := t.nmus })
      ∧ (w.alu = 0 → n.next = none → w.post = 2 → run (ended 2 (w.imm.toNat % 65536)))
      ∧ (w.alu = 0 → n.next = none → (w.post = 1 ∨ (w.post = 0 ∧ w.seq = 5)) → run (ended 1 0))
      ∧ (w.alu = 0 → n.next = none → w.post = 0 → w.seq = 0 → n.upc = 255 → run (ended 2 12)))
    -- a read
    ∧ (w.wr = 0 → w.res = 0 → w.alu = 0 → w.rd = 1 ∨ w.rd = 2 →
      (∀ a, place aga (moves w.rd) = some a → s.resid = [] → goesOn n.zn → run fun t =>
        (∀ l < 16, SMap.get 0 (t.nmu u).rdr l = if 4 * l < moves w.rd then s.memWord (a + 4 * l) else 0)
        ∧ moved n.zn { n with rdr := (t.nmu u).rdr } t ∧ t = { s with nmus := t.nmus, perf := t.perf })
      ∧ (place aga (moves w.rd) = none → n.next = none → run (ended 2 2)))
    -- a write
    ∧ (w.rd = 0 → w.res = 0 → w.alu = 0 → w.wr = 1 ∨ w.wr = 2 →
      (∀ a, place agb (moves w.wr) = some a → agb.toNat / 2 ^ 21 % 4 = 2 → goesOn n.zn → run fun t =>
        (∃ v, WroteCells s p.core [(a, (List.range (moves w.wr / 4)).flatMap fun l => leBytes 4 (SMap.get 0 n.wbuf l).toNat)] v
          ∧ t = { v with nmus := t.nmus })
        ∧ moved n.zn n t ∧ t = { s with nmus := t.nmus, mem := t.mem, resid := t.resid, lags := t.lags, perf := t.perf })
      ∧ (∀ a, place agb (moves w.wr) = some a → agb.toNat / 2 ^ 21 % 4 < 2 → n.next = none → run (ended 2 13))
      ∧ (place agb (moves w.wr) = none → n.next = none → run (ended 2 2)))
    -- the residue check
    ∧ (w.rd = 0 → w.wr = 0 → w.alu = 0 → w.dst.toNat < 16 → goesOn n.zn →
      (w.res = 3 → run fun t => (∀ l < 16, (SMap.get 0 (t.nmu u).rpred l).toNat = ((x w.dst.toNat l).toInt % 15).toNat)
        ∧ moved n.zn { n with rpred := (t.nmu u).rpred, wraps := (t.nmu u).wraps } t ∧ t = { s with nmus := t.nmus })
      ∧ (w.res = 2 → (∀ l < 16, ((x w.dst.toNat l).toInt + SMap.get 0 n.wraps l) % 15 = (SMap.get 0 n.rpred l).toNat) → run fun t =>
          moved n.zn n t ∧ t = { s with nmus := t.nmus }))

/-! ## Factor stores -/

/-- R357, R360-R362: what a factor-store word does before it operates: an illegal selector, a store that it may not use and a misaligned
operand trap, HALTED, ARG and EMPTY are reported in rd, and the stores stay as they are; while another core's accepted word still waits for its
operand, it waits. `r` is the state with the core's own such wait over, in which the word goes on (R91, R362). -/
def Claims.FactorRefusals : Prop :=
  ∀ (s : State) (rd : DReg) (ra rb : SReg),
    let a := s.readS ra
    let v := a.toNat
    let f := v % 64
    let r := s.fsResume f
    let x := r.fstore f
    let arg := v / 2 ^ 32
    let free (mid mask a : Nat) := f + mid * 256 + mask * 65536 + a * 2 ^ 32
    let scaled := v = free 0 0 arg
    let part := ∃ p < 3, v = free p 0 0
    let two := [(Instr.fsupd, scaled), (.fsddt, scaled), (.fsinit, ∃ n ≤ 128, v = free n 0 0), (.fsread, part), (.fswrite, part)]
    let one := [(Instr.fsscale, scaled), (.fssolve, ∃ d < 2, ∃ m < 256, v = free d m 0), (.fslogdet, v = f)]
    r.me = { s.me with begun := none } ∧ (∀ j, j ≠ s.cur → r.core j = s.core j)
    ∧ x = { s.fstore f with busy := if (s.fstore f).busy = some s.cur then none else (s.fstore f).busy }
    ∧ (∀ h, h ≠ f → r.fstore h = s.fstore h) ∧ r = { s with cores := r.cores, fstores := r.fstores }
    ∧ (s.canTrap →
      (∀ p ∈ two, ¬ p.2 → Completes (exec (p.1 rd ra rb) s) (TookTrap r 1 (s.ir.setWidth 64) s.me.pc))
      ∧ (∀ p ∈ one, ¬ p.2 → Completes (exec (p.1 rd ra) s) (TookTrap r 1 (s.ir.setWidth 64) s.me.pc))
      ∧ (v = f → ¬ s.OwnsStore f →
        (∀ p ∈ [Instr.fsupd, .fsddt, .fsread, .fswrite, .fsinit], Completes (exec (p rd ra rb) s) (TookTrap r 6 a s.me.pc))
        ∧ ∀ p ∈ one, Completes (exec (p.1 rd ra) s) (TookTrap r 6 a s.me.pc))
      ∧ (v = f → s.OwnsStore f → (s.readS rb).toNat % 16 ≠ 0 →
        ∀ p ∈ [Instr.fsupd, .fsddt, .fsread, .fswrite], Completes (exec (p rd ra rb) s) (TookTrap r 7 (s.readS rb) s.me.pc)))
    ∧ (s.OwnsStore f → x.busy ≠ none →
      (∀ p ∈ two, p.2 → (s.readS rb).toNat % 16 = 0 → exec (p.1 rd ra rb) s = .next r) ∧ (∀ p ∈ one, p.2 → exec (p.1 rd ra) s = .next r))
    ∧ (s.OwnsStore f → x.busy = none →
      (v = f → (s.readS rb).toNat % 16 = 0 → s.pkg.haltFs = true →
        (∀ p ∈ two, Completes (exec (p.1 rd ra rb) s) (WroteReg r rd (fsRd 5 0) 4))
        ∧ Completes (exec (.fsscale rd ra) s) (WroteReg r rd (fsRd 5 0) 4)
        ∧ Completes (exec (.fssolve rd ra) s) (WroteReg r rd (fsRd 5 0) 4))
      ∧ (s.pkg.haltFs = false →
        (v = free 0 0 arg → 0x7F800000 ≤ arg →
          Completes (exec (.fsscale rd ra) s) (WroteReg r rd (fsRd 1 0) 4)
          ∧ ((s.readS rb).toNat % 16 = 0 → Completes (exec (.fsupd rd ra rb) s) (WroteReg r rd (fsRd 1 0) 4)
            ∧ Completes (exec (.fsddt rd ra rb) s) (WroteReg r rd (fsRd 1 0) 4)))
        ∧ (v = f → x.n = 0 →
          Completes (exec (.fsscale rd ra) s) (WroteReg r rd (fsRd 2 0) 4) ∧ Completes (exec (.fssolve rd ra) s) (WroteReg r rd (fsRd 2 0) 4)
          ∧ ((s.readS rb).toNat % 16 = 0 → ∀ p ∈ [Instr.fsupd, .fsddt, .fsread, .fswrite],
              Completes (exec (p rd ra rb) s) (WroteReg r rd (fsRd 2 0) 4)))))

/-- R357, R364, R367-R371: `fsinit` fills a store, or releases it with n = 0; `fssolve` substitutes forwards or backwards in the columns of
its mask; `fsscale` multiplies every entry of the rows in use by the root of its factor; `fslogdet` gathers the diagonal; `fsread` and
`fswrite` carry one part between the store and memory. Only that store, its destination register and the bytes that `fsread` writes change,
each granule of those through its window (R270). `r` is as in `FactorRefusals`. -/
def Claims.FactorForms : Prop :=
  ∀ (s : State) (rd : DReg) (ra rb : SReg),
    let v := (s.readS ra).toNat
    let f := v % 64
    let mid := v / 256 % 256
    let mask := v / 65536 % 256
    let arg := BitVec.ofNat 32 (v / 2 ^ 32)
    let r := s.fsResume f
    let x := r.fstore f
    let sg := sqrtRne (f32 arg, 0)
    let lAt (y : FStore) (i j : Nat) : W32 := SMap.get 0 y.l (i * (i + 1) / 2 + j)
    let bAt (y : FStore) (i j : Nat) : W32 := SMap.get 0 y.b (8 * i + j)
    let word (m : Nat) : W32 := BitVec.ofNat 32 ((s.readS rb).toNat / 2 ^ (32 * m))
    s.pkg.haltFs = false → x.busy = none →
    -- fsinit
    (v = f + 256 * mid → mid ≤ 128 → (word 0).toNat < 0x7F800000 → (word 1).toNat < 0x3F800000 →
      (1 ≤ mid → s.diePresent (f / 8) = true → (s.OwnsStore f ∨ x.own.getLsbD 12 = false) →
        Completes (exec (.fsinit rd ra rb) s) fun t => ∃ y : FStore, r.FsLeaves rd f y (fsRd 0 0) t
          ∧ (∀ i j, j ≤ i → lAt y i j = if i = j ∧ i < mid then word 0 else 0)
          ∧ y = { x with n := mid, l := y.l, b := [], eps := word 1, flag := 0, due := false,
                         own := if x.own.getLsbD 12 then x.own else BitVec.ofNat 13 (4096 + s.me.ctxid.toNat % 4096) })
      ∧ (mid = 0 → s.OwnsStore f → Completes (exec (.fsinit rd ra rb) s) (r.FsLeaves rd f
          { x with n := 0, l := [], b := [], eps := 0, flag := 0, due := false, own := if x.bound.isSome then x.own else 0 } (fsRd 0 0))))
    ∧ (s.OwnsStore f →
      -- fssolve
      (v = f + 256 * mid + 65536 * mask → mid < 2 → x.n ≠ 0 →
        Completes (exec (.fssolve rd ra) s) fun t => ∃ (y : FStore) (fl : Flags) (T : Nat → Nat → Nat → W32),
          let l (i m : Nat) := if mid = 0 then lAt x i m else lAt x (x.n - 1 - m) i
          let below (i : Nat) := if mid = 0 then i else x.n - 1 - i
          let z (j m : Nat) := bAt y (if mid = 0 then m else x.n - 1 - m) j
          r.FsLeaves rd f y (fsRd 0 fl) t
          ∧ (∀ j < 8, ∀ i, mask.testBit j = false ∨ x.n ≤ i → bAt y i j = bAt x i j)
          ∧ (∀ j < 8, mask.testBit j = true → ∀ i < x.n,
              T j i 0 = bAt x i j ∧ (∀ m < below i, T j i (m + 1) = (rneSubMul (T j i m) (l i m) (z j m)).1)
              ∧ bAt y i j = (rneDiv (T j i (below i)) (lAt x i i)).1)
          ∧ (∀ k < 5, fl.getLsbD k = true ↔ ∃ j < 8, mask.testBit j = true ∧ ∃ i < x.n,
              (rneDiv (T j i (below i)) (lAt x i i)).2.getLsbD k = true
              ∨ ∃ m < below i, (rneSubMul (T j i m) (l i m) (z j m)).2.getLsbD k = true)
          ∧ y = { x with b := y.b, flag := x.flag ||| fl })
      -- fsscale
      ∧ (v = f + 2 ^ 32 * arg.toNat → arg.toNat < 0x7F800000 → x.n ≠ 0 →
        (arg = 0x3F800000 → Completes (exec (.fsscale rd ra) s) (r.FsLeaves rd f x (fsRd 0 0)))
        ∧ (arg ≠ 0x3F800000 → Completes (exec (.fsscale rd ra) s) fun t => ∃ (y : FStore) (fl : Flags),
            r.FsLeaves rd f y (fsRd 0 fl) t
            ∧ (∀ i j, j ≤ i → lAt y i j = if i < x.n then (rneMul sg.1 (lAt x i j)).1 else lAt x i j)
            ∧ (∀ i, ∀ j < 8, bAt y i j = if i < x.n then (rneMul sg.1 (bAt x i j)).1 else bAt x i j)
            ∧ (∀ k < 5, fl.getLsbD k = true ↔ sg.2.getLsbD k = true ∨ ∃ i < x.n,
                (∃ j ≤ i, (rneMul sg.1 (lAt x i j)).2.getLsbD k = true) ∨ ∃ j < 8, (rneMul sg.1 (bAt x i j)).2.getLsbD k = true)
            ∧ y = { x with l := y.l, b := y.b, flag := x.flag ||| fl }))
      -- fslogdet
      ∧ (v = f → Completes (exec (.fslogdet rd ra) s) fun t => ∃ (P : Nat → W32) (E : Nat → Int) (nx : Nat → Bool) (k : Nat),
          let bad := (lAt x k k &&& 0x7FFFFFFF).toNat
          k ≤ x.n ∧ P 0 = 0x3F800000 ∧ E 0 = 0 ∧ (∀ i < k, LogStep (lAt x i i) (P i) (E i) (P (i + 1)) (E (i + 1)) (nx i))
          ∧ (k < x.n → bad = 0 ∨ 0x7F800000 ≤ bad)
          ∧ r.FsLeaves rd f { x with flag := x.flag ||| (if (List.range k).any nx then 1 else 0) }
              (BitVec.ofNat 64 (if k < x.n then (if bad = 0 then 3 else 4) * 2 ^ 48 + 0x3F800000
                else (E k % 2 ^ 16).toNat * 2 ^ 32 + (P k).toNat)) t)
      -- fsread and fswrite
      ∧ (v = f + 256 * mid → mid ≤ 2 → (mid = 2 ∨ x.n ≠ 0) → (s.readS rb).toNat % 16 = 0 →
        let size := if mid = 0 then 2 * x.n * (x.n + 1) else if mid = 1 then 32 * x.n else 16
        let entry (y : FStore) (k : Nat) : W32 := SMap.get 0 (if mid = 0 then y.l else y.b) k
        let control : List Byte := [BitVec.ofNat 8 x.n, x.flag.setWidth 8] ++ leBytes 2 x.own.toNat ++ leBytes 4 x.eps.toNat
          ++ [if x.bound.isSome then 1 else 0, 0, 0, 0, 0, 0, 0, 0]
        (∀ as, r.coreRange .store (size / 16 + 2) (s.readS rb).toNat size = .ok as → as.Nodup → as.length = size →
          Completes (exec (.fsread rd ra rb) s) (r.FsEnds f fun t => ∃ u v w : State,
            let bytes := if mid = 2 then control else (List.range (size / 4)).flatMap fun k => leBytes 4 (entry x k).toNat
            OnlyCounted r u
            ∧ WroteRuns u s.cur ((List.range ((size + 15) / 16)).map fun k =>
              (r.coreWindow .store ((s.readS rb).toNat + 16 * k), (as.drop (16 * k)).take 16, (bytes.drop (16 * k)).take 16)) v
            ∧ OnlyCounted v w ∧ WroteReg w rd (fsRd 0 0) 4 t))
        ∧ (∀ u bs, r.coreLoad (s.readS rb).toNat size = .ok (u, bs) →
          (mid < 2 → Completes (exec (.fswrite rd ra rb) s) fun t => ∃ y : FStore, u.FsLeaves rd f y (fsRd 0 0) t
            ∧ (∀ k, entry y k = if 4 * k < size then BitVec.ofNat 32 (leAt bs (4 * k) 4) else entry x k)
            ∧ y = (if mid = 0 then { x with l := y.l } else { x with b := y.b }))
          ∧ (mid = 2 → leAt bs 4 4 < 0x3F800000 → Completes (exec (.fswrite rd ra rb) s)
              (u.FsLeaves rd f { x with flag := BitVec.ofNat 5 (leAt bs 1 1), eps := BitVec.ofNat 32 (leAt bs 4 4) } (fsRd 0 0)))
          ∧ (mid = 2 → 0x3F800000 ≤ leAt bs 4 4 → Completes (exec (.fswrite rd ra rb) s)
              (u.FsEnds f (WroteReg u rd (fsRd 1 0) 4))))))

/-- R357, R360-R364, R367-R371: the factor-store words but the rotations. -/
def Obligations.FactorStores : Prop := Claims.FactorRefusals ∧ Claims.FactorForms

/-- R365, R366: `fsupd` absorbs and `fsddt` removes a weighted vector column by column; the first column of `fsddt` that loses definiteness
takes trap 11 with TVAL the column, and every store as it was. `r` is as in `FactorRefusals`. -/
def Obligations.FactorRotations : Prop :=
  ∀ (s u : State) (rd : DReg) (ra rb : SReg) (bs : List Byte),
    let v := (s.readS ra).toNat
    let f := v % 64
    let wt := BitVec.ofNat 32 (v / 2 ^ 32)
    let r := s.fsResume f
    let x := r.fstore f
    let after (w : FsWork) : FStore := { x with l := w.l, b := w.b, flag := x.flag ||| w.fl }
    v = f + 2 ^ 32 * wt.toNat → s.OwnsStore f → (s.readS rb).toNat % 16 = 0 → s.pkg.haltFs = false → x.busy = none → wt.toNat < 0x7F800000 → x.n ≠ 0 →
    r.coreLoad (s.readS rb).toNat (4 * (x.n + 8)) = .ok (u, bs) →
    (∃ w : Nat → FsWork, FsStart x wt bs (w 0) ∧ (∀ k < x.n, UpColumn x.n k (w k) (w (k + 1)))
      ∧ Completes (exec (.fsupd rd ra rb) s) (u.FsLeaves rd f (after (w x.n)) (fsRd 0 (w x.n).fl)))
    ∧ (∃ (w : Nat → FsWork) (k : Nat), k ≤ x.n ∧ FsStart x wt bs (w 0)
      ∧ (∀ j < k, definite ((w j).getL j j) ((w j).getX j) x.eps = true ∧ DownColumn x.n j (w j) (w (j + 1)))
      ∧ (k = x.n → Completes (exec (.fsddt rd ra rb) s) (u.FsLeaves rd f (after (w k)) (fsRd 0 (w k).fl)))
      ∧ (k < x.n → definite ((w k).getL k k) ((w k).getX k) x.eps = false
        ∧ (u.canTrap → Completes (exec (.fsddt rd ra rb) s) (u.FsEnds f (TookTrap u 11 (BitVec.ofNat 64 k) s.me.pc)))))

/-! ## KV block tables and shadow windows -/

/-- R220-R222, R376: the five block-table words on a range of their context's table, block by block in order, with the count in rd; a status
1 to 6 in rd changes nothing else; a structure behind a span link that is down is waited for. The model's choices: the compression fields of a
fresh block (log 62), EMPTY = 1 and a malformed descriptor (log 63), entries that are passed over uncounted (log 64), a free list or a map
entry that leads outside the pool (log 104), and which status is written where several apply (log 116). -/
def Obligations.BlockTables : Prop :=
  ∀ (s : State) (rd : DReg) (ra rb : SReg) (q l n : Nat),
    let v := (s.readS rb).toNat
    let c := s.me.ctxid.toNat % 4096
    let answer (st k : Nat) (u t : State) := WroteReg u rd (BitVec.ofNat 64 (st * 2 ^ 32 + k)) 4 t
    let ends (i : Instr) (st : Nat) := Completes (exec i s) fun t => ∃ u, OnlyReported s u ∧ (s.resid = [] → OnlyCounted s u) ∧ answer st 0 u t
    let p := v / 2 ^ 36
    let fork := v = p * 2 ^ 36 ∧ p < 2 ^ 20
    let form := v / 2 ^ 13 % 4
    let demote := v < 2 ^ 16 ∧ form ≠ 3 ∧ (v.testBit 15 = true → form = 2)
    let mayCount := s.me.priv ∨ v.testBit 12 = false ∨ (s.phase (v % 4096)).own.toNat = c
    let migr (up : Bool) : Migr := ⟨BitVec.ofNat 12 c, 0, up, form, v.testBit 15, if v.testBit 12 then some (v % 4096) else none⟩
    let forms : List (Instr × Prop) := [(.btalloc rd ra rb, v < 2), (.btfork rd ra rb, fork), (.btdrop rd ra, True),
      (.btdemote rd ra rb, demote ∧ mayCount), (.btpromote rd ra rb, v < 2 ^ 13 ∧ mayCount)]
    (s.readS ra).toNat = q * 2 ^ 36 + l * 2 ^ 20 + (n - 1) → q < 2 ^ 20 → l < 2 ^ 16 → 1 ≤ n → n ≤ 2 ^ 16 →
    -- a descriptor that must be waited for, and no table
    (∀ h, s.rangesHeld (s.btdRange c) = some h → ∀ f ∈ forms, f.2 → exec f.1 s = .next (s.holdOn h))
    ∧ (s.rangesHeld (s.btdRange c) = none → s.btdOf c = none → ∀ f ∈ forms, f.2 → ends f.1 6)
    -- operands that must be 0, and a phase of another context
    ∧ (s.canTrap →
      (2 ≤ v → Completes (exec (.btalloc rd ra rb) s) (TookTrap s 1 (s.ir.setWidth 64) s.me.pc))
      ∧ (¬ fork → Completes (exec (.btfork rd ra rb) s) (TookTrap s 1 (s.ir.setWidth 64) s.me.pc))
      ∧ (¬ demote → Completes (exec (.btdemote rd ra rb) s) (TookTrap s 1 (s.ir.setWidth 64) s.me.pc))
      ∧ (2 ^ 13 ≤ v → Completes (exec (.btpromote rd ra rb) s) (TookTrap s 1 (s.ir.setWidth 64) s.me.pc))
      ∧ (¬ mayCount →
        (demote → Completes (exec (.btdemote rd ra rb) s) (TookTrap s 6 (BitVec.ofNat 64 (v % 4096)) s.me.pc))
        ∧ (v < 2 ^ 13 → Completes (exec (.btpromote rd ra rb) s) (TookTrap s 6 (BitVec.ofNat 64 (v % 4096)) s.me.pc))))
    ∧ (∀ b, s.rangesHeld (s.btdRange c) = none → s.btdOf c = some b →
      let inside := q < 2 ^ b.ls ∧ l + n ≤ 2 ^ b.lb
      let maps (x : Nat) (k : Nat) := s.mapped b x (l + k)
      let held (x : Nat) := s.rangesHeld ((List.range n).flatMap fun k => s.entryRanges b x (l + k))
      let starts (w : Nat → State) := OnlyReported s (w 0) ∧ (s.resid = [] → OnlyCounted s (w 0))
      (¬ inside → ∀ f ∈ forms, f.2 → ends f.1 1)
      ∧ (fork → ¬ p < 2 ^ b.ls → ends (.btfork rd ra rb) 1)
      ∧ (∀ h, inside → held q = some h → ∀ f ∈ forms, f.2 → (f.1 = .btfork rd ra rb → p < 2 ^ b.ls) →
        exec f.1 s = .next (s.holdOn h))
      ∧ (∀ h, inside → fork → p < 2 ^ b.ls → held q = none → held p = some h → exec (.btfork rd ra rb) s = .next (s.holdOn h))
      ∧ (inside → held q = none →
        (v < 2 →
          let run := s.freeRun b n b.head
          ((∃ k < n, maps q k ≠ none) → ends (.btalloc rd ra rb) 3)
          ∧ ((∀ k < n, maps q k = none) → (b.empty = true ∨ b.free < n ∨ run = none) → ends (.btalloc rd ra rb) 4)
          ∧ ((∀ k < n, maps q k = none) → b.empty = false → n ≤ b.free → run ≠ none → ∃ (w : Nat → State) (tab : Nat → Btd),
              starts w ∧ tab 0 = b
              ∧ (∀ k < n, Allocated q (l + k) (v == 1) (w k) (tab k) (w (k + 1)) (tab (k + 1)))
              ∧ Completes (exec (.btalloc rd ra rb) s) (answer 0 n (w n))))
        ∧ (fork → p < 2 ^ b.ls → held p = none →
          ((∃ k < n, maps q k = none) → ends (.btfork rd ra rb) 2)
          ∧ ((∀ k < n, maps q k ≠ none) → (∃ k < n, maps p k ≠ none) → ends (.btfork rd ra rb) 3)
          ∧ ((∀ k < n, maps q k ≠ none) → (∀ k < n, maps p k = none) → ∃ (w : Nat → State) (m : Nat), m ≤ n ∧ starts w
              ∧ (∀ k < m, w (k + 1) = w k ∨ Shared b q p (l + k) (w k) (w (k + 1)))
              ∧ (∀ k < m, (w k).mapped b q (l + k) ≠ none → Shared b q p (l + k) (w k) (w (k + 1)))
              ∧ (m = n → Completes (exec (.btfork rd ra rb) s) (answer 0 n (w n)))
              ∧ (m < n → (∃ i, (w m).mapped b q (l + m) = some i ∧ 65535 ≤ ((w m).pbe b i).ref) ∧ ends (.btfork rd ra rb) 5)))
        ∧ (∃ (w : Nat → State) (tab : Nat → Btd) (freed : Nat → Bool), starts w ∧ tab 0 = b
            ∧ (∀ k < n, Dropped c q (l + k) (w k) (tab k) (w (k + 1)) (tab (k + 1)) (freed k))
            ∧ Completes (exec (.btdrop rd ra) s) (answer 0 (((List.range n).filter freed).length) (w n)))
        ∧ (demote → mayCount → ∃ (w : Nat → State) (begun : Nat → Bool), starts w
            ∧ (∀ k < n, Migrating b q (l + k) (migr false) (w k) (w (k + 1)) (begun k))
            ∧ Completes (exec (.btdemote rd ra rb) s) (answer 0 (((List.range n).filter begun).length) (w n)))
        ∧ (v < 2 ^ 13 → mayCount → ∃ (w : Nat → State) (begun : Nat → Bool), starts w
            ∧ (∀ k < n, Migrating b q (l + k) (migr true) (w k) (w (k + 1)) (begun k))
            ∧ Completes (exec (.btpromote rd ra rb) s) (answer 0 (((List.range n).filter begun).length) (w n)))))

/-- R224, R225, R376: a migration waits while a structure of its table lies behind a span link that is down; a demotion that completes leaves
its block COLD, in the form asked or, where coding gains nothing or an element is not finite, in the next one, and reads give its bytes or
their restored values; a promotion leaves those values in the hot slot of a LIVE block. Each migration counts in its phase, soft errors of what
it reads are reported (R352), and no other cell changes. The model's choices: a coded size counts modulo the block size and one
(log 11), a promotion keeps CLEN (log 62), and the values of a coded slot are kept beside its bytes, which nothing fixes (log 65). -/
def Obligations.Migrations : Prop :=
  ∀ (s : State) (k : Nat) (m : Migr) (b : Btd) (hs cs ps : List Nat),
    let hot := hs.map s.readCell
    let lossy := lossyBytes (if m.bf16 then fmtBF16 else fmtF16) hot
    let coded := Config.codedSize s.tick
    let gone (t : State) := (∀ j, SMap.get none t.migrs j = if j = k then none else SMap.get none s.migrs j)
      ∧ (∀ n, t.phase n = if m.post = some n then (s.phase n).counted s.gcyc else s.phase n)
    let reads (u : State) := OnlyReported s u ∧ (s.resid = [] → OnlyCounted s u)
    SMap.get none s.migrs k = some m → s.btdOf m.ctx.toNat = some b →
    (s.migrHeld m = true → exec (.demotionCompletion k) s = .next s ∧ exec (.promotionCompletion k) s = .next s)
    ∧ (s.migrHeld m = false → m.blk < b.npool →
    s.liveCells (b.hotSlot m.blk) b.size = some hs → s.liveCells (b.coldSlot m.blk) b.size = some cs → s.liveCells (b.poolAt m.blk) 8 = some ps →
    hs.Nodup → cs.Nodup → ps.Nodup → (∀ a ∈ ps, a ∉ hs ∧ a ∉ cs) →
    (m.promote = false → Completes (exec (.demotionCompletion k) s) fun t =>
      (m.form = 0 ∨ (m.form = 1 ∨ lossy = none) ∧ b.size ≤ coded →
        t.pbe b m.blk = { s.pbe b m.blk with st := 3, cold := true, cmp := 0, bf16 := false, clen := b.size } ∧ t.coldData b m.blk = hot)
      ∧ (m.form = 1 ∨ (m.form ≠ 0 ∧ lossy = none) → coded < b.size →
        t.pbe b m.blk = { s.pbe b m.blk with st := 3, cold := true, cmp := 1, bf16 := false, clen := coded }
        ∧ (hot ≠ [] → t.coldData b m.blk = hot))
      ∧ (∀ r, m.form = 2 → lossy = some r →
        t.pbe b m.blk = { s.pbe b m.blk with st := 3, cold := true, cmp := 2, bf16 := m.bf16, clen := coded % (b.size + 1) }
        ∧ (r ≠ [] → t.coldData b m.blk = r))
      ∧ (∀ a, a ∉ ps → a ∉ cs → t.readCell a = s.readCell a)
      ∧ gone t ∧ ∃ u, reads u ∧ t = { u with
          mem := t.mem, resid := t.resid, cold := t.cold, migrs := t.migrs, phases := t.phases, perf := t.perf })
    ∧ (m.promote = true → (s.coldData b m.blk).length = b.size → Completes (exec (.promotionCompletion k) s) fun t =>
        hs.map t.readCell = s.coldData b m.blk
        ∧ t.pbe b m.blk = { s.pbe b m.blk with st := 1, cold := false, cmp := 3 }
        ∧ (∀ a, a ∉ ps → a ∉ hs → t.readCell a = s.readCell a)
        ∧ gone t ∧ ∃ u, reads u ∧ t = { u with mem := t.mem, resid := t.resid, migrs := t.migrs, phases := t.phases, perf := t.perf }))

/-- R226, R227: `swbind` answers the window base that its slot had, and binds the slot of its context to the descriptor, or unbinds it where NPOS
is 0; a descriptor that breaks R226 or meets another bound window takes the stream fault. -/
def Obligations.ShadowBinding : Prop :=
  ∀ (s : State) (rd : DReg) (ra rb : SReg),
    let a := s.readS ra
    let n := (s.readS rb).toNat
    let k := 64 * (s.me.ctxid.toNat % 4096) + n
    (64 ≤ n → s.canTrap → Completes (exec (.swbind rd ra rb) s) (TookTrap s 1 (s.ir.setWidth 64) s.me.pc))
    ∧ (n < 64 → a.toNat % 32 ≠ 0 → s.canTrap → Completes (exec (.swbind rd ra rb) s) (TookTrap s 7 a s.me.pc))
    ∧ (∀ u bs, n < 64 → a.toNat % 32 = 0 → s.Gets a.toNat 32 u bs →
      let w : Shadow := ⟨BitVec.ofNat 64 (leAt bs 0 8), BitVec.ofNat 64 (leAt bs 8 8), BitVec.ofNat 64 (leAt bs 16 8), leAt bs 24 4,
        (leAt bs 28 1).testBit 3, leAt bs 28 1 % 8⟩
      let last (x : Shadow) := x.winb.toNat + x.npos * esizeOf x.esize
      let unbinds := leAt bs 24 4 % 2 ^ 25 = 0
      let size := 2 ^ w.esize
      let good := leAt bs 0 8 < 2 ^ 56 ∧ leAt bs 0 8 % 64 = 0 ∧ leAt bs 8 8 < 2 ^ 56 ∧ leAt bs 8 8 % size = 0 ∧ leAt bs 16 8 < 2 ^ 56
        ∧ leAt bs 16 8 % (if w.wide then 8 else 4) = 0 ∧ leAt bs 24 4 ≤ 16777216 ∧ leAt bs 28 1 < 16 ∧ w.esize ≤ 6
        ∧ leAt bs 29 3 = 0
      let meets := ∃ x ∈ s.shadows, x.1 / 64 = s.me.ctxid.toNat % 4096 ∧ x.1 % 64 ≠ n ∧ x.2.npos ≠ 0
        ∧ x.2.winb.toNat < last w ∧ w.winb.toNat < last x.2
      (unbinds ∨ (good ∧ ¬ meets) → Completes (exec (.swbind rd ra rb) s) fun t => ∃ v : State,
        (∀ j, v.shadow j = if j = k then (if unbinds then Shadow.reset else w) else u.shadow j)
        ∧ v = { u with shadows := v.shadows } ∧ WroteReg v rd (s.shadow k).winb 4 t)
      ∧ (¬ unbinds → ¬ (good ∧ ¬ meets) → u.canTrap → Completes (exec (.swbind rd ra rb) s) (TookTrap u 9 a u.me.pc)))

/-! ## The dispatcher -/

/-- R162-R164, R169, R206, R378: doorbells, and the registers of the dispatcher window; who may not direct the dispatcher changes nothing. The
model's choices: the offsets between and after the blocks hold nothing (log 43), and the host's writes are ignored and its doorbells discarded
before boot step 6 (log 44). While an earlier access of the host waits for a span link, its later ones keep behind it (R164, R374). -/
def Obligations.DispatcherWindow : Prop :=
  ∀ (s : State) (p : Party) (q c off : Nat) (v : W64),
    let x := s.queue q
    let w := v.toNat % 2 ^ 32
    let put (old : W64) (hi : Bool) (mask : W64) : W64 :=
      BitVec.ofNat 64 (if hi then old.toNat % 2 ^ 32 + 2 ^ 32 * w else w + old.toNat / 2 ^ 32 * 2 ^ 32) &&& mask
    let at4 (o : Nat) := exec (.dispatcherWindowWrite p o 4 v) s
    let bit (k : Nat) := v.getLsbD k
    let setsCtx (y : Ctx) (t : State) := t.ctx c = y ∧ (∀ j, j ≠ c → t.ctx j = s.ctx j) ∧ t = { s with ctxs := t.ctxs }
    let usable := decide (1 ≤ x.ring.toNat % 64 ∧ x.ring.toNat % 64 ≤ 16)
    let fixed (y : Queue) : Queue := if x.en = true ∧ (y.ring ≠ x.ring ∨ y.ctx ≠ x.ctx) then { x with dberr := true } else y
    let rings := s.Directs p ∨ (p = .host ∧ s.pkg.power = true)
    let clear := p = .host → s.hostLate = false
    let keeps (o n x : Nat) : State := { s with late := s.late ++ [⟨none, 0x43000000000 + o, leBytes n x, none, true, 0⟩] }
    (¬ s.Directs p → exec (.teardown p c) s = .next s ∧ ∀ z, exec (.dispatcherWindowWrite p off z v) s = .next s)
    ∧ (¬ rings → exec (.doorbell p q (BitVec.ofNat 32 w)) s = .next s)
    ∧ (p = .host → s.hostLate = true →
      (rings → q < 262144 → exec (.doorbell p q (BitVec.ofNat 32 w)) s = .next (keeps (32 * q + 16) 4 w))
      ∧ (s.Directs p → c < 4096 → exec (.teardown p c) s = .next (keeps (0x1000008 + 16 * c) 4 256))
      ∧ (∀ z, s.Directs p → (z = 4 ∨ z = 8) → off % z = 0 → off + z ≤ 0x1020100 →
        exec (.dispatcherWindowWrite p off z v) s = .next (keeps off z v.toNat)))
    ∧ (clear → rings → q < 262144 → Completes (exec (.doorbell p q (BitVec.ofNat 32 w)) s) (s.Rung q (BitVec.ofNat 32 w)))
    ∧ (clear → s.Directs p → q < 262144 →
      Completes (at4 (32 * q)) (s.SetsQueue q (fixed { x with ring := put x.ring false 0x00FFFFFFFFFFFFFF }))
      ∧ Completes (at4 (32 * q + 4)) (s.SetsQueue q (fixed { x with ring := put x.ring true 0x00FFFFFFFFFFFFFF }))
      ∧ Completes (at4 (32 * q + 8)) (s.SetsQueue q (fixed { x with
          en := bit 31 && usable && s.pkg.bootStep == 6, dev := bit 30, irq := bit 29, ctx := v.setWidth 12,
          dberr := x.dberr || (bit 31 && !usable) }))
      ∧ at4 (32 * q + 12) = .next s
      ∧ Completes (at4 (32 * q + 16)) (s.Rung q (BitVec.ofNat 32 w))
      ∧ Completes (at4 (32 * q + 20)) (s.SetsQueue q { x with dberr := false }))
    ∧ (clear → s.Directs p → c < 4096 →
      Completes (at4 (0x1000000 + 16 * c)) (setsCtx { s.ctx c with save := put (s.ctx c).save false 0x00FFFFFFFFFFF000 })
      ∧ Completes (at4 (0x1000004 + 16 * c)) (setsCtx { s.ctx c with save := put (s.ctx c).save true 0x00FFFFFFFFFFF000 })
      ∧ at4 (0x1000008 + 16 * c) = (if bit 8 then exec (.teardown p c) s else .next s)
      ∧ at4 (0x100000C + 16 * c) = .next s
      ∧ Completes (at4 (0x1010000 + 16 * c)) (setsCtx { s.ctx c with root := put (s.ctx c).root false 0x000FFFFFFFFFE001 })
      ∧ Completes (at4 (0x1010004 + 16 * c)) (setsCtx { s.ctx c with root := put (s.ctx c).root true 0x000FFFFFFFFFE001 })
      ∧ Completes (at4 (0x1010008 + 16 * c)) (setsCtx { s.ctx c with btd := put (s.ctx c).btd false 0x000FFFFFFFFFFFC1 })
      ∧ Completes (at4 (0x101000C + 16 * c)) (setsCtx { s.ctx c with btd := put (s.ctx c).btd true 0x000FFFFFFFFFFFC1 }))
    ∧ (clear → s.Directs p → off % 4 = 0 → 0x1020000 ≤ off → exec (.dispatcherWindowWrite p off 4 v) s = .next s)
    ∧ (clear → s.Directs p → off % 8 = 0 → off + 8 ≤ 0x1020100 → ∀ u, at4 off = .next u →
      exec (.dispatcherWindowWrite p off 8 v) s = exec (.dispatcherWindowWrite p (off + 4) 4 (v >>> 32)) u)

/-- R169, R213, R322: a teardown of a context that is not busy moves its generation on, removes its pending loads, stops its resident loads at
their next boundary with ABORTED, and abandons its stalled streams; one of a busy context does nothing. A launch that has already failed keeps
its status, which is the model's choice (log 50). -/
def Claims.Teardowns : Prop :=
  ∀ (s : State) (p : Party) (c : Nat), s.Directs p → (p = .host → s.hostLate = false) → c < 4096 →
    let x := s.ctx c
    let of (m : Nat) := (s.launch (s.load m).launch).live = true ∧ s.loadCtx m = c ∧ (s.load m).st ≠ .ended
    (x.busy = true → exec (.teardown p c) s = .next s)
    ∧ (x.busy = false → Completes (exec (.teardown p c) s) fun t =>
        t.ctx c = { x with gen := x.gen + 1, busy := (t.ctx c).busy } ∧ (∀ k, k ≠ c → t.ctx k = s.ctx k)
        ∧ (∀ m, (¬ of m → t.load m = s.load m) ∧ (of m → (s.load m).st = .pending → s.Removes m 10 t)
            ∧ (of m → (s.load m).st = .resident → t.load m = s.stopped m 10))
        ∧ (∀ i, (s.agu i).st = .stalled → (s.agu i).ctx.toNat = c → (t.agu i).st = .bound)
        ∧ ((∃ m, of m ∧ (s.load m).st = .resident) → (t.ctx c).busy = true)
        ∧ (∀ k, t.stack k = { s.stack k with tables := (t.stack k).tables })
        ∧ (∀ k < 16, ∀ j, (SMap.get SubTable.reset (t.stack k).tables j).v = true → (SMap.get SubTable.reset (t.stack k).tables j).ctx.toNat ≠ c)
        ∧ (s.otctx.toNat = 4096 + c → t.otctx = s.otctx &&& 0xFFF)
        ∧ (∀ h, t.queue h = s.queue h) ∧ (s.resid = [] → ∀ j, t.core j = s.core j))

/-- R20, R167, R238, R376, R405: a head record that a test rejects leaves with its status, one that cannot be read leaves with DBERR, and one whose
dependence holds it back, or that lies behind a span link that is down, stays; a ready one that has waited 2 ms goes up one level; a ready one
that no other ready head comes before is taken, with one pending load for each stage of its graph, or refused with CONFIG-FAULT. `v` is the
machine as the dispatcher's reads for the queue see it, those that a package took with it reading as 0xFF (R376). That all the stages' loads are
pending at once is the model's choice (log 39). -/
def Claims.Records : Prop :=
  ∀ (s : State) (q : Nat),
    let x := s.queue q
    let v := s.forQueue q
    (∀ r st, s.Heads q r → s.rejects q r = some st →
      exec (.recordTake q) s = .next s
      ∧ Completes (exec (.recordRejection q) s) fun t => ∃ w u y : State, OnlyCounted s w ∧ w.SetsQueue q x.popped u
        ∧ u.Completed q x.ctx.toNat r st y
        ∧ SMap.get 0 t.perf 0x301 = SMap.get 0 s.perf 0x301 + 1 ∧ t = { y with perf := t.perf })
    ∧ (∀ r, s.Heads q r → s.rejects q r = none → s.depWaits r →
        exec (.recordTake q) s = .next s ∧ exec (.recordRejection q) s = .next s ∧ exec (.queueLevelRaise q) s = .next s)
    ∧ (x.en = true → x.Usable → x.tailix ≠ x.headix → s.headRecord q = none →
      (s.ctxHeld x.ctx.toNat .load [x.headSlot] ≠ none →
        exec (.recordTake q) s = .next s ∧ exec (.recordRejection q) s = .next s ∧ exec (.queueLevelRaise q) s = .next s)
      ∧ (s.ctxHeld x.ctx.toNat .load [x.headSlot] = none → Completes (exec (.recordRejection q) s) fun t => ∃ w u, OnlyReported s w
          ∧ w.SetsQueue q { x.popped with dberr := true } u ∧ t = { u with irqs := if x.irq then q % 2040 :: s.irqs else s.irqs }))
    ∧ (∀ r, s.Heads q r → s.rejects q r = none → ¬ s.depWaits r →
      let c := r.ctx.toNat
      let level := min 7 (r.prio.toNat + x.raises)
      exec (.recordRejection q) s = .next s
      ∧ (4000000 ≤ x.waited → Completes (exec (.queueLevelRaise q) s)
          (s.SetsQueue q { x with raises := if level < 7 then x.raises + 1 else x.raises, waited := 0 }))
      ∧ (x.waited < 4000000 → exec (.queueLevelRaise q) s = .next s)
      ∧ (s.ctxHeld c .load (v.takeRanges c r.gd.toNat) ≠ none → exec (.recordTake q) s = .next s)
      ∧ ((∃ p ∈ s.queues, s.isReady p.1 = true ∧ s.beats p.1 q = true) → exec (.recordTake q) s = .next s)
      ∧ ((∀ p ∈ s.queues, s.isReady p.1 = true → s.beats p.1 q = false) → s.ctxHeld c .load (v.takeRanges c r.gd.toNat) = none →
        let entry (g : Graph) (i : Nat) : Option LoadDesc := ((g.entry[i]?).bind fun k => g.table[k]?).bind (v.loadDescAt c)
        let refused := v.graphAt c r.gd.toNat = none ∨ ∃ g, v.graphAt c r.gd.toNat = some g ∧ ∃ i < g.entry.length,
          ∀ d, entry g i = some d → s.couldFit r.mask d = false
        (refused → Completes (exec (.recordTake q) s) fun t => ∃ w u y : State, OnlyReported s w ∧ w.SetsQueue q x.popped u
            ∧ y = { u with perf := y.perf } ∧ SMap.get 0 y.perf 0x300 = SMap.get 0 w.perf 0x300 + 1 ∧ y.Completed q c r 6 t)
        ∧ (∀ g (fld : Nat → Nat) (d : Nat → LoadDesc), v.graphAt c r.gd.toNat = some g → g.entry.length = g.nstage →
            (∀ i < g.nstage, ((g.entry[i]?).bind fun k => g.table[k]?) = some (fld i) ∧ v.loadDescAt c (fld i) = some (d i)) →
            (∀ i < g.nstage, s.couldFit r.mask (d i) = true) →
            Completes (exec (.recordTake q) s) fun t => ∃ (k : Nat) (id : Nat → Nat),
              (s.launch k).live = false
              ∧ t.launch k = { (t.launch k) with
                  live := true, queue := q, record := r, level := level, nload := g.nload, nstage := g.nstage, quantum := g.quantum,
                  entry := g.entry, ended := [], fail := 0, failAt := 0, table := g.table,
                  descs := (List.range g.nstage).map fun i => ((g.entry[i]?).getD 0, d i) }
              ∧ (∀ i < g.nstage, SMap.get [] (t.launch k).pushes i = (d i).pushes)
              ∧ (∀ j, j ≠ k → t.launch j = s.launch j)
              ∧ (∀ i < g.nstage, ∀ j < g.nstage, id i = id j → i = j)
              ∧ (∀ i < g.nstage, (s.load (id i)).st = .ended ∧ t.load (id i) = { Load.reset with
                  st := .pending, launch := k, stage := i, x := (g.entry[i]?).getD 0, fld := BitVec.ofNat 64 (fld i), desc := d i,
                  ttcount := (d i).ttcount, fragseq := (d i).fragseq, level := level, sqds := (d i).sqds.map (BitVec.ofNat 64),
                  since := s.gcyc })
              ∧ (∀ m, (∀ i < g.nstage, m ≠ id i) → t.load m = s.load m)
              ∧ t.queue q = x.popped ∧ (∀ j, j ≠ q → t.queue j = s.queue j)
              ∧ SMap.get 0 t.perf 0x300 = SMap.get 0 s.perf 0x300 + 1
              ∧ t = { s with queues := t.queues, launches := t.launches, loads := t.loads, perf := t.perf })))

/-- R20, R167, R169, R405: teardowns, and the records at the heads of the work queues. -/
def Obligations.TeardownsAndRecords : Prop := Claims.Teardowns ∧ Claims.Records

/-! ## Loads on the fabric -/

/-- R238-R240, R358, R376: a pending load waits while no die and anchor can take it, or a span link is down; then it is placed: its regions are
cleared and take the images of their descriptors, its AGUs are attached, and nothing else of them changes (R194), and its stores bound; a form
that no die can hold, refused images and a store of another context end its launch. `v` is the machine as the dispatcher's reads for the load
see it (R376). -/
def Claims.Placements : Prop :=
  ∀ (s : State) (l : Nat) (site : PlaceArgs),
    let x := s.load l
    let v := s.forLoad l
    let c := s.loadCtx l
    let mask := (s.launch x.launch).record.mask
    let d := x.desc
    let run := exec (.placement l site) s
    let held := s.loadHeld l (v.descRanges c d) = true
    let foreign := ∃ i < 8, d.fsbind.getLsbD i = true ∧ (s.fstore (8 * site.die + i)).own.getLsbD 12 = true
      ∧ (s.fstore (8 * site.die + i)).own.toNat % 4096 ≠ c
    (x.st ≠ .pending ∨ x.stop ≠ 0 ∨ x.image ≠ none → run = .next s)
    ∧ (x.st = .pending → x.stop = 0 → x.image = none →
        (s.couldFit mask d = false → Completes run (s.FailsLaunch l 6))
        ∧ (s.couldFit mask d = true → s.canPlace mask d site = false → run = .next s)
        ∧ (s.couldFit mask d = true → s.canPlace mask d site = true →
          (foreign → Completes run (s.FailsLaunch l 6))
          ∧ (¬ foreign → s.storesFree l d site.die = false ∨ held → run = .next s)
          ∧ (¬ foreign → s.storesFree l d site.die = true → ¬ held → v.imagesOf c d true = none → Completes run (s.FailsLaunch l 6))
          ∧ (∀ is, ¬ foreign → s.storesFree l d site.die = true → ¬ held → v.imagesOf c d true = some is → d.Laid site.die →
            Completes run fun t =>
                t.load l = { x with
                  st := .resident, serial := s.serial + 1, die := site.die, regions := d.regions.map fun r => r.origin site,
                  placedAt := s.gcyc, lost := none, fs := (t.load l).fs, sqds := d.sqds.map (BitVec.ofNat 64), fresh := true,
                  counted := false, reqPreempt := false, ttcount := d.ttcount, ttrun := 0, fragseq := d.fragseq }
                ∧ (∀ f, f ∈ (t.load l).fs ↔ ∃ i < 8, f = 8 * site.die + i ∧ d.fsbind.getLsbD i = true)
                ∧ (∀ m, m ≠ l → t.load m = s.load m)
                ∧ (∀ i r im area, d.regions[i]? = some r → is[i]? = some im → site.replay[i]? = some area →
                    PlacedRegion s l c i site d r im area t)
                ∧ (∀ g, (∀ r ∈ d.regions, g ≠ r.origin site) → t.region g = s.region g)
                ∧ s.BindsStores l c d site.die t
                ∧ t = { s with
                  elems := t.elems, tiles := t.tiles, regions := t.regions, agus := t.agus, fstores := t.fstores, loads := t.loads,
                  launches := t.launches, serial := s.serial + 1, perf := t.perf })))

/-- R174, R240, R252-R254, R312, R323: every region of a resident load receives its start pulse in the same cycle: QUIET and the operand slots' V
clear, a window opens at row 0, and the pulse that follows placement gives LSTART; before all of them are ready, and while a table load waits to
be performed before the pulse, nothing happens. -/
def Claims.StartPulses : Prop :=
  ∀ (s : State) (l : Nat),
    let x := s.load l
    let all := x.st = .resident ∧ (∀ g ∈ x.regions, (s.region g).mode = .ready) ∧ ∀ p ∈ s.cores, p.2.await ≠ some (x.serial, true)
    (¬ all → exec (.tileTaskStart l) s = .next s)
    ∧ (all → Completes (exec (.tileTaskStart l) s) fun t =>
        t.load l = { x with fresh := false, counted := false } ∧ (∀ m, m ≠ l → t.load m = s.load m)
        ∧ (∀ g ∈ x.regions,
            let r := s.region g
            t.region g = { r with
              mode := .run, rowix := 0, relapsed := 0, started := false, step := none, waits := [], settle := false, formReq := false,
              span := none, pkrem := [], work := [], saved := [], closed := false, held := false,
              beat := (t.region g).beat, touched := [], switched := false,
              lstart := if x.fresh then s.gcyc - BitVec.ofNat 64 r.rc else r.lstart, win := (t.region g).win }
            ∧ (t.region g).win.row = 0 ∧ (t.region g).win.elapsed = 0 ∧ (t.region g).win.fault = none ∧ (t.region g).win.log = []
            ∧ (∀ e ∈ r.elemIds g, t.elem e = { s.elem e with estat := (s.elem e).estat &&& 0xFFFFFF7F })
            ∧ (∀ k ∈ r.tileIds g, t.tile k = { s.tile k with opa := (t.tile k).opa, opb := (t.tile k).opb }
              ∧ ∀ j, (SMap.get OpSlot.reset (t.tile k).opa j).v = false ∧ (SMap.get OpSlot.reset (t.tile k).opb j).v = false))
        ∧ (∀ g, g ∉ x.regions → t.region g = s.region g)
        ∧ t = { s with elems := t.elems, tiles := t.tiles, regions := t.regions, loads := t.loads })

/-- R174, R238-R240, R312, R323, R358: placements and start pulses. -/
def Obligations.PlacementAndStart : Prop := Claims.Placements ∧ Claims.StartPulses

/-- R170, R172, R240, R244, R313: when every region of a load stands at its boundary the tile-task is counted, and then the load ends, skips a quiet
tile-task, is pre-empted, or starts its next one; until then a region waits. Where its regions stand at FORM rows that settled under a request,
the load is pre-empted there, or ends there if it has been torn down. The model's choices: what TTCOUNT = 0 starts on (log 77), an end
waits for the load's outputs (log 57), and what a region given up keeps (log 79). -/
def Obligations.Boundaries : Prop :=
  ∀ (s : State) (g : Nat),
    let r := s.region g
    let l := r.load
    let x := s.load l
    let y := { x with ttrun := if x.counted then x.ttrun else x.ttrun + 1, counted := true }
    let u := if x.counted then s else s.setLoad l y
    let run := exec (.tileTaskBoundary g) s
    let all := ∀ h ∈ x.regions, (s.region h).mode = .boundary
    let dry := x.ttcount = 0 ∧ s.dry l = true ∧ s.producersEnded l = true
    let last := (x.ttcount ≠ 0 ∧ x.ttcount ≤ x.ttrun + 1) ∨ dry
    let over_ (t : State) := t.load l = Load.reset ∧ (∀ h ∈ x.regions, t.region h = { Region.reset with gr := (s.region h).gr })
      ∧ ∀ i, (t.agu i).of l = false
    let ready (t : State) := (∀ h ∈ x.regions, t.region h = { s.region h with mode := .ready })
      ∧ (∀ h, h ∉ x.regions → t.region h = s.region h) ∧ t.load l = y ∧ (∀ m, m ≠ l → t.load m = s.load m)
      ∧ t = { s with regions := t.regions, loads := t.loads }
    (r.mode ≠ .boundary → run = .next s)
    ∧ (r.mode = .boundary → ¬ all →
      ((∀ h ∈ x.regions, ∀ k, (s.region h).mode ≠ .switching k) ∨ ¬ last → run = .next s)
      ∧ ((∃ h ∈ x.regions, ∃ k, (s.region h).mode = .switching k) → last →
        Completes run fun t => t.region g = r.detect 2
          ∧ (r.freeze = none → t.region g = { r with freeze := some ⟨2, 3, r.rc + 1, none⟩ })
          ∧ (∀ h, h ≠ g → t.region h = s.region h) ∧ t = { s with regions := t.regions }))
    ∧ (r.mode = .boundary → all → (∃ h ∈ x.regions, (s.region h).formReq = true) →
      (x.stop = 0 → run = exec (.preemption l) s)
      ∧ (x.stop ≠ 0 → s.samplesLeft l = true ∨ s.egressMoves l = true → run = .next s)
      ∧ (x.stop ≠ 0 → x.stop ≠ 1 → s.samplesLeft l = false → s.egressMoves l = false → Completes run fun t =>
          over_ t ∧ s.FailsLaunch l x.stop t))
    ∧ (r.mode = .boundary → all → (∀ h ∈ x.regions, (s.region h).formReq = false) → s.samplesLeft l = false →
      s.egressMoves l = false →
      (x.stop ≠ 0 → x.stop ≠ 1 → Completes run fun t => over_ t ∧ s.FailsLaunch l x.stop t)
      ∧ (x.stop = 0 →
        let ends := (x.ttcount ≠ 0 ∧ x.ttcount ≤ y.ttrun) ∨ dry
        let skips := x.ttcount ≠ 0 ∧ s.skips l = true
        (ends → s.outputsLeft l = false → Completes run over_)
        ∧ (¬ ends → skips → Completes run fun t =>
              t.load l = { y with ttrun := y.ttrun + 1 } ∧ (∀ m, m ≠ l → t.load m = s.load m) ∧ (∀ h, t.region h = s.region h)
              ∧ SMap.get 0 t.perf (0x100 + 16 * x.die + 3) = SMap.get 0 s.perf (0x100 + 16 * x.die + 3) + 1
              ∧ t = { s with loads := t.loads, perf := t.perf })
        ∧ (¬ ends → ¬ skips → x.reqPreempt = true → run = exec (.preemption l) u)
        ∧ (¬ ends → ¬ skips → x.reqPreempt = false → u.swapTo l = none →
          (x.ttcount = 0 → s.hasInput l = true → Completes run ready)
          ∧ (x.ttcount = 0 → s.hasInput l = false → run = .next u)
          ∧ (x.ttcount ≠ 0 → Completes run ready))))

/-- R172, R173, R195, R240, R244, R322, R358, R376, R381: a request waits for the load's boundary, where a due tile-task that is quiet has been
skipped, or for the end of a switch; there the load is saved and gives up its regions, and a resumption on its own die gives it regions of the
same forms with what its image, its streams and its egress held; an image under an erased key ends the launch, and so does one that cannot be
read. The model's choices: where the image stands (log 40), several regions one after another (log 41), a request while regions settle only when
all do (log 46), released egress that waits for the resumption (log 48), what a region given up keeps (log 79), and the status CONFIG-FAULT of a
load whose image cannot be read (log 84). -/
def Obligations.Preemptions : Prop :=
  ∀ (s : State) (l : Nat) (why : PreemptWhy) (site : PlaceArgs),
    let x := s.load l
    let c := s.loadCtx l
    let all := ∀ g ∈ x.regions, (s.region g).mode = .boundary
    let switched := x.fresh = true ∧ ∀ g ∈ x.regions, (s.region g).mode = .ready ∧ (s.region g).switched = true
    let skips := x.ttcount ≠ 0 ∧ x.ttrun < x.ttcount ∧ s.skips l = true
    let due := (x.reqPreempt = true ∧ ((all ∧ x.counted = true ∧ ¬ skips) ∨ switched)) ∨ (all ∧ ∃ g ∈ x.regions, (s.region g).formReq = true)
    let plain := x.regions.flatMap fun g => s.regionBytes l g 0
    let sealed := sealImage c (s.ctx c).gen.toNat plain
    let kept := s.storeImage c (sealed.length / 16 + 1) (s.imageBase c) sealed
    (x.st ≠ .resident ∨ s.mayRequest why l = false → exec (.preemptionRequest why l) s = .next s)
    ∧ (x.st = .resident → s.mayRequest why l = true → Completes (exec (.preemptionRequest why l) s) fun t =>
        t.load l = { x with reqPreempt := true } ∧ (∀ m, m ≠ l → t.load m = s.load m)
        ∧ (∀ g, t.region g =
            if g ∈ x.regions ∧ ∀ h ∈ x.regions, (s.region h).settle = true ∧ (s.region h).mode = .run then { s.region g with formReq := true }
            else s.region g)
        ∧ t = { s with regions := t.regions, loads := t.loads })
    ∧ (x.st ≠ .resident ∨ x.stop ≠ 0 ∨ s.streamsStopped l = false ∨ ¬ due → exec (.preemption l) s = .next s)
    ∧ (x.st = .resident → x.stop = 0 → s.streamsStopped l = true → due → Completes (exec (.preemption l) s) fun t =>
        t.load l = { x with
          st := .pending, regions := [], image := some (s.imageBase c), imageLen := plain.length, plain := plain, imageKey := true,
          genAt := (s.ctx c).gen, reqPreempt := false, since := s.gcyc, counted := false, fresh := false,
          saved := (s.loadAgus l).map fun i => (i, s.agu i), out := x.regions.map fun g => (s.region g).released }
        ∧ (∀ m, m ≠ l → t.load m = s.load m)
        ∧ (∀ g ∈ x.regions, t.region g = { Region.reset with gr := (s.region g).gr } ∧ ∀ e ∈ (s.region g).elemIds g, (t.elem e).ctx = [])
        ∧ (∀ g, g ∉ x.regions → t.region g = s.region g)
        ∧ (∀ e, t.elem e = { s.elem e with ctx := (t.elem e).ctx })
        ∧ (∀ i, (t.agu i).of l = false ∧ (t.agu i).aword = (s.agu i).aword)
        ∧ SMap.get 0 t.perf 0x303 = SMap.get 0 s.perf 0x303 + 1
        ∧ kept = { s with
          mem := kept.mem, resid := kept.resid, late := kept.late, cores := kept.cores, serrcnt := kept.serrcnt, serradr := kept.serradr,
          perf := kept.perf }
        ∧ t = { kept with elems := t.elems, regions := t.regions, agus := t.agus, loads := t.loads, perf := t.perf })
    ∧ (x.image = none ∨ x.st ≠ .pending ∨ x.stop ≠ 0 → exec (.resumption l site) s = .next s)
    ∧ (∀ va, x.image = some va → x.st = .pending → x.stop = 0 →
      let v := s.forLoad l
      let run := exec (.resumption l site) s
      let ends (status : Nat) := Completes run (s.FailsPending l status)
      let held (rs : List (Nat × Nat)) := s.loadHeld l rs = true
      let mask := (s.launch x.launch).record.mask
      let first := (va, x.imageLen) :: v.loadRanges c x.fld.toNat
      let room := x.imageKey = true ∧ site.die = x.die ∧ s.canPlace mask x.desc site = true
      (x.imageKey = false → ends 7)
      ∧ (x.imageKey = true → site.die ≠ x.die ∨ s.canPlace mask x.desc site = false → run = .next s)
      ∧ (room → held first → run = .next s)
      ∧ (room → ¬ held first → v.loadDescAt c x.fld.toNat = none → ends 6)
      ∧ (∀ d, room → ¬ held first → v.loadDescAt c x.fld.toNat = some d →
        let rs := v.loadRanges c x.fld.toNat ++ v.descRanges c d ++ [(va, x.imageLen)]
        let foreign := (d.stores site.die).any (s.storeForeign c) = true
        let ready := s.canPlace mask d site = true ∧ ¬ foreign ∧ s.storesFree l d site.die = true ∧ ¬ held rs
        (s.canPlace mask d site = false → run = .next s)
        ∧ (s.canPlace mask d site = true → foreign → ends 6)
        ∧ (s.canPlace mask d site = true → ¬ foreign → s.storesFree l d site.die = false ∨ held rs → run = .next s)
        ∧ (ready → v.imagesOf c d true = none ∨ v.ctxRead c va x.imageLen = none → ends 6)
        ∧ (∀ is mem, ready → v.imagesOf c d true = some is → v.ctxRead c va x.imageLen = some mem →
          let opened := openImage c x.genAt.toNat x.plain mem
          let from_ (i : Nat) := ((d.regions.take i).map fun r => imageSize r.w r.h).sum
          Completes run fun t =>
            t.load l = { x with
              st := .resident, desc := d, serial := s.serial + 1, die := site.die, regions := d.regions.map fun r => r.origin site,
              placedAt := s.gcyc, lost := none, fs := (t.load l).fs, sqds := d.sqds.map (BitVec.ofNat 64), fresh := true, counted := false,
              reqPreempt := false, image := none, imageLen := 0, plain := [], saved := [], out := [] }
            ∧ (∀ m, m ≠ l → t.load m = s.load m)
            ∧ (∀ i r, d.regions[i]? = some r →
                let q := t.region (r.origin site)
                let o := from_ i
                let at_ (k n : Nat) := leAt opened (o + k) n
                (o + imageSize r.w r.h ≤ opened.length →
                  q.mode = .ready ∧ q.load = l ∧ q.w = r.w ∧ q.h = r.h ∧ q.rowix = at_ 4108 2 ∧ q.modc = at_ 4110 1
                  ∧ q.relapsed = at_ 4112 4 ∧ q.itern = at_ 24 4 ∧ q.rc = at_ 32 8)
                ∧ (o + imageSize r.w r.h ≤ opened.length → ∀ y < 4 * r.h, ∀ z < 4 * r.w, ∀ k < 16384,
                    SMap.get 0 (t.elem (regionElem (r.origin site) y z)).planes k = BitVec.ofNat 16
                      (leAt opened (o + 8192 + 9216 * (16 * r.w * r.h) + 17408 * (r.w * r.h) + 40960 * (4 * r.w * y + z) + 2 * k) 2))
                ∧ q.released = (x.out[i]?).getD [])
            ∧ (∀ p ∈ x.saved, (∀ q ∈ x.saved, q.1 = p.1 → q = p) → t.agu p.1 = { p.2 with
                attach := (t.agu p.1).attach, ctx := (t.agu p.1).ctx, run := (t.agu p.1).run,
                st := if p.2.st = .stalled then .running else p.2.st }))))

/-- R244-R247, R358, R376: once every region of a load has issued RECONF for the same index and its drain is over, the next load takes over the
regions in place where the forms are the same, and keeps registers, planes and accumulators; where they differ, the resident load gives its regions
up and the next one is pending at the current level; a load that is refused, or a store of another context met at step 7, is a configuration
fault. The model's choices: the next load's slots are staged at every turn of the drain (log 88), and what a region given up keeps (log 79). -/
def Obligations.Switches : Prop :=
  ∀ (s : State) (l x a : Nat) (d : LoadDesc),
    let y := s.load l
    let v := s.forLoad l
    let c := s.loadCtx l
    let foreign := (d.stores y.die).any (s.storeForeign c) = true
    let free := (∀ f ∈ d.stores y.die, s.storeTaken l f = false)
      ∧ ∀ i ∈ d.attach y.die, (s.agu i).attach = none ∨ (s.agu i).of l = true
    let held := s.loadHeld l (s.switchRanges l) = true
    let faults (o : Out) := ∀ g rest, y.regions = g :: rest → (s.region g).freeze = none → Completes o fun t => ∃ u, OnlyReported s u
      ∧ t.region g = { s.region g with freeze := some ⟨2, 3, (s.region g).rc + 1, none⟩ } ∧ (∀ h, h ≠ g → t.region h = s.region h)
      ∧ t = { u with regions := t.regions }
    (s.switchIndex l = none ∨ held → exec (.inPlaceSwitch l) s = .next s ∧ exec (.rePlacement l) s = .next s)
    ∧ (¬ held → s.switchIndex l ≠ none → s.switchTarget l = none → faults (exec (.inPlaceSwitch l) s) ∧ faults (exec (.rePlacement l) s))
    ∧ (¬ held → s.switchTarget l = some (x, a, d) → y.st = .resident → s.sameForms l d = true → v.imagesOf c d false = none →
      faults (exec (.inPlaceSwitch l) s))
    ∧ (¬ held → s.switchTarget l = some (x, a, d) → y.st = .resident → s.sameForms l d = true → ∀ is, v.imagesOf c d false = some is →
      exec (.rePlacement l) s = .next s
      ∧ (foreign → s.switchDrained l = true → y.stop = 0 → faults (exec (.inPlaceSwitch l) s))
      ∧ (s.switchDrained l = false → Completes (exec (.inPlaceSwitch l) s) fun t =>
          (∀ e, t.elem e = { s.elem e with ctx := (t.elem e).ctx })
          ∧ (∀ e k, (s.entryAt e k).st = .live → t.entryAt e k = s.entryAt e k) ∧ t = { s with elems := t.elems })
      ∧ (¬ foreign → s.switchDrained l = true → ¬ free → exec (.inPlaceSwitch l) s = .next s)
      ∧ (¬ foreign → s.switchDrained l = true → y.stop = 0 → free → y.reqPreempt = false → Completes (exec (.inPlaceSwitch l) s) fun t =>
          t.load l = { y with
            x := x, fld := BitVec.ofNat 64 a, desc := d, ttcount := d.ttcount, ttrun := 0, fragseq := d.fragseq, sqds := d.sqds.map (BitVec.ofNat 64),
            fs := d.stores y.die, fresh := true, counted := false, lost := none }
          ∧ (∀ m, m ≠ l → t.load m = s.load m)
          ∧ (∀ (i g : Nat) (r : RegionDesc) (im : RegionImage), y.regions[i]? = some g → d.regions[i]? = some r → is[i]? = some im → (∀ j > i, y.regions[j]? ≠ some g) →
              t.region g = { s.region g with
                mode := .ready, switched := true, gr := r.gr, rc := 0, rowix := 0, relapsed := 0, modc := 0, itern := 0, started := false, rows := im.rows,
                binds := (t.region g).binds, pal := (t.region g).pal, lq8 := (t.region g).lq8 })
          ∧ (∀ g, g ∉ y.regions → t.region g = s.region g)
          ∧ (∀ e, t.elem e = { s.elem e with
              ctx := (t.elem e).ctx, rules := (t.elem e).rules, planeBusy := (t.elem e).planeBusy, soport := (t.elem e).soport })
          ∧ (∀ k, t.tile k = { s.tile k with kbank := (t.tile k).kbank })
          ∧ s.BindsStores l c d y.die t
          ∧ t = { s with
            elems := t.elems, tiles := t.tiles, regions := t.regions, agus := t.agus, fstores := t.fstores, loads := t.loads,
            launches := t.launches, perf := t.perf }))
    ∧ (¬ held → s.switchTarget l = some (x, a, d) → y.st = .resident → s.sameForms l d = false →
      exec (.inPlaceSwitch l) s = .next s
      ∧ (s.switchDrained l = false ∨ s.samplesLeft l = true → exec (.rePlacement l) s = .next s)
      ∧ (s.switchDrained l = true → s.samplesLeft l = false → y.stop = 0 → Completes (exec (.rePlacement l) s) fun t =>
          t.load l = { Load.reset with
            st := .pending, launch := y.launch, stage := y.stage, x := x, fld := BitVec.ofNat 64 a, desc := d, ttcount := d.ttcount,
            fragseq := d.fragseq, level := y.level, sqds := d.sqds.map (BitVec.ofNat 64), since := s.gcyc }
          ∧ (∀ m, m ≠ l → t.load m = s.load m)
          ∧ (∀ g ∈ y.regions, (∀ k m, (s.region g).mode ≠ .gated k m) → t.region g = { Region.reset with gr := (s.region g).gr })
          ∧ (∀ g, g ∉ y.regions → t.region g = s.region g)
          ∧ (∀ i, (t.agu i).of l = false)
          ∧ t = { s with
            elems := t.elems, regions := t.regions, agus := t.agus, fstores := t.fstores, loads := t.loads, launches := t.launches,
            perf := t.perf }))

/-! ## The part and its surroundings -/

/-- R76, R151, R265, R378-R380: a core reset, and what power-on and its six steps do; a step that fails puts the part in recovery, which a good
firmware image ends; a replaced record takes effect at the next power-on; power that goes takes everything but flash. The model's choices: the
boot status bytes and the step that recovery goes back to (log 20), what a core reset keeps (log 22), package numbers taken at step 6 (log 72),
present dies (log 74), an erased key store that outlives power (log 80), all cores starting at step 5 (log 90), and the keys that an alarm of the
running cycle erases (log 107). -/
def Obligations.BringUp : Prop :=
  ∀ (s : State) (r : BootArgs) (version : Nat) (ok : Bool) (rec_ : ConfigRecord),
    let p := s.pkg
    let noted (b : Byte) (q : Package) (u t : State) := t = { u with
      pkg := { q with bootStatus := b :: q.bootStatus }, irqs := 2042 :: u.irqs }
    let boots (P : State → Prop) := Completes (exec (.powerOn r) s) P
    let started (u t : State) := (∀ n < 136, t.core n = { u.core n with run := .running, pc := (u.core n).tvec &&& ~~~(3 : W64) })
      ∧ (∀ n, 136 ≤ n → t.core n = u.core n)
    let blank (t : State) := t = { State.reset with
        agenda := s.agenda, tick := s.tick, serial := s.serial, gcyc := t.gcyc, irqs := s.irqs, hostIn := s.hostIn, cores := t.cores, mem := t.mem,
        pkg := t.pkg }
      ∧ ∀ a, t.readCell a = if 0x4000000000000 ≤ a then s.readCell a else memDefault a
    let erased := p.keyErased || (decide (p.alarm ≠ 0 ∧ p.alarmAt = s.gcyc ∧ p.alarm ≤ 4) && p.record.alarmpol.getLsbD (p.alarm - 1))
    let flash (q : Package) := q.flashOk = p.flashOk ∧ q.fwVersion = p.fwVersion ∧ q.keyErased = erased
    -- core reset
    (p.power = true → Completes (exec .coreReset s) fun t => blank t ∧ t.gcyc = s.gcyc
      ∧ t.pkg = { p with haltFs := false, fabricOff := false }
      ∧ (p.bootStep < 5 → ∀ n, t.core n = Core.reset) ∧ (5 ≤ p.bootStep → started State.reset t))
    -- bring-up
    ∧ (p.power = true → p.recovery = false →
      (p.bootStep = 0 →
        (r.ok = true ∧ p.flashOk = true ∧ p.record.minfw ≤ p.fwVersion → boots (noted 1 { p with bootStep := 1 } s))
        ∧ (¬ (r.ok = true ∧ p.flashOk = true ∧ p.record.minfw ≤ p.fwVersion) → boots (noted 0x81 { p with recovery := true } s)))
      ∧ (p.bootStep = 1 → (r.ok = true → boots (noted 2 { p with bootStep := 2 } s))
        ∧ (r.ok = false → boots (noted 0x82 { p with recovery := true } s)))
      ∧ (p.bootStep = 2 → boots fun t => ∃ u : State, noted 3 { p with
            bootStep := 3, dies := r.dies, tiles := (List.range 8).map fun d => (r.tiles[d]?).getD 0 } u t
          ∧ (∀ a, t.readCell a = if isStackCell a then 0 else s.readCell a) ∧ t.resid = [] ∧ u = { s with mem := u.mem, resid := u.resid })
      ∧ (p.bootStep = 3 → boots fun t => ∃ q : Package, noted 4 { q with bootStep := 4 } s t
          ∧ (∀ d < 8, (q.tiles[d]?).getD 0 = (p.tiles[d]?).getD 0 &&& (p.record.tiles[d]?).getD 0)
          ∧ (∀ d < 8, q.dies.getLsbD d = (p.dies.getLsbD d && decide ((p.record.tiles[d]?).getD 0 ≠ 0)))
          ∧ q = { p with dies := q.dies, tiles := q.tiles, spare := p.record.spare.map (·.length) })
      ∧ (p.bootStep = 4 → boots fun t => ∃ u : State, noted 5 { p with bootStep := 5 } u t ∧ started s t
          ∧ u = { s with cores := u.cores, nmus := [] })
      ∧ (p.bootStep = 5 → boots (noted 6 { p with
          bootStep := 6, pkgCount := if r.own < r.pkgs ∧ r.pkgs ≤ 1024 then r.pkgs else p.pkgCount,
          ownPkg := if r.own < r.pkgs ∧ r.pkgs ≤ 1024 then r.own else p.ownPkg } s)))
    ∧ (p.power = true → p.recovery = true → exec (.powerOn r) s = .next s)
    ∧ (p.power = false → boots fun t => blank { t with irqs := s.irqs } ∧ t.gcyc = 0 ∧ t.pkg.power = true ∧ flash t.pkg
        ∧ t.pkg.record = p.nextRecord.getD p.record ∧ t.pkg.nextRecord = none
        ∧ (t.pkg.bootStep = 1 ∨ (t.pkg.bootStep = 0 ∧ t.pkg.recovery = true)))
    -- flash
    ∧ (Completes (exec (.firmwareImageUpdate version ok) s) fun t =>
        if p.power = true ∧ ok = true ∧ p.record.minfw ≤ version then
          t = { s with pkg := { p with
            flashOk := true, fwVersion := version, recovery := false, bootStep := if p.recovery then 0 else p.bootStep } }
        else t = s)
    ∧ (Completes (exec (.configurationRecordUpdate rec_ ok) s) fun t =>
        if p.power = true ∧ ok = true ∧ rec_.sku = p.record.sku then t = { s with pkg := { p with nextRecord := some rec_ } } else t = s)
    ∧ (Completes (exec (.powerLoss ok) s) fun t => blank t ∧ t.gcyc = 0 ∧ t.pkg.power = false ∧ t.pkg.bootStep = 0
        ∧ t.pkg.flashOk = (p.flashOk && !ok) ∧ t.pkg.fwVersion = p.fwVersion ∧ t.pkg.keyErased = erased
        ∧ t.pkg.record = p.record ∧ t.pkg.nextRecord = p.nextRecord ∧ ∀ n, t.core n = Core.reset)

/-- R373, R374, R376, R377, R382, R384, R385: host accesses, alarms, span links, messages, link widths, frequencies and power. An access of a
package whose span link is down waits, and goes on when the link is back or its package has become unreachable; an access of the host waits
behind an earlier one that does. The model's choices: the link
of a package (log 18), link numbers (log 19), the widths and frequencies that are asked for and when (log 21), host accesses before step 6
(log 44), the frequency that a power cap or a thermal limit asks for (log 75), and what the alarms of one cycle erase at its end (log 107). -/
def Obligations.Surroundings : Prop :=
  ∀ (s : State) (source : BitVec 3) (pa k w : Nat) (bs : List Byte),
    let p := s.pkg
    let n := source.toNat
    let sets (q : Package) (t : State) := t = { s with pkg := q }
    let clear (f : Nat → Prop) := ∀ e ∈ s.regions, e.2.holds = true → e.2.awaitScan = false → ¬ f (e.1 / 128)
    let erases : Bool := decide (p.alarm ≠ 0 ∧ p.alarmAt = s.gcyc ∧ p.alarm ≤ 4) && p.record.alarmpol.getLsbD (p.alarm - 1)
    let erased (x : Load) : Load := if erases ∧ x.image.isSome = true then { x with imageKey := false } else x
    let halted (f : FStore) : FStore := if f.due then FStore.reset else { f with n := 0, l := [], b := [], busy := none }
    let plain (a z : Nat) := isDisp a = false ∧ isFabric a = false ∧ s.badPa (cellRun a z) = none
    let came (u : State) (a z : Nat) (t : State) := ∃ v, OnlyCounted u v
      ∧ t = { v with hostIn := (match u.cells a z with | some as => as.map u.readCell | none => List.replicate z 0xFF) :: u.hostIn }
    let again (u t : State) := t = u.flushLate ∧ (s.late = [] → t = u)
      ∧ (∀ a xs, s.late = [⟨none, a, xs, none, false, 0⟩] → u.heldBy a = none → WroteAt { u with late := [] } a xs t)
      ∧ (∀ a xs, s.late = [⟨none, a, xs, none, true, 0⟩] → u.heldBy a = none → plain a xs.length → WroteAt { u with late := [] } a xs t)
      ∧ (∀ a z, z ≠ 0 → s.late = [⟨none, a, [], none, true, z⟩] → u.heldBy a = none → plain a z → came { u with late := [] } a z t)
    let waits (c : Core) (x : Option (Nat × Bool)) (t : State) (j : Nat) := t.core j = { c with span := x }
    -- host accesses: those of plain memory, and those that wait
    (p.power = true → p.bootStep = 6 →
      (s.hostLate = false → s.heldBy pa = none →
        (plain pa bs.length → Completes (exec (.hostAccess ⟨true, pa, w, bs⟩) s) (WroteAt s pa bs))
        ∧ (w ≠ 0 → plain pa w → Completes (exec (.hostAccess ⟨false, pa, w, bs⟩) s) (came s pa w)))
      ∧ (s.hostLate = true ∨ s.heldBy pa ≠ none →
        (Completes (exec (.hostAccess ⟨true, pa, w, bs⟩) s) fun t => t = { s with late := s.late ++ [⟨none, pa, bs, none, true, 0⟩] })
        ∧ (w ≠ 0 → Completes (exec (.hostAccess ⟨false, pa, w, bs⟩) s) fun t => t = { s with late := s.late ++ [⟨none, pa, [], none, true, w⟩] }))
      ∧ exec (.hostAccess ⟨false, pa, 0, bs⟩) s = .next s)
    ∧ (p.power = false ∨ p.bootStep ≠ 6 → ∀ a, exec (.hostAccess a) s = .next s)
    -- alarms
    ∧ (p.power = true → 1 ≤ n → n ≤ 5 → p.alarm = 0 ∨ p.alarmAt ≠ s.gcyc → Completes (exec (.securityAlarm source) s) fun t =>
        t.pkg.haltFs = true ∧ t.pkg.fabricOff = true ∧ t.pkg.alarm = n ∧ t.pkg.alarmAt = s.gcyc
        ∧ (∀ f, t.fstore f = { t.fstore f with n := 0, l := [], b := [], busy := none })
        ∧ (∀ j, 128 ≤ j → j < 136 → (SMap.get none (t.core j).pend 0x105).isSome = true)
        ∧ t.irqs.head? = some 2041 ∧ t.pkg.record = p.record
        ∧ ((∀ g was, (s.region g).mode ≠ .gated 3 was) →
          (∀ f, t.fstore f = halted (s.fstore f))
          ∧ (∀ j, 128 ≤ j → j < 136 → SMap.get none (t.core j).pend 0x105 =
              some ((SMap.get none (s.core j).pend 0x105).getD (BitVec.ofNat 64 n)))
          ∧ t.pkg = { p with haltFs := true, fabricOff := true, alarm := n, alarmAt := s.gcyc, alarmOn := t.pkg.alarmOn }
          ∧ (∀ j, j ∈ t.pkg.alarmOn ↔ j < 8 ∧ SMap.get none (s.core (128 + j)).pend 0x105 = none)
          ∧ (∀ g, (s.region g).gateable = true → (s.region g).freeze = none →
            t.region g = { s.region g with freeze := some ⟨5, 3, (s.region g).rc + 1, none⟩ })
          ∧ (∀ g, (s.region g).gateable = false → t.region g = s.region g)
          ∧ t = { s with
            regions := t.regions, fstores := t.fstores, cores := t.cores, irqs := 2041 :: s.irqs, pkg := t.pkg }))
    ∧ (p.power = true → 1 ≤ n → n ≤ 5 → p.alarm ≠ 0 → p.alarmAt = s.gcyc →
      (p.alarm ≤ n → exec (.securityAlarm source) s = .next s)
      ∧ (n < p.alarm → Completes (exec (.securityAlarm source) s) fun t =>
        t.pkg = { p with alarm := n }
        ∧ (∀ j, t.core j = { s.core j with pend := (t.core j).pend } ∧ ∀ c, SMap.get none (t.core j).pend c =
            if 128 ≤ j ∧ j - 128 ∈ p.alarmOn ∧ c = 0x105 then (SMap.get none (s.core j).pend c).map fun _ => BitVec.ofNat 64 n
            else SMap.get none (s.core j).pend c)
        ∧ t = { s with cores := t.cores, pkg := t.pkg }))
    ∧ (∃ u : State, s.alarmEnd = u ∧ u.pkg = { p with keyErased := p.keyErased || erases, scanLocked := p.scanLocked || erases }
        ∧ (∀ l, u.load l = erased (s.load l)) ∧ u = { s with loads := u.loads, pkg := u.pkg })
    ∧ (∀ rest, s.agenda = .clock :: rest → p.power = true → s.latchDue = false → s.queues = [] → s.loads = [] →
      step s = .next { { s with agenda := rest, tick := s.tick + 1 }.alarmEnd with gcyc := s.gcyc + 1 })
    ∧ (p.power = false ∨ n = 0 ∨ 5 < n → exec (.securityAlarm source) s = .next s)
    -- span links
    ∧ (k < 16 → k ∉ p.linkDown → Completes (exec (.spanLinkLoss k) s) (sets { p with linkDown := k :: p.linkDown }))
    ∧ (16 ≤ k ∨ k ∈ p.linkDown → exec (.spanLinkLoss k) s = .next s)
    ∧ (Completes (exec (.spanLinkRetrain k) s) fun t => ∃ u : State,
        (∀ j, j ∈ u.pkg.linkDown ↔ j ∈ p.linkDown ∧ j ≠ k) ∧ u.pkg = { p with linkDown := u.pkg.linkDown }
        ∧ (∀ j, waits (s.core j) ((s.core j).span.bind fun e => if e.2 = false ∧ Config.spanLink e.1 = k then none else some e) u j)
        ∧ u = { s with cores := u.cores, agus := u.agus, pkg := u.pkg } ∧ again u t)
    ∧ (Config.spanLink k ∈ p.linkDown → k ∉ p.unreachable → k ≠ p.ownPkg → Completes (exec (.spanUnreachable k) s) fun t => ∃ u : State,
        u.pkg = { p with unreachable := k :: p.unreachable }
        ∧ (∀ j, waits (s.core j) ((s.core j).span.map fun e => if e.1 = k then (k, true) else e) u j)
        ∧ (∀ q, u.queue q = if s.queueWaits q = some k then { s.queue q with lost := some k } else s.queue q)
        ∧ (∀ l, u.load l = if s.loadWaits l = some k then { s.load l with lost := some k } else s.load l)
        ∧ u = { s with cores := u.cores, agus := u.agus, queues := u.queues, loads := u.loads, pkg := u.pkg } ∧ again u t)
    ∧ (Config.spanLink k ∉ p.linkDown ∨ k ∈ p.unreachable ∨ k = p.ownPkg → exec (.spanUnreachable k) s = .next s)
    -- Ethernet
    ∧ (s.heldBy pa = none → Completes (exec (.ethernetMessageCompletion pa bs) s) (WroteAt s pa bs))
    ∧ (s.heldBy pa ≠ none → Completes (exec (.ethernetMessageCompletion pa bs) s) fun t => t = { s with late := s.late ++ [⟨none, pa, bs, none, false, 0⟩] })
    -- links, clocks, power
    ∧ (SMap.get none p.pendWidth k ≠ some w → k ∉ p.settling ∨ s.widthOf k ≠ w → Completes (exec (.linkWidthChange k w) s)
        (sets { p with pendWidth := SMap.set none p.pendWidth k (some w) }))
    ∧ (SMap.get none p.pendWidth k = some w →
        (clear (linkDie k = ·) → Completes (exec (.linkWidthChange k w) s) fun t =>
          SMap.get none t.pkg.pendWidth k = none ∧ t.widthOf k = w ∧ (∀ j, j ∈ t.pkg.settling ↔ j = k ∨ j ∈ p.settling)
          ∧ (∀ j, j ≠ k → SMap.get none t.pkg.pendWidth j = SMap.get none p.pendWidth j ∧ t.widthOf j = s.widthOf j)
          ∧ t = { s with pkg := { p with pendWidth := t.pkg.pendWidth, width := t.pkg.width, settling := t.pkg.settling } })
        ∧ (¬ clear (linkDie k = ·) → exec (.linkWidthChange k w) s = .next s))
    ∧ (SMap.get none p.pendWidth k ≠ some w → k ∈ p.settling → s.widthOf k = w → Completes (exec (.linkWidthChange k w) s) fun t =>
        (∀ j, j ∈ t.pkg.settling ↔ j ∈ p.settling ∧ j ≠ k) ∧ t = { s with pkg := { p with settling := t.pkg.settling } })
    ∧ (k < 16 → SMap.get none p.pendFreq k ≠ some w →
        (w ≤ s.clkOf k → Completes (exec (.frequencyChange k w) s) (sets { p with pendFreq := SMap.set none p.pendFreq k (some w) }))
        ∧ (s.clkOf k < w → exec (.frequencyChange k w) s = .next s))
    ∧ (SMap.get none p.pendFreq k = some w →
        (clear (dieUses · k = true) → s.reductionPending k = false → w ≤ s.clkOf k → Completes (exec (.frequencyChange k w) s) fun t =>
          SMap.get none t.pkg.pendFreq k = none ∧ t.freqOf k = w
          ∧ (∀ j, j ≠ k → SMap.get none t.pkg.pendFreq j = SMap.get none p.pendFreq j ∧ t.freqOf j = s.freqOf j)
          ∧ t = { s with pkg := { p with pendFreq := t.pkg.pendFreq, freq := t.pkg.freq } })
        ∧ (¬ clear (dieUses · k = true) ∨ s.reductionPending k = true → exec (.frequencyChange k w) s = .next s))
    ∧ (Completes (exec (.powerCap w) s) fun t => t.pkg = { p with cap := min w 2400, pendFreq := t.pkg.pendFreq } ∧ t = { s with pkg := t.pkg }
        ∧ ∀ d, let f := Config.capFreq (min w 2400) d
          SMap.get none t.pkg.pendFreq d = if d < 16 ∧ f < s.freqOf d then some f else SMap.get none p.pendFreq d)
    ∧ (k < 16 → Completes (exec (.thermalLimit k) s) (sets { p with pendFreq := SMap.set none p.pendFreq k (some (s.freqOf k - 1)) }))
    ∧ (16 ≤ k → exec (.thermalLimit k) s = .next s)

/-- R255, R320, R321: the sample at the head of an exchange queue enters the window of its tile, waits while it is too far ahead, and is dropped
where it is behind, its slot is full, or its tile is no longer the die's (the model's choice, log 17); the sample in slot 0 is blended into
its pixel. -/
def Obligations.Samples : Prop :=
  ∀ (s : State) (src dst tile : Nat),
    let key := 8 * src + dst
    let next (k : Nat) : W32 := SMap.get 0 s.nextseq k
    let win (u : State) (k : Nat) : List Sample := SMap.get [] u.windows k
    let queue (u : State) (k : Nat) : List Sample := SMap.get [] u.exch k
    (queue s key = [] → exec (.sampleArrival src dst) s = .next s)
    ∧ (∀ m rest, queue s key = m :: rest →
      let e := (SMap.get 0 s.own m.tile).toNat
      let ahead := (m.seq - next m.tile).toNat
      let owned := e / 2 ^ 31 = 1 ∧ e / 2 ^ 11 % 8 = dst
      let left (t : State) := (∀ j, queue t j = if j = key then rest else queue s j)
      (owned → 4096 ≤ ahead → ahead < 2 ^ 31 → exec (.sampleArrival src dst) s = .next s)
      ∧ (¬ (owned ∧ 4096 ≤ ahead ∧ ahead < 2 ^ 31) → Completes (exec (.sampleArrival src dst) s) fun t => left t
          ∧ (∀ j, win t j = if j = m.tile ∧ owned ∧ ahead < 4096 ∧ (∀ x ∈ win s j, x.seq ≠ m.seq) then win s j ++ [m] else win s j)
          ∧ t = { s with exch := t.exch, windows := t.windows }))
    ∧ ((∀ m ∈ win s tile, m.seq ≠ next tile) → exec (.blend tile) s = .next s)
    ∧ (∀ m pre post, win s tile = pre ++ m :: post → m.seq = next tile → (∀ x ∈ pre, x.seq ≠ next tile) →
      Completes (exec (.blend tile) s) fun t =>
        let e := (SMap.get 0 s.own tile).toNat
        let px := m.pixel.toNat % 4096
        let py := m.pixel.toNat / 4096
        let a := screenBase + e / 2 ^ 11 % 8 * 0x400000 + e % 2 ^ 11 * 2048 + 8 * (16 * (py % 16) + px % 16)
        let half (k : Nat) := fmtF16.decode (m.value.toNat / 65536 ^ k % 65536)
        (∀ j, win t j = if j = tile then (win s j).filter fun x => x.seq != next tile else win s j)
        ∧ (∀ j, SMap.get 0 t.nextseq j = if j = tile then next tile + 1 else next j)
        ∧ (∀ as, s.cells a 8 = some as → as.Nodup →
            let color := fmtF32.decode (leNat ((as.take 4).map s.readCell))
            let trans := fmtF32.decode (leNat ((as.drop 4).map s.readCell))
            leNat ((as.take 4).map t.readCell) = (roundF32 (trans.fma (half 0) color).1).1
            ∧ leNat ((as.drop 4).map t.readCell) = (roundF32 (trans.fma (half 1).neg trans).1).1
            ∧ (∀ c, c ∉ as → t.readCell c = s.readCell c))
        ∧ (s.cells a 8 = none → ∀ c, t.readCell c = s.readCell c)
        ∧ t = { s with windows := t.windows, nextseq := t.nextseq, mem := t.mem, resid := t.resid, perf := t.perf })

/-! ## The whole machine -/

/-- R76-R78, R87, R89, R151, R152, R155, R162, R163, R187, R194, R204, R206, R229, R255, R265, R323, R338, R356: what every item that the manual
gives a reset value holds after reset, and the canonical form of memory. TVEC and the contents of the LP tier are not spoken of. -/
def Obligations.ResetValues : Prop :=
  let s := State.reset
  let c (n : Nat) := s.core n
  let e (n : Nat) := s.elem n
  let t (n : Nat) := s.tile n
  let r (n : Nat) := s.region n
  let q (n : Nat) := s.queue n
  let a (n : Nat) := s.agu n
  let u (n : Nat) := s.nmu n
  let f (n : Nat) := s.fstore n
  -- cores
  (∀ n k, (c n).readG k = 0 ∧ (c n).readRing k = 0 ∧ SMap.get 0 (c n).link k = 0)
  ∧ (∀ n q, (c n).readQ q = false)
  ∧ (∀ n, (c n).cstat = 3 ∧ (c n).tepc = 0 ∧ (c n).tcause = 0 ∧ (c n).tval = 0 ∧ (c n).tstat = 0 ∧ (c n).wbase = 0 ∧ (c n).wfill = 0
    ∧ (c n).splb = 0 ∧ (c n).spll = 0 ∧ (c n).spp = 0 ∧ (c n).ovfp = 0 ∧ (c n).ovfn = 0 ∧ (c n).ctxid = 0)
  ∧ (∀ n k, (c n).tok k = 0 ∧ SMap.get 0 (c n).tokbind k = 0)
  -- elements
  ∧ (∀ n k, SMap.get 0 (e n).v k = 0 ∧ SMap.get 0 (e n).s k = 0 ∧ SMap.get 0 (e n).m k = 0 ∧ SMap.get 0 (e n).planes k = 0
    ∧ SMap.get 0 (e n).rules k = 0 ∧ (s.entryAt n k).slot.getLsbD 44 = false)
  ∧ (∀ n d, ((e n).slot d).full = false ∧ ((e n).slot d).reserved = false)
  ∧ (∀ n, (e n).estat = 0)
  -- tiles
  ∧ (∀ n k, SMap.get 0 (t n).kbank k = 0 ∧ SMap.get 0 (t n).acc k = 0 ∧ SMap.get false (t n).accp k = false ∧ SMap.get 0 (t n).aflag k = 0
    ∧ (SMap.get OpSlot.reset (t n).opa k).v = false ∧ (SMap.get OpSlot.reset (t n).opb k).v = false)
  ∧ (∀ n, (t n).pass = none ∧ (t n).groups = [])
  -- regions
  ∧ (∀ n, (r n).gr = ⟨0, 0, 0, 0, 0, 0, 0, false⟩ ∧ (r n).lstart = 0 ∧ (r n).rowix = 0 ∧ (r n).relapsed = 0 ∧ (r n).modc = 0
    ∧ (r n).itern = 0 ∧ (r n).rows = [])
  ∧ (∀ n k, (r n).queue k = [] ∧ SMap.get 0 (r n).pkrem k = 0 ∧ (SMap.get 0 (r n).pal k).getLsbD 16 = false ∧ SMap.get 0 (r n).lq8 k = 0)
  -- queues, contexts, streams
  ∧ (∀ n, (q n).headix = 0 ∧ (q n).tailix = 0 ∧ (q n).en = false)
  ∧ (∀ n, (s.ctx n).gen = 0 ∧ (s.ctx n).root = 0 ∧ (s.ctx n).btd = 0)
  ∧ (∀ n, (s.phase n).cnt = 0 ∧ (s.phase n).ovf = false ∧ (s.phase n).scope = 3 ∧ (s.phase n).own = 0)
  ∧ (∀ n, (a n).attach = none ∧ (a n).aword = 0 ∧ (a n).args = [] ∧ (a n).st = .idle ∧ (a n).issuer = 0)
  ∧ (∀ n, (s.load n).st ≠ .pending) ∧ (∀ n, SMap.get [] s.exch n = []) ∧ s.tlb = []
  -- near-memory units, tables, factor stores
  ∧ (∀ n, (u n).image = none ∧ (u n).queue = [] ∧ (u n).aga = 0 ∧ (u n).agb = 0 ∧ (u n).zn = 0 ∧ (u n).rmiss = false ∧ (u n).upc = 0
    ∧ (u n).wcount = 0)
  ∧ (∀ n k, SMap.get 0 (u n).x k = 0 ∧ SMap.get 0 (u n).rdr k = 0 ∧ SMap.get 0 (u n).wbuf k = 0 ∧ SMap.get 0 (u n).lc k = 0
    ∧ SMap.get 0 (u n).rpred k = 0)
  ∧ (∀ n k, (SMap.get SubTable.reset (s.stack n).tables k).v = false)
  ∧ (∀ n, (f n).n = 0 ∧ (f n).eps = 0 ∧ (f n).flag = 0 ∧ (f n).own = 0 ∧ (f n).bound = none)
  ∧ (∀ n k, SMap.get 0 (f n).l k = 0 ∧ SMap.get 0 (f n).b k = 0)
  ∧ (∀ n, SMap.get 0 s.own n = 0 ∧ SMap.get 0 s.nextseq n = 0) ∧ s.otctx.getLsbD 12 = false
  -- counters
  ∧ s.gcyc = 0 ∧ s.snapseq = 0 ∧ s.snappend = false ∧ s.snapat = 0
  ∧ (∀ n, SMap.get 0 s.perf n = 0 ∧ SMap.get 0 s.serrcnt n = 0 ∧ SMap.get 0 s.serradr n = 0)
  -- memory: stack memory, scratchpads and screen-tile memory, with valid residues
  ∧ (∀ x, 0x10000000000 ≤ x → x < 0x20000000000 → s.readCell x = 0)
  ∧ (∀ x, 0x40000000000 ≤ x → x < 0x4000000000000 → s.readCell x = 0)
  ∧ (∀ n, SMap.get none s.resid n = none)
  ∧ s.memOk = true

/-- R55-R75: words written out from the encoding tables decode to the instructions they stand for. -/
def Obligations.DecodedWords : Prop :=
  decodeC 0x20080000 0 = some (.addi (.g 1) (.g 0) 0)
  ∧ decodeC 0x46100004 0 = some (.call .f16 2)
  ∧ decodeC 0x4C000000 0 = some .ret
  ∧ decodeC 0xC8310480 0 = some (.fsinit (.g 6) (.g 8) (.g 9))
  ∧ decodeC 0x0B8D07EC 0 = none
  ∧ decodeE 0x0B8D07EC00 = some (.addsI32 ⟨.s 3, .s 1, .lit (-5), .none, .always⟩)
  ∧ decodeE 0xA014CC0408 = some (.eSel ⟨.v 5, .m 3, .v 1, .v 2, .always⟩)
  ∧ decodeRow 0x0040000000000000 = some (.stepRow ⟨.empty, false, 0, 0⟩ 0)
  ∧ decodeRow 0xB00000002C000000 = some (.endRow ⟨.off, false, 0, 44⟩)

/-- R91-R94, R113-R115, R174, R175, R344: a step is `exec` of the word that the next agent is at: a control core at the word its pc names, or at
the one that it has begun (R91), an element at the word of its context entry, a region at the row that issues, a near-memory unit at the word its
UPC names; an event is itself. With nothing left on the agenda the schedule says who moves (log 1). A fetch counts its walk and its bytes and
reports the soft errors that it meets (R161, R352); CYC moves on by one at least (R94). -/
def Obligations.StepRunsDecodedWord : Prop :=
  ∀ (s : State) (rest : List Turn),
    let at_ (x : Turn) := s.agenda = x :: rest
    let s1 := { s with agenda := rest, tick := s.tick + 1 }
    (s.agenda = [] → step s = step { s with agenda := [Config.schedule s.tick] })
    ∧ (∀ i, at_ (.event i) → step s = exec i s1)
    -- a control core
    ∧ (∀ n w e, at_ (.core n) → n < 136 →
      let c := s.core n
      c.run = .running → c.begun = none → c.takesAsync = false ∨ c.firstCause = none → goodTarget c.pc → s.codeAt n c.pc.toNat w →
      (w % 2 = 0 ∧ e = 0 ∨ w % 2 = 1 ∧ s.codeAt n (c.pc.toNat + 4) e) →
      let clean (va : Nat) := ∀ pa, s.coreVa n .fetch va = some pa → s.badPa (cellRun pa 4) = none
      ∃ u : State, ∃ k < 2 ^ 32, OnlyReported { s1 with cores := u.cores, cur := n, ir := BitVec.ofNat 32 w } u
        ∧ u.core n = { c with cyc := c.cyc + 1 + BitVec.ofNat 64 k, pend := (u.core n).pend } ∧ (∀ j, j ≠ n → u.core j = s.core j)
        ∧ (clean c.pc.toNat → (w % 2 = 1 → clean (c.pc.toNat + 4)) →
          (u.core n).pend = c.pend ∧ u.serrcnt = s.serrcnt ∧ u.serradr = s.serradr)
        ∧ (∀ i, decodeC w e = some i → step s = exec i u)
        ∧ (decodeC w e = none → step s = .next u.illegal))
    ∧ (∀ n w i, at_ (.core n) → n < 136 → (s.core n).run = .running → (s.core n).begun = some w → decodeC w.toNat 0 = some i →
      ∃ u : State, ∃ k < 2 ^ 32, u = { s1 with cores := u.cores, cur := n, ir := w }
        ∧ u.core n = { s.core n with cyc := (s.core n).cyc + 1 + BitVec.ofNat 64 k } ∧ (∀ j, j ≠ n → u.core j = s.core j) ∧ step s = exec i u)
    -- an element
    ∧ (∀ g el entry tag iter null more i, at_ (.region g) →
      let r := s.region g
      r.mode = .run → r.work = .word el entry tag iter null :: more → decodeE (bits64 (s.entryAt el entry).slot 0 40) = some i →
      step s = Out.then (exec i { s1.setRegion g { r with work := more } with
        site := ⟨g, el, entry, tag, iter, r.squashes iter, null⟩ }) fun t => .next (t.formStop g))
    -- a region
    ∧ (∀ g ix more w i, at_ (.region g) →
      let r := s.region g
      r.mode = .run → r.work = .row ix :: more → s1.wantsClose g = false → r.rows[ix]? = some w → decodeRow w.toNat = some i →
      ∃ u : State, u.region g = { r with work := more, rowix := ix, relapsed := 0, started := true } ∧ (∀ h, h ≠ g → u.region h = s.region h)
        ∧ u = { s1 with regions := u.regions, perf := u.perf, site := { Site.reset with g := g } }
        ∧ (∀ k, SMap.get 0 u.perf k = if k = 0x101 + 16 * (g / 128) then SMap.get 0 s.perf k + 1 else SMap.get 0 s.perf k)
        ∧ step s = Out.then (exec i u) fun t =>
            let q := t.region g
            .next ((if bits64 w 60 4 = 1 ∧ q.mode = .run ∧ (q.span.any fun sp => sp.row == ix) = true then t.setRegion g { q with work := q.bodyRows ++ q.work } else t).formStop g))
    -- a near-memory unit
    ∧ (∀ k p m i, at_ (.unit k) → (s.nmu k).cmd = some p → (s.nmu k).image = some m →
      decodeN ((m.1[(s.nmu k).upc.toNat]?).getD 0).toNat = some i → step s = exec i { s1 with unit := k })

/-- Every step keeps memory in its canonical form: equal contents are equal data. -/
def Obligations.MemoryCanonicalKept : Prop := ∀ s t : State, s.memOk = true → step s = .next t → t.memOk = true

/-- R78, R80: on every core, WBASE stays on a group boundary, WFILL counts at most 28 whole groups, and the reserved bits of CSTAT stay 0. -/
def Obligations.WindowKept : Prop :=
  let inv (s : State) := ∀ n, let c := s.core n
    c.wbase.toNat % 8 = 0 ∧ c.wfill.toNat % 8 = 0 ∧ c.wfill.toNat ≤ 224 ∧ c.cstat.toNat < 4
  inv State.reset ∧ ∀ s t : State, inv s → step s = .next t → inv t

/-- R54-R75: the word of every well-formed instruction decodes to that instruction, with every operand at every value that its encoding admits. -/
def Obligations.RoundTrip : Prop := ∀ i : Instr, Sys2Proof.Laws.RoundTrip.Statement i
end

