-- ==== Sys2Proof/Laws/Map.lean ====
section
/-! SUPPORT. Sparse maps: a read after a write, and the canonical form under every operation. -/

namespace Sys2Proof.Machine.SMap

variable {α : Type} [DecidableEq α]

/-! ### A read after a write -/

omit [DecidableEq α] in
@[simp] theorem get_nil (d : α) (k : Nat) : get d [] k = d := rfl

omit [DecidableEq α] in
theorem get_erase_same (d : α) (m : SMap α) (k : Nat) : get d (erase m k) k = d := by
  induction m with
  | nil => rfl
  | cons p m ih =>
    obtain ⟨j, v⟩ := p
    by_cases h : k = j
    · simp [erase, h]; exact h ▸ ih
    · simp [erase, get, h, ih]

omit [DecidableEq α] in
theorem get_erase_ne (d : α) (m : SMap α) {k j : Nat} (h : j ≠ k) : get d (erase m k) j = get d m j := by
  induction m with
  | nil => rfl
  | cons p m ih =>
    obtain ⟨i, v⟩ := p
    by_cases hk : k = i
    · subst hk; simp [erase, get, h, ih]
    · by_cases hj : j = i
      · simp [erase, get, hk, hj]
      · simp [erase, get, hk, hj, ih]

omit [DecidableEq α] in
theorem get_insert_same (d : α) (m : SMap α) (k : Nat) (v : α) (hk : ∀ p ∈ m, p.1 ≠ k) : get d (insert m k v) k = v := by
  induction m with
  | nil => simp [insert, get]
  | cons p m ih =>
    obtain ⟨i, w⟩ := p
    by_cases h : k < i
    · simp [insert, get, h]
    · have hi : k ≠ i := fun e => hk (i, w) (by simp) e.symm
      simp [insert, get, h, hi, ih fun p hp => hk p (List.mem_cons_of_mem _ hp)]

omit [DecidableEq α] in
theorem get_insert_ne (d : α) (m : SMap α) {k j : Nat} (v : α) (h : j ≠ k) : get d (insert m k v) j = get d m j := by
  induction m with
  | nil => simp [insert, get, h]
  | cons p m ih =>
    obtain ⟨i, w⟩ := p
    by_cases hk : k < i
    · simp [insert, get, hk, h]
    · simp [insert, get, hk, ih]

omit [DecidableEq α] in
theorem mem_erase_ne {m : SMap α} {k : Nat} {p : Nat × α} (h : p ∈ erase m k) : p.1 ≠ k := by
  induction m with
  | nil => simp [erase] at h
  | cons q m ih =>
    obtain ⟨i, w⟩ := q
    by_cases hk : k = i
    · simp [erase, hk] at h; exact hk ▸ ih (hk ▸ h)
    · simp [erase, hk] at h
      rcases h with rfl | h
      · exact fun e => hk e.symm
      · exact ih h

@[simp] theorem get_set_same (d : α) (m : SMap α) (k : Nat) (v : α) : get d (set d m k v) k = v := by
  unfold set
  split
  · rename_i h; rw [h, get_erase_same]
  · exact get_insert_same d _ k v fun _ hp => mem_erase_ne hp

theorem get_set_ne (d e : α) (m : SMap α) {k j : Nat} (v : α) (h : j ≠ k) : get e (set d m k v) j = get e m j := by
  unfold set
  split
  · exact get_erase_ne e m h
  · rw [get_insert_ne e _ v h, get_erase_ne e m h]

theorem get_set (d : α) (m : SMap α) (k j : Nat) (v : α) : get d (set d m k v) j = if j = k then v else get d m j := by
  split
  · rename_i h; rw [h, get_set_same]
  · rename_i h; exact get_set_ne d d m v h

/-! ### Runs -/

omit [DecidableEq α] in
theorem erase_erase (m : SMap α) (k : Nat) : erase (erase m k) k = erase m k := by
  induction m with
  | nil => rfl
  | cons p m ih =>
    obtain ⟨j, w⟩ := p
    by_cases h : k = j
    · simp [erase, h]
      rw [← h]; exact ih
    · simp [erase, h, ih]

omit [DecidableEq α] in
theorem erase_insert (m : SMap α) (k : Nat) (v : α) : erase (insert m k v) k = erase m k := by
  induction m with
  | nil => simp [insert, erase]
  | cons p m ih =>
    obtain ⟨j, w⟩ := p
    by_cases h : k < j
    · simp [insert, h, erase]
    · by_cases hj : k = j
      · subst hj; simp [insert, erase, ih]
      · simp [insert, h, erase, hj, ih]

/-- Of two writes of one key the later counts. -/
theorem set_set (d : α) (m : SMap α) (k : Nat) (v w : α) : set d (set d m k v) k w = set d m k w := by
  have h : erase (set d m k v) k = erase m k := by
    unfold set
    split
    · exact erase_erase m k
    · rw [erase_insert, erase_erase]
  unfold set at h ⊢
  rw [h]

theorem get_setRun (d : α) (m : SMap α) (k0 : Nat) (vs : List α) (j : Nat) :
    get d (setRun d m k0 vs) j = if h : k0 ≤ j ∧ j - k0 < vs.length then vs[j - k0]'h.2 else get d m j := by
  induction vs generalizing m k0 with
  | nil => simp [setRun]
  | cons v vs ih =>
    rw [setRun, ih, get_set]
    by_cases h1 : k0 + 1 ≤ j ∧ j - (k0 + 1) < vs.length
    · have h2 : k0 ≤ j ∧ j - k0 < (v :: vs).length := by simp; omega
      have h3 : j - k0 = (j - (k0 + 1)) + 1 := by omega
      simp [h1, h2, h3]
    · by_cases h4 : j = k0
      · subst h4; simp
      · have h2 : ¬ (k0 ≤ j ∧ j - k0 < (v :: vs).length) := by simp; omega
        rw [dif_neg h1, dif_neg h2, if_neg h4]

omit [DecidableEq α] in
@[simp] theorem getRun_length (d : α) (m : SMap α) (k0 n : Nat) : (getRun d m k0 n).length = n := by
  induction n generalizing k0 with
  | zero => rfl
  | succ n ih => simp [getRun, ih]

omit [DecidableEq α] in
theorem getRun_get (d : α) (m : SMap α) (k0 n i : Nat) (h : i < (getRun d m k0 n).length) :
    (getRun d m k0 n)[i] = get d m (k0 + i) := by
  induction n generalizing k0 i with
  | zero => simp at h
  | succ n ih =>
    cases i with
    | zero => rfl
    | succ i =>
      have := ih (k0 + 1) i (by simpa [getRun] using h)
      simpa [getRun, Nat.add_assoc, Nat.add_comm 1] using this

/-! ### The canonical form -/

/-- Every value through `f`, where `f` keeps the default. -/
theorem get_mapVal (d : α) (f : α → α) (hf : f d = d) (m : SMap α) (k : Nat) : get d (mapVal d f m) k = f (get d m k) := by
  induction m with
  | nil => simp [mapVal, get, hf]
  | cons p m ih =>
    obtain ⟨j, v⟩ := p
    change get d (set d (mapVal d f m) j (f v)) k = _
    rw [get_set, ih]
    by_cases h : k = j <;> simp [get, h]

theorem wfFrom_mono {d : Nat → α} {m : SMap α} {a b : Nat} (h : wfFrom d b m = true) (hab : a ≤ b) : wfFrom d a m = true := by
  cases m with
  | nil => rfl
  | cons p m =>
    obtain ⟨k, v⟩ := p
    simp only [wfFrom, Bool.and_eq_true, decide_eq_true_eq] at h ⊢
    exact ⟨⟨by omega, h.1.2⟩, h.2⟩

theorem wfFrom_erase {d : Nat → α} {m : SMap α} {lo : Nat} (k : Nat) (h : wfFrom d lo m = true) : wfFrom d lo (erase m k) = true := by
  induction m generalizing lo with
  | nil => rfl
  | cons p m ih =>
    obtain ⟨i, v⟩ := p
    simp only [wfFrom, Bool.and_eq_true, decide_eq_true_eq] at h
    by_cases hk : k = i
    · subst hk; simpa [erase] using wfFrom_mono (ih h.2) (by omega : lo ≤ k + 1)
    · simp [erase, hk, wfFrom, h.1, ih h.2]

theorem wfFrom_insert {d : Nat → α} {m : SMap α} {lo k : Nat} {v : α} (h : wfFrom d lo m = true) (hlo : lo ≤ k) (hv : v ≠ d k)
    (hk : ∀ p ∈ m, p.1 ≠ k) : wfFrom d lo (insert m k v) = true := by
  induction m generalizing lo with
  | nil => simp [insert, wfFrom, hlo, hv]
  | cons p m ih =>
    obtain ⟨i, w⟩ := p
    simp only [wfFrom, Bool.and_eq_true, decide_eq_true_eq] at h
    have hi : i ≠ k := hk (i, w) (by simp)
    by_cases hki : k < i
    · simp only [insert, hki, if_true, wfFrom, Bool.and_eq_true, decide_eq_true_eq]
      exact ⟨⟨hlo, hv⟩, ⟨by omega, h.1.2⟩, h.2⟩
    · simp [insert, hki, wfFrom, h.1, ih h.2 (by omega) fun p hp => hk p (List.mem_cons_of_mem _ hp)]

/-- A write keeps the canonical form. -/
theorem wfBy_set {d : Nat → α} {m : SMap α} (k : Nat) (v : α) (h : wfBy d m = true) : wfBy d (set (d k) m k v) = true := by
  unfold set wfBy
  split
  · exact wfFrom_erase k h
  · rename_i hv
    exact wfFrom_insert (wfFrom_erase k h) (Nat.zero_le k) hv fun _ hp => mem_erase_ne hp

theorem wf_set {d : α} {m : SMap α} (k : Nat) (v : α) (h : wf d m = true) : wf d (set d m k v) = true :=
  wfBy_set (d := fun _ => d) k v h

theorem wfFrom_filter {d : Nat → α} {m : SMap α} {lo : Nat} (f : Nat × α → Bool) (h : wfFrom d lo m = true) :
    wfFrom d lo (m.filter f) = true := by
  induction m generalizing lo with
  | nil => rfl
  | cons p m ih =>
    obtain ⟨k, v⟩ := p
    simp only [wfFrom, Bool.and_eq_true, decide_eq_true_eq] at h
    by_cases hf : f (k, v) = true
    · simp [hf, wfFrom, h.1, ih h.2]
    · simpa [List.filter_cons, hf] using wfFrom_mono (ih h.2) (by omega : lo ≤ k + 1)

/-- Dropping entries keeps the canonical form. -/
theorem wfBy_filter {d : Nat → α} {m : SMap α} (f : Nat × α → Bool) (h : wfBy d m = true) : wfBy d (m.filter f) = true :=
  wfFrom_filter f h

end Sys2Proof.Machine.SMap
end

