-- ==== Sys2Proof/Laws/State.lean ====
section
/-! SUPPORT. What each update of the state leaves alone, field by field: true by the definition of the update. -/

namespace Sys2Proof.Machine

/-! ### setCore -/

@[simp] theorem State.setCore_agenda (s : State) (n : Nat) (c : Core) : (s.setCore n c).agenda = s.agenda := rfl
@[simp] theorem State.setCore_tick (s : State) (n : Nat) (c : Core) : (s.setCore n c).tick = s.tick := rfl
@[simp] theorem State.setCore_cur (s : State) (n : Nat) (c : Core) : (s.setCore n c).cur = s.cur := rfl
@[simp] theorem State.setCore_unit (s : State) (n : Nat) (c : Core) : (s.setCore n c).unit = s.unit := rfl
@[simp] theorem State.setCore_ir (s : State) (n : Nat) (c : Core) : (s.setCore n c).ir = s.ir := rfl
@[simp] theorem State.setCore_serial (s : State) (n : Nat) (c : Core) : (s.setCore n c).serial = s.serial := rfl
@[simp] theorem State.setCore_site (s : State) (n : Nat) (c : Core) : (s.setCore n c).site = s.site := rfl
@[simp] theorem State.setCore_elems (s : State) (n : Nat) (c : Core) : (s.setCore n c).elems = s.elems := rfl
@[simp] theorem State.setCore_tiles (s : State) (n : Nat) (c : Core) : (s.setCore n c).tiles = s.tiles := rfl
@[simp] theorem State.setCore_regions (s : State) (n : Nat) (c : Core) : (s.setCore n c).regions = s.regions := rfl
@[simp] theorem State.setCore_loads (s : State) (n : Nat) (c : Core) : (s.setCore n c).loads = s.loads := rfl
@[simp] theorem State.setCore_launches (s : State) (n : Nat) (c : Core) : (s.setCore n c).launches = s.launches := rfl
@[simp] theorem State.setCore_queues (s : State) (n : Nat) (c : Core) : (s.setCore n c).queues = s.queues := rfl
@[simp] theorem State.setCore_ctxs (s : State) (n : Nat) (c : Core) : (s.setCore n c).ctxs = s.ctxs := rfl
@[simp] theorem State.setCore_shadows (s : State) (n : Nat) (c : Core) : (s.setCore n c).shadows = s.shadows := rfl
@[simp] theorem State.setCore_phases (s : State) (n : Nat) (c : Core) : (s.setCore n c).phases = s.phases := rfl
@[simp] theorem State.setCore_copies (s : State) (n : Nat) (c : Core) : (s.setCore n c).copies = s.copies := rfl
@[simp] theorem State.setCore_agus (s : State) (n : Nat) (c : Core) : (s.setCore n c).agus = s.agus := rfl
@[simp] theorem State.setCore_migrs (s : State) (n : Nat) (c : Core) : (s.setCore n c).migrs = s.migrs := rfl
@[simp] theorem State.setCore_cold (s : State) (n : Nat) (c : Core) : (s.setCore n c).cold = s.cold := rfl
@[simp] theorem State.setCore_nmus (s : State) (n : Nat) (c : Core) : (s.setCore n c).nmus = s.nmus := rfl
@[simp] theorem State.setCore_kstacks (s : State) (n : Nat) (c : Core) : (s.setCore n c).kstacks = s.kstacks := rfl
@[simp] theorem State.setCore_fstores (s : State) (n : Nat) (c : Core) : (s.setCore n c).fstores = s.fstores := rfl
@[simp] theorem State.setCore_mem (s : State) (n : Nat) (c : Core) : (s.setCore n c).mem = s.mem := rfl
@[simp] theorem State.setCore_resid (s : State) (n : Nat) (c : Core) : (s.setCore n c).resid = s.resid := rfl
@[simp] theorem State.setCore_lags (s : State) (n : Nat) (c : Core) : (s.setCore n c).lags = s.lags := rfl
@[simp] theorem State.setCore_late (s : State) (n : Nat) (c : Core) : (s.setCore n c).late = s.late := rfl
@[simp] theorem State.setCore_gone (s : State) (n : Nat) (c : Core) : (s.setCore n c).gone = s.gone := rfl
@[simp] theorem State.setCore_fed (s : State) (n : Nat) (c : Core) : (s.setCore n c).fed = s.fed := rfl
@[simp] theorem State.setCore_tlb (s : State) (n : Nat) (c : Core) : (s.setCore n c).tlb = s.tlb := rfl
@[simp] theorem State.setCore_own (s : State) (n : Nat) (c : Core) : (s.setCore n c).own = s.own := rfl
@[simp] theorem State.setCore_otctx (s : State) (n : Nat) (c : Core) : (s.setCore n c).otctx = s.otctx := rfl
@[simp] theorem State.setCore_nextseq (s : State) (n : Nat) (c : Core) : (s.setCore n c).nextseq = s.nextseq := rfl
@[simp] theorem State.setCore_windows (s : State) (n : Nat) (c : Core) : (s.setCore n c).windows = s.windows := rfl
@[simp] theorem State.setCore_exch (s : State) (n : Nat) (c : Core) : (s.setCore n c).exch = s.exch := rfl
@[simp] theorem State.setCore_perf (s : State) (n : Nat) (c : Core) : (s.setCore n c).perf = s.perf := rfl
@[simp] theorem State.setCore_serrcnt (s : State) (n : Nat) (c : Core) : (s.setCore n c).serrcnt = s.serrcnt := rfl
@[simp] theorem State.setCore_serradr (s : State) (n : Nat) (c : Core) : (s.setCore n c).serradr = s.serradr := rfl
@[simp] theorem State.setCore_snapseq (s : State) (n : Nat) (c : Core) : (s.setCore n c).snapseq = s.snapseq := rfl
@[simp] theorem State.setCore_snappend (s : State) (n : Nat) (c : Core) : (s.setCore n c).snappend = s.snappend := rfl
@[simp] theorem State.setCore_snapat (s : State) (n : Nat) (c : Core) : (s.setCore n c).snapat = s.snapat := rfl
@[simp] theorem State.setCore_snapreg (s : State) (n : Nat) (c : Core) : (s.setCore n c).snapreg = s.snapreg := rfl
@[simp] theorem State.setCore_gcyc (s : State) (n : Nat) (c : Core) : (s.setCore n c).gcyc = s.gcyc := rfl
@[simp] theorem State.setCore_irqs (s : State) (n : Nat) (c : Core) : (s.setCore n c).irqs = s.irqs := rfl
@[simp] theorem State.setCore_hostIn (s : State) (n : Nat) (c : Core) : (s.setCore n c).hostIn = s.hostIn := rfl
@[simp] theorem State.setCore_pkg (s : State) (n : Nat) (c : Core) : (s.setCore n c).pkg = s.pkg := rfl

/-! ### setElem -/

@[simp] theorem State.setElem_agenda (s : State) (e : Nat) (x : Elem) : (s.setElem e x).agenda = s.agenda := rfl
@[simp] theorem State.setElem_tick (s : State) (e : Nat) (x : Elem) : (s.setElem e x).tick = s.tick := rfl
@[simp] theorem State.setElem_cur (s : State) (e : Nat) (x : Elem) : (s.setElem e x).cur = s.cur := rfl
@[simp] theorem State.setElem_unit (s : State) (e : Nat) (x : Elem) : (s.setElem e x).unit = s.unit := rfl
@[simp] theorem State.setElem_ir (s : State) (e : Nat) (x : Elem) : (s.setElem e x).ir = s.ir := rfl
@[simp] theorem State.setElem_serial (s : State) (e : Nat) (x : Elem) : (s.setElem e x).serial = s.serial := rfl
@[simp] theorem State.setElem_site (s : State) (e : Nat) (x : Elem) : (s.setElem e x).site = s.site := rfl
@[simp] theorem State.setElem_cores (s : State) (e : Nat) (x : Elem) : (s.setElem e x).cores = s.cores := rfl
@[simp] theorem State.setElem_tiles (s : State) (e : Nat) (x : Elem) : (s.setElem e x).tiles = s.tiles := rfl
@[simp] theorem State.setElem_regions (s : State) (e : Nat) (x : Elem) : (s.setElem e x).regions = s.regions := rfl
@[simp] theorem State.setElem_loads (s : State) (e : Nat) (x : Elem) : (s.setElem e x).loads = s.loads := rfl
@[simp] theorem State.setElem_launches (s : State) (e : Nat) (x : Elem) : (s.setElem e x).launches = s.launches := rfl
@[simp] theorem State.setElem_queues (s : State) (e : Nat) (x : Elem) : (s.setElem e x).queues = s.queues := rfl
@[simp] theorem State.setElem_ctxs (s : State) (e : Nat) (x : Elem) : (s.setElem e x).ctxs = s.ctxs := rfl
@[simp] theorem State.setElem_shadows (s : State) (e : Nat) (x : Elem) : (s.setElem e x).shadows = s.shadows := rfl
@[simp] theorem State.setElem_phases (s : State) (e : Nat) (x : Elem) : (s.setElem e x).phases = s.phases := rfl
@[simp] theorem State.setElem_copies (s : State) (e : Nat) (x : Elem) : (s.setElem e x).copies = s.copies := rfl
@[simp] theorem State.setElem_agus (s : State) (e : Nat) (x : Elem) : (s.setElem e x).agus = s.agus := rfl
@[simp] theorem State.setElem_migrs (s : State) (e : Nat) (x : Elem) : (s.setElem e x).migrs = s.migrs := rfl
@[simp] theorem State.setElem_cold (s : State) (e : Nat) (x : Elem) : (s.setElem e x).cold = s.cold := rfl
@[simp] theorem State.setElem_nmus (s : State) (e : Nat) (x : Elem) : (s.setElem e x).nmus = s.nmus := rfl
@[simp] theorem State.setElem_kstacks (s : State) (e : Nat) (x : Elem) : (s.setElem e x).kstacks = s.kstacks := rfl
@[simp] theorem State.setElem_fstores (s : State) (e : Nat) (x : Elem) : (s.setElem e x).fstores = s.fstores := rfl
@[simp] theorem State.setElem_mem (s : State) (e : Nat) (x : Elem) : (s.setElem e x).mem = s.mem := rfl
@[simp] theorem State.setElem_resid (s : State) (e : Nat) (x : Elem) : (s.setElem e x).resid = s.resid := rfl
@[simp] theorem State.setElem_lags (s : State) (e : Nat) (x : Elem) : (s.setElem e x).lags = s.lags := rfl
@[simp] theorem State.setElem_late (s : State) (e : Nat) (x : Elem) : (s.setElem e x).late = s.late := rfl
@[simp] theorem State.setElem_gone (s : State) (e : Nat) (x : Elem) : (s.setElem e x).gone = s.gone := rfl
@[simp] theorem State.setElem_fed (s : State) (e : Nat) (x : Elem) : (s.setElem e x).fed = s.fed := rfl
@[simp] theorem State.setElem_tlb (s : State) (e : Nat) (x : Elem) : (s.setElem e x).tlb = s.tlb := rfl
@[simp] theorem State.setElem_own (s : State) (e : Nat) (x : Elem) : (s.setElem e x).own = s.own := rfl
@[simp] theorem State.setElem_otctx (s : State) (e : Nat) (x : Elem) : (s.setElem e x).otctx = s.otctx := rfl
@[simp] theorem State.setElem_nextseq (s : State) (e : Nat) (x : Elem) : (s.setElem e x).nextseq = s.nextseq := rfl
@[simp] theorem State.setElem_windows (s : State) (e : Nat) (x : Elem) : (s.setElem e x).windows = s.windows := rfl
@[simp] theorem State.setElem_exch (s : State) (e : Nat) (x : Elem) : (s.setElem e x).exch = s.exch := rfl
@[simp] theorem State.setElem_perf (s : State) (e : Nat) (x : Elem) : (s.setElem e x).perf = s.perf := rfl
@[simp] theorem State.setElem_serrcnt (s : State) (e : Nat) (x : Elem) : (s.setElem e x).serrcnt = s.serrcnt := rfl
@[simp] theorem State.setElem_serradr (s : State) (e : Nat) (x : Elem) : (s.setElem e x).serradr = s.serradr := rfl
@[simp] theorem State.setElem_snapseq (s : State) (e : Nat) (x : Elem) : (s.setElem e x).snapseq = s.snapseq := rfl
@[simp] theorem State.setElem_snappend (s : State) (e : Nat) (x : Elem) : (s.setElem e x).snappend = s.snappend := rfl
@[simp] theorem State.setElem_snapat (s : State) (e : Nat) (x : Elem) : (s.setElem e x).snapat = s.snapat := rfl
@[simp] theorem State.setElem_snapreg (s : State) (e : Nat) (x : Elem) : (s.setElem e x).snapreg = s.snapreg := rfl
@[simp] theorem State.setElem_gcyc (s : State) (e : Nat) (x : Elem) : (s.setElem e x).gcyc = s.gcyc := rfl
@[simp] theorem State.setElem_irqs (s : State) (e : Nat) (x : Elem) : (s.setElem e x).irqs = s.irqs := rfl
@[simp] theorem State.setElem_hostIn (s : State) (e : Nat) (x : Elem) : (s.setElem e x).hostIn = s.hostIn := rfl
@[simp] theorem State.setElem_pkg (s : State) (e : Nat) (x : Elem) : (s.setElem e x).pkg = s.pkg := rfl

/-! ### setTile -/

@[simp] theorem State.setTile_agenda (s : State) (t : Nat) (x : Tile) : (s.setTile t x).agenda = s.agenda := rfl
@[simp] theorem State.setTile_tick (s : State) (t : Nat) (x : Tile) : (s.setTile t x).tick = s.tick := rfl
@[simp] theorem State.setTile_cur (s : State) (t : Nat) (x : Tile) : (s.setTile t x).cur = s.cur := rfl
@[simp] theorem State.setTile_unit (s : State) (t : Nat) (x : Tile) : (s.setTile t x).unit = s.unit := rfl
@[simp] theorem State.setTile_ir (s : State) (t : Nat) (x : Tile) : (s.setTile t x).ir = s.ir := rfl
@[simp] theorem State.setTile_serial (s : State) (t : Nat) (x : Tile) : (s.setTile t x).serial = s.serial := rfl
@[simp] theorem State.setTile_site (s : State) (t : Nat) (x : Tile) : (s.setTile t x).site = s.site := rfl
@[simp] theorem State.setTile_cores (s : State) (t : Nat) (x : Tile) : (s.setTile t x).cores = s.cores := rfl
@[simp] theorem State.setTile_elems (s : State) (t : Nat) (x : Tile) : (s.setTile t x).elems = s.elems := rfl
@[simp] theorem State.setTile_regions (s : State) (t : Nat) (x : Tile) : (s.setTile t x).regions = s.regions := rfl
@[simp] theorem State.setTile_loads (s : State) (t : Nat) (x : Tile) : (s.setTile t x).loads = s.loads := rfl
@[simp] theorem State.setTile_launches (s : State) (t : Nat) (x : Tile) : (s.setTile t x).launches = s.launches := rfl
@[simp] theorem State.setTile_queues (s : State) (t : Nat) (x : Tile) : (s.setTile t x).queues = s.queues := rfl
@[simp] theorem State.setTile_ctxs (s : State) (t : Nat) (x : Tile) : (s.setTile t x).ctxs = s.ctxs := rfl
@[simp] theorem State.setTile_shadows (s : State) (t : Nat) (x : Tile) : (s.setTile t x).shadows = s.shadows := rfl
@[simp] theorem State.setTile_phases (s : State) (t : Nat) (x : Tile) : (s.setTile t x).phases = s.phases := rfl
@[simp] theorem State.setTile_copies (s : State) (t : Nat) (x : Tile) : (s.setTile t x).copies = s.copies := rfl
@[simp] theorem State.setTile_agus (s : State) (t : Nat) (x : Tile) : (s.setTile t x).agus = s.agus := rfl
@[simp] theorem State.setTile_migrs (s : State) (t : Nat) (x : Tile) : (s.setTile t x).migrs = s.migrs := rfl
@[simp] theorem State.setTile_cold (s : State) (t : Nat) (x : Tile) : (s.setTile t x).cold = s.cold := rfl
@[simp] theorem State.setTile_nmus (s : State) (t : Nat) (x : Tile) : (s.setTile t x).nmus = s.nmus := rfl
@[simp] theorem State.setTile_kstacks (s : State) (t : Nat) (x : Tile) : (s.setTile t x).kstacks = s.kstacks := rfl
@[simp] theorem State.setTile_fstores (s : State) (t : Nat) (x : Tile) : (s.setTile t x).fstores = s.fstores := rfl
@[simp] theorem State.setTile_mem (s : State) (t : Nat) (x : Tile) : (s.setTile t x).mem = s.mem := rfl
@[simp] theorem State.setTile_resid (s : State) (t : Nat) (x : Tile) : (s.setTile t x).resid = s.resid := rfl
@[simp] theorem State.setTile_lags (s : State) (t : Nat) (x : Tile) : (s.setTile t x).lags = s.lags := rfl
@[simp] theorem State.setTile_late (s : State) (t : Nat) (x : Tile) : (s.setTile t x).late = s.late := rfl
@[simp] theorem State.setTile_gone (s : State) (t : Nat) (x : Tile) : (s.setTile t x).gone = s.gone := rfl
@[simp] theorem State.setTile_fed (s : State) (t : Nat) (x : Tile) : (s.setTile t x).fed = s.fed := rfl
@[simp] theorem State.setTile_tlb (s : State) (t : Nat) (x : Tile) : (s.setTile t x).tlb = s.tlb := rfl
@[simp] theorem State.setTile_own (s : State) (t : Nat) (x : Tile) : (s.setTile t x).own = s.own := rfl
@[simp] theorem State.setTile_otctx (s : State) (t : Nat) (x : Tile) : (s.setTile t x).otctx = s.otctx := rfl
@[simp] theorem State.setTile_nextseq (s : State) (t : Nat) (x : Tile) : (s.setTile t x).nextseq = s.nextseq := rfl
@[simp] theorem State.setTile_windows (s : State) (t : Nat) (x : Tile) : (s.setTile t x).windows = s.windows := rfl
@[simp] theorem State.setTile_exch (s : State) (t : Nat) (x : Tile) : (s.setTile t x).exch = s.exch := rfl
@[simp] theorem State.setTile_perf (s : State) (t : Nat) (x : Tile) : (s.setTile t x).perf = s.perf := rfl
@[simp] theorem State.setTile_serrcnt (s : State) (t : Nat) (x : Tile) : (s.setTile t x).serrcnt = s.serrcnt := rfl
@[simp] theorem State.setTile_serradr (s : State) (t : Nat) (x : Tile) : (s.setTile t x).serradr = s.serradr := rfl
@[simp] theorem State.setTile_snapseq (s : State) (t : Nat) (x : Tile) : (s.setTile t x).snapseq = s.snapseq := rfl
@[simp] theorem State.setTile_snappend (s : State) (t : Nat) (x : Tile) : (s.setTile t x).snappend = s.snappend := rfl
@[simp] theorem State.setTile_snapat (s : State) (t : Nat) (x : Tile) : (s.setTile t x).snapat = s.snapat := rfl
@[simp] theorem State.setTile_snapreg (s : State) (t : Nat) (x : Tile) : (s.setTile t x).snapreg = s.snapreg := rfl
@[simp] theorem State.setTile_gcyc (s : State) (t : Nat) (x : Tile) : (s.setTile t x).gcyc = s.gcyc := rfl
@[simp] theorem State.setTile_irqs (s : State) (t : Nat) (x : Tile) : (s.setTile t x).irqs = s.irqs := rfl
@[simp] theorem State.setTile_hostIn (s : State) (t : Nat) (x : Tile) : (s.setTile t x).hostIn = s.hostIn := rfl
@[simp] theorem State.setTile_pkg (s : State) (t : Nat) (x : Tile) : (s.setTile t x).pkg = s.pkg := rfl

/-! ### setRegion -/

@[simp] theorem State.setRegion_agenda (s : State) (g : Nat) (r : Region) : (s.setRegion g r).agenda = s.agenda := rfl
@[simp] theorem State.setRegion_tick (s : State) (g : Nat) (r : Region) : (s.setRegion g r).tick = s.tick := rfl
@[simp] theorem State.setRegion_cur (s : State) (g : Nat) (r : Region) : (s.setRegion g r).cur = s.cur := rfl
@[simp] theorem State.setRegion_unit (s : State) (g : Nat) (r : Region) : (s.setRegion g r).unit = s.unit := rfl
@[simp] theorem State.setRegion_ir (s : State) (g : Nat) (r : Region) : (s.setRegion g r).ir = s.ir := rfl
@[simp] theorem State.setRegion_serial (s : State) (g : Nat) (r : Region) : (s.setRegion g r).serial = s.serial := rfl
@[simp] theorem State.setRegion_site (s : State) (g : Nat) (r : Region) : (s.setRegion g r).site = s.site := rfl
@[simp] theorem State.setRegion_cores (s : State) (g : Nat) (r : Region) : (s.setRegion g r).cores = s.cores := rfl
@[simp] theorem State.setRegion_elems (s : State) (g : Nat) (r : Region) : (s.setRegion g r).elems = s.elems := rfl
@[simp] theorem State.setRegion_tiles (s : State) (g : Nat) (r : Region) : (s.setRegion g r).tiles = s.tiles := rfl
@[simp] theorem State.setRegion_loads (s : State) (g : Nat) (r : Region) : (s.setRegion g r).loads = s.loads := rfl
@[simp] theorem State.setRegion_launches (s : State) (g : Nat) (r : Region) : (s.setRegion g r).launches = s.launches := rfl
@[simp] theorem State.setRegion_queues (s : State) (g : Nat) (r : Region) : (s.setRegion g r).queues = s.queues := rfl
@[simp] theorem State.setRegion_ctxs (s : State) (g : Nat) (r : Region) : (s.setRegion g r).ctxs = s.ctxs := rfl
@[simp] theorem State.setRegion_shadows (s : State) (g : Nat) (r : Region) : (s.setRegion g r).shadows = s.shadows := rfl
@[simp] theorem State.setRegion_phases (s : State) (g : Nat) (r : Region) : (s.setRegion g r).phases = s.phases := rfl
@[simp] theorem State.setRegion_copies (s : State) (g : Nat) (r : Region) : (s.setRegion g r).copies = s.copies := rfl
@[simp] theorem State.setRegion_agus (s : State) (g : Nat) (r : Region) : (s.setRegion g r).agus = s.agus := rfl
@[simp] theorem State.setRegion_migrs (s : State) (g : Nat) (r : Region) : (s.setRegion g r).migrs = s.migrs := rfl
@[simp] theorem State.setRegion_cold (s : State) (g : Nat) (r : Region) : (s.setRegion g r).cold = s.cold := rfl
@[simp] theorem State.setRegion_nmus (s : State) (g : Nat) (r : Region) : (s.setRegion g r).nmus = s.nmus := rfl
@[simp] theorem State.setRegion_kstacks (s : State) (g : Nat) (r : Region) : (s.setRegion g r).kstacks = s.kstacks := rfl
@[simp] theorem State.setRegion_fstores (s : State) (g : Nat) (r : Region) : (s.setRegion g r).fstores = s.fstores := rfl
@[simp] theorem State.setRegion_mem (s : State) (g : Nat) (r : Region) : (s.setRegion g r).mem = s.mem := rfl
@[simp] theorem State.setRegion_resid (s : State) (g : Nat) (r : Region) : (s.setRegion g r).resid = s.resid := rfl
@[simp] theorem State.setRegion_lags (s : State) (g : Nat) (r : Region) : (s.setRegion g r).lags = s.lags := rfl
@[simp] theorem State.setRegion_late (s : State) (g : Nat) (r : Region) : (s.setRegion g r).late = s.late := rfl
@[simp] theorem State.setRegion_gone (s : State) (g : Nat) (r : Region) : (s.setRegion g r).gone = s.gone := rfl
@[simp] theorem State.setRegion_fed (s : State) (g : Nat) (r : Region) : (s.setRegion g r).fed = s.fed := rfl
@[simp] theorem State.setRegion_tlb (s : State) (g : Nat) (r : Region) : (s.setRegion g r).tlb = s.tlb := rfl
@[simp] theorem State.setRegion_own (s : State) (g : Nat) (r : Region) : (s.setRegion g r).own = s.own := rfl
@[simp] theorem State.setRegion_otctx (s : State) (g : Nat) (r : Region) : (s.setRegion g r).otctx = s.otctx := rfl
@[simp] theorem State.setRegion_nextseq (s : State) (g : Nat) (r : Region) : (s.setRegion g r).nextseq = s.nextseq := rfl
@[simp] theorem State.setRegion_windows (s : State) (g : Nat) (r : Region) : (s.setRegion g r).windows = s.windows := rfl
@[simp] theorem State.setRegion_exch (s : State) (g : Nat) (r : Region) : (s.setRegion g r).exch = s.exch := rfl
@[simp] theorem State.setRegion_perf (s : State) (g : Nat) (r : Region) : (s.setRegion g r).perf = s.perf := rfl
@[simp] theorem State.setRegion_serrcnt (s : State) (g : Nat) (r : Region) : (s.setRegion g r).serrcnt = s.serrcnt := rfl
@[simp] theorem State.setRegion_serradr (s : State) (g : Nat) (r : Region) : (s.setRegion g r).serradr = s.serradr := rfl
@[simp] theorem State.setRegion_snapseq (s : State) (g : Nat) (r : Region) : (s.setRegion g r).snapseq = s.snapseq := rfl
@[simp] theorem State.setRegion_snappend (s : State) (g : Nat) (r : Region) : (s.setRegion g r).snappend = s.snappend := rfl
@[simp] theorem State.setRegion_snapat (s : State) (g : Nat) (r : Region) : (s.setRegion g r).snapat = s.snapat := rfl
@[simp] theorem State.setRegion_snapreg (s : State) (g : Nat) (r : Region) : (s.setRegion g r).snapreg = s.snapreg := rfl
@[simp] theorem State.setRegion_gcyc (s : State) (g : Nat) (r : Region) : (s.setRegion g r).gcyc = s.gcyc := rfl
@[simp] theorem State.setRegion_irqs (s : State) (g : Nat) (r : Region) : (s.setRegion g r).irqs = s.irqs := rfl
@[simp] theorem State.setRegion_hostIn (s : State) (g : Nat) (r : Region) : (s.setRegion g r).hostIn = s.hostIn := rfl
@[simp] theorem State.setRegion_pkg (s : State) (g : Nat) (r : Region) : (s.setRegion g r).pkg = s.pkg := rfl

/-! ### setLoad -/

@[simp] theorem State.setLoad_agenda (s : State) (l : Nat) (x : Load) : (s.setLoad l x).agenda = s.agenda := rfl
@[simp] theorem State.setLoad_tick (s : State) (l : Nat) (x : Load) : (s.setLoad l x).tick = s.tick := rfl
@[simp] theorem State.setLoad_cur (s : State) (l : Nat) (x : Load) : (s.setLoad l x).cur = s.cur := rfl
@[simp] theorem State.setLoad_unit (s : State) (l : Nat) (x : Load) : (s.setLoad l x).unit = s.unit := rfl
@[simp] theorem State.setLoad_ir (s : State) (l : Nat) (x : Load) : (s.setLoad l x).ir = s.ir := rfl
@[simp] theorem State.setLoad_serial (s : State) (l : Nat) (x : Load) : (s.setLoad l x).serial = s.serial := rfl
@[simp] theorem State.setLoad_site (s : State) (l : Nat) (x : Load) : (s.setLoad l x).site = s.site := rfl
@[simp] theorem State.setLoad_cores (s : State) (l : Nat) (x : Load) : (s.setLoad l x).cores = s.cores := rfl
@[simp] theorem State.setLoad_elems (s : State) (l : Nat) (x : Load) : (s.setLoad l x).elems = s.elems := rfl
@[simp] theorem State.setLoad_tiles (s : State) (l : Nat) (x : Load) : (s.setLoad l x).tiles = s.tiles := rfl
@[simp] theorem State.setLoad_regions (s : State) (l : Nat) (x : Load) : (s.setLoad l x).regions = s.regions := rfl
@[simp] theorem State.setLoad_launches (s : State) (l : Nat) (x : Load) : (s.setLoad l x).launches = s.launches := rfl
@[simp] theorem State.setLoad_queues (s : State) (l : Nat) (x : Load) : (s.setLoad l x).queues = s.queues := rfl
@[simp] theorem State.setLoad_ctxs (s : State) (l : Nat) (x : Load) : (s.setLoad l x).ctxs = s.ctxs := rfl
@[simp] theorem State.setLoad_shadows (s : State) (l : Nat) (x : Load) : (s.setLoad l x).shadows = s.shadows := rfl
@[simp] theorem State.setLoad_phases (s : State) (l : Nat) (x : Load) : (s.setLoad l x).phases = s.phases := rfl
@[simp] theorem State.setLoad_copies (s : State) (l : Nat) (x : Load) : (s.setLoad l x).copies = s.copies := rfl
@[simp] theorem State.setLoad_agus (s : State) (l : Nat) (x : Load) : (s.setLoad l x).agus = s.agus := rfl
@[simp] theorem State.setLoad_migrs (s : State) (l : Nat) (x : Load) : (s.setLoad l x).migrs = s.migrs := rfl
@[simp] theorem State.setLoad_cold (s : State) (l : Nat) (x : Load) : (s.setLoad l x).cold = s.cold := rfl
@[simp] theorem State.setLoad_nmus (s : State) (l : Nat) (x : Load) : (s.setLoad l x).nmus = s.nmus := rfl
@[simp] theorem State.setLoad_kstacks (s : State) (l : Nat) (x : Load) : (s.setLoad l x).kstacks = s.kstacks := rfl
@[simp] theorem State.setLoad_fstores (s : State) (l : Nat) (x : Load) : (s.setLoad l x).fstores = s.fstores := rfl
@[simp] theorem State.setLoad_mem (s : State) (l : Nat) (x : Load) : (s.setLoad l x).mem = s.mem := rfl
@[simp] theorem State.setLoad_resid (s : State) (l : Nat) (x : Load) : (s.setLoad l x).resid = s.resid := rfl
@[simp] theorem State.setLoad_lags (s : State) (l : Nat) (x : Load) : (s.setLoad l x).lags = s.lags := rfl
@[simp] theorem State.setLoad_late (s : State) (l : Nat) (x : Load) : (s.setLoad l x).late = s.late := rfl
@[simp] theorem State.setLoad_gone (s : State) (l : Nat) (x : Load) : (s.setLoad l x).gone = s.gone := rfl
@[simp] theorem State.setLoad_fed (s : State) (l : Nat) (x : Load) : (s.setLoad l x).fed = s.fed := rfl
@[simp] theorem State.setLoad_tlb (s : State) (l : Nat) (x : Load) : (s.setLoad l x).tlb = s.tlb := rfl
@[simp] theorem State.setLoad_own (s : State) (l : Nat) (x : Load) : (s.setLoad l x).own = s.own := rfl
@[simp] theorem State.setLoad_otctx (s : State) (l : Nat) (x : Load) : (s.setLoad l x).otctx = s.otctx := rfl
@[simp] theorem State.setLoad_nextseq (s : State) (l : Nat) (x : Load) : (s.setLoad l x).nextseq = s.nextseq := rfl
@[simp] theorem State.setLoad_windows (s : State) (l : Nat) (x : Load) : (s.setLoad l x).windows = s.windows := rfl
@[simp] theorem State.setLoad_exch (s : State) (l : Nat) (x : Load) : (s.setLoad l x).exch = s.exch := rfl
@[simp] theorem State.setLoad_perf (s : State) (l : Nat) (x : Load) : (s.setLoad l x).perf = s.perf := rfl
@[simp] theorem State.setLoad_serrcnt (s : State) (l : Nat) (x : Load) : (s.setLoad l x).serrcnt = s.serrcnt := rfl
@[simp] theorem State.setLoad_serradr (s : State) (l : Nat) (x : Load) : (s.setLoad l x).serradr = s.serradr := rfl
@[simp] theorem State.setLoad_snapseq (s : State) (l : Nat) (x : Load) : (s.setLoad l x).snapseq = s.snapseq := rfl
@[simp] theorem State.setLoad_snappend (s : State) (l : Nat) (x : Load) : (s.setLoad l x).snappend = s.snappend := rfl
@[simp] theorem State.setLoad_snapat (s : State) (l : Nat) (x : Load) : (s.setLoad l x).snapat = s.snapat := rfl
@[simp] theorem State.setLoad_snapreg (s : State) (l : Nat) (x : Load) : (s.setLoad l x).snapreg = s.snapreg := rfl
@[simp] theorem State.setLoad_gcyc (s : State) (l : Nat) (x : Load) : (s.setLoad l x).gcyc = s.gcyc := rfl
@[simp] theorem State.setLoad_irqs (s : State) (l : Nat) (x : Load) : (s.setLoad l x).irqs = s.irqs := rfl
@[simp] theorem State.setLoad_hostIn (s : State) (l : Nat) (x : Load) : (s.setLoad l x).hostIn = s.hostIn := rfl
@[simp] theorem State.setLoad_pkg (s : State) (l : Nat) (x : Load) : (s.setLoad l x).pkg = s.pkg := rfl

/-! ### setLaunch -/

@[simp] theorem State.setLaunch_agenda (s : State) (l : Nat) (x : Launch) : (s.setLaunch l x).agenda = s.agenda := rfl
@[simp] theorem State.setLaunch_tick (s : State) (l : Nat) (x : Launch) : (s.setLaunch l x).tick = s.tick := rfl
@[simp] theorem State.setLaunch_cur (s : State) (l : Nat) (x : Launch) : (s.setLaunch l x).cur = s.cur := rfl
@[simp] theorem State.setLaunch_unit (s : State) (l : Nat) (x : Launch) : (s.setLaunch l x).unit = s.unit := rfl
@[simp] theorem State.setLaunch_ir (s : State) (l : Nat) (x : Launch) : (s.setLaunch l x).ir = s.ir := rfl
@[simp] theorem State.setLaunch_serial (s : State) (l : Nat) (x : Launch) : (s.setLaunch l x).serial = s.serial := rfl
@[simp] theorem State.setLaunch_site (s : State) (l : Nat) (x : Launch) : (s.setLaunch l x).site = s.site := rfl
@[simp] theorem State.setLaunch_cores (s : State) (l : Nat) (x : Launch) : (s.setLaunch l x).cores = s.cores := rfl
@[simp] theorem State.setLaunch_elems (s : State) (l : Nat) (x : Launch) : (s.setLaunch l x).elems = s.elems := rfl
@[simp] theorem State.setLaunch_tiles (s : State) (l : Nat) (x : Launch) : (s.setLaunch l x).tiles = s.tiles := rfl
@[simp] theorem State.setLaunch_regions (s : State) (l : Nat) (x : Launch) : (s.setLaunch l x).regions = s.regions := rfl
@[simp] theorem State.setLaunch_loads (s : State) (l : Nat) (x : Launch) : (s.setLaunch l x).loads = s.loads := rfl
@[simp] theorem State.setLaunch_queues (s : State) (l : Nat) (x : Launch) : (s.setLaunch l x).queues = s.queues := rfl
@[simp] theorem State.setLaunch_ctxs (s : State) (l : Nat) (x : Launch) : (s.setLaunch l x).ctxs = s.ctxs := rfl
@[simp] theorem State.setLaunch_shadows (s : State) (l : Nat) (x : Launch) : (s.setLaunch l x).shadows = s.shadows := rfl
@[simp] theorem State.setLaunch_phases (s : State) (l : Nat) (x : Launch) : (s.setLaunch l x).phases = s.phases := rfl
@[simp] theorem State.setLaunch_copies (s : State) (l : Nat) (x : Launch) : (s.setLaunch l x).copies = s.copies := rfl
@[simp] theorem State.setLaunch_agus (s : State) (l : Nat) (x : Launch) : (s.setLaunch l x).agus = s.agus := rfl
@[simp] theorem State.setLaunch_migrs (s : State) (l : Nat) (x : Launch) : (s.setLaunch l x).migrs = s.migrs := rfl
@[simp] theorem State.setLaunch_cold (s : State) (l : Nat) (x : Launch) : (s.setLaunch l x).cold = s.cold := rfl
@[simp] theorem State.setLaunch_nmus (s : State) (l : Nat) (x : Launch) : (s.setLaunch l x).nmus = s.nmus := rfl
@[simp] theorem State.setLaunch_kstacks (s : State) (l : Nat) (x : Launch) : (s.setLaunch l x).kstacks = s.kstacks := rfl
@[simp] theorem State.setLaunch_fstores (s : State) (l : Nat) (x : Launch) : (s.setLaunch l x).fstores = s.fstores := rfl
@[simp] theorem State.setLaunch_mem (s : State) (l : Nat) (x : Launch) : (s.setLaunch l x).mem = s.mem := rfl
@[simp] theorem State.setLaunch_resid (s : State) (l : Nat) (x : Launch) : (s.setLaunch l x).resid = s.resid := rfl
@[simp] theorem State.setLaunch_lags (s : State) (l : Nat) (x : Launch) : (s.setLaunch l x).lags = s.lags := rfl
@[simp] theorem State.setLaunch_late (s : State) (l : Nat) (x : Launch) : (s.setLaunch l x).late = s.late := rfl
@[simp] theorem State.setLaunch_gone (s : State) (l : Nat) (x : Launch) : (s.setLaunch l x).gone = s.gone := rfl
@[simp] theorem State.setLaunch_fed (s : State) (l : Nat) (x : Launch) : (s.setLaunch l x).fed = s.fed := rfl
@[simp] theorem State.setLaunch_tlb (s : State) (l : Nat) (x : Launch) : (s.setLaunch l x).tlb = s.tlb := rfl
@[simp] theorem State.setLaunch_own (s : State) (l : Nat) (x : Launch) : (s.setLaunch l x).own = s.own := rfl
@[simp] theorem State.setLaunch_otctx (s : State) (l : Nat) (x : Launch) : (s.setLaunch l x).otctx = s.otctx := rfl
@[simp] theorem State.setLaunch_nextseq (s : State) (l : Nat) (x : Launch) : (s.setLaunch l x).nextseq = s.nextseq := rfl
@[simp] theorem State.setLaunch_windows (s : State) (l : Nat) (x : Launch) : (s.setLaunch l x).windows = s.windows := rfl
@[simp] theorem State.setLaunch_exch (s : State) (l : Nat) (x : Launch) : (s.setLaunch l x).exch = s.exch := rfl
@[simp] theorem State.setLaunch_perf (s : State) (l : Nat) (x : Launch) : (s.setLaunch l x).perf = s.perf := rfl
@[simp] theorem State.setLaunch_serrcnt (s : State) (l : Nat) (x : Launch) : (s.setLaunch l x).serrcnt = s.serrcnt := rfl
@[simp] theorem State.setLaunch_serradr (s : State) (l : Nat) (x : Launch) : (s.setLaunch l x).serradr = s.serradr := rfl
@[simp] theorem State.setLaunch_snapseq (s : State) (l : Nat) (x : Launch) : (s.setLaunch l x).snapseq = s.snapseq := rfl
@[simp] theorem State.setLaunch_snappend (s : State) (l : Nat) (x : Launch) : (s.setLaunch l x).snappend = s.snappend := rfl
@[simp] theorem State.setLaunch_snapat (s : State) (l : Nat) (x : Launch) : (s.setLaunch l x).snapat = s.snapat := rfl
@[simp] theorem State.setLaunch_snapreg (s : State) (l : Nat) (x : Launch) : (s.setLaunch l x).snapreg = s.snapreg := rfl
@[simp] theorem State.setLaunch_gcyc (s : State) (l : Nat) (x : Launch) : (s.setLaunch l x).gcyc = s.gcyc := rfl
@[simp] theorem State.setLaunch_irqs (s : State) (l : Nat) (x : Launch) : (s.setLaunch l x).irqs = s.irqs := rfl
@[simp] theorem State.setLaunch_hostIn (s : State) (l : Nat) (x : Launch) : (s.setLaunch l x).hostIn = s.hostIn := rfl
@[simp] theorem State.setLaunch_pkg (s : State) (l : Nat) (x : Launch) : (s.setLaunch l x).pkg = s.pkg := rfl

/-! ### setQueue -/

@[simp] theorem State.setQueue_agenda (s : State) (q : Nat) (x : Queue) : (s.setQueue q x).agenda = s.agenda := rfl
@[simp] theorem State.setQueue_tick (s : State) (q : Nat) (x : Queue) : (s.setQueue q x).tick = s.tick := rfl
@[simp] theorem State.setQueue_cur (s : State) (q : Nat) (x : Queue) : (s.setQueue q x).cur = s.cur := rfl
@[simp] theorem State.setQueue_unit (s : State) (q : Nat) (x : Queue) : (s.setQueue q x).unit = s.unit := rfl
@[simp] theorem State.setQueue_ir (s : State) (q : Nat) (x : Queue) : (s.setQueue q x).ir = s.ir := rfl
@[simp] theorem State.setQueue_serial (s : State) (q : Nat) (x : Queue) : (s.setQueue q x).serial = s.serial := rfl
@[simp] theorem State.setQueue_site (s : State) (q : Nat) (x : Queue) : (s.setQueue q x).site = s.site := rfl
@[simp] theorem State.setQueue_cores (s : State) (q : Nat) (x : Queue) : (s.setQueue q x).cores = s.cores := rfl
@[simp] theorem State.setQueue_elems (s : State) (q : Nat) (x : Queue) : (s.setQueue q x).elems = s.elems := rfl
@[simp] theorem State.setQueue_tiles (s : State) (q : Nat) (x : Queue) : (s.setQueue q x).tiles = s.tiles := rfl
@[simp] theorem State.setQueue_regions (s : State) (q : Nat) (x : Queue) : (s.setQueue q x).regions = s.regions := rfl
@[simp] theorem State.setQueue_loads (s : State) (q : Nat) (x : Queue) : (s.setQueue q x).loads = s.loads := rfl
@[simp] theorem State.setQueue_launches (s : State) (q : Nat) (x : Queue) : (s.setQueue q x).launches = s.launches := rfl
@[simp] theorem State.setQueue_ctxs (s : State) (q : Nat) (x : Queue) : (s.setQueue q x).ctxs = s.ctxs := rfl
@[simp] theorem State.setQueue_shadows (s : State) (q : Nat) (x : Queue) : (s.setQueue q x).shadows = s.shadows := rfl
@[simp] theorem State.setQueue_phases (s : State) (q : Nat) (x : Queue) : (s.setQueue q x).phases = s.phases := rfl
@[simp] theorem State.setQueue_copies (s : State) (q : Nat) (x : Queue) : (s.setQueue q x).copies = s.copies := rfl
@[simp] theorem State.setQueue_agus (s : State) (q : Nat) (x : Queue) : (s.setQueue q x).agus = s.agus := rfl
@[simp] theorem State.setQueue_migrs (s : State) (q : Nat) (x : Queue) : (s.setQueue q x).migrs = s.migrs := rfl
@[simp] theorem State.setQueue_cold (s : State) (q : Nat) (x : Queue) : (s.setQueue q x).cold = s.cold := rfl
@[simp] theorem State.setQueue_nmus (s : State) (q : Nat) (x : Queue) : (s.setQueue q x).nmus = s.nmus := rfl
@[simp] theorem State.setQueue_kstacks (s : State) (q : Nat) (x : Queue) : (s.setQueue q x).kstacks = s.kstacks := rfl
@[simp] theorem State.setQueue_fstores (s : State) (q : Nat) (x : Queue) : (s.setQueue q x).fstores = s.fstores := rfl
@[simp] theorem State.setQueue_mem (s : State) (q : Nat) (x : Queue) : (s.setQueue q x).mem = s.mem := rfl
@[simp] theorem State.setQueue_resid (s : State) (q : Nat) (x : Queue) : (s.setQueue q x).resid = s.resid := rfl
@[simp] theorem State.setQueue_lags (s : State) (q : Nat) (x : Queue) : (s.setQueue q x).lags = s.lags := rfl
@[simp] theorem State.setQueue_late (s : State) (q : Nat) (x : Queue) : (s.setQueue q x).late = s.late := rfl
@[simp] theorem State.setQueue_gone (s : State) (q : Nat) (x : Queue) : (s.setQueue q x).gone = s.gone := rfl
@[simp] theorem State.setQueue_fed (s : State) (q : Nat) (x : Queue) : (s.setQueue q x).fed = s.fed := rfl
@[simp] theorem State.setQueue_tlb (s : State) (q : Nat) (x : Queue) : (s.setQueue q x).tlb = s.tlb := rfl
@[simp] theorem State.setQueue_own (s : State) (q : Nat) (x : Queue) : (s.setQueue q x).own = s.own := rfl
@[simp] theorem State.setQueue_otctx (s : State) (q : Nat) (x : Queue) : (s.setQueue q x).otctx = s.otctx := rfl
@[simp] theorem State.setQueue_nextseq (s : State) (q : Nat) (x : Queue) : (s.setQueue q x).nextseq = s.nextseq := rfl
@[simp] theorem State.setQueue_windows (s : State) (q : Nat) (x : Queue) : (s.setQueue q x).windows = s.windows := rfl
@[simp] theorem State.setQueue_exch (s : State) (q : Nat) (x : Queue) : (s.setQueue q x).exch = s.exch := rfl
@[simp] theorem State.setQueue_perf (s : State) (q : Nat) (x : Queue) : (s.setQueue q x).perf = s.perf := rfl
@[simp] theorem State.setQueue_serrcnt (s : State) (q : Nat) (x : Queue) : (s.setQueue q x).serrcnt = s.serrcnt := rfl
@[simp] theorem State.setQueue_serradr (s : State) (q : Nat) (x : Queue) : (s.setQueue q x).serradr = s.serradr := rfl
@[simp] theorem State.setQueue_snapseq (s : State) (q : Nat) (x : Queue) : (s.setQueue q x).snapseq = s.snapseq := rfl
@[simp] theorem State.setQueue_snappend (s : State) (q : Nat) (x : Queue) : (s.setQueue q x).snappend = s.snappend := rfl
@[simp] theorem State.setQueue_snapat (s : State) (q : Nat) (x : Queue) : (s.setQueue q x).snapat = s.snapat := rfl
@[simp] theorem State.setQueue_snapreg (s : State) (q : Nat) (x : Queue) : (s.setQueue q x).snapreg = s.snapreg := rfl
@[simp] theorem State.setQueue_gcyc (s : State) (q : Nat) (x : Queue) : (s.setQueue q x).gcyc = s.gcyc := rfl
@[simp] theorem State.setQueue_irqs (s : State) (q : Nat) (x : Queue) : (s.setQueue q x).irqs = s.irqs := rfl
@[simp] theorem State.setQueue_hostIn (s : State) (q : Nat) (x : Queue) : (s.setQueue q x).hostIn = s.hostIn := rfl
@[simp] theorem State.setQueue_pkg (s : State) (q : Nat) (x : Queue) : (s.setQueue q x).pkg = s.pkg := rfl

/-! ### setCtx -/

@[simp] theorem State.setCtx_agenda (s : State) (c : Nat) (x : Ctx) : (s.setCtx c x).agenda = s.agenda := rfl
@[simp] theorem State.setCtx_tick (s : State) (c : Nat) (x : Ctx) : (s.setCtx c x).tick = s.tick := rfl
@[simp] theorem State.setCtx_cur (s : State) (c : Nat) (x : Ctx) : (s.setCtx c x).cur = s.cur := rfl
@[simp] theorem State.setCtx_unit (s : State) (c : Nat) (x : Ctx) : (s.setCtx c x).unit = s.unit := rfl
@[simp] theorem State.setCtx_ir (s : State) (c : Nat) (x : Ctx) : (s.setCtx c x).ir = s.ir := rfl
@[simp] theorem State.setCtx_serial (s : State) (c : Nat) (x : Ctx) : (s.setCtx c x).serial = s.serial := rfl
@[simp] theorem State.setCtx_site (s : State) (c : Nat) (x : Ctx) : (s.setCtx c x).site = s.site := rfl
@[simp] theorem State.setCtx_cores (s : State) (c : Nat) (x : Ctx) : (s.setCtx c x).cores = s.cores := rfl
@[simp] theorem State.setCtx_elems (s : State) (c : Nat) (x : Ctx) : (s.setCtx c x).elems = s.elems := rfl
@[simp] theorem State.setCtx_tiles (s : State) (c : Nat) (x : Ctx) : (s.setCtx c x).tiles = s.tiles := rfl
@[simp] theorem State.setCtx_regions (s : State) (c : Nat) (x : Ctx) : (s.setCtx c x).regions = s.regions := rfl
@[simp] theorem State.setCtx_loads (s : State) (c : Nat) (x : Ctx) : (s.setCtx c x).loads = s.loads := rfl
@[simp] theorem State.setCtx_launches (s : State) (c : Nat) (x : Ctx) : (s.setCtx c x).launches = s.launches := rfl
@[simp] theorem State.setCtx_queues (s : State) (c : Nat) (x : Ctx) : (s.setCtx c x).queues = s.queues := rfl
@[simp] theorem State.setCtx_shadows (s : State) (c : Nat) (x : Ctx) : (s.setCtx c x).shadows = s.shadows := rfl
@[simp] theorem State.setCtx_phases (s : State) (c : Nat) (x : Ctx) : (s.setCtx c x).phases = s.phases := rfl
@[simp] theorem State.setCtx_copies (s : State) (c : Nat) (x : Ctx) : (s.setCtx c x).copies = s.copies := rfl
@[simp] theorem State.setCtx_agus (s : State) (c : Nat) (x : Ctx) : (s.setCtx c x).agus = s.agus := rfl
@[simp] theorem State.setCtx_migrs (s : State) (c : Nat) (x : Ctx) : (s.setCtx c x).migrs = s.migrs := rfl
@[simp] theorem State.setCtx_cold (s : State) (c : Nat) (x : Ctx) : (s.setCtx c x).cold = s.cold := rfl
@[simp] theorem State.setCtx_nmus (s : State) (c : Nat) (x : Ctx) : (s.setCtx c x).nmus = s.nmus := rfl
@[simp] theorem State.setCtx_kstacks (s : State) (c : Nat) (x : Ctx) : (s.setCtx c x).kstacks = s.kstacks := rfl
@[simp] theorem State.setCtx_fstores (s : State) (c : Nat) (x : Ctx) : (s.setCtx c x).fstores = s.fstores := rfl
@[simp] theorem State.setCtx_mem (s : State) (c : Nat) (x : Ctx) : (s.setCtx c x).mem = s.mem := rfl
@[simp] theorem State.setCtx_resid (s : State) (c : Nat) (x : Ctx) : (s.setCtx c x).resid = s.resid := rfl
@[simp] theorem State.setCtx_lags (s : State) (c : Nat) (x : Ctx) : (s.setCtx c x).lags = s.lags := rfl
@[simp] theorem State.setCtx_late (s : State) (c : Nat) (x : Ctx) : (s.setCtx c x).late = s.late := rfl
@[simp] theorem State.setCtx_gone (s : State) (c : Nat) (x : Ctx) : (s.setCtx c x).gone = s.gone := rfl
@[simp] theorem State.setCtx_fed (s : State) (c : Nat) (x : Ctx) : (s.setCtx c x).fed = s.fed := rfl
@[simp] theorem State.setCtx_tlb (s : State) (c : Nat) (x : Ctx) : (s.setCtx c x).tlb = s.tlb := rfl
@[simp] theorem State.setCtx_own (s : State) (c : Nat) (x : Ctx) : (s.setCtx c x).own = s.own := rfl
@[simp] theorem State.setCtx_otctx (s : State) (c : Nat) (x : Ctx) : (s.setCtx c x).otctx = s.otctx := rfl
@[simp] theorem State.setCtx_nextseq (s : State) (c : Nat) (x : Ctx) : (s.setCtx c x).nextseq = s.nextseq := rfl
@[simp] theorem State.setCtx_windows (s : State) (c : Nat) (x : Ctx) : (s.setCtx c x).windows = s.windows := rfl
@[simp] theorem State.setCtx_exch (s : State) (c : Nat) (x : Ctx) : (s.setCtx c x).exch = s.exch := rfl
@[simp] theorem State.setCtx_perf (s : State) (c : Nat) (x : Ctx) : (s.setCtx c x).perf = s.perf := rfl
@[simp] theorem State.setCtx_serrcnt (s : State) (c : Nat) (x : Ctx) : (s.setCtx c x).serrcnt = s.serrcnt := rfl
@[simp] theorem State.setCtx_serradr (s : State) (c : Nat) (x : Ctx) : (s.setCtx c x).serradr = s.serradr := rfl
@[simp] theorem State.setCtx_snapseq (s : State) (c : Nat) (x : Ctx) : (s.setCtx c x).snapseq = s.snapseq := rfl
@[simp] theorem State.setCtx_snappend (s : State) (c : Nat) (x : Ctx) : (s.setCtx c x).snappend = s.snappend := rfl
@[simp] theorem State.setCtx_snapat (s : State) (c : Nat) (x : Ctx) : (s.setCtx c x).snapat = s.snapat := rfl
@[simp] theorem State.setCtx_snapreg (s : State) (c : Nat) (x : Ctx) : (s.setCtx c x).snapreg = s.snapreg := rfl
@[simp] theorem State.setCtx_gcyc (s : State) (c : Nat) (x : Ctx) : (s.setCtx c x).gcyc = s.gcyc := rfl
@[simp] theorem State.setCtx_irqs (s : State) (c : Nat) (x : Ctx) : (s.setCtx c x).irqs = s.irqs := rfl
@[simp] theorem State.setCtx_hostIn (s : State) (c : Nat) (x : Ctx) : (s.setCtx c x).hostIn = s.hostIn := rfl
@[simp] theorem State.setCtx_pkg (s : State) (c : Nat) (x : Ctx) : (s.setCtx c x).pkg = s.pkg := rfl

/-! ### setPhase -/

@[simp] theorem State.setPhase_agenda (s : State) (n : Nat) (x : Phase) : (s.setPhase n x).agenda = s.agenda := rfl
@[simp] theorem State.setPhase_tick (s : State) (n : Nat) (x : Phase) : (s.setPhase n x).tick = s.tick := rfl
@[simp] theorem State.setPhase_cur (s : State) (n : Nat) (x : Phase) : (s.setPhase n x).cur = s.cur := rfl
@[simp] theorem State.setPhase_unit (s : State) (n : Nat) (x : Phase) : (s.setPhase n x).unit = s.unit := rfl
@[simp] theorem State.setPhase_ir (s : State) (n : Nat) (x : Phase) : (s.setPhase n x).ir = s.ir := rfl
@[simp] theorem State.setPhase_serial (s : State) (n : Nat) (x : Phase) : (s.setPhase n x).serial = s.serial := rfl
@[simp] theorem State.setPhase_site (s : State) (n : Nat) (x : Phase) : (s.setPhase n x).site = s.site := rfl
@[simp] theorem State.setPhase_cores (s : State) (n : Nat) (x : Phase) : (s.setPhase n x).cores = s.cores := rfl
@[simp] theorem State.setPhase_elems (s : State) (n : Nat) (x : Phase) : (s.setPhase n x).elems = s.elems := rfl
@[simp] theorem State.setPhase_tiles (s : State) (n : Nat) (x : Phase) : (s.setPhase n x).tiles = s.tiles := rfl
@[simp] theorem State.setPhase_regions (s : State) (n : Nat) (x : Phase) : (s.setPhase n x).regions = s.regions := rfl
@[simp] theorem State.setPhase_loads (s : State) (n : Nat) (x : Phase) : (s.setPhase n x).loads = s.loads := rfl
@[simp] theorem State.setPhase_launches (s : State) (n : Nat) (x : Phase) : (s.setPhase n x).launches = s.launches := rfl
@[simp] theorem State.setPhase_queues (s : State) (n : Nat) (x : Phase) : (s.setPhase n x).queues = s.queues := rfl
@[simp] theorem State.setPhase_ctxs (s : State) (n : Nat) (x : Phase) : (s.setPhase n x).ctxs = s.ctxs := rfl
@[simp] theorem State.setPhase_shadows (s : State) (n : Nat) (x : Phase) : (s.setPhase n x).shadows = s.shadows := rfl
@[simp] theorem State.setPhase_copies (s : State) (n : Nat) (x : Phase) : (s.setPhase n x).copies = s.copies := rfl
@[simp] theorem State.setPhase_agus (s : State) (n : Nat) (x : Phase) : (s.setPhase n x).agus = s.agus := rfl
@[simp] theorem State.setPhase_migrs (s : State) (n : Nat) (x : Phase) : (s.setPhase n x).migrs = s.migrs := rfl
@[simp] theorem State.setPhase_cold (s : State) (n : Nat) (x : Phase) : (s.setPhase n x).cold = s.cold := rfl
@[simp] theorem State.setPhase_nmus (s : State) (n : Nat) (x : Phase) : (s.setPhase n x).nmus = s.nmus := rfl
@[simp] theorem State.setPhase_kstacks (s : State) (n : Nat) (x : Phase) : (s.setPhase n x).kstacks = s.kstacks := rfl
@[simp] theorem State.setPhase_fstores (s : State) (n : Nat) (x : Phase) : (s.setPhase n x).fstores = s.fstores := rfl
@[simp] theorem State.setPhase_mem (s : State) (n : Nat) (x : Phase) : (s.setPhase n x).mem = s.mem := rfl
@[simp] theorem State.setPhase_resid (s : State) (n : Nat) (x : Phase) : (s.setPhase n x).resid = s.resid := rfl
@[simp] theorem State.setPhase_lags (s : State) (n : Nat) (x : Phase) : (s.setPhase n x).lags = s.lags := rfl
@[simp] theorem State.setPhase_late (s : State) (n : Nat) (x : Phase) : (s.setPhase n x).late = s.late := rfl
@[simp] theorem State.setPhase_gone (s : State) (n : Nat) (x : Phase) : (s.setPhase n x).gone = s.gone := rfl
@[simp] theorem State.setPhase_fed (s : State) (n : Nat) (x : Phase) : (s.setPhase n x).fed = s.fed := rfl
@[simp] theorem State.setPhase_tlb (s : State) (n : Nat) (x : Phase) : (s.setPhase n x).tlb = s.tlb := rfl
@[simp] theorem State.setPhase_own (s : State) (n : Nat) (x : Phase) : (s.setPhase n x).own = s.own := rfl
@[simp] theorem State.setPhase_otctx (s : State) (n : Nat) (x : Phase) : (s.setPhase n x).otctx = s.otctx := rfl
@[simp] theorem State.setPhase_nextseq (s : State) (n : Nat) (x : Phase) : (s.setPhase n x).nextseq = s.nextseq := rfl
@[simp] theorem State.setPhase_windows (s : State) (n : Nat) (x : Phase) : (s.setPhase n x).windows = s.windows := rfl
@[simp] theorem State.setPhase_exch (s : State) (n : Nat) (x : Phase) : (s.setPhase n x).exch = s.exch := rfl
@[simp] theorem State.setPhase_perf (s : State) (n : Nat) (x : Phase) : (s.setPhase n x).perf = s.perf := rfl
@[simp] theorem State.setPhase_serrcnt (s : State) (n : Nat) (x : Phase) : (s.setPhase n x).serrcnt = s.serrcnt := rfl
@[simp] theorem State.setPhase_serradr (s : State) (n : Nat) (x : Phase) : (s.setPhase n x).serradr = s.serradr := rfl
@[simp] theorem State.setPhase_snapseq (s : State) (n : Nat) (x : Phase) : (s.setPhase n x).snapseq = s.snapseq := rfl
@[simp] theorem State.setPhase_snappend (s : State) (n : Nat) (x : Phase) : (s.setPhase n x).snappend = s.snappend := rfl
@[simp] theorem State.setPhase_snapat (s : State) (n : Nat) (x : Phase) : (s.setPhase n x).snapat = s.snapat := rfl
@[simp] theorem State.setPhase_snapreg (s : State) (n : Nat) (x : Phase) : (s.setPhase n x).snapreg = s.snapreg := rfl
@[simp] theorem State.setPhase_gcyc (s : State) (n : Nat) (x : Phase) : (s.setPhase n x).gcyc = s.gcyc := rfl
@[simp] theorem State.setPhase_irqs (s : State) (n : Nat) (x : Phase) : (s.setPhase n x).irqs = s.irqs := rfl
@[simp] theorem State.setPhase_hostIn (s : State) (n : Nat) (x : Phase) : (s.setPhase n x).hostIn = s.hostIn := rfl
@[simp] theorem State.setPhase_pkg (s : State) (n : Nat) (x : Phase) : (s.setPhase n x).pkg = s.pkg := rfl

/-! ### setAgu -/

@[simp] theorem State.setAgu_agenda (s : State) (a : Nat) (x : Agu) : (s.setAgu a x).agenda = s.agenda := rfl
@[simp] theorem State.setAgu_tick (s : State) (a : Nat) (x : Agu) : (s.setAgu a x).tick = s.tick := rfl
@[simp] theorem State.setAgu_cur (s : State) (a : Nat) (x : Agu) : (s.setAgu a x).cur = s.cur := rfl
@[simp] theorem State.setAgu_unit (s : State) (a : Nat) (x : Agu) : (s.setAgu a x).unit = s.unit := rfl
@[simp] theorem State.setAgu_ir (s : State) (a : Nat) (x : Agu) : (s.setAgu a x).ir = s.ir := rfl
@[simp] theorem State.setAgu_serial (s : State) (a : Nat) (x : Agu) : (s.setAgu a x).serial = s.serial := rfl
@[simp] theorem State.setAgu_site (s : State) (a : Nat) (x : Agu) : (s.setAgu a x).site = s.site := rfl
@[simp] theorem State.setAgu_cores (s : State) (a : Nat) (x : Agu) : (s.setAgu a x).cores = s.cores := rfl
@[simp] theorem State.setAgu_elems (s : State) (a : Nat) (x : Agu) : (s.setAgu a x).elems = s.elems := rfl
@[simp] theorem State.setAgu_tiles (s : State) (a : Nat) (x : Agu) : (s.setAgu a x).tiles = s.tiles := rfl
@[simp] theorem State.setAgu_regions (s : State) (a : Nat) (x : Agu) : (s.setAgu a x).regions = s.regions := rfl
@[simp] theorem State.setAgu_loads (s : State) (a : Nat) (x : Agu) : (s.setAgu a x).loads = s.loads := rfl
@[simp] theorem State.setAgu_launches (s : State) (a : Nat) (x : Agu) : (s.setAgu a x).launches = s.launches := rfl
@[simp] theorem State.setAgu_queues (s : State) (a : Nat) (x : Agu) : (s.setAgu a x).queues = s.queues := rfl
@[simp] theorem State.setAgu_ctxs (s : State) (a : Nat) (x : Agu) : (s.setAgu a x).ctxs = s.ctxs := rfl
@[simp] theorem State.setAgu_shadows (s : State) (a : Nat) (x : Agu) : (s.setAgu a x).shadows = s.shadows := rfl
@[simp] theorem State.setAgu_phases (s : State) (a : Nat) (x : Agu) : (s.setAgu a x).phases = s.phases := rfl
@[simp] theorem State.setAgu_copies (s : State) (a : Nat) (x : Agu) : (s.setAgu a x).copies = s.copies := rfl
@[simp] theorem State.setAgu_migrs (s : State) (a : Nat) (x : Agu) : (s.setAgu a x).migrs = s.migrs := rfl
@[simp] theorem State.setAgu_cold (s : State) (a : Nat) (x : Agu) : (s.setAgu a x).cold = s.cold := rfl
@[simp] theorem State.setAgu_nmus (s : State) (a : Nat) (x : Agu) : (s.setAgu a x).nmus = s.nmus := rfl
@[simp] theorem State.setAgu_kstacks (s : State) (a : Nat) (x : Agu) : (s.setAgu a x).kstacks = s.kstacks := rfl
@[simp] theorem State.setAgu_fstores (s : State) (a : Nat) (x : Agu) : (s.setAgu a x).fstores = s.fstores := rfl
@[simp] theorem State.setAgu_mem (s : State) (a : Nat) (x : Agu) : (s.setAgu a x).mem = s.mem := rfl
@[simp] theorem State.setAgu_resid (s : State) (a : Nat) (x : Agu) : (s.setAgu a x).resid = s.resid := rfl
@[simp] theorem State.setAgu_lags (s : State) (a : Nat) (x : Agu) : (s.setAgu a x).lags = s.lags := rfl
@[simp] theorem State.setAgu_late (s : State) (a : Nat) (x : Agu) : (s.setAgu a x).late = s.late := rfl
@[simp] theorem State.setAgu_gone (s : State) (a : Nat) (x : Agu) : (s.setAgu a x).gone = s.gone := rfl
@[simp] theorem State.setAgu_fed (s : State) (a : Nat) (x : Agu) : (s.setAgu a x).fed = s.fed := rfl
@[simp] theorem State.setAgu_tlb (s : State) (a : Nat) (x : Agu) : (s.setAgu a x).tlb = s.tlb := rfl
@[simp] theorem State.setAgu_own (s : State) (a : Nat) (x : Agu) : (s.setAgu a x).own = s.own := rfl
@[simp] theorem State.setAgu_otctx (s : State) (a : Nat) (x : Agu) : (s.setAgu a x).otctx = s.otctx := rfl
@[simp] theorem State.setAgu_nextseq (s : State) (a : Nat) (x : Agu) : (s.setAgu a x).nextseq = s.nextseq := rfl
@[simp] theorem State.setAgu_windows (s : State) (a : Nat) (x : Agu) : (s.setAgu a x).windows = s.windows := rfl
@[simp] theorem State.setAgu_exch (s : State) (a : Nat) (x : Agu) : (s.setAgu a x).exch = s.exch := rfl
@[simp] theorem State.setAgu_perf (s : State) (a : Nat) (x : Agu) : (s.setAgu a x).perf = s.perf := rfl
@[simp] theorem State.setAgu_serrcnt (s : State) (a : Nat) (x : Agu) : (s.setAgu a x).serrcnt = s.serrcnt := rfl
@[simp] theorem State.setAgu_serradr (s : State) (a : Nat) (x : Agu) : (s.setAgu a x).serradr = s.serradr := rfl
@[simp] theorem State.setAgu_snapseq (s : State) (a : Nat) (x : Agu) : (s.setAgu a x).snapseq = s.snapseq := rfl
@[simp] theorem State.setAgu_snappend (s : State) (a : Nat) (x : Agu) : (s.setAgu a x).snappend = s.snappend := rfl
@[simp] theorem State.setAgu_snapat (s : State) (a : Nat) (x : Agu) : (s.setAgu a x).snapat = s.snapat := rfl
@[simp] theorem State.setAgu_snapreg (s : State) (a : Nat) (x : Agu) : (s.setAgu a x).snapreg = s.snapreg := rfl
@[simp] theorem State.setAgu_gcyc (s : State) (a : Nat) (x : Agu) : (s.setAgu a x).gcyc = s.gcyc := rfl
@[simp] theorem State.setAgu_irqs (s : State) (a : Nat) (x : Agu) : (s.setAgu a x).irqs = s.irqs := rfl
@[simp] theorem State.setAgu_hostIn (s : State) (a : Nat) (x : Agu) : (s.setAgu a x).hostIn = s.hostIn := rfl
@[simp] theorem State.setAgu_pkg (s : State) (a : Nat) (x : Agu) : (s.setAgu a x).pkg = s.pkg := rfl

/-! ### setNmu -/

@[simp] theorem State.setNmu_agenda (s : State) (u : Nat) (x : Nmu) : (s.setNmu u x).agenda = s.agenda := rfl
@[simp] theorem State.setNmu_tick (s : State) (u : Nat) (x : Nmu) : (s.setNmu u x).tick = s.tick := rfl
@[simp] theorem State.setNmu_cur (s : State) (u : Nat) (x : Nmu) : (s.setNmu u x).cur = s.cur := rfl
@[simp] theorem State.setNmu_unit (s : State) (u : Nat) (x : Nmu) : (s.setNmu u x).unit = s.unit := rfl
@[simp] theorem State.setNmu_ir (s : State) (u : Nat) (x : Nmu) : (s.setNmu u x).ir = s.ir := rfl
@[simp] theorem State.setNmu_serial (s : State) (u : Nat) (x : Nmu) : (s.setNmu u x).serial = s.serial := rfl
@[simp] theorem State.setNmu_site (s : State) (u : Nat) (x : Nmu) : (s.setNmu u x).site = s.site := rfl
@[simp] theorem State.setNmu_cores (s : State) (u : Nat) (x : Nmu) : (s.setNmu u x).cores = s.cores := rfl
@[simp] theorem State.setNmu_elems (s : State) (u : Nat) (x : Nmu) : (s.setNmu u x).elems = s.elems := rfl
@[simp] theorem State.setNmu_tiles (s : State) (u : Nat) (x : Nmu) : (s.setNmu u x).tiles = s.tiles := rfl
@[simp] theorem State.setNmu_regions (s : State) (u : Nat) (x : Nmu) : (s.setNmu u x).regions = s.regions := rfl
@[simp] theorem State.setNmu_loads (s : State) (u : Nat) (x : Nmu) : (s.setNmu u x).loads = s.loads := rfl
@[simp] theorem State.setNmu_launches (s : State) (u : Nat) (x : Nmu) : (s.setNmu u x).launches = s.launches := rfl
@[simp] theorem State.setNmu_queues (s : State) (u : Nat) (x : Nmu) : (s.setNmu u x).queues = s.queues := rfl
@[simp] theorem State.setNmu_ctxs (s : State) (u : Nat) (x : Nmu) : (s.setNmu u x).ctxs = s.ctxs := rfl
@[simp] theorem State.setNmu_shadows (s : State) (u : Nat) (x : Nmu) : (s.setNmu u x).shadows = s.shadows := rfl
@[simp] theorem State.setNmu_phases (s : State) (u : Nat) (x : Nmu) : (s.setNmu u x).phases = s.phases := rfl
@[simp] theorem State.setNmu_copies (s : State) (u : Nat) (x : Nmu) : (s.setNmu u x).copies = s.copies := rfl
@[simp] theorem State.setNmu_agus (s : State) (u : Nat) (x : Nmu) : (s.setNmu u x).agus = s.agus := rfl
@[simp] theorem State.setNmu_migrs (s : State) (u : Nat) (x : Nmu) : (s.setNmu u x).migrs = s.migrs := rfl
@[simp] theorem State.setNmu_cold (s : State) (u : Nat) (x : Nmu) : (s.setNmu u x).cold = s.cold := rfl
@[simp] theorem State.setNmu_kstacks (s : State) (u : Nat) (x : Nmu) : (s.setNmu u x).kstacks = s.kstacks := rfl
@[simp] theorem State.setNmu_fstores (s : State) (u : Nat) (x : Nmu) : (s.setNmu u x).fstores = s.fstores := rfl
@[simp] theorem State.setNmu_mem (s : State) (u : Nat) (x : Nmu) : (s.setNmu u x).mem = s.mem := rfl
@[simp] theorem State.setNmu_resid (s : State) (u : Nat) (x : Nmu) : (s.setNmu u x).resid = s.resid := rfl
@[simp] theorem State.setNmu_lags (s : State) (u : Nat) (x : Nmu) : (s.setNmu u x).lags = s.lags := rfl
@[simp] theorem State.setNmu_late (s : State) (u : Nat) (x : Nmu) : (s.setNmu u x).late = s.late := rfl
@[simp] theorem State.setNmu_gone (s : State) (u : Nat) (x : Nmu) : (s.setNmu u x).gone = s.gone := rfl
@[simp] theorem State.setNmu_fed (s : State) (u : Nat) (x : Nmu) : (s.setNmu u x).fed = s.fed := rfl
@[simp] theorem State.setNmu_tlb (s : State) (u : Nat) (x : Nmu) : (s.setNmu u x).tlb = s.tlb := rfl
@[simp] theorem State.setNmu_own (s : State) (u : Nat) (x : Nmu) : (s.setNmu u x).own = s.own := rfl
@[simp] theorem State.setNmu_otctx (s : State) (u : Nat) (x : Nmu) : (s.setNmu u x).otctx = s.otctx := rfl
@[simp] theorem State.setNmu_nextseq (s : State) (u : Nat) (x : Nmu) : (s.setNmu u x).nextseq = s.nextseq := rfl
@[simp] theorem State.setNmu_windows (s : State) (u : Nat) (x : Nmu) : (s.setNmu u x).windows = s.windows := rfl
@[simp] theorem State.setNmu_exch (s : State) (u : Nat) (x : Nmu) : (s.setNmu u x).exch = s.exch := rfl
@[simp] theorem State.setNmu_perf (s : State) (u : Nat) (x : Nmu) : (s.setNmu u x).perf = s.perf := rfl
@[simp] theorem State.setNmu_serrcnt (s : State) (u : Nat) (x : Nmu) : (s.setNmu u x).serrcnt = s.serrcnt := rfl
@[simp] theorem State.setNmu_serradr (s : State) (u : Nat) (x : Nmu) : (s.setNmu u x).serradr = s.serradr := rfl
@[simp] theorem State.setNmu_snapseq (s : State) (u : Nat) (x : Nmu) : (s.setNmu u x).snapseq = s.snapseq := rfl
@[simp] theorem State.setNmu_snappend (s : State) (u : Nat) (x : Nmu) : (s.setNmu u x).snappend = s.snappend := rfl
@[simp] theorem State.setNmu_snapat (s : State) (u : Nat) (x : Nmu) : (s.setNmu u x).snapat = s.snapat := rfl
@[simp] theorem State.setNmu_snapreg (s : State) (u : Nat) (x : Nmu) : (s.setNmu u x).snapreg = s.snapreg := rfl
@[simp] theorem State.setNmu_gcyc (s : State) (u : Nat) (x : Nmu) : (s.setNmu u x).gcyc = s.gcyc := rfl
@[simp] theorem State.setNmu_irqs (s : State) (u : Nat) (x : Nmu) : (s.setNmu u x).irqs = s.irqs := rfl
@[simp] theorem State.setNmu_hostIn (s : State) (u : Nat) (x : Nmu) : (s.setNmu u x).hostIn = s.hostIn := rfl
@[simp] theorem State.setNmu_pkg (s : State) (u : Nat) (x : Nmu) : (s.setNmu u x).pkg = s.pkg := rfl

/-! ### setStack -/

@[simp] theorem State.setStack_agenda (s : State) (k : Nat) (x : StackCtl) : (s.setStack k x).agenda = s.agenda := rfl
@[simp] theorem State.setStack_tick (s : State) (k : Nat) (x : StackCtl) : (s.setStack k x).tick = s.tick := rfl
@[simp] theorem State.setStack_cur (s : State) (k : Nat) (x : StackCtl) : (s.setStack k x).cur = s.cur := rfl
@[simp] theorem State.setStack_unit (s : State) (k : Nat) (x : StackCtl) : (s.setStack k x).unit = s.unit := rfl
@[simp] theorem State.setStack_ir (s : State) (k : Nat) (x : StackCtl) : (s.setStack k x).ir = s.ir := rfl
@[simp] theorem State.setStack_serial (s : State) (k : Nat) (x : StackCtl) : (s.setStack k x).serial = s.serial := rfl
@[simp] theorem State.setStack_site (s : State) (k : Nat) (x : StackCtl) : (s.setStack k x).site = s.site := rfl
@[simp] theorem State.setStack_cores (s : State) (k : Nat) (x : StackCtl) : (s.setStack k x).cores = s.cores := rfl
@[simp] theorem State.setStack_elems (s : State) (k : Nat) (x : StackCtl) : (s.setStack k x).elems = s.elems := rfl
@[simp] theorem State.setStack_tiles (s : State) (k : Nat) (x : StackCtl) : (s.setStack k x).tiles = s.tiles := rfl
@[simp] theorem State.setStack_regions (s : State) (k : Nat) (x : StackCtl) : (s.setStack k x).regions = s.regions := rfl
@[simp] theorem State.setStack_loads (s : State) (k : Nat) (x : StackCtl) : (s.setStack k x).loads = s.loads := rfl
@[simp] theorem State.setStack_launches (s : State) (k : Nat) (x : StackCtl) : (s.setStack k x).launches = s.launches := rfl
@[simp] theorem State.setStack_queues (s : State) (k : Nat) (x : StackCtl) : (s.setStack k x).queues = s.queues := rfl
@[simp] theorem State.setStack_ctxs (s : State) (k : Nat) (x : StackCtl) : (s.setStack k x).ctxs = s.ctxs := rfl
@[simp] theorem State.setStack_shadows (s : State) (k : Nat) (x : StackCtl) : (s.setStack k x).shadows = s.shadows := rfl
@[simp] theorem State.setStack_phases (s : State) (k : Nat) (x : StackCtl) : (s.setStack k x).phases = s.phases := rfl
@[simp] theorem State.setStack_copies (s : State) (k : Nat) (x : StackCtl) : (s.setStack k x).copies = s.copies := rfl
@[simp] theorem State.setStack_agus (s : State) (k : Nat) (x : StackCtl) : (s.setStack k x).agus = s.agus := rfl
@[simp] theorem State.setStack_migrs (s : State) (k : Nat) (x : StackCtl) : (s.setStack k x).migrs = s.migrs := rfl
@[simp] theorem State.setStack_cold (s : State) (k : Nat) (x : StackCtl) : (s.setStack k x).cold = s.cold := rfl
@[simp] theorem State.setStack_nmus (s : State) (k : Nat) (x : StackCtl) : (s.setStack k x).nmus = s.nmus := rfl
@[simp] theorem State.setStack_fstores (s : State) (k : Nat) (x : StackCtl) : (s.setStack k x).fstores = s.fstores := rfl
@[simp] theorem State.setStack_mem (s : State) (k : Nat) (x : StackCtl) : (s.setStack k x).mem = s.mem := rfl
@[simp] theorem State.setStack_resid (s : State) (k : Nat) (x : StackCtl) : (s.setStack k x).resid = s.resid := rfl
@[simp] theorem State.setStack_lags (s : State) (k : Nat) (x : StackCtl) : (s.setStack k x).lags = s.lags := rfl
@[simp] theorem State.setStack_late (s : State) (k : Nat) (x : StackCtl) : (s.setStack k x).late = s.late := rfl
@[simp] theorem State.setStack_gone (s : State) (k : Nat) (x : StackCtl) : (s.setStack k x).gone = s.gone := rfl
@[simp] theorem State.setStack_fed (s : State) (k : Nat) (x : StackCtl) : (s.setStack k x).fed = s.fed := rfl
@[simp] theorem State.setStack_tlb (s : State) (k : Nat) (x : StackCtl) : (s.setStack k x).tlb = s.tlb := rfl
@[simp] theorem State.setStack_own (s : State) (k : Nat) (x : StackCtl) : (s.setStack k x).own = s.own := rfl
@[simp] theorem State.setStack_otctx (s : State) (k : Nat) (x : StackCtl) : (s.setStack k x).otctx = s.otctx := rfl
@[simp] theorem State.setStack_nextseq (s : State) (k : Nat) (x : StackCtl) : (s.setStack k x).nextseq = s.nextseq := rfl
@[simp] theorem State.setStack_windows (s : State) (k : Nat) (x : StackCtl) : (s.setStack k x).windows = s.windows := rfl
@[simp] theorem State.setStack_exch (s : State) (k : Nat) (x : StackCtl) : (s.setStack k x).exch = s.exch := rfl
@[simp] theorem State.setStack_perf (s : State) (k : Nat) (x : StackCtl) : (s.setStack k x).perf = s.perf := rfl
@[simp] theorem State.setStack_serrcnt (s : State) (k : Nat) (x : StackCtl) : (s.setStack k x).serrcnt = s.serrcnt := rfl
@[simp] theorem State.setStack_serradr (s : State) (k : Nat) (x : StackCtl) : (s.setStack k x).serradr = s.serradr := rfl
@[simp] theorem State.setStack_snapseq (s : State) (k : Nat) (x : StackCtl) : (s.setStack k x).snapseq = s.snapseq := rfl
@[simp] theorem State.setStack_snappend (s : State) (k : Nat) (x : StackCtl) : (s.setStack k x).snappend = s.snappend := rfl
@[simp] theorem State.setStack_snapat (s : State) (k : Nat) (x : StackCtl) : (s.setStack k x).snapat = s.snapat := rfl
@[simp] theorem State.setStack_snapreg (s : State) (k : Nat) (x : StackCtl) : (s.setStack k x).snapreg = s.snapreg := rfl
@[simp] theorem State.setStack_gcyc (s : State) (k : Nat) (x : StackCtl) : (s.setStack k x).gcyc = s.gcyc := rfl
@[simp] theorem State.setStack_irqs (s : State) (k : Nat) (x : StackCtl) : (s.setStack k x).irqs = s.irqs := rfl
@[simp] theorem State.setStack_hostIn (s : State) (k : Nat) (x : StackCtl) : (s.setStack k x).hostIn = s.hostIn := rfl
@[simp] theorem State.setStack_pkg (s : State) (k : Nat) (x : StackCtl) : (s.setStack k x).pkg = s.pkg := rfl

/-! ### setFstore -/

@[simp] theorem State.setFstore_agenda (s : State) (f : Nat) (x : FStore) : (s.setFstore f x).agenda = s.agenda := rfl
@[simp] theorem State.setFstore_tick (s : State) (f : Nat) (x : FStore) : (s.setFstore f x).tick = s.tick := rfl
@[simp] theorem State.setFstore_cur (s : State) (f : Nat) (x : FStore) : (s.setFstore f x).cur = s.cur := rfl
@[simp] theorem State.setFstore_unit (s : State) (f : Nat) (x : FStore) : (s.setFstore f x).unit = s.unit := rfl
@[simp] theorem State.setFstore_ir (s : State) (f : Nat) (x : FStore) : (s.setFstore f x).ir = s.ir := rfl
@[simp] theorem State.setFstore_serial (s : State) (f : Nat) (x : FStore) : (s.setFstore f x).serial = s.serial := rfl
@[simp] theorem State.setFstore_site (s : State) (f : Nat) (x : FStore) : (s.setFstore f x).site = s.site := rfl
@[simp] theorem State.setFstore_cores (s : State) (f : Nat) (x : FStore) : (s.setFstore f x).cores = s.cores := rfl
@[simp] theorem State.setFstore_elems (s : State) (f : Nat) (x : FStore) : (s.setFstore f x).elems = s.elems := rfl
@[simp] theorem State.setFstore_tiles (s : State) (f : Nat) (x : FStore) : (s.setFstore f x).tiles = s.tiles := rfl
@[simp] theorem State.setFstore_regions (s : State) (f : Nat) (x : FStore) : (s.setFstore f x).regions = s.regions := rfl
@[simp] theorem State.setFstore_loads (s : State) (f : Nat) (x : FStore) : (s.setFstore f x).loads = s.loads := rfl
@[simp] theorem State.setFstore_launches (s : State) (f : Nat) (x : FStore) : (s.setFstore f x).launches = s.launches := rfl
@[simp] theorem State.setFstore_queues (s : State) (f : Nat) (x : FStore) : (s.setFstore f x).queues = s.queues := rfl
@[simp] theorem State.setFstore_ctxs (s : State) (f : Nat) (x : FStore) : (s.setFstore f x).ctxs = s.ctxs := rfl
@[simp] theorem State.setFstore_shadows (s : State) (f : Nat) (x : FStore) : (s.setFstore f x).shadows = s.shadows := rfl
@[simp] theorem State.setFstore_phases (s : State) (f : Nat) (x : FStore) : (s.setFstore f x).phases = s.phases := rfl
@[simp] theorem State.setFstore_copies (s : State) (f : Nat) (x : FStore) : (s.setFstore f x).copies = s.copies := rfl
@[simp] theorem State.setFstore_agus (s : State) (f : Nat) (x : FStore) : (s.setFstore f x).agus = s.agus := rfl
@[simp] theorem State.setFstore_migrs (s : State) (f : Nat) (x : FStore) : (s.setFstore f x).migrs = s.migrs := rfl
@[simp] theorem State.setFstore_cold (s : State) (f : Nat) (x : FStore) : (s.setFstore f x).cold = s.cold := rfl
@[simp] theorem State.setFstore_nmus (s : State) (f : Nat) (x : FStore) : (s.setFstore f x).nmus = s.nmus := rfl
@[simp] theorem State.setFstore_kstacks (s : State) (f : Nat) (x : FStore) : (s.setFstore f x).kstacks = s.kstacks := rfl
@[simp] theorem State.setFstore_mem (s : State) (f : Nat) (x : FStore) : (s.setFstore f x).mem = s.mem := rfl
@[simp] theorem State.setFstore_resid (s : State) (f : Nat) (x : FStore) : (s.setFstore f x).resid = s.resid := rfl
@[simp] theorem State.setFstore_lags (s : State) (f : Nat) (x : FStore) : (s.setFstore f x).lags = s.lags := rfl
@[simp] theorem State.setFstore_late (s : State) (f : Nat) (x : FStore) : (s.setFstore f x).late = s.late := rfl
@[simp] theorem State.setFstore_gone (s : State) (f : Nat) (x : FStore) : (s.setFstore f x).gone = s.gone := rfl
@[simp] theorem State.setFstore_fed (s : State) (f : Nat) (x : FStore) : (s.setFstore f x).fed = s.fed := rfl
@[simp] theorem State.setFstore_tlb (s : State) (f : Nat) (x : FStore) : (s.setFstore f x).tlb = s.tlb := rfl
@[simp] theorem State.setFstore_own (s : State) (f : Nat) (x : FStore) : (s.setFstore f x).own = s.own := rfl
@[simp] theorem State.setFstore_otctx (s : State) (f : Nat) (x : FStore) : (s.setFstore f x).otctx = s.otctx := rfl
@[simp] theorem State.setFstore_nextseq (s : State) (f : Nat) (x : FStore) : (s.setFstore f x).nextseq = s.nextseq := rfl
@[simp] theorem State.setFstore_windows (s : State) (f : Nat) (x : FStore) : (s.setFstore f x).windows = s.windows := rfl
@[simp] theorem State.setFstore_exch (s : State) (f : Nat) (x : FStore) : (s.setFstore f x).exch = s.exch := rfl
@[simp] theorem State.setFstore_perf (s : State) (f : Nat) (x : FStore) : (s.setFstore f x).perf = s.perf := rfl
@[simp] theorem State.setFstore_serrcnt (s : State) (f : Nat) (x : FStore) : (s.setFstore f x).serrcnt = s.serrcnt := rfl
@[simp] theorem State.setFstore_serradr (s : State) (f : Nat) (x : FStore) : (s.setFstore f x).serradr = s.serradr := rfl
@[simp] theorem State.setFstore_snapseq (s : State) (f : Nat) (x : FStore) : (s.setFstore f x).snapseq = s.snapseq := rfl
@[simp] theorem State.setFstore_snappend (s : State) (f : Nat) (x : FStore) : (s.setFstore f x).snappend = s.snappend := rfl
@[simp] theorem State.setFstore_snapat (s : State) (f : Nat) (x : FStore) : (s.setFstore f x).snapat = s.snapat := rfl
@[simp] theorem State.setFstore_snapreg (s : State) (f : Nat) (x : FStore) : (s.setFstore f x).snapreg = s.snapreg := rfl
@[simp] theorem State.setFstore_gcyc (s : State) (f : Nat) (x : FStore) : (s.setFstore f x).gcyc = s.gcyc := rfl
@[simp] theorem State.setFstore_irqs (s : State) (f : Nat) (x : FStore) : (s.setFstore f x).irqs = s.irqs := rfl
@[simp] theorem State.setFstore_hostIn (s : State) (f : Nat) (x : FStore) : (s.setFstore f x).hostIn = s.hostIn := rfl
@[simp] theorem State.setFstore_pkg (s : State) (f : Nat) (x : FStore) : (s.setFstore f x).pkg = s.pkg := rfl

/-! ### setCopy -/

@[simp] theorem State.setCopy_agenda (s : State) (i : Nat) (x : Option Copy) : (s.setCopy i x).agenda = s.agenda := rfl
@[simp] theorem State.setCopy_tick (s : State) (i : Nat) (x : Option Copy) : (s.setCopy i x).tick = s.tick := rfl
@[simp] theorem State.setCopy_cur (s : State) (i : Nat) (x : Option Copy) : (s.setCopy i x).cur = s.cur := rfl
@[simp] theorem State.setCopy_unit (s : State) (i : Nat) (x : Option Copy) : (s.setCopy i x).unit = s.unit := rfl
@[simp] theorem State.setCopy_ir (s : State) (i : Nat) (x : Option Copy) : (s.setCopy i x).ir = s.ir := rfl
@[simp] theorem State.setCopy_serial (s : State) (i : Nat) (x : Option Copy) : (s.setCopy i x).serial = s.serial := rfl
@[simp] theorem State.setCopy_site (s : State) (i : Nat) (x : Option Copy) : (s.setCopy i x).site = s.site := rfl
@[simp] theorem State.setCopy_cores (s : State) (i : Nat) (x : Option Copy) : (s.setCopy i x).cores = s.cores := rfl
@[simp] theorem State.setCopy_elems (s : State) (i : Nat) (x : Option Copy) : (s.setCopy i x).elems = s.elems := rfl
@[simp] theorem State.setCopy_tiles (s : State) (i : Nat) (x : Option Copy) : (s.setCopy i x).tiles = s.tiles := rfl
@[simp] theorem State.setCopy_regions (s : State) (i : Nat) (x : Option Copy) : (s.setCopy i x).regions = s.regions := rfl
@[simp] theorem State.setCopy_loads (s : State) (i : Nat) (x : Option Copy) : (s.setCopy i x).loads = s.loads := rfl
@[simp] theorem State.setCopy_launches (s : State) (i : Nat) (x : Option Copy) : (s.setCopy i x).launches = s.launches := rfl
@[simp] theorem State.setCopy_queues (s : State) (i : Nat) (x : Option Copy) : (s.setCopy i x).queues = s.queues := rfl
@[simp] theorem State.setCopy_ctxs (s : State) (i : Nat) (x : Option Copy) : (s.setCopy i x).ctxs = s.ctxs := rfl
@[simp] theorem State.setCopy_shadows (s : State) (i : Nat) (x : Option Copy) : (s.setCopy i x).shadows = s.shadows := rfl
@[simp] theorem State.setCopy_phases (s : State) (i : Nat) (x : Option Copy) : (s.setCopy i x).phases = s.phases := rfl
@[simp] theorem State.setCopy_agus (s : State) (i : Nat) (x : Option Copy) : (s.setCopy i x).agus = s.agus := rfl
@[simp] theorem State.setCopy_migrs (s : State) (i : Nat) (x : Option Copy) : (s.setCopy i x).migrs = s.migrs := rfl
@[simp] theorem State.setCopy_cold (s : State) (i : Nat) (x : Option Copy) : (s.setCopy i x).cold = s.cold := rfl
@[simp] theorem State.setCopy_nmus (s : State) (i : Nat) (x : Option Copy) : (s.setCopy i x).nmus = s.nmus := rfl
@[simp] theorem State.setCopy_kstacks (s : State) (i : Nat) (x : Option Copy) : (s.setCopy i x).kstacks = s.kstacks := rfl
@[simp] theorem State.setCopy_fstores (s : State) (i : Nat) (x : Option Copy) : (s.setCopy i x).fstores = s.fstores := rfl
@[simp] theorem State.setCopy_mem (s : State) (i : Nat) (x : Option Copy) : (s.setCopy i x).mem = s.mem := rfl
@[simp] theorem State.setCopy_resid (s : State) (i : Nat) (x : Option Copy) : (s.setCopy i x).resid = s.resid := rfl
@[simp] theorem State.setCopy_lags (s : State) (i : Nat) (x : Option Copy) : (s.setCopy i x).lags = s.lags := rfl
@[simp] theorem State.setCopy_late (s : State) (i : Nat) (x : Option Copy) : (s.setCopy i x).late = s.late := rfl
@[simp] theorem State.setCopy_gone (s : State) (i : Nat) (x : Option Copy) : (s.setCopy i x).gone = s.gone := rfl
@[simp] theorem State.setCopy_fed (s : State) (i : Nat) (x : Option Copy) : (s.setCopy i x).fed = s.fed := rfl
@[simp] theorem State.setCopy_tlb (s : State) (i : Nat) (x : Option Copy) : (s.setCopy i x).tlb = s.tlb := rfl
@[simp] theorem State.setCopy_own (s : State) (i : Nat) (x : Option Copy) : (s.setCopy i x).own = s.own := rfl
@[simp] theorem State.setCopy_otctx (s : State) (i : Nat) (x : Option Copy) : (s.setCopy i x).otctx = s.otctx := rfl
@[simp] theorem State.setCopy_nextseq (s : State) (i : Nat) (x : Option Copy) : (s.setCopy i x).nextseq = s.nextseq := rfl
@[simp] theorem State.setCopy_windows (s : State) (i : Nat) (x : Option Copy) : (s.setCopy i x).windows = s.windows := rfl
@[simp] theorem State.setCopy_exch (s : State) (i : Nat) (x : Option Copy) : (s.setCopy i x).exch = s.exch := rfl
@[simp] theorem State.setCopy_perf (s : State) (i : Nat) (x : Option Copy) : (s.setCopy i x).perf = s.perf := rfl
@[simp] theorem State.setCopy_serrcnt (s : State) (i : Nat) (x : Option Copy) : (s.setCopy i x).serrcnt = s.serrcnt := rfl
@[simp] theorem State.setCopy_serradr (s : State) (i : Nat) (x : Option Copy) : (s.setCopy i x).serradr = s.serradr := rfl
@[simp] theorem State.setCopy_snapseq (s : State) (i : Nat) (x : Option Copy) : (s.setCopy i x).snapseq = s.snapseq := rfl
@[simp] theorem State.setCopy_snappend (s : State) (i : Nat) (x : Option Copy) : (s.setCopy i x).snappend = s.snappend := rfl
@[simp] theorem State.setCopy_snapat (s : State) (i : Nat) (x : Option Copy) : (s.setCopy i x).snapat = s.snapat := rfl
@[simp] theorem State.setCopy_snapreg (s : State) (i : Nat) (x : Option Copy) : (s.setCopy i x).snapreg = s.snapreg := rfl
@[simp] theorem State.setCopy_gcyc (s : State) (i : Nat) (x : Option Copy) : (s.setCopy i x).gcyc = s.gcyc := rfl
@[simp] theorem State.setCopy_irqs (s : State) (i : Nat) (x : Option Copy) : (s.setCopy i x).irqs = s.irqs := rfl
@[simp] theorem State.setCopy_hostIn (s : State) (i : Nat) (x : Option Copy) : (s.setCopy i x).hostIn = s.hostIn := rfl
@[simp] theorem State.setCopy_pkg (s : State) (i : Nat) (x : Option Copy) : (s.setCopy i x).pkg = s.pkg := rfl

/-! ### setMe -/

@[simp] theorem State.setMe_agenda (s : State) (c : Core) : (s.setMe c).agenda = s.agenda := rfl
@[simp] theorem State.setMe_tick (s : State) (c : Core) : (s.setMe c).tick = s.tick := rfl
@[simp] theorem State.setMe_cur (s : State) (c : Core) : (s.setMe c).cur = s.cur := rfl
@[simp] theorem State.setMe_unit (s : State) (c : Core) : (s.setMe c).unit = s.unit := rfl
@[simp] theorem State.setMe_ir (s : State) (c : Core) : (s.setMe c).ir = s.ir := rfl
@[simp] theorem State.setMe_serial (s : State) (c : Core) : (s.setMe c).serial = s.serial := rfl
@[simp] theorem State.setMe_site (s : State) (c : Core) : (s.setMe c).site = s.site := rfl
@[simp] theorem State.setMe_elems (s : State) (c : Core) : (s.setMe c).elems = s.elems := rfl
@[simp] theorem State.setMe_tiles (s : State) (c : Core) : (s.setMe c).tiles = s.tiles := rfl
@[simp] theorem State.setMe_regions (s : State) (c : Core) : (s.setMe c).regions = s.regions := rfl
@[simp] theorem State.setMe_loads (s : State) (c : Core) : (s.setMe c).loads = s.loads := rfl
@[simp] theorem State.setMe_launches (s : State) (c : Core) : (s.setMe c).launches = s.launches := rfl
@[simp] theorem State.setMe_queues (s : State) (c : Core) : (s.setMe c).queues = s.queues := rfl
@[simp] theorem State.setMe_ctxs (s : State) (c : Core) : (s.setMe c).ctxs = s.ctxs := rfl
@[simp] theorem State.setMe_shadows (s : State) (c : Core) : (s.setMe c).shadows = s.shadows := rfl
@[simp] theorem State.setMe_phases (s : State) (c : Core) : (s.setMe c).phases = s.phases := rfl
@[simp] theorem State.setMe_copies (s : State) (c : Core) : (s.setMe c).copies = s.copies := rfl
@[simp] theorem State.setMe_agus (s : State) (c : Core) : (s.setMe c).agus = s.agus := rfl
@[simp] theorem State.setMe_migrs (s : State) (c : Core) : (s.setMe c).migrs = s.migrs := rfl
@[simp] theorem State.setMe_cold (s : State) (c : Core) : (s.setMe c).cold = s.cold := rfl
@[simp] theorem State.setMe_nmus (s : State) (c : Core) : (s.setMe c).nmus = s.nmus := rfl
@[simp] theorem State.setMe_kstacks (s : State) (c : Core) : (s.setMe c).kstacks = s.kstacks := rfl
@[simp] theorem State.setMe_fstores (s : State) (c : Core) : (s.setMe c).fstores = s.fstores := rfl
@[simp] theorem State.setMe_mem (s : State) (c : Core) : (s.setMe c).mem = s.mem := rfl
@[simp] theorem State.setMe_resid (s : State) (c : Core) : (s.setMe c).resid = s.resid := rfl
@[simp] theorem State.setMe_lags (s : State) (c : Core) : (s.setMe c).lags = s.lags := rfl
@[simp] theorem State.setMe_late (s : State) (c : Core) : (s.setMe c).late = s.late := rfl
@[simp] theorem State.setMe_gone (s : State) (c : Core) : (s.setMe c).gone = s.gone := rfl
@[simp] theorem State.setMe_fed (s : State) (c : Core) : (s.setMe c).fed = s.fed := rfl
@[simp] theorem State.setMe_tlb (s : State) (c : Core) : (s.setMe c).tlb = s.tlb := rfl
@[simp] theorem State.setMe_own (s : State) (c : Core) : (s.setMe c).own = s.own := rfl
@[simp] theorem State.setMe_otctx (s : State) (c : Core) : (s.setMe c).otctx = s.otctx := rfl
@[simp] theorem State.setMe_nextseq (s : State) (c : Core) : (s.setMe c).nextseq = s.nextseq := rfl
@[simp] theorem State.setMe_windows (s : State) (c : Core) : (s.setMe c).windows = s.windows := rfl
@[simp] theorem State.setMe_exch (s : State) (c : Core) : (s.setMe c).exch = s.exch := rfl
@[simp] theorem State.setMe_perf (s : State) (c : Core) : (s.setMe c).perf = s.perf := rfl
@[simp] theorem State.setMe_serrcnt (s : State) (c : Core) : (s.setMe c).serrcnt = s.serrcnt := rfl
@[simp] theorem State.setMe_serradr (s : State) (c : Core) : (s.setMe c).serradr = s.serradr := rfl
@[simp] theorem State.setMe_snapseq (s : State) (c : Core) : (s.setMe c).snapseq = s.snapseq := rfl
@[simp] theorem State.setMe_snappend (s : State) (c : Core) : (s.setMe c).snappend = s.snappend := rfl
@[simp] theorem State.setMe_snapat (s : State) (c : Core) : (s.setMe c).snapat = s.snapat := rfl
@[simp] theorem State.setMe_snapreg (s : State) (c : Core) : (s.setMe c).snapreg = s.snapreg := rfl
@[simp] theorem State.setMe_gcyc (s : State) (c : Core) : (s.setMe c).gcyc = s.gcyc := rfl
@[simp] theorem State.setMe_irqs (s : State) (c : Core) : (s.setMe c).irqs = s.irqs := rfl
@[simp] theorem State.setMe_hostIn (s : State) (c : Core) : (s.setMe c).hostIn = s.hostIn := rfl
@[simp] theorem State.setMe_pkg (s : State) (c : Core) : (s.setMe c).pkg = s.pkg := rfl

/-! ### count -/

@[simp] theorem State.count_agenda (s : State) (k n : Nat) : (s.count k n).agenda = s.agenda := rfl
@[simp] theorem State.count_tick (s : State) (k n : Nat) : (s.count k n).tick = s.tick := rfl
@[simp] theorem State.count_cur (s : State) (k n : Nat) : (s.count k n).cur = s.cur := rfl
@[simp] theorem State.count_unit (s : State) (k n : Nat) : (s.count k n).unit = s.unit := rfl
@[simp] theorem State.count_ir (s : State) (k n : Nat) : (s.count k n).ir = s.ir := rfl
@[simp] theorem State.count_serial (s : State) (k n : Nat) : (s.count k n).serial = s.serial := rfl
@[simp] theorem State.count_site (s : State) (k n : Nat) : (s.count k n).site = s.site := rfl
@[simp] theorem State.count_cores (s : State) (k n : Nat) : (s.count k n).cores = s.cores := rfl
@[simp] theorem State.count_elems (s : State) (k n : Nat) : (s.count k n).elems = s.elems := rfl
@[simp] theorem State.count_tiles (s : State) (k n : Nat) : (s.count k n).tiles = s.tiles := rfl
@[simp] theorem State.count_regions (s : State) (k n : Nat) : (s.count k n).regions = s.regions := rfl
@[simp] theorem State.count_loads (s : State) (k n : Nat) : (s.count k n).loads = s.loads := rfl
@[simp] theorem State.count_launches (s : State) (k n : Nat) : (s.count k n).launches = s.launches := rfl
@[simp] theorem State.count_queues (s : State) (k n : Nat) : (s.count k n).queues = s.queues := rfl
@[simp] theorem State.count_ctxs (s : State) (k n : Nat) : (s.count k n).ctxs = s.ctxs := rfl
@[simp] theorem State.count_shadows (s : State) (k n : Nat) : (s.count k n).shadows = s.shadows := rfl
@[simp] theorem State.count_phases (s : State) (k n : Nat) : (s.count k n).phases = s.phases := rfl
@[simp] theorem State.count_copies (s : State) (k n : Nat) : (s.count k n).copies = s.copies := rfl
@[simp] theorem State.count_agus (s : State) (k n : Nat) : (s.count k n).agus = s.agus := rfl
@[simp] theorem State.count_migrs (s : State) (k n : Nat) : (s.count k n).migrs = s.migrs := rfl
@[simp] theorem State.count_cold (s : State) (k n : Nat) : (s.count k n).cold = s.cold := rfl
@[simp] theorem State.count_nmus (s : State) (k n : Nat) : (s.count k n).nmus = s.nmus := rfl
@[simp] theorem State.count_kstacks (s : State) (k n : Nat) : (s.count k n).kstacks = s.kstacks := rfl
@[simp] theorem State.count_fstores (s : State) (k n : Nat) : (s.count k n).fstores = s.fstores := rfl
@[simp] theorem State.count_mem (s : State) (k n : Nat) : (s.count k n).mem = s.mem := rfl
@[simp] theorem State.count_resid (s : State) (k n : Nat) : (s.count k n).resid = s.resid := rfl
@[simp] theorem State.count_lags (s : State) (k n : Nat) : (s.count k n).lags = s.lags := rfl
@[simp] theorem State.count_late (s : State) (k n : Nat) : (s.count k n).late = s.late := rfl
@[simp] theorem State.count_gone (s : State) (k n : Nat) : (s.count k n).gone = s.gone := rfl
@[simp] theorem State.count_fed (s : State) (k n : Nat) : (s.count k n).fed = s.fed := rfl
@[simp] theorem State.count_tlb (s : State) (k n : Nat) : (s.count k n).tlb = s.tlb := rfl
@[simp] theorem State.count_own (s : State) (k n : Nat) : (s.count k n).own = s.own := rfl
@[simp] theorem State.count_otctx (s : State) (k n : Nat) : (s.count k n).otctx = s.otctx := rfl
@[simp] theorem State.count_nextseq (s : State) (k n : Nat) : (s.count k n).nextseq = s.nextseq := rfl
@[simp] theorem State.count_windows (s : State) (k n : Nat) : (s.count k n).windows = s.windows := rfl
@[simp] theorem State.count_exch (s : State) (k n : Nat) : (s.count k n).exch = s.exch := rfl
@[simp] theorem State.count_serrcnt (s : State) (k n : Nat) : (s.count k n).serrcnt = s.serrcnt := rfl
@[simp] theorem State.count_serradr (s : State) (k n : Nat) : (s.count k n).serradr = s.serradr := rfl
@[simp] theorem State.count_snapseq (s : State) (k n : Nat) : (s.count k n).snapseq = s.snapseq := rfl
@[simp] theorem State.count_snappend (s : State) (k n : Nat) : (s.count k n).snappend = s.snappend := rfl
@[simp] theorem State.count_snapat (s : State) (k n : Nat) : (s.count k n).snapat = s.snapat := rfl
@[simp] theorem State.count_snapreg (s : State) (k n : Nat) : (s.count k n).snapreg = s.snapreg := rfl
@[simp] theorem State.count_gcyc (s : State) (k n : Nat) : (s.count k n).gcyc = s.gcyc := rfl
@[simp] theorem State.count_irqs (s : State) (k n : Nat) : (s.count k n).irqs = s.irqs := rfl
@[simp] theorem State.count_hostIn (s : State) (k n : Nat) : (s.count k n).hostIn = s.hostIn := rfl
@[simp] theorem State.count_pkg (s : State) (k n : Nat) : (s.count k n).pkg = s.pkg := rfl

/-! ### writeMem -/

@[simp] theorem State.writeMem_agenda (s : State) (as : List Nat) (bs : List Byte) : (s.writeMem as bs).agenda = s.agenda := rfl
@[simp] theorem State.writeMem_tick (s : State) (as : List Nat) (bs : List Byte) : (s.writeMem as bs).tick = s.tick := rfl
@[simp] theorem State.writeMem_cur (s : State) (as : List Nat) (bs : List Byte) : (s.writeMem as bs).cur = s.cur := rfl
@[simp] theorem State.writeMem_unit (s : State) (as : List Nat) (bs : List Byte) : (s.writeMem as bs).unit = s.unit := rfl
@[simp] theorem State.writeMem_ir (s : State) (as : List Nat) (bs : List Byte) : (s.writeMem as bs).ir = s.ir := rfl
@[simp] theorem State.writeMem_serial (s : State) (as : List Nat) (bs : List Byte) : (s.writeMem as bs).serial = s.serial := rfl
@[simp] theorem State.writeMem_site (s : State) (as : List Nat) (bs : List Byte) : (s.writeMem as bs).site = s.site := rfl
@[simp] theorem State.writeMem_cores (s : State) (as : List Nat) (bs : List Byte) : (s.writeMem as bs).cores = s.cores := rfl
@[simp] theorem State.writeMem_elems (s : State) (as : List Nat) (bs : List Byte) : (s.writeMem as bs).elems = s.elems := rfl
@[simp] theorem State.writeMem_tiles (s : State) (as : List Nat) (bs : List Byte) : (s.writeMem as bs).tiles = s.tiles := rfl
@[simp] theorem State.writeMem_regions (s : State) (as : List Nat) (bs : List Byte) : (s.writeMem as bs).regions = s.regions := rfl
@[simp] theorem State.writeMem_loads (s : State) (as : List Nat) (bs : List Byte) : (s.writeMem as bs).loads = s.loads := rfl
@[simp] theorem State.writeMem_launches (s : State) (as : List Nat) (bs : List Byte) : (s.writeMem as bs).launches = s.launches := rfl
@[simp] theorem State.writeMem_queues (s : State) (as : List Nat) (bs : List Byte) : (s.writeMem as bs).queues = s.queues := rfl
@[simp] theorem State.writeMem_ctxs (s : State) (as : List Nat) (bs : List Byte) : (s.writeMem as bs).ctxs = s.ctxs := rfl
@[simp] theorem State.writeMem_shadows (s : State) (as : List Nat) (bs : List Byte) : (s.writeMem as bs).shadows = s.shadows := rfl
@[simp] theorem State.writeMem_phases (s : State) (as : List Nat) (bs : List Byte) : (s.writeMem as bs).phases = s.phases := rfl
@[simp] theorem State.writeMem_copies (s : State) (as : List Nat) (bs : List Byte) : (s.writeMem as bs).copies = s.copies := rfl
@[simp] theorem State.writeMem_agus (s : State) (as : List Nat) (bs : List Byte) : (s.writeMem as bs).agus = s.agus := rfl
@[simp] theorem State.writeMem_migrs (s : State) (as : List Nat) (bs : List Byte) : (s.writeMem as bs).migrs = s.migrs := rfl
@[simp] theorem State.writeMem_cold (s : State) (as : List Nat) (bs : List Byte) : (s.writeMem as bs).cold = s.cold := rfl
@[simp] theorem State.writeMem_nmus (s : State) (as : List Nat) (bs : List Byte) : (s.writeMem as bs).nmus = s.nmus := rfl
@[simp] theorem State.writeMem_kstacks (s : State) (as : List Nat) (bs : List Byte) : (s.writeMem as bs).kstacks = s.kstacks := rfl
@[simp] theorem State.writeMem_fstores (s : State) (as : List Nat) (bs : List Byte) : (s.writeMem as bs).fstores = s.fstores := rfl
@[simp] theorem State.writeMem_lags (s : State) (as : List Nat) (bs : List Byte) : (s.writeMem as bs).lags = s.lags := rfl
@[simp] theorem State.writeMem_late (s : State) (as : List Nat) (bs : List Byte) : (s.writeMem as bs).late = s.late := rfl
@[simp] theorem State.writeMem_gone (s : State) (as : List Nat) (bs : List Byte) : (s.writeMem as bs).gone = s.gone := rfl
@[simp] theorem State.writeMem_fed (s : State) (as : List Nat) (bs : List Byte) : (s.writeMem as bs).fed = s.fed := rfl
@[simp] theorem State.writeMem_tlb (s : State) (as : List Nat) (bs : List Byte) : (s.writeMem as bs).tlb = s.tlb := rfl
@[simp] theorem State.writeMem_own (s : State) (as : List Nat) (bs : List Byte) : (s.writeMem as bs).own = s.own := rfl
@[simp] theorem State.writeMem_otctx (s : State) (as : List Nat) (bs : List Byte) : (s.writeMem as bs).otctx = s.otctx := rfl
@[simp] theorem State.writeMem_nextseq (s : State) (as : List Nat) (bs : List Byte) : (s.writeMem as bs).nextseq = s.nextseq := rfl
@[simp] theorem State.writeMem_windows (s : State) (as : List Nat) (bs : List Byte) : (s.writeMem as bs).windows = s.windows := rfl
@[simp] theorem State.writeMem_exch (s : State) (as : List Nat) (bs : List Byte) : (s.writeMem as bs).exch = s.exch := rfl
@[simp] theorem State.writeMem_perf (s : State) (as : List Nat) (bs : List Byte) : (s.writeMem as bs).perf = s.perf := rfl
@[simp] theorem State.writeMem_serrcnt (s : State) (as : List Nat) (bs : List Byte) : (s.writeMem as bs).serrcnt = s.serrcnt := rfl
@[simp] theorem State.writeMem_serradr (s : State) (as : List Nat) (bs : List Byte) : (s.writeMem as bs).serradr = s.serradr := rfl
@[simp] theorem State.writeMem_snapseq (s : State) (as : List Nat) (bs : List Byte) : (s.writeMem as bs).snapseq = s.snapseq := rfl
@[simp] theorem State.writeMem_snappend (s : State) (as : List Nat) (bs : List Byte) : (s.writeMem as bs).snappend = s.snappend := rfl
@[simp] theorem State.writeMem_snapat (s : State) (as : List Nat) (bs : List Byte) : (s.writeMem as bs).snapat = s.snapat := rfl
@[simp] theorem State.writeMem_snapreg (s : State) (as : List Nat) (bs : List Byte) : (s.writeMem as bs).snapreg = s.snapreg := rfl
@[simp] theorem State.writeMem_gcyc (s : State) (as : List Nat) (bs : List Byte) : (s.writeMem as bs).gcyc = s.gcyc := rfl
@[simp] theorem State.writeMem_irqs (s : State) (as : List Nat) (bs : List Byte) : (s.writeMem as bs).irqs = s.irqs := rfl
@[simp] theorem State.writeMem_hostIn (s : State) (as : List Nat) (bs : List Byte) : (s.writeMem as bs).hostIn = s.hostIn := rfl
@[simp] theorem State.writeMem_pkg (s : State) (as : List Nat) (bs : List Byte) : (s.writeMem as bs).pkg = s.pkg := rfl

end Sys2Proof.Machine
end

