-- ==== Sys2Proof/Laws/Access.lean ====
section
/-! SUPPORT. Reading an item after an update: the item itself after its own update, every other item as before. -/

namespace Sys2Proof.Machine

/-! ### setCore -/

@[simp] theorem State.core_setCore_same (s : State) (n : Nat) (c : Core) : (s.setCore n c).core n = c := SMap.get_set_same _ _ _ _
theorem State.core_setCore_ne (s : State) {n j : Nat} (c : Core) (h : j ≠ n) : (s.setCore n c).core j = s.core j :=
  SMap.get_set_ne _ _ _ _ h
theorem State.core_setCore (s : State) (n j : Nat) (c : Core) : (s.setCore n c).core j = if j = n then c else s.core j :=
  SMap.get_set _ _ _ _ _
@[simp] theorem State.elem_setCore (s : State) (n j : Nat) (c : Core) : (s.setCore n c).elem j = s.elem j := rfl
@[simp] theorem State.tile_setCore (s : State) (n j : Nat) (c : Core) : (s.setCore n c).tile j = s.tile j := rfl
@[simp] theorem State.region_setCore (s : State) (n j : Nat) (c : Core) : (s.setCore n c).region j = s.region j := rfl
@[simp] theorem State.load_setCore (s : State) (n j : Nat) (c : Core) : (s.setCore n c).load j = s.load j := rfl
@[simp] theorem State.launch_setCore (s : State) (n j : Nat) (c : Core) : (s.setCore n c).launch j = s.launch j := rfl
@[simp] theorem State.queue_setCore (s : State) (n j : Nat) (c : Core) : (s.setCore n c).queue j = s.queue j := rfl
@[simp] theorem State.ctx_setCore (s : State) (n j : Nat) (c : Core) : (s.setCore n c).ctx j = s.ctx j := rfl
@[simp] theorem State.phase_setCore (s : State) (n j : Nat) (c : Core) : (s.setCore n c).phase j = s.phase j := rfl
@[simp] theorem State.agu_setCore (s : State) (n j : Nat) (c : Core) : (s.setCore n c).agu j = s.agu j := rfl
@[simp] theorem State.nmu_setCore (s : State) (n j : Nat) (c : Core) : (s.setCore n c).nmu j = s.nmu j := rfl
@[simp] theorem State.stack_setCore (s : State) (n j : Nat) (c : Core) : (s.setCore n c).stack j = s.stack j := rfl
@[simp] theorem State.fstore_setCore (s : State) (n j : Nat) (c : Core) : (s.setCore n c).fstore j = s.fstore j := rfl
@[simp] theorem State.copy_setCore (s : State) (n j : Nat) (c : Core) : (s.setCore n c).copy j = s.copy j := rfl
@[simp] theorem State.readCell_setCore (s : State) (n b : Nat) (c : Core) : (s.setCore n c).readCell b = s.readCell b := rfl

/-! ### setElem -/

@[simp] theorem State.elem_setElem_same (s : State) (e : Nat) (x : Elem) : (s.setElem e x).elem e = x := SMap.get_set_same _ _ _ _
theorem State.elem_setElem_ne (s : State) {e j : Nat} (x : Elem) (h : j ≠ e) : (s.setElem e x).elem j = s.elem j :=
  SMap.get_set_ne _ _ _ _ h
theorem State.elem_setElem (s : State) (e j : Nat) (x : Elem) : (s.setElem e x).elem j = if j = e then x else s.elem j :=
  SMap.get_set _ _ _ _ _
@[simp] theorem State.core_setElem (s : State) (e j : Nat) (x : Elem) : (s.setElem e x).core j = s.core j := rfl
@[simp] theorem State.tile_setElem (s : State) (e j : Nat) (x : Elem) : (s.setElem e x).tile j = s.tile j := rfl
@[simp] theorem State.region_setElem (s : State) (e j : Nat) (x : Elem) : (s.setElem e x).region j = s.region j := rfl
@[simp] theorem State.load_setElem (s : State) (e j : Nat) (x : Elem) : (s.setElem e x).load j = s.load j := rfl
@[simp] theorem State.launch_setElem (s : State) (e j : Nat) (x : Elem) : (s.setElem e x).launch j = s.launch j := rfl
@[simp] theorem State.queue_setElem (s : State) (e j : Nat) (x : Elem) : (s.setElem e x).queue j = s.queue j := rfl
@[simp] theorem State.ctx_setElem (s : State) (e j : Nat) (x : Elem) : (s.setElem e x).ctx j = s.ctx j := rfl
@[simp] theorem State.phase_setElem (s : State) (e j : Nat) (x : Elem) : (s.setElem e x).phase j = s.phase j := rfl
@[simp] theorem State.agu_setElem (s : State) (e j : Nat) (x : Elem) : (s.setElem e x).agu j = s.agu j := rfl
@[simp] theorem State.nmu_setElem (s : State) (e j : Nat) (x : Elem) : (s.setElem e x).nmu j = s.nmu j := rfl
@[simp] theorem State.stack_setElem (s : State) (e j : Nat) (x : Elem) : (s.setElem e x).stack j = s.stack j := rfl
@[simp] theorem State.fstore_setElem (s : State) (e j : Nat) (x : Elem) : (s.setElem e x).fstore j = s.fstore j := rfl
@[simp] theorem State.copy_setElem (s : State) (e j : Nat) (x : Elem) : (s.setElem e x).copy j = s.copy j := rfl
@[simp] theorem State.me_setElem (s : State) (e : Nat) (x : Elem) : (s.setElem e x).me = s.me := rfl
@[simp] theorem State.readCell_setElem (s : State) (e b : Nat) (x : Elem) : (s.setElem e x).readCell b = s.readCell b := rfl

/-! ### setTile -/

@[simp] theorem State.tile_setTile_same (s : State) (t : Nat) (x : Tile) : (s.setTile t x).tile t = x := SMap.get_set_same _ _ _ _
theorem State.tile_setTile_ne (s : State) {t j : Nat} (x : Tile) (h : j ≠ t) : (s.setTile t x).tile j = s.tile j :=
  SMap.get_set_ne _ _ _ _ h
theorem State.tile_setTile (s : State) (t j : Nat) (x : Tile) : (s.setTile t x).tile j = if j = t then x else s.tile j :=
  SMap.get_set _ _ _ _ _
@[simp] theorem State.core_setTile (s : State) (t j : Nat) (x : Tile) : (s.setTile t x).core j = s.core j := rfl
@[simp] theorem State.elem_setTile (s : State) (t j : Nat) (x : Tile) : (s.setTile t x).elem j = s.elem j := rfl
@[simp] theorem State.region_setTile (s : State) (t j : Nat) (x : Tile) : (s.setTile t x).region j = s.region j := rfl
@[simp] theorem State.load_setTile (s : State) (t j : Nat) (x : Tile) : (s.setTile t x).load j = s.load j := rfl
@[simp] theorem State.launch_setTile (s : State) (t j : Nat) (x : Tile) : (s.setTile t x).launch j = s.launch j := rfl
@[simp] theorem State.queue_setTile (s : State) (t j : Nat) (x : Tile) : (s.setTile t x).queue j = s.queue j := rfl
@[simp] theorem State.ctx_setTile (s : State) (t j : Nat) (x : Tile) : (s.setTile t x).ctx j = s.ctx j := rfl
@[simp] theorem State.phase_setTile (s : State) (t j : Nat) (x : Tile) : (s.setTile t x).phase j = s.phase j := rfl
@[simp] theorem State.agu_setTile (s : State) (t j : Nat) (x : Tile) : (s.setTile t x).agu j = s.agu j := rfl
@[simp] theorem State.nmu_setTile (s : State) (t j : Nat) (x : Tile) : (s.setTile t x).nmu j = s.nmu j := rfl
@[simp] theorem State.stack_setTile (s : State) (t j : Nat) (x : Tile) : (s.setTile t x).stack j = s.stack j := rfl
@[simp] theorem State.fstore_setTile (s : State) (t j : Nat) (x : Tile) : (s.setTile t x).fstore j = s.fstore j := rfl
@[simp] theorem State.copy_setTile (s : State) (t j : Nat) (x : Tile) : (s.setTile t x).copy j = s.copy j := rfl
@[simp] theorem State.me_setTile (s : State) (t : Nat) (x : Tile) : (s.setTile t x).me = s.me := rfl
@[simp] theorem State.readCell_setTile (s : State) (t b : Nat) (x : Tile) : (s.setTile t x).readCell b = s.readCell b := rfl

/-! ### setRegion -/

@[simp] theorem State.region_setRegion_same (s : State) (g : Nat) (r : Region) : (s.setRegion g r).region g = r := SMap.get_set_same _ _ _ _
theorem State.region_setRegion_ne (s : State) {g j : Nat} (r : Region) (h : j ≠ g) : (s.setRegion g r).region j = s.region j :=
  SMap.get_set_ne _ _ _ _ h
theorem State.region_setRegion (s : State) (g j : Nat) (r : Region) : (s.setRegion g r).region j = if j = g then r else s.region j :=
  SMap.get_set _ _ _ _ _
@[simp] theorem State.core_setRegion (s : State) (g j : Nat) (r : Region) : (s.setRegion g r).core j = s.core j := rfl
@[simp] theorem State.elem_setRegion (s : State) (g j : Nat) (r : Region) : (s.setRegion g r).elem j = s.elem j := rfl
@[simp] theorem State.tile_setRegion (s : State) (g j : Nat) (r : Region) : (s.setRegion g r).tile j = s.tile j := rfl
@[simp] theorem State.load_setRegion (s : State) (g j : Nat) (r : Region) : (s.setRegion g r).load j = s.load j := rfl
@[simp] theorem State.launch_setRegion (s : State) (g j : Nat) (r : Region) : (s.setRegion g r).launch j = s.launch j := rfl
@[simp] theorem State.queue_setRegion (s : State) (g j : Nat) (r : Region) : (s.setRegion g r).queue j = s.queue j := rfl
@[simp] theorem State.ctx_setRegion (s : State) (g j : Nat) (r : Region) : (s.setRegion g r).ctx j = s.ctx j := rfl
@[simp] theorem State.phase_setRegion (s : State) (g j : Nat) (r : Region) : (s.setRegion g r).phase j = s.phase j := rfl
@[simp] theorem State.agu_setRegion (s : State) (g j : Nat) (r : Region) : (s.setRegion g r).agu j = s.agu j := rfl
@[simp] theorem State.nmu_setRegion (s : State) (g j : Nat) (r : Region) : (s.setRegion g r).nmu j = s.nmu j := rfl
@[simp] theorem State.stack_setRegion (s : State) (g j : Nat) (r : Region) : (s.setRegion g r).stack j = s.stack j := rfl
@[simp] theorem State.fstore_setRegion (s : State) (g j : Nat) (r : Region) : (s.setRegion g r).fstore j = s.fstore j := rfl
@[simp] theorem State.copy_setRegion (s : State) (g j : Nat) (r : Region) : (s.setRegion g r).copy j = s.copy j := rfl
@[simp] theorem State.me_setRegion (s : State) (g : Nat) (r : Region) : (s.setRegion g r).me = s.me := rfl
@[simp] theorem State.readCell_setRegion (s : State) (g b : Nat) (r : Region) : (s.setRegion g r).readCell b = s.readCell b := rfl

/-! ### setLoad -/

@[simp] theorem State.load_setLoad_same (s : State) (l : Nat) (x : Load) : (s.setLoad l x).load l = x := SMap.get_set_same _ _ _ _
theorem State.load_setLoad_ne (s : State) {l j : Nat} (x : Load) (h : j ≠ l) : (s.setLoad l x).load j = s.load j :=
  SMap.get_set_ne _ _ _ _ h
theorem State.load_setLoad (s : State) (l j : Nat) (x : Load) : (s.setLoad l x).load j = if j = l then x else s.load j :=
  SMap.get_set _ _ _ _ _
@[simp] theorem State.core_setLoad (s : State) (l j : Nat) (x : Load) : (s.setLoad l x).core j = s.core j := rfl
@[simp] theorem State.elem_setLoad (s : State) (l j : Nat) (x : Load) : (s.setLoad l x).elem j = s.elem j := rfl
@[simp] theorem State.tile_setLoad (s : State) (l j : Nat) (x : Load) : (s.setLoad l x).tile j = s.tile j := rfl
@[simp] theorem State.region_setLoad (s : State) (l j : Nat) (x : Load) : (s.setLoad l x).region j = s.region j := rfl
@[simp] theorem State.launch_setLoad (s : State) (l j : Nat) (x : Load) : (s.setLoad l x).launch j = s.launch j := rfl
@[simp] theorem State.queue_setLoad (s : State) (l j : Nat) (x : Load) : (s.setLoad l x).queue j = s.queue j := rfl
@[simp] theorem State.ctx_setLoad (s : State) (l j : Nat) (x : Load) : (s.setLoad l x).ctx j = s.ctx j := rfl
@[simp] theorem State.phase_setLoad (s : State) (l j : Nat) (x : Load) : (s.setLoad l x).phase j = s.phase j := rfl
@[simp] theorem State.agu_setLoad (s : State) (l j : Nat) (x : Load) : (s.setLoad l x).agu j = s.agu j := rfl
@[simp] theorem State.nmu_setLoad (s : State) (l j : Nat) (x : Load) : (s.setLoad l x).nmu j = s.nmu j := rfl
@[simp] theorem State.stack_setLoad (s : State) (l j : Nat) (x : Load) : (s.setLoad l x).stack j = s.stack j := rfl
@[simp] theorem State.fstore_setLoad (s : State) (l j : Nat) (x : Load) : (s.setLoad l x).fstore j = s.fstore j := rfl
@[simp] theorem State.copy_setLoad (s : State) (l j : Nat) (x : Load) : (s.setLoad l x).copy j = s.copy j := rfl
@[simp] theorem State.me_setLoad (s : State) (l : Nat) (x : Load) : (s.setLoad l x).me = s.me := rfl
@[simp] theorem State.readCell_setLoad (s : State) (l b : Nat) (x : Load) : (s.setLoad l x).readCell b = s.readCell b := rfl

/-! ### setLaunch -/

@[simp] theorem State.launch_setLaunch_same (s : State) (l : Nat) (x : Launch) : (s.setLaunch l x).launch l = x := SMap.get_set_same _ _ _ _
theorem State.launch_setLaunch_ne (s : State) {l j : Nat} (x : Launch) (h : j ≠ l) : (s.setLaunch l x).launch j = s.launch j :=
  SMap.get_set_ne _ _ _ _ h
theorem State.launch_setLaunch (s : State) (l j : Nat) (x : Launch) : (s.setLaunch l x).launch j = if j = l then x else s.launch j :=
  SMap.get_set _ _ _ _ _
@[simp] theorem State.core_setLaunch (s : State) (l j : Nat) (x : Launch) : (s.setLaunch l x).core j = s.core j := rfl
@[simp] theorem State.elem_setLaunch (s : State) (l j : Nat) (x : Launch) : (s.setLaunch l x).elem j = s.elem j := rfl
@[simp] theorem State.tile_setLaunch (s : State) (l j : Nat) (x : Launch) : (s.setLaunch l x).tile j = s.tile j := rfl
@[simp] theorem State.region_setLaunch (s : State) (l j : Nat) (x : Launch) : (s.setLaunch l x).region j = s.region j := rfl
@[simp] theorem State.load_setLaunch (s : State) (l j : Nat) (x : Launch) : (s.setLaunch l x).load j = s.load j := rfl
@[simp] theorem State.queue_setLaunch (s : State) (l j : Nat) (x : Launch) : (s.setLaunch l x).queue j = s.queue j := rfl
@[simp] theorem State.ctx_setLaunch (s : State) (l j : Nat) (x : Launch) : (s.setLaunch l x).ctx j = s.ctx j := rfl
@[simp] theorem State.phase_setLaunch (s : State) (l j : Nat) (x : Launch) : (s.setLaunch l x).phase j = s.phase j := rfl
@[simp] theorem State.agu_setLaunch (s : State) (l j : Nat) (x : Launch) : (s.setLaunch l x).agu j = s.agu j := rfl
@[simp] theorem State.nmu_setLaunch (s : State) (l j : Nat) (x : Launch) : (s.setLaunch l x).nmu j = s.nmu j := rfl
@[simp] theorem State.stack_setLaunch (s : State) (l j : Nat) (x : Launch) : (s.setLaunch l x).stack j = s.stack j := rfl
@[simp] theorem State.fstore_setLaunch (s : State) (l j : Nat) (x : Launch) : (s.setLaunch l x).fstore j = s.fstore j := rfl
@[simp] theorem State.copy_setLaunch (s : State) (l j : Nat) (x : Launch) : (s.setLaunch l x).copy j = s.copy j := rfl
@[simp] theorem State.me_setLaunch (s : State) (l : Nat) (x : Launch) : (s.setLaunch l x).me = s.me := rfl
@[simp] theorem State.readCell_setLaunch (s : State) (l b : Nat) (x : Launch) : (s.setLaunch l x).readCell b = s.readCell b := rfl

/-! ### setQueue -/

@[simp] theorem State.queue_setQueue_same (s : State) (q : Nat) (x : Queue) : (s.setQueue q x).queue q = x := SMap.get_set_same _ _ _ _
theorem State.queue_setQueue_ne (s : State) {q j : Nat} (x : Queue) (h : j ≠ q) : (s.setQueue q x).queue j = s.queue j :=
  SMap.get_set_ne _ _ _ _ h
theorem State.queue_setQueue (s : State) (q j : Nat) (x : Queue) : (s.setQueue q x).queue j = if j = q then x else s.queue j :=
  SMap.get_set _ _ _ _ _
@[simp] theorem State.core_setQueue (s : State) (q j : Nat) (x : Queue) : (s.setQueue q x).core j = s.core j := rfl
@[simp] theorem State.elem_setQueue (s : State) (q j : Nat) (x : Queue) : (s.setQueue q x).elem j = s.elem j := rfl
@[simp] theorem State.tile_setQueue (s : State) (q j : Nat) (x : Queue) : (s.setQueue q x).tile j = s.tile j := rfl
@[simp] theorem State.region_setQueue (s : State) (q j : Nat) (x : Queue) : (s.setQueue q x).region j = s.region j := rfl
@[simp] theorem State.load_setQueue (s : State) (q j : Nat) (x : Queue) : (s.setQueue q x).load j = s.load j := rfl
@[simp] theorem State.launch_setQueue (s : State) (q j : Nat) (x : Queue) : (s.setQueue q x).launch j = s.launch j := rfl
@[simp] theorem State.ctx_setQueue (s : State) (q j : Nat) (x : Queue) : (s.setQueue q x).ctx j = s.ctx j := rfl
@[simp] theorem State.phase_setQueue (s : State) (q j : Nat) (x : Queue) : (s.setQueue q x).phase j = s.phase j := rfl
@[simp] theorem State.agu_setQueue (s : State) (q j : Nat) (x : Queue) : (s.setQueue q x).agu j = s.agu j := rfl
@[simp] theorem State.nmu_setQueue (s : State) (q j : Nat) (x : Queue) : (s.setQueue q x).nmu j = s.nmu j := rfl
@[simp] theorem State.stack_setQueue (s : State) (q j : Nat) (x : Queue) : (s.setQueue q x).stack j = s.stack j := rfl
@[simp] theorem State.fstore_setQueue (s : State) (q j : Nat) (x : Queue) : (s.setQueue q x).fstore j = s.fstore j := rfl
@[simp] theorem State.copy_setQueue (s : State) (q j : Nat) (x : Queue) : (s.setQueue q x).copy j = s.copy j := rfl
@[simp] theorem State.me_setQueue (s : State) (q : Nat) (x : Queue) : (s.setQueue q x).me = s.me := rfl
@[simp] theorem State.readCell_setQueue (s : State) (q b : Nat) (x : Queue) : (s.setQueue q x).readCell b = s.readCell b := rfl

/-! ### setCtx -/

@[simp] theorem State.ctx_setCtx_same (s : State) (c : Nat) (x : Ctx) : (s.setCtx c x).ctx c = x := SMap.get_set_same _ _ _ _
theorem State.ctx_setCtx_ne (s : State) {c j : Nat} (x : Ctx) (h : j ≠ c) : (s.setCtx c x).ctx j = s.ctx j :=
  SMap.get_set_ne _ _ _ _ h
theorem State.ctx_setCtx (s : State) (c j : Nat) (x : Ctx) : (s.setCtx c x).ctx j = if j = c then x else s.ctx j :=
  SMap.get_set _ _ _ _ _
@[simp] theorem State.core_setCtx (s : State) (c j : Nat) (x : Ctx) : (s.setCtx c x).core j = s.core j := rfl
@[simp] theorem State.elem_setCtx (s : State) (c j : Nat) (x : Ctx) : (s.setCtx c x).elem j = s.elem j := rfl
@[simp] theorem State.tile_setCtx (s : State) (c j : Nat) (x : Ctx) : (s.setCtx c x).tile j = s.tile j := rfl
@[simp] theorem State.region_setCtx (s : State) (c j : Nat) (x : Ctx) : (s.setCtx c x).region j = s.region j := rfl
@[simp] theorem State.load_setCtx (s : State) (c j : Nat) (x : Ctx) : (s.setCtx c x).load j = s.load j := rfl
@[simp] theorem State.launch_setCtx (s : State) (c j : Nat) (x : Ctx) : (s.setCtx c x).launch j = s.launch j := rfl
@[simp] theorem State.queue_setCtx (s : State) (c j : Nat) (x : Ctx) : (s.setCtx c x).queue j = s.queue j := rfl
@[simp] theorem State.phase_setCtx (s : State) (c j : Nat) (x : Ctx) : (s.setCtx c x).phase j = s.phase j := rfl
@[simp] theorem State.agu_setCtx (s : State) (c j : Nat) (x : Ctx) : (s.setCtx c x).agu j = s.agu j := rfl
@[simp] theorem State.nmu_setCtx (s : State) (c j : Nat) (x : Ctx) : (s.setCtx c x).nmu j = s.nmu j := rfl
@[simp] theorem State.stack_setCtx (s : State) (c j : Nat) (x : Ctx) : (s.setCtx c x).stack j = s.stack j := rfl
@[simp] theorem State.fstore_setCtx (s : State) (c j : Nat) (x : Ctx) : (s.setCtx c x).fstore j = s.fstore j := rfl
@[simp] theorem State.copy_setCtx (s : State) (c j : Nat) (x : Ctx) : (s.setCtx c x).copy j = s.copy j := rfl
@[simp] theorem State.me_setCtx (s : State) (c : Nat) (x : Ctx) : (s.setCtx c x).me = s.me := rfl
@[simp] theorem State.readCell_setCtx (s : State) (c b : Nat) (x : Ctx) : (s.setCtx c x).readCell b = s.readCell b := rfl

/-! ### setPhase -/

@[simp] theorem State.phase_setPhase_same (s : State) (n : Nat) (x : Phase) : (s.setPhase n x).phase n = x := SMap.get_set_same _ _ _ _
theorem State.phase_setPhase_ne (s : State) {n j : Nat} (x : Phase) (h : j ≠ n) : (s.setPhase n x).phase j = s.phase j :=
  SMap.get_set_ne _ _ _ _ h
theorem State.phase_setPhase (s : State) (n j : Nat) (x : Phase) : (s.setPhase n x).phase j = if j = n then x else s.phase j :=
  SMap.get_set _ _ _ _ _
@[simp] theorem State.core_setPhase (s : State) (n j : Nat) (x : Phase) : (s.setPhase n x).core j = s.core j := rfl
@[simp] theorem State.elem_setPhase (s : State) (n j : Nat) (x : Phase) : (s.setPhase n x).elem j = s.elem j := rfl
@[simp] theorem State.tile_setPhase (s : State) (n j : Nat) (x : Phase) : (s.setPhase n x).tile j = s.tile j := rfl
@[simp] theorem State.region_setPhase (s : State) (n j : Nat) (x : Phase) : (s.setPhase n x).region j = s.region j := rfl
@[simp] theorem State.load_setPhase (s : State) (n j : Nat) (x : Phase) : (s.setPhase n x).load j = s.load j := rfl
@[simp] theorem State.launch_setPhase (s : State) (n j : Nat) (x : Phase) : (s.setPhase n x).launch j = s.launch j := rfl
@[simp] theorem State.queue_setPhase (s : State) (n j : Nat) (x : Phase) : (s.setPhase n x).queue j = s.queue j := rfl
@[simp] theorem State.ctx_setPhase (s : State) (n j : Nat) (x : Phase) : (s.setPhase n x).ctx j = s.ctx j := rfl
@[simp] theorem State.agu_setPhase (s : State) (n j : Nat) (x : Phase) : (s.setPhase n x).agu j = s.agu j := rfl
@[simp] theorem State.nmu_setPhase (s : State) (n j : Nat) (x : Phase) : (s.setPhase n x).nmu j = s.nmu j := rfl
@[simp] theorem State.stack_setPhase (s : State) (n j : Nat) (x : Phase) : (s.setPhase n x).stack j = s.stack j := rfl
@[simp] theorem State.fstore_setPhase (s : State) (n j : Nat) (x : Phase) : (s.setPhase n x).fstore j = s.fstore j := rfl
@[simp] theorem State.copy_setPhase (s : State) (n j : Nat) (x : Phase) : (s.setPhase n x).copy j = s.copy j := rfl
@[simp] theorem State.me_setPhase (s : State) (n : Nat) (x : Phase) : (s.setPhase n x).me = s.me := rfl
@[simp] theorem State.readCell_setPhase (s : State) (n b : Nat) (x : Phase) : (s.setPhase n x).readCell b = s.readCell b := rfl

/-! ### setAgu -/

@[simp] theorem State.agu_setAgu_same (s : State) (a : Nat) (x : Agu) : (s.setAgu a x).agu a = x := SMap.get_set_same _ _ _ _
theorem State.agu_setAgu_ne (s : State) {a j : Nat} (x : Agu) (h : j ≠ a) : (s.setAgu a x).agu j = s.agu j :=
  SMap.get_set_ne _ _ _ _ h
theorem State.agu_setAgu (s : State) (a j : Nat) (x : Agu) : (s.setAgu a x).agu j = if j = a then x else s.agu j :=
  SMap.get_set _ _ _ _ _
@[simp] theorem State.core_setAgu (s : State) (a j : Nat) (x : Agu) : (s.setAgu a x).core j = s.core j := rfl
@[simp] theorem State.elem_setAgu (s : State) (a j : Nat) (x : Agu) : (s.setAgu a x).elem j = s.elem j := rfl
@[simp] theorem State.tile_setAgu (s : State) (a j : Nat) (x : Agu) : (s.setAgu a x).tile j = s.tile j := rfl
@[simp] theorem State.region_setAgu (s : State) (a j : Nat) (x : Agu) : (s.setAgu a x).region j = s.region j := rfl
@[simp] theorem State.load_setAgu (s : State) (a j : Nat) (x : Agu) : (s.setAgu a x).load j = s.load j := rfl
@[simp] theorem State.launch_setAgu (s : State) (a j : Nat) (x : Agu) : (s.setAgu a x).launch j = s.launch j := rfl
@[simp] theorem State.queue_setAgu (s : State) (a j : Nat) (x : Agu) : (s.setAgu a x).queue j = s.queue j := rfl
@[simp] theorem State.ctx_setAgu (s : State) (a j : Nat) (x : Agu) : (s.setAgu a x).ctx j = s.ctx j := rfl
@[simp] theorem State.phase_setAgu (s : State) (a j : Nat) (x : Agu) : (s.setAgu a x).phase j = s.phase j := rfl
@[simp] theorem State.nmu_setAgu (s : State) (a j : Nat) (x : Agu) : (s.setAgu a x).nmu j = s.nmu j := rfl
@[simp] theorem State.stack_setAgu (s : State) (a j : Nat) (x : Agu) : (s.setAgu a x).stack j = s.stack j := rfl
@[simp] theorem State.fstore_setAgu (s : State) (a j : Nat) (x : Agu) : (s.setAgu a x).fstore j = s.fstore j := rfl
@[simp] theorem State.copy_setAgu (s : State) (a j : Nat) (x : Agu) : (s.setAgu a x).copy j = s.copy j := rfl
@[simp] theorem State.me_setAgu (s : State) (a : Nat) (x : Agu) : (s.setAgu a x).me = s.me := rfl
@[simp] theorem State.readCell_setAgu (s : State) (a b : Nat) (x : Agu) : (s.setAgu a x).readCell b = s.readCell b := rfl

/-! ### setNmu -/

@[simp] theorem State.nmu_setNmu_same (s : State) (u : Nat) (x : Nmu) : (s.setNmu u x).nmu u = x := SMap.get_set_same _ _ _ _
theorem State.nmu_setNmu_ne (s : State) {u j : Nat} (x : Nmu) (h : j ≠ u) : (s.setNmu u x).nmu j = s.nmu j :=
  SMap.get_set_ne _ _ _ _ h
theorem State.nmu_setNmu (s : State) (u j : Nat) (x : Nmu) : (s.setNmu u x).nmu j = if j = u then x else s.nmu j :=
  SMap.get_set _ _ _ _ _
@[simp] theorem State.core_setNmu (s : State) (u j : Nat) (x : Nmu) : (s.setNmu u x).core j = s.core j := rfl
@[simp] theorem State.elem_setNmu (s : State) (u j : Nat) (x : Nmu) : (s.setNmu u x).elem j = s.elem j := rfl
@[simp] theorem State.tile_setNmu (s : State) (u j : Nat) (x : Nmu) : (s.setNmu u x).tile j = s.tile j := rfl
@[simp] theorem State.region_setNmu (s : State) (u j : Nat) (x : Nmu) : (s.setNmu u x).region j = s.region j := rfl
@[simp] theorem State.load_setNmu (s : State) (u j : Nat) (x : Nmu) : (s.setNmu u x).load j = s.load j := rfl
@[simp] theorem State.launch_setNmu (s : State) (u j : Nat) (x : Nmu) : (s.setNmu u x).launch j = s.launch j := rfl
@[simp] theorem State.queue_setNmu (s : State) (u j : Nat) (x : Nmu) : (s.setNmu u x).queue j = s.queue j := rfl
@[simp] theorem State.ctx_setNmu (s : State) (u j : Nat) (x : Nmu) : (s.setNmu u x).ctx j = s.ctx j := rfl
@[simp] theorem State.phase_setNmu (s : State) (u j : Nat) (x : Nmu) : (s.setNmu u x).phase j = s.phase j := rfl
@[simp] theorem State.agu_setNmu (s : State) (u j : Nat) (x : Nmu) : (s.setNmu u x).agu j = s.agu j := rfl
@[simp] theorem State.stack_setNmu (s : State) (u j : Nat) (x : Nmu) : (s.setNmu u x).stack j = s.stack j := rfl
@[simp] theorem State.fstore_setNmu (s : State) (u j : Nat) (x : Nmu) : (s.setNmu u x).fstore j = s.fstore j := rfl
@[simp] theorem State.copy_setNmu (s : State) (u j : Nat) (x : Nmu) : (s.setNmu u x).copy j = s.copy j := rfl
@[simp] theorem State.me_setNmu (s : State) (u : Nat) (x : Nmu) : (s.setNmu u x).me = s.me := rfl
@[simp] theorem State.readCell_setNmu (s : State) (u b : Nat) (x : Nmu) : (s.setNmu u x).readCell b = s.readCell b := rfl

/-! ### setStack -/

@[simp] theorem State.stack_setStack_same (s : State) (k : Nat) (x : StackCtl) : (s.setStack k x).stack k = x := SMap.get_set_same _ _ _ _
theorem State.stack_setStack_ne (s : State) {k j : Nat} (x : StackCtl) (h : j ≠ k) : (s.setStack k x).stack j = s.stack j :=
  SMap.get_set_ne _ _ _ _ h
theorem State.stack_setStack (s : State) (k j : Nat) (x : StackCtl) : (s.setStack k x).stack j = if j = k then x else s.stack j :=
  SMap.get_set _ _ _ _ _
@[simp] theorem State.core_setStack (s : State) (k j : Nat) (x : StackCtl) : (s.setStack k x).core j = s.core j := rfl
@[simp] theorem State.elem_setStack (s : State) (k j : Nat) (x : StackCtl) : (s.setStack k x).elem j = s.elem j := rfl
@[simp] theorem State.tile_setStack (s : State) (k j : Nat) (x : StackCtl) : (s.setStack k x).tile j = s.tile j := rfl
@[simp] theorem State.region_setStack (s : State) (k j : Nat) (x : StackCtl) : (s.setStack k x).region j = s.region j := rfl
@[simp] theorem State.load_setStack (s : State) (k j : Nat) (x : StackCtl) : (s.setStack k x).load j = s.load j := rfl
@[simp] theorem State.launch_setStack (s : State) (k j : Nat) (x : StackCtl) : (s.setStack k x).launch j = s.launch j := rfl
@[simp] theorem State.queue_setStack (s : State) (k j : Nat) (x : StackCtl) : (s.setStack k x).queue j = s.queue j := rfl
@[simp] theorem State.ctx_setStack (s : State) (k j : Nat) (x : StackCtl) : (s.setStack k x).ctx j = s.ctx j := rfl
@[simp] theorem State.phase_setStack (s : State) (k j : Nat) (x : StackCtl) : (s.setStack k x).phase j = s.phase j := rfl
@[simp] theorem State.agu_setStack (s : State) (k j : Nat) (x : StackCtl) : (s.setStack k x).agu j = s.agu j := rfl
@[simp] theorem State.nmu_setStack (s : State) (k j : Nat) (x : StackCtl) : (s.setStack k x).nmu j = s.nmu j := rfl
@[simp] theorem State.fstore_setStack (s : State) (k j : Nat) (x : StackCtl) : (s.setStack k x).fstore j = s.fstore j := rfl
@[simp] theorem State.copy_setStack (s : State) (k j : Nat) (x : StackCtl) : (s.setStack k x).copy j = s.copy j := rfl
@[simp] theorem State.me_setStack (s : State) (k : Nat) (x : StackCtl) : (s.setStack k x).me = s.me := rfl
@[simp] theorem State.readCell_setStack (s : State) (k b : Nat) (x : StackCtl) : (s.setStack k x).readCell b = s.readCell b := rfl

/-! ### setFstore -/

@[simp] theorem State.fstore_setFstore_same (s : State) (f : Nat) (x : FStore) : (s.setFstore f x).fstore f = x := SMap.get_set_same _ _ _ _
theorem State.fstore_setFstore_ne (s : State) {f j : Nat} (x : FStore) (h : j ≠ f) : (s.setFstore f x).fstore j = s.fstore j :=
  SMap.get_set_ne _ _ _ _ h
theorem State.fstore_setFstore (s : State) (f j : Nat) (x : FStore) : (s.setFstore f x).fstore j = if j = f then x else s.fstore j :=
  SMap.get_set _ _ _ _ _
@[simp] theorem State.core_setFstore (s : State) (f j : Nat) (x : FStore) : (s.setFstore f x).core j = s.core j := rfl
@[simp] theorem State.elem_setFstore (s : State) (f j : Nat) (x : FStore) : (s.setFstore f x).elem j = s.elem j := rfl
@[simp] theorem State.tile_setFstore (s : State) (f j : Nat) (x : FStore) : (s.setFstore f x).tile j = s.tile j := rfl
@[simp] theorem State.region_setFstore (s : State) (f j : Nat) (x : FStore) : (s.setFstore f x).region j = s.region j := rfl
@[simp] theorem State.load_setFstore (s : State) (f j : Nat) (x : FStore) : (s.setFstore f x).load j = s.load j := rfl
@[simp] theorem State.launch_setFstore (s : State) (f j : Nat) (x : FStore) : (s.setFstore f x).launch j = s.launch j := rfl
@[simp] theorem State.queue_setFstore (s : State) (f j : Nat) (x : FStore) : (s.setFstore f x).queue j = s.queue j := rfl
@[simp] theorem State.ctx_setFstore (s : State) (f j : Nat) (x : FStore) : (s.setFstore f x).ctx j = s.ctx j := rfl
@[simp] theorem State.phase_setFstore (s : State) (f j : Nat) (x : FStore) : (s.setFstore f x).phase j = s.phase j := rfl
@[simp] theorem State.agu_setFstore (s : State) (f j : Nat) (x : FStore) : (s.setFstore f x).agu j = s.agu j := rfl
@[simp] theorem State.nmu_setFstore (s : State) (f j : Nat) (x : FStore) : (s.setFstore f x).nmu j = s.nmu j := rfl
@[simp] theorem State.stack_setFstore (s : State) (f j : Nat) (x : FStore) : (s.setFstore f x).stack j = s.stack j := rfl
@[simp] theorem State.copy_setFstore (s : State) (f j : Nat) (x : FStore) : (s.setFstore f x).copy j = s.copy j := rfl
@[simp] theorem State.me_setFstore (s : State) (f : Nat) (x : FStore) : (s.setFstore f x).me = s.me := rfl
@[simp] theorem State.readCell_setFstore (s : State) (f b : Nat) (x : FStore) : (s.setFstore f x).readCell b = s.readCell b := rfl

/-! ### setCopy -/

@[simp] theorem State.copy_setCopy_same (s : State) (i : Nat) (x : Option Copy) : (s.setCopy i x).copy i = x := SMap.get_set_same _ _ _ _
theorem State.copy_setCopy_ne (s : State) {i j : Nat} (x : Option Copy) (h : j ≠ i) : (s.setCopy i x).copy j = s.copy j :=
  SMap.get_set_ne _ _ _ _ h
theorem State.copy_setCopy (s : State) (i j : Nat) (x : Option Copy) : (s.setCopy i x).copy j = if j = i then x else s.copy j :=
  SMap.get_set _ _ _ _ _
@[simp] theorem State.core_setCopy (s : State) (i j : Nat) (x : Option Copy) : (s.setCopy i x).core j = s.core j := rfl
@[simp] theorem State.elem_setCopy (s : State) (i j : Nat) (x : Option Copy) : (s.setCopy i x).elem j = s.elem j := rfl
@[simp] theorem State.tile_setCopy (s : State) (i j : Nat) (x : Option Copy) : (s.setCopy i x).tile j = s.tile j := rfl
@[simp] theorem State.region_setCopy (s : State) (i j : Nat) (x : Option Copy) : (s.setCopy i x).region j = s.region j := rfl
@[simp] theorem State.load_setCopy (s : State) (i j : Nat) (x : Option Copy) : (s.setCopy i x).load j = s.load j := rfl
@[simp] theorem State.launch_setCopy (s : State) (i j : Nat) (x : Option Copy) : (s.setCopy i x).launch j = s.launch j := rfl
@[simp] theorem State.queue_setCopy (s : State) (i j : Nat) (x : Option Copy) : (s.setCopy i x).queue j = s.queue j := rfl
@[simp] theorem State.ctx_setCopy (s : State) (i j : Nat) (x : Option Copy) : (s.setCopy i x).ctx j = s.ctx j := rfl
@[simp] theorem State.phase_setCopy (s : State) (i j : Nat) (x : Option Copy) : (s.setCopy i x).phase j = s.phase j := rfl
@[simp] theorem State.agu_setCopy (s : State) (i j : Nat) (x : Option Copy) : (s.setCopy i x).agu j = s.agu j := rfl
@[simp] theorem State.nmu_setCopy (s : State) (i j : Nat) (x : Option Copy) : (s.setCopy i x).nmu j = s.nmu j := rfl
@[simp] theorem State.stack_setCopy (s : State) (i j : Nat) (x : Option Copy) : (s.setCopy i x).stack j = s.stack j := rfl
@[simp] theorem State.fstore_setCopy (s : State) (i j : Nat) (x : Option Copy) : (s.setCopy i x).fstore j = s.fstore j := rfl
@[simp] theorem State.me_setCopy (s : State) (i : Nat) (x : Option Copy) : (s.setCopy i x).me = s.me := rfl
@[simp] theorem State.readCell_setCopy (s : State) (i b : Nat) (x : Option Copy) : (s.setCopy i x).readCell b = s.readCell b := rfl

/-! ### setMe -/

@[simp] theorem State.elem_setMe (s : State) (c : Core) (j : Nat) : (s.setMe c).elem j = s.elem j := rfl
@[simp] theorem State.tile_setMe (s : State) (c : Core) (j : Nat) : (s.setMe c).tile j = s.tile j := rfl
@[simp] theorem State.region_setMe (s : State) (c : Core) (j : Nat) : (s.setMe c).region j = s.region j := rfl
@[simp] theorem State.load_setMe (s : State) (c : Core) (j : Nat) : (s.setMe c).load j = s.load j := rfl
@[simp] theorem State.launch_setMe (s : State) (c : Core) (j : Nat) : (s.setMe c).launch j = s.launch j := rfl
@[simp] theorem State.queue_setMe (s : State) (c : Core) (j : Nat) : (s.setMe c).queue j = s.queue j := rfl
@[simp] theorem State.ctx_setMe (s : State) (c : Core) (j : Nat) : (s.setMe c).ctx j = s.ctx j := rfl
@[simp] theorem State.phase_setMe (s : State) (c : Core) (j : Nat) : (s.setMe c).phase j = s.phase j := rfl
@[simp] theorem State.agu_setMe (s : State) (c : Core) (j : Nat) : (s.setMe c).agu j = s.agu j := rfl
@[simp] theorem State.nmu_setMe (s : State) (c : Core) (j : Nat) : (s.setMe c).nmu j = s.nmu j := rfl
@[simp] theorem State.stack_setMe (s : State) (c : Core) (j : Nat) : (s.setMe c).stack j = s.stack j := rfl
@[simp] theorem State.fstore_setMe (s : State) (c : Core) (j : Nat) : (s.setMe c).fstore j = s.fstore j := rfl
@[simp] theorem State.copy_setMe (s : State) (c : Core) (j : Nat) : (s.setMe c).copy j = s.copy j := rfl
@[simp] theorem State.readCell_setMe (s : State) (c : Core) (a : Nat) : (s.setMe c).readCell a = s.readCell a := rfl

/-! ### count -/

@[simp] theorem State.core_count (s : State) (k n : Nat) (j : Nat) : (s.count k n).core j = s.core j := rfl
@[simp] theorem State.elem_count (s : State) (k n : Nat) (j : Nat) : (s.count k n).elem j = s.elem j := rfl
@[simp] theorem State.tile_count (s : State) (k n : Nat) (j : Nat) : (s.count k n).tile j = s.tile j := rfl
@[simp] theorem State.region_count (s : State) (k n : Nat) (j : Nat) : (s.count k n).region j = s.region j := rfl
@[simp] theorem State.load_count (s : State) (k n : Nat) (j : Nat) : (s.count k n).load j = s.load j := rfl
@[simp] theorem State.launch_count (s : State) (k n : Nat) (j : Nat) : (s.count k n).launch j = s.launch j := rfl
@[simp] theorem State.queue_count (s : State) (k n : Nat) (j : Nat) : (s.count k n).queue j = s.queue j := rfl
@[simp] theorem State.ctx_count (s : State) (k n : Nat) (j : Nat) : (s.count k n).ctx j = s.ctx j := rfl
@[simp] theorem State.phase_count (s : State) (k n : Nat) (j : Nat) : (s.count k n).phase j = s.phase j := rfl
@[simp] theorem State.agu_count (s : State) (k n : Nat) (j : Nat) : (s.count k n).agu j = s.agu j := rfl
@[simp] theorem State.nmu_count (s : State) (k n : Nat) (j : Nat) : (s.count k n).nmu j = s.nmu j := rfl
@[simp] theorem State.stack_count (s : State) (k n : Nat) (j : Nat) : (s.count k n).stack j = s.stack j := rfl
@[simp] theorem State.fstore_count (s : State) (k n : Nat) (j : Nat) : (s.count k n).fstore j = s.fstore j := rfl
@[simp] theorem State.copy_count (s : State) (k n : Nat) (j : Nat) : (s.count k n).copy j = s.copy j := rfl
@[simp] theorem State.me_count (s : State) (k n : Nat) : (s.count k n).me = s.me := rfl
@[simp] theorem State.readCell_count (s : State) (k n : Nat) (a : Nat) : (s.count k n).readCell a = s.readCell a := rfl

/-! ### writeMem -/

@[simp] theorem State.core_writeMem (s : State) (as : List Nat) (bs : List Byte) (j : Nat) : (s.writeMem as bs).core j = s.core j := rfl
@[simp] theorem State.elem_writeMem (s : State) (as : List Nat) (bs : List Byte) (j : Nat) : (s.writeMem as bs).elem j = s.elem j := rfl
@[simp] theorem State.tile_writeMem (s : State) (as : List Nat) (bs : List Byte) (j : Nat) : (s.writeMem as bs).tile j = s.tile j := rfl
@[simp] theorem State.region_writeMem (s : State) (as : List Nat) (bs : List Byte) (j : Nat) : (s.writeMem as bs).region j = s.region j := rfl
@[simp] theorem State.load_writeMem (s : State) (as : List Nat) (bs : List Byte) (j : Nat) : (s.writeMem as bs).load j = s.load j := rfl
@[simp] theorem State.launch_writeMem (s : State) (as : List Nat) (bs : List Byte) (j : Nat) : (s.writeMem as bs).launch j = s.launch j := rfl
@[simp] theorem State.queue_writeMem (s : State) (as : List Nat) (bs : List Byte) (j : Nat) : (s.writeMem as bs).queue j = s.queue j := rfl
@[simp] theorem State.ctx_writeMem (s : State) (as : List Nat) (bs : List Byte) (j : Nat) : (s.writeMem as bs).ctx j = s.ctx j := rfl
@[simp] theorem State.phase_writeMem (s : State) (as : List Nat) (bs : List Byte) (j : Nat) : (s.writeMem as bs).phase j = s.phase j := rfl
@[simp] theorem State.agu_writeMem (s : State) (as : List Nat) (bs : List Byte) (j : Nat) : (s.writeMem as bs).agu j = s.agu j := rfl
@[simp] theorem State.nmu_writeMem (s : State) (as : List Nat) (bs : List Byte) (j : Nat) : (s.writeMem as bs).nmu j = s.nmu j := rfl
@[simp] theorem State.stack_writeMem (s : State) (as : List Nat) (bs : List Byte) (j : Nat) : (s.writeMem as bs).stack j = s.stack j := rfl
@[simp] theorem State.fstore_writeMem (s : State) (as : List Nat) (bs : List Byte) (j : Nat) : (s.writeMem as bs).fstore j = s.fstore j := rfl
@[simp] theorem State.copy_writeMem (s : State) (as : List Nat) (bs : List Byte) (j : Nat) : (s.writeMem as bs).copy j = s.copy j := rfl
@[simp] theorem State.me_writeMem (s : State) (as : List Nat) (bs : List Byte) : (s.writeMem as bs).me = s.me := rfl

/-! ### The executing core -/

@[simp] theorem State.me_setMe (s : State) (c : Core) : (s.setMe c).me = c := SMap.get_set_same _ _ _ _

theorem State.core_setMe (s : State) (c : Core) (n : Nat) : (s.setMe c).core n = if n = s.cur then c else s.core n :=
  SMap.get_set _ _ _ _ _

theorem State.core_setMe_ne (s : State) (c : Core) {n : Nat} (h : n ≠ s.cur) : (s.setMe c).core n = s.core n :=
  SMap.get_set_ne _ _ _ _ h

theorem State.core_cur (s : State) : s.core s.cur = s.me := rfl

end Sys2Proof.Machine
end

