-- ==== Sys2Proof/Laws/Core.lean ====
section
/-! SUPPORT. What the shared operations of a core's words do, once for each: register and predicate writes, skips, jumps. -/

namespace Sys2Proof.Machine

/-! ### Registers -/

@[simp] theorem Core.readG_zero (c : Core) : c.readG 0 = 0 := rfl

theorem Core.writeD_g0 (c : Core) (v : W64) : c.writeD (.g 0) v = c := rfl
theorem Core.writeD_g (c : Core) {n : BitVec 4} (h : n ≠ 0) (v : W64) :
    c.writeD (.g n) v = { c with g := SMap.set 0 c.g n.toNat v } := if_neg h
theorem Core.writeD_w (c : Core) (n : BitVec 5) (v : W64) :
    c.writeD (.w n) v = { c with ring := SMap.set 0 c.ring (c.ringIx n.toNat) v } := rfl

theorem Core.readG_writeD (c : Core) (d : DReg) (v : W64) (k : BitVec 4) :
    (c.writeD d v).readG k.toNat = if d = .g k ∧ k ≠ 0 then v else c.readG k.toNat := by
  cases d with
  | w n => rw [Core.writeD_w, if_neg (by rintro ⟨h, -⟩; cases h)]; rfl
  | g n =>
    by_cases hn : n = 0
    · subst hn
      rw [Core.writeD_g0, if_neg]
      rintro ⟨h, hk⟩
      cases h
      exact hk rfl
    · rw [Core.writeD_g _ hn]
      by_cases hk : k = n
      · subst hk
        have hk0 : k.toNat ≠ 0 := fun h => hn (BitVec.eq_of_toNat_eq h)
        rw [if_pos ⟨rfl, hn⟩, Core.readG, if_neg hk0, SMap.get_set_same]
      · have h1 : k.toNat ≠ n.toNat := fun h => hk (BitVec.eq_of_toNat_eq h)
        rw [if_neg (by rintro ⟨h, -⟩; cases h; exact hk rfl), Core.readG, Core.readG, SMap.get_set_ne _ _ _ _ h1]

theorem Core.readRing_writeD (c : Core) (d : DReg) (v : W64) (k : Nat) :
    (c.writeD d v).readRing k = if c.names d k then v else c.readRing k := by
  cases d with
  | w n => simp [Core.writeD_w, Core.readRing, SMap.get_set, Core.names, Core.ringIx]
  | g n =>
    by_cases hn : n = 0
    · subst hn; rfl
    · rw [Core.writeD_g _ hn]; rfl

theorem Core.writeD_rest (c : Core) (d : DReg) (v : W64) :
    c.writeD d v = { c with g := (c.writeD d v).g, ring := (c.writeD d v).ring } := by
  cases d with
  | w n => rfl
  | g n =>
    by_cases hn : n = 0
    · subst hn; rfl
    · rw [Core.writeD_g _ hn]

/-- Bit `k` of a predicate file after one predicate is written. -/
theorem predBit_write (x : BitVec 8) (q k : BitVec 3) (b : Bool) :
    (if b then x ||| (1#8 <<< q.toNat) else x &&& ~~~(1#8 <<< q.toNat)).getLsbD k.toNat
      = if k = q then b else x.getLsbD k.toNat := by
  have hk : k.toNat < 8 := k.isLt
  have hq : q.toNat < 8 := q.isLt
  by_cases h : k = q
  · subst h
    cases b <;> simp [hk]
  · have hne : k.toNat ≠ q.toNat := fun e => h (BitVec.eq_of_toNat_eq e)
    cases b <;> simp [h, hk]
    · omega
    · omega

theorem Core.readQ_writeQ (c : Core) (q k : QReg) (b : Bool) : (c.writeQ q b).readQ k = if k = q then b else c.readQ k :=
  predBit_write c.q q k b

theorem Core.readQ_advance (c : Core) (n : Nat) (k : QReg) : (c.advance n).readQ k = c.readQ k := rfl

/-! ### The ends of a word -/

theorem State.setMe_rest (s : State) (c : Core) : s.setMe c = { s with cores := (s.setMe c).cores } := rfl

/-- `finish` writes its register and changes nothing else. -/
theorem State.finish_wrote (s : State) (d : DReg) (v : W64) (n : Nat) : WroteReg s d v n (s.finish d v n) where
  gpr k := by
    simp only [State.finish, State.me_setMe]
    exact Core.readG_writeD s.me d v k
  ring k := by
    simp only [State.finish, State.me_setMe]
    exact Core.readRing_writeD s.me d v k
  rest := by
    simp only [State.finish, State.me_setMe, Core.advance]
    conv => lhs; rw [Core.writeD_rest]
  others _ h := State.core_setCore_ne s _ h
  state := State.setMe_rest s _

/-- `finishQ` writes its predicate and changes nothing else. -/
theorem State.finishQ_wrote (s : State) (q : QReg) (b : Bool) (n : Nat) : WrotePred s q b n (s.finishQ q b n) where
  pred k := by
    simp only [State.finishQ, State.me_setMe]
    exact Core.readQ_writeQ s.me q k b
  rest := by simp only [State.finishQ, State.me_setMe]; rfl
  others _ h := State.core_setCore_ne s _ h
  state := State.setMe_rest s _

/-- A core that goes on elsewhere changes nothing else. -/
theorem State.setMe_jumped (s : State) (pc : W64) : Jumped s pc (s.setMe { s.me with pc := pc }) where
  me := State.me_setMe s _
  others _ h := State.core_setCore_ne s _ h
  state := State.setMe_rest s _

theorem State.skip_jumped (s : State) (n : Nat) : Jumped s (s.me.pc + BitVec.ofNat 64 n) (s.skip n) := State.setMe_jumped s _

/-- The end of a word that wrote a register is a completion. -/
theorem completes_finish (s : State) (d : DReg) (v : W64) (n : Nat) :
    Completes (.next (s.finish d v n)) (WroteReg s d v n) := ⟨_, rfl, s.finish_wrote d v n⟩
theorem completes_finishQ (s : State) (q : QReg) (b : Bool) (n : Nat) :
    Completes (.next (s.finishQ q b n)) (WrotePred s q b n) := ⟨_, rfl, s.finishQ_wrote q b n⟩
theorem completes_skip (s : State) (n : Nat) : Completes (.next (s.skip n)) (Jumped s (s.me.pc + BitVec.ofNat 64 n)) :=
  ⟨_, rfl, s.skip_jumped n⟩

end Sys2Proof.Machine
end

