-- ==== Sys2Proof/Laws/Traps.lean ====
section
/-! SUPPORT. What a transfer of control of a core can do, once for each operation: checked targets, traps, double faults, calls and
returns without a spill or a refill. -/

namespace Sys2Proof.Machine

theorem State.setCore_setCore (s : State) (n : Nat) (c d : Core) : (s.setCore n c).setCore n d = s.setCore n d := by
  simp only [State.setCore, SMap.set_set]

theorem State.setMe_setMe (s : State) (c d : Core) : (s.setMe c).setMe d = s.setMe d := State.setCore_setCore s s.cur c d

/-! ### Targets (R103) -/

theorem badTarget_false_iff (t : W64) : badTarget t = false ↔ goodTarget t := by
  have ht : t.toNat < 2 ^ 64 := t.isLt
  simp only [badTarget, goodTarget, fld, Bool.or_eq_false_iff, bne_eq_false_iff_eq]
  omega

theorem badTarget_true_iff (t : W64) : badTarget t = true ↔ ¬ goodTarget t := by
  rw [← badTarget_false_iff]; simp

theorem State.goto_good {s : State} {t : W64} (h : goodTarget t) : s.goto t = .next (s.setMe { s.me with pc := t }) := by
  rw [State.goto, (badTarget_false_iff t).2 h]; rfl

theorem State.goto_bad {s : State} {t : W64} (h : ¬ goodTarget t) : s.goto t = .next (s.trap causeFetch t) := by
  rw [State.goto, (badTarget_true_iff t).2 h]; rfl

theorem completes_goto {s : State} {t : W64} (h : goodTarget t) : Completes (s.goto t) (Jumped s t) :=
  ⟨_, State.goto_good h, s.setMe_jumped t⟩

theorem State.branch_taken (s : State) (off : W64) (n : Nat) : s.branch true off n = s.goto (s.relTarget off) := rfl

theorem State.branch_not_taken (s : State) (off : W64) (n : Nat) : s.branch false off n = .next (s.skip n) := rfl

/-! ### Traps (R136, R137) -/

theorem Core.ten_of_bit {c : Core} (h : c.cstat.getLsbD 0 = true) : c.ten = true := by
  rw [BitVec.getLsbD, Nat.testBit_zero] at h
  simpa [Core.ten, bitOf] using h

theorem Core.not_ten_of_bit {c : Core} (h : c.cstat.getLsbD 0 = false) : c.ten = false := by
  rw [BitVec.getLsbD, Nat.testBit_zero] at h
  simpa [Core.ten, bitOf] using h

theorem bitOf_testBit (v i : Nat) : bitOf v i = v.testBit i := by
  rw [Nat.testBit_eq_decide_div_mod_eq, bitOf]
  by_cases h : v / 2 ^ i % 2 = 1 <;> simp [h]

theorem Core.user_false_of_priv {c : Core} (h : c.priv) : c.user = false := by
  have : c.cstat.toNat.testBit 1 = true := h
  simp [Core.user, bitOf_testBit, this]

theorem Core.user_true_of_not_priv {c : Core} (h : ¬ c.priv) : c.user = true := by
  have : ¬ c.cstat.toNat.testBit 1 = true := h
  simp only [Core.user, bitOf_testBit, Bool.not_eq_true] at this ⊢
  simp [this]

/-- No group is spilled where WFILL is within the limit already. -/
theorem State.spillTo_within {s : State} {n lim k : Nat} (h : (s.core n).wfill.toNat ≤ lim) : s.spillTo n lim (k + 1) = .ok s := by
  rw [State.spillTo, if_pos h]

theorem State.refillTo_within {s : State} {n lim k : Nat} (h : lim ≤ (s.core n).wfill.toNat) : s.refillTo n lim (k + 1) = .ok s := by
  rw [State.refillTo, if_pos h]

/-- The core as a trap without a spill leaves it. -/
def trapped (c : Core) (cause : Nat) (tval epc : W64) : Core :=
  { c with
    tstat := c.cstat, tepc := epc, tcause := BitVec.ofNat 64 cause, tval := tval, cstat := 2,
    wbase := c.wbase + 32, wfill := c.wfill + 32, pc := c.tvec &&& ~~~(3 : W64),
    link := SMap.set 0 c.link ((c.wbase.toNat + 24) % 256 / 8) 0, run := .running, wake := false, await := none, span := none,
    begun := none, inval := none }

theorem State.deliver_eq (s : State) (n : Nat) {cause : Nat} (tval epc : W64) (hc : cause < 65536) (h : (s.core n).wfill.toNat ≤ 192) :
    s.deliver n cause tval epc = s.setCore n (trapped (s.core n) cause tval epc) := by
  unfold State.deliver State.deliverTo
  dsimp only
  rw [State.spillTo_within (by rw [State.core_setCore_same]; exact h)]
  dsimp only
  rw [State.core_setCore_same, Nat.mod_eq_of_lt hc, State.setCore_setCore]
  rfl

theorem State.took_trapped (s : State) (cause : Nat) (tval epc : W64) :
    TookTrap s cause tval epc (s.setMe (trapped s.me cause tval epc)) where
  me := by rw [State.me_setMe]; rfl
  link k := by rw [State.me_setMe]; exact SMap.get_set 0 s.me.link _ k 0
  others _ h := State.core_setMe_ne s _ h
  state := State.setMe_rest s _

theorem State.trapAt_took {s : State} {cause : Nat} (tval epc : W64) (hc : cause < 65536) (h : s.canTrap) :
    TookTrap s cause tval epc (s.trapAt cause tval epc) := by
  rw [State.trapAt, Core.ten_of_bit h.1, if_pos rfl, State.deliver_eq s s.cur tval epc hc h.2]
  exact s.took_trapped cause tval epc

theorem State.trap_took {s : State} {cause : Nat} (tval : W64) (hc : cause < 65536) (h : s.canTrap) :
    TookTrap s cause tval s.me.pc (s.trap cause tval) := State.trapAt_took tval s.me.pc hc h

theorem State.illegal_took {s : State} (h : s.canTrap) : TookTrap s 1 (s.ir.setWidth 64) s.me.pc s.illegal :=
  State.trap_took _ (by decide) h

theorem State.privileged_took {s : State} (h : s.canTrap) : TookTrap s 2 (s.ir.setWidth 64) s.me.pc s.privileged :=
  State.trap_took _ (by decide) h

/-! ### What counts only (R161) -/

theorem OnlyCounted.rfl' (s : State) : OnlyCounted s s := rfl

theorem OnlyCounted.trans {s t u : State} (h : OnlyCounted s t) (k : OnlyCounted t u) : OnlyCounted s u := by
  unfold OnlyCounted at *
  rw [k, h]

theorem State.count_only (s : State) (k n : Nat) : OnlyCounted s (s.count k n) := rfl

theorem State.countMem_only (s : State) (as : List Nat) (w : Bool) : OnlyCounted s (s.countMem as w) := by
  unfold State.countMem
  generalize List.range 8 = ds
  induction ds generalizing s with
  | nil => rfl
  | cons d ds ih =>
    rw [List.foldl_cons]
    refine OnlyCounted.trans ?_ (ih _)
    rw [State.countDie]
    split <;> split <;> rfl

theorem State.countWalk_only (s : State) (who c va : Nat) : OnlyCounted s (s.countWalk who c va) := by
  have walk (pas : List Nat) (u : State) : OnlyCounted u (pas.foldl (fun t pa => t.countRead pa 8) u) := by
    induction pas generalizing u with
    | nil => exact OnlyCounted.rfl' u
    | cons pa pas ih => exact (State.countMem_only u _ false).trans (ih _)
  unfold State.countWalk
  split
  · exact OnlyCounted.rfl' s
  · dsimp only
    split
    · exact (walk _ s).trans (State.count_only _ _ _)
    · exact walk _ s

theorem State.coreWalk_only (s : State) (va n : Nat) : OnlyCounted s (s.coreWalk va n) := by
  unfold State.coreWalk
  generalize List.range (pagesOf va n) = is
  induction is generalizing s with
  | nil => exact OnlyCounted.rfl' s
  | cons i is ih =>
    rw [List.foldl_cons]
    exact (State.countWalk_only s _ _ _).trans (ih _)

theorem OnlyCounted.me {s t : State} (h : OnlyCounted s t) : t.me = s.me := by rw [h]; rfl
theorem OnlyCounted.core {s t : State} (h : OnlyCounted s t) (j : Nat) : t.core j = s.core j := by rw [h]; rfl
theorem OnlyCounted.readCell {s t : State} (h : OnlyCounted s t) (a : Nat) : t.readCell a = s.readCell a := by rw [h]; rfl
theorem OnlyCounted.cur {s t : State} (h : OnlyCounted s t) : t.cur = s.cur := by rw [h]
theorem OnlyCounted.resid {s t : State} (h : OnlyCounted s t) : t.resid = s.resid := by rw [h]
theorem OnlyCounted.lags {s t : State} (h : OnlyCounted s t) : t.lags = s.lags := by rw [h]
theorem OnlyCounted.canTrap {s t : State} (h : OnlyCounted s t) (k : s.canTrap) : t.canTrap := by
  unfold State.canTrap at *; rwa [h.me]

/-- A failed access whose walk met no bad residue takes its trap, and moves counters only. -/
theorem State.accessTrap_took {s : State} {cause va : Nat} (hc : cause < 65536) (h : s.canTrap)
    (hw : s.walkBad s.cur s.me.ctx va = []) :
    TookCounted s cause (BitVec.ofNat 64 va) s.me.pc (s.accessTrap cause va) := by
  unfold State.accessTrap
  split
  · exact ⟨s, OnlyCounted.rfl' s, State.trap_took _ hc h⟩
  · have hr : s.coreReport va = s.countWalk s.cur s.me.ctx va := by
      rw [State.coreReport, State.walkReport, hw]; rfl
    have ho := s.countWalk_only s.cur s.me.ctx va
    rw [hr]
    have := State.trap_took (BitVec.ofNat 64 va) hc (ho.canTrap h)
    rw [ho.me] at this
    exact ⟨_, ho, this⟩

theorem State.accessTrap_misaligned {s : State} {va : Nat} (h : s.canTrap) :
    TookTrap s causeMisaligned (BitVec.ofNat 64 va) s.me.pc (s.accessTrap causeMisaligned va) := by
  unfold State.accessTrap
  rw [if_pos rfl]
  exact State.trap_took _ (by decide) h

/-! ### Calls and returns (R81, R82, R138) -/

theorem State.callTo_good {s : State} {fc : FrameCode} {t : W64} (n : Nat) (h : goodTarget t) (hf : s.me.wfill.toNat + 8 * fc.code ≤ 224) :
    s.callTo fc t n = .next (s.setMe { s.me with
      link := SMap.set 0 s.me.link ((s.me.wbase.toNat + 8 * fc.code - 8) % 256 / 8) (linkWord (s.me.pc + BitVec.ofNat 64 n) fc),
      wbase := s.me.wbase + BitVec.ofNat 8 (8 * fc.code), wfill := s.me.wfill + BitVec.ofNat 8 (8 * fc.code), pc := t }) := by
  rw [State.callTo, (badTarget_false_iff t).2 h]
  simp only [Bool.false_eq_true, if_false]
  rw [State.spillTo_within (by rw [State.core_cur]; omega)]

theorem State.callTo_bad {s : State} {fc : FrameCode} {t : W64} (n : Nat) (h : ¬ goodTarget t) :
    s.callTo fc t n = .next (s.trap causeFetch t) := by
  rw [State.callTo, (badTarget_true_iff t).2 h]; rfl

theorem State.trapReturn_eq {s : State} (h : 32 ≤ s.me.wfill.toNat) :
    s.trapReturn = s.setMe { s.me with
      wbase := s.me.wbase - 32, wfill := s.me.wfill - 32, cstat := s.me.tstat &&& 3, pc := s.me.tepc } := by
  rw [State.trapReturn, State.refillTo_within (by rw [State.core_cur]; exact h)]

end Sys2Proof.Machine
end

