-- ==== Sys2Proof/Laws/Memory.lean ====
section
/-! SUPPORT. Memory: every operation keeps the canonical form, a read after a write gives the value written, and a write leaves
every other cell alone. -/

namespace Sys2Proof.Machine

theorem readCell_def (s : State) (a : Nat) : s.readCell a = SMap.get (memDefault a) s.mem a := rfl

/-! ### Cells -/

theorem get_writeCell (m : SMap Byte) (a b : Nat) (v : Byte) :
    SMap.get (memDefault b) (writeCell m a v) b = if b = a then v else SMap.get (memDefault b) m b := by
  by_cases h : b = a
  · subst h; simp [writeCell]
  · simp [writeCell, SMap.get_set_ne _ _ _ _ h, h]

theorem wf_writeCell {m : SMap Byte} (a : Nat) (v : Byte) (h : Memory.wf m = true) : Memory.wf (writeCell m a v) = true :=
  SMap.wfBy_set (d := memDefault) a v h

theorem wf_writeCells {m : SMap Byte} (as : List Nat) (bs : List Byte) (h : Memory.wf m = true) :
    Memory.wf (writeCells m as bs) = true := by
  induction as generalizing m bs with
  | nil => simpa [writeCells] using h
  | cons a as ih =>
    cases bs with
    | nil => simpa [writeCells] using h
    | cons b bs => exact ih bs (wf_writeCell a b h)

theorem wf_filter {m : SMap Byte} (f : Nat × Byte → Bool) (h : Memory.wf m = true) : Memory.wf (m.filter f) = true :=
  SMap.wfBy_filter f h

theorem get_writeCells_out (m : SMap Byte) (as : List Nat) (bs : List Byte) {b : Nat} (h : b ∉ as) :
    SMap.get (memDefault b) (writeCells m as bs) b = SMap.get (memDefault b) m b := by
  induction as generalizing m bs with
  | nil => simp [writeCells]
  | cons a as ih =>
    cases bs with
    | nil => simp [writeCells]
    | cons v bs =>
      have hne : b ≠ a := fun e => h (by simp [e])
      have hin : b ∉ as := fun e => h (by simp [e])
      rw [writeCells, ih _ _ hin, get_writeCell, if_neg hne]

/-- Cells without repeats hold the bytes written to them. -/
theorem map_get_writeCells (m : SMap Byte) (as : List Nat) (bs : List Byte) (hl : as.length = bs.length) (hn : as.Nodup) :
    as.map (fun a => SMap.get (memDefault a) (writeCells m as bs) a) = bs := by
  induction as generalizing m bs with
  | nil => cases bs with
    | nil => rfl
    | cons => simp at hl
  | cons a as ih =>
    cases bs with
    | nil => simp at hl
    | cons v bs =>
      obtain ⟨ha, hn'⟩ := List.nodup_cons.mp hn
      simp only [List.map_cons, writeCells]
      rw [get_writeCells_out _ _ _ ha, get_writeCell, if_pos rfl, ih _ _ (by simpa using hl) hn']

/-! ### The writes of the machine -/

theorem State.memOk_reset : Memory.wf State.reset.mem = true := rfl

theorem State.memOk_writeMem {s : State} (as : List Nat) (bs : List Byte) (h : Memory.wf s.mem = true) :
    Memory.wf (s.writeMem as bs).mem = true := wf_writeCells as bs h

theorem State.readCell_writeMem_out (s : State) (as : List Nat) (bs : List Byte) {b : Nat} (h : b ∉ as) :
    (s.writeMem as bs).readCell b = s.readCell b := get_writeCells_out _ _ _ h

theorem State.map_readCell_writeMem (s : State) (as : List Nat) (bs : List Byte) (hl : as.length = bs.length) (hn : as.Nodup) :
    as.map (s.writeMem as bs).readCell = bs := map_get_writeCells _ _ _ hl hn

@[simp] theorem State.mem_count (s : State) (k n : Nat) : (s.count k n).mem = s.mem := rfl

/-- Counting an access writes no memory. -/
@[simp] theorem State.mem_countMem (s : State) (as : List Nat) (w : Bool) : (s.countMem as w).mem = s.mem := by
  unfold State.countMem
  generalize List.range 8 = ds
  induction ds generalizing s with
  | nil => rfl
  | cons d ds ih =>
    rw [List.foldl_cons, ih, State.countDie]
    split <;> split <;> rfl

theorem State.memOk_physWrite {s t : State} {pa : Nat} {bs : List Byte} (h : Memory.wf s.mem = true)
    (ht : s.physWrite pa bs = some t) : Memory.wf t.mem = true := by
  simp only [State.physWrite, Option.map_eq_some_iff] at ht
  obtain ⟨as, -, rfl⟩ := ht
  rw [State.mem_countMem]
  exact State.memOk_writeMem as bs h

/-- The cells of an access are as many as its bytes. -/
theorem State.length_cells {s : State} {pa n : Nat} {as : List Nat} (h : s.cells pa n = some as) : as.length = n := by
  induction n generalizing pa as with
  | zero => simp [State.cells] at h; simp [← h]
  | succ n ih =>
    simp only [State.cells] at h
    split at h
    · rename_i a as' _ h2
      simp only [Option.some.injEq] at h
      subst h
      simp [ih h2]
    · cases h

theorem bankLinear_inj {x y : Nat} (hx : x < 2 ^ 40) (hy : y < 2 ^ 40) (h : bankLinear x = bankLinear y) : x = y := by
  unfold bankLinear at h
  omega

theorem bankLinear_range {x : Nat} (hx : x < 2 ^ 40) : stackBase ≤ bankLinear x ∧ bankLinear x < lpBase := by
  unfold bankLinear stackBase lpBase
  omega

/-- What a cell's one name says of the physical address it stands for. -/
theorem State.canon_cases {s : State} {p a : Nat} (h : s.canon p = some a) :
    (p < stackBase ∧ a = bankLinear p) ∨ (stackBase ≤ p ∧ a = p)
      ∨ (spanBase + s.pkg.ownPkg * 2 ^ 40 ≤ p ∧ p < spanBase + s.pkg.ownPkg * 2 ^ 40 + 2 ^ 40
          ∧ a = bankLinear (p - (spanBase + s.pkg.ownPkg * 2 ^ 40))) := by
  unfold State.canon at h

  split at h
  · exact Or.inl ⟨‹_›, by simpa using h.symm⟩
  have h1 : stackBase ≤ p := by omega
  have tail : some p = some a → (p < stackBase ∧ a = bankLinear p) ∨ (stackBase ≤ p ∧ a = p)
      ∨ (spanBase + s.pkg.ownPkg * 2 ^ 40 ≤ p ∧ p < spanBase + s.pkg.ownPkg * 2 ^ 40 + 2 ^ 40
          ∧ a = bankLinear (p - (spanBase + s.pkg.ownPkg * 2 ^ 40))) :=
    fun e => Or.inr (Or.inl ⟨h1, (Option.some.inj e).symm⟩)
  split at h
  · exact tail h
  split at h
  · split at h
    · exact tail h
    · cases h
  split at h
  · split at h
    · exact tail h
    · cases h
  split at h
  · split at h
    · exact tail h
    · cases h
  split at h
  · rename_i hr
    dsimp only at h
    split at h
    · split at h
      · rename_i _ ho
        refine Or.inr (Or.inr ?_)
        simp only [Option.some.injEq] at h
        rw [← h, ← ho]
        simp only [spanBase] at hr ⊢
        exact ⟨by omega, by omega, congrArg bankLinear (by omega)⟩
      · split at h
        · cases h
        · exact tail h
    · cases h
  split at h
  · exact tail h
  · cases h

/-- Two names of one run of addresses differ. -/
theorem State.canon_inj {s : State} {p q a : Nat} (hp : s.canon p = some a) (hq : s.canon q = some a) (h : p < q)
    (hn : q < p + 2 ^ 16) : False := by
  have h1 := State.canon_cases hp
  have h2 := State.canon_cases hq
  have hs : spanBase = 0x4000000000000 := rfl
  have hl : lpBase = 0x20000000000 := rfl
  have hb : stackBase = 0x10000000000 := rfl
  rcases h1 with ⟨c, e⟩ | ⟨c, e⟩ | ⟨c, c', e⟩ <;> rcases h2 with ⟨d, f⟩ | ⟨d, f⟩ | ⟨d, d', f⟩
  · have := bankLinear_inj (by omega) (by omega) (e.symm.trans f); omega
  · unfold bankLinear at e; omega
  · omega
  · omega
  · omega
  · have := bankLinear_range (x := q - (spanBase + s.pkg.ownPkg * 2 ^ 40)) (by omega); omega
  · omega
  · have := bankLinear_range (x := p - (spanBase + s.pkg.ownPkg * 2 ^ 40)) (by omega); omega
  · have := bankLinear_inj (x := p - (spanBase + s.pkg.ownPkg * 2 ^ 40)) (y := q - (spanBase + s.pkg.ownPkg * 2 ^ 40))
      (by omega) (by omega) (e.symm.trans f)
    omega

theorem State.mem_cells {s : State} {pa n : Nat} {as : List Nat} (h : s.cells pa n = some as) {a : Nat} (ha : a ∈ as) :
    ∃ q, pa ≤ q ∧ q < pa + n ∧ s.canon q = some a := by
  induction n generalizing pa as with
  | zero => simp [State.cells] at h; subst h; cases ha
  | succ n ih =>
    simp only [State.cells] at h
    split at h
    · rename_i b bs h1 h2
      simp only [Option.some.injEq] at h
      subst h
      rcases List.mem_cons.mp ha with rfl | hm
      · exact ⟨pa, by omega, by omega, h1⟩
      · obtain ⟨q, l, u, e⟩ := ih h2 hm
        exact ⟨q, by omega, by omega, e⟩
    · cases h

/-- The cells of an access of at most 65,536 bytes are all different. -/
theorem State.nodup_cells {s : State} {pa n : Nat} {as : List Nat} (h : s.cells pa n = some as) (hn : n ≤ 2 ^ 16) : as.Nodup := by
  induction n generalizing pa as with
  | zero => simp [State.cells] at h; subst h; exact List.nodup_nil
  | succ n ih =>
    simp only [State.cells] at h
    split at h
    · rename_i b bs h1 h2
      simp only [Option.some.injEq] at h
      subst h
      refine List.nodup_cons.mpr ⟨fun hm => ?_, ih h2 (by omega)⟩
      obtain ⟨q, l, u, e⟩ := State.mem_cells h2 hm
      exact State.canon_inj h1 e (by omega) (by omega)
    · cases h

theorem State.cells_of_live {s : State} {pa n : Nat} {as : List Nat} (h : s.liveCells pa n = some as) : s.cells pa n = some as := by
  unfold State.liveCells at h
  split at h
  · cases h
  · exact h

end Sys2Proof.Machine
end

