-- ==== Sys2Proof/Laws/Views.lean ====
section
/-! SUPPORT. The views of memory: what a lag shows, and what a write through a path leaves, once for every write of the machine. -/

namespace Sys2Proof.Machine

/-! ### What a view does not see -/

theorem Lag.byteAt_none {l : Lag} {a : Nat} (h : a ∉ l.cells.map (·.1)) : l.byteAt a = none := by
  rw [Lag.byteAt, Option.map_eq_none_iff, List.find?_eq_none]
  intro p hp e
  exact h (List.mem_map.mpr ⟨p, hp, by simpa using e⟩)

theorem Lag.mem_of_byteAt {l : Lag} {a : Nat} (h : (l.byteAt a).isSome = true) : a ∈ l.cells.map (·.1) := by
  by_contra k
  rw [Lag.byteAt_none k] at h
  cases h

theorem lagAt_append (x y : List Lag) (v a : Nat) : lagAt (x ++ y) v a = (lagAt x v a).or (lagAt y v a) := by
  induction x with
  | nil => simp [lagAt]
  | cons l ls ih =>
    rw [List.cons_append, lagAt, lagAt]
    split
    · rename_i h
      obtain ⟨b, hb⟩ := Option.isSome_iff_exists.mp h.2
      rw [hb]; rfl
    · exact ih

/-- A filter that keeps the lags of a view at a cell keeps what the view sees there. -/
theorem lagAt_filter {p : Lag → Bool} {x : List Lag} {v a : Nat} (h : ∀ l ∈ x, l.view = v → (l.byteAt a).isSome → p l = true) :
    lagAt (x.filter p) v a = lagAt x v a := by
  induction x with
  | nil => rfl
  | cons l ls ih =>
    have k := ih fun m hm => h m (List.mem_cons_of_mem _ hm)
    rw [List.filter_cons]
    split
    · rw [lagAt, lagAt, k]
    · rename_i hp
      rw [k, lagAt, if_neg]
      exact fun e => hp (h l (List.mem_cons_self ..) e.1 e.2)

theorem lagAt_none {x : List Lag} {v a : Nat} (h : ∀ l ∈ x, l.view = v → a ∉ l.cells.map (·.1)) : lagAt x v a = none := by
  induction x with
  | nil => rfl
  | cons l ls ih =>
    rw [lagAt, if_neg, ih fun m hm => h m (List.mem_cons_of_mem _ hm)]
    exact fun e => h l (List.mem_cons_self ..) e.1 (Lag.mem_of_byteAt e.2)

/-- The byte that a lag shows after one of its bytes is replaced. -/
theorem Lag.byteAt_replaced (l : Lag) (a c : Nat) (b : Byte) :
    Lag.byteAt { l with cells := l.cells.map fun p => if p.1 = a then (a, b) else p } c
      = if c = a then (l.byteAt c).map fun _ => b else l.byteAt c := by
  obtain ⟨v, ps⟩ := l
  simp only [Lag.byteAt]
  induction ps with
  | nil => split <;> rfl
  | cons p ps ih =>
    simp only [List.map_cons, List.find?_cons]
    by_cases hp : p.1 = a <;> by_cases hc : c = a
    · simp [hp, hc]
    · have : (a == c) = false := by simpa using fun e => hc e.symm
      simpa [hp, hc, this] using ih
    · have : (p.1 == a) = false := by simpa using hp
      simpa [hp, hc, this] using ih
    · cases hk : p.1 == c
      · simpa [hp, hc, hk] using ih
      · simp [hp, hc, hk]

theorem lagAt_putLag (x : List Lag) (v a : Nat) (b : Byte) (u c : Nat) :
    lagAt (putLag x v a b) u c = if u = v ∧ c = a then (lagAt x u c).map fun _ => b else lagAt x u c := by
  induction x with
  | nil => simp [putLag, lagAt]
  | cons l ls ih =>
    by_cases h : l.view = v ∧ (l.byteAt a).isSome
    · rw [putLag, if_pos h, lagAt, lagAt, Lag.byteAt_replaced]
      by_cases hu : u = v <;> by_cases hc : c = a
      · subst hu; subst hc
        simp [h.1, h.2]
      · simp [hc]
      · have : l.view ≠ u := fun e => hu (e.symm.trans h.1)
        simp [hu, this]
      · simp [hc]
    · rw [putLag, if_neg h, lagAt, lagAt, ih]
      by_cases hk : l.view = u ∧ (l.byteAt c).isSome
      · have : ¬ (u = v ∧ c = a) := fun e => h ⟨hk.1.trans e.1, e.2 ▸ hk.2⟩
        simp [hk, this]
      · simp [hk]

/-- New lags of a path show, at their cells, what the path sees. -/
theorem State.lagAt_lagsOf (s : State) (vs as : List Nat) (v a : Nat) :
    lagAt (s.lagsOf vs as) v a = if vs.head? = some v ∧ a ∈ as then some (s.see vs a) else none := by
  cases vs with
  | nil => simp [State.lagsOf, lagAt]
  | cons x xs =>
    have key (gs : List Nat) (f : Nat → Byte) :
        lagAt (gs.map fun g => ⟨x, (as.filter (· / 16 == g)).map fun a => (a, f a)⟩) v a
          = if x = v ∧ a ∈ as ∧ a / 16 ∈ gs then some (f a) else none := by
      induction gs with
      | nil => simp [lagAt]
      | cons g gs ih =>
        have hb : Lag.byteAt ⟨x, (as.filter (· / 16 == g)).map fun a => (a, f a)⟩ a = if a ∈ as ∧ a / 16 = g then some (f a) else none := by
          rw [Lag.byteAt]
          split
          · rename_i h
            have hm : (a, f a) ∈ (as.filter (· / 16 == g)).map fun a => (a, f a) :=
              List.mem_map.mpr ⟨a, List.mem_filter.mpr ⟨h.1, by simpa using h.2⟩, rfl⟩
            obtain ⟨p, hp⟩ := Option.isSome_iff_exists.mp (List.find?_isSome.mpr ⟨_, hm, beq_self_eq_true a⟩ :
              (((as.filter (· / 16 == g)).map fun a => (a, f a)).find? fun p => p.1 == a).isSome = true)
            rw [hp]
            obtain ⟨c, -, hc⟩ := List.mem_map.mp (List.mem_of_find?_eq_some hp)
            have := List.find?_some hp
            subst hc
            rw [beq_iff_eq] at this
            subst this
            rfl
          · rename_i h
            rw [Option.map_eq_none_iff, List.find?_eq_none]
            intro p hp e
            obtain ⟨c, hc, rfl⟩ := List.mem_map.mp hp
            rw [beq_iff_eq] at e
            subst e
            obtain ⟨h1, h2⟩ := List.mem_filter.mp hc
            exact h ⟨h1, by simpa using h2⟩
        rw [List.map_cons, lagAt, ih]
        simp only [hb]
        by_cases hx : x = v <;> by_cases ha : a ∈ as <;> by_cases hg : a / 16 = g <;> simp [hx, ha, hg]
    rw [State.lagsOf, key]
    by_cases ha : a ∈ as
    · simp only [List.head?_cons, Option.some.injEq, ha, true_and, and_true]
      rw [if_congr (and_iff_left (List.mem_dedup.mpr (List.mem_map_of_mem (f := (· / 16)) ha))) rfl rfl]
    · simp [ha]

theorem State.see_nil (s : State) (a : Nat) : s.see [] a = s.readCell a := rfl

theorem State.see_cons (s : State) (v : Nat) (vs : List Nat) (a : Nat) : s.see (v :: vs) a = (lagAt s.lags v a).getD (s.see vs a) := by
  simp only [State.see, List.findSome?_cons]
  cases lagAt s.lags v a <;> rfl

theorem State.see_none {s : State} {vs : List Nat} {a : Nat} (h : ∀ v ∈ vs, lagAt s.lags v a = none) : s.see vs a = s.readCell a := by
  induction vs with
  | nil => rfl
  | cons v vs ih =>
    rw [State.see_cons, h v (List.mem_cons_self ..)]
    exact ih fun u hu => h u (List.mem_cons_of_mem _ hu)

/-- What a path sees depends on the lags of its views and on memory. -/
theorem State.see_congr {s t : State} {vs : List Nat} {a : Nat} (h : ∀ v ∈ vs, lagAt t.lags v a = lagAt s.lags v a)
    (hm : t.readCell a = s.readCell a) : t.see vs a = s.see vs a := by
  induction vs with
  | nil => exact hm
  | cons v vs ih =>
    rw [State.see_cons, State.see_cons, h v (List.mem_cons_self ..), ih fun u hu => h u (List.mem_cons_of_mem _ hu)]

/-! ### Bytes written through a path -/

theorem get_clearBad (m : SMap (Option (BitVec 4))) (as : List Nat) {w : Nat} (h : ∀ a ∈ as, a / 4 ≠ w) :
    SMap.get none (clearBad m as) w = SMap.get none m w := by
  induction as generalizing m with
  | nil => rfl
  | cons a as ih =>
    rw [clearBad, ih _ fun b hb => h b (List.mem_cons_of_mem _ hb), SMap.get_erase_ne _ _ fun e => h a (List.mem_cons_self ..) e.symm]

/-- What `writeSeen` can do. -/
structure SeenWrite (s : State) (vs as : List Nat) (bs : List Byte) (t : State) : Prop where
  seen : as.map (t.see vs) = bs
  views : ∀ v a, v ∉ vs ∨ a ∉ as → lagAt t.lags v a = lagAt s.lags v a
  lagging : ∀ v a, (lagAt t.lags v a).isSome = (lagAt s.lags v a).isSome
  cells : ∀ a, a ∉ as ∨ (∃ v ∈ vs, (lagAt s.lags v a).isSome) → t.readCell a = s.readCell a
  marks : ∀ x, (∀ a ∈ as, a / 4 ≠ x) → SMap.get none t.resid x = SMap.get none s.resid x
  rest : t = { s with mem := t.mem, resid := t.resid, lags := t.lags }

/-- One byte replaced in a lag of a path: its first view that lags. -/
theorem State.see_putLag {s : State} {vs : List Nat} {v a : Nat} (b : Byte) (h : vs.find? (fun v => (lagAt s.lags v a).isSome) = some v) :
    State.see { s with lags := putLag s.lags v a b } vs a = b := by
  induction vs with
  | nil => cases h
  | cons x xs ih =>
    rw [State.see_cons, lagAt_putLag]
    rw [List.find?_cons] at h
    split at h
    · rename_i hx
      cases h
      obtain ⟨c, hc⟩ := Option.isSome_iff_exists.mp hx
      simp [hc]
    · rename_i hx
      have hn : lagAt s.lags x a = none := by simpa using hx
      have := ih h
      simp [hn, this]

theorem State.writeSeen_spec (s : State) (vs as : List Nat) (bs : List Byte) (hn : as.Nodup) (hl : as.length = bs.length) :
    SeenWrite s vs as bs (s.writeSeen vs as bs) := by
  induction as generalizing s bs with
  | nil =>
    obtain rfl : bs = [] := by simpa using hl.symm
    exact ⟨rfl, fun _ _ _ => rfl, fun _ _ => rfl, fun _ _ => rfl, fun _ _ => rfl, rfl⟩
  | cons a as ih =>
    obtain _ | ⟨b, bs⟩ := bs
    · simp at hl
    obtain ⟨ha, hn'⟩ := List.nodup_cons.mp hn
    have hl' : as.length = bs.length := by simpa using hl
    rw [State.writeSeen]
    split
    · rename_i v hv
      have k := ih { s with lags := putLag s.lags v a b } bs hn' hl'
      generalize hu : (State.writeSeen { s with lags := putLag s.lags v a b } vs as bs) = u at k
      have hmem := List.mem_of_find?_eq_some hv
      refine ⟨?_, ?_, ?_, ?_, fun x hx => k.marks x fun c hc => hx c (List.mem_cons_of_mem _ hc), ?_⟩
      · rw [List.map_cons, k.seen, State.see_congr (fun w _ => k.views w a (.inr ha)) (k.cells a (.inl ha)), State.see_putLag b hv]
      · intro w c hw
        rw [k.views w c (hw.imp_right fun h => fun e => h (List.mem_cons_of_mem _ e)), lagAt_putLag, if_neg]
        rintro ⟨rfl, rfl⟩
        exact hw.elim (· hmem) fun h => h (List.mem_cons_self ..)
      · intro w c
        rw [k.lagging, lagAt_putLag]
        split
        · simp
        · rfl
      · intro c hc
        refine (k.cells c ?_).trans rfl
        rcases hc with hc | ⟨w, hw, hs⟩
        · exact .inl fun e => hc (List.mem_cons_of_mem _ e)
        · refine .inr ⟨w, hw, ?_⟩
          rw [lagAt_putLag]
          split
          · simpa using hs
          · exact hs
      · rw [k.rest]
    · rename_i hv
      have hnone : ∀ v ∈ vs, lagAt s.lags v a = none := fun v h => by simpa using List.find?_eq_none.mp hv v h
      have k := ih (s.writeMem [a] [b]) bs hn' hl'
      generalize hu : (State.writeSeen (s.writeMem [a] [b]) vs as bs) = u at k
      refine ⟨?_, ?_, fun w c => (k.lagging w c).trans rfl, ?_, ?_, ?_⟩
      · rw [List.map_cons, k.seen, State.see_congr (s := s.writeMem [a] [b]) (fun w _ => k.views w a (.inr ha)) (k.cells a (.inl ha)),
          State.see_none (s := s.writeMem [a] [b]) hnone]
        congr 1
        simpa using State.map_readCell_writeMem s [a] [b] rfl (by simp)
      · exact fun w c hw => (k.views w c (hw.imp_right fun h => fun e => h (List.mem_cons_of_mem _ e))).trans rfl
      · intro c hc
        have hca : c ≠ a := by
          rintro rfl
          rcases hc with hc | ⟨w, hw, hs⟩
          · exact hc (List.mem_cons_self ..)
          · rw [hnone w hw] at hs; cases hs
        rw [k.cells c (hc.imp_left fun h => fun e => h (List.mem_cons_of_mem _ e)),
          State.readCell_writeMem_out s [a] [b] (by simpa using hca)]
      · intro x hx
        rw [k.marks x fun c hc => hx c (List.mem_cons_of_mem _ hc)]
        exact get_clearBad s.resid [a] fun c hc => hx c (by simp_all)
      · rw [k.rest]; rfl

/-! ### A write of the machine -/

/-- New lags of several paths whose outermost views differ. -/
theorem State.lagAt_flatMap_lagsOf (s : State) {α : Type} (f : α → List Nat) (g : α → List Nat) (xs : List α) (v a : Nat) :
    (∀ x ∈ xs, (f x).head? = some v → a ∉ g x) → lagAt (xs.flatMap fun x => s.lagsOf (f x) (g x)) v a = none := by
  induction xs with
  | nil => intro _; rfl
  | cons x xs ih =>
    intro h
    rw [List.flatMap_cons, lagAt_append, ih fun y hy => h y (List.mem_cons_of_mem _ hy), State.lagAt_lagsOf, if_neg]
    · rfl
    · exact fun e => h x (List.mem_cons_self ..) e.1 e.2

theorem State.lagAt_flatMap_of_mem (s : State) {α : Type} (f : α → List Nat) (g : α → List Nat) {xs : List α} {v a : Nat} {x : α}
    (hx : x ∈ xs) (hv : (f x).head? = some v) (ha : a ∈ g x) (hu : ∀ y ∈ xs, (f y).head? = some v → f y = f x) :
    lagAt (xs.flatMap fun x => s.lagsOf (f x) (g x)) v a = some (s.see (f x) a) := by
  induction xs with
  | nil => cases hx
  | cons y ys ih =>
    rw [List.flatMap_cons, lagAt_append, State.lagAt_lagsOf]
    by_cases hy : (f y).head? = some v ∧ a ∈ g y
    · rw [if_pos hy, hu y (List.mem_cons_self ..) hy.1]; rfl
    · rw [if_neg hy, Option.none_or]
      rcases List.mem_cons.mp hx with rfl | hm
      · exact absurd ⟨hv, ha⟩ hy
      · exact ih hm fun z hz => hu z (List.mem_cons_of_mem _ hz)

theorem Via.path_lt (k : Via) {w v : Nat} (hw : w < 4) (h : v ∈ k.path w) : v < 6 := by
  cases k <;> simp only [Via.path] at h <;> split at h <;> simp [viewUnit, viewCopy] at h <;> omega

theorem Via.behind_head (k : Via) {w v : Nat} (hw : w < 4) {vs : List Nat} (h : vs ∈ k.behind w) (hv : vs.head? = some v) :
    v < 6 ∧ vs = if v = viewUnit then [viewUnit, 2] else [v] := by
  obtain rfl | rfl | rfl | rfl : w = 0 ∨ w = 1 ∨ w = 2 ∨ w = 3 := by omega
  all_goals cases k <;> simp [Via.behind] at h <;> (try rcases h with rfl | rfl | rfl) <;> simp_all [viewUnit, viewCopy]
  all_goals subst hv; simp

theorem fetchPath_head (n o : Nat) : (fetchPath n o).head? = some (viewFetch n o) := by
  rw [fetchPath]
  split
  · rename_i h; rw [h]; rfl
  · rfl

/-- A core's fetch view of window `o` is no view of a path or of what a write leaves behind. -/
theorem viewFetch_ge (n o : Nat) : 16 ≤ viewFetch n o := by rw [viewFetch]; omega

/-- A write through a path ends no lag of this view. -/
def Via.spares (k : Via) (w v : Nat) : Prop := ¬ (k = .core ∧ w = 2 ∧ v = viewUnit) ∧ ¬ (k = .stream ∧ w = 0 ∧ v = viewCopy)

theorem Via.ends_view {k : Via} {w : Nat} {as : List Nat} {l : Lag} (h : k.ends w as l = true) : ¬ k.spares w l.view := by
  rw [Via.ends, Bool.and_eq_true, decide_eq_true_eq] at h
  rintro ⟨h1, h2⟩
  exact h.1.elim h1 h2

/-- The cells of a write that reach memory: no view of its path lags there. -/
def State.landing (s : State) (vs as : List Nat) : List Nat := as.filter fun a => vs.all fun v => (lagAt s.lags v a).isNone

theorem State.mem_landing {s : State} {vs as : List Nat} {a : Nat} : a ∈ s.landing vs as ↔ a ∈ as ∧ ∀ v ∈ vs, lagAt s.lags v a = none := by
  simp [State.landing]

/-- What a view sees of a cell after `put`: what it lagged by, else the old bytes of the paths behind and of the fetches. -/
theorem State.lagAt_put (s : State) (k : Via) (n w : Nat) (as : List Nat) (bs : List Byte) (v a : Nat) :
    lagAt (s.put k n w as bs).lags v a
      = (lagAt ((s.writeSeen (k.path w) as bs).lags.filter fun l => !k.ends w as l) v a).or
        ((lagAt ((k.behind w).flatMap fun vs =>
            s.lagsOf vs (if vs = [viewCopy] then (s.landing (k.path w) as).filter isScratch else s.landing (k.path w) as)) v a).or
          (lagAt ((if w = 0 then [0] else [1, 2, 3]).flatMap fun o => s.lagsOf (fetchPath n o) as) v a)) := by
  rw [State.put, lagAt_append, lagAt_append, Option.or_assoc]; rfl

theorem State.lagAt_fetches (s : State) (n w : Nat) (as : List Nat) {v a : Nat} (h : v < 16 ∨ a ∉ as) :
    lagAt ((if w = 0 then [0] else [1, 2, 3]).flatMap fun o => s.lagsOf (fetchPath n o) as) v a = none := by
  refine State.lagAt_flatMap_lagsOf s (fetchPath n) (fun _ => as) _ v a fun o _ e => h.elim (fun h => ?_) id
  rw [fetchPath_head, Option.some.injEq] at e
  have := viewFetch_ge n o
  omega

theorem State.lagAt_behind (s : State) (k : Via) {w : Nat} (hw : w < 4) (as : List Nat) {v a : Nat}
    (h : 6 ≤ v ∨ a ∉ s.landing (k.path w) as ∨ ∀ vs ∈ k.behind w, vs.head? ≠ some v) :
    lagAt ((k.behind w).flatMap fun vs =>
      s.lagsOf vs (if vs = [viewCopy] then (s.landing (k.path w) as).filter isScratch else s.landing (k.path w) as)) v a = none := by
  refine State.lagAt_flatMap_lagsOf s id
    (fun vs => if vs = [viewCopy] then (s.landing (k.path w) as).filter isScratch else s.landing (k.path w) as) _ v a fun vs hvs hh => ?_
  rcases h with h | h | h
  · have := (k.behind_head hw hvs hh).1
    omega
  · split
    · exact fun e => h (List.mem_filter.mp e).1
    · exact h
  · exact absurd hh (h vs hvs)

/-- A view that a write spares keeps what it lags by, but for what the write puts into it. -/
theorem State.lagAt_spared {t : State} {k : Via} {w : Nat} {as : List Nat} {v : Nat} (a : Nat) (h : k.spares w v) :
    lagAt (t.lags.filter fun l => !k.ends w as l) v a = lagAt t.lags v a := by
  refine lagAt_filter fun l _ hv _ => ?_
  by_contra e
  exact Via.ends_view (as := as) (l := l) (by simpa using e) (hv ▸ h)

section
variable {s : State} {k : Via} {n w : Nat} {as : List Nat} {bs : List Byte}

/-- Outside the cells of a write, a view that it spares sees what it saw. -/
theorem State.lagAt_put_out (hw : w < 4) (hn : as.Nodup) (hl : as.length = bs.length) {v a : Nat} (ha : a ∉ as) (hk : k.spares w v) :
    lagAt (s.put k n w as bs).lags v a = lagAt s.lags v a := by
  rw [State.lagAt_put, State.lagAt_spared a hk, (s.writeSeen_spec (k.path w) as bs hn hl).views v a (.inr ha),
    s.lagAt_behind k hw as (.inr (.inl fun e => ha (State.mem_landing.mp e).1)), s.lagAt_fetches n w as (.inr ha)]
  simp

/-- A view of the path lags as the bytes written through it say. -/
theorem State.lagAt_put_path (hw : w < 4) {v : Nat} (a : Nat) (hv : v < 16) (hb : ∀ vs ∈ k.behind w, vs.head? ≠ some v) (hk : k.spares w v) :
    lagAt (s.put k n w as bs).lags v a = lagAt (s.writeSeen (k.path w) as bs).lags v a := by
  rw [State.lagAt_put, State.lagAt_spared a hk, s.lagAt_behind k hw as (.inr (.inr hb)), s.lagAt_fetches n w as (.inl hv)]
  simp

/-- A path whose view the write leaves alone sees what it saw: it lagged, or lags from now on, or the write did not reach memory. -/
theorem State.see_put_same (hn : as.Nodup) (hl : as.length = bs.length) {vs : List Nat} {v a : Nat}
    (hh : vs.head? = some v) (hv : v ∉ k.path w) (hk : k.spares w v)
    (hb : a ∈ as → lagAt s.lags v a = none → lagAt (s.put k n w as bs).lags v a = some (s.see vs a)
        ∨ lagAt (s.put k n w as bs).lags v a = none ∧ (∃ x ∈ k.path w, (lagAt s.lags x a).isSome) ∧ vs = [v])
    (ho : a ∉ as → ∀ x ∈ vs, lagAt (s.put k n w as bs).lags x a = lagAt s.lags x a) :
    (s.put k n w as bs).see vs a = s.see vs a := by
  have q := s.writeSeen_spec (k.path w) as bs hn hl
  by_cases ha : a ∈ as
  · obtain ⟨vs', rfl⟩ : ∃ vs', vs = v :: vs' := by cases vs <;> simp_all
    cases hs : lagAt s.lags v a with
    | some b =>
      have e := s.lagAt_put k n w as bs v a
      rw [State.lagAt_spared a hk, q.views v a (.inl hv), hs] at e
      rw [State.see_cons, State.see_cons, e, hs]; rfl
    | none =>
      rcases hb ha hs with e | ⟨e, hx, h1⟩
      · rw [State.see_cons, e]; rfl
      · obtain rfl : vs' = [] := by simpa using h1
        rw [State.see_cons, State.see_cons, e, hs, State.see_nil, State.see_nil]
        exact q.cells a (.inr hx)
  · exact State.see_congr (ho ha) (q.cells a (.inl ha))

/-- A path that the write leaves behind lags from now on. -/
theorem State.lagAt_put_behind (hw : w < 4) (hn : as.Nodup) (hl : as.length = bs.length) {vs : List Nat} {v a : Nat} (hvs : vs ∈ k.behind w)
    (hh : vs.head? = some v) (ha : a ∈ as) (hland : ∀ x ∈ k.path w, lagAt s.lags x a = none) (hsc : vs = [viewCopy] → isScratch a = true)
    (hk : k.spares w v) (hv : v ∉ k.path w) (hs : lagAt s.lags v a = none) :
    lagAt (s.put k n w as bs).lags v a = some (s.see vs a) := by
  have hin := State.mem_landing.mpr ⟨ha, hland⟩
  have hg : a ∈ if vs = [viewCopy] then (s.landing (k.path w) as).filter isScratch else s.landing (k.path w) as := by
    split
    · rename_i h; exact List.mem_filter.mpr ⟨hin, hsc h⟩
    · exact hin
  have := State.lagAt_flatMap_of_mem s id (fun vs => if vs = [viewCopy] then (s.landing (k.path w) as).filter isScratch
    else s.landing (k.path w) as) hvs hh hg fun y hy hyv => (k.behind_head hw hy hyv).2.trans (k.behind_head hw hvs hh).2.symm
  rw [State.lagAt_put, State.lagAt_spared a hk, (s.writeSeen_spec (k.path w) as bs hn hl).views v a (.inl hv), hs, Option.none_or]
  simp only [id] at this ⊢
  rw [this]; rfl

end

/-- `put` writes through the path of its window, and what need not see the write goes on seeing what it saw. -/
theorem State.put_spec (s : State) (k : Via) {n w : Nat} {as : List Nat} {bs : List Byte} (hw : w < 4) (hn : as.Nodup)
    (hl : as.length = bs.length) : Put s k n w as bs (s.put k n w as bs) := by
  have q := s.writeSeen_spec (k.path w) as bs hn hl
  -- the path itself
  have hpath (v : Nat) (hv : v ∈ k.path w) (a : Nat) :
      lagAt (s.put k n w as bs).lags v a = lagAt (s.writeSeen (k.path w) as bs).lags v a := by
    refine State.lagAt_put_path hw a (by have := k.path_lt hw hv; omega) ?_ ?_
    · obtain rfl | rfl | rfl | rfl : w = 0 ∨ w = 1 ∨ w = 2 ∨ w = 3 := by omega
      all_goals cases k <;> simp [Via.path, Via.behind, viewUnit, viewCopy] at hv ⊢ <;> omega
    · constructor <;> rintro ⟨rfl, rfl, rfl⟩ <;> simp [Via.path, viewUnit, viewCopy] at hv
  have hsee (a : Nat) (_ : a ∈ as) : (s.put k n w as bs).see (k.path w) a = (s.writeSeen (k.path w) as bs).see (k.path w) a :=
    State.see_congr (fun v hv => hpath v hv a) rfl
  have hseen : as.map ((s.put k n w as bs).see (k.path w)) = bs := (List.map_congr_left hsee).trans q.seen
  have hwin {o : Nat} (ho : o ∈ [1, 2, 3]) : k.spares w o ∧ o < 6 ∧ (o ≠ w → o ∉ k.path w ∧ (w ≠ 0 → [o] ∈ k.behind w)) := by
    obtain rfl | rfl | rfl | rfl : w = 0 ∨ w = 1 ∨ w = 2 ∨ w = 3 := by omega
    all_goals
      simp only [List.mem_cons, List.not_mem_nil, or_false] at ho
      rcases ho with rfl | rfl | rfl <;> cases k <;> simp [Via.spares, Via.path, Via.behind, viewUnit, viewCopy]
  refine ⟨hseen, fun h => ?_, fun a ha => q.cells a (.inl ha), fun h0 o ho hne a => ?_, fun o ho a => ?_, ?_, ?_, ?_,
    fun v a ha h5 h4 => State.lagAt_put_out hw hn hl ha ⟨fun e => h5 e.2.2, fun e => h4 e.2.2⟩, q.marks, ?_⟩
  · refine Eq.trans (List.map_congr_left fun a ha => ?_) q.seen
    refine (State.see_none (s := s.writeSeen (k.path w) as bs) fun v hv => ?_).symm
    have := q.lagging v a
    rw [h v hv a ha] at this
    simpa using this
  · obtain ⟨hk, -, hr⟩ := hwin ho
    obtain ⟨hp, hb⟩ := hr hne
    refine State.see_put_same hn hl rfl hp hk (fun ha hs => ?_) fun ha x hx => ?_
    · by_cases hl' : ∀ x ∈ k.path w, lagAt s.lags x a = none
      · exact .inl (State.lagAt_put_behind hw hn hl (hb h0) rfl ha hl' (fun e => by
          simp only [List.cons.injEq, and_true] at e
          simp [e, viewCopy] at ho) hk hp hs)
      · refine .inr ⟨?_, ?_, rfl⟩
        · rw [State.lagAt_put, State.lagAt_spared a hk, q.views o a (.inl hp), hs,
            s.lagAt_behind k hw as (.inr (.inl fun e => hl' (State.mem_landing.mp e).2)),
            s.lagAt_fetches n w as (.inl (by have := hwin ho; omega))]
          rfl
        · simp only [not_forall] at hl'
          obtain ⟨x, hx, e⟩ := hl'
          exact ⟨x, hx, Option.isSome_iff_ne_none.mpr e⟩
    · obtain rfl : x = o := by simpa using hx
      exact State.lagAt_put_out hw hn hl ha hk
  · have hge := viewFetch_ge n o
    have hk : k.spares w (viewFetch n o) :=
      ⟨fun e => by have := e.2.2; simp [viewUnit] at this; omega, fun e => by have := e.2.2; simp [viewCopy] at this; omega⟩
    have hp : viewFetch n o ∉ k.path w := fun e => by have := k.path_lt hw e; omega
    refine State.see_put_same hn hl (fetchPath_head n o) hp hk (fun ha hs => .inl ?_) fun ha x hx => ?_
    · rw [State.lagAt_put, State.lagAt_spared a hk, q.views _ a (.inl hp), hs, s.lagAt_behind k hw as (.inl (by omega)),
        State.lagAt_flatMap_of_mem s (fetchPath n) (fun _ => as) ho (fetchPath_head n o) ha fun y _ hy => ?_]
      · rfl
      · rw [fetchPath_head, Option.some.injEq, viewFetch, viewFetch] at hy
        rw [show y = o by omega]
    · by_cases hv : x = viewFetch n o
      · exact hv ▸ State.lagAt_put_out hw hn hl ha hk
      · refine State.lagAt_put_out hw hn hl ha (hwin (o := x) ?_).1
        rw [fetchPath] at hx
        split at hx
        · rename_i h0
          simp [h0] at hx hv
          exact absurd hx hv
        · obtain rfl : x = o := by simpa [hv] using hx
          split at ho
          · simp_all
          · exact ho
  · rintro rfl rfl a ha
    refine State.see_put_same hn hl rfl (by simp [Via.path]) (by simp [Via.spares]) (fun hm hs => .inl ?_) fun hm x hx => ?_
    · exact State.lagAt_put_behind hw hn hl (by simp [Via.behind]) rfl hm (by simp [Via.path]) (fun _ => ha) (by simp [Via.spares])
        (by simp [Via.path]) hs
    · exact State.lagAt_put_out hw hn hl hm (by simp [Via.spares])
  · intro hk h0 hl' a
    have hp : k.path w = [w] := by rcases hk with rfl | rfl <;> simp [Via.path, h0]
    have hsp (v : Nat) : k.spares w v := by rcases hk with rfl | rfl <;> simp [Via.spares, h0]
    have hne : viewUnit ∉ k.path w := by rw [hp]; simp [viewUnit]; omega
    refine State.see_put_same hn hl rfl hne (hsp _) (fun hm hs => .inl ?_) fun hm x _ => State.lagAt_put_out hw hn hl hm (hsp x)
    refine State.lagAt_put_behind hw hn hl ?_ rfl hm (by rw [hp]; simpa using hl' a hm) (by simp) (hsp _) hne hs
    rcases hk with rfl | rfl <;> simp [Via.behind, h0]
  · rintro rfl rfl
    refine Eq.trans (List.map_congr_left fun a ha => ?_) hseen
    have hnone : lagAt (s.put .core n 2 as bs).lags viewUnit a = none := by
      rw [State.lagAt_put, s.lagAt_behind .core hw as (.inr (.inr (by simp [Via.behind, viewUnit]))),
        s.lagAt_fetches n 2 as (.inl (by simp [viewUnit])), Option.or_none, Option.or_none]
      refine lagAt_none fun l hm hv hc => ?_
      obtain ⟨-, he⟩ := List.mem_filter.mp hm
      obtain ⟨p, hp, hpa⟩ := List.mem_map.mp hc
      rw [Via.ends] at he
      simp only [hv, and_self, reduceCtorEq, false_and, or_false, decide_true, Bool.true_and, Bool.not_eq_true',
        List.any_eq_false, Bool.not_eq_true] at he
      simpa [hpa] using he p hp a ha
    rw [State.see_cons, hnone]; rfl
  · show s.put k n w as bs = _
    rw [State.put]
    have := q.rest
    generalize s.writeSeen (k.path w) as bs = t at this ⊢
    rw [this]

/-- What a write through a path does to memory and its metadata, whatever its cells. -/
theorem State.memOk_writeSeen {s : State} (vs as : List Nat) (bs : List Byte) (h : Memory.wf s.mem = true) :
    Memory.wf (s.writeSeen vs as bs).mem = true := by
  induction as generalizing s bs with
  | nil => cases bs <;> exact h
  | cons a as ih =>
    cases bs with
    | nil => exact h
    | cons b bs =>
      rw [State.writeSeen]
      split
      · exact ih bs h
      · exact ih bs (State.memOk_writeMem [a] [b] h)

/-- Every write keeps the canonical form of memory. -/
theorem State.memOk_put {s : State} (k : Via) (n w : Nat) (as : List Nat) (bs : List Byte) (h : Memory.wf s.mem = true) :
    Memory.wf (s.put k n w as bs).mem = true := State.memOk_writeSeen (k.path w) as bs h

theorem State.windowOf_lt (s : State) (pa : Nat) : s.windowOf pa < 4 := by
  unfold State.windowOf
  split <;> (try split) <;> (try split) <;> omega

/-- The window of a write counts only where it has one. -/
theorem OnlyCounted.see {s t : State} (h : OnlyCounted s t) (vs : List Nat) (a : Nat) : t.see vs a = s.see vs a := by rw [h]; rfl

end Sys2Proof.Machine
end

