-- ==== Sys2Proof/Laws/CoreMem.lean ====
section
/-! SUPPORT. What a core's access to plain memory does, once for the loads, the stores and the atomics. -/

namespace Sys2Proof.Machine

/-! ### Counters -/

@[simp] theorem State.countMem_me (s : State) (as : List Nat) (w : Bool) : (s.countMem as w).me = s.me := (s.countMem_only as w).me
@[simp] theorem State.countMem_core (s : State) (as : List Nat) (w : Bool) (j : Nat) : (s.countMem as w).core j = s.core j :=
  (s.countMem_only as w).core j
@[simp] theorem State.countMem_readCell (s : State) (as : List Nat) (w : Bool) (a : Nat) : (s.countMem as w).readCell a = s.readCell a :=
  (s.countMem_only as w).readCell a
@[simp] theorem State.countMem_cur (s : State) (as : List Nat) (w : Bool) : (s.countMem as w).cur = s.cur := (s.countMem_only as w).cur
@[simp] theorem State.countMem_resid (s : State) (as : List Nat) (w : Bool) : (s.countMem as w).resid = s.resid :=
  (s.countMem_only as w).resid
@[simp] theorem State.countMem_lags (s : State) (as : List Nat) (w : Bool) : (s.countMem as w).lags = s.lags :=
  (s.countMem_only as w).lags

/-! ### Residues (R50, R352) -/

theorem State.badWords_none {s : State} {pas : List Nat} (h : s.badPa pas = none) : s.badWords pas = [] := by
  have : pas.filter s.badAddr = [] := by
    rw [List.filter_eq_nil_iff]
    exact List.find?_eq_none.mp h
  rw [State.badWords, this]; rfl

theorem State.checkRead_none {s : State} {n : Nat} {pas : List Nat} (h : s.badPa pas = none) : s.checkRead n pas = s := by
  rw [State.checkRead, State.badWords_none h]; rfl

theorem OnlyCounted.badPa {s t : State} (h : OnlyCounted s t) (pas : List Nat) : t.badPa pas = s.badPa pas := by rw [h]; rfl

/-! ### Accesses -/

/-- The part of a plain access that says where it goes. -/
theorem State.liveCells_eq {s : State} {pa z : Nat} {as : List Nat} (hh : s.heldBy pa = none) (hc : s.cells pa z = some as) :
    s.liveCells pa z = some as := by
  rw [State.liveCells, hh, hc]; rfl

/-- A load of plain memory counts its walk and its bytes, and answers what the window's path sees in the cells. -/
theorem State.loadBytes_plain {s : State} {ea : W64} {z pa : Nat} {as : List Nat} (ha : ea.toNat % z = 0)
    (ht : s.coreVa s.cur .load ea.toNat = some pa) (hd : isDisp pa = false) (hf : isFabric pa = false) (hh : s.heldBy pa = none)
    (hc : s.cells pa z = some as) (hb : s.badPa (cellRun pa z) = none) :
    ∃ u, OnlyCounted s u ∧ s.loadBytes ea z = .ok u (as.map (s.see (Via.core.path (s.windowOf pa)))) := by
  have hw := s.coreWalk_only ea.toNat z
  refine ⟨(s.coreWalk ea.toNat z).countMem as false, hw.trans (State.countMem_only _ _ _), ?_⟩
  unfold State.loadBytes
  rw [if_neg (by simpa using ha), ht]
  simp only [hd, hf, Bool.false_eq_true, if_false]
  rw [State.liveCells_eq hh hc]
  dsimp only
  rw [State.checkRead_none (by rw [hw.badPa]; exact hb)]
  rfl

/-- A store of plain memory counts its walk, is written through its window, and is counted. -/
theorem State.storeBytes_plain {s : State} {ea : W64} {bs : List Byte} {pa : Nat} {as : List Nat} (ha : ea.toNat % bs.length = 0)
    (ht : s.coreVa s.cur .store ea.toNat = some pa) (hd : isDisp pa = false) (hf : isFabric pa = false) (hh : s.heldBy pa = none)
    (hc : s.cells pa bs.length = some as) (hb : s.badPa (cellRun pa bs.length) = none) :
    ∃ u, OnlyCounted s u ∧ s.storeBytes ea bs = .ok ((u.put .core s.cur (s.windowOf pa) as bs).countMem as true) [] := by
  have hw := s.coreWalk_only ea.toNat bs.length
  refine ⟨s.coreWalk ea.toNat bs.length, hw, ?_⟩
  unfold State.storeBytes
  dsimp only
  rw [if_neg (by simpa using ha), ht]
  simp only [hd, hf, Bool.false_eq_true, if_false]
  rw [State.liveCells_eq hh hc]
  simp only [State.checkRead_none (show (s.coreWalk ea.toNat bs.length).badPa (cellRun pa bs.length) = none by rw [hw.badPa]; exact hb),
    ite_self]

/-- Counting before a write changes nothing else about it. -/
theorem Put.of_counted {s u t : State} {k : Via} {n w : Nat} {as : List Nat} {bs : List Byte} (h : OnlyCounted s u)
    (p : Put u k n w as bs t) : Put s k n w as bs { t with perf := s.perf } := by
  have hs (vs : List Nat) (a : Nat) : u.see vs a = s.see vs a := h.see vs a
  obtain ⟨h1, h2, h3, h4, h5, h6, h7, h8, h9, h10, h11⟩ := p
  simp only [hs, h.readCell, h.lags, h.resid] at h2 h3 h4 h5 h6 h7 h9 h10
  refine ⟨h1, h2, h3, h4, h5, h6, h7, h8, h9, h10, ?_⟩
  rw [OnlyCounted] at h
  rw [h11, h]

/-- A store that has been performed, followed by the pc's advance, stores its bytes and nothing else. -/
theorem State.stored_skip {s u : State} {pa w : Nat} {as : List Nat} {bs : List Byte} (n : Nat) (hu : OnlyCounted s u) (hw : w < 4)
    (hc : s.cells pa bs.length = some as) (hz : bs.length ≤ 2 ^ 16) :
    Stored s w as bs n (((u.put .core s.cur w as bs).countMem as true).skip n) := by
  have hp := u.put_spec .core (n := s.cur) hw (State.nodup_cells hc hz) (State.length_cells hc)
  generalize u.put .core s.cur w as bs = v at hp ⊢
  have hv := v.countMem_only as true
  have hcur : (v.countMem as true).cur = s.cur := by rw [hv.cur, hp.rest]; exact hu.cur
  have hcore (j : Nat) : (v.countMem as true).core j = s.core j := by
    rw [hv.core, ← hu.core j, hp.rest]; rfl
  have hme : (v.countMem as true).me = s.me := by rw [State.me, hcur, hcore]; rfl
  refine ⟨⟨_, hp.of_counted hu, ?_⟩, ?_, fun j h => ?_⟩
  · have h1 : OnlyCounted v (v.countMem as true) := hv
    rw [OnlyCounted] at h1
    rw [State.skip]
    generalize v.countMem as true = x at h1 ⊢
    rw [h1]; rfl
  · rw [State.skip, State.me_setMe, hme]; rfl
  · rw [State.skip, State.core_setMe_ne _ _ (by rw [hcur]; exact h), hcore]

/-- The bytes of a number, one by one. -/
theorem leBytes_eq (n v : Nat) : leBytes n v = (List.range n).map fun i => BitVec.ofNat 8 (v / 256 ^ i) := by
  induction n generalizing v with
  | zero => rfl
  | succ n ih =>
    rw [leBytes, ih, List.range_succ_eq_map, List.map_cons, List.map_map]
    congr 1
    · simp
    · apply List.map_congr_left
      intro i _
      simp [Nat.pow_succ, Nat.div_div_eq_div_mul, Nat.mul_comm]

@[simp] theorem length_leBytes (n v : Nat) : (leBytes n v).length = n := by simp [leBytes_eq]

theorem formAddr_eq (s : State) (ra : SReg) (off : Option (BitVec 32)) : s.ea ra off = s.formAddr ra off := by
  cases off with
  | none => simp [State.ea, State.formAddr]
  | some o => rfl

theorem formLen_eq (off : Option (BitVec 32)) : formLen off = formBytes off := rfl

/-- `loadForm` from plain memory. -/
theorem State.loadForm_plain {s : State} {z w : Nat} {sgn : Bool} {rd : DReg} {ra : SReg} {m : MArgs} {off : Option (BitVec 32)}
    {as : List Nat} (h : PlainAccess s m .load (s.formAddr ra off) z w as) :
    ∃ u, OnlyCounted s u
      ∧ s.loadForm z sgn rd ra m off = .next (u.finish rd (extendTo z sgn (leNat (as.map (s.see (Via.core.path w))))) (formBytes off)) := by
  obtain ⟨hw, ha, pa, ht, hd, hf, hh, hc, rfl, hb⟩ := h
  obtain ⟨u, hu, e⟩ := State.loadBytes_plain ha ht hd hf hh hc hb
  refine ⟨u, hu, ?_⟩
  unfold State.loadForm
  dsimp only
  rw [hw, formAddr_eq, e]
  rfl

/-- `storeForm` to plain memory. -/
theorem State.storeForm_plain {s : State} {z w : Nat} {rs ra : SReg} {m : MArgs} {off : Option (BitVec 32)} {as : List Nat}
    (h : PlainAccess s m .store (s.formAddr ra off) z w as) :
    ∃ u, OnlyCounted s u ∧ s.storeForm z rs ra m off
      = .next (((u.put .core s.cur w as (leBytes z (s.readS rs).toNat)).countMem as true).skip (formBytes off)) := by
  obtain ⟨hw, ha, pa, ht, hd, hf, hh, hc, rfl, hb⟩ := h
  obtain ⟨u, hu, e⟩ := State.storeBytes_plain (bs := leBytes z (s.readS rs).toNat) (as := as) (by simpa using ha) ht hd hf hh
    (by simpa using hc) (by simpa using hb)
  refine ⟨u, hu, ?_⟩
  unfold State.storeForm
  dsimp only
  rw [hw, formAddr_eq, e]
  rfl

/-- What a loaded number becomes: sign- or zero-extended (R282). -/
theorem extendTo_eq (z : Nat) (sgn : Bool) (bs : List Byte) (hz : 0 < z) (hz8 : z ≤ 8) (hl : leNat bs < 2 ^ (8 * z)) :
    extendTo z sgn (leNat bs)
      = if sgn then (BitVec.ofNat (8 * z) (leNat bs)).signExtend 64 else (BitVec.ofNat (8 * z) (leNat bs)).setWidth 64 := by
  have hp : (2 : Nat) ^ (8 * z) = 2 * 2 ^ (8 * z - 1) := by
    conv => lhs; rw [show 8 * z = (8 * z - 1) + 1 by omega, Nat.pow_succ]
    omega
  cases sgn with
  | false =>
    rw [extendTo, if_neg Bool.false_ne_true, if_neg Bool.false_ne_true]
    apply BitVec.eq_of_toNat_eq
    simp only [BitVec.toNat_ofNat, BitVec.toNat_setWidth]
    rw [Nat.mod_eq_of_lt hl]
  | true =>
    rw [extendTo, if_pos rfl, if_pos rfl, BitVec.signExtend]
    congr 1
    rw [BitVec.toInt_eq_toNat_cond, BitVec.toNat_ofNat, Nat.mod_eq_of_lt hl, signedOf]
    split <;> split <;> first | rfl | omega

theorem leNat_lt (bs : List Byte) : leNat bs < 2 ^ (8 * bs.length) := by
  induction bs with
  | nil => simp [leNat]
  | cons b bs ih =>
    have hb : b.toNat < 256 := b.isLt
    rw [leNat, List.length_cons, Nat.mul_add, Nat.pow_add]
    omega

end Sys2Proof.Machine
end

