-- ==== Sys2Proof/Tests/Slice0.lean ====
section
/-! SUPPORT. Small tests: what WellFormed refuses, words written out from the encoding tables and what they decode to, one step at a time on
small states with results worked out by hand from the manual's rules, and a witness for the hypotheses of each claim. -/

open Sys2Proof Sys2Proof.Machine

-- One test at a time: each runs in the kernel, and all of them at once would need a thread each.
set_option Elab.async false

/-! ## Well-formed instructions (R55, R64, R69, R73) -/

/-- g0 is no register of a pair; the pair of w0 is one. -/
theorem test_wf_pair : (Instr.ldp (.g 0) (.g 1) ⟨0, .pkg, false⟩).wf = false ∧ (Instr.ldpExt (.g 0) (.g 1) ⟨0, .pkg, false⟩ 0).wf = false
    ∧ (Instr.stp (.g 0) (.g 1) ⟨0, .pkg, false⟩).wf = false ∧ (Instr.stpExt (.g 0) (.g 1) ⟨0, .pkg, false⟩ 0).wf = false
    ∧ (Instr.ldp (.w 0) (.g 1) ⟨0, .pkg, false⟩).wf = true := by decide
/-- An element word refuses a destination, a source or a missing source that its shape does not accept. -/
theorem test_wf_element : (Instr.addI32 ⟨.p 0, .v 0, .v 1, .none, .always⟩).wf = false ∧ (Instr.addI32 ⟨.v 0, .p 0, .v 1, .none, .always⟩).wf = false
    ∧ (Instr.addI32 ⟨.v 0, .v 0, .none, .none, .always⟩).wf = false ∧ (Instr.addI32 ⟨.v 0, .v 0, .v 1, .v 2, .always⟩).wf = false
    ∧ (Instr.pshift ⟨.v 0, .p 1, .lit 0, .none, .always⟩).wf = false ∧ (Instr.addI32 ⟨.v 0, .v 0, .v 1, .none, .m6⟩).wf = true := by decide

/-- A plain N-word, for the tests of its reserved codes. -/
def plainN : NArgs := ⟨0, 0, 0, 0, 0, 0, 0, 0, 0, 0, 0, 0, 0, 0, 0, 0, 0, 0⟩
/-- An N-word refuses each reserved code of R72, and a loop counter in a word that ends (R73). -/
theorem test_wf_nword : plainN.wf = true ∧ ([{ plainN with seq := 6 }, { plainN with cond := 6 }, { plainN with loopOp := 3 },
      { plainN with agaMode := 5 }, { plainN with agbMode := 5 }, { plainN with rd := 3 }, { plainN with wr := 3 }, { plainN with alu := 18 },
      { plainN with srcA := 19 }, { plainN with srcB := 19 }, { plainN with dst := 18 }, { plainN with res := 4 }, { plainN with post := 3 },
      { plainN with seq := 5, loopOp := 1 }] : List NArgs).all (fun w => !w.wf) = true := by decide

/-! ## Words written out from the encoding tables (R54-R75) -/

/-- Form R, I and M of C-words, and a two-word form (R57, R58): ADDI g1, g0, 0; ST.64 g5, [g4] at release; COPY; AMOADD. -/
theorem test_decode_core : decodeC 0x20080000 0 = some (.addi (.g 1) (.g 0) 0)
    ∧ decodeC 0x7628800E 0 = some (.st64 (.g 5) (.g 4) ⟨0, .pkg, true⟩)
    ∧ decodeC 0x7C20A326 0 = some (.copy (.g 4) (.g 5) (.g 6) 2 .pkg)
    ∧ decodeC 0x800841B8 0 = some (.amoadd (.g 1) (.g 2) (.g 3) ⟨.pkg, true, .relaxed⟩)
    ∧ decodeC 0x94000030 0 = some (.fence .pkg) := by decide
/-- Calls, waits, system registers (R57). -/
theorem test_decode_control : decodeC 0x46100004 0 = some (.call .f16 2) ∧ decodeC 0x4C000000 0 = some .ret
    ∧ decodeC 0xEA000008 0 = some (.waitt 4) ∧ decodeC 0xE6000000 0 = some .treen ∧ decodeC 0xE0280010 0 = some (.mfsr (.g 5) 8) := by decide
/-- Phases, snapshots, configuration, near memory (R57). -/
theorem test_decode_system : decodeC 0xDC008000 0 = some (.snap (.g 4)) ∧ decodeC 0xDE308000 0 = some (.snaprd (.g 6) (.g 4))
    ∧ decodeC 0xCA008280 0 = some (.phset (.g 4) (.g 5)) ∧ decodeC 0xC6008000 0 = some (.nmcall (.g 4))
    ∧ decodeC 0xC0008000 0 = some (.tload (.g 4)) ∧ decodeC 0xAE008280 0 = some (.ctxload (.g 4) (.g 5)) := by decide
/-- Factor stores and block tables (R57, R359, R221). -/
theorem test_decode_factor : decodeC 0xC8310480 0 = some (.fsinit (.g 6) (.g 8) (.g 9)) ∧ decodeC 0xC830A202 0 = some (.fsupd (.g 6) (.g 5) (.g 4))
    ∧ decodeC 0xC8314006 0 = some (.fssolve (.g 6) (.g 10)) ∧ decodeC 0xD0308280 0 = some (.btalloc (.g 6) (.g 4) (.g 5))
    ∧ decodeC 0xDA308280 0 = some (.swbind (.g 6) (.g 4) (.g 5)) := by decide
/-- Element words of integers, conversions, compares and masks (R64). -/
theorem test_decode_element : decodeE 0x0B8D07EC00 = some (.addsI32 ⟨.s 3, .s 1, .lit (-5), .none, .always⟩)
    ∧ decodeE 0xA014CC0408 = some (.eSel ⟨.v 5, .m 3, .v 1, .v 2, .always⟩) ∧ decodeE 0xA7DC0E0800 = some (.cmpltF32 ⟨.m 7, .v 3, .k 2, .none, .always⟩)
    ∧ decodeE 0xF0F4000000 = some (.eNop ⟨.null, .none, .none, .none, .always⟩) := by decide
/-- `cvt.e4m3.f32.sat` into byte 2 under m6, `exitf m5`, `lane v0, 0`, `kbsel 2`, `mov le, v4` (R61-R64). -/
theorem test_decode_special : decodeE 0x5918130819 = some (.cvtE4m3F32Sat ⟨.v 6, .v 4, .lit 2, .v 6, .m6⟩)
    ∧ decodeE 0xAFF4D40000 = some (.exitf ⟨.null, .m 5, .none, .none, .always⟩)
    ∧ decodeE 0xF203000000 = some (.lane ⟨.v 0, .lit 0, .none, .none, .always⟩)
    ∧ decodeE 0xF6F7080000 = some (.kbsel ⟨.null, .lit 2, .none, .none, .always⟩)
    ∧ decodeE 0xF1E4100000 = some (.eMov ⟨.link 1, .v 4, .none, .none, .always⟩) := by decide
/-- `lrecv v3, w`, `stin v8, 2`, `lpoll s2, n` (R64, R188). -/
theorem test_decode_receive : decodeE 0xB00F180000 = some (.lrecv ⟨.v 3, .lit 6, .none, .none, .always⟩)
    ∧ decodeE 0xB123080000 = some (.stin ⟨.v 8, .lit 2, .none, .none, .always⟩)
    ∧ decodeE 0xB28B000000 = some (.lpoll ⟨.s 2, .lit 0, .none, .none, .always⟩) := by decide
/-- `pshift p3, p3, nw`, `rule p4, p0, p15, k2`, `pquiet p0, p1`, `mfa 0, 0, 0`, `ard v8, a0.col, 0` (R64, R303, R329). -/
theorem test_decode_planes_matrix : decodeE 0x800C0F1C00 = some (.pshift ⟨.p 3, .p 3, .lit 7, .none, .always⟩)
    ∧ decodeE 0x8310003E08 = some (.rule ⟨.p 4, .p 0, .p 15, .k 2, .always⟩)
    ∧ decodeE 0x84F4000400 = some (.pquiet ⟨.null, .p 0, .p 1, .none, .always⟩)
    ∧ decodeE 0xD0F7030300 = some (.mfa ⟨.null, .lit 0, .lit 0, .lit 0, .always⟩)
    ∧ decodeE 0xD423030000 = some (.ard ⟨.v 8, .lit 0, .lit 0, .none, .always⟩) := by decide
/-- Kind, phase, hold, tag, cycle and operand of rows (R67, R68): LOOP with II 3 and 8 iterations, MPASS a0 clearing at cycle 19. -/
theorem test_decode_rows : decodeRow 0x0040000000000000 = some (.stepRow ⟨.empty, false, 0, 0⟩ 0)
    ∧ decodeRow 0x1000000000100008 = some (.loopRow ⟨.off, false, 0, 0⟩ 2 8)
    ∧ decodeRow 0x5000000013100000 = some (.mpass ⟨.off, false, 0, 19⟩ 0 false true 0)
    ∧ decodeRow 0xB00000002C000000 = some (.endRow ⟨.off, false, 0, 44⟩)
    ∧ decodeRow 0xC000000000000000 = none ∧ decodeRow 0x0000000000000001 = none := by decide
/-- NEXT 7, SEQ 4, ALUOP 1 on x1 and IMM 5 into x2 (R72): 7 · 2^120 + 4 · 2^117 + 2^78 + 2^73 + 17 · 2^68 + 2 · 2^63 + 5. -/
theorem test_decode_nword : decodeN (7 * 2 ^ 120 + 4 * 2 ^ 117 + 2 ^ 78 + 2 ^ 73 + 17 * 2 ^ 68 + 2 * 2 ^ 63 + 5)
      = some (.nWord { plainN with next := 7, seq := 4, alu := 1, srcA := 1, srcB := 17, dst := 2, imm := 5 })
    ∧ decodeN (6 * 2 ^ 117) = none := by decide
/-- Every family's word goes the same way through `withFetchWord`, whatever its length. -/
theorem test_decode_table : decodeTableWord 32 0x4C000000 = some .ret ∧ decodeTableWord 40 0xF203000000 = some (.lane ⟨.v 0, .lit 0, .none, .none, .always⟩)
    ∧ decodeTableWord 64 0xB00000002C000000 = some (.endRow ⟨.off, false, 0, 44⟩) := by decide

/-! ## Small states -/

/-- The state after an outcome. -/
def nextOf (o : Out) : State :=
  match o with
  | .next t => t
  | _ => State.reset
/-- Core 0 runs at 0x1000 in privileged mode with traps enabled, in context 0, with addresses below 2^36 mapped onto themselves with every
permission for core 0, AGU 0 of MD(0) and the dispatcher. -/
def onCore0 (c : Core) : State :=
  { State.reset with tlb := [⟨0, 0, 0, 36, 0x1F⟩, ⟨1000, 0, 0, 36, 0x1F⟩, ⟨dispParty, 0, 0, 36, 0x1F⟩] }.setMe { c with run := .running, pc := 0x1000, tvec := 0x8000 }
/-- The same with values in g1, g2, … -/
def withG (vs : List W64) : State :=
  onCore0 { Core.reset with g := (List.range vs.length).zip vs |>.map fun p => (p.1 + 1, p.2) }
/-- The same in user mode, of context `ctx`. -/
def inUser (ctx : BitVec 20) (s : State) : State := s.setMe { s.me with cstat := 1, ctxid := ctx }
/-- Bytes of memory. -/
def bytesAt (s : State) (a : Nat) (bs : List Byte) : State := (s.physWrite a bs).getD s
/-- Number `v` in `n` bytes of memory. -/
def numAt (s : State) (a n v : Nat) : State := bytesAt s a (leBytes n v)
/-- The cells of an access that exist. -/
def cellsOf (s : State) (a n : Nat) : List Nat := (s.cells a n).getD []
/-- The number in `n` bytes of memory. -/
def peek (s : State) (a n : Nat) : Nat := (s.physNat a n).getD (2 ^ 64)

/-! ## Control cores (R94-R112) -/

/-- R96: −7 / 2 is −3 with remainder −1; division by 0 gives all ones; −2^63 / −1 is −2^63 with remainder 0. -/
theorem test_division : let s := withG [-7, 2, 0, 0x8000000000000000, -1]
    (nextOf (exec (.divI64 (.g 9) (.g 1) (.g 2)) s)).me.readG 9 = -3 ∧ (nextOf (exec (.remI64 (.g 9) (.g 1) (.g 2)) s)).me.readG 9 = -1
    ∧ (nextOf (exec (.divN64 (.g 9) (.g 1) (.g 3)) s)).me.readG 9 = -1
    ∧ (nextOf (exec (.divI64 (.g 9) (.g 4) (.g 5)) s)).me.readG 9 = 0x8000000000000000
    ∧ (nextOf (exec (.remI64 (.g 9) (.g 4) (.g 5)) s)).me.readG 9 = 0 := by decide +kernel
/-- Division, each clause: a zero divisor, the overflowing quotient, and operands with a quotient. -/
theorem witness_division : let s := withG [-7, 2, 0, 0x8000000000000000, -1]
    s.readS (.g 3) = 0 ∧ ((s.readS (.g 4)).toInt = -2 ^ 63 ∧ (s.readS (.g 5)).toInt = -1)
    ∧ (s.readS (.g 2) ≠ 0 ∧ ¬((s.readS (.g 1)).toInt = -2 ^ 63 ∧ (s.readS (.g 2)).toInt = -1)) := by decide +kernel
/-- A write to g0 is discarded, and w2 names ring register (WBASE + 2) mod 256 (R94). -/
theorem test_register_targets : let s := onCore0 { Core.reset with g := [(1, 5)], wbase := 248 }
    (nextOf (exec (.add (.g 0) (.g 1) (.g 1)) s)).me.readG 0 = 0 ∧ (nextOf (exec (.add (.w 10) (.g 1) (.g 1)) s)).me.readRing 2 = 10
    ∧ (nextOf (exec (.add (.w 10) (.g 1) (.g 1)) s)).me.pc = 0x1004 := by decide +kernel
/-- R95: shifts take their count modulo 64, and a high product is signed. -/
theorem test_shifts_products : let s := withG [-8, 65]
    (nextOf (exec (.sra (.g 9) (.g 1) (.g 2)) s)).me.readG 9 = -4 ∧ (nextOf (exec (.shl (.g 9) (.g 1) (.g 2)) s)).me.readG 9 = -16
    ∧ (nextOf (exec (.mulhI64 (.g 9) (.g 1) (.g 2)) s)).me.readG 9 = -1 ∧ (nextOf (exec (.mulhN64 (.g 9) (.g 1) (.g 2)) s)).me.readG 9 = 64
    ∧ (nextOf (exec (.clz (.g 9) (.g 2)) s)).me.readG 9 = 57 ∧ (nextOf (exec (.ctz (.g 9) (.g 1)) s)).me.readG 9 = 3 := by decide +kernel
/-- R97-R100: signed and unsigned compares, and select on either value of its predicate. -/
theorem test_predicates : let s := withG [-1, 1]
    (nextOf (exec (.cmplt 3 (.g 1) (.g 2)) s)).me.readQ 3 = true ∧ (nextOf (exec (.cmpltN64 3 (.g 1) (.g 2)) s)).me.readQ 3 = false
    ∧ (nextOf (exec (.cmpltiN64 3 (.g 2) (-1)) s)).me.readQ 3 = true ∧ s.me.readQ 3 = false
    ∧ (nextOf (exec (.sel (.g 9) 3 (.g 1) (.g 2)) s)).me.readG 9 = 1
    ∧ (nextOf (exec (.sel (.g 9) 3 (.g 1) (.g 2)) (s.setMe { s.me with q := 8 }))).me.readG 9 = -1 := by decide +kernel
/-- Transfers, each clause: a predicate of either value, targets that check_target accepts, and targets past 2^56 and off a word. -/
theorem witness_transfers : let s := onCore0 { Core.reset with q := 1, g := [(1, 0x2002)] }
    let t := s.setMe { s.me with pc := 0 }
    s.me.readQ 0 = true ∧ s.me.readQ 1 = false ∧ s.canTrap ∧ t.canTrap
    ∧ goodTarget (s.me.pc + BitVec.ofInt 64 (4 * (2 : BitVec 18).toInt)) ∧ (nextOf (exec (.br 0 2) s)).me.pc = 0x1008
    ∧ goodTarget (s.me.pc + BitVec.ofInt 64 (4 * (-2 : BitVec 50).toInt)) ∧ (nextOf (exec (.brnExt 1 (-2)) s)).me.pc = 0xFF8
    ∧ ¬ goodTarget (t.me.pc + BitVec.ofInt 64 (4 * (-1 : BitVec 18).toInt)) ∧ ¬ goodTarget (t.me.pc + BitVec.ofInt 64 (4 * (-1 : BitVec 50).toInt))
    ∧ (nextOf (exec (.jmp (-1)) t)).me.tcause = 3 ∧ (nextOf (exec (.jmp (-1)) t)).me.tval = -4
    ∧ ¬ goodTarget (s.readS (.g 1)) ∧ goodTarget (s.readS (.g 2)) ∧ (nextOf (exec (.jmpr (.g 1)) s)).me.tval = 0x2002 := by
  unfold goodTarget State.canTrap; decide +kernel
/-- Calls, at the last WFILL that needs no spill: F24 from 200 groups' registers, to a near, a far and a register target. -/
theorem witness_calls : let s := onCore0 { Core.reset with wbase := 0xC8, wfill := 200, g := [(1, 0x3000)] }
    s.me.wfill.toNat + 24 ≤ 224 ∧ goodTarget (s.me.pc + BitVec.ofInt 64 (4 * (2 : BitVec 18).toInt))
    ∧ goodTarget (s.me.pc + BitVec.ofInt 64 (4 * (2 : BitVec 50).toInt)) ∧ goodTarget (s.readS (.g 1))
    ∧ (nextOf (exec (.call .f24 2) s)).me.wfill = 224 ∧ (nextOf (exec (.call .f24 2) s)).me.wbase = 0xE0
    ∧ SMap.get 0 (nextOf (exec (.callr .f24 (.g 1)) s)).me.link 27 = 0x1007 := by unfold goodTarget; decide +kernel
/-- Returns, each clause: a link word with F16 and just enough groups, a slot without a link word, and `tret` with 32 registers. -/
theorem witness_returns : let s := onCore0 { Core.reset with wbase := 16, wfill := 16, link := [(1, 0x2002)] }
    let t := onCore0 { Core.reset with wbase := 16, wfill := 8 }
    let u := onCore0 { Core.reset with wbase := 32, wfill := 32, tepc := 0x4004, tstat := 1 }
    (SMap.get 0 s.me.link 1).toNat % 4 = 2 ∧ (s.me.wbase.toNat + 248) % 256 / 8 = 1 ∧ 8 * 2 ≤ s.me.wfill.toNat ∧ (nextOf (exec .ret s)).me.pc = 0x2000
    ∧ (SMap.get 0 t.me.link 1).toNat % 4 = 0 ∧ 8 ≤ t.me.wfill.toNat ∧ t.canTrap ∧ (nextOf (exec .ret t)).me.tcause = 1
    ∧ u.me.priv ∧ 32 ≤ u.me.wfill.toNat ∧ (nextOf (exec .tret u)).me.pc = 0x4004 ∧ (nextOf (exec .tret u)).me.cstat = 1 := by
  unfold State.canTrap Core.priv; decide +kernel
/-- A spill of core 5 whose record ends where its carve-out and its scratchpad end; the oldest group's first register comes first (R83). -/
theorem witness_spill : let s := State.reset.setCore 5 { Core.reset with
        wfill := 16, wbase := 16, ring := [(0, 0x1122)], spp := 0x7FFB8, splb := 0x7FF00, spll := 0x100 }
    (s.core 5).ovfn = 0 ∧ (s.core 5).spp.toNat + 72 ≤ (s.core 5).splb.toNat + (s.core 5).spll.toNat
    ∧ (s.core 5).splb.toNat + (s.core 5).spll.toNat ≤ 0x80000
    ∧ (match s.spillOne 5 with
        | .ok t => (t.core 5).wfill == 8 && (t.core 5).spp == 0 && t.readCell (0x40800000000 + 5 * 0x80000 + 0x7FFB8) == 0x22
        | _ => false) = true := by decide +kernel
/-- Traps, each claim: traps enabled; TEN = 0 with nothing and with a cause pending at the supervisor; an asynchronous cause. -/
theorem witness_trap_entry : let s := withG []
    let d := s.setMe { s.me with cstat := 2 }
    let e := d.setCore 128 { Core.reset with pend := [(0x103, some 7)] }
    let a := s.setMe { s.me with pend := [(0x100, some 9)] }
    s.canTrap ∧ (nextOf (exec (.trap 77) s)).me.tval = 77 ∧ (nextOf (exec (.trap 77) s)).me.tepc = 0x1004
    ∧ d.me.cstat.getLsbD 0 = false ∧ d.cur < 128 ∧ SMap.get none (d.core 128).pend 0x103 = none
    ∧ (nextOf (exec (.trap 1) d)).me.run = .frozen ∧ SMap.get none ((nextOf (exec (.trap 1) d)).core 128).pend 0x103 = some (5 * 65536)
    ∧ SMap.get none (e.core 128).pend 0x103 = some 7
    ∧ a.canTrap ∧ a.me.run = .running ∧ a.me.begun = none ∧ a.me.pend = (0x100, some 9) :: []
    ∧ (nextOf (exec (.asyncTrapDelivery 0) a)).me.tcause = 0x100 := by
  unfold State.canTrap; decide +kernel
/-- System registers, each clause: user mode with a listed number and small operands, and a number that R78 does not list. -/
theorem witness_system_registers : let s := inUser 3 (withG [5, 6])
    s.canTrap ∧ ¬ s.me.priv ∧ (withG []).me.priv ∧ 0x010 ∈ sysTable.map (·.1) ∧ 0x00F ∉ sysTable.map (·.1)
    ∧ (s.readS (.g 1)).toNat < 2 ^ 56 ∧ (s.readS (.g 2)).toNat < 2 ^ 12 ∧ (nextOf (exec (.mtsr 0x10 (.g 1)) s)).me.tcause = 2
    ∧ (nextOf (exec (.mfsr (.g 9) 0x10) s)).me.readG 9 = 3 ∧ (nextOf (exec (.mfsr (.g 9) 0x0F) s)).me.tcause = 1
    ∧ (nextOf (exec (.mtsr 9 (.g 1)) (withG [0xFFF]))).me.wfill = 224 := by
  unfold State.canTrap Core.priv; decide +kernel
/-- Waits, each clause: no token of the mask pending, one pending, an idle core with a wake event, and one whose token has completed. -/
theorem witness_waits : let s := onCore0 { Core.reset with tokcnt := [(2, 3)] }
    let w := s.setMe { s.me with run := .idle, wake := true }
    let d := s.setMe { s.me with run := .idle, idleTok := 2 }
    (∀ i < 8, (3 : BitVec 8).getLsbD i = true → (SMap.get 0 s.me.tokcnt i).toNat = 0)
    ∧ (∃ i < 8, (4 : BitVec 8).getLsbD i = true ∧ (SMap.get 0 s.me.tokcnt i).toNat ≠ 0)
    ∧ (nextOf (exec (.waitt 3) s)).me.pc = 0x1004 ∧ (nextOf (exec (.waitt 4) s)).me.pc = 0x1000
    ∧ w.me.run = .idle ∧ w.me.wake = true
    ∧ (∃ i < 8, d.me.idleTok.getLsbD i = true ∧ (SMap.get 0 d.me.tokcnt i).toNat = 0) ∧ (nextOf (exec (.idleWake 0) d)).me.pc = 0x1004
    ∧ s.me.priv := by unfold Core.priv; decide +kernel

/-! ## Memory, copies, phases (R152-R161, R282-R290) -/

/-- Loads and stores: an aligned access to plain memory with no token of its mask pending, for either kind of access, at 8 and 16 bytes. -/
theorem witness_plain_access : let s := numAt (withG [0x2000, 0xFEDCBA9876543210]) 0x2000 8 0x80
    PlainAccess s ⟨0, .pkg, false⟩ .load (s.formAddr (.g 1) none) 8 1 (cellsOf s 0x2000 8)
    ∧ PlainAccess s ⟨0, .pkg, false⟩ .store (s.formAddr (.g 1) (some 16)) 16 1 (cellsOf s 0x2010 16) :=
  ⟨⟨by decide +kernel, by decide +kernel, 0x2000, by decide +kernel, by decide +kernel, by decide +kernel, by decide +kernel, by decide +kernel,
      by decide +kernel, by decide +kernel⟩,
    ⟨by decide +kernel, by decide +kernel, 0x2010, by decide +kernel, by decide +kernel, by decide +kernel, by decide +kernel, by decide +kernel,
      by decide +kernel, by decide +kernel⟩⟩
/-- R282: a signed byte load extends, a store writes low bytes, lowest first, and no more. -/
theorem test_loads_stores : let s := numAt (withG [0x2000, 0xFEDCBA9876543210]) 0x2000 8 0x1180
    (nextOf (exec (.ldI8 (.g 9) (.g 1) ⟨0, .pkg, false⟩) s)).me.readG 9 = -128 ∧ (nextOf (exec (.ldN16 (.g 9) (.g 1) ⟨0, .pkg, false⟩) s)).me.readG 9 = 0x1180
    ∧ peek (nextOf (exec (.st16 (.g 2) (.g 1) ⟨0, .pkg, false⟩) s)) 0x2000 4 = 0x3210
    ∧ peek (nextOf (exec (.stp (.g 1) (.g 1) ⟨0, .pkg, false⟩) (withG [0x2000, 5, 6]))) 0x2008 8 = 6 := by decide +kernel
/-- Access traps, each clause: a pending token, a misaligned address at each width, and an address past the mapping. -/
theorem witness_access_traps : let s := withG [0x2001, 2 ^ 40]
    let w := s.setMe { s.me with tokcnt := [(0, 1)] }
    w.me.waits 1 = true ∧ s.me.waits 1 = false ∧ s.canTrap ∧ (s.formAddr (.g 1) none).toNat % 2 ≠ 0 ∧ (s.formAddr (.g 2) none).toNat % 8 = 0
    ∧ s.coreVa s.cur .load (s.formAddr (.g 2) none).toNat = none ∧ s.coreVa s.cur .store (s.formAddr (.g 2) none).toNat = none
    ∧ s.walkBad s.cur s.me.ctx (s.formAddr (.g 2) none).toNat = [] ∧ s.walkHeld s.cur s.me.ctx (s.formAddr (.g 2) none).toNat = none
    ∧ (nextOf (exec (.ldN16 (.g 9) (.g 1) ⟨1, .pkg, false⟩) s)).me.tcause = 7 ∧ (nextOf (exec (.st64 (.g 9) (.g 2) ⟨1, .pkg, false⟩) s)).me.tcause = 6 := by
  unfold State.canTrap; decide +kernel
/-- Atomics: an aligned operand of four and of eight bytes. -/
theorem witness_atomics : let s := numAt (withG [0x2000, 3]) 0x2000 8 0xFFFFFFFF
    (s.readS (.g 1)).toNat % 8 = 0 ∧ s.coreVa s.cur .store (s.readS (.g 1)).toNat = some 0x2000 ∧ s.heldBy 0x2000 = none
    ∧ (s.cells 0x2000 4).isSome ∧ (s.cells 0x2000 8).isSome ∧ s.badPa (s.corePas .store 0x2000 8) = none
    ∧ peek (nextOf (exec (.amoadd (.g 9) (.g 1) (.g 2) ⟨.pkg, false, .ar⟩) s)) 0x2000 8 = 2
    ∧ (nextOf (exec (.amoadd (.g 9) (.g 1) (.g 2) ⟨.pkg, false, .ar⟩) s)).me.readG 9 = 0xFFFFFFFF
    ∧ (nextOf (exec (.amomaxI (.g 9) (.g 1) (.g 2) ⟨.pkg, false, .ar⟩) s)).me.readG 9 = -1
    ∧ peek (nextOf (exec (.amocas (.g 9) (.g 1) (.g 2) ⟨.pkg, true, .ar⟩) s)) 0x2000 8 = 0xFFFFFFFF := by decide +kernel
/-- Copies, the issue: mapped ranges with a free token and one page each, and a length of 0. -/
theorem witness_copy_issue : let s := withG [0x4000, 0x2000, 32, 0]
    s.me.waits 0 = false ∧ SMap.get 0 s.me.tokcnt 2 ≠ 15 ∧ s.readS (.g 3) ≠ 0 ∧ (s.readS (.g 3)).toNat ≤ 2 ^ 30 ∧ s.readS (.g 4) = 0
    ∧ (match s.copyPages .load 0x2000 (pagesOf 0x2000 32), s.copyPages .store 0x4000 (pagesOf 0x4000 32) with
      | .ok x, .ok y => x == [0] && y == [0]
      | _, _ => false) = true
    ∧ (s.readS (.g 1)).toNat % RedTy.i64.size = 0 ∧ (s.readS (.g 2)).toNat % RedTy.i64.size = 0 ∧ (s.readS (.g 3)).toNat % RedTy.i64.size = 0
    ∧ (nextOf (exec (.copy (.g 1) (.g 2) (.g 3) 2 .pkg) s)).me.tok 2 = 1 := by decide +kernel
/-- A copy in progress of 16 bytes: in one part, not moved, and the same moved whole. -/
def midCopy (red : Option (RedOp × RedTy)) (moved : List Nat) : State :=
  (numAt (numAt (withG []) 0x2000 8 7) 0x4000 8 5).setCopy 3 (some {
    core := 0, user := false, ctx := 0, dst := 0x4000, src := 0x2000, len := 16, dstPages := [0], srcPages := [0], leaves := [(0, 36)], tok := 2, sc := .pkg,
    bind := some 4, red := red, moved := moved })
/-- Copies, the parts: a plain part and a reduction's, whose cells exist and differ; and a copy moved whole, bound to a phase. -/
theorem witness_copy_parts : let s := midCopy none []
    let r := midCopy (some (.max, .i64)) []
    (match s.copy 3, r.copy 3 with
      | some c, some d => c.parts == 1 && d.parts == 2 && !s.partHeld c 0 && !r.partHeld d 0 && !d.overlaps
          && (s.rangeCells c.srcPages c.src (c.part 0).1 (c.part 0).2).all (·.isSome)
          && (s.rangeCells c.dstPages c.dst (c.part 0).1 (c.part 0).2).all (·.isSome)
          && decide ((s.rangeCells c.dstPages c.dst (c.part 0).1 (c.part 0).2).map fun a => a.getD 0).Nodup
      | _, _ => false) = true
    ∧ ((midCopy none [0]).copy 3).isSome ∧ ((nextOf (exec (.copyCompletion 3) (midCopy none [0]))).phase 4).cnt = 1 := by decide +kernel
/-- Phases, each clause: set at scopes 2 and 5, bind a token, add within, below and above the range, and the refusals at their edges. -/
theorem witness_phases : let s := inUser 7 (withG [0x2005, 0x5005, 0x98005, 5, -1, 9, 0x100000, 0x1005, 0x6005, 0x1000, 4, 0x5FFF])
    let o := { s with phases := SMap.set Phase.reset s.phases 5 ⟨3, false, 3, 7, 0, 0⟩ }
    let v (k : BitVec 4) := (o.readS (.g k)).toNat
    (o.phase 5).own.toNat = o.me.ctxid.toNat % 4096 ∧ o.canTrap ∧ ¬ o.me.priv
    ∧ (v 1 / 2 ^ 15 = 0 ∧ v 1 / 2 ^ 12 = 2) ∧ (v 2 / 2 ^ 15 = 0 ∧ v 2 / 2 ^ 12 = 5) ∧ (v 3 / 2 ^ 12 % 16 = 8 ∧ v 3 < 2 ^ 20) ∧ v 4 < 4096
    ∧ 0 ≤ (3 : Int) + (o.readS (.g 6)).toInt ∧ ((nextOf (exec (.phadd (.g 4) (.g 6)) o)).phase 5).cnt = 12
    ∧ (0 : Int) + (s.readS (.g 5)).toInt < 0 ∧ ((nextOf (exec (.phset (.g 1) (.g 6)) o)).phase 5).own = 7
    ∧ (nextOf (exec (.phset (.g 3) (.g 6)) o)).me.tokbind = [(1, 0x1005)]
    ∧ 2 ^ 20 ≤ v 7 ∧ (v 8 / 2 ^ 15 % 2 = 0 ∧ v 8 / 2 ^ 12 % 8 < 2) ∧ (v 9 / 2 ^ 15 % 2 = 0 ∧ 5 < v 9 / 2 ^ 12 % 8) ∧ 4096 ≤ v 10
    ∧ v 11 < 4096 ∧ (o.phase 4).own.toNat ≠ o.me.ctxid.toNat % 4096 ∧ (2 ^ 13 ≤ v 12 ∧ v 12 < 6 * 2 ^ 12)
    ∧ (o.phase (v 12 % 4096)).own.toNat ≠ 7 ∧ (nextOf (exec (.phadd (.g 11) (.g 6)) o)).me.tval = 4 := by
  unfold State.canTrap Core.priv; decide +kernel
/-- The order within a cycle (R157): a `phadd` after a completion waits, in the next cycle it adds, and a `phset` after it waits. -/
theorem witness_phase_order : let s := (withG [0x3005, 5, 2]).phaseInc 5
    let late := { s with gcyc := s.gcyc + 1 }
    let added := nextOf (exec (.phadd (.g 2) (.g 3)) late)
    let missed (o : State) (k : Nat) := k < (o.phase 5).last.1 && (o.phase 5).last.2 == o.gcyc
    missed s 0 ∧ missed s 1 ∧ ¬ missed late 1 ∧ nextOf (exec (.phadd (.g 2) (.g 3)) s) = s ∧ (added.phase 5).cnt = 3
    ∧ missed added 0 ∧ nextOf (exec (.phset (.g 1) (.g 3)) added) = added ∧ ¬ missed added 1 := by decide +kernel
/-- A phase that saturates at either end of `phadd` (R155). -/
theorem test_phase_saturates : let s := withG [5, 1, -4]
    let o := { s with phases := SMap.set Phase.reset s.phases 5 ⟨0xFFFFFFFF, false, 3, 0, 0, 0⟩ }
    2 ^ 32 ≤ ((o.phase 5).cnt.toNat : Int) + (o.readS (.g 2)).toInt
    ∧ (nextOf (exec (.phadd (.g 1) (.g 2)) o)).phase 5 = ⟨0xFFFFFFFF, true, 3, 0, 1, 0⟩ ∧ (nextOf (exec (.phadd (.g 1) (.g 3)) s)).phase 5 = ⟨0, true, 3, 0, 1, 0⟩ := by
  decide +kernel
/-- Snapshots, each clause: none pending, one pending and due; a request is at least 256 cycles ahead. -/
theorem witness_snapshots : let s := { withG [10] with gcyc := 5 }
    let p := { s with snappend := true, snapat := 5 }
    s.snappend = false ∧ p.snappend = true ∧ p.snapat.toNat ≤ p.gcyc.toNat
    ∧ (nextOf (exec (.snap (.g 1)) s)).snapat = 261 ∧ (nextOf (exec .snapshotLatch p)).snapseq = 1 := by decide +kernel
/-- Invalidations, each clause: operands at their limits, with nothing to wait for, and with a copy translated before. -/
theorem witness_tlb : let s := withG [2 ^ 56 - 1, 4095]
    let c := midCopy none []
    s.me.priv ∧ s.me.inval = none ∧ (s.readS (.g 1)).toNat < 2 ^ 56 ∧ (s.readS (.g 2)).toNat < 2 ^ 12
    ∧ s.tlbWork (.page 4095 (2 ^ 56 - 1)) = ([], []) ∧ s.tlbWork (.ctx 4095) = ([], []) ∧ s.tlbWork .all = ([], [])
    ∧ c.tlbWork .all ≠ ([], []) ∧ c.tlbWork (.ctx 0) ≠ ([], []) ∧ c.tlbWork (.page 0 0x2000) ≠ ([], [])
    ∧ (nextOf (exec .tlbinvAll s)).tlb = [] := by unfold Core.priv; decide +kernel

/-! ## Queues, configuration, streams (R168-R171, R194-R199, R233-R256) -/

/-- The bytes of a stage queue descriptor of two 8-byte or 64-byte entries at 0x3000. -/
def sqdBytes (es head tail : Nat) : List Byte :=
  leBytes 8 0x3000 ++ [1, BitVec.ofNat 8 es, 3, 0, 0, 0, 0, 0] ++ leBytes 8 head ++ leBytes 8 tail ++ List.replicate 32 0
/-- g1 names that queue, g2 holds 77. -/
def withQueue (es head tail : Nat) : State := bytesAt (withG [0x2000, 77]) 0x2000 (sqdBytes es head tail)
/-- Stage queues, each clause: full, with room, empty, and with an entry; the cells of entry and count are whole and apart. -/
theorem witness_stage_queues : let s := withQueue 3 5 6
    let sq (t : State) := match t.coreSqd .store 0x2000 with
      | some (_, q) => q.count + 100 * q.esize + 10000 * q.cap
      | none => 0
    let push (t : State) := match t.coreSqd .store 0x2000 with
      | some (u, q) => let x := u.settleAt .store (q.entry q.tail) 8
          match x.coreRange .store 2 (q.entry q.tail) 8, x.coreStore (q.entry q.tail) (leBytes 8 77) with
          | .ok es, .ok v => (match v.coreRange .store 2 0x2018 8 with
              | .ok ts => es.length == 8 && decide es.Nodup && ts.length == 8 && decide ts.Nodup && es.all (fun c => !ts.contains c)
              | .error _ => false)
          | _, _ => false
      | none => false
    let pop (t : State) := match t.coreSqd .store 0x2000 with
      | some (u, q) => (match u.loadEntry (q.entry q.head) with
          | .ok (v, _) => (match v.coreRange .store 2 0x2010 8 with
              | .ok ts => ts.length == 8 && decide ts.Nodup
              | .error _ => false)
          | .error _ => false)
      | none => false
    sq (withQueue 3 5 7) = 20802 ∧ sq s = 20801 ∧ sq (withQueue 3 5 5) = 20800 ∧ push s = true ∧ pop s = true ∧ (s.coreSqd .load 0x2000).isSome = true
    ∧ peek (nextOf (exec (.qpush (.g 1) (.g 2)) s)) 0x3000 8 = 77 ∧ peek (nextOf (exec (.qpush (.g 1) (.g 2)) s)) 0x2018 8 = 7
    ∧ (nextOf (exec (.qcount (.g 9) (.g 1)) s)).me.readG 9 = 1 ∧ peek (nextOf (exec (.qpop (.g 9) (.g 1)) s)) 0x2010 8 = 6
    ∧ (nextOf (exec (.qpush (.g 1) (.g 2)) (withQueue 3 5 7))).me.pc = 0x1000 ∧ (nextOf (exec (.qpop (.g 9) (.g 1)) (withQueue 3 5 5))).me.pc = 0x1000 := by
  decide +kernel
/-- g1 names work queue 5, an enabled device-fed ring of two records of context 0, and g2 a record; `tail` records have been appended. -/
def withRing (tail : W32) : State :=
  { withG [5, 0x2000] with queues := SMap.set Queue.reset [] 5 { Queue.reset with ring := 0x4001, en := true, dev := true, tailix := tail } }
/-- `launch`, each clause: a queue that may not be used, a full one, and one with room whose record is read and written, or
lies in the dispatcher window. -/
theorem witness_launch : let s := withRing 1
    let q := s.queue 5
    let disp := { withG [5, BitVec.ofNat 64 (2 ^ 36)] with queues := s.queues, tlb := s.tlb ++ [⟨0, 0, 1, 36, 0x4300000001F⟩] }
    ¬ (withG [6, 0x2000]).me.user ∧ ((withG [6, 0x2000]).queue 6).en = false ∧ (withG [6, 0x2000]).canTrap
    ∧ q.en = true ∧ q.dev = true ∧ q.usable = true ∧ s.me.priv ∧ (s.readS (.g 2)).toNat % 64 = 0
    ∧ ((withRing 2).queue 5).count = ((withRing 2).queue 5).entries ∧ q.count ≠ q.entries
    ∧ (match s.coreLoad 0x2000 64 with
      | .ok (u, bs) => (u.ctxWrite q.ctx.toNat (q.slot q.tailix.toNat) bs).isSome
      | .error _ => false) = true
    ∧ ((nextOf (exec (.launch (.g 1) (.g 2)) s)).queue 5).tailix = 2 ∧ s.windowAt .load 0x2000 64 = none
    ∧ disp.windowAt .load (2 ^ 36) 64 = some 0 ∧ disp.canTrap ∧ (disp.queue 5).count ≠ (disp.queue 5).entries
    ∧ (nextOf (exec (.launch (.g 1) (.g 2)) disp)).me.tcause = 7 := by
  unfold State.canTrap Core.priv; decide +kernel
/-- Region 0, of one tile, holds resident load 0 of context 0, and stands in `m`. -/
def inRegion (m : RMode) (s : State) : State :=
  (s.setLoad 0 { Load.reset with st := .resident, regions := [0] }).setRegion 0 { Region.reset with mode := m, w := 1, h := 1 }
/-- `ctxload`: entry 3 of element (1, 2) from a slot with V = 1, on a region that is not and one that is between a RECONF row and its start
pulse. -/
theorem witness_context_load : let s := inRegion .run (numAt (bytesAt (withG [0x3000, 0x2000]) 0x2000 ([0, 0, 0, 0, 0, 0, 0, 0] ++ [3, 0, 1, 2, 0, 0, 0, 0])) 0x3000 8 (2 ^ 44 + 0xF203000000))
    let sw := s.setRegion 0 { s.region 0 with switched := true }
    (s.readS (.g 1)).toNat % 8 = 0 ∧ (s.readS (.g 2)).toNat % 16 = 0
    ∧ (match s.coreLoad 0x2000 16 with
      | .ok (u, td) => u.targetRegion td == some 0 && (match ctxTargetOf td 8 with
          | some c => decide (c.x0 + c.w ≤ 4) && decide (c.y0 + c.h ≤ 4) && u.mayConfigure 0 && (match u.coreLoad 0x3000 (8 * c.slots) with
              | .ok (_, img) => (List.range c.slots).all fun k => slotOk (leAt img (8 * k) 8)
              | .error _ => false)
          | none => false)
      | .error _ => false) = true
    ∧ (s.region 0).switches = false ∧ (sw.region 0).switches = true ∧ (nextOf (exec (.ctxload (.g 1) (.g 2)) sw)).me.await = some (0, false)
    ∧ ((nextOf (exec (.ctxload (.g 1) (.g 2)) s)).entryAt 129 3).st = .staged ∧ ((nextOf (exec (.ctxload (.g 1) (.g 2)) s)).entryAt 128 3).st = .empty := by
  decide +kernel
/-- Load 0 has more tile-tasks to come. -/
def moreTasks (s : State) : State := s.setLoad 0 { s.load 0 with ttcount := 3 }
/-- `rtload` of two entries of RT1 into element (0, 0): at a boundary, and while its region runs. -/
def ruleLoad (m : RMode) : State :=
  moreTasks <| inRegion m (numAt (bytesAt (withG [0x3000, 0x2000]) 0x2000
    (List.replicate 8 0 ++ [4, 0, 1, 0, 1, 0, 0, 0, 0, 0] ++ List.replicate 14 0)) 0x3000 4 0xBEEF1234)
theorem witness_rule_table : let s := ruleLoad .boundary
    let torn := s.setLoad 0 { s.load 0 with stop := 10 }
    (match s.coreLoad 0x2000 32 with
      | .ok (u, td) => u.targetRegion td == some 0 && (match ruleTargetOf td with
          | some c => decide (c.x0 + c.w ≤ 4) && decide (c.y0 + c.h ≤ 4) && u.mayConfigure 0 && (match u.coreLoad 0x3000 (2 * c.size) with
              | .ok (v, _) => v.me.await == none && v.between 0 && (v.load 0).stop == 0
              | .error _ => false)
          | none => false)
      | .error _ => false) = true
    ∧ (ruleLoad .run).between 0 = false ∧ (nextOf (exec (.rtload (.g 1) (.g 2)) (ruleLoad .run))).me.pc = 0x1000
    ∧ (torn.load 0).stop = 10 ∧ torn.canTrap ∧ (nextOf (exec (.rtload (.g 1) (.g 2)) torn)).me.tcause = 8
    ∧ SMap.get 0 ((nextOf (exec (.rtload (.g 1) (.g 2)) s)).elem 0).rules 1029 = 0xBEEF := by unfold State.canTrap; decide +kernel
/-- `palload` of PAL1 (format code 17) without the LQ8 table. -/
theorem witness_palette : let s := moreTasks <| inRegion .boundary (bytesAt (withG [0x3000, 0x2000]) 0x3000 ([0, 0, 0, 0, 17, 0, 1, 0] ++ List.replicate 24 0 ++ [2] ++ List.replicate 31 0))
    (s.readS (.g 1)).toNat % 16 = 0
    ∧ (match s.coreLoad 0x2000 16 with
      | .ok (u, td) => u.targetRegion td == some 0 && zeroAt td 8 8 && u.mayConfigure 0 && (match u.coreLoad 0x3000 64 with
          | .ok (v, hd) => palOffender hd == none && (match v.coreLoad 0x3000 (palSize hd) with
              | .ok (w, _) => w.me.await == none && w.between 0 && (w.load 0).stop == 0
              | .error _ => false)
          | .error _ => false)
      | .error _ => false) = true
    ∧ SMap.get 0 ((nextOf (exec (.palload (.g 1) (.g 2)) s)).region 0).pal 1 = 0x10011 := by decide +kernel
/-- `ownload` of tiles 65534 and 65535, the last of the table, in privileged mode; the second entry names slot 5 of die 0; and
with a sample of tile 65535 under way. -/
theorem witness_ownership : let s := { numAt (numAt (bytesAt (withG [0x3000, 0x2000]) 0x2000 [0xFE, 0xFF, 1, 0, 9, 0, 0, 0, 0]) 0x3000 4 0) 0x3004 4 0x80000005 with pkg := { Package.reset with dies := 1, tiles := [1] } }
    let way := { s with exch := [(8, [⟨0, 0, 0, 0, 0⟩, { (⟨0, 0, 0, 0, 0⟩ : Sample) with pixel := BitVec.ofNat 24 0xFFFFFF }])] }
    s.me.priv
    ∧ (match s.coreLoad 0x2000 16 with
      | .ok (u, d) => decide (u.otctx = s.otctx) && decide (u.me = s.me) && ownOffender d == none && (match u.coreLoad 0x3000 8 with
          | .ok (v, eb) => decide (v.otctx = s.otctx) && decide (v.me = s.me) && v.ownEntryOffender 65534 (wordsAt eb 0 2) == none && !v.samplesUnderWay 65534 2
          | .error _ => false)
      | .error _ => false) = true
    ∧ way.samplesUnderWay 65534 2 = true ∧ (nextOf (exec (.ownload (.g 1) (.g 2)) way)).otctx = 0x1000 ∧ (nextOf (exec (.ownload (.g 1) (.g 2)) way)).me.pc = 0x1000
    ∧ SMap.get 0 (nextOf (exec (.ownload (.g 1) (.g 2)) s)).own 65535 = 0x80000005 ∧ (nextOf (exec (.ownload (.g 1) (.g 2)) s)).otctx = 0x1000
    ∧ SMap.get 0 (nextOf (exec (.ownload (.g 1) (.g 2)) s)).nextseq 65534 = 9 := by unfold Core.priv; decide +kernel
/-- An A-word (R70): base, count0, element size code, direction, port, operator. -/
def awordOf (base count es out port op : Nat) : Nat := base / 16 * 2 ^ 76 + (count - 1) * 2 ^ 64 + es * 2 ^ 18 + out * 2 ^ 17 + port * 2 ^ 13 + op * 2 ^ 9
/-- AGU 0 of MD(0), attached to load 0 and region 0, whose port 2 it is bound to; g1 and g2 are 0x2000 and 0, g3 a mask of AGU 0. -/
def withAgu (st : AguSt) (w : Nat) : State :=
  let s := inRegion .run (numAt (withG [0x2000, 0, 1]) 0x2000 16 (awordOf 0x3000 8 4 0 2 0))
  let r := s.region 0
  (s.setRegion 0 { r with binds := [(2, .stream 0)] }).setAgu 0 { Agu.reset with attach := some (0, 0), st := st, aword := BitVec.ofNat 128 w }
/-- Stream words, each clause: an idle and a live AGU with a fine A-word, one with a bad one, a bound AGU, one that is not, and `sbar`. -/
theorem witness_stream_words : let s := withAgu .idle 0
    let b := withAgu .bound (awordOf 0x3000 8 4 0 2 0)
    let l := withAgu .running (awordOf 0x3000 8 4 0 2 0)
    let free := b.setAgu 0 { b.agu 0 with attach := none }
    let bad := numAt s 0x2000 16 (awordOf 0x3000 8 7 0 2 0)
    let a := b.agu 0
    let fine (t : State) (st : AguSt) := match t.coreLoad 0x2000 16 with
      | .ok (_, bs) => let x := { t.agu 0 with aword := BitVec.ofNat 128 (leNat bs), st := .bound }
          x.wordOk && t.aguPlaced x && (t.agu 0).st == st
      | .error _ => false
    fine s .idle = true ∧ fine l .running = true ∧ fine bad .idle = false ∧ s.me.priv ∧ bad.canTrap
    ∧ a.st = .bound ∧ a.op ≠ opShadow ∧ a.arg + a.entriesUsed ≤ 256 ∧ ({ a with args := b.bankArgs a }).opOk none = true
    ∧ (s.agu 0).st ≠ .bound ∧ s.canTrap ∧ (s.agu 0).st.live = false ∧ (l.agu 0).st.live = true
    ∧ ((nextOf (exec (.sbind (.g 1) (.g 2)) s)).agu 0).st = .bound ∧ (nextOf (exec (.sbind (.g 1) (.g 2)) bad)).me.tcause = 9
    ∧ ((nextOf (exec (.sgo (.g 2)) b)).agu 0).st = .queued ∧ ((nextOf (exec (.sgo (.g 2)) free)).agu 0).st = .queued ∧ (nextOf (exec (.sgo (.g 2)) s)).me.tcause = 9
    ∧ (nextOf (exec (.sbar (.g 3)) s)).me.pc = 0x1004 ∧ (nextOf (exec (.sbar (.g 3)) l)).me.pc = 0x1000 := by
  unfold State.canTrap Core.priv; decide +kernel
/-- A stream's life, each clause: queued first on its port, and delivered whole. -/
theorem witness_stream_life : let q := withAgu .queued (awordOf 0x3000 8 4 0 2 0)
    let d := q.setAgu 0 { q.agu 0 with st := .running, done := true, closed := true }
    (q.agu 0).st = .queued ∧ (q.agu 0).place = 0 ∧ ((nextOf (exec (.streamStart 0) q)).agu 0).st = .running
    ∧ (d.agu 0).st = .running ∧ (d.agu 0).done = true ∧ (d.agu 0).closed = true ∧ (d.agu 0).bytes = [] ∧ (d.agu 0).attach = some (0, 0)
    ∧ ((nextOf (exec (.streamCompletion 0) d)).agu 0).st = .bound := by decide +kernel
/-- Queue-bound ports, each clause: a free place and an entry to pop; a released entry and a place for it. -/
theorem witness_queue_ports : let base := inRegion .run (bytesAt (withG []) 0x2000 (sqdBytes 6 5 6))
    let r := { base.region 0 with binds := [(1, .input 0x2000), (2, .output 0x2000)], released := [⟨none, true, .stage 2 (List.replicate 32 7) 0⟩] }
    let s := base.setRegion 0 r
    r.bind 1 = .input 0x2000 ∧ r.bind 2 = .output 0x2000 ∧ r.holds = true ∧ r.isStopped = false ∧ r.scanned = false ∧ (r.queue 1).length < 2
    ∧ (match s.popQueue dispParty 0 false 0x2000 64 with
      | .ok (_, e) => e.data.length == 64
      | .error _ => false) = true
    ∧ (match takeEntry 2 r.released with
      | some (bs, _) => (match s.pushQueue dispParty 0 false 0x2000 bs with
          | .ok _ => true
          | _ => false)
      | none => false) = true
    ∧ (((nextOf (exec (.portQueueFill 0 1) s)).region 0).queue 1).length = 1
    ∧ peek (nextOf (exec (.portQueuePush 0 2) s)) 0x2018 8 = 7 := by decide +kernel
/-- A stream's reads, each clause: an element to read, and 64 bytes with a free entry of its port. -/
theorem witness_stream_read : let s := numAt (withAgu .running (awordOf 0x3000 8 4 0 2 0)) 0x3000 8 0x0102030405060708
    let a := s.agu 0
    let f := s.setAgu 0 { a with bytes := List.replicate 64 5 }
    a.st = .running ∧ a.op = opNone ∧ a.outward = false ∧ a.span = none ∧ s.streamStalled 0 a = false ∧ a.bytes.length < 64 ∧ a.done = false ∧ a.i0 + 1 < a.count0
    ∧ (match s.streamRead 0 a a.addr a.esize with
      | .ok (_, bs, bad) => bs.length == 16 && !bad
      | .error _ => false) = true
    ∧ a.bt = false ∧ a.attach = some (0, 0) ∧ ((nextOf (exec (.streamElementAccess 0) s)).agu 0).bytes.take 2 = [8, 7]
    ∧ 64 ≤ (f.agu 0).bytes.length ∧ (f.region 0).isStopped = false ∧ ((f.region 0).queue 2).length < 2
    ∧ (((nextOf (exec (.streamElementAccess 0) f)).region 0).queue 2).length = 1 := by decide +kernel
/-- An element whose translation leads to cells of plain memory, in one granule, as reads and writes of streams need them. -/
theorem witness_stream_cells : let s := withAgu .running (awordOf 0x3000 8 4 0 2 0)
    s.StreamCells 0 (s.agu 0) .load 0x3000 16 (fun pa m _ => s.badPa (cellRun pa m) = none) (List.replicate 16 1) (cellsOf s 0x3000 16)
    ∧ s.StreamCells 0 (s.agu 0) .store 0x3000 16 (fun _ _ _ => True) (List.replicate 16 1) (cellsOf s 0x3000 16) := by
  have only (x : Nat) (h : x < 16) (g : x = 0 ∨ (0x3000 + x) % 16 = 0) : x = 0 := by omega
  refine ⟨⟨by decide +kernel, by decide +kernel, fun x h g => ?_⟩, ⟨by decide +kernel, by decide +kernel, fun x h g => ?_⟩⟩ <;>
    (cases only x h g; refine ⟨0x3000, ?_⟩)
  · exact ⟨by decide +kernel, by decide +kernel, by decide +kernel, by decide +kernel, by decide +kernel, by decide +kernel⟩
  · exact ⟨by decide +kernel, by decide +kernel, by decide +kernel, by decide +kernel, by decide +kernel, trivial⟩
/-- Context 0's block table (R216): blocks of 16 KiB, 2 sequences of 2 blocks, a pool of 4; block 1 is LIVE with two references and mapped
by logical block 0 of sequence 0; blocks 0, 2 and 3 are free, in that order. -/
def withTable (s : State) : State :=
  let t := { s with ctxs := SMap.set Ctx.reset s.ctxs 0 { s.ctx 0 with btd := 0x10000005001 } }
  let u := bytesAt t 0x10000005000 (leBytes 8 0x10000006000 ++ leBytes 8 0x10000007000 ++ leBytes 8 0x10000100000 ++ leBytes 8 0x20000000000
    ++ leBytes 4 0 ++ leBytes 4 3 ++ [0, 1, 1, 0] ++ leBytes 4 4 ++ List.replicate 16 0)
  let v := numAt (numAt u 0x10000006000 4 (2 ^ 31 + 1)) 0x10000007000 8 (2 * 2 ^ 20)
  numAt (numAt v 0x10000007008 8 (2 * 2 ^ 40 + 3 * 2 ^ 59 + 2 ^ 62)) 0x10000007010 8 (3 * 2 ^ 20)
/-- An outward stream of 16-byte elements, with BT = `bt`, that holds `n` bytes; the table is `t` of the state. -/
def outStream (bt n : Nat) (t : State → State) : State :=
  let s := t (withAgu .running (awordOf (if bt = 1 then 0 else 0x3000) 8 4 1 2 0 + bt))
  s.setAgu 0 { s.agu 0 with bytes := List.replicate n 5, poison := List.replicate n false }
/-- Copy on write, with a free block and with none: an outward stream through the table meets the shared block. -/
theorem witness_copy_on_write : let s := outStream 1 16 withTable
    let none_ := outStream 1 16 fun s => numAt (withTable s) 0x10000005020 8 (2 ^ 31)
    let shares (t : State) := match t.aim 0 (t.agu 0) ((t.agu 0).outBytes.length / 16 + 2) (t.agu 0).addr (t.agu 0).outBytes.length with
      | .share k => some (k.i, k.b.empty, k.b.free, decide (k.b.head < k.b.npool), (t.pbe k.b k.i).st)
      | _ => none
    let a := s.agu 0
    a.st = .running ∧ a.outward = true ∧ a.bt = true ∧ a.done = false ∧ a.esize ≤ a.bytes.length ∧ s.streamStalled 0 a = false
    ∧ shares s = some (1, false, 3, true, 1) ∧ shares none_ = some (1, true, 0, true, 1) ∧ none_.streamStalled 0 (none_.agu 0) = false
    ∧ none_.streamHeld 0 (none_.agu 0) (none_.agu 0).addr = none ∧ SMap.get none (none_.core 0).pend 0x101 = none
    ∧ ((nextOf (exec (.copyOnWrite 0) none_)).agu 0).st = .stalled := by decide +kernel
/-- Stream writes, each clause: a released entry to take, an element to write through the page tables, and one to write in an unshared LIVE block
of the table; the cells that it reaches. -/
theorem witness_stream_write : let e := outStream 0 0 id
    let t := e.setRegion 0 { e.region 0 with released := [⟨none, true, .stage 2 (List.replicate 32 7) 0⟩] }
    let w := outStream 0 16 id
    let b := outStream 1 16 fun s => numAt (withTable s) 0x10000007008 8 (2 ^ 40 + 3 * 2 ^ 59 + 2 ^ 62)
    (e.agu 0).op = opNone ∧ (e.agu 0).outward = true ∧ (e.agu 0).span = none ∧ (e.agu 0).done = false ∧ e.streamStalled 0 (e.agu 0) = false
    ∧ (e.agu 0).bytes.length < (e.agu 0).esize ∧ (e.agu 0).attach = some (0, 0) ∧ (e.region 0).scanned = false
    ∧ (takeEntry 2 (t.region 0).released).isSome ∧ ((nextOf (exec (.streamElementAccess 0) t)).agu 0).bytes.length = 64
    ∧ (w.agu 0).bt = false ∧ (w.agu 0).esize ≤ (w.agu 0).bytes.length ∧ peek (nextOf (exec (.streamElementAccess 0) w)) 0x3000 2 = 0x0505
    ∧ (b.agu 0).bt = true ∧ (b.agu 0).addr % 16 + (b.agu 0).esize ≤ 16
    ∧ ((b.kvAt 0 (b.agu 0).addr).map fun k => ((b.pbe k.b k.i).st, (b.pbe k.b k.i).ref)) = some (1, 1)
    ∧ ((b.kvAt 0 (b.agu 0).addr).map fun k => (b.cells (k.b.hotSlot k.i + k.off) 16).isSome) = some true
    ∧ peek (nextOf (exec (.streamElementAccess 0) b)) 0x10000104000 2 = 0x0505
    ∧ (b.agu 0).reduces = false ∧ (match (b.streamWalk 0 (b.agu 0) 0 16).aim 0 (b.agu 0) 3 0 16 with
        | .cells v pas => (match pas.mapM b.canon with
            | some as => as.length == 16 && decide as.Nodup && v.lags.isEmpty
            | none => false)
        | _ => false) = true := by decide +kernel

/-! ## Element words (R116-R134, R188, R300-R337) -/

/-- Element (1, 1) of region 0, of one tile, executes a word of entry 0. -/
def atElem (e : Elem) : State :=
  { inRegion .run State.reset with site := ⟨0, 65, 0, 0, none, false, false⟩ }.setElem 65 e
/-- The last result in flight of region 0. -/
def lastFlight (s : State) : Option Flight := (s.region 0).flight.getLast?
/-- R121: a saturating and a wrapping sum of the largest number. -/
theorem test_element_arithmetic : let s := atElem { Elem.reset with s := [(0, 0x7FFFFFFF)] }
    lastFlight (nextOf (exec (.addsI32 ⟨.s 3, .s 0, .lit 5, .none, .always⟩) s)) = some ⟨4, 65, 0, .sreg 3 0x7FFFFFFF false, 0, none⟩
    ∧ lastFlight (nextOf (exec (.addI32 ⟨.s 3, .s 0, .lit 5, .none, .always⟩) s)) = some ⟨4, 65, 0, .sreg 3 0x80000004 false, 0, none⟩ := by
  decide +kernel
/-- R116, R47: 599.0 in E4M3 is 448 with overflow where `.sat` asks for it. -/
theorem test_element_conversion : let s := atElem { Elem.reset with s := [(0, 0x4415C000)] }
    lastFlight (nextOf (exec (.cvtE4m3F32Sat ⟨.s 3, .s 0, .lit 0, .lit 0, .always⟩) s)) = some ⟨4, 65, 0, .sreg 3 0x7E false, 5, none⟩ := by
  decide +kernel
/-- R45: 16777217 lies between two FP32 values and goes to the even one, inexactly. -/
theorem test_element_rounding : let s := atElem { Elem.reset with s := [(0, 16777217)] }
    lastFlight (nextOf (exec (.cvtF32I32 ⟨.s 3, .s 0, .none, .none, .always⟩) s)) = some ⟨4, 65, 0, .sreg 3 0x4B800000 false, 1, none⟩ := by decide +kernel
/-- Rounding, each clause: finite operands, a divisor that is not 0, a positive root, sums that are 0 and are not, magnitudes that do and do
not exceed the format. -/
theorem witness_rounding :
    (fmtF32.decode 0x3F800000).finite = true ∧ 0 < (fmtF32.decode 0x3F800000).real ∧ (fmtF32.decode 0x3F800000).real ≠ 0
    ∧ (fmtF32.decode 0x3F800000).real + (fmtF32.decode 0x3F800000).real ≠ 0 ∧ (fmtF32.decode 0x3F800000).real - (fmtF32.decode 0x3F800000).real = 0
    ∧ (∀ p ∈ roundTable, ∃ x : ℝ, ¬ p.exceeds x) ∧ Target.exceeds (fmtE4M3, 0x7E, 0x7F) 465 ∧ ¬ Target.exceeds (fmtE4M3, 0x7E, 0x7F) 464 := by
  have h : fmtF32.decode 0x3F800000 = .fin false 0x800000 (-23) := by decide +kernel
  have r : (fmtF32.decode 0x3F800000).real = 1 := by rw [h]; norm_num [FVal.real]
  refine ⟨by rw [h]; rfl, by rw [r]; norm_num, by rw [r]; norm_num, by rw [r]; norm_num, by simp, fun p _ => ⟨0, ?_⟩, ?_, ?_⟩
  · unfold Target.exceeds
    split
    · norm_num
    · have h2 : (2 : ℝ) ^ (-(p.1.mbits : ℤ) - 1) < 2 := by
        calc (2 : ℝ) ^ (-(p.1.mbits : ℤ) - 1) ≤ 2 ^ (0 : ℤ) := zpow_le_zpow_right₀ (by norm_num) (by omega)
          _ < 2 := by norm_num
      have h3 : (0 : ℝ) < 2 ^ (p.1.bias : ℤ) := by positivity
      nlinarith [mul_pos (sub_pos.2 h2) h3]
  · unfold Target.exceeds; rw [if_pos rfl]; norm_num
  · unfold Target.exceeds; rw [if_pos rfl]; norm_num
/-- The word of every test that needs only some of its operands. -/
def ew (dst : EDst) (a b c : ESrc) : EArgs := ⟨dst, a, b, c, .always⟩
/-- Special words, each clause: a word that acts and one that its row nullifies; in a loop span and outside; a clean and a poisoned mask. -/
theorem witness_special_words : let s := atElem { Elem.reset with m := [(5, 4)], estat := 0x20 }
    let n := { s with site := { s.site with null := true } }
    let p := atElem { Elem.reset with mp := [(5, 0xC)] }
    let l := s.setRegion 0 { s.region 0 with span := some ⟨0, ⟨.off, false, 0, 0⟩, 0, 1, 0, 1, 1, false, false, none, 0, false, 0, 0⟩, itern := 3 }
    (s.site.null = false ∧ s.site.squashed = false ∧ s.myElem.estat.getLsbD 7 = false) ∧ ¬ n.site.null = false
    ∧ s.myRegion.span = none ∧ l.myRegion.span ≠ none ∧ (3 : BitVec 6).toNat < 4
    ∧ s.srcMaskP (.m 5) = 0 ∧ (p.srcMaskP (.m 5)).getLsbD 2 = true ∧ (∀ k < 2, (p.srcMaskP (.m 5)).getLsbD k = false)
    ∧ lastFlight (nextOf (exec (.exitf (ew .null (.m 5) .none .none)) s)) = some ⟨4, 65, 0, .exitf none, 0, none⟩
    ∧ lastFlight (nextOf (exec (.exitf (ew .null (.m 5) .none .none)) p)) = some ⟨4, 65, 0, .nothing, 0, some (6, 2)⟩
    ∧ lastFlight (nextOf (exec (.lane (ew (.s 1) (.lit 3) .none .none)) s)) = some ⟨4, 65, 0, .sreg 1 5 false, 0, none⟩
    ∧ lastFlight (nextOf (exec (.iter (ew (.s 1) .none .none .none)) l)) = some ⟨4, 65, 0, .sreg 1 2 false, 0, none⟩
    ∧ lastFlight (nextOf (exec (.kbsel (ew .null (.lit 2) .none .none)) n)) = some ⟨4, 65, 0, .nothing, 0, none⟩ := by decide +kernel
/-- Element (1, 1) with a full west slot and two entries in port 2. -/
def receiver (e : Elem) : State :=
  let s := atElem { e with links := [(3, ⟨true, true, List.replicate 32 7, 0⟩)] }
  s.setRegion 0 { s.region 0 with ports := [(2, [⟨List.replicate 64 1, 0⟩, ⟨List.replicate 64 2, 1⟩])] }
/-- Receives, each clause: no active lane, a full slot, and a port with two entries. -/
theorem witness_receives : let s := receiver Elem.reset
    s.active .m6 = 0 ∧ s.active .always ≠ 0 ∧ (s.myElem.slot ((6 : BitVec 6).toNat / 2)).full = true ∧ (0 : BitVec 6).toNat ≠ 1
    ∧ (s.myRegion.queue (2 : BitVec 6).toNat).length = 2
    ∧ lastFlight (nextOf (exec (.lrecv (ew (.s 1) (.lit 6) .none .none)) s)) = some ⟨4, 65, 0, .sreg 1 7 false, 0, none⟩
    ∧ ((nextOf (exec (.lrecv (ew (.s 1) (.lit 6) .none .none)) s)).elem 65).slot 3 = Slot.empty
    ∧ lastFlight (nextOf (exec (.stin (ew (.s 1) (.lit 2) .none .none)) s)) = some ⟨4, 65, 0, .sreg 1 0x01010101 false, 0, none⟩
    ∧ lastFlight (nextOf (exec (.lpoll (ew (.s 1) (.lit 6) .none .none)) s)) = some ⟨4, 65, 0, .sreg 1 1 false, 0, none⟩ := by decide +kernel
/-- Planes, each clause: `pquiet` of equal and of different planes, under no condition. -/
theorem witness_planes : let s := atElem { Elem.reset with planes := [(1024, 5)] }
    let same (a b : ESrc) := (List.range 32).all fun x => (List.range 32).all fun y =>
      (s.atSite a x y).1 == (s.atSite b x y).1 && !(s.atSite a x y).2 && !(s.atSite b x y).2
    s.site.null = false ∧ s.site.squashed = false ∧ same (.p 0) (.p 2) = true ∧ same (.p 0) (.p 1) = false
    ∧ lastFlight (nextOf (exec (.pquiet (ew .null (.p 0) (.p 1) .none)) s)) = some ⟨4, 65, 0, .quiet false, 0, none⟩
    ∧ lastFlight (nextOf (exec (.pquiet (ew .null (.p 0) (.p 2) .none)) s)) = some ⟨4, 65, 0, .quiet true, 0, none⟩ := by decide +kernel
/-- A world of 2 by 2 elements in region 0, with different values beyond each edge and at its corners. -/
def world (gbnd : Byte) : State :=
  let s := inRegion .run State.reset
  let t := s.setRegion 0 { s.region 0 with gr := ⟨0x0101, gbnd, 11, 12, 13, 14, 0, false⟩ }
  (((t.setElem 0 { Elem.reset with planes := [(0, 1)] }).setElem 1 { Elem.reset with planes := [(31, 2), (62, 9)] }).setElem 64 { Elem.reset with planes := [(992, 3)] }).setElem 65
    { Elem.reset with planes := [(1023, 4)] }
/-- World edges, each clause, at −1 and at the extent: inside, fixed, wrapped, held and reflected. -/
theorem witness_world_edges : let v (b : Byte) (el : Nat) (x y dx dy : Int) := ((world b).siteValue 0 el 0 x y dx dy).1
    v 0x55 0 31 0 1 0 = 0 ∧ v 0x55 65 31 31 0 0 = 4
    ∧ v 0x55 0 0 0 (-1) 0 = 14 ∧ v 0x55 1 31 0 1 0 = 12 ∧ v 0x55 0 0 0 0 (-1) = 11 ∧ v 0x55 64 0 31 0 1 = 13
    ∧ v 0 0 0 0 (-1) 0 = 2 ∧ v 0 1 31 0 1 0 = 1 ∧ v 0 0 0 0 0 (-1) = 3 ∧ v 0 64 0 31 0 1 = 1
    ∧ v 0xFF 0 0 0 (-1) 0 = 1 ∧ v 0xFF 65 31 31 0 1 = 4 ∧ v 0xAA 1 31 1 1 0 = 9 := by decide +kernel
/-- Plane ports, each clause: no active row, two entries in the port, clean and poisoned selectors, with lane 0 and with lane 5 lowest. -/
theorem witness_plane_ports : let s := receiver { Elem.reset with m := [(6, 0x20)], s := [(1, 2)], sp := [(2, true)], planes := [(32 * 4 + 1, 0x1234)] }
    let lowest (l : Nat) (m : W32) := m.getLsbD l && (List.range l).all fun k => !m.getLsbD k
    (atElem Elem.reset).active .m6 = 0 ∧ s.active .m6 ≠ 0 ∧ s.myElem.planeBusy ≤ s.myRegion.rc ∧ (s.myRegion.queue 2).length = 2
    ∧ (s.src .int (.s 1) 0).2 = false ∧ (s.src .int (.s 2) 0).2 = true ∧ lowest 0 (s.active .always) = true ∧ lowest 5 (s.active .m6) = true
    ∧ (s.active .always).getLsbD 0 = true
    ∧ lastFlight (nextOf (exec (.pld (ew (.p 0) (.lit 2) (.s 2) .none)) s)) ≠ none
    ∧ ((lastFlight (nextOf (exec (.pst (ew .stage (.p 0) (.s 1) .none)) s))).map fun f => match f.what with
        | .egress e => (match e.kind with
            | .stage _ ws _ => ws.take 1
            | _ => [])
        | _ => []) = some [0x12340000]
    ∧ lastFlight (nextOf (exec (.pbx (ew (.s 3) (.p 0) (.lit 2) (.lit 4))) s)) = some ⟨4, 65, 0, .sreg 3 2 false, 0, none⟩
    ∧ ((nextOf (exec (.pbx (ew (.s 3) (.p 0) (.s 2) (.lit 4))) s)).region 0).flight.head?.map (·.fault) = some (some (7, 0)) := by decide +kernel
/-- Scratchpad words, each clause: an active and an inactive word with clean operands; lane 1 of element (1, 1) at the last offset in range. -/
theorem witness_scratchpad : let s := atElem { Elem.reset with s := [(0, 0x5FFFF8), (1, 0)], v := [(0, 0xABCD)] }
    s.site.squashed = false ∧ (s.src .int (.s 0) 0).2 = false ∧ (s.src .int (.s 1) 0).2 = false ∧ (s.myElem.predBits .always).2 = 0
    ∧ s.active .m6 = 0 ∧ s.active .always ≠ 0 ∧ (∀ i < 32, (s.src .int (.v 0) i).2 = false)
    ∧ ((nextOf (exec (.sstN32 (ew .null (.s 0) (.s 1) (.v 0))) s)).region 0).flight.length = 1
    ∧ ((lastFlight (nextOf (exec (.sstN16 (ew .null (.lit 4) (.lit 0) (.v 0))) s))).map fun f => match f.what with
        | .egress e => (match e.kind with
            | .scratch bs => bs.take 2
            | _ => [])
        | _ => []) = some [(0x40000000000 + 7 * 2 ^ 28 + 128, 0xCD, false), (0x40000000000 + 7 * 2 ^ 28 + 129, 0xAB, false)] := by decide +kernel
/-- Ray words, each clause: every kind of `rsamp`, a full slot for a ray that leaves it, and clean operands; a ray that passes the east edge. -/
theorem witness_rays : let s := receiver { Elem.reset with s := [(0, 0x80001FFF), (1, 1)] }
    (0 : BitVec 6).toNat < 3 ∧ (2 : BitVec 6).toNat < 3 ∧ s.active .always ≠ 0 ∧ (s.myElem.slot ((6 : BitVec 6).toNat / 2)).full = true
    ∧ (∀ i < 32, s.predP .always i = false ∧ (s.src .int (.s 0) i).2 = false ∧ (s.src .int (.s 1) i).2 = false ∧ (s.src .int (.lit 0) i).2 = false)
    ∧ lastFlight (nextOf (exec (.rmarch (ew (.s 2) (.s 0) (.s 1) .none)) s)) = some ⟨4, 65, 0, .sreg 2 0x8C000000 false, 0, none⟩
    ∧ (nextOf (exec (.fragout (ew .null (.s 1) (.s 0) (.lit 0))) s)).region 0 ≠ s.region 0 := by decide +kernel
/-- Region 0 with tile 0's bank and palette, a port entry pair that holds no palette, and one value to come in port 2. -/
def matrixElem (left : W16) (pal : W32) : State :=
  let s := receiver { Elem.reset with s := [(1, 3)], sp := [(2, true)], m := [(6, 2)] }
  s.setRegion 0 { s.region 0 with pkrem := [(2, left)], pal := [(0, pal)] }
/-- Matrix words, each clause: lane 0 active and not, a clean and a poisoned position, tokens to come and none, packets that are and are not
well made, each kind of `ard`, an accumulator that is busy and one that is not. -/
theorem witness_matrix_words : let s := matrixElem 1 0x10000
    let z := s.setRegion 0 { s.region 0 with pkrem := [], ports := [(2, [⟨List.replicate 64 0, 0⟩, ⟨List.replicate 64 0, 0⟩])] }
    let b := s.setTile 0 { Tile.reset with pass := some ⟨1, false, 2, 9⟩, aflag := [(0, 3)] }
    let n := s.setRegion 0 { s.region 0 with pkrem := [] }
    let made (t : State) := match t.myRegion.queue 2 with
      | a :: b :: _ => let y := a.data ++ b.data
          leAt y 33 1 == 0 && (y.drop 36).all (· == 0) && a.poison == 0 && b.poison == 0 && leAt y 32 1 == 0
      | _ => false
    (s.active .always).getLsbD 0 = true ∧ (s.active .m6).getLsbD 0 = false ∧ (s.src .int (.s 1) 0).2 = false ∧ (s.src .int (.s 2) 0).2 = true
    ∧ (s.myRegion.queue 2).length = 2 ∧ SMap.get 0 s.myRegion.pkrem 2 ≠ 0 ∧ s.myRegion.flight = []
    ∧ SMap.get 0 z.myRegion.pkrem 2 = 0 ∧ made z = true ∧ SMap.get 0 n.myRegion.pkrem 2 = 0 ∧ made n = false
    ∧ (10 : Nat) / 4 = 2 ∧ (3 : Nat) / 4 < 2 ∧ ((b.tile b.myTile).pass.map fun p => decide (p.acc = 1 ∧ 0 < p.left)) = some true
    ∧ (s.tile s.myTile).pass = none ∧ (s.tile s.myTile).groups = []
    ∧ lastFlight (nextOf (exec (.ard (ew (.s 0) (.lit 8) (.lit 0) .none)) b)) = some ⟨4, 65, 0, .sreg 0 3 false, 0, none⟩
    ∧ lastFlight (nextOf (exec (.aclr (ew .null (.lit 5) .none .none)) s)) = some ⟨4, 65, 0, .aclr 0 5, 0, none⟩
    ∧ lastFlight (nextOf (exec (.aclr (ew .null (.lit 5) .none .none)) b)) = some ⟨4, 65, 0, .nothing, 0, none⟩
    ∧ SMap.get 0 (nextOf (exec (.mfa (ew .null (.lit 2) (.lit 0) (.lit 0))) s)).myRegion.pkrem 2 = 0
    ∧ lastFlight (nextOf (exec (.mfa (ew .null (.lit 2) (.lit 0) (.lit 0))) z)) = some ⟨4, 65, 0, .pal 2 [], 0, none⟩ := by decide +kernel
/-- Matrix groups, each clause: a pass that is over, one with groups left, and a group that is due. FP32 slots hold 2.0 and 3.0. -/
theorem witness_matrix_groups : let f (k : Nat) : OpSlot := { OpSlot.reset with v := true, ent := 0x10000, data := leBytes 4 k ++ List.replicate 60 0 }
    let s := inRegion .run State.reset
    let over_ := s.setTile 0 { Tile.reset with pass := some ⟨1, false, 0, 0⟩ }
    let more := s.setTile 0 { Tile.reset with pass := some ⟨1, false, 2, 0⟩, opa := [(0, f 0x40000000)], opb := [(0, f 0x40400000)] }
    let due := s.setTile 0 { Tile.reset with groups := [⟨0, 1, false, [(0, f 0x40000000)], [(0, f 0x40400000)], []⟩] }
    (over_.tile 0).pass = some ⟨1, false, 0, 0⟩ ∧ (more.tile 0).pass = some ⟨1, false, 2, 0⟩ ∧ (s.region 0).rc = 0
    ∧ (due.tile 0).groups.map (·.due) = [0]
    ∧ ((nextOf (exec (.matrixGroupSnapshot 0 0) over_)).tile 0).pass = none
    ∧ ((nextOf (exec (.matrixGroupSnapshot 0 0) more)).tile 0).groups.map (·.due) = [68]
    ∧ SMap.get 0 ((nextOf (exec (.matrixGroupLanding 0 0) due)).tile 0).acc 2048 = 0x40C00000 := by decide +kernel

/-! ## Landings and rows (R116, R143-R150, R174-R186) -/

/-- Region 0 with these results in flight, all due. -/
def flying (fs : List Land) : State :=
  let s := inRegion .run State.reset
  s.setRegion 0 { s.region 0 with flight := fs.map fun x => ⟨0, 65, 0, x, 0, none⟩ }
/-- The state after the first landing. -/
def landed (x : Land) : State := nextOf (exec (.wordResultLanding 0) (flying [x]))
/-- Landings, each clause: one result of each kind, due, alone in flight, so that none stands before it; a fault beside nothing; a read; a link,
also to an element that is stopped. -/
theorem witness_landings : let f := flying [.nothing]
    let flt := f.setRegion 0 { f.region 0 with flight := [⟨0, 65, 3, .nothing, 0, some (5, 9)⟩] }
    let l := flying [.link 66 3 (List.replicate 32 7) 0]
    let held := l.setRegion 0 { l.region 0 with mode := .stopped .endRow }
    (f.region 0).flight = [] ++ ⟨0, 65, 0, .nothing, 0, none⟩ :: [] ∧ 0 ≤ (f.region 0).rc ∧ (f.region 0).win.fault = none ∧ (f.region 0).egress = []
    ∧ ((landed (.vreg 31 2 (List.replicate 32 7) 2)).elem 65).lane 31 1 = 7 ∧ ((landed (.vreg 31 2 (List.replicate 32 7) 2)).elem 65).lane 31 0 = 0
    ∧ ((landed (.sreg 3 8 true)).elem 65).sreg 3 = 8 ∧ ((landed (.sreg 3 8 true)).elem 65).sregP 3 = true
    ∧ ((landed (.mreg 3 6 5 0)).elem 65).mreg 3 = 4
    ∧ ((landed (.kbsel 3)).elem 65).estat = 0x60 ∧ ((landed (.quiet true)).elem 65).estat = 0x80
    ∧ ((landed (.exitf (some 4))).region 0).gr.rexit = true ∧ ((landed (.egress ⟨none, true, .stage 1 [] 0⟩)).region 0).egress.length = 1
    ∧ SMap.get 0 ((landed (.accw 0 [(5, (9, false))])).tile 0).acc 5 = 9 ∧ (([(5, (9, false))] : List (Nat × (W32 × Bool))).map (·.1)).Nodup
    ∧ (SMap.get OpSlot.reset ((landed (.feed 0 false [(4, { OpSlot.reset with v := true })])).tile 0).opa 4).v = true
    ∧ ((nextOf (exec (.wordResultLanding 0) flt)).elem 65).estat = 0x500
    ∧ ((nextOf (exec (.wordResultLanding 0) flt)).region 0).win.fault = some ⟨0, 65, 9, 3, 5⟩
    ∧ ((landed (.sread (.v 1) 4 false 1 0 (some 0x40000000000 :: List.replicate 31 none))).region 0).flight.map (·.due) = [6]
    ∧ l.stoppedElem 66 = false ∧ held.stoppedElem 66 = true
    ∧ ((nextOf (exec (.linkSlotFill 0) l)).elem 66).slot 3 = ⟨true, true, List.replicate 32 7, 0⟩
    ∧ ((nextOf (exec (.linkSlotFill 0) held)).elem 66).slot 3 = Slot.empty := by
  decide +kernel
/-- A plane lands in the rows that its mask names, with its poison. -/
theorem test_plane_lands : let e := (landed (.plane 1 2 ((List.range 1024).map (BitVec.ofNat 16)) [0, 4])).elem 65
    (List.range 1024).length = 1024 ∧ e.site 1 2 1 = (34, true) ∧ e.site 1 2 0 = (0, false) ∧ e.site 1 3 1 = (35, false) := by decide +kernel
/-- A loop span whose LOOP row is row 0 and whose ENDL row is row 4. -/
def spanAt (v itern : Nat) (s : State) : State :=
  let rows : List W64 := [0x1000000000100008, 0, 0, 0, 0x2000000000000000, 0x4000000000000000]
  s.setRegion 0 { s.region 0 with
    rows := rows, itern := itern, span := some ⟨0, ⟨.off, false, 0, 0⟩, 0, 3, 8, 4, v, false, false, none, 0, false, 0, 0⟩ }
/-- The same region with row `ix` issuing. -/
def atRow (ix : Nat) (s : State) : State := s.setRegion 0 { s.region 0 with rowix := ix }
/-- Rows, each clause: outside a span with REXIT clear and set; inside its body; at its ENDL row with an EPIL row behind and without one; at
an EPIL row; an exit that has and has not come; one tile with a free array and a busy one. -/
theorem witness_rows : let s := inRegion .run State.reset
    let x := s.setRegion 0 { s.region 0 with gr := { GRegs.reset with rexit := true } }
    let b := atRow 2 (spanAt 1 1 s)
    let e := atRow 4 b
    let plain := e.setRegion 0 { e.region 0 with rows := (e.region 0).rows.take 5 }
    let ep := e.setRegion 0 { e.region 0 with span := (e.region 0).span.map fun y => { y with epil := 4 }, rowix := 5 }
    let bx := b.setRegion 0 { b.region 0 with gr := { GRegs.reset with rexit := true } }
    let busy := s.setTile 0 { Tile.reset with pass := some ⟨1, false, 2, 9⟩ }
    let h : RowHdr := ⟨.off, false, 0, 0⟩
    s.site.g = 0 ∧ (s.region 0).span = none ∧ (s.region 0).gr.rexit = false ∧ (x.region 0).gr.rexit = true ∧ (s.region 0).freeze = none
    ∧ ((b.region 0).span.map fun y => decide (y.row < 2 ∧ 2 < y.endl)) = some true ∧ (b.region 0).rowix = 2
    ∧ (e.region 0).kindAt 5 = 4 ∧ (plain.region 0).kindAt 5 ≠ 4 ∧ (ep.region 0).span.map (·.epil) = some 4
    ∧ (bx.region 0).gr.rexit = true ∧ (bx.region 0).span.map (·.exited) = some false
    ∧ (s.region 0).w = 1 ∧ (s.region 0).h = 1 ∧ (s.tile 0).busy 0 = false ∧ (busy.tile 0).busy 0 = true
    ∧ ((nextOf (exec (.stepRow h 3) b)).region 0).freeze = some ⟨2, 3, 1, none⟩ ∧ ((nextOf (exec (.stepRow h 3) s)).region 0).step = some (h, 3)
    ∧ ((nextOf (exec (.exitRow h) bx)).region 0).span.map (·.e) = some 0 ∧ ((nextOf (exec (.exitRow h) x)).region 0).mode = .drain .endRow
    ∧ ((nextOf (exec (.endl h 0) plain)).region 0).span = none ∧ ((nextOf (exec (.endl h 0) e)).region 0).span.map (·.epil) = some 4
    ∧ ((nextOf (exec (.mpass h 1 false true 2) s)).tile 0).pass = some ⟨1, false, 3, 0⟩
    ∧ ((nextOf (exec (.mpass h 1 false true 2) busy)).region 0).freeze = some ⟨2, 3, 1, none⟩
    ∧ ((nextOf (exec (.loopRow h 2 8) s)).region 0).itern = 1 := by decide +kernel
/-- Region progress, each clause: an iteration to admit, none; a settling that is over and one that is not; a window that must close; a drain
that is over, with scratchpad egress, and one that waits. -/
theorem witness_region_progress : let s := inRegion .run State.reset
    let a := spanAt 1 1 s
    let n := spanAt 0 1 s
    let set (k : Nat) := s.setRegion 0 { s.region 0 with settle := true, relapsed := k }
    let d := inRegion (.drain .commit) State.reset
    let c := d.setRegion 0 { d.region 0 with egress := [⟨none, true, .scratch [(0x40000000000, 5, false)]⟩] }
    let w := d.setRegion 0 { d.region 0 with flight := [⟨9, 0, 0, .nothing, 0, none⟩] }
    let full := s.setRegion 0 { s.region 0 with rows := [0x5000000000800000], work := [.row 0], win := { Window.reset with accs := [(0, [0, 1])] } }
    ((a.region 0).span.map fun y => decide (y.stopped = false ∧ y.v = 1)) = some true ∧ (a.region 0).itern = 1
    ∧ ((n.region 0).span.map fun y => decide (y.v ≠ 1)) = some true
    ∧ ((set 64).region 0).settle = true ∧ 64 ≤ ((set 64).region 0).relapsed ∧ ((set 63).region 0).relapsed < 64
    ∧ s.wantsClose 0 = false ∧ full.wantsClose 0 = true ∧ ((nextOf (exec (.implicitClose 0) full)).region 0).mode = .drain .implicit
    ∧ (c.region 0).mode = .drain .commit ∧ c.drained 0 = true ∧ w.drained 0 = false
    ∧ (c.region 0).win.fault = none ∧ (c.region 0).span = none ∧ (c.region 0).released = []
    ∧ ((nextOf (exec (.iterationAdmission 0) a)).region 0).itern = 2 ∧ ((nextOf (exec (.formSettlingEnd 0) (set 64))).region 0).settle = false
    ∧ ((nextOf (exec (.formSettlingEnd 0) (set 63))).region 0).settle = true
    ∧ (nextOf (exec (.commitWindowClose 0) c)).readCell 0x40000000000 = 5 ∧ ((nextOf (exec (.commitWindowClose 0) c)).region 0).mode = .run := by
  decide +kernel
/-- A live launch of one load in region 0, which stands in `m`. -/
def loneLoad (m : RMode) : State := (inRegion m State.reset).setLaunch 0 { Launch.reset with live := true }
/-- It is such a load as ABORT and a gate end. -/
theorem lone_load (m : RMode) : (loneLoad m).Lone 0 0 :=
  ⟨by simp [loneLoad, inRegion], by simp [loneLoad, inRegion], by simp [loneLoad, inRegion, Load.reset],
    by refine ⟨?_, ?_, ?_, ?_⟩ <;> simp [loneLoad, inRegion, Load.reset, Region.reset] <;> rfl, by simp [loneLoad, inRegion, Load.reset, Launch.reset],
    fun k h _ => by
      have : (loneLoad m).load k = Load.reset := by simp only [loneLoad, inRegion, State.load_setLaunch, State.load_setRegion, State.load_setLoad_ne _ _ h]; rfl
      rw [this]; rfl, by rfl⟩
/-- ABORT and gates, each clause: a stopped region of a load alone, and its running region with a freeze that is due, of a cause that ends
the load, alone and beside a scan request. -/
theorem witness_load_endings : let st := loneLoad (.stopped .endRow)
    let s := loneLoad .run
    let due (c : Nat) (also : Option Nat) := s.setRegion 0 { s.region 0 with freeze := some ⟨c, 0, 1, also⟩ }
    (st.region 0).mode = .stopped .endRow ∧ (st.region 0).freeze = none ∧ (st.region 0).load = 0
    ∧ ((nextOf (exec (.replayCtrlWrite 0 2) st)).load 0).st = .ended ∧ ((nextOf (exec (.replayCtrlWrite 0 2) st)).region 0).mode = .free
    ∧ ((due 1 none).region 0).gateable = true ∧ ((due 3 (some 2)).region 0).freeze = some ⟨3, 0, 1, some 2⟩ := by
  decide +kernel
/-- Discards and gates, each clause: a faulty window drained, a stopped region with a control word that is ignored, a freeze that is due and one
that is not, scan requests of parties that may and may not make them, and regions gated by scan and by another cause. -/
theorem witness_discards_gates : let d := inRegion (.drain .commit) State.reset
    let p := d.setRegion 0 { d.region 0 with win := { Window.reset with fault := some ⟨0, 65, 0, 0, 5⟩ }, replay := 0x100000, sup := 3 }
    let st := inRegion (.stopped .endRow) State.reset
    let s := inRegion .run State.reset
    let due := s.setRegion 0 { s.region 0 with freeze := some ⟨3, 0, 1, none⟩ }
    let soon := s.setRegion 0 { s.region 0 with freeze := some ⟨3, 2, 1, none⟩ }
    let g := inRegion (.gated 3 .run) State.reset
    let o0 := inRegion (.gated 2 .run) State.reset
    let o := o0.setRegion 0 { o0.region 0 with awaitScan := true }
    (p.region 0).mode = .drain .commit ∧ p.drained 0 = true ∧ (p.region 0).win.fault.isSome = true ∧ (p.region 0).freeze = none
    ∧ SMap.get none (p.core 3).pend 0x100 = none
    ∧ (st.region 0).mode = .stopped .endRow ∧ (s.region 0).mode = .run
    ∧ ((nextOf (exec (.replayCtrlWrite 0 0) st)).region 0).mode = .stopped .endRow
    ∧ (due.region 0).freeze = some ⟨3, 0, 1, none⟩ ∧ (due.region 0).gateable = true ∧ (soon.region 0).freeze = some ⟨3, 2, 1, none⟩
    ∧ (s.region 0).gateable = true ∧ s.pkg.keyErased = false ∧ ¬ (128 ≤ 5) ∧ ((nextOf (exec (.scanRequest .host 0) s)).region 0).freeze = some ⟨3, 3, 1, none⟩
    ∧ ((nextOf (exec (.scanRequest (.core 5) 0) s)).region 0).freeze = none
    ∧ (g.region 0).mode = .gated 3 .run ∧ ((nextOf (exec (.scanRelease .bmc 0) g)).region 0).mode = .run
    ∧ (o0.region 0).mode = .gated 2 .run ∧ (o0.region 0).awaitScan = false ∧ ((nextOf (exec (.scanRelease .host 0) o0)).region 0).scanFreed = true
    ∧ (o.region 0).mode = .gated 2 .run ∧ (o.region 0).awaitScan = true ∧ ((nextOf (exec (.scanRelease .host 0) o)).region 0).mode = .free := by
  decide +kernel

/-! ## Near memory and factor stores (R72-R75, R258-R263, R338-R373) -/

/-- A command packet (R74): kind, flags, number, OP0 to OP2, and arguments; context 0, generation 0, phase 9, no status word. -/
def packet (kind flags number : Nat) (op0 op1 op2 : Nat) (args : List Nat) : List Byte :=
  [BitVec.ofNat 8 kind, BitVec.ofNat 8 flags] ++ leBytes 2 number ++ leBytes 2 0 ++ [0, 3] ++ leBytes 2 9 ++ List.replicate 6 0 ++ leBytes 8 0
    ++ leBytes 8 op0 ++ leBytes 8 op1 ++ leBytes 8 op2 ++ args.flatMap (leBytes 4)
/-- g1 names a packet in memory. -/
def posting (bs : List Byte) : State := bytesAt (withG [0x2000, 0x3000, 0x2020]) 0x2000 bs
/-- Posted commands, each clause: misaligned; malformed; well-formed without OP0 and with OP0 in K-stack 0, to a unit with room and a full one;
a status word that there is and one that cannot be reached. -/
theorem witness_posting : let q := posting (packet 2 0 5 0 0 0 [1, 0, 0, 0])
    let c := posting (packet 1 0 5 0x3000 0 0 [1, 2, 3, 4])
    let st := numAt c 0x2010 8 0x3000
    let lost := numAt q 0x2010 8 (2 ^ 40)
    let bad := posting (packet 2 0 256 0 0 0 [1, 0, 0, 0])
    let unit (x : State) := ((x.coreVa 0 .load 0x3000).bind x.canon).map fun a => 64 * (a / 2 ^ 36 % 16) + a / 32 % 64
    let read (x : State) := match x.coreLoad 0x2000 64 with
      | .ok (_, bs) => bs
      | .error _ => []
    q.canTrap ∧ (q.readS (.g 3)).toNat % 64 ≠ 0 ∧ (q.readS (.g 1)).toNat % 64 = 0 ∧ q.me.priv
    ∧ packetOk 2 (read q) = true ∧ packetOk 1 (read c) = true ∧ packetOk 2 (read bad) = false ∧ leAt (read q) 16 8 = 0
    ∧ unit c = some 24 ∧ (c.nmu 24).queue.length < 32
    ∧ 32 ≤ ((c.setNmu 24 { Nmu.reset with queue := List.replicate 32 ⟨[], 0, false, none, (0, []), [], 0⟩ }).nmu 24).queue.length
    ∧ ((nextOf (exec (.nmcall (.g 1)) c)).nmu 24).queue.length = 1 ∧ ((nextOf (exec (.tq (.g 1)) q)).stack 0).queue.length = 1
    ∧ (∃ pa c, st.coreVa 0 .store 0x3000 = some pa ∧ st.canon pa = some c ∧ 0x10000000000 ≤ c ∧ c < 0x20000000000)
    ∧ (lost.coreVa 0 .store (2 ^ 40) = none ∧ lost.walkHeld 0 lost.me.ctx (2 ^ 40) = none) ∧ st.walkHeld 0 st.me.ctx 0x3000 = none
    ∧ (nextOf (exec (.tq (.g 1)) lost)).me.tcause = 6
    ∧ (((nextOf (exec (.nmcall (.g 1)) st)).nmu 24).queue.map fun p => p.status) = [some 0x3000]
    ∧ (nextOf (exec (.tq (.g 1)) bad)).me.tcause = 10 ∧ (nextOf (exec (.tload (.g 3)) q)).me.tcause = 7 := by
  intro q c st lost bad unit read
  have h : st.coreVa 0 .store 0x3000 = some 0x3000 ∧ ((st.canon 0x3000).map fun x => decide (0x10000000000 ≤ x) && decide (x < 0x20000000000)) = some true := by
    decide +kernel
  have e : ∃ pa x, st.coreVa 0 .store 0x3000 = some pa ∧ st.canon pa = some x ∧ 0x10000000000 ≤ x ∧ x < 0x20000000000 := by
    obtain ⟨x, hx, hb⟩ := Option.map_eq_some_iff.mp h.2
    rw [Bool.and_eq_true, decide_eq_true_eq, decide_eq_true_eq] at hb
    exact ⟨_, x, h.1, hx, hb⟩
  refine ⟨?_, ?_, ?_, ?_, ?_, ?_, ?_, ?_, ?_, ?_, ?_, ?_, ?_, e, ?_⟩ <;> first | (unfold State.canTrap; decide +kernel) | (unfold Core.priv; decide +kernel) | decide +kernel
/-- Commands at a unit, each clause: a busy unit; a stale generation, another owner's phase, an entry that is not valid, and one that is. -/
theorem witness_acceptance : let p (n : Nat) : Packet := ⟨packet 1 0 n 0 0 0 [7, 2, 3, 4], 0, false, none, (0, []), [], 0⟩
    let at_ (n : Nat) := State.reset.setNmu 3 { Nmu.reset with queue := [p n] }
    let stale := { at_ 1 with ctxs := [(0, { Ctx.reset with gen := 1 })] }
    let other := { at_ 1 with phases := [(9, ⟨0, false, 3, 4, 0, 0⟩)] }
    let busy := (at_ 1).setNmu 3 { Nmu.reset with queue := [p 1], cmd := some (p 1) }
    (busy.nmu 3).cmd ≠ none ∧ ((at_ 1).nmu 3).cmd = none ∧ ((at_ 1).nmu 3).next = none
    ∧ (stale.ctx (p 1).ctx).gen.toNat ≠ (p 1).gen ∧ ((at_ 1).ctx (p 1).ctx).gen.toNat = (p 1).gen
    ∧ (other.phase (p 1).phase).own.toNat ≠ (p 1).ctx ∧ ((at_ 1).phase (p 1).phase).own.toNat = (p 1).ctx
    ∧ ((at_ 6).nmu 3).entryOf (6 % 64) = none ∧ (((at_ 5).nmu 3).entryOf (5 % 64)).isSome ∧ (at_ 5).unitOps 3 (p 5) = some [0, 0, 0]
    ∧ SMap.get 0 ((nextOf (exec (.commandAcceptance 3) (at_ 5))).nmu 3).x 5 = 3 ∧ SMap.get 0 ((nextOf (exec (.commandAcceptance 3) (at_ 5))).nmu 3).x 0 = 7
    ∧ ((nextOf (exec (.commandAcceptance 3) (at_ 6))).nmu 3).cmd = none ∧ ((nextOf (exec (.commandAcceptance 3) (at_ 6))).phase 9).cnt = 1 := by
  decide +kernel
/-- Stack controller 0 with a command, its operands mapped onto the start of KS0, and table 5 of context `c`: 256 entries of one byte. -/
def stackCommand (bs : List Byte) (c : BitVec 12) : State :=
  let s := { State.reset with tlb := [⟨stackParty 0, 0, 0, 21, 0x100000000FF⟩] }
  numAt (s.setStack 0 ⟨[⟨bs, 0, false, none, (0, []), [], 0⟩], [(5, ⟨true, c, false, false, (List.range 256).map fun i => BitVec.ofNat 16 (255 - i)⟩)]⟩) 0x10000001000 2 0x0201
/-- Table commands, each clause: both operands there, within and past their pages; a table of the context, of another, of other widths; a load
of a size that is and is not one of the four. -/
theorem witness_table_commands : let q (a : Nat) (n : Nat) := packet 2 0 5 a 0x2000 0 [n, 0, 0, 0]
    let s := stackCommand (q 0x1000 2) 0
    let l (n : Nat) := packet 3 0 6 0x1000 0 0 [n, 0, 0, 0]
    let p (bs : List Byte) : Packet := ⟨bs, 0, false, none, (0, []), [], 0⟩
    s.resid = [] ∧ (s.ctx 0).gen.toNat = 0 ∧ (s.phase 9).own.toNat = 0
    ∧ s.stackOp 0 (p (q 0x1000 2)) 0 .load = some 0x10000001000 ∧ s.stackOp 0 (p (q 0x1000 2)) 1 .store = some 0x10000002000
    ∧ s.stackOp 0 (p (q 0x1FFFFF 2)) 0 .load = some (0x10000000000 + 0x1FFFFF) ∧ 2 ^ 21 < (0x10000000000 + 0x1FFFFF) % 2 ^ 21 + 2
    ∧ ((s.stack 0).table 5).v = true ∧ ((s.stack 0).table 5).ctx.toNat = 0 ∧ ((s.stack 0).table 5).wideIdx = false ∧ ((s.stack 0).table 6).v = false
    ∧ (((stackCommand (q 0x1000 2) 3).stack 0).table 5).ctx.toNat ≠ 0 ∧ 300 ∉ [256, 512, 1024, 2048]
    ∧ (nextOf (exec (.tqCommand 0) s)).readCell 0x10000002000 = 254 ∧ (nextOf (exec (.tqCommand 0) s)).readCell 0x10000002001 = 253
    ∧ (((nextOf (exec (.tloadCommand 0) (stackCommand (l 256) 0))).stack 0).table 6).v = true := by decide +kernel
/-- Standard entries, each clause: arguments in range with an index in range and with one out of range, and an argument out of range. The unit
pools one row of sixteen words. -/
def poolUnit (rows idx : Nat) : State :=
  let p : Packet := ⟨packet 1 0 0 0 0 0 [1, 16, rows, 0], 0, false, none, (0, []), [], 0⟩
  numAt (numAt (State.reset.setNmu 0 { Nmu.reset with cmd := some p, ops := [0x10000000000, 0x10000001000, 0x10000002000] }) 0x10000000000 4 idx) 0x10000001040 4 0x3F800000
theorem witness_standard : let s := poolUnit 2 1
    let p : Packet := ⟨packet 1 0 0 0 0 0 [1, 16, 2, 0], 0, false, none, (0, []), [], 0⟩
    let z : Packet := ⟨packet 1 0 0 0 0 0 [1, 16, 0, 0], 0, false, none, (0, []), [], 0⟩
    (s.nmu 0).cmd = some p ∧ (s.nmu 0).image = none ∧ (s.nmu 0).next = none ∧ (s.nmu 0).rmiss = false ∧ p.number = 0 ∧ s.resid = []
    ∧ (entryPool p).reason 0 (s.nmu 0).ops = 0 ∧ (entryPool z).reason 0 (s.nmu 0).ops = 10
    ∧ (s.memWord 0x10000000000).toNat < 2 ∧ ¬ ((poolUnit 2 2).memWord 0x10000000000).toNat < 2
    ∧ (nextOf (exec (.irsum 0) s)).memWord 0x10000002000 = 0x3F800000 ∧ ((nextOf (exec (.irsum 0) s)).phase 9).cnt = 1
    ∧ ((nextOf (exec (.irsum 0) (poolUnit 2 2))).nmu 0).cmd = none ∧ (nextOf (exec (.irsum 0) (poolUnit 2 2))).memWord 0x10000002000 = 0 := by decide +kernel
/-- An IMAC of two rows whose second row fails its check. -/
theorem witness_imac_miss : let p : Packet := ⟨packet 1 0 4 0 0 0 [2, 64, 0, 0], 0, false, none, (0, []), [], 0⟩
    let s := State.reset.setNmu 0 { Nmu.reset with cmd := some p, ops := [0x10000000000, 0x10000001000, 0x10000002000], miss := some 1 }
    (s.nmu 0).cmd = some p ∧ (s.nmu 0).miss = some 1 ∧ 1 < p.arg 0 ∧ p.number = 4 ∧ (entryImac p).reason 4 (s.nmu 0).ops = 0 ∧ s.resid = []
    ∧ ((nextOf (exec (.imac 0) s)).nmu 0).rmiss = true := by decide +kernel
/-- Unit 0 runs a command with operands 0x10000000000 to read and 0x10000002000 to write. -/
def nUnit (n : Nmu) : State :=
  numAt (State.reset.setNmu 0 { n with cmd := some ⟨packet 1 0 0 0 0 0 [0, 0, 0, 0], 0, false, none, (0, []), [], 0⟩, ops := [0x10000000000, 0, 0x10000002000] }) 0x10000000000 8 0x700000005
/-- N-words, each clause: a word without memory, each way to end, a read and a write whose address is and is not in place, a write to a read-only
operand, and a residue that agrees. -/
theorem witness_nwords : let s := nUnit { Nmu.reset with x := [(16, 5), (32, 7)], agb := 0x400000, wbuf := [(0, 9)] }
    let f := nUnit { Nmu.reset with upc := 255 }
    let w : NArgs := { plainN with alu := 2, srcA := 1, srcB := 2, dst := 3, seq := 1, next := 9 }
    let run (x : State) (a : NArgs) := (nextOf (exec (.nWord a) x)).nmu 0
    (s.nmu 0).cmd ≠ none ∧ (s.nmu 0).rmiss = false ∧ (s.nmu 0).next = none ∧ (s.nmu 0).upc ≠ 255 ∧ (s.nmu 0).wcount ≠ 0xFFFFFF ∧ (f.nmu 0).upc = 255
    ∧ s.resid = [] ∧ (run s w).upc = 9 ∧ SMap.get 0 (run s w).x 48 = 35
    ∧ SMap.get 0 (run s { plainN with rd := 1 }).rdr 1 = 7 ∧ (run s { plainN with rd := 1, agaMode := 2, agaReg := 2 }).cmd.isSome
    ∧ (nextOf (exec (.nWord { plainN with wr := 1 }) s)).memWord 0x10000002000 = 9 ∧ (run f { plainN with wr := 1 }).cmd = none
    ∧ (run s { plainN with post := 2, imm := 44 }).cmd = none ∧ (run s { plainN with seq := 5 }).cmd = none ∧ (run f plainN).cmd = none
    ∧ (SMap.get 0 (run s { plainN with res := 3, dst := 1 }).rpred 0).toNat = 5 := by decide +kernel
/-- An image of zeros is accepted: every word has the codes of "none", and no entry is valid (R258). -/
theorem zero_image_ok (m : Nat) : imageOk (imageOf (List.replicate m (0 : Byte))) = true := by
  have z : ∀ n, leNat (List.replicate n (0 : Byte)) = 0 := by
    intro n; induction n with
    | zero => rfl
    | succ n ih => show (0 : Byte).toNat + 256 * leNat (List.replicate n (0 : Byte)) = 0; rw [ih]; rfl
  have l : ∀ k n m, ∀ x ∈ numsOf k n (List.replicate m (0 : Byte)), x = 0 := by
    intro k n; induction n with
    | zero => intro m x h; cases h
    | succ n ih =>
      intro m x h
      rw [numsOf, List.take_replicate, List.drop_replicate, z, List.mem_cons] at h
      exact h.elim id (ih _ x)
  have w : (nArgsOf (BitVec.ofNat 128 0).toNat).wf = true := by decide
  simp only [imageOk, imageOf, List.drop_replicate, Bool.and_eq_true, List.all_eq_true, List.mem_map]
  refine ⟨?_, ?_⟩
  · rintro x ⟨y, hy, rfl⟩; rw [l _ _ _ y hy]; exact w
  · rintro x ⟨y, hy, rfl⟩; rw [l _ _ _ y hy]; decide
/-- `nmload` of an image of zeros to unit 3 of KS0. -/
def nmloading : State := numAt (withG [0x4000, 0x3000]) 0x3000 8 8
/-- Its hypotheses, each clause: the bytes of the image and of the descriptor, with the unit idle and with the unit running a command; a
descriptor with a reserved byte that is not 0; and user mode. -/
theorem witness_nmload : let s := nmloading
    let busy := s.setNmu 3 { s.nmu 3 with cmd := some ⟨packet 1 0 0 0 0 0 [], 0, false, none, (0, []), [], 0⟩ }
    let user := inUser 3 s
    let res := numAt s 0x300F 1 1
    s.me.priv ∧ ¬ user.me.priv ∧ user.canTrap ∧ (s.readS (.g 1)).toNat % 16 = 0 ∧ (s.readS (.g 2)).toNat % 16 = 0
    ∧ (match s.coreLoad 0x4000 4352 with
      | .ok (v, img) => img.all (· == 0) && img.length == 4352 && (match v.coreLoad 0x3000 16 with
        | .ok (w, d) => leAt d 0 8 == 8 && leAt d 8 1 == 0 && d.length == 16 && (d.drop 9).all (· == 0) && (w.nmu 3).cmd.isNone
        | .error _ => false)
      | .error _ => false) = true
    ∧ (match busy.coreLoad 0x3000 16 with
      | .ok (w, _) => (w.nmu 3).cmd.isSome && (w.nmu 3).image.isNone
      | .error _ => false) = true
    ∧ (match res.coreLoad 0x3000 16 with
      | .ok (w, d) => !(d.drop 9).all (· == 0) && w.me.cstat.getLsbD 0 && decide (w.me.wfill.toNat ≤ 192)
      | .error _ => false) = true
    ∧ (nextOf (exec (.nmload (.g 1) (.g 2)) user)).me.tcause = 2 := by
  unfold State.canTrap Core.priv; decide +kernel
/-- Fabric die 0 is there; g1 and g2 select a store and name an operand. -/
def withStore (x : FStore) (a b : W64) : State :=
  { (withG [a, b]).setFstore 0 x with pkg := { Package.reset with dies := 1, tiles := [1] } }
/-- A store of one row: L = 3, B = (6, 0, …). -/
def oneRow : FStore := { FStore.reset with n := 1, l := [(0, 0x40400000)], b := [(0, 0x40C00000)] }
/-- Factor-store refusals, each clause: a selector with a bit that must be 0; a store of another owner; a misaligned operand; stores halted; an
argument out of range, at its first value; and a store without a factor. -/
theorem witness_factor_refusals : let s := withStore oneRow 0 0x2001
    let user := inUser 3 s
    let halted := { withStore oneRow 0 0x2000 with pkg := { Package.reset with dies := 1, tiles := [1], haltFs := true } }
    let bigArg := withStore oneRow 0x7F80000000000000 0x2000
    let none_ := withStore FStore.reset 0 0x2000
    let taken := withStore { oneRow with busy := some 5 } 0 0x2000
    s.canTrap ∧ user.canTrap ∧ (s.readS (.g 1)).toNat = 0 ∧ (s.readS (.g 2)).toNat % 16 ≠ 0 ∧ s.diePresent 0 = true ∧ s.me.priv
    ∧ ¬ user.me.priv ∧ (user.fstore 0).own.toNat ≠ 4096 + 3 ∧ halted.pkg.haltFs = true ∧ (halted.readS (.g 2)).toNat % 16 = 0
    ∧ s.pkg.haltFs = false ∧ (bigArg.readS (.g 1)).toNat = 0x7F800000 * 2 ^ 32 ∧ ((none_.fsResume 0).fstore 0).n = 0
    ∧ ((taken.fsResume 0).fstore 0).busy = some 5 ∧ ((halted.fsResume 0).fstore 0).busy = none ∧ ((bigArg.fsResume 0).fstore 0).busy = none
    ∧ (nextOf (exec (.fsscale (.g 9) (.g 1)) taken)).me.pc = 0x1000
    ∧ (nextOf (exec (.fsscale (.g 9) (.g 1)) (withStore oneRow 64 0))).me.tcause = 1
    ∧ (nextOf (exec (.fsscale (.g 9) (.g 1)) user)).me.tcause = 6 ∧ (nextOf (exec (.fsread (.g 9) (.g 1) (.g 2)) s)).me.tcause = 7
    ∧ (nextOf (exec (.fssolve (.g 9) (.g 1)) halted)).me.readG 9 = fsRd 5 0 ∧ (nextOf (exec (.fsscale (.g 9) (.g 1)) bigArg)).me.readG 9 = fsRd 1 0
    ∧ (nextOf (exec (.fssolve (.g 9) (.g 1)) none_)).me.readG 9 = fsRd 2 0 := by
  unfold State.canTrap Core.priv; decide +kernel
/-- Factor-store forms, each clause: `fsinit` with n = 128 and n = 0, `fssolve`, `fsscale` by 1 and by 4, `fslogdet`, and each part of `fsread` and
`fswrite`. 6 / 3 = 2, 3 · √4 = 6, and log det of (3) is 1.5 · 2^1. -/
theorem witness_factor_forms : let i := withStore FStore.reset (256 * 128) 0x3F000000_3F800000
    let r := withStore oneRow 0 0
    let v := withStore oneRow (65536 * 1) 0x2000
    let sc := withStore oneRow (0x40800000 * 2 ^ 32) 0
    let one := withStore oneRow (0x3F800000 * 2 ^ 32) 0
    let p2 := withStore oneRow 512 0x2000
    let run (s : State) (part : Nat) := match ((withStore oneRow (BitVec.ofNat 64 (256 * part)) 0x2000).fsResume 0).coreRange .store 4 0x2000 (if part = 0 then 4 else if part = 1 then 32 else 16) with
      | .ok as => (as.length, decide as.Nodup, s.pkg.haltFs)
      | .error _ => (0, false, true)
    i.pkg.haltFs = false ∧ (i.readS (.g 1)).toNat = 256 * 128 ∧ 0x3F800000 < 0x7F800000 ∧ 0x3F000000 < 0x3F800000 ∧ i.diePresent 0 = true ∧ i.me.priv
    ∧ (i.fstore 0).own.getLsbD 12 = false ∧ (r.readS (.g 1)).toNat = 0 ∧ (v.readS (.g 1)).toNat = 65536 ∧ ((v.fsResume 0).fstore 0).n ≠ 0
    ∧ ((i.fsResume 0).fstore 0).busy = none ∧ ((v.fsResume 0).fstore 0).busy = none
    ∧ (sc.readS (.g 1)).toNat = 0x40800000 * 2 ^ 32 ∧ (one.readS (.g 1)).toNat = 0x3F800000 * 2 ^ 32 ∧ (p2.readS (.g 1)).toNat = 512 ∧ (p2.readS (.g 2)).toNat % 16 = 0
    ∧ run r 0 = (4, true, false) ∧ run r 1 = (32, true, false) ∧ run r 2 = (16, true, false)
    ∧ (match (p2.fsResume 0).coreLoad 0x2000 16 with
      | .ok (_, bs) => decide (leAt bs 4 4 < 0x3F800000)
      | .error _ => false) = true
    ∧ SMap.get 0 ((nextOf (exec (.fssolve (.g 9) (.g 1)) v)).fstore 0).b 0 = 0x40000000
    ∧ SMap.get 0 ((nextOf (exec (.fsscale (.g 9) (.g 1)) sc)).fstore 0).l 0 = 0x40C00000
    ∧ (nextOf (exec (.fslogdet (.g 9) (.g 1)) r)).me.readG 9 = 0x1_3FC00000
    ∧ ((nextOf (exec (.fsinit (.g 9) (.g 1) (.g 2)) (withStore FStore.reset 512 0x3F000000_3F800000))).fstore 0).n = 2
    ∧ ((nextOf (exec (.fsinit (.g 9) (.g 1) (.g 2)) (withStore oneRow 0 0))).fstore 0).n = 0
    ∧ peek (nextOf (exec (.fsread (.g 9) (.g 1) (.g 2)) (withStore oneRow 0 0x2000))) 0x2000 4 = 0x40400000 := by
  unfold Core.priv; decide +kernel
/-- Rotations: a weight of 1 and the vector (4, 0, …) against L = 3, which `fsupd` makes 5 and `fsddt` refuses. -/
theorem witness_rotations : let s := numAt (withStore oneRow (0x3F800000 * 2 ^ 32) 0x2000) 0x2000 4 0x40800000
    (s.readS (.g 1)).toNat = 2 ^ 32 * 0x3F800000 ∧ s.diePresent 0 = true ∧ s.me.priv ∧ (s.readS (.g 2)).toNat % 16 = 0 ∧ s.pkg.haltFs = false
    ∧ 0x3F800000 < 0x7F800000 ∧ ((s.fsResume 0).fstore 0).n ≠ 0 ∧ ((s.fsResume 0).fstore 0).busy = none
    ∧ (match (s.fsResume 0).coreLoad 0x2000 (4 * ((s.fstore 0).n + 8)) with
      | .ok (u, bs) => u.me.cstat.getLsbD 0 && decide (u.me.wfill.toNat ≤ 192) && bs.length == 36
      | .error _ => false) = true
    ∧ SMap.get 0 ((nextOf (exec (.fsupd (.g 9) (.g 1) (.g 2)) s)).fstore 0).l 0 = 0x40A00000
    ∧ (nextOf (exec (.fsddt (.g 9) (.g 1) (.g 2)) s)).me.tcause = 11 ∧ (nextOf (exec (.fsddt (.g 9) (.g 1) (.g 2)) s)).me.tval = 0 := by
  unfold Core.priv; decide +kernel
/-! ## Block tables, migrations and windows (R216-R227) -/

/-- g1 names blocks l to l + n − 1 of sequence q of the table, and g2 holds v. -/
def withBlocks (q l n v : Nat) : State := withTable (withG [BitVec.ofNat 64 (q * 2 ^ 36 + l * 2 ^ 20 + (n - 1)), BitVec.ofNat 64 v])
/-- What a form of the block table leaves in g9. -/
def told (i : Instr) (s : State) : W64 := (nextOf (exec i s)).me.readG 9
/-- The forms without a table, and with operands that trap. -/
theorem witness_block_table_refusals : let s := withG [0, 0]
    let f := withG [0, BitVec.ofNat 64 (2 ^ 36)]
    let v (n : Nat) := withG [0, BitVec.ofNat 64 n]
    let u := inUser 3 (v 4101)
    s.btdOf 0 = none ∧ s.me.priv ∧ told (.btalloc (.g 9) (.g 1) (.g 2)) s = 6 * 2 ^ 32 ∧ told (.btfork (.g 9) (.g 1) (.g 2)) f = 6 * 2 ^ 32
    ∧ told (.btdrop (.g 9) (.g 1)) s = 6 * 2 ^ 32 ∧ told (.btdemote (.g 9) (.g 1) (.g 2)) s = 6 * 2 ^ 32
    ∧ told (.btpromote (.g 9) (.g 1) (.g 2)) s = 6 * 2 ^ 32 ∧ s.canTrap ∧ u.canTrap ∧ ¬ u.me.priv ∧ (4101 : Nat).testBit 12 = true
    ∧ (u.phase 5).own.toNat ≠ 3
    ∧ (nextOf (exec (.btalloc (.g 9) (.g 1) (.g 2)) (v 2))).me.tcause = 1 ∧ (nextOf (exec (.btfork (.g 9) (.g 1) (.g 2)) (v 1))).me.tcause = 1
    ∧ (nextOf (exec (.btdemote (.g 9) (.g 1) (.g 2)) (v 65536))).me.tcause = 1
    ∧ (nextOf (exec (.btpromote (.g 9) (.g 1) (.g 2)) (v 8192))).me.tcause = 1
    ∧ (nextOf (exec (.btdemote (.g 9) (.g 1) (.g 2)) u)).me.tcause = 6 ∧ (nextOf (exec (.btpromote (.g 9) (.g 1) (.g 2)) u)).me.tval = 5 := by
  unfold State.canTrap Core.priv; decide +kernel
/-- What the table says of a logical block: its shape, whether its free list is empty, its free blocks, and 1 + the pool block mapped there. -/
def tableView (s : State) (x y : Nat) : List Nat :=
  match s.btdOf 0 with
  | some b => [b.ls, b.lb, b.empty.toNat, b.free, (match s.mapped b x y with
      | some i => i + 1
      | none => 0)]
  | none => []
/-- The two unmapped blocks of sequence 1, with another free list. -/
def freeList (head count : Nat) : State := numAt (numAt (withBlocks 1 0 2 0) 0x10000005020 4 head) 0x10000005024 4 count
/-- A block whose count of references is full. -/
def fullCount : State := numAt (withBlocks 0 0 1 (2 ^ 36)) 0x10000007008 8 (65535 * 2 ^ 40 + 3 * 2 ^ 59 + 2 ^ 62)
/-- What the tables below say: mapped and unmapped blocks. -/
theorem witness_table_views : tableView (withBlocks 0 0 1 0) 0 0 = [1, 1, 0, 3, 2]
    ∧ tableView (withBlocks 1 0 2 0) 1 0 = [1, 1, 0, 3, 0] ∧ tableView (withBlocks 1 0 2 0) 1 1 = [1, 1, 0, 3, 0] := by
  decide +kernel
/-- Too few free blocks, an empty list, one that leads outside the pool, and the full count. -/
theorem witness_table_limits : tableView (freeList 7 3) 1 0 = [1, 1, 0, 3, 0] ∧ tableView (freeList 0 1) 1 0 = [1, 1, 0, 1, 0] ∧ tableView (freeList (2 ^ 31) 0) 1 0 = [1, 1, 1, 0, 0]
    ∧ ((fullCount.btdOf 0).map fun x => (fullCount.pbe x 1).ref) = some 65535 := by decide +kernel
/-- The forms with a table, each clause: outside it, mapped or not, with enough free blocks or not, and with a count of references that is full. -/
theorem witness_block_tables : told (.btalloc (.g 9) (.g 1) (.g 2)) (withBlocks 2 0 1 0) = 4294967296
    ∧ told (.btdrop (.g 9) (.g 1)) (withBlocks 0 1 2 0) = 4294967296
    ∧ told (.btfork (.g 9) (.g 1) (.g 2)) (withBlocks 0 0 1 (2 * 2 ^ 36)) = 4294967296
    ∧ told (.btalloc (.g 9) (.g 1) (.g 2)) (withBlocks 0 0 1 0) = 3 * 4294967296
    ∧ told (.btalloc (.g 9) (.g 1) (.g 2)) (freeList 0 1) = 4 * 4294967296
    ∧ told (.btalloc (.g 9) (.g 1) (.g 2)) (freeList (2 ^ 31) 0) = 4 * 4294967296
    ∧ told (.btalloc (.g 9) (.g 1) (.g 2)) (freeList 7 3) = 4 * 4294967296
    ∧ told (.btalloc (.g 9) (.g 1) (.g 2)) (withBlocks 1 0 2 0) = 2 ∧ told (.btdrop (.g 9) (.g 1)) (withBlocks 0 0 1 0) = 0 := by decide +kernel
/-- The clauses of `btfork`: nothing to share, a place that is taken, one block shared, and the full count. -/
theorem witness_fork : told (.btfork (.g 9) (.g 1) (.g 2)) (withBlocks 1 0 1 0) = 2 * 4294967296
    ∧ told (.btfork (.g 9) (.g 1) (.g 2)) (withBlocks 0 0 1 0) = 3 * 4294967296
    ∧ told (.btfork (.g 9) (.g 1) (.g 2)) (withBlocks 0 0 1 (2 ^ 36)) = 1
    ∧ told (.btfork (.g 9) (.g 1) (.g 2)) fullCount = 5 * 4294967296 := by decide +kernel
/-- A demotion of a LIVE block begins, and a promotion of it does not. -/
theorem witness_migration_begins : let s := numAt (withBlocks 0 0 1 0) 0x10000007008 8 (2 ^ 40 + 3 * 2 ^ 59 + 2 ^ 62)
    told (.btdemote (.g 9) (.g 1) (.g 2)) s = 1 ∧ told (.btpromote (.g 9) (.g 1) (.g 2)) s = 0
    ∧ (nextOf (exec (.btdemote (.g 9) (.g 1) (.g 2)) s)).migrs.length = 1 := by decide +kernel
/-- Cells from the start of stack memory to the end of the LP tier name themselves. -/
theorem cells_plain (s : State) (pa n : Nat) (h1 : stackBase ≤ pa) (h2 : pa + n ≤ portBase) : s.cells pa n = some (cellRun pa n) := by
  induction n generalizing pa with
  | zero => rfl
  | succ n ih =>
    have h3 : s.canon pa = some pa := by rw [State.canon, if_neg (by omega), if_pos (by omega)]
    have h4 : cellRun pa (n + 1) = pa :: cellRun (pa + 1) n := by
      simp only [cellRun, List.range_succ_eq_map, List.map_cons, List.map_map, Nat.add_zero]
      congr 1; apply List.map_congr_left; intro k _; simp only [Function.comp_apply]; omega
    rw [State.cells, h3, ih _ (by omega) (by omega), h4]
/-- Cells of this package can be reached now. -/
theorem live_plain {s : State} {p n : Nat} {as : List Nat} (h : p < spanBase) (c : s.cells p n = some as) : s.liveCells p n = some as := by
  have hb : s.heldBy p = none := by
    unfold State.heldBy State.remoteOf
    rw [if_neg (fun g => absurd (And.left g) (Nat.not_le.mpr h))]
  rw [State.liveCells, hb, c]; rfl
/-- A migration of block 1 in the given direction and form, to be counted in phase 9. -/
def migrating (promote : Bool) (form : Nat) : State :=
  { numAt (withTable (withG [])) 0x10000007008 8 (2 ^ 40 + 3 * 2 ^ 59 + 2 ^ 63) with migrs := [(0, some ⟨0, 1, promote, form, false, some 9⟩)] }
/-- The table of those states. -/
def aTable : Btd := ⟨0x10000005000, 0x10000006000, 0x10000007000, 0x10000100000, 0x20000000000, false, 0, 3, 14, 1, 1, 4⟩
/-- They have that table. -/
theorem migrating_table : (migrating false 0).btdOf 0 = some aTable ∧ (migrating false 1).btdOf 0 = some aTable ∧ (migrating false 2).btdOf 0 = some aTable
    ∧ (migrating true 0).btdOf 0 = some aTable := by decide +kernel
/-- The hypotheses that both directions share. -/
theorem witness_migrations (promote : Bool) (form : Fin 3) : let s := migrating promote form
    SMap.get none s.migrs 0 = some ⟨0, 1, promote, form, false, some 9⟩
    ∧ s.migrHeld ⟨0, 1, promote, form, false, some 9⟩ = false ∧ 1 < aTable.npool
    ∧ ∃ hs cs ps, s.liveCells (aTable.hotSlot 1) aTable.size = some hs ∧ s.liveCells (aTable.coldSlot 1) aTable.size = some cs
      ∧ s.liveCells (aTable.poolAt 1) 8 = some ps ∧ hs.Nodup ∧ cs.Nodup ∧ ps.Nodup ∧ (∀ a ∈ ps, a ∉ hs ∧ a ∉ cs)
      ∧ s.badPa (cellRun (aTable.hotSlot 1) aTable.size) = none := by
  intro s
  have hh := cells_plain s (aTable.hotSlot 1) aTable.size (by decide) (by decide)
  have hc := cells_plain s (aTable.coldSlot 1) aTable.size (by decide) (by decide)
  have hp := cells_plain s (aTable.poolAt 1) 8 (by decide) (by decide)
  have mem : ∀ a p n, a ∈ cellRun p n → p ≤ a ∧ a < p + n := by
    intro a p n h; simp only [cellRun, List.mem_map, List.mem_range] at h; omega
  have live {p n : Nat} {as : List Nat} (h : p < spanBase) (c : s.cells p n = some as) : s.liveCells p n = some as := live_plain h c
  have held : ∀ (p : Bool) (f : Fin 3), (migrating p f).migrHeld ⟨0, 1, p, f, false, some 9⟩ = false := by decide +kernel
  refine ⟨rfl, held promote form, by decide, _, _, _, live (by decide) hh, live (by decide) hc, live (by decide) hp, State.nodup_cells hh (by decide), State.nodup_cells hc (by decide), State.nodup_cells hp (by decide), ?_, ?_⟩
  · intro a ha
    have h0 := mem _ _ _ ha
    have e1 : aTable.poolAt 1 = 0x10000007008 := rfl
    have e2 : aTable.hotSlot 1 = 0x10000104000 := rfl
    have e3 : aTable.coldSlot 1 = 0x20000004000 := rfl
    exact ⟨fun h => by have := mem _ _ _ h; omega, fun h => by have := mem _ _ _ h; omega⟩
  · have hb : s.resid = [] := (by decide +kernel : (migrating false 0).resid = [])
    simp only [State.badPa, List.find?_eq_none]
    intro x _; cases h : s.canon x <;> simp [State.badAddr, State.badCell, h, hb]
/-- The promotion's block is raw in its cold slot, all of it. -/
theorem witness_promotion : ((migrating true 0).coldData aTable 1).length = aTable.size := by
  have h : ((migrating true 0).pbe aTable 1).cmp = 3 := by decide +kernel
  have hc := cells_plain (migrating true 0) (aTable.coldSlot 1) aTable.size (by decide) (by decide)
  have hl := live_plain (by decide) hc
  simp only [State.coldData, h, State.physRead, hl]
  simp [cellRun]
/-- A block of zeros has a lossy form. -/
theorem witness_lossy (n : Nat) : lossyBytes fmtF16 (List.replicate n 0) ≠ none := by
  have z : ∀ n, leNat (List.replicate n (0 : Byte)) = 0 := by
    intro n; induction n with
    | zero => rfl
    | succ n ih => show (0 : Byte).toNat + 256 * leNat (List.replicate n (0 : Byte)) = 0; rw [ih]; rfl
  have l : ∀ o m, leAt (List.replicate n (0 : Byte)) o m = 0 := by
    intro o m; rw [leAt, List.drop_replicate, List.take_replicate, z]
  have d : ((fmtF16.decode 0).isNaN || (fmtF16.decode 0).isInf) = false := by decide
  unfold lossyBytes
  have e : (((List.range ((List.replicate n (0 : Byte)).length / 2)).map fun k => fmtF16.decode (leAt (List.replicate n 0) (2 * k) 2)).any
      fun x => x.isNaN || x.isInf) = false := by
    simp only [l, List.any_eq_false, List.mem_map]
    rintro x ⟨_, _, rfl⟩; simp [d]
  simp only [e]; simp
/-- A shadow window descriptor (R226) of NPOS 4-byte elements at `winb`, in slot `n`: g1 names it, g2 holds n. -/
def withShadow (winb npos n : Nat) : State :=
  bytesAt (withG [0x2000, BitVec.ofNat 64 n]) 0x2000 (leBytes 8 winb ++ leBytes 8 0x20000 ++ leBytes 8 0x30000 ++ leBytes 4 npos ++ [2, 0, 0, 0])
/-- Each clause of `swbind`: a slot out of range, a misaligned descriptor, an unbinding, a binding, a bad base and a meeting of two windows. -/
theorem witness_shadow : let s := withShadow 0x10000 256 5
    let far := withShadow 0x10000 256 64
    let odd := withG [0x2010, 63]
    let off := { withShadow 0x10000 0 63 with shadows := [(63, ⟨0x77000, 0, 0, 4, false, 2⟩)] }
    let bad := withShadow 0x10001 256 5
    let near (x : W64) := { s with shadows := [(6, ⟨x, 0, 0, 64, false, 2⟩)] }
    let run (s : State) := nextOf (exec (.swbind (.g 9) (.g 1) (.g 2)) s)
    let reads (s : State) := match s.coreLoad 0x2000 32 with
      | .ok (_, bs) => bs.length == 32
      | .error _ => false
    s.canTrap ∧ reads s = true ∧ reads off = true ∧ reads bad = true
    ∧ (run far).me.tcause = 1 ∧ (run odd).me.tcause = 7 ∧ (run off).me.readG 9 = 0x77000 ∧ (run off).shadow 63 = Shadow.reset
    ∧ (run s).shadow 5 = ⟨0x10000, 0x20000, 0x30000, 256, false, 2⟩ ∧ (run bad).me.tcause = 9
    ∧ (run (near 0x103C0)).me.tcause = 9 ∧ (run (near 0x10400)).me.tcause = 0 ∧ (run (near 0xFF40)).me.tcause = 9 ∧ (run (near 0xFF00)).me.tcause = 0 := by
  unfold State.canTrap; decide +kernel

/-! ## The dispatcher (R162-R169, R206, R405) -/

/-- Who directs the dispatcher and who does not; a doorbell, a ring base, the enable bit, a save area, a translation root and an 8-byte write. -/
theorem witness_dispatcher_window : let s := { withG [] with queues := [(262143, { Queue.reset with ring := 0x4001 })], pkg := { Package.reset with bootStep := 6 } }
    let put (off : Nat) (v : W64) := nextOf (exec (.dispatcherWindowWrite .host off 4 v) s)
    let late := { s with late := [⟨none, 0x4010000000000, [1], none, true, 0⟩] }
    s.Directs .host ∧ ¬ s.Directs .bmc ∧ ¬ s.Directs (.core 0) ∧ s.Directs (.core 135)
    ∧ (nextOf (exec (.doorbell .host 262143 2) s)).queue 262143 = { s.queue 262143 with tailix := 2, ages := [(2, 0)] }
    ∧ ((nextOf (exec (.doorbell .host 262143 3) s)).queue 262143).dberr = true
    ∧ ((put (32 * 262143) 0x1234FFC5).queue 262143).ring = 0x1234FFC5 ∧ ((put (32 * 262143 + 8) (2 ^ 31)).queue 262143).en = true
    ∧ ((put (0x1000004 + 16 * 4095) 1).ctx 4095).save = 0x100000000 ∧ ((put 0x1010000 0xFFFFFFFF).ctx 0).root = 0xFFFFE001
    ∧ ((put (0x1000008 + 16 * 7) 0x100).ctx 7).gen = 1
    ∧ ((nextOf (exec (.dispatcherWindowWrite .host 0x1000000 8 0x100001000) s)).ctx 0).save = 0x100001000
    ∧ put 0x1020000 5 = s ∧ put 0x10200FC 5 = s ∧ s.hostLate = false
    ∧ late.hostLate = true ∧ (nextOf (exec (.doorbell .host 262143 2) late)).late.length = 2 ∧ late.Directs .host := by
  have d (x : State) (h : x.pkg.power = true) (h6 : x.pkg.bootStep = 6) : x.Directs .host := Or.inl ⟨rfl, h, h6⟩
  refine ⟨Or.inl ⟨rfl, by decide +kernel, by decide +kernel⟩, ?_, ?_, Or.inr ⟨135, rfl, by decide, by unfold Core.priv; decide⟩, ?_, ?_, ?_, ?_, ?_, ?_, ?_, ?_, ?_, ?_, ?_, ?_, ?_, d _ (by decide +kernel) (by decide +kernel)⟩
  · rintro (⟨h, -⟩ | ⟨n, h, -⟩) <;> cases h
  · rintro (⟨h, -⟩ | ⟨n, h, hn, -⟩)
    · cases h
    · cases h; omega
  all_goals decide +kernel
/-- The bytes of a work record (R162): graph, generation, priority, die mask, dependence, phase, threshold. -/
def recordBytes (gd gen prio mask dep ph th : Nat) : List Byte :=
  leBytes 8 gd ++ leBytes 8 0 ++ leBytes 2 0 ++ [BitVec.ofNat 8 gen, BitVec.ofNat 8 prio, BitVec.ofNat 8 mask, BitVec.ofNat 8 dep] ++ leBytes 2 ph
    ++ leBytes 4 th ++ List.replicate 36 0
/-- Queue 5 holds that record at 0x4000. The graph at 0x5000 has one stage and two loads; both are the FLD at 0x6000, of one region of one tile
with the rows at 0x7000, one END row. Fabric die 0 has tile 0. -/
def launching (ttcount : Nat) (bs : List Byte) : State :=
  let s := { withG [] with
    queues := [(5, { Queue.reset with ring := 0x4001, en := true, tailix := 1, ages := [(1, 0)] })], pkg := { Package.reset with bootStep := 6, dies := 1, tiles := [1] } }
  let g := numAt (numAt (numAt (bytesAt s 0x4000 bs) 0x5000 8 (1 + 2 * 2 ^ 32 + 2 ^ 48)) 0x5008 1 1) 0x5100 8 0x6000
  let f := numAt (numAt (numAt g 0x5108 8 0x6000) 0x6000 8 (1 + 2 ^ 32)) 0x6008 4 ttcount
  numAt (numAt (numAt f 0x6050 8 0x7000) 0x6058 2 1) 0x7000 8 0xB00000002C000000
/-- A teardown of context 0: of a busy context; with a pending load, a resident one, a substitution table and an ownership table of the context. -/
theorem witness_teardown : let rec_ := recordOf (recordBytes 0x5000 0 0 1 0 0 0)
    let u := (launching 1 []).setLaunch 2 { Launch.reset with live := true, record := rec_, nload := 2, nstage := 1 }
    let s := { u.setStack 0 ⟨[], [(5, { SubTable.reset with v := true })]⟩ with
      loads := [(3, { Load.reset with st := .pending, launch := 2 }), (4, { Load.reset with st := .resident, launch := 2 })], otctx := 4096 }
    let busy := { s with ctxs := [(0, { s.ctx 0 with busy := true })] }
    let stuck := s.setAgu 0 { Agu.reset with st := .stalled }
    let t := nextOf (exec (.teardown .host 0) s)
    s.hostLate = false ∧ (s.ctx 0).busy = false ∧ (busy.ctx 0).busy = true ∧ (s.launch 2).live = true ∧ s.loadCtx 3 = 0 ∧ s.loadCtx 4 = 0 ∧ s.otctx.toNat = 4096
    ∧ (nextOf (exec (.teardown .host 0) busy)).ctx 0 = busy.ctx 0 ∧ (t.ctx 0).gen = 1 ∧ (t.ctx 0).busy = true ∧ t.load 3 = Load.reset
    ∧ (stuck.agu 0).st = .stalled ∧ (stuck.agu 0).ctx.toNat = 0 ∧ ((nextOf (exec (.teardown .host 0) stuck)).agu 0).st = .bound
    ∧ (t.load 4).stop = 10 ∧ t.otctx = 0 ∧ (SMap.get SubTable.reset (t.stack 0).tables 5).v = false := by decide +kernel
/-- Head records, each clause: a stale generation, one that waits, one that cannot be read, and ready ones of levels 2 and 7,
which have waited 2 ms and which have not. -/
theorem witness_heads : let b := recordBytes 0x5000 1 0 1 0 0 0
    let w := recordBytes 0x5000 0 0 1 1 5 4
    let r := recordBytes 0x5000 0 2 1 0 0 0
    let top := recordBytes 0x5000 0 7 1 0 0 0
    let s := launching 1 b
    let v := { s with queues := [(5, { s.queue 5 with ring := 0x10000000001 })] }
    let old (b : List Byte) := { s with queues := [(5, { s.queue 5 with waited := 4000000 })], mem := (launching 1 b).mem }
    let heads (s : State) (r : Record) := (s.queue 5).en = true ∧ 1 ≤ (s.queue 5).ring.toNat % 64 ∧ (s.queue 5).ring.toNat % 64 ≤ 16 ∧ (s.queue 5).tailix ≠ (s.queue 5).headix
      ∧ s.headRecord 5 = some r
    heads s (recordOf b) ∧ s.rejects 5 (recordOf b) = some 2
    ∧ heads (launching 1 w) (recordOf w) ∧ (launching 1 w).rejects 5 (recordOf w) = none ∧ (recordOf w).dep = true
    ∧ ((launching 1 w).phase (recordOf w).dphase.toNat).cnt.toNat < (recordOf w).dthresh.toNat
    ∧ v.headRecord 5 = none ∧ v.ctxHeld 0 .load [(v.queue 5).headSlot] = none
    ∧ heads (launching 1 r) (recordOf r) ∧ (launching 1 r).rejects 5 (recordOf r) = none ∧ (recordOf r).dep = false
    ∧ heads (launching 1 top) (recordOf top) ∧ (launching 1 top).rejects 5 (recordOf top) = none
    ∧ SMap.get 0 (nextOf (exec (.recordRejection 5) s)).perf 0x301 = 1 ∧ ((nextOf (exec (.recordRejection 5) v)).queue 5).dberr = true
    ∧ ((old r).queue 5).waited = 4000000 ∧ ((nextOf (exec (.queueLevelRaise 5) (old r))).queue 5).raises = 1
    ∧ ((nextOf (exec (.queueLevelRaise 5) (old top))).queue 5).raises = 0 ∧ ((nextOf (exec (.queueLevelRaise 5) (launching 1 r))).queue 5).raises = 0 := by decide +kernel
/-- Taking, each clause: another queue's record comes first; no graph at the record's address; and a graph whose loads can be placed. -/
theorem witness_taking : let r := recordBytes 0x5000 0 2 1 0 0 0
    let top := recordBytes 0x5000 0 7 1 0 0 0
    let s := launching 1 r
    let two := bytesAt { s with queues := s.queues ++ [(6, { s.queue 5 with ring := 0x4801 })] } 0x4800 top
    let none_ := launching 1 (recordBytes 0x5800 0 2 1 0 0 0)
    let fits (s : State) := match (s.forQueue 5).graphAt 0 0x5000, (s.forQueue 5).loadDescAt 0 0x6000 with
      | some g, some d => g.nstage == 1 && g.entry == [0] && g.table == [0x6000, 0x6000] && s.couldFit 1 d
      | _, _ => false
    let t := nextOf (exec (.recordTake 5) s)
    two.isReady 5 = true ∧ two.isReady 6 = true ∧ two.beats 6 5 = true ∧ two.beats 5 6 = false ∧ s.beats 5 5 = false ∧ s.isReady 5 = true
    ∧ (none_.forQueue 5).graphAt 0 0x5800 = none ∧ s.ctxHeld 0 .load ((s.forQueue 5).takeRanges 0 0x5000) = none
    ∧ none_.ctxHeld 0 .load ((none_.forQueue 5).takeRanges 0 0x5800) = none
    ∧ fits s = true
    ∧ (nextOf (exec (.recordTake 5) none_)).queue 5 = (none_.queue 5).popped ∧ (t.load 0).st = .pending ∧ (t.load 0).fld = 0x6000
    ∧ (t.launch 0).live = true ∧ (t.queue 5).headix = 1 := by decide +kernel
/-! ## Loads on the fabric (R172-R174, R195, R238-R247, R313, R358) -/

/-- Load 3 of that graph, pending, for the dies of a mask. -/
def pendingLoad (mask : Nat) (x : Load) : State :=
  let s := (launching 1 []).setLaunch 2 { Launch.reset with
    live := true, record := recordOf (recordBytes 0x5000 0 0 mask 0 0 0), nload := 2, nstage := 1, table := [0x6000, 0x6000] }
  s.setLoad 3 { x with st := .pending, launch := 2, fld := 0x6000, desc := (s.loadDescAt 0 0x6000).getD x.desc }
/-- The same load, resident in region 0, of one tile, which stands in `m`. -/
def residentLoad (m : RMode) (x : Load) : State :=
  let s := pendingLoad 1 x
  (s.setLoad 3 { s.load 3 with st := .resident, regions := [0] }).setRegion 0 { Region.reset with mode := m, load := 3, w := 1, h := 1 }
/-- Die 0, tile (0, 0), core 0, and a replay area. -/
def aSite : PlaceArgs := ⟨0, 0, 0, 0, [0x100000]⟩
/-- The descriptor of load 3, as the dispatcher reads it, put to a test. -/
def descHas (s : State) (f : LoadDesc → Bool) : Bool := (s.loadDescAt 0 (s.load 3).fld.toNat).elim false f
/-- Placement, each clause: resident already; a pre-empted load; a store of another load; no die; bad rows; a place it cannot go; a store of
another context; and a placement. -/
theorem witness_placement : let s := pendingLoad 1 Load.reset
    let taken := (numAt s 0x6018 1 1).setFstore 0 { FStore.reset with bound := some 9 }
    let at_ (x : State) := x.setLoad 3 { x.load 3 with desc := (x.loadDescAt 0 0x6000).getD LoadDesc.none }
    let rows := numAt s 0x7000 8 0xF000000000000000
    let other := at_ ((numAt s 0x6018 1 1).setFstore 0 { FStore.reset with own := 4096 + 3 })
    let run (x : State) (p : PlaceArgs) := nextOf (exec (.placement 3 p) x)
    (s.load 3).st = .pending ∧ (s.load 3).image = none ∧ ((residentLoad .run Load.reset).load 3).st = .resident
    ∧ descHas (at_ taken) (fun d => (at_ taken).canPlace 1 d aSite && !(at_ taken).storesFree 3 d 0) = true ∧ descHas (pendingLoad 2 Load.reset) (fun d => !s.couldFit 2 d) = true
    ∧ descHas rows (fun d => rows.couldFit 1 d && rows.canPlace 1 d aSite && rows.storesFree 3 d 0 && !rows.loadHeld 3 ((rows.forLoad 3).descRanges 0 d)
      && ((rows.forLoad 3).imagesOf 0 d true).isNone) = true
    ∧ descHas s (fun d => ((s.forLoad 3).imagesOf 0 d true).isSome && s.couldFit 1 d && s.canPlace 1 d aSite && !s.canPlace 1 d ⟨0, 1, 0, 0, [0x100000]⟩ && s.storesFree 3 d 0
      && d.regions.all (fun r => decide (1 ≤ r.w) && decide (1 ≤ r.h)) && apart RegionDesc.meets d.regions && decide (d.attach 0).Nodup
      && !s.loadHeld 3 ((s.forLoad 3).descRanges 0 d)) = true
    ∧ descHas other (fun d => other.couldFit 1 d && other.canPlace 1 d aSite && d.fsbind.getLsbD 0 && (other.fstore 0).own.toNat == 4096 + 3) = true
    ∧ ((run (at_ taken) aSite).load 3).st = .pending ∧ (run (pendingLoad 2 Load.reset) aSite).load 3 = Load.reset ∧ (run rows aSite).load 3 = Load.reset
    ∧ ((run s ⟨0, 1, 0, 0, [0x100000]⟩).load 3).st = .pending ∧ (run other aSite).load 3 = Load.reset
    ∧ ((run s aSite).load 3).regions = [0] ∧ ((run s aSite).region 0).rows = [0xB00000002C000000] := by decide +kernel
/-- Start pulses, each clause. -/
theorem witness_start_pulse : let s := residentLoad .ready { Load.reset with fresh := true }
    let t := nextOf (exec (.tileTaskStart 3) s)
    (s.load 3).st = .resident ∧ (s.load 3).regions = [0] ∧ (s.region 0).mode = .ready ∧ ((residentLoad .run Load.reset).region 0).mode = .run
    ∧ (t.region 0).mode = .run ∧ (t.load 3).fresh = false := by decide +kernel
/-- Boundaries before all regions of the load are there: another region runs, and another waits for a switch while the last tile-task ends. -/
theorem witness_boundary_waits : let s (m : RMode) := let u := residentLoad .boundary { Load.reset with ttcount := 1 }
      (u.setLoad 3 { u.load 3 with regions := [0, 1] }).setRegion 1 { Region.reset with mode := m, load := 3, w := 1, h := 1 }
    ((s .run).region 0).mode = .boundary ∧ ((s .run).region 1).mode = .run ∧ ((s (.switching 1)).load 3).ttrun + 1 = 1
    ∧ (nextOf (exec (.tileTaskBoundary 0) (s .run))).region 0 = (s .run).region 0
    ∧ (nextOf (exec (.tileTaskBoundary 0) (s (.switching 1)))).region 0 = { (s .run).region 0 with freeze := some ⟨2, 3, 1, none⟩ } := by decide +kernel
/-- Boundaries of all regions, each clause: a stop, the last tile-task, a next one, a skipped one, a dry load whose producers have ended, and one with
input. -/
theorem witness_boundaries : let s (n : Nat) := residentLoad .boundary { Load.reset with ttcount := n }
    let stop := residentLoad .boundary { Load.reset with stop := 10 }
    let form (x : State) := x.setRegion 0 { x.region 0 with formReq := true }
    let asked := form ((s 5).setLoad 3 { (s 5).load 3 with reqPreempt := true, counted := true })
    let busy := (s 5).setElem 0 { Elem.reset with ctx := [(0, ⟨.live, 0⟩)] }
    let fed := bytesAt ((s 0).setRegion 0 { (s 0).region 0 with binds := [(1, .input 0x2000)] }) 0x2000 (sqdBytes 6 5 6)
    let run (x : State) := nextOf (exec (.tileTaskBoundary 0) x)
    ((s 5).region 0).formReq = false ∧ (s 5).samplesLeft 3 = false ∧ (s 5).egressMoves 3 = false ∧ stop.egressMoves 3 = false ∧ (s 1).outputsLeft 3 = false ∧ ((s 1).load 3).ttrun + 1 = 1
    ∧ (s 5).swapTo 3 = none ∧ ((s 5).load 3).reqPreempt = false ∧ (s 5).skips 3 = true ∧ busy.skips 3 = false ∧ (s 0).dry 3 = true
    ∧ (s 0).producersEnded 3 = true ∧ (s 0).outputsLeft 3 = false ∧ fed.dry 3 = false ∧ fed.hasInput 3 = true ∧ fed.swapTo 3 = none
    ∧ ((form stop).region 0).formReq = true ∧ (form stop).samplesLeft 3 = false ∧ (form stop).egressMoves 3 = false ∧ (run (form stop)).load 3 = Load.reset
    ∧ (asked.region 0).formReq = true ∧ (asked.load 3).stop = 0
    ∧ (run stop).load 3 = Load.reset ∧ (run (s 1)).load 3 = Load.reset ∧ ((run busy).region 0).mode = .ready ∧ ((run (s 5)).load 3).ttrun = 2
    ∧ (run (s 0)).load 3 = Load.reset ∧ ((run fed).region 0).mode = .ready := by decide +kernel
/-- Pre-emptions, each clause: requests that may and may not be made, while the regions settle and while they do not, a pre-emption without a
request, and one whose regions are at their boundary or at the end of a switch. -/
theorem witness_preemption : let s := residentLoad .boundary { Load.reset with reqPreempt := true, counted := true }
    let sw0 := residentLoad .ready { Load.reset with reqPreempt := true, fresh := true }
    let sw := sw0.setRegion 0 { sw0.region 0 with switched := true }
    let free := residentLoad .run Load.reset
    let settling := free.setRegion 0 { free.region 0 with settle := true }
    (s.load 3).st = .resident ∧ (s.load 3).stop = 0 ∧ s.streamsStopped 3 = true ∧ (s.load 3).reqPreempt = true ∧ (s.region 0).mode = .boundary
    ∧ (s.load 3).counted = true ∧ (s.load 3).ttcount = 0
    ∧ (sw.load 3).fresh = true ∧ (sw.load 3).reqPreempt = true ∧ (sw.region 0).mode = .ready ∧ (sw.region 0).switched = true ∧ sw.streamsStopped 3 = true
    ∧ free.mayRequest .host 3 = true ∧ free.mayRequest .swap 3 = false ∧ (free.region 0).settle = false ∧ (free.region 0).formReq = false
    ∧ (settling.region 0).settle = true ∧ (settling.region 0).mode = .run
    ∧ ((nextOf (exec (.preemptionRequest .host 3) free)).load 3).reqPreempt = true
    ∧ ((nextOf (exec (.preemptionRequest .host 3) settling)).region 0).formReq = true := by decide +kernel
/-- Resumptions, each clause: an erased key; another die; and a place to go, with an image that can be read. -/
theorem witness_resumption : let x : Load := { Load.reset with image := some 0x9000, imageLen := 16, plain := [1], saved := [(5, Agu.reset)] }
    let s := pendingLoad 1 x
    let erased := pendingLoad 1 { x with imageKey := false }
    let none_ := numAt s 0x6000 8 0
    let rows := numAt s 0x7000 8 0xF000000000000000
    let bound (f : FStore) := (numAt s 0x6018 1 1).setFstore 0 f
    let first (t : State) : Bool := (t.load 3).imageKey && t.canPlace 1 (t.load 3).desc aSite && !t.loadHeld 3 ((0x9000, 16) :: (t.forLoad 3).loadRanges 0 0x6000)
    let next (t : State) (f : LoadDesc → Bool) : Bool := first t && ((t.forLoad 3).loadDescAt 0 0x6000).elim false fun d => f d
      && !t.loadHeld 3 ((t.forLoad 3).loadRanges 0 0x6000 ++ (t.forLoad 3).descRanges 0 d ++ [(0x9000, 16)])
    first none_ = true ∧ (none_.forLoad 3).loadDescAt 0 0x6000 = none
    ∧ next s (fun d => s.canPlace 1 d aSite && !(d.stores 0).any (s.storeForeign 0) && s.storesFree 3 d 0 && ((s.forLoad 3).imagesOf 0 d true).isSome) = true
    ∧ next rows (fun d => rows.canPlace 1 d aSite && rows.storesFree 3 d 0 && ((rows.forLoad 3).imagesOf 0 d true).isNone) = true
    ∧ next (bound { FStore.reset with own := 4096 + 3 }) (fun d => (d.stores 0).any ((bound { FStore.reset with own := 4096 + 3 }).storeForeign 0)) = true
    ∧ next (bound { FStore.reset with bound := some 9 }) (fun d => !(bound { FStore.reset with bound := some 9 }).storesFree 3 d 0) = true
    ∧ next (numAt s 0x6040 1 20) (fun d => !(numAt s 0x6040 1 20).canPlace 1 d aSite) = true
    ∧ (s.load 3).image = some 0x9000 ∧ (s.load 3).st = .pending ∧ (s.load 3).imageKey = true ∧ (s.load 3).die = 0 ∧ ((s.forLoad 3).ctxRead 0 0x9000 16).isSome = true
    ∧ descHas s (fun d => (s.imagesOf 0 d true).isSome && s.canPlace 1 d aSite) = true ∧ (erased.load 3).imageKey = false
    ∧ ((pendingLoad 1 { x with die := 1 }).load 3).die ≠ aSite.die
    ∧ (nextOf (exec (.resumption 3 aSite) erased)).load 3 = Load.reset := by decide +kernel
/-- An image that opens to its whole length: 211 units hold a region of one tile. -/
theorem witness_image_length (c gen : Nat) (mem : List Byte) : let plain := List.replicate (4096 * 211) (0 : Byte)
    imageSize 1 1 ≤ plain.length ∧ imageSize 1 1 ≤ (openImage c gen plain mem).length := by
  have h : (openImage c gen (List.replicate (4096 * 211) (0 : Byte)) mem).length = 211 * 4096 := by
    unfold openImage
    rw [List.length_flatMap, List.length_replicate, List.map_congr_left (g := fun _ => 4096), List.map_const', List.sum_replicate,
      List.length_range]
    · rfl
    · intro i hi
      rw [List.mem_range] at hi
      have hp : ((List.drop (4096 * i) (List.replicate (4096 * 211) (0 : Byte))).take 4096).length = 4096 := by
        rw [List.length_take, List.length_drop, List.length_replicate]; omega
      show (if _ then _ else _ : List Byte).length = 4096
      split
      · exact hp
      · rw [List.length_take, hp, List.length_append, zeros, List.length_replicate]; omega
  refine ⟨?_, ?_⟩
  · rw [List.length_replicate]; decide
  · rw [h]; decide
/-- Switches in place, each clause: no index yet; a drain that is not over; a store that is taken; and a switch. -/
theorem witness_switch_in_place : let s := residentLoad (.switching 1) Load.reset
    let waits := s.setRegion 0 { s.region 0 with released := [⟨none, true, .stage 2 [7] 0⟩] }
    let taken := (numAt s 0x6018 1 1).setFstore 0 { FStore.reset with bound := some 9 }
    let target (x : State) (f : LoadDesc → Bool) : Bool := match x.switchTarget 3 with
      | some (k, a, d) => k == 1 && a == 0x6000 && f d
      | none => false
    let t := nextOf (exec (.inPlaceSwitch 3) s)
    (residentLoad .run Load.reset).switchIndex 3 = none
    ∧ target s (fun d => s.sameForms 3 d && ((s.forLoad 3).imagesOf 0 d false).isSome && s.switchDrained 3 && !(d.stores 0).any (s.storeForeign 0)
      && (d.stores 0).all (fun f => !s.storeTaken 3 f) && (d.attach 0).isEmpty && !s.loadHeld 3 (s.switchRanges 3)) = true
    ∧ (s.load 3).st = .resident ∧ (s.load 3).stop = 0 ∧ (s.load 3).reqPreempt = false ∧ waits.switchDrained 3 = false
    ∧ target taken (fun d => taken.sameForms 3 d && ((taken.forLoad 3).imagesOf 0 d false).isSome && (d.stores 0).any (taken.storeTaken 3)
      && !(d.stores 0).any (taken.storeForeign 0)) = true
    ∧ (t.region 0).mode = .ready ∧ (t.load 3).x = 1 := by decide +kernel
/-- Switches that are refused, each clause: no descriptor; rows that are none; and a store of another context once the drain is over. -/
theorem witness_switch_faults : let s := residentLoad (.switching 1) Load.reset
    let gone := s.setLaunch 2 { s.launch 2 with table := [0x6000, 0x5800] }
    let rows := numAt s 0x7000 8 0xF000000000000000
    let other := (numAt s 0x6018 1 1).setFstore 0 { FStore.reset with own := 4096 + 3 }
    let target (x : State) (f : LoadDesc → Bool) : Bool := match x.switchTarget 3 with
      | some (k, a, d) => k == 1 && a == 0x6000 && x.sameForms 3 d && !x.loadHeld 3 (x.switchRanges 3) && f d
      | none => false
    let faulted (x : State) : Bool := ((nextOf (exec (.inPlaceSwitch 3) x)).region 0).freeze == some ⟨2, 3, 1, none⟩
    (s.region 0).freeze = none ∧ gone.switchIndex 3 = some 1 ∧ gone.switchTarget 3 = none ∧ gone.loadHeld 3 (gone.switchRanges 3) = false
    ∧ target rows (fun d => ((rows.forLoad 3).imagesOf 0 d false).isNone) = true
    ∧ target other (fun d => ((other.forLoad 3).imagesOf 0 d false).isSome && (d.stores 0).any (other.storeForeign 0) && other.switchDrained 3) = true
    ∧ faulted gone = true ∧ faulted rows = true ∧ faulted other = true := by decide +kernel
/-- Switches to another form, each clause. -/
theorem witness_re_placement : let u := residentLoad (.switching 1) Load.reset
    let o := numAt (numAt (numAt (numAt u 0x6400 8 (1 + 2 ^ 32)) 0x6440 1 1) 0x6450 8 0x7000) 0x6458 2 1
    let s := o.setLoad 3 { u.load 3 with fld := 0x6400, desc := (o.loadDescAt 0 0x6400).getD LoadDesc.none }
    let waits := s.setRegion 0 { s.region 0 with released := [⟨none, true, .stage 2 [7] 0⟩] }
    let target (x : State) : Bool := match x.switchTarget 3 with
      | some (k, a, d) => k == 1 && a == 0x6000 && !x.sameForms 3 d && !x.loadHeld 3 (x.switchRanges 3)
      | none => false
    let t := nextOf (exec (.rePlacement 3) s)
    target s = true ∧ s.switchDrained 3 = true ∧ s.samplesLeft 3 = false ∧ (s.load 3).stop = 0 ∧ target waits = true ∧ waits.switchDrained 3 = false
    ∧ (t.load 3).st = .pending ∧ (t.load 3).x = 1 ∧ t.region 0 = Region.reset := by decide +kernel
/-! ## The part and its surroundings (R76, R255, R320, R321, R373-R385) -/

/-- Power, the bring-up step that is next, recovery and flash. -/
def booting (power : Bool) (step : Nat) (recovery ok : Bool) : State :=
  { withG [] with pkg := { Package.reset with
    power := power, bootStep := step, recovery := recovery, flashOk := ok, dies := 3, tiles := [3, 1],
    record := { ConfigRecord.none with tiles := [1], minfw := 0, sku := 4 } } }
/-- What a bring-up step finds. -/
def found (ok : Bool) : BootArgs := ⟨ok, 3, [5, 9], 4, 2⟩
/-- The package after the next step. -/
def booted (s : State) (ok : Bool) : Package := (nextOf (exec (.powerOn (found ok)) s)).pkg
/-- A core reset before and after the step that starts the cores, and the steps of bring-up, each clause. -/
theorem witness_bring_up : let fw (s : State) := decide (s.pkg.record.minfw ≤ s.pkg.fwVersion)
    fw (booting true 0 false true) = true ∧ (booting true 0 false false).pkg.flashOk = false
    ∧ (nextOf (exec .coreReset (booting true 3 false true))).core 0 = Core.reset
    ∧ ((nextOf (exec .coreReset (booting true 6 false true))).core 0).run = .running
    ∧ (booted (booting true 0 false true) true).bootStatus = [1] ∧ (booted (booting true 0 false false) true).recovery = true
    ∧ (booted (booting true 0 false true) false).bootStatus = [0x81] ∧ (booted (booting true 1 false true) true).bootStep = 2
    ∧ (booted (booting true 1 false true) false).bootStatus = [0x82] ∧ (booted (booting true 2 false true) true).tiles.take 2 = [5, 9]
    ∧ (booted (booting true 3 false true) true).dies = 1 ∧ (booted (booting true 4 false true) true).bootStep = 5
    ∧ (booted (booting true 5 false true) true).ownPkg = 2 ∧ (booted (booting true 5 false true) true).pkgCount = 4
    ∧ booted (booting true 0 true true) true = (booting true 0 true true).pkg := by decide +kernel
/-- Power that comes and goes, flash and the record, each clause. -/
theorem witness_flash : let off := { booting false 0 false true with pkg := { (booting false 0 false true).pkg with nextRecord := some { ConfigRecord.none with sku := 7 } } }
    let bad := booting true 0 true false
    let t := nextOf (exec (.firmwareImageUpdate 5 true) bad)
    (booted off true).bootStep = 1 ∧ (booted off true).record.sku = 7 ∧ (booted (booting false 0 false false) true).recovery = true
    ∧ t.pkg.flashOk = true ∧ t.pkg.recovery = false ∧ t.pkg.fwVersion = 5
    ∧ (nextOf (exec (.firmwareImageUpdate 5 false) bad)).pkg = bad.pkg
    ∧ (nextOf (exec (.configurationRecordUpdate { ConfigRecord.none with sku := 4 } true) bad)).pkg.nextRecord = some { ConfigRecord.none with sku := 4 }
    ∧ (nextOf (exec (.configurationRecordUpdate { ConfigRecord.none with sku := 5 } true) bad)).pkg.nextRecord = none
    ∧ (nextOf (exec (.powerLoss true) (booting true 6 false true))).pkg.flashOk = false
    ∧ (nextOf (exec (.powerLoss false) (booting true 6 false true))).pkg.power = false := by decide +kernel
/-- Host accesses, each clause: a write and a read of plain memory; both behind an access that waits; no power; and bring-up that is not over. -/
theorem witness_host_access : let s := booting true 6 false true
    let late := { s with late := [⟨none, 0x4010000000000, [1], none, true, 0⟩] }
    let w : HostArgs := ⟨true, 0x2000, 2, [1, 2]⟩
    isDisp 0x2000 = false ∧ isFabric 0x2000 = false ∧ (s.cells 0x2000 2).map (fun as => decide as.Nodup) = some true
    ∧ s.badPa (cellRun 0x2000 2) = none ∧ peek (nextOf (exec (.hostAccess w) s)) 0x2000 2 = 0x201
    ∧ s.hostLate = false ∧ s.heldBy 0x2000 = none ∧ (nextOf (exec (.hostAccess ⟨false, 0x2000, 2, []⟩) s)).hostIn = [[0, 0]]
    ∧ late.hostLate = true ∧ (nextOf (exec (.hostAccess w) late)).late.length = 2 ∧ (nextOf (exec (.hostAccess ⟨false, 0x2000, 2, []⟩) late)).hostIn = []
    ∧ peek (nextOf (exec (.hostAccess w) (booting true 5 false true))) 0x2000 2 = 0
    ∧ peek (nextOf (exec (.hostAccess w) (booting false 6 false true))) 0x2000 2 = 0 := by decide +kernel
/-- Alarms, each clause: sources 1 and 5, which erase a key and do not; sources 0 and 6; a region that runs and one that a scan has gated; and a
second alarm of the same cycle, with a lower and with the same source. -/
theorem witness_alarm : let s := (booting true 6 false true).setRegion 0 { Region.reset with mode := .run, w := 1, h := 1 }
    let u := { s with pkg := { s.pkg with record := { s.pkg.record with alarmpol := 1 } } }
    let gated := s.setRegion 0 { s.region 0 with mode := .gated 3 .run }
    let t := nextOf (exec (.securityAlarm 1) u)
    let two := nextOf (exec (.securityAlarm 4) u)
    let at_ (x : State) := (nextOf (step { x with agenda := [.clock] })).pkg
    s.pkg.power = true ∧ t.pkg.alarm = 1 ∧ t.pkg.keyErased = false ∧ (at_ t).keyErased = true ∧ t.queues = [] ∧ t.loads = [] ∧ t.latchDue = false
    ∧ t.pkg.alarmOn = List.range 8 ∧ t.pkg.haltFs = true ∧ (t.region 0).freeze = some ⟨5, 3, 1, none⟩
    ∧ t.irqs.head? = some 2041 ∧ (gated.region 0).mode = .gated 3 .run
    ∧ s.pkg.alarm = 0 ∧ two.pkg.alarm = 4 ∧ two.pkg.alarmAt = two.gcyc ∧ (nextOf (exec (.securityAlarm 3) two)).pkg.alarm = 3
    ∧ (nextOf (exec (.securityAlarm 4) two)).pkg.alarm = 4
    ∧ (nextOf (exec (.securityAlarm 5) u)).pkg.alarm = 5 ∧ (at_ (nextOf (exec (.securityAlarm 5) u))).keyErased = false
    ∧ (nextOf (exec (.securityAlarm 0) u)).pkg.alarm = 0 ∧ (nextOf (exec (.securityAlarm 6) u)).pkg.alarm = 0 := by decide +kernel
/-- Span links and packages that stay away, each clause. -/
theorem witness_span_links : let s := booting true 6 false true
    let down := nextOf (exec (.spanLinkLoss 15) s)
    let lost (l : List Nat) := { s with pkg := { s.pkg with linkDown := [Config.spanLink 1], unreachable := l } }
    let kept (w : LateWrite) := nextOf (exec (.spanLinkRetrain 15) { down with late := [w] })
    peek (kept ⟨none, 0x2000, [3], none, false, 0⟩) 0x2000 1 = 3 ∧ peek (kept ⟨none, 0x2000, [3], none, true, 0⟩) 0x2000 1 = 3
    ∧ (kept ⟨none, 0x2000, [], none, true, 1⟩).hostIn = [[0]]
    ∧ down.pkg.linkDown = [15] ∧ (nextOf (exec (.spanLinkLoss 15) down)).pkg.linkDown = [15] ∧ (nextOf (exec (.spanLinkLoss 16) s)).pkg.linkDown = []
    ∧ (nextOf (exec (.spanLinkRetrain 15) down)).pkg.linkDown = [] ∧ Config.spanLink 1 ∈ (lost []).pkg.linkDown ∧ 1 ∉ (lost []).pkg.unreachable
    ∧ 1 ≠ (lost []).pkg.ownPkg ∧ Config.spanLink 1 ∉ s.pkg.linkDown ∧ 1 ∈ (lost [1]).pkg.unreachable ∧ 0 = (lost []).pkg.ownPkg := by
  refine ⟨by decide +kernel, by decide +kernel, by decide +kernel, by decide +kernel, by decide +kernel, by decide +kernel, by decide +kernel, List.mem_singleton.mpr rfl, by decide, by decide, by decide, by decide, rfl⟩
/-- Widths, frequencies and power, each clause: requests; changes that wait for a region; changes that are made; and a
link that reports so. -/
theorem witness_power : let s0 := booting true 6 false true
    let s := { s0 with pkg := { s0.pkg with record := { s0.pkg.record with clk := [2000, 0, 0, 0, 0, 0, 0, 1800] } } }
    let busy := s.setRegion 0 { Region.reset with mode := .run, w := 1, h := 1 }
    let wd (s : State) := nextOf (exec (.linkWidthChange 0 8) s)
    let fq (s : State) := nextOf (exec (.frequencyChange 7 1500) s)
    linkDie 0 = 0 ∧ dieUses 7 7 = true ∧ (busy.region 0).holds = true ∧ SMap.get none (wd s).pkg.pendWidth 0 = some 8 ∧ (wd (wd s)).widthOf 0 = 8
    ∧ (wd (wd busy)).widthOf 0 ≠ 8 ∧ s.clkOf 7 = 1800 ∧ (fq s).pkg.pendFreq = [(7, some 1500)] ∧ (fq s).reductionPending 7 = false
    ∧ (fq (fq s)).freqOf 7 = 1500 ∧ (nextOf (exec (.frequencyChange 7 1801) s)).pkg.pendFreq = []
    ∧ (wd s).reductionPending 0 = true ∧ (wd (wd s)).pkg.settling = [0] ∧ SMap.get none (wd (wd s)).pkg.pendWidth 0 ≠ some 8
    ∧ (wd (wd (wd s))).pkg.settling = []
    ∧ (nextOf (exec (.thermalLimit 7) s)).pkg.pendFreq = [(7, some 1799)] ∧ (nextOf (exec (.thermalLimit 16) s)).pkg.pendFreq = []
    ∧ peek (nextOf (exec (.ethernetMessageCompletion 0x2000 [3]) s)) 0x2000 1 = 3 := by decide +kernel
/-- A sample of tile 0 with sequence number q: colour 2 and opacity 0.5. -/
def aSample (q : W32) : Sample := ⟨0, 0x38004000, q, 3, 0⟩
/-- Tile 0 is slot 0 of die 0, its next sample number 5, and its first pixel black with transmittance 1; that sample stands at the head of the queue
from die 1, and in the window of the tile. -/
def sampling (q : W32) : State :=
  { numAt (booting true 6 false true) 0x42000000004 4 0x3F800000 with
    own := [(0, 0x80000000)], nextseq := [(0, 5)], exch := [(8, [aSample q])], windows := [(0, [aSample q])] }
/-- Samples, each clause: an empty queue; one that enters its window, and one whose slot is full; one too far ahead, at both ends of that range; one
that is behind; a tile that the die does not own; and a blend with and without the next sample: 1 · 2 + 0 = 2, and 1 − 1 · 0.5 = 0.5. -/
theorem witness_samples : let arrive (s : State) := nextOf (exec (.sampleArrival 1 0) s)
    let first (q : W32) := { sampling q with windows := [] }
    let left (q : W32) := (SMap.get [] (arrive (first q)).exch 8).length + 10 * (SMap.get [] (arrive (first q)).windows 0).length
    let other := { first 5 with own := [(0, 0x80000800)] }
    let t := nextOf (exec (.blend 0) (sampling 5))
    SMap.get [] (booting true 6 false true).exch 8 = [] ∧ (aSample 5).tile = 0 ∧ left 5 = 10 ∧ left 4100 = 10 ∧ left 4101 = 1
    ∧ left 0x80000004 = 1 ∧ left 0x80000005 = 0 ∧ left 4 = 0
    ∧ (SMap.get [] (arrive (sampling 6)).windows 0).length = 1 ∧ (SMap.get [] (arrive other).exch 8).length = 0
    ∧ (match (sampling 5).cells screenBase 8 with
      | some as => decide as.Nodup
      | none => false) = true
    ∧ SMap.get 0 (nextOf (exec (.blend 0) (sampling 6))).nextseq 0 = 5 ∧ SMap.get 0 t.nextseq 0 = 6 ∧ SMap.get [] t.windows 0 = []
    ∧ peek t screenBase 8 = 0x3F00000040000000 := by decide +kernel

/-! ## A span link that is down (R376) -/

/-- Addresses from 2^36 to 2^37 lead to package 1 of two, behind a span link that is down. -/
def behind (s : State) : State :=
  { s with tlb := s.tlb ++ [⟨0, 0, 1, 36, 0x401000000001F⟩, ⟨dispParty, 0, 1, 36, 0x401000000001F⟩],
           pkg := { s.pkg with pkgCount := 2, linkDown := [Config.spanLink 1] } }
/-- An access of package 1 waits there. -/
theorem held_away {t : State} {pa : Nat} (hl : t.pkg.linkDown = [Config.spanLink 1]) (h : t.remoteOf pa = some 1) : t.heldBy pa = some 1 := by
  unfold State.heldBy; rw [h]; simp [hl]
/-- So does a range of the dispatcher that begins there. -/
theorem range_held {t : State} {c va n pa : Nat} {a : Acc} (ht : t.translate dispParty c false a va = some pa) (hh : t.heldBy pa = some 1) (hn : n ≠ 0) :
    t.vaHeld dispParty c false a va n = some 1 := by
  unfold State.vaHeld granulesOf; rw [State.vaEnd, if_neg hn]; simp [ht, State.liveCells, hh]
/-- So does a list of ranges with such a one. -/
theorem ctx_held {t : State} {c va n pa : Nat} {a : Acc} {rs : List (Nat × Nat)} (hm : (va, n) ∈ rs) (ht : t.translate dispParty c false a va = some pa)
    (hh : t.heldBy pa = some 1) (hn : n ≠ 0) : t.ctxHeld c a rs ≠ none := by
  intro h; rw [State.ctxHeld, List.findSome?_eq_none_iff] at h
  have := h _ hm; rw [range_held ht hh hn] at this; cases this
/-- What cannot be reached is not read. -/
theorem read_away {t : State} {c va n pa : Nat} (ht : t.translate dispParty c false .load va = some pa) (hh : t.heldBy pa = some 1) (hn : n ≠ 0)
    (hg : t.gone = none) : t.ctxRead c va n = none := by
  unfold State.ctxRead State.readVa granulesOf; rw [State.vaCells, if_neg hn]; simp [ht, State.liveCells, hh, hg]
/-- Head records: one that lies behind the link, and one whose graph does. -/
theorem witness_records_held : let b := recordBytes 0x5000 0 0 1 0 0 0
    let s := launching 1 b
    let v := behind { s with queues := [(5, { s.queue 5 with ring := 0x1000000001 })] }
    let far := recordBytes (2 ^ 36) 0 0 1 0 0 0
    let w := behind (launching 1 far)
    ((v.queue 5).en = true ∧ (v.queue 5).ring.toNat % 64 = 1 ∧ (v.queue 5).tailix ≠ (v.queue 5).headix)
    ∧ v.headRecord 5 = none ∧ v.ctxHeld 0 .load [(v.queue 5).headSlot] ≠ none
    ∧ (w.headRecord 5 = some (recordOf far) ∧ w.rejects 5 (recordOf far) = none ∧ (recordOf far).dep = false)
    ∧ w.ctxHeld 0 .load ((w.forQueue 5).takeRanges 0 (2 ^ 36)) ≠ none := by
  intro b s v far w
  have hv : v.heldBy 0x4010000000000 = some 1 := held_away rfl (by decide +kernel)
  have hq : (v.forQueue 5).heldBy 0x4010000000000 = some 1 := held_away rfl (by decide +kernel)
  have tq : (v.forQueue 5).translate dispParty 0 false .load (2 ^ 36) = some 0x4010000000000 := by decide +kernel
  have hw : w.heldBy 0x4010000000000 = some 1 := held_away rfl (by decide +kernel)
  have tv : v.translate dispParty 0 false .load (2 ^ 36) = some 0x4010000000000 := by decide +kernel
  have tw : w.translate dispParty 0 false .load (2 ^ 36) = some 0x4010000000000 := by decide +kernel
  have hs : (v.queue 5).headSlot = (2 ^ 36, 64) := by decide +kernel
  have hc : (v.queue 5).ctx.toNat = 0 := by decide +kernel
  refine ⟨by decide +kernel, ?_, ?_, by decide +kernel, ?_⟩
  · rw [State.headRecord, hs, hc, read_away tq hq (by decide) (by decide +kernel)]; rfl
  · rw [hs]; exact ctx_held (List.mem_singleton.mpr rfl) tv hv (by decide)
  · exact ctx_held (n := 256) (by rw [State.takeRanges, State.graphRanges]; simp) tw hw (by decide)
/-- Loads whose descriptors name images, and whose own image, lie behind the link: a placement, a resumption, a switch. -/
theorem witness_loads_held : let s0 := pendingLoad 1 Load.reset
    let u := numAt s0 0x6050 8 (2 ^ 36)
    let d := (u.loadDescAt 0 0x6000).getD LoadDesc.none
    let s := behind (u.setLoad 3 { s0.load 3 with desc := d })
    let x := behind (u.setLoad 3 { s0.load 3 with desc := d, image := some (2 ^ 36), imageLen := 16 })
    let y := behind (u.setLoad 3 { s0.load 3 with desc := d, image := some 0x9000, imageLen := 16 })
    let w0 := residentLoad (.switching 1) Load.reset
    let w := behind (w0.setLaunch 2 { w0.launch 2 with table := [0x6000, 2 ^ 36] })
    s.loadHeld 3 ((s.forLoad 3).descRanges 0 (s.load 3).desc) = true
    ∧ (x.load 3).imageKey = true ∧ x.canPlace 1 d aSite = true ∧ y.canPlace 1 d aSite = true
    ∧ x.loadHeld 3 ((2 ^ 36, (x.load 3).imageLen) :: (x.forLoad 3).loadRanges 0 0x6000) = true
    ∧ y.loadHeld 3 ((0x9000, (y.load 3).imageLen) :: (y.forLoad 3).loadRanges 0 0x6000) = false ∧ (y.forLoad 3).loadDescAt 0 0x6000 = some d
    ∧ y.loadHeld 3 ((y.forLoad 3).loadRanges 0 0x6000 ++ (y.forLoad 3).descRanges 0 d ++ [(0x9000, (y.load 3).imageLen)]) = true
    ∧ w.loadHeld 3 (w.switchRanges 3) = true := by
  intro s0 u d s x y w0 w
  have some_ {t : State} {rs : List (Nat × Nat)} {va n pa : Nat} (hm : (va, n) ∈ rs) (h0 : t.loadCtx 3 = 0) (ht : t.translate dispParty 0 false .load va = some pa)
      (hh : t.heldBy pa = some 1) (hn : n ≠ 0) : t.loadHeld 3 rs = true := by
    rw [State.loadHeld, h0, Option.isSome_iff_ne_none]; exact ctx_held hm ht hh hn
  refine ⟨?_, by decide +kernel, by decide +kernel, by decide +kernel, ?_, by decide +kernel, by decide +kernel, ?_, ?_⟩
  · exact some_ (va := 2 ^ 36) (n := 8) (pa := 0x4010000000000) (by decide +kernel) (by decide +kernel) (by decide +kernel) (held_away rfl (by decide +kernel)) (by decide)
  · exact some_ (va := 2 ^ 36) (n := 16) (pa := 0x4010000000000) (by decide +kernel) (by decide +kernel) (by decide +kernel) (held_away rfl (by decide +kernel)) (by decide)
  · exact some_ (va := 2 ^ 36) (n := 8) (pa := 0x4010000000000) (by decide +kernel) (by decide +kernel) (by decide +kernel) (held_away rfl (by decide +kernel)) (by decide)
  · refine some_ (va := 2 ^ 36) (n := 64) (pa := 0x4010000000000) ?_ (by decide +kernel) (by decide +kernel) (held_away rfl (by decide +kernel)) (by decide)
    have h : w.switchAddr 3 = some (1, 2 ^ 36) := by decide +kernel
    have h0 : w.loadCtx 3 = 0 := by decide +kernel
    have he : w.entryDesc 3 1 = none := by decide +kernel
    rw [State.switchRanges, State.switchDescRanges, h, h0]
    simp only [he, Option.isSome_none, Bool.false_eq_true, if_false]
    exact List.mem_append_left _ List.mem_cons_self
/-- Block tables behind the link: the descriptor, the map of both sequences, the map of sequence 1 alone, and the entries of the pool. -/
theorem witness_tables_held : let g := behind (withBlocks 0 0 1 (2 ^ 36))
    let s := { g with ctxs := [(0, { g.ctx 0 with btd := 0x4010000000001 })] }
    let at_ (off v : Nat) := numAt g (0x10000005000 + off) 8 v
    let m := at_ 0 0x4010000000000
    let f := numAt (at_ 0 0x400FFFFFFFFC0) 0x10000005028 4 0x00040100
    let p := at_ 8 0x4010000000000
    let table (t : State) (h : Btd → Bool) : Bool := t.btdOf 0 |>.elim false h
    s.rangesHeld (s.btdRange 0) = some 1
    ∧ table m (fun b => b.map == 0x4010000000000 && b.ls == 1 && b.lb == 1) = true ∧ m.rangesHeld [(0x4010000000000, 4)] = some 1
    ∧ table f (fun b => b.mapAt 1 0 == 0x4010000000000 && (f.rangesHeld (f.entryRanges b 0 0)).isNone) = true ∧ f.rangesHeld [(0x4010000000000, 4)] = some 1
    ∧ table p (fun b => b.poolAt 1 == 0x4010000000008) = true ∧ p.rangesHeld [(0x4010000000008, 8)] = some 1 := by
  intro g s at_ m f p table
  have one {t : State} {a n : Nat} (h : t.heldBy a = some 1) : t.rangesHeld [(a, n)] = some 1 := by simp [State.rangesHeld, h]
  have hb : s.btdRange 0 = [(0x4010000000000, 64)] := by decide +kernel
  refine ⟨?_, by decide +kernel, ?_, by decide +kernel, ?_, by decide +kernel, ?_⟩
  · rw [hb]; exact one (held_away rfl (by decide +kernel))
  · exact one (held_away (by rfl) (by decide +kernel))
  · exact one (held_away (by rfl) (by decide +kernel))
  · exact one (held_away (by rfl) (by decide +kernel))
/-- A command packet whose status word, and one whose OP0, is translated through a table behind the link; a host's address there; and commands and
streams that a link holds up, if one lies on their way. -/
theorem witness_accesses_held : let t0 := behind (posting (packet 1 0 5 (2 ^ 40) 0 0 [1, 2, 3, 4]))
    let s := { t0 with ctxs := [(0, { t0.ctx 0 with root := 0x4010000000001 })] }
    let p : Packet := ⟨[], 0, false, none, (0, []), [], 0⟩
    let k := { s with pkg := { s.pkg with settling := [3] } }
    s.walkHeld 0 s.me.ctx (2 ^ 40) = some 1 ∧ s.heldBy 0x4010000000000 = some 1 ∧ isDisp 0x4010000000000 = false ∧ isFabric 0x4010000000000 = false
    ∧ (Config.crosses 8 9 3 = true → k.commandStalled p 2 = true) := by
  intro t0 s p k
  have hs : s.heldBy 0x4010000000000 = some 1 := held_away rfl (by decide +kernel)
  have hb : s.ctx 0 = { t0.ctx 0 with root := 0x4010000000001 } := rfl
  have ht : s.tlbHit 0 0 (2 ^ 40) = none := by decide +kernel
  have hc : s.me.ctx = 0 := by decide +kernel
  refine ⟨?_, hs, by decide, by decide, fun h => by simp [k, State.commandStalled, State.crossStalled, dieOfCore, p, h]⟩
  have hr : bits64 (s.ctx 0).root 13 39 * 8192 = 0x4010000000000 := by decide +kernel
  have hv : bitOf (s.ctx 0).root.toNat 0 = true := by decide +kernel
  have h4 : (2 : Nat) ^ 40 < 2 ^ 56 := by decide
  unfold State.walkHeld State.walkOf
  rw [hc, ht, hr, hv]
  have ha : 0x4010000000000 + 8 * fld (2 ^ 40) 46 10 = 0x4010000000000 := by decide
  simp only [Option.isNone_none, h4, and_self, if_true, walkLevels, State.walkPath, ha, State.liveCells, hs, Option.isSome_some]
  exact hs

/-! ## The whole machine (R54-R75, R78, R91-R94, R174, R344) -/

/-- The state in which `x` moves next. -/
def atTurn (x : Turn) (s : State) : State := { s with agenda := [x] }
/-- Code at 0x1000 that core 0 can fetch now. -/
theorem code_at (s : State) (w : Nat) (h : s.coreVa 0 .fetch 0x1000 = some 0x1000) (hh : s.heldBy 0x1000 = none) (as : List Nat)
    (hc : s.cells 0x1000 4 = some as) (hw : w = leNat (as.map (s.see (fetchPath 0 (s.windowOf 0x1000))))) : s.codeAt 0 0x1000 w :=
  ⟨_, _, h, hh, hc, hw⟩
/-- A core's turn, each clause: ADDI g1, g0, 5; a word with an extension, ADDI g1, g0, 5000; and a word of no instruction. -/
theorem witness_core_turn : let s (w : Nat) := atTurn (.core 0) (numAt (withG []) 0x1000 8 w)
    let a := s 0x2008000A
    let b := s 0x0000000120080711
    let g := a.setMe { a.me with begun := some 0x2008000E }
    (a.core 0).run = .running ∧ (a.core 0).firstCause = none ∧ (a.core 0).pc.toNat % 4 = 0
    ∧ a.coreVa 0 .fetch 0x1000 = some 0x1000 ∧ a.heldBy 0x1000 = none ∧ (a.cells 0x1000 4).isSome = true ∧ a.lags = [] ∧ (a.core 0).begun = none ∧ (a.core 0).takesAsync = true
    ∧ a.badPa (cellRun 0x1000 4) = none ∧ peek a 0x1000 4 = 0x2008000A
    ∧ b.coreVa 0 .fetch 0x1004 = some 0x1004 ∧ peek b 0x1000 4 % 2 = 1 ∧ peek b 0x1004 4 = 1
    ∧ decodeC 0x2008000A 0 = some (.addi (.g 1) (.g 0) 5) ∧ decodeC 0x20080711 1 = some (.addiExt (.g 1) (.g 0) 5000)
    ∧ decodeC 0xFFFFFFFE 0 = none ∧ (g.core 0).begun = some 0x2008000E ∧ decodeC 0x2008000E 0 = some (.addi (.g 1) (.g 0) 7) ∧ (nextOf (step g)).me.readG 1 = 7
    ∧ (nextOf (step a)).me.readG 1 = 5 ∧ (nextOf (step a)).me.pc = 0x1004
    ∧ (nextOf (step b)).me.readG 1 = 5000 ∧ (nextOf (step b)).me.pc = 0x1008 ∧ (nextOf (step (s 0xFFFFFFFE))).me.tcause = 1 := by decide +kernel
/-- The turns of an event and of an element, which executes `lane v0, 0`. -/
theorem witness_event_element_turns : let e := atTurn (.event .coreReset) (withG [5])
    let base := inRegion .run State.reset
    let s := atTurn (.region 0) ((base.setRegion 0 { base.region 0 with work := [.word 65 0 0 none false] }).setElem 65
      { Elem.reset with ctx := [(0, ⟨.live, 0x1000F203000000⟩)] })
    e.agenda = [.event .coreReset] ∧ (nextOf (step e)).me.readG 1 = 0 ∧ (s.region 0).mode = .run ∧ (s.region 0).work = [.word 65 0 0 none false]
    ∧ decodeE (bits64 (s.entryAt 65 0).slot 0 40) = some (.lane ⟨.v 0, .lit 0, .none, .none, .always⟩)
    ∧ ((nextOf (step s)).region 0).work = [] ∧ ((nextOf (step s)).region 0).flight.length = 1 := by decide +kernel
/-- The turns of a region, at an END row, and of a near-memory unit, at a word of zeros. -/
theorem witness_row_unit_turns : let base := inRegion .run State.reset
    let s := atTurn (.region 0) (base.setRegion 0 { base.region 0 with work := [.row 0], rows := [0xB00000002C000000] })
    let v := nUnit { Nmu.reset with image := some ([0], []) }
    let u := atTurn (.unit 0) v
    (s.region 0).work = [.row 0] ∧ s.wantsClose 0 = false ∧ decodeRow 0xB00000002C000000 = some (.endRow ⟨.off, false, 0, 44⟩)
    ∧ (match (nextOf (step s)).region 0 with
      | r => r.mode != .run || r.work.isEmpty) = true
    ∧ (u.nmu 0).cmd.isSome = true ∧ (u.nmu 0).image = some ([0], []) ∧ (decodeN 0).isSome = true ∧ (nextOf (step u)).agenda = [] := by decide +kernel
/-- The machine of these tests has its memory in canonical form, and steps. -/
theorem witness_invariants : let s := atTurn (.core 0) (numAt (withG []) 0x1000 8 0x2008000A)
    State.reset.memOk = true ∧ s.memOk = true ∧ (nextOf (step s)).memOk = true ∧ (s.core 0).wbase.toNat % 8 = 0 ∧ (s.core 0).wfill.toNat % 8 = 0
    ∧ (s.core 0).wfill.toNat ≤ 224 ∧ (s.core 0).cstat.toNat < 4 ∧ (nextOf (step s)).me.pc = 0x1004 := by decide +kernel
/-- Well-formed instructions of each kind of word have encodings. -/
theorem witness_round_trip : (Instr.ldp (.w 0) (.g 1) ⟨5, .pkg, false⟩).wf = true ∧ (encodeC (.ldp (.w 0) (.g 1) ⟨5, .pkg, false⟩)).isSome = true
    ∧ (Instr.addsI32 ⟨.s 3, .s 1, .lit (-5), .none, .always⟩).wf = true ∧ encodeE (.addsI32 ⟨.s 3, .s 1, .lit (-5), .none, .always⟩) = some 0x0B8D07EC00
    ∧ (Instr.endRow ⟨.off, false, 0, 44⟩).wf = true ∧ encodeRow (.endRow ⟨.off, false, 0, 44⟩) = some 0xB00000002C000000
    ∧ (Instr.nWord plainN).wf = true ∧ (encodeN (.nWord plainN)).isSome = true ∧ Instr.coreReset.wf = true := by decide +kernel
end

section
/-! SUPPORT. Folds over the items of the machine, the numbers that are listed, and what the dispatcher's reads count and report
(R50, R161, R352, R376, R405). -/

namespace Sys2Proof.Machine

/-! ### Items of two states with the same map -/

theorem State.core_congr {s t : State} (h : t.cores = s.cores) (j : Nat) : t.core j = s.core j := congrArg (SMap.get Core.reset · j) h
theorem State.load_congr {s t : State} (h : t.loads = s.loads) (m : Nat) : t.load m = s.load m :=
  congrArg (SMap.get Load.reset · m) h
theorem State.launch_congr {s t : State} (h : t.launches = s.launches) (k : Nat) : t.launch k = s.launch k :=
  congrArg (SMap.get Launch.reset · k) h
theorem State.queue_congr {s t : State} (h : t.queues = s.queues) (q : Nat) : t.queue q = s.queue q :=
  congrArg (SMap.get Queue.reset · q) h
theorem State.ctx_congr {s t : State} (h : t.ctxs = s.ctxs) (c : Nat) : t.ctx c = s.ctx c := congrArg (SMap.get Ctx.reset · c) h
theorem State.agu_congr {s t : State} (h : t.agus = s.agus) (i : Nat) : t.agu i = s.agu i := congrArg (SMap.get Agu.reset · i) h
theorem State.stack_congr {s t : State} (h : t.kstacks = s.kstacks) (k : Nat) : t.stack k = s.stack k :=
  congrArg (SMap.get StackCtl.reset · k) h

/-! ### Folds over the items of the machine -/

/-- What holds before a fold and is kept by each of its steps holds after it. -/
theorem State.each_keeps {α : Type} {P : State → Prop} {s : State} {xs : List α} {f : State → α → State} (h : P s)
    (hf : ∀ u x, x ∈ xs → P u → P (f u x)) : P (s.each xs f) :=
  List.foldlRecOn xs f h fun u hu x hx => hf u x hx hu

theorem State.each_cons {α : Type} (s : State) (x : α) (xs : List α) (f : State → α → State) :
    s.each (x :: xs) f = (f s x).each xs f := rfl

theorem State.each_append {α : Type} (s : State) (xs ys : List α) (f : State → α → State) :
    s.each (xs ++ ys) f = (s.each xs f).each ys f := List.foldl_append

/-- A fold over different items, seen from one of them: the steps before it, its own, and the steps after it. -/
theorem State.each_split {α : Type} {s : State} {xs : List α} {f : State → α → State} {m : α} (hn : xs.Nodup) (hm : m ∈ xs) :
    ∃ as bs, m ∉ as ∧ m ∉ bs ∧ s.each xs f = (f (s.each as f) m).each bs f := by
  obtain ⟨as, bs, rfl⟩ := List.append_of_mem hm
  obtain ⟨-, hb, hd⟩ := List.nodup_append.mp hn
  refine ⟨as, bs, fun h => hd m h m (by simp) rfl, (List.nodup_cons.mp hb).1, ?_⟩
  rw [State.each_append, State.each_cons]

/-- The steps of a fold that all leave `g` alone. -/
theorem State.each_same {α β : Type} (g : State → β) {s : State} {xs : List α} {f : State → α → State}
    (hf : ∀ u, ∀ x ∈ xs, g (f u x) = g u) : g (s.each xs f) = g s :=
  State.each_keeps (P := fun u => g u = g s) rfl fun u x hx hu => (hf u x hx).trans hu

theorem nodup_eraseDups {α : Type} [BEq α] [LawfulBEq α] : ∀ l : List α, l.eraseDups.Nodup
  | [] => by simp
  | a :: l => by
    rw [List.eraseDups_cons, List.nodup_cons]
    exact ⟨by simp, nodup_eraseDups _⟩
termination_by l => l.length
decreasing_by exact Nat.lt_succ_of_le (List.length_filter_le _ _)

/-! ### The numbers of items that are listed -/

/-- What a key reads as stands in the map, unless it is the default. -/
theorem SMap.mem_of_get {α : Type} {d v : α} {m : SMap α} {k : Nat} (h : SMap.get d m k = v) (hv : v ≠ d) : (k, v) ∈ m := by
  induction m with
  | nil => exact absurd h.symm hv
  | cons p m ih =>
    obtain ⟨j, w⟩ := p
    by_cases hk : k = j
    · simp_all [SMap.get]
    · exact List.mem_cons_of_mem _ (ih (by simpa [SMap.get, hk] using h))

theorem SMap.mem_keys_of_get {α : Type} {d : α} {m : SMap α} {k : Nat} (h : SMap.get d m k ≠ d) : k ∈ m.map (·.1) :=
  List.mem_map_of_mem (f := (·.1)) (SMap.mem_of_get rfl h)

theorem State.load_listed {s : State} {m : Nat} (h : (s.load m).st ≠ .ended) : m ∈ s.loads.map (·.1) :=
  SMap.mem_keys_of_get fun e => h (congrArg Load.st e)

theorem State.launch_listed {s : State} {k : Nat} (h : (s.launch k).live = true) : k ∈ s.launches.map (·.1) :=
  SMap.mem_keys_of_get fun e => Bool.false_ne_true ((congrArg Launch.live e).symm.trans h)

theorem State.mem_loadsWith {s : State} {p : Load → Bool} {m : Nat} :
    m ∈ s.loadsWith p ↔ (s.load m).st ≠ .ended ∧ p (s.load m) = true := by
  simp only [State.loadsWith, List.mem_filter, List.mem_eraseDups, Bool.and_eq_true, bne_iff_ne]
  exact ⟨fun h => h.2, fun h => ⟨State.load_listed h.1, h⟩⟩

theorem State.nodup_loadsWith (s : State) (p : Load → Bool) : (s.loadsWith p).Nodup := (nodup_eraseDups _).filter _

/-- The search for a free number finds one that is free, or passes every number that it tries. -/
theorem firstFree_spec (used : Nat → Bool) (n k : Nat) :
    used (firstFree used n k) = false ∨ ∀ j ∈ List.range' k n, used j = true := by
  induction n generalizing k with
  | zero => simp
  | succ n ih =>
    rw [firstFree]
    split
    · rename_i h
      refine (ih (k + 1)).imp_right fun hr j hj => ?_
      rw [List.range'_succ, List.mem_cons] at hj
      exact hj.elim (fun e => e ▸ h) (hr j)
    · rename_i h
      exact .inl (Bool.eq_false_iff.mpr h)

/-- Among one number more than are listed, one is free. -/
theorem firstFree_free {used : Nat → Bool} {ks : List Nat} (h : ∀ n, used n = true → n ∈ ks) (k : Nat) :
    used (firstFree used (ks.length + 1) k) = false := by
  refine (firstFree_spec used _ k).resolve_right fun hr => ?_
  have := (List.subperm_of_subset List.nodup_range' fun j hj => h j (hr j hj)).length_le
  simp at this

theorem State.freeLoad_ended (s : State) : (s.load s.freeLoad).st = .ended := by
  have := firstFree_free (used := fun k => (s.load k).st != .ended) (ks := s.loads.map (·.1))
    (fun n h => State.load_listed (by simpa using h)) 0
  simpa [State.freeLoad] using this

theorem State.freeLaunch_idle (s : State) :
    (s.launch (firstFree (fun i => (s.launch i).live) (s.launches.length + 1) 0)).live = false := by
  have := firstFree_free (used := fun i => (s.launch i).live) (ks := s.launches.map (·.1)) (fun n h => State.launch_listed h) 0
  rwa [List.length_map] at this

/-! ### What the reads of the dispatcher count and report (R161, R352) -/

/-- Only performance counters of the memory-port dies moved. -/
def DieCounted (s t : State) : Prop := OnlyCounted s t ∧ ∀ n, 0x280 ≤ n → SMap.get 0 t.perf n = SMap.get 0 s.perf n

/-- Only performance counters of the memory-port dies moved, and soft errors were reported. -/
def DieReported (s t : State) : Prop := OnlyReported s t ∧ ∀ n, 0x280 ≤ n → SMap.get 0 t.perf n = SMap.get 0 s.perf n

theorem OnlyReported.trans {s t u : State} (h : OnlyReported s t) (k : OnlyReported t u) : OnlyReported s u := by
  unfold OnlyReported at *
  rw [k, h]

theorem OnlyCounted.reported {s t : State} (h : OnlyCounted s t) : OnlyReported s t := by
  unfold OnlyCounted OnlyReported at *
  rw [h]

theorem DieCounted.refl (s : State) : DieCounted s s := ⟨rfl, fun _ _ => rfl⟩

theorem DieCounted.trans {s t u : State} (h : DieCounted s t) (k : DieCounted t u) : DieCounted s u :=
  ⟨h.1.trans k.1, fun n hn => (k.2 n hn).trans (h.2 n hn)⟩

theorem DieReported.trans {s t u : State} (h : DieReported s t) (k : DieReported t u) : DieReported s u :=
  ⟨h.1.trans k.1, fun n hn => (k.2 n hn).trans (h.2 n hn)⟩

theorem DieCounted.reported {s t : State} (h : DieCounted s t) : DieReported s t := ⟨h.1.reported, h.2⟩

theorem DieCounted.foldl {α : Type} {f : State → α → State} {xs : List α} (s : State)
    (h : ∀ u, ∀ x ∈ xs, DieCounted u (f u x)) :
    DieCounted s (xs.foldl f s) :=
  List.foldlRecOn xs f (motive := DieCounted s) (DieCounted.refl s) fun u hu x hx => hu.trans (h u x hx)

theorem State.get_count_perf (s : State) (k j n : Nat) (h : n ≠ k) : SMap.get 0 (s.count k j).perf n = SMap.get 0 s.perf n :=
  SMap.get_set_ne _ _ _ _ h

theorem State.count_die (s : State) {k : Nat} (n : Nat) (h : k < 0x280) : DieCounted s (s.count k n) :=
  ⟨rfl, fun _ hn => s.get_count_perf k n _ (by omega)⟩

theorem State.countDie_die (s : State) (as : List Nat) (w : Bool) {d : Nat} (hd : d < 8) : DieCounted s (s.countDie as w d) := by
  have hw : (if w = true then 2 else 1) ≤ 2 := by split <;> omega
  unfold State.countDie
  dsimp only
  generalize hk : (if w = true then 2 else 1) = k at hw ⊢
  split <;> split
  · exact DieCounted.refl s
  · exact s.count_die _ (by omega)
  · exact s.count_die _ (by omega)
  · exact (s.count_die _ (by omega)).trans (State.count_die _ _ (by omega))

theorem State.countMem_die (s : State) (as : List Nat) (w : Bool) : DieCounted s (s.countMem as w) :=
  DieCounted.foldl s fun u _ hd => u.countDie_die as w (List.mem_range.mp hd)

theorem State.countWalk_die (s : State) (who c va : Nat) : DieCounted s (s.countWalk who c va) := by
  have walk := DieCounted.foldl (f := fun t pa => t.countRead pa 8) (xs := s.walkOf who c va) s fun u pa _ => u.countMem_die _ false
  unfold State.countWalk
  split
  · exact DieCounted.refl s
  · dsimp only
    split
    · exact walk.trans (State.count_die _ _ (by omega))
    · exact walk

theorem State.walkNote_die (s : State) (who c va n : Nat) : DieCounted s (s.walkNote who c va n) :=
  DieCounted.foldl s fun u _ _ => u.countWalk_die who c _

theorem State.readNote_die (s : State) (who c : Nat) (rs : List (Nat × Nat)) : DieCounted s (s.readNote who c rs) :=
  DieCounted.foldl s fun u r _ => (u.walkNote_die who c r.1 r.2).trans (State.countMem_die _ _ false)

theorem State.softErrorIn_die (s : State) (n : Nat) {k : Nat} (hk : k < 16) (a : W64) : DieReported s (s.softErrorIn n k a) := by
  refine ⟨rfl, fun j hj => ?_⟩
  exact SMap.get_set_ne _ _ _ _ (by omega)

theorem State.softError_die (s : State) (n pa : Nat) : DieReported s (s.softError n pa) :=
  s.softErrorIn_die n (Nat.mod_lt _ (by decide)) _

/-- Soft errors of some words reported, each on a core that the state names. -/
theorem State.softErrors_die {s t : State} (h : DieReported s t) (f : State → Nat → Nat) (pas : List Nat) :
    DieReported s (pas.foldl (fun t pa => t.softError (f t pa) pa) t) :=
  List.foldlRecOn pas _ (motive := DieReported s) h fun u hu pa _ => hu.trans (u.softError_die _ pa)

theorem State.readReport_die (s : State) (c : Nat) (rs : List (Nat × Nat)) : DieReported s (s.readReport c rs) :=
  State.softErrors_die (s.readNote_die dispParty c rs).reported (fun t pa => svOf (t.stackAt pa / 2)) _

theorem State.writeReport_die (s : State) (who c va n : Nat) : DieReported s (s.writeReport who c va n) := by
  unfold State.writeReport
  split
  · exact State.softErrors_die (s.walkNote_die who c va n).reported (fun t pa => svOf (t.stackAt pa / 2)) _
  · exact (s.walkNote_die who c va n).reported

/-- Ranges that meet no bad residue are counted only. -/
theorem State.readReport_clean {s : State} {c : Nat} {rs : List (Nat × Nat)} (h : ∀ r ∈ rs, s.readBad dispParty c false r.1 r.2 = []) :
    s.readReport c rs = s.readNote dispParty c rs := by
  have hb : (rs.map fun r => s.readBad dispParty c false r.1 r.2).find? (fun l => !l.isEmpty) = none := by
    rw [List.find?_eq_none]
    intro l hl
    obtain ⟨r, hr, rfl⟩ := List.mem_map.mp hl
    simp [h r hr]
  rw [State.readReport, hb]
  rfl

/-! ### Where all metadata match (R50) -/

theorem State.badWords_of_resid {s : State} (h : s.resid = []) (pas : List Nat) : s.badWords pas = [] := by
  have : ∀ pa, s.badAddr pa = false := fun pa => by
    unfold State.badAddr
    cases s.canon pa <;> simp [State.badCell, h]
  simp [State.badWords, this]

theorem State.walkBad_of_resid {s : State} (h : s.resid = []) (who c va : Nat) : s.walkBad who c va = [] := by
  unfold State.walkBad
  split
  · exact State.badWords_of_resid h _
  · rfl

/-- Without a bad residue a write that is not performed reports nothing. -/
theorem State.writeReport_of_resid {s : State} (h : s.resid = []) (who c va n : Nat) : DieCounted s (s.writeReport who c va n) := by
  unfold State.writeReport
  split
  · rw [State.walkBad_of_resid h]
    exact s.walkNote_die who c va n
  · exact s.walkNote_die who c va n

/-! ### A read that succeeds meets no bad residue (R376, R405) -/

/-- A translation keeps an access within its 16-byte granule. -/
theorem State.translate_granule {s : State} {who c va pa : Nat} {user : Bool} {a : Acc} (h : s.translate who c user a va = some pa) :
    pa % 16 ≤ va % 16 := by
  unfold State.translate at h
  split at h
  · rename_i e b _
    split at h
    · obtain rfl := Option.some.inj h
      have hm : va % 2 ^ b % 16 ≤ va % 16 := by
        rcases Nat.le_total 4 b with hb | hb
        · rw [Nat.mod_mod_of_dvd _ (Nat.pow_dvd_pow 2 hb : 2 ^ 4 ∣ 2 ^ b)]
        · rw [← Nat.mod_mod_of_dvd va (Nat.pow_dvd_pow 2 hb : 2 ^ b ∣ 2 ^ 4)]
          exact (Nat.mod_le _ _).trans (Nat.mod_le _ _)
      rw [pteAddr]
      omega
    · exact absurd h nofun
  · exact absurd h nofun

theorem State.canon_span (s : State) {pa : Nat} (h : spanBase ≤ pa ∧ pa < hostBase) :
    s.canon pa = if (pa - spanBase) / 2 ^ 40 < s.pkg.pkgCount then
      if (pa - spanBase) / 2 ^ 40 = s.pkg.ownPkg then some (bankLinear ((pa - spanBase) % 2 ^ 40))
      else if s.pkg.unreachable.contains ((pa - spanBase) / 2 ^ 40) then none else some pa
    else none := by
  have hs : 0x4000000000000 ≤ pa := h.1
  unfold State.canon
  rw [if_neg (by unfold stackBase; omega), if_neg (by unfold portBase; omega), if_neg (by unfold coreBase; omega),
    if_neg (by unfold planeBase; omega), if_neg (by unfold screenBase; omega), if_pos h]

theorem State.cells_isSome {s : State} {n : Nat} {pa : Nat} (h : ∀ i < n, (s.canon (pa + i)).isSome = true) :
    (s.cells pa n).isSome = true := by
  induction n generalizing pa with
  | zero => rfl
  | succ n ih =>
    have h0 := h 0 (by omega)
    have hr := ih (pa := pa + 1) fun i hi => by
      have := h (i + 1) (by omega)
      rwa [show pa + (i + 1) = pa + 1 + i by omega] at this
    obtain ⟨a, ha⟩ := Option.isSome_iff_exists.mp h0
    obtain ⟨as, has⟩ := Option.isSome_iff_exists.mp hr
    simp [State.cells, show s.canon pa = some a from ha, has]

/-- A granule of the span window that cannot be reached names no stack word of this package. -/
theorem State.badWords_of_unreached {s : State} {pa k : Nat} (hp : (pkgAt pa).isSome = true) (hk : pa % 16 + k ≤ 16)
    (hl : s.liveCells pa k = none) : s.badWords (cellRun pa k) = [] := by
  have hs : spanBase ≤ pa ∧ pa < hostBase := by
    unfold pkgAt at hp
    split at hp
    · assumption
    · exact absurd hp nofun
  have hin : ∀ i < k, (spanBase ≤ pa + i ∧ pa + i < hostBase) ∧ (pa + i - spanBase) / 2 ^ 40 = (pa - spanBase) / 2 ^ 40 := by
    unfold spanBase hostBase at *
    omega
  have hown : ¬ ((pa - spanBase) / 2 ^ 40 < s.pkg.pkgCount ∧ (pa - spanBase) / 2 ^ 40 = s.pkg.ownPkg) := by
    rintro ⟨hc, ho⟩
    have hr : s.remoteOf pa = none := if_neg fun ⟨_, _, _, hne, _⟩ => hne ho
    have hcells := State.cells_isSome (s := s) (pa := pa) (n := k) fun i hi => by
      obtain ⟨h1, h2⟩ := hin i hi
      rw [s.canon_span h1, h2, if_pos hc, if_pos ho]
      rfl
    rw [State.liveCells, State.heldBy, hr] at hl
    simp [show s.cells pa k = none from hl] at hcells
  have hbad : ∀ a ∈ cellRun pa k, ¬ s.badAddr a = true := by
    intro a ha
    obtain ⟨i, hi, rfl⟩ := List.mem_map.mp ha
    obtain ⟨h1, h2⟩ := hin i (List.mem_range.mp hi)
    have hstack : isStackCell (pa + i) = false := by
      have : 0x4000000000000 ≤ pa + i := h1.1
      have : ¬ pa + i < lpBase := by unfold lpBase; omega
      simp [isStackCell, this]
    rw [State.badAddr, s.canon_span h1, h2]
    split
    · rename_i hc
      rw [if_neg fun ho => hown ⟨hc, ho⟩]
      split <;> simp [State.badCell, hstack]
    · simp
  rw [State.badWords, List.filter_eq_nil_iff.mpr hbad]
  rfl

/-- A read of cells that all match ends at no granule. -/
theorem State.vaEnd_of_vaCells {s : State} {who c : Nat} {user : Bool} {fuel va n : Nat} {as : List Nat}
    (h : s.vaCells who c user .load fuel va n = some as) (hb : s.badAt as = none) : s.vaEnd who c user .load fuel va n = none := by
  induction fuel generalizing va n as with
  | zero =>
    by_cases hn : n = 0
    · simp [State.vaEnd, hn]
    · simp [State.vaCells, hn] at h
  | succ fuel ih =>
    by_cases hn : n = 0
    · simp [State.vaEnd, hn]
    · rw [State.vaCells, if_neg hn] at h
      rw [State.vaEnd, if_neg hn]
      dsimp only at h ⊢
      cases ht : s.translate who c user .load va with
      | none => rw [ht] at h; exact absurd h nofun
      | some pa =>
        rw [ht, Option.bind_some] at h
        dsimp only
        cases hl : s.liveCells pa (min n (16 - va % 16)) with
        | none => rw [hl] at h; exact absurd h nofun
        | some bs =>
          rw [hl] at h
          obtain ⟨cs, hcs, rfl⟩ := Option.map_eq_some_iff.mp h
          obtain ⟨h1, h2⟩ : s.badAt bs = none ∧ s.badAt cs = none := by
            simpa [State.badAt, List.find?_append] using hb
          simpa [h1] using ih hcs h2

/-- A read of which a package took a part ends, if it does, at a granule of that package. -/
theorem State.vaEnd_of_readGone {s : State} (hg : s.gone.isSome = true) {who c : Nat} {user : Bool} {fuel va n : Nat} {bs : List Byte}
    (h : s.readGone who c user fuel va n = some bs) : s.vaEnd who c user .load fuel va n = none ∨
      ∃ v k pa, s.vaEnd who c user .load fuel va n = some (v, k, some pa) ∧ s.badWords (cellRun pa k) = [] := by
  induction fuel generalizing va n bs with
  | zero =>
    by_cases hn : n = 0
    · simp [State.vaEnd, hn]
    · simp [State.readGone, hn] at h
  | succ fuel ih =>
    by_cases hn : n = 0
    · simp [State.vaEnd, hn]
    · rw [State.readGone, if_neg hn] at h
      rw [State.vaEnd, if_neg hn]
      dsimp only at h ⊢
      cases ht : s.translate who c user .load va with
      | none => rw [ht] at h; exact absurd h nofun
      | some pa =>
        rw [ht] at h
        dsimp only at h ⊢
        cases hl : s.liveCells pa (min n (16 - va % 16)) with
        | none =>
          rw [hl] at h
          dsimp only at h
          split at h
          · rename_i hp
            have := State.translate_granule ht
            exact .inr ⟨_, _, _, rfl, State.badWords_of_unreached (hp ▸ hg) (by omega) hl⟩
          · exact absurd h nofun
        | some as =>
          rw [hl] at h
          dsimp only at h ⊢
          by_cases hb : (s.badAt as).isSome = true
          · rw [if_pos hb] at h; exact absurd h nofun
          · rw [if_neg hb] at h
            obtain ⟨cs, hcs, -⟩ := Option.map_eq_some_iff.mp h
            rw [if_neg (by simpa using hb)]
            exact ih hcs

theorem State.readBad_of_readVa {s : State} {who c : Nat} {user : Bool} {va n : Nat} (h : (s.readVa who c user va n).isSome = true) :
    s.readBad who c user va n = [] := by
  unfold State.readVa at h
  rw [State.readBad]
  split at h
  · rename_i as hc
    split at h
    · exact absurd h nofun
    · rename_i hb
      rw [State.vaEnd_of_vaCells hc (by simpa using hb)]
  · split at h
    · rename_i hg
      obtain ⟨bs, hbs⟩ := Option.isSome_iff_exists.mp h
      obtain he | ⟨v, k, pa, he, hw⟩ := State.vaEnd_of_readGone hg hbs
      · rw [he]
      · rw [he]
        exact hw
    · exact absurd h nofun

/-! ### The reads for a queue meet the residues that other reads meet -/

theorem State.cells_forQueue (s : State) (q pa n : Nat) : (s.forQueue q).cells pa n = s.cells pa n := by
  induction n generalizing pa with
  | zero => rfl
  | succ n ih =>
    rw [State.cells, State.cells, ih]
    rfl

theorem State.liveCells_forQueue (s : State) (q pa n : Nat) : (s.forQueue q).liveCells pa n = s.liveCells pa n := by
  rw [State.liveCells, State.liveCells, State.cells_forQueue]
  rfl

theorem State.translate_forQueue (s : State) (q who c va : Nat) (user : Bool) (a : Acc) :
    (s.forQueue q).translate who c user a va = s.translate who c user a va := rfl

theorem State.vaEnd_forQueue (s : State) (q who c : Nat) (user : Bool) (a : Acc) (fuel va n : Nat) :
    (s.forQueue q).vaEnd who c user a fuel va n = s.vaEnd who c user a fuel va n := by
  induction fuel generalizing va n with
  | zero => rfl
  | succ fuel ih =>
    rw [State.vaEnd, State.vaEnd]
    simp only [State.translate_forQueue, State.liveCells_forQueue, ih]
    rfl

theorem State.readBad_forQueue (s : State) (q who c : Nat) (user : Bool) (va n : Nat) :
    (s.forQueue q).readBad who c user va n = s.readBad who c user va n := by
  rw [State.readBad, State.readBad, State.vaEnd_forQueue]
  rfl

/-- Ranges that the reads for a queue read in full meet no bad residue. -/
theorem State.readBad_of_forQueue {s : State} {q c va n : Nat} (h : ((s.forQueue q).ctxRead c va n).isSome = true) :
    s.readBad dispParty c false va n = [] := by
  rw [← s.readBad_forQueue q]
  exact State.readBad_of_readVa h

end Sys2Proof.Machine
end

section
/-! SUPPORT. The records at the heads of the work queues (R20, R163, R167, R235-R238, R376, R405). -/

namespace Sys2Proof.Machine

/-! ### What the dispatcher reads when it takes a record (R235, R236, R238) -/

/-- An accepted graph descriptor was read in full. -/
theorem State.graphRanges_read {s : State} {c gd : Nat} {g : Graph} (h : s.graphAt c gd = some g) :
    ∀ r ∈ s.graphRanges c gd, (s.ctxRead c r.1 r.2).isSome = true := by
  unfold State.graphAt at h
  unfold State.graphRanges
  cases hb : s.ctxRead c gd 256 with
  | none => rw [hb] at h; exact absurd h nofun
  | some bs =>
    rw [hb] at h
    dsimp only at h
    split at h
    · rename_i hok
      have hn : leAt bs 4 2 ≤ 4096 := by
        simp only [Bool.and_eq_true, decide_eq_true_eq] at hok
        omega
      dsimp only
      rw [min_eq_left hn]
      refine List.forall_mem_cons.mpr ⟨by rw [hb]; rfl, List.forall_mem_cons.mpr ⟨?_, nofun⟩⟩
      cases ht : s.ctxRead c (gd + 256) (8 * leAt bs 4 2) with
      | none => rw [ht] at h; exact absurd h nofun
      | some tb => rfl
    · exact absurd h nofun

/-- An accepted fabric-load descriptor was read in full, with the SQDs that it lists. -/
theorem State.loadRanges_read {s : State} {c a : Nat} {l : LoadDesc} (h : s.loadDescAt c a = some l) :
    ∀ r ∈ s.loadRanges c a, (s.ctxRead c r.1 r.2).isSome = true := by
  unfold State.loadDescAt at h
  unfold State.loadRanges
  cases hb : s.ctxRead c a 64 with
  | none => rw [hb] at h; exact absurd h nofun
  | some hd =>
    rw [hb] at h
    dsimp only at h
    split at h
    · rename_i hok
      have hn : leAt hd 5 1 % 17 = leAt hd 5 1 ∧ leAt hd 4 1 % 17 = leAt hd 4 1 := by
        simp only [Bool.and_eq_true, decide_eq_true_eq] at hok
        omega
      simp only [hn.1, hn.2, List.forall_mem_cons]
      cases hs : s.ctxRead c (leAt hd 16 8) (8 * leAt hd 5 1) with
      | none => rw [hs] at h; exact absurd h nofun
      | some sq =>
        cases hr : s.ctxRead c (a + 64) (192 * leAt hd 4 1) with
        | none => rw [hs, hr] at h; exact absurd h nofun
        | some rb =>
          rw [hs, hr] at h
          dsimp only at h
          split at h
          · exact absurd h nofun
          · split at h
            · rename_i hall
              refine ⟨by rw [hb]; rfl, rfl, rfl, fun r hm => ?_⟩
              obtain ⟨i, hi, rfl⟩ := List.mem_map.mp hm
              simp only [Bool.and_eq_true, List.all_eq_true] at hall
              exact (hall.1.2 _ (List.mem_map_of_mem hi)).2
            · exact absurd h nofun
    · exact absurd h nofun

/-- A graph whose entry loads are all accepted was read in full. -/
theorem State.takeRanges_read {s : State} {c gd : Nat} {g : Graph} (hg : s.graphAt c gd = some g)
    (he : ∀ x ∈ g.entry, ∀ a, g.table[x]? = some a → (s.loadDescAt c a).isSome = true) :
    ∀ r ∈ s.takeRanges c gd, (s.ctxRead c r.1 r.2).isSome = true := by
  intro r hr
  rw [State.takeRanges, hg, List.mem_append, List.mem_flatMap] at hr
  obtain hr | ⟨x, hx, hr⟩ := hr
  · exact State.graphRanges_read hg r hr
  · cases ha : g.table[x]? with
    | none => rw [ha] at hr; exact absurd hr nofun
    | some a =>
      rw [ha] at hr
      obtain ⟨l, hl⟩ := Option.isSome_iff_exists.mp (he x hx a ha)
      exact State.loadRanges_read hl r hr

/-! ### The head of a queue (R163, R167, R405) -/

theorem Queue.code_eq (x : Queue) : x.code = x.ring.toNat % 64 := by
  simp [Queue.code, bits64, fld]

theorem Queue.usable_iff (x : Queue) : x.usable = true ↔ x.Usable := by
  simp [Queue.usable, Queue.Usable, Queue.code_eq]

theorem Queue.count_eq_zero (x : Queue) : x.count = 0 ↔ x.tailix = x.headix := by
  unfold Queue.count
  bv_omega

/-- The fate of the head of a queue that takes records and has one, where it can be read. -/
theorem State.fate_of_heads {s : State} {q : Nat} {r : Record} (h : s.Heads q r) : s.fate q = s.judge (s.queue q) r := by
  obtain ⟨he, hu, hv, hr⟩ := h
  have hc : ((s.queue q).count == 0) = false := by simpa using mt (Queue.count_eq_zero _).mp hv
  unfold State.fate
  simp [he, (Queue.usable_iff _).mpr hu, hc, hr]

/-- And where it cannot. -/
theorem State.fate_of_unread {s : State} {q : Nat} (he : (s.queue q).en = true) (hu : (s.queue q).Usable)
    (hv : (s.queue q).tailix ≠ (s.queue q).headix) (hr : s.headRecord q = none) :
    s.fate q = if s.ctxHeld (s.queue q).ctx.toNat .load [(s.queue q).headSlot] = none then .unreadable else .idle := by
  have hc : ((s.queue q).count == 0) = false := by simpa using mt (Queue.count_eq_zero _).mp hv
  unfold State.fate
  simp only [he, (Queue.usable_iff _).mpr hu, hc, hr]
  cases s.ctxHeld (s.queue q).ctx.toNat .load [(s.queue q).headSlot] <;> rfl

/-- The read of a head record that can be read meets no bad residue. -/
theorem State.readBad_of_heads {s : State} {q : Nat} {r : Record} (h : s.Heads q r) :
    s.readBad dispParty (s.queue q).ctx.toNat false (s.queue q).headSlot.1 (s.queue q).headSlot.2 = [] := by
  obtain ⟨-, -, -, hr⟩ := h
  obtain ⟨bs, hbs, -⟩ := Option.map_eq_some_iff.mp hr
  exact State.readBad_of_forQueue (q := q) (Option.isSome_of_eq_some hbs)

theorem State.maskUsable_iff (s : State) (m : BitVec 8) :
    s.maskUsable m = true ↔ ∃ d : Fin 8, m.getLsbD d = true ∧ s.diePresent d = true ∧ (s.pkg.tiles[d.val]?).getD 0 ≠ 0 := by
  simp only [State.maskUsable, State.dieUsable, List.any_eq_true, List.mem_range, Bool.and_eq_true, bne_iff_ne]
  exact ⟨fun ⟨d, hd, h⟩ => ⟨⟨d, hd⟩, h⟩, fun ⟨d, h⟩ => ⟨d, d.isLt, h⟩⟩

/-- The tests of R167 decide the fate of a head record, and then its dependence. -/
theorem State.judge_eq (s : State) (q : Nat) (r : Record) : s.judge (s.queue q) r = (s.rejects q r).elim
    (if r.dep = true ∧ (s.phase r.dphase.toNat).cnt.toNat < r.dthresh.toNat then .waits r else .ready r) (.reject r) := by
  have hm : (∀ d : Fin 8, ¬ (r.mask.getLsbD d = true ∧ s.diePresent d = true ∧ (s.pkg.tiles[d.val]?).getD 0 ≠ 0))
      ↔ s.maskUsable r.mask = false := by
    rw [Bool.eq_false_iff, ne_eq, State.maskUsable_iff, not_exists]
  unfold State.judge State.rejects
  simp only [hm]
  by_cases h1 : r.clean = false ∨ r.ctx ≠ (s.queue q).ctx
  · rw [if_pos h1, if_pos (by simpa using h1)]
    rfl
  rw [if_neg h1, if_neg (by simpa using h1)]
  by_cases h2 : r.gen ≠ (s.ctx r.ctx.toNat).gen
  · rw [if_pos h2, if_pos (by simpa using h2)]
    rfl
  rw [if_neg h2, if_neg (by simpa using h2)]
  by_cases h3 : s.maskUsable r.mask = false
  · rw [if_pos h3, if_pos (by simpa using h3)]
    rfl
  rw [if_neg h3, if_neg (by simpa using h3)]
  by_cases h4 : r.dep = true ∧ (s.phase r.dphase.toNat).own ≠ r.ctx
  · rw [if_pos h4, if_pos (by simpa using h4)]
    rfl
  rw [if_neg h4, if_neg (by simpa using h4)]
  simp

theorem State.fate_of_rejects {s : State} {q st : Nat} {r : Record} (h : s.Heads q r) (hr : s.rejects q r = some st) :
    s.fate q = .reject r st := by
  rw [State.fate_of_heads h, State.judge_eq, hr]
  rfl

theorem State.fate_of_waits {s : State} {q : Nat} {r : Record} (h : s.Heads q r) (hr : s.rejects q r = none) (hd : s.depWaits r) :
    s.fate q = .waits r := by
  rw [State.fate_of_heads h, State.judge_eq, hr]
  exact if_pos hd

theorem State.fate_of_ready {s : State} {q : Nat} {r : Record} (h : s.Heads q r) (hr : s.rejects q r = none) (hd : ¬ s.depWaits r) :
    s.fate q = .ready r := by
  rw [State.fate_of_heads h, State.judge_eq, hr]
  exact if_neg hd

theorem State.level_of_heads {s : State} {q : Nat} {r : Record} (h : s.Heads q r) :
    s.level q = min 7 (r.prio.toNat + (s.queue q).raises) := by
  obtain ⟨-, -, hv, hr⟩ := h
  rw [State.level, if_neg (mt (Queue.count_eq_zero _).mp hv), hr]

/-! ### A head record leaves, with its completion word (R166, R167, R375, R405) -/

theorem State.setQueue_sets (s : State) (q : Nat) (y : Queue) : s.SetsQueue q y (s.setQueue q y) :=
  ⟨State.queue_setQueue_same s q y, fun _ h => State.queue_setQueue_ne s y h, rfl⟩

theorem State.popHead_sets (s : State) (q : Nat) : s.SetsQueue q (s.queue q).popped (s.popHead q) := s.setQueue_sets q _

theorem State.queueIrq_eq (s : State) (q : Nat) :
    s.queueIrq q = { s with irqs := if (s.queue q).irq then q % 2040 :: s.irqs else s.irqs } := by
  unfold State.queueIrq
  split <;> rfl

/-- A write of the dispatcher moves no queue. -/
theorem State.ctxWrite_queue {s u : State} {c va : Nat} {bs : List Byte} (h : s.ctxWrite c va bs = some u) (q : Nat) :
    u.queue q = s.queue q := by
  obtain ⟨as, -, rfl⟩ := Option.map_eq_some_iff.mp h
  have := State.countMem_only (s.writeMem as bs) as true
  rw [this]
  rfl

theorem State.complete_completed (s : State) (q c : Nat) (r : Record) (status : Nat) :
    s.Completed q c r status (s.complete q c r status) := by
  unfold State.Completed State.complete
  dsimp only
  refine ⟨fun h => if_pos h, fun h => ?_⟩
  rw [if_neg h, Nat.mul_comm r.tag.toNat, State.dispPut]
  generalize hb : leBytes 8 (status + 2 ^ 32 * r.tag.toNat) = bs
  have hl : bs.length = 8 := by rw [← hb, length_leBytes]
  refine ⟨fun u hu => ?_, fun hn hh => ?_, fun hn hh => ?_⟩
  · have ho := (u.walkNote_die dispParty c r.cw.toNat bs.length).1
    have hq : (u.walkNote dispParty c r.cw.toNat bs.length).queue q = s.queue q := by
      rw [ho]
      exact State.ctxWrite_queue hu q
    refine ⟨_, ho, ?_⟩
    rw [hu]
    dsimp only [State.afterWrite]
    rw [State.queueIrq_eq, hq]
  · rw [hn, hl]
    exact if_pos (Option.isSome_iff_ne_none.mpr hh)
  · have ho := (s.writeReport_die dispParty c r.cw.toNat 8).1
    have hq : (s.writeReport dispParty c r.cw.toNat 8).queue q = s.queue q := by
      rw [ho]
      rfl
    refine ⟨_, ho, ?_⟩
    rw [hn, hl]
    dsimp only [State.afterWrite]
    rw [hh, State.queueIrq_eq, hq]
    rfl

/-- A completion word moves counters of the memory-port dies only. -/
theorem State.complete_perf (s : State) (q c : Nat) (r : Record) (status n : Nat) (hn : 0x280 ≤ n) :
    SMap.get 0 (s.complete q c r status).perf n = SMap.get 0 s.perf n := by
  have hirq (u : State) : (u.queueIrq q).perf = u.perf := by rw [State.queueIrq_eq]
  unfold State.complete State.dispPut
  split
  · rfl
  · split
    · rename_i u hu
      obtain ⟨as, -, rfl⟩ := Option.map_eq_some_iff.mp hu
      dsimp only [State.afterWrite]
      rw [hirq, (State.walkNote_die _ _ _ _ _).2 n hn]
      exact (State.countMem_die _ as true).2 n hn
    · split
      · rfl
      · dsimp only [State.afterWrite]
        rw [hirq, (State.writeReport_die _ _ _ _ _).2 n hn]

/-! ### A record is taken (R167, R235, R238; log 39) -/

/-- Entry loads join the list of pending loads under different numbers that named no load. -/
theorem State.addStages_spec (s : State) (launch level : Nat) (ls : List (Nat × Nat × Nat × LoadDesc)) :
    ∃ id : Nat → Nat, (∀ i < ls.length, ∀ j < ls.length, id i = id j → i = j)
      ∧ (∀ i k x a l, ls[i]? = some (k, x, a, l) → (s.load (id i)).st = .ended
        ∧ (s.addStages launch level ls).load (id i) = newLoad launch k x a level l s.gcyc)
      ∧ (∀ m, (∀ i < ls.length, m ≠ id i) → (s.addStages launch level ls).load m = s.load m)
      ∧ s.addStages launch level ls = { s with loads := (s.addStages launch level ls).loads } := by
  induction ls generalizing s with
  | nil => exact ⟨fun i => i, by simp, by simp, fun _ _ => rfl, rfl⟩
  | cons p ls ih =>
    obtain ⟨k, x, a, l⟩ := p
    rw [State.addStages]
    obtain ⟨id, hinj, hid, hother, hrest⟩ := ih (s.setLoad s.freeLoad (newLoad launch k x a level l s.gcyc))
    generalize State.addStages _ launch level ls = t at hid hother hrest ⊢
    have hfresh : ∀ i < ls.length, id i ≠ s.freeLoad := fun i hi he => by
      have := (hid i _ _ _ _ (List.getElem?_eq_getElem hi)).1
      rw [he, State.load_setLoad_same] at this
      exact absurd this nofun
    refine ⟨fun | 0 => s.freeLoad | i + 1 => id i, ?_, ?_, ?_, ?_⟩
    · rintro (_ | i) hi (_ | j) hj he
      · rfl
      · exact absurd he.symm (hfresh j (Nat.lt_of_succ_lt_succ hj))
      · exact absurd he (hfresh i (Nat.lt_of_succ_lt_succ hi))
      · exact congrArg (· + 1) (hinj i (Nat.lt_of_succ_lt_succ hi) j (Nat.lt_of_succ_lt_succ hj) he)
    · rintro (_ | i) k' x' a' l' h
      · obtain ⟨rfl, rfl, rfl, rfl⟩ : k = k' ∧ x = x' ∧ a = a' ∧ l = l' := by simpa using h
        refine ⟨s.freeLoad_ended, ?_⟩
        dsimp only
        rw [hother _ fun i hi => (hfresh i hi).symm, State.load_setLoad_same]
      · rw [List.getElem?_cons_succ] at h
        obtain ⟨h1, h2⟩ := hid i k' x' a' l' h
        have hi := (List.getElem?_eq_some_iff.mp h).1
        rw [State.load_setLoad_ne _ _ (hfresh i hi)] at h1
        exact ⟨h1, h2⟩
    · intro m hm
      rw [hother m fun i hi => hm (i + 1) (Nat.succ_lt_succ hi), State.load_setLoad_ne _ _ (hm 0 (Nat.succ_pos _))]
    · rw [hrest]
      rfl

/-- The entry loads of a graph's stages with the addresses `fld` and the descriptors `d`. -/
def Graph.entries (g : Graph) (fld : Nat → Nat) (d : Nat → LoadDesc) : List (Nat × Nat × LoadDesc) :=
  (List.range g.nstage).map fun i => ((g.entry[i]?).getD 0, fld i, d i)

theorem allSome_eq_some {α : Type} {xs : List (Option α)} {ys : List α} : allSome xs = some ys ↔ xs = ys.map some := by
  induction xs generalizing ys with
  | nil => cases ys <;> simp [allSome]
  | cons x xs ih =>
    cases x with
    | none => cases ys <;> simp [allSome]
    | some a => cases ys <;> simp [allSome, ih, and_comm]

/-- The entries of a graph whose stages all name an accepted descriptor. -/
theorem State.entriesOf_eq {s : State} {c : Nat} {g : Graph} {fld : Nat → Nat} {d : Nat → LoadDesc} (hlen : g.entry.length = g.nstage)
    (h : ∀ i < g.nstage, ((g.entry[i]?).bind fun k => g.table[k]?) = some (fld i) ∧ s.loadDescAt c (fld i) = some (d i)) :
    s.entriesOf c g = some (g.entries fld d) := by
  refine allSome_eq_some.mpr (List.ext_getElem? fun i => ?_)
  by_cases hi : i < g.nstage
  · have hx := List.getElem?_eq_getElem (hlen ▸ hi : i < g.entry.length)
    obtain ⟨ht, hd⟩ := h i hi
    rw [hx, Option.bind_some] at ht
    simp [Graph.entries, hx, ht, hd, hi]
  · simp [Graph.entries, hi, hlen]

/-- The same entry loads, each with its stage. -/
def Graph.stages (g : Graph) (fld : Nat → Nat) (d : Nat → LoadDesc) : List (Nat × Nat × Nat × LoadDesc) :=
  (List.range g.nstage).map fun i => (i, (g.entry[i]?).getD 0, fld i, d i)

theorem Graph.stages_eq (g : Graph) (fld : Nat → Nat) (d : Nat → LoadDesc) :
    ((g.entries fld d).zip (List.range (g.entries fld d).length)).map (fun p => (p.2, p.1.1, p.1.2.1, p.1.2.2)) = g.stages fld d := by
  refine List.ext_getElem? fun i => ?_
  by_cases hi : i < g.nstage <;> simp [Graph.entries, Graph.stages, hi]

theorem Graph.length_stages (g : Graph) (fld : Nat → Nat) (d : Nat → LoadDesc) : (g.stages fld d).length = g.nstage := by
  simp [Graph.stages]

/-- The head of a queue has left it, and what its record names has been read. -/
def State.takenHead (s : State) (q : Nat) (r : Record) : State :=
  ((s.readReport r.ctx.toNat ((s.queue q).headSlot :: (s.forQueue q).takeRanges r.ctx.toNat r.gd.toNat)).popHead q).count 0x300 1

/-- A graph that is refused, or a form that no die of the mask could hold, ends the launch with CONFIG-FAULT. -/
theorem State.takeRecord_refused {s : State} {q : Nat} {r : Record}
    (h : ∀ g, (s.forQueue q).graphAt r.ctx.toNat r.gd.toNat = some g → ∃ i < g.entry.length,
      ∀ d, (((g.entry[i]?).bind fun k => g.table[k]?).bind ((s.forQueue q).loadDescAt r.ctx.toNat)) = some d →
        s.couldFit r.mask d = false) :
    s.takeRecord q r = (s.takenHead q r).complete q r.ctx.toNat r 6 := by
  unfold State.takeRecord
  dsimp only
  split
  · rfl
  · rename_i g hg
    obtain ⟨i, hi, hd⟩ := h g hg
    split
    · rfl
    · rename_i ls hls
      rw [if_neg ?_]
      · rfl
      · intro hall
        have hget := congrArg (·[i]?) (allSome_eq_some.mp hls)
        simp only [List.getElem?_map, List.getElem?_eq_getElem hi, Option.map_some] at hget
        obtain ⟨p, hp, he⟩ := Option.map_eq_some_iff.mp hget.symm
        obtain ⟨a, ha, hl⟩ := Option.bind_eq_some_iff.mp he.symm
        obtain ⟨l, hdesc, rfl⟩ := Option.map_eq_some_iff.mp hl
        have hfit := List.all_eq_true.mp hall _ (List.mem_of_getElem? hp)
        rw [hd l (by simp [hi, ha, hdesc])] at hfit
        exact Bool.false_ne_true hfit

/-- The launch of a record that has been taken. -/
def Record.launched (r : Record) (q level : Nat) (g : Graph) (fld : Nat → Nat) (d : Nat → LoadDesc) : Launch :=
  { live := true, queue := q, record := r, level := level, nload := g.nload, nstage := g.nstage, quantum := g.quantum, entry := g.entry,
    ended := [], pushes := mapOf [] ((g.entries fld d).map fun p => p.2.2.pushes), fail := 0, failAt := 0, table := g.table,
    descs := (g.entries fld d).map fun p => (p.1, p.2.2) }

/-- An accepted graph becomes a launch under a number that named none, with one pending load for each stage. -/
theorem State.takeRecord_taken {s : State} {q : Nat} {r : Record} {g : Graph} {fld : Nat → Nat} {d : Nat → LoadDesc}
    (hg : (s.forQueue q).graphAt r.ctx.toNat r.gd.toNat = some g)
    (he : (s.forQueue q).entriesOf r.ctx.toNat g = some (g.entries fld d)) (hf : ∀ i < g.nstage, s.couldFit r.mask (d i) = true) :
    ∃ k, (s.launch k).live = false ∧ s.takeRecord q r
      = ((s.takenHead q r).setLaunch k (r.launched q (s.level q) g fld d)).addStages k (s.level q) (g.stages fld d) := by
  refine ⟨_, s.freeLaunch_idle, ?_⟩
  have hall : (g.entries fld d).all (fun p => s.couldFit r.mask p.2.2) = true := by
    simpa [Graph.entries] using hf
  unfold State.takeRecord
  dsimp only
  rw [hg]
  dsimp only
  rw [he]
  dsimp only
  rw [if_pos hall, Graph.stages_eq]
  rfl

/-- Stage `i` of a launch pushes into the SQDs of its entry load. -/
theorem Record.get_launched_pushes (r : Record) (q level : Nat) (g : Graph) (fld : Nat → Nat) (d : Nat → LoadDesc) {i : Nat}
    (hi : i < g.nstage) : SMap.get [] (r.launched q level g fld d).pushes i = (d i).pushes := by
  simp [Record.launched, mapOf, SMap.get_setRun, Graph.entries, hi]

theorem State.get_count_same (s : State) (k n : Nat) : SMap.get 0 (s.count k n).perf k = SMap.get 0 s.perf k + BitVec.ofNat 64 n :=
  SMap.get_set_same _ _ _ _

/-- Where everything that a take reads is accepted, nothing changes but the queue and counters. -/
theorem State.takenHead_spec {s : State} {q : Nat} {r : Record} (h : s.Heads q r) (hc : r.ctx = (s.queue q).ctx)
    (hr : ∀ x ∈ (s.forQueue q).takeRanges r.ctx.toNat r.gd.toNat, ((s.forQueue q).ctxRead r.ctx.toNat x.1 x.2).isSome = true) :
    (s.takenHead q r).queue q = (s.queue q).popped ∧ (∀ j, j ≠ q → (s.takenHead q r).queue j = s.queue j)
      ∧ SMap.get 0 (s.takenHead q r).perf 0x300 = SMap.get 0 s.perf 0x300 + 1
      ∧ s.takenHead q r = { s with queues := (s.takenHead q r).queues, perf := (s.takenHead q r).perf } := by
  rw [State.takenHead, State.readReport_clean (List.forall_mem_cons.mpr
    ⟨hc ▸ State.readBad_of_heads h, fun x hx => State.readBad_of_forQueue (hr x hx)⟩)]
  obtain ⟨hw, hp⟩ := s.readNote_die dispParty r.ctx.toNat ((s.queue q).headSlot :: (s.forQueue q).takeRanges r.ctx.toNat r.gd.toNat)
  generalize s.readNote _ _ _ = w at hw hp
  have hq (j : Nat) : w.queue j = s.queue j := by rw [hw]; rfl
  obtain ⟨h1, h2, -⟩ := w.popHead_sets q
  refine ⟨h1.trans (congrArg Queue.popped (hq q)), fun j hj => (h2 j hj).trans (hq j), ?_, ?_⟩
  · rw [State.get_count_same]
    exact congrArg (· + 1) (hp 0x300 (by decide))
  · rw [OnlyCounted] at hw
    rw [hw]
    rfl

/-! ### The steps of the dispatcher at the head of a queue (R20, R167, R376, R405) -/

theorem State.ctx_of_passes {s : State} {q : Nat} {r : Record} (h : s.rejects q r = none) : r.ctx = (s.queue q).ctx := by
  unfold State.rejects at h
  split at h
  · exact absurd h nofun
  · rename_i hc
    exact Decidable.not_not.mp fun hne => hc (.inr hne)

/-- A head whose record is not ready stays, and is not raised. -/
theorem stays_of_fate {s : State} {q : Nat} (h : s.isReady q = false) :
    exec (.recordTake q) s = .next s ∧ exec (.queueLevelRaise q) s = .next s := by
  constructor
  · change execRecordTake q s = _
    unfold execRecordTake
    split
    · rename_i r hr
      rw [State.isReady, hr] at h
      exact absurd h nofun
    · rfl
  · change execQueueLevelRaise q s = _
    rw [execQueueLevelRaise, State.raiseDue, h]
    rfl

theorem exec_recordTake_ready {s : State} {q : Nat} {r : Record} (h : s.fate q = .ready r) : exec (.recordTake q) s =
    if s.queues.any (fun p => s.isReady p.1 && s.beats p.1 q)
        || (s.ctxHeld r.ctx.toNat .load ((s.forQueue q).takeRanges r.ctx.toNat r.gd.toNat)).isSome
    then .next s else .next (s.takeRecord q r) := by
  change execRecordTake q s = _
  rw [execRecordTake, h]

/-- A rejected record leaves with its status, and one rejection is counted. -/
theorem recordRejection_rejects {s : State} {q st : Nat} {r : Record} (h : s.Heads q r) (hr : s.rejects q r = some st) :
    Completes (exec (.recordRejection q) s) fun t => ∃ w u y : State, OnlyCounted s w ∧ w.SetsQueue q (s.queue q).popped u
      ∧ u.Completed q (s.queue q).ctx.toNat r st y
      ∧ SMap.get 0 t.perf 0x301 = SMap.get 0 s.perf 0x301 + 1 ∧ t = { y with perf := t.perf } := by
  refine ⟨_, show execRecordRejection q s = _ by rw [execRecordRejection, State.fate_of_rejects h hr], ?_⟩
  rw [State.readReport_clean (by simpa using State.readBad_of_heads h)]
  obtain ⟨hw, hp⟩ := s.readNote_die dispParty (s.queue q).ctx.toNat [(s.queue q).headSlot]
  generalize s.readNote _ _ _ = w at hw hp
  have hq : w.queue q = s.queue q := by rw [hw]; rfl
  have hu := hq ▸ w.popHead_sets q
  have hy := (w.popHead q).complete_completed q (s.queue q).ctx.toNat r st
  have hk := (w.popHead q).complete_perf q (s.queue q).ctx.toNat r st 0x301 (by decide)
  refine ⟨w, _, _, hw, hu, hy, ?_, rfl⟩
  rw [State.get_count_same, hk]
  exact congrArg (· + 1) (hp 0x301 (by decide))

/-- A record that cannot be read leaves with DBERR and the interrupt that the queue asks for. -/
theorem recordRejection_unreadable {s : State} {q : Nat} (h : s.fate q = .unreadable) :
    Completes (exec (.recordRejection q) s) fun t => ∃ w u, OnlyReported s w
      ∧ w.SetsQueue q { (s.queue q).popped with dberr := true } u
      ∧ t = { u with irqs := if (s.queue q).irq then q % 2040 :: s.irqs else s.irqs } := by
  refine ⟨_, show execRecordRejection q s = _ by rw [execRecordRejection, h], ?_⟩
  have hw := (s.readReport_die (s.queue q).ctx.toNat [(s.queue q).headSlot]).1
  generalize s.readReport _ _ = w at hw
  have hq : w.queue q = s.queue q := by rw [hw]; rfl
  have hi : w.irqs = s.irqs := by rw [hw]
  have hpop : (w.popHead q).queue q = (s.queue q).popped := hq ▸ (w.popHead_sets q).1
  refine ⟨w, (w.popHead q).setQueue q { (s.queue q).popped with dberr := true }, hw, ⟨?_, fun j hj => ?_, rfl⟩, ?_⟩
  · exact State.queue_setQueue_same _ _ _
  · rw [State.queue_setQueue_ne _ _ hj]
    exact (w.popHead_sets q).2.1 j hj
  · dsimp only
    rw [State.queueIrq_eq, hpop, State.queue_setQueue_same, ← hi]
    rfl

/-- A ready head that has waited 2 ms goes up one level. -/
theorem queueLevelRaise_due {s : State} {q : Nat} (hr : s.isReady q = true) (hw : 4000000 ≤ (s.queue q).waited) :
    Completes (exec (.queueLevelRaise q) s) (s.SetsQueue q { s.queue q with
      raises := if s.level q < 7 then (s.queue q).raises + 1 else (s.queue q).raises, waited := 0 }) := by
  have hd : s.raiseDue q = true := by
    rw [State.raiseDue, hr]
    exact decide_eq_true hw
  refine ⟨_, show execQueueLevelRaise q s = _ by rw [execQueueLevelRaise, if_pos hd], ?_⟩
  convert s.setQueue_sets q _ using 2
  split <;> rfl

theorem queueLevelRaise_early {s : State} {q : Nat} (hw : (s.queue q).waited < 4000000) : exec (.queueLevelRaise q) s = .next s := by
  change execQueueLevelRaise q s = _
  have hd : ¬ s.raiseDue q = true := by
    rw [State.raiseDue, show decide (raiseCycles ≤ (s.queue q).waited) = false from decide_eq_false (Nat.not_le.mpr hw), Bool.and_false]
    exact Bool.false_ne_true
  rw [execQueueLevelRaise, if_neg hd]

/-- A refused graph ends its launch with CONFIG-FAULT. -/
theorem takeRecord_refused_completed {s : State} {q : Nat} {r : Record} {t : State}
    (h : t = (s.takenHead q r).complete q r.ctx.toNat r 6) :
    ∃ w u y : State, OnlyReported s w ∧ w.SetsQueue q (s.queue q).popped u
      ∧ y = { u with perf := y.perf } ∧ SMap.get 0 y.perf 0x300 = SMap.get 0 w.perf 0x300 + 1 ∧ y.Completed q r.ctx.toNat r 6 t := by
  have hw := (s.readReport_die r.ctx.toNat ((s.queue q).headSlot :: (s.forQueue q).takeRanges r.ctx.toNat r.gd.toNat)).1
  rw [State.takenHead] at h
  generalize s.readReport _ _ = w at hw h
  have hq : w.queue q = s.queue q := by rw [hw]; rfl
  exact ⟨w, w.popHead q, (w.popHead q).count 0x300 1, hw, hq ▸ w.popHead_sets q, rfl, State.get_count_same _ _ _,
    h ▸ State.complete_completed _ _ _ _ _⟩

/-- An accepted graph that the dies of the mask could hold becomes a launch with one pending load for each stage. -/
theorem takeRecord_launches {s : State} {q : Nat} {r : Record} {g : Graph} {fld : Nat → Nat} {d : Nat → LoadDesc} {t : State}
    (h : s.Heads q r) (hr : s.rejects q r = none) (ht : t = s.takeRecord q r)
    (hg : (s.forQueue q).graphAt r.ctx.toNat r.gd.toNat = some g) (hlen : g.entry.length = g.nstage)
    (hd : ∀ i < g.nstage, ((g.entry[i]?).bind fun k => g.table[k]?) = some (fld i)
      ∧ (s.forQueue q).loadDescAt r.ctx.toNat (fld i) = some (d i))
    (hf : ∀ i < g.nstage, s.couldFit r.mask (d i) = true) :
    ∃ (k : Nat) (id : Nat → Nat), (s.launch k).live = false
      ∧ t.launch k = r.launched q (s.level q) g fld d
      ∧ (∀ j, j ≠ k → t.launch j = s.launch j)
      ∧ (∀ i < g.nstage, ∀ j < g.nstage, id i = id j → i = j)
      ∧ (∀ i < g.nstage, (s.load (id i)).st = .ended
        ∧ t.load (id i) = newLoad k i ((g.entry[i]?).getD 0) (fld i) (s.level q) (d i) s.gcyc)
      ∧ (∀ m, (∀ i < g.nstage, m ≠ id i) → t.load m = s.load m)
      ∧ t.queue q = (s.queue q).popped ∧ (∀ j, j ≠ q → t.queue j = s.queue j)
      ∧ SMap.get 0 t.perf 0x300 = SMap.get 0 s.perf 0x300 + 1
      ∧ t = { s with queues := t.queues, launches := t.launches, loads := t.loads, perf := t.perf } := by
  have hread := State.takeRanges_read hg fun x hx a ha => by
    obtain ⟨i, hi, rfl⟩ := List.mem_iff_getElem.mp hx
    obtain ⟨h1, h2⟩ := hd i (hlen ▸ hi)
    rw [List.getElem?_eq_getElem hi, Option.bind_some, ha] at h1
    exact Option.isSome_of_eq_some (Option.some.inj h1 ▸ h2)
  obtain ⟨hq1, hq2, hperf, hv⟩ := State.takenHead_spec h (State.ctx_of_passes hr) hread
  obtain ⟨k, hk, htake⟩ := State.takeRecord_taken hg (State.entriesOf_eq hlen hd) hf
  rw [htake] at ht
  generalize s.takenHead q r = v at hq1 hq2 hperf hv ht
  have hloads (m : Nat) : v.load m = s.load m := State.load_congr (by rw [hv]) m
  have hlaunch (j : Nat) : v.launch j = s.launch j := State.launch_congr (by rw [hv]) j
  obtain ⟨id, hinj, hid, hother, hrest⟩ := State.addStages_spec (v.setLaunch k (r.launched q (s.level q) g fld d)) k (s.level q)
    (g.stages fld d)
  rw [← ht] at hid hother hrest
  rw [Graph.length_stages] at hinj hother
  refine ⟨k, id, hk, ?_, fun j hj => ?_, hinj, fun i hi => ?_, fun m hm => (hother m hm).trans (hloads m), ?_, fun j hj => ?_, ?_, ?_⟩
  · exact (State.launch_congr (by rw [hrest]) k).trans (State.launch_setLaunch_same v k _)
  · exact (State.launch_congr (by rw [hrest]) j).trans ((State.launch_setLaunch_ne v _ hj).trans (hlaunch j))
  · obtain ⟨h1, h2⟩ := hid i i ((g.entry[i]?).getD 0) (fld i) (d i) (by simp [Graph.stages, hi])
    exact ⟨(congrArg Load.st (hloads (id i))).symm.trans h1, h2.trans (congrArg _ (by rw [hv]; rfl))⟩
  · exact (State.queue_congr (by rw [hrest]; rfl) q).trans hq1
  · exact (State.queue_congr (by rw [hrest]; rfl) j).trans (hq2 j hj)
  · exact (congrArg (SMap.get 0 · 0x300) (by rw [hrest]; rfl : t.perf = v.perf)).trans hperf
  · rw [hrest, hv]
    rfl

/-- R20, R167, R238, R376, R405: what becomes of the record at the head of a queue. -/
theorem records_hold : Claims.Records := by
  intro s q
  dsimp only
  refine ⟨fun r st h hr => ?_, fun r h hr hd => ?_, fun he hu hv hnone => ?_, fun r h hr hd => ?_⟩
  · have hf := State.fate_of_rejects h hr
    exact ⟨(stays_of_fate (by rw [State.isReady, hf])).1, recordRejection_rejects h hr⟩
  · have hf := State.fate_of_waits h hr hd
    obtain ⟨h1, h2⟩ := stays_of_fate (q := q) (by rw [State.isReady, hf])
    exact ⟨h1, show execRecordRejection q s = _ by rw [execRecordRejection, hf], h2⟩
  · have hf := State.fate_of_unread he hu hv hnone
    refine ⟨fun hheld => ?_, fun hheld => recordRejection_unreadable (hf.trans (if_pos hheld))⟩
    rw [if_neg hheld] at hf
    obtain ⟨h1, h2⟩ := stays_of_fate (q := q) (by rw [State.isReady, hf])
    exact ⟨h1, show execRecordRejection q s = _ by rw [execRecordRejection, hf], h2⟩
  · have hf := State.fate_of_ready h hr hd
    have htake := exec_recordTake_ready hf
    have hlevel := State.level_of_heads h
    refine ⟨show execRecordRejection q s = _ by rw [execRecordRejection, hf], fun hw => ?_, queueLevelRaise_early, fun hheld => ?_,
      fun ⟨p, hp, hready, hbeats⟩ => ?_, fun hfirst hheld => ?_⟩
    · rw [← hlevel]
      exact queueLevelRaise_due (by rw [State.isReady, hf]) hw
    · rw [htake, if_pos]
      simp [Option.isSome_iff_ne_none.mpr hheld]
    · rw [htake, if_pos]
      simp only [Bool.or_eq_true, List.any_eq_true, Bool.and_eq_true]
      exact .inl ⟨p, hp, hready, hbeats⟩
    · rw [if_neg] at htake
      · refine ⟨fun hrefused => ⟨_, htake, takeRecord_refused_completed (State.takeRecord_refused fun g hg => ?_)⟩, ?_⟩
        · obtain hn | ⟨g', hg', hd'⟩ := hrefused
          · exact absurd (hg.symm.trans hn) nofun
          · exact Option.some.inj (hg'.symm.trans hg) ▸ hd'
        · intro g fld d hg hlen hd hfit
          obtain ⟨k, id, hk, hlaunch, hlaunches, hinj, hid, hloads, hq, hqs, hperf, hrest⟩ :=
            takeRecord_launches h hr rfl hg hlen hd hfit
          rw [hlevel] at hlaunch hid
          refine ⟨_, htake, k, id, hk, ?_, fun i hi => ?_, hlaunches, hinj, hid, hloads, hq, hqs, hperf, hrest⟩
          · rw [hlaunch]
            simp [Record.launched, Graph.entries]
          · rw [hlaunch]
            exact Record.get_launched_pushes r q _ g fld d hi
      · simp only [Bool.or_eq_true, List.any_eq_true, Bool.and_eq_true, hheld]
        rintro (⟨p, hp, hready, hbeats⟩ | hsome)
        · exact Bool.false_ne_true ((hfirst p hp hready).symm.trans hbeats)
        · exact absurd hsome nofun

end Sys2Proof.Machine
end

section
/-! SUPPORT. Teardowns: launches fail, launches and contexts settle, and what a torn-down context loses (R169, R213, R215, R240, R322). -/

namespace Sys2Proof.Machine

/-! ### Launches fail (R169, R240, R322) -/

/-- What the failure of launches may change: loads, with their regions, elements, AGUs and factor stores, and the status of launches. -/
structure State.Drops (s t : State) : Prop where
  agu : ∀ i, (s.agu i).st = .bound → (t.agu i).st = .bound
  launch : ∀ k, t.launch k = { s.launch k with fail := (t.launch k).fail, failAt := (t.launch k).failAt }
  rest : t = { s with
    elems := t.elems, regions := t.regions, loads := t.loads, launches := t.launches, agus := t.agus, fstores := t.fstores }

theorem State.Drops.refl (s : State) : s.Drops s := ⟨fun _ h => h, fun _ => rfl, rfl⟩

theorem State.Drops.trans {s t u : State} (h : s.Drops t) (k : t.Drops u) : s.Drops u := by
  refine ⟨fun i hi => k.agu i (h.agu i hi), fun j => ?_, ?_⟩
  · rw [k.launch j, h.launch j]
  · rw [k.rest, h.rest]

theorem State.Drops.each {α : Type} {s t : State} {xs : List α} {f : State → α → State} (h : s.Drops t)
    (hf : ∀ (u : State) (x : α), u.Drops (f u x)) :
    s.Drops (t.each xs f) :=
  State.each_keeps h fun u x _ hu => hu.trans (hf u x)

theorem State.Drops.exch {s t : State} (h : s.Drops t) : t.exch = s.exch := by rw [h.rest]
theorem State.Drops.windows {s t : State} (h : s.Drops t) : t.windows = s.windows := by rw [h.rest]

theorem State.setElem_drops (s : State) (e : Nat) (x : Elem) : s.Drops (s.setElem e x) := ⟨fun _ h => h, fun _ => rfl, rfl⟩
theorem State.setRegion_drops (s : State) (g : Nat) (r : Region) : s.Drops (s.setRegion g r) := ⟨fun _ h => h, fun _ => rfl, rfl⟩
theorem State.setLoad_drops (s : State) (l : Nat) (x : Load) : s.Drops (s.setLoad l x) := ⟨fun _ h => h, fun _ => rfl, rfl⟩
theorem State.setFstore_drops (s : State) (f : Nat) (x : FStore) : s.Drops (s.setFstore f x) := ⟨fun _ h => h, fun _ => rfl, rfl⟩

theorem State.freeRegion_drops (s : State) (g : Nat) : s.Drops (s.freeRegion g) := by
  have h : s.Drops (s.each ((s.region g).elemIds g) State.clearCtx) := (State.Drops.refl s).each fun u e => u.setElem_drops e _
  unfold State.freeRegion
  split <;> exact h.trans (State.setRegion_drops _ _ _)

theorem State.detach_drops (s : State) (i : Nat) : s.Drops (s.detach i) := by
  refine ⟨fun j hj => ?_, fun _ => rfl, rfl⟩
  rw [State.detach, State.agu_setAgu]
  split
  · rename_i h
    subst h
    unfold Agu.detached
    split
    · rfl
    · exact hj
  · exact hj

theorem State.dropLoad_drops (s : State) (l : Nat) : s.Drops (s.dropLoad l) :=
  ((((State.Drops.refl s).each State.freeRegion_drops).each State.detach_drops).each fun u f => u.setFstore_drops f _).trans
    (State.setLoad_drops _ _ _)

theorem State.freeRegion_loads (s : State) (g : Nat) : (s.freeRegion g).loads = s.loads := by
  have h : (s.each ((s.region g).elemIds g) State.clearCtx).loads = s.loads := State.each_same State.loads fun _ _ _ => rfl
  unfold State.freeRegion
  split <;> exact h

/-- A load that is dropped is no load any more; every other load is as before. -/
theorem State.load_dropLoad (s : State) (l m : Nat) : (s.dropLoad l).load m = if m = l then Load.reset else s.load m := by
  have h1 : (s.each (s.load l).regions State.freeRegion).loads = s.loads := State.each_same State.loads fun u g _ => u.freeRegion_loads g
  have h2 (u : State) (is : List Nat) : (u.each is State.detach).loads = u.loads := State.each_same State.loads fun _ _ _ => rfl
  have h3 (u : State) (fs : List Nat) : (u.each fs State.unbind).loads = u.loads := State.each_same State.loads fun _ _ _ => rfl
  rw [State.dropLoad, State.load_setLoad, State.load_congr ((h3 _ _).trans ((h2 _ _).trans h1))]

theorem State.load_stopLoad (s : State) (status l m : Nat) :
    (s.stopLoad status l).load m = if m = l then s.stopped l status else s.load m :=
  State.load_setLoad s l m _

/-- A pending load is removed, or kept for a sample that it released (R322). -/
def State.removeLoad (status : Nat) (s : State) (m : Nat) : State := if s.samplesLeft m then s.stopLoad status m else s.dropLoad m

theorem State.removeLoad_drops (status : Nat) (s : State) (m : Nat) : s.Drops (s.removeLoad status m) := by
  unfold State.removeLoad
  split
  · exact s.setLoad_drops _ _
  · exact s.dropLoad_drops m

theorem State.load_removeLoad_ne (status : Nat) (s : State) {m j : Nat} (h : j ≠ m) : (s.removeLoad status m).load j = s.load j := by
  unfold State.removeLoad
  split
  · rw [State.load_stopLoad, if_neg h]
  · rw [State.load_dropLoad, if_neg h]

/-- Samples are left of a load while one is on the way, and no longer than its own egress lasts. -/
theorem State.samplesLeft_of_onTheWay {s : State} {m : Nat} (h : s.OnTheWay m) : s.samplesLeft m = true := by
  unfold State.OnTheWay at h
  simp only [State.samplesLeft, Bool.or_eq_true, List.any_eq_true, beq_iff_eq]
  exact .inl (.inl h)

theorem State.samplesLeft_of_empty {s : State} {m : Nat} (h : ¬ s.OnTheWay m) (hr : (s.load m).regions = []) (ho : (s.load m).out = []) :
    s.samplesLeft m = false := by
  unfold State.OnTheWay at h
  rw [Bool.eq_false_iff]
  simp only [State.samplesLeft, hr, ho, List.any_nil, Bool.or_false, ne_eq, Bool.or_eq_true, List.any_eq_true, beq_iff_eq]
  exact h

theorem State.removeLoad_removes (status : Nat) (s : State) (m : Nat) : s.Removes m status (s.removeLoad status m) := by
  have hstop : (s.stopLoad status m).load m = s.stopped m status := by rw [State.load_stopLoad, if_pos rfl]
  have hdrop : (s.dropLoad m).load m = Load.reset := by rw [State.load_dropLoad, if_pos rfl]
  unfold State.removeLoad
  refine ⟨?_, fun h => ?_, fun h hr ho => ?_⟩
  · split
    · exact .inr hstop
    · exact .inl hdrop
  · rw [if_pos (State.samplesLeft_of_onTheWay h)]
    exact hstop
  · rw [State.samplesLeft_of_empty h hr ho]
    exact hdrop

/-- What is said of a removed load rests on that load and on the samples that are on the way. -/
theorem State.Removes.congr {s s' t t' : State} {m status : Nat} (h : s.Removes m status t) (hl : s'.load m = s.load m)
    (he : s'.exch = s.exch) (hw : s'.windows = s.windows) (ht : t'.load m = t.load m) : s'.Removes m status t' := by
  have hs : s'.stopped m status = s.stopped m status := by rw [State.stopped, hl, State.stopped]
  have ho : s'.OnTheWay m ↔ s.OnTheWay m := by rw [State.OnTheWay, he, hw, State.OnTheWay]
  unfold State.Removes at h ⊢
  rwa [hl, ht, hs, ho]

/-- A removed load is no resident load, and stays in its launch unless it is gone. -/
theorem State.Removes.st {s t : State} {m status : Nat} (h : s.Removes m status t) (hp : (s.load m).st = .pending) :
    (t.load m).st ≠ .resident ∧ ((t.load m).st = .ended ∨ (t.load m).launch = (s.load m).launch) := by
  obtain ⟨hr | hs, -, -⟩ := h
  · rw [hr]
    exact ⟨nofun, .inl rfl⟩
  · rw [hs]
    exact ⟨fun e => absurd (hp.symm.trans e) nofun, .inr rfl⟩

/-- The loads of the launches `ks` are as the failure of these launches leaves them, and every other load as before. -/
def State.FailsAll (s : State) (ks : List Nat) (status : Nat) (t : State) : Prop :=
  ∀ m, ((s.load m).launch ∉ ks ∨ (s.load m).st = .ended → t.load m = s.load m)
    ∧ ((s.load m).launch ∈ ks → (s.load m).st = .pending → s.Removes m status t)
    ∧ ((s.load m).launch ∈ ks → (s.load m).st = .resident → t.load m = s.stopped m status)

theorem State.load_each_ne {s : State} {xs : List Nat} {f : State → Nat → State} {m : Nat}
    (hf : ∀ u x, m ≠ x → (f u x).load m = u.load m) (hm : m ∉ xs) : (s.each xs f).load m = s.load m :=
  State.each_same (fun u => u.load m) fun u x hx => hf u x fun e => hm (e ▸ hx)

/-- The pending loads of a fold over different loads are each removed. -/
theorem State.each_removeLoad (status : Nat) {s : State} {xs : List Nat} {m : Nat} (hn : xs.Nodup) (hm : m ∈ xs) :
    s.Removes m status (s.each xs fun u m => u.removeLoad status m) := by
  obtain ⟨as, bs, ha, hb, he⟩ := State.each_split (s := s) (f := fun u m => u.removeLoad status m) hn hm
  have hd : s.Drops (s.each as fun u m => u.removeLoad status m) := (State.Drops.refl s).each fun u m => u.removeLoad_drops status m
  have hv : (s.each as fun u m => u.removeLoad status m).load m = s.load m :=
    State.load_each_ne (fun u x h => u.load_removeLoad_ne status h) ha
  have ht := State.load_each_ne (s := (s.each as fun u m => u.removeLoad status m).removeLoad status m)
    (fun u x h => u.load_removeLoad_ne status h) hb
  rw [he]
  exact (State.removeLoad_removes status _ m).congr hv.symm hd.exch.symm hd.windows.symm ht

/-- The resident loads of a fold over different loads are each to stop. -/
theorem State.each_stopLoad (status : Nat) {s : State} {xs : List Nat} {m : Nat} (hn : xs.Nodup) (hm : m ∈ xs) :
    (s.each xs fun u m => u.stopLoad status m).load m = s.stopped m status := by
  obtain ⟨as, bs, ha, hb, he⟩ := State.each_split (s := s) (f := fun u m => u.stopLoad status m) hn hm
  have hne (u : State) (x : Nat) (h : m ≠ x) : (u.stopLoad status x).load m = u.load m := by rw [State.load_stopLoad, if_neg h]
  rw [he, State.load_each_ne hne hb, State.load_stopLoad, if_pos rfl, State.stopped, State.load_each_ne hne ha, State.stopped]

theorem State.setLaunch_failed_drops (s : State) (k status : Nat) : s.Drops (s.setLaunch k ((s.launch k).failed status s.gcyc)) := by
  refine ⟨fun _ h => h, fun j => ?_, rfl⟩
  rw [State.launch_setLaunch]
  split
  · rename_i h
    rw [h]
    unfold Launch.failed
    split
    · rfl
    · split <;> rfl
  · rfl

theorem State.failLaunch_drops (s : State) (k status : Nat) : s.Drops (s.failLaunch k status) :=
  ((s.setLaunch_failed_drops k status).each (State.removeLoad_drops status)).each fun u m => u.setLoad_drops m _

theorem State.mem_loadsWith_st {s : State} {m k : Nat} {st : LoadSt} (h : st ≠ .ended) :
    m ∈ s.loadsWith (fun x => x.launch == k && x.st == st) ↔ (s.load m).launch = k ∧ (s.load m).st = st := by
  rw [State.mem_loadsWith, Bool.and_eq_true, beq_iff_eq, beq_iff_eq]
  exact ⟨fun hm => hm.2, fun hm => ⟨hm.2 ▸ h, hm⟩⟩

theorem State.failLaunch_eq {s u v : State} {k status : Nat} (hv : s.setLaunch k ((s.launch k).failed status s.gcyc) = v)
    (hu : v.each (v.loadsWith fun x => x.launch == k && x.st == .pending) (State.removeLoad status) = u) :
    s.failLaunch k status = u.each (u.loadsWith fun x => x.launch == k && x.st == .resident) fun w m => w.stopLoad status m := by
  subst hu hv
  rfl

/-- A failed launch removes its pending loads and stops its resident ones, and touches no other load (R240). -/
theorem State.failLaunch_fails (s : State) (k status : Nat) : s.FailsAll [k] status (s.failLaunch k status) := by
  intro m
  generalize hv : s.setLaunch k ((s.launch k).failed status s.gcyc) = v
  generalize hu : v.each (v.loadsWith fun x => x.launch == k && x.st == .pending) (State.removeLoad status) = u
  rw [State.failLaunch_eq hv hu, List.mem_singleton]
  have hvl : v.load m = s.load m := by rw [← hv]; rfl
  have hpend : m ∈ v.loadsWith (fun x => x.launch == k && x.st == .pending) ↔ (s.load m).launch = k ∧ (s.load m).st = .pending :=
    hvl ▸ State.mem_loadsWith_st nofun
  have hres := State.mem_loadsWith_st (s := u) (m := m) (k := k) (st := .resident) nofun
  have hstay (h : ¬ ((u.load m).launch = k ∧ (u.load m).st = .resident)) :=
    State.load_each_ne (s := u) (f := fun w m => w.stopLoad status m)
      (fun w x hx => by rw [State.load_stopLoad, if_neg hx]) (mt hres.mp h)
  have hkeep (h : ¬ ((s.load m).launch = k ∧ (s.load m).st = .pending)) : u.load m = s.load m := by
    rw [← hu, State.load_each_ne (fun w x hx => w.load_removeLoad_ne status hx) (mt hpend.mp h), hvl]
  refine ⟨fun h => ?_, fun hl hp => ?_, fun hl hr => ?_⟩
  · have hm : u.load m = s.load m := hkeep (by rintro ⟨h1, h2⟩; rw [h1, h2] at h; simp at h)
    rw [hstay (by rw [hm]; rintro ⟨h1, h2⟩; rw [h1, h2] at h; simp at h), hm]
  · have hrem := State.each_removeLoad (s := v) status (v.nodup_loadsWith _) (hpend.mpr ⟨hl, hp⟩)
    rw [hu] at hrem
    have hst := (hrem.st (hvl ▸ hp)).1
    exact hrem.congr hvl.symm (by rw [← hv]; rfl) (by rw [← hv]; rfl) (hstay fun h => hst h.2)
  · have hm : u.load m = s.load m := hkeep (by rw [hr]; simp)
    rw [State.each_stopLoad status (u.nodup_loadsWith _) (hres.mpr (by rw [hm]; exact ⟨hl, hr⟩)), State.stopped, hm, State.stopped]

/-- Different launches fail one after another (R169). -/
theorem State.each_failLaunch_fails (s : State) (status : Nat) {ks : List Nat} (hn : ks.Nodup) :
    s.FailsAll ks status (s.each ks fun u k => u.failLaunch k status) := by
  induction ks generalizing s with
  | nil => exact fun m => ⟨fun _ => rfl, nofun, nofun⟩
  | cons k ks ih =>
    obtain ⟨hk, hn⟩ := List.nodup_cons.mp hn
    have hd := s.failLaunch_drops k status
    have h1 := s.failLaunch_fails k status
    have h2 := ih (s.failLaunch k status) hn
    change s.FailsAll (k :: ks) status ((s.failLaunch k status).each ks fun u k => u.failLaunch k status)
    generalize State.each _ ks _ = t at h2 ⊢
    generalize s.failLaunch k status = u at hd h1 h2
    intro m
    obtain ⟨h1o, h1p, h1r⟩ := h1 m
    obtain ⟨h2o, h2p, h2r⟩ := h2 m
    simp only [List.mem_singleton] at h1o h1p h1r
    simp only [List.mem_cons, not_or]
    by_cases hm : (s.load m).launch = k
    · refine ⟨fun h => ?_, fun _ hp => ?_, fun _ hr => ?_⟩
      · have he := h.resolve_left fun h => h.1 hm
        have hu := h1o (.inr he)
        rw [h2o (.inr (hu ▸ he)), hu]
      · have hrem := h1p hm hp
        have hsame : t.load m = u.load m := h2o ((hrem.st hp).2.symm.imp_left fun e => by rw [e, hm]; exact hk)
        exact hrem.congr rfl rfl rfl hsame
      · have hu := h1r hm hr
        rw [h2o (.inl (by rw [hu]; exact fun e => hk (hm ▸ e))), hu]
    · have hu := h1o (.inl hm)
      rw [hu] at h2o h2p h2r
      refine ⟨fun h => h2o (h.imp_left fun h => h.2), fun h hp => ?_, fun h hr => ?_⟩
      · exact (h2p (h.resolve_left hm) hp).congr hu.symm hd.exch.symm hd.windows.symm rfl
      · rw [h2r (h.resolve_left hm) hr, State.stopped, hu, State.stopped]

/-! ### Launches and contexts settle (R166, R169, R215, R375) -/

/-- Without a bad residue a write of the dispatcher reports no soft error: it moves memory, counters, interrupts and waiting writes. -/
theorem State.dispPut_rest (s : State) (c va : Nat) (bs : List Byte) (q : Option Nat) :
    s.dispPut c va bs q = { s with
      mem := (s.dispPut c va bs q).mem, resid := (s.dispPut c va bs q).resid, perf := (s.dispPut c va bs q).perf,
      late := (s.dispPut c va bs q).late, irqs := (s.dispPut c va bs q).irqs, cores := (s.dispPut c va bs q).cores,
      serrcnt := (s.dispPut c va bs q).serrcnt, serradr := (s.dispPut c va bs q).serradr }
    ∧ (s.resid = [] → (s.dispPut c va bs q).resid = [] ∧ (s.dispPut c va bs q).cores = s.cores) := by
  have hirq (u : State) : u.afterWrite q = { u with irqs := (u.afterWrite q).irqs } := by
    cases q with
    | none => rfl
    | some n =>
      dsimp only [State.afterWrite]
      rw [State.queueIrq_eq]
  have hclear (as : List Nat) : clearBad [] as = [] := by
    induction as with
    | nil => rfl
    | cons a as ih => exact ih
  unfold State.dispPut
  split
  · rename_i t ht
    obtain ⟨as, -, rfl⟩ := Option.map_eq_some_iff.mp ht
    have h := ((s.writeMem as bs).countMem_only as true).trans (State.walkNote_die _ dispParty c va bs.length).1
    generalize State.walkNote _ dispParty c va bs.length = u at h
    rw [OnlyCounted] at h
    refine ⟨?_, fun hr => ?_⟩
    · rw [hirq, h]
      rfl
    · rw [hirq, h]
      exact ⟨(congrArg (clearBad · as) hr).trans (hclear as), rfl⟩
  · split
    · exact ⟨rfl, fun hr => ⟨hr, rfl⟩⟩
    · have h := (s.writeReport_die dispParty c va bs.length).1
      have hquiet := fun hr => (State.writeReport_of_resid (s := s) hr dispParty c va bs.length).1
      generalize s.writeReport dispParty c va bs.length = u at h hquiet
      rw [OnlyReported] at h
      refine ⟨?_, fun hr => ?_⟩
      · rw [hirq, h]
      · rw [hirq, hquiet hr]
        exact ⟨hr, rfl⟩

/-- What the end of launches of context `c` may change. -/
structure State.Settles (c : Nat) (s t : State) : Prop where
  loads : t.loads = s.loads
  launch : ∀ k, t.launch k = s.launch k ∨ (t.launch k = Launch.reset ∧ ∀ m, (s.load m).launch = k → (s.load m).st = .ended)
  ctx : t.ctx c = { s.ctx c with busy := (t.ctx c).busy }
  others : ∀ j, j ≠ c → t.ctx j = s.ctx j
  busy : (∃ m, (s.load m).st ≠ .ended ∧ s.loadCtx m = c) → (t.ctx c).busy = (s.ctx c).busy
  quiet : s.resid = [] → t.resid = [] ∧ t.cores = s.cores
  rest : t = { s with
    launches := t.launches, ctxs := t.ctxs, fstores := t.fstores, tlb := t.tlb, shadows := t.shadows, mem := t.mem, resid := t.resid,
    perf := t.perf, late := t.late, irqs := t.irqs, cores := t.cores, serrcnt := t.serrcnt, serradr := t.serradr }

theorem State.Settles.refl (c : Nat) (s : State) : s.Settles c s :=
  ⟨rfl, fun _ => .inl rfl, rfl, fun _ _ => rfl, fun _ => rfl, fun h => ⟨h, rfl⟩, rfl⟩

/-- The launch of a load that has not ended does not end. -/
theorem State.Settles.loadCtx {c : Nat} {s t : State} (h : s.Settles c t) {m : Nat} (hm : (s.load m).st ≠ .ended) :
    t.loadCtx m = s.loadCtx m := by
  have hk := (h.launch (s.load m).launch).resolve_right fun hr => hm (hr.2 m rfl)
  rw [State.loadCtx, State.load_congr h.loads, hk, State.loadCtx]

theorem State.Settles.trans {c : Nat} {s t u : State} (h : s.Settles c t) (k : t.Settles c u) : s.Settles c u := by
  have hload := State.load_congr h.loads
  refine ⟨k.loads.trans h.loads, fun j => ?_, ?_, fun j hj => (k.others j hj).trans (h.others j hj), fun ⟨m, hm, hc⟩ => ?_,
    fun hr => ?_, ?_⟩
  · have hk := k.launch j
    simp only [hload] at hk
    obtain hk | hk := hk
    · rw [hk]
      exact h.launch j
    · exact .inr hk
  · rw [k.ctx, h.ctx]
  · rw [k.busy ⟨m, by rwa [hload], by rwa [h.loadCtx hm]⟩, h.busy ⟨m, hm, hc⟩]
  · obtain ⟨h1, h2⟩ := h.quiet hr
    obtain ⟨k1, k2⟩ := k.quiet h1
    exact ⟨k1, k2.trans h2⟩
  · rw [k.rest, h.rest]

theorem State.complete_settles (s : State) (c q d : Nat) (r : Record) (status : Nat) : s.Settles c (s.complete q d r status) := by
  unfold State.complete
  split
  · exact State.Settles.refl c s
  · obtain ⟨hrest, hquiet⟩ := s.dispPut_rest d r.cw.toNat (leBytes 8 (status + r.tag.toNat * 2 ^ 32)) (some q)
    generalize s.dispPut _ _ _ _ = t at hrest hquiet
    have hctx := State.ctx_congr (s := s) (t := t) (by rw [hrest])
    exact ⟨by rw [hrest], fun k => .inl (State.launch_congr (by rw [hrest]) k), by rw [hctx], fun j _ => hctx j, fun _ => by rw [hctx],
      hquiet, by rw [hrest]⟩

/-- A context of which only BUSY moved. -/
theorem Ctx.eq_of_busy {x y : Ctx} {b : Bool} (h : y = { x with busy := b }) : y = { x with busy := y.busy } := by rw [h]

theorem State.settleContext_settles (s : State) (c : Nat) : s.Settles c (s.settleContext c) := by
  unfold State.settleContext
  split
  · rename_i hall
    refine ⟨rfl, fun _ => .inl rfl, Ctx.eq_of_busy (State.ctx_setCtx_same s c _), fun j hj => State.ctx_setCtx_ne s _ hj,
      fun ⟨m, hm, hc⟩ => ?_, fun h => ⟨h, rfl⟩, rfl⟩
    obtain ⟨-, hall⟩ := Bool.and_eq_true_iff.mp hall
    obtain ⟨p, hp, rfl⟩ := List.mem_map.mp (State.load_listed hm)
    have := List.all_eq_true.mp hall p hp
    simp [hm, hc] at this
  · exact State.Settles.refl c s

/-- A live launch of context `c` that is over answers its record, and its context settles; any other stays. -/
theorem State.settleLaunch_settles {s : State} {c k : Nat} (hc : (s.launch k).live = true → (s.launch k).record.ctx.toNat = c) :
    s.Settles c (s.settleLaunch k) := by
  unfold State.settleLaunch
  dsimp only
  split
  · rename_i h
    simp only [Bool.and_eq_true, List.isEmpty_iff] at h
    obtain ⟨⟨hlive, hnone⟩, -⟩ := h
    have hover (m : Nat) (hm : (s.load m).launch = k) : (s.load m).st = .ended := by
      by_contra hst
      have : m ∈ s.loadsWith fun x => x.launch == k := State.mem_loadsWith.mpr ⟨hst, by simpa using hm⟩
      rw [hnone] at this
      exact absurd this nofun
    have hreset : s.Settles c (s.setLaunch k Launch.reset) := by
      refine ⟨rfl, fun j => ?_, rfl, fun _ _ => rfl, fun _ => rfl, fun hr => ⟨hr, rfl⟩, rfl⟩
      by_cases hj : j = k
      · subst hj
        exact .inr ⟨State.launch_setLaunch_same s j _, hover⟩
      · exact .inl (State.launch_setLaunch_ne s _ hj)
    rw [hc hlive]
    exact (hreset.trans (State.complete_settles _ c _ _ _ _)).trans (State.settleContext_settles _ c)
  · exact State.Settles.refl c s

/-- Launches that belong to context `c` settle one after another. -/
theorem State.each_settleLaunch_settles {s : State} {c : Nat} {ks : List Nat} (hc : ∀ k ∈ ks, (s.launch k).record.ctx.toNat = c) :
    s.Settles c (s.each ks State.settleLaunch) := by
  refine State.each_keeps (State.Settles.refl c s) fun u k hk hu => hu.trans (State.settleLaunch_settles fun hlive => ?_)
  obtain h | ⟨h, -⟩ := hu.launch k
  · rw [h]
    exact hc k hk
  · rw [h] at hlive
    exact absurd hlive nofun

/-! ### A context is torn down (R169, R213, R255, R259) -/

/-- A stream that leaves its port is bound no longer to run; the AGUs behind it only move up. -/
theorem State.leavePort_st (s : State) (i j : Nat) (a : Agu) : ((s.leavePort i a).agu j).st = if j = i then .bound else (s.agu j).st := by
  have hplace (u : State) (k p : Nat) : ((u.setAgu k { u.agu k with place := p }).agu j).st = (u.agu j).st := by
    rw [State.agu_setAgu]
    split
    · rename_i h
      rw [h]
    · rfl
  unfold State.leavePort
  refine (State.each_same (fun u => (u.agu j).st) fun u k _ => hplace u k _).trans ?_
  rw [State.agu_setAgu]
  split <;> rfl

theorem State.leavePort_rest (s : State) (i : Nat) (a : Agu) : s.leavePort i a = { s with agus := (s.leavePort i a).agus } := by
  unfold State.leavePort
  exact State.each_keeps (P := fun u => u = { s with agus := u.agus }) rfl fun u k _ hu => by
    change { u with agus := _ } = _
    rw [hu]
    rfl

theorem State.dropStalled_rest (s : State) (c : Nat) : s.dropStalled c = { s with agus := (s.dropStalled c).agus } :=
  State.each_keeps (P := fun u => u = { s with agus := u.agus }) rfl fun u k _ hu => by
    rw [State.leavePort_rest, hu]

/-- The stalled streams of a context are abandoned. -/
theorem State.dropStalled_bound {s : State} {c i : Nat} (hs : (s.agu i).st = .stalled) (hc : (s.agu i).ctx.toNat = c) :
    ((s.dropStalled c).agu i).st = .bound := by
  have hmem : i ∈ (s.agus.filter fun p => p.2.st == .stalled && p.2.ctx.toNat == c).map (·.1) := by
    refine List.mem_map.mpr ⟨(i, s.agu i), List.mem_filter.mpr ⟨SMap.mem_of_get rfl fun e => ?_, by simp [hs, hc]⟩, rfl⟩
    rw [show s.agu i = Agu.reset from e] at hs
    exact absurd hs nofun
  obtain ⟨as, bs, he⟩ := List.append_of_mem hmem
  unfold State.dropStalled
  rw [he, State.each_append, State.each_cons]
  refine State.each_keeps (P := fun u => (u.agu i).st = .bound) ?_ fun u k _ hu => ?_
  · rw [State.leavePort_st, if_pos rfl]
  · rw [State.leavePort_st, hu, ite_self]

/-- A slot of a torn-down context loses its valid bit. -/
def SubTable.torn (c : Nat) (x : SubTable) : SubTable := if x.ctx.toNat = c then { x with v := false } else x

theorem SubTable.torn_v {c : Nat} {x : SubTable} (h : (x.torn c).v = true) : (x.torn c).ctx.toNat ≠ c := by
  unfold SubTable.torn at h ⊢
  split
  · rename_i hc
    rw [if_pos hc] at h
    exact absurd h nofun
  · assumption

theorem State.dropTables_rest (s : State) (c : Nat) : s.dropTables c = { s with kstacks := (s.dropTables c).kstacks } :=
  State.each_keeps (P := fun u => u = { s with kstacks := u.kstacks }) rfl fun u k _ hu => by
    change { u with kstacks := _ } = _
    rw [hu]
    rfl

/-- The slots of a stack controller after a teardown of context `c`. -/
def StackCtl.torn (c : Nat) (x : StackCtl) : StackCtl := { x with tables := SMap.mapVal SubTable.reset (SubTable.torn c) x.tables }

/-- No valid slot of a torn controller is of the context. -/
theorem StackCtl.torn_tables {c j : Nat} {x : StackCtl} (h : (SMap.get SubTable.reset (x.torn c).tables j).v = true) :
    (SMap.get SubTable.reset (x.torn c).tables j).ctx.toNat ≠ c := by
  have hreset : SubTable.reset.torn c = SubTable.reset := by
    unfold SubTable.torn
    split <;> rfl
  rw [StackCtl.torn, SMap.get_mapVal _ _ hreset] at h ⊢
  exact SubTable.torn_v h

theorem State.stack_each_torn (s : State) (c n k : Nat) :
    (s.each (List.range n) fun t k => t.setStack k ((t.stack k).torn c)).stack k = if k < n then (s.stack k).torn c else s.stack k := by
  induction n with
  | zero => rfl
  | succ n ih =>
    rw [List.range_succ, State.each_append, State.each_cons, State.each, List.foldl_nil, State.stack_setStack]
    split
    · rename_i h
      subst h
      rw [if_pos (Nat.lt_succ_self k), ih, if_neg (Nat.lt_irrefl k)]
    · rename_i h
      rw [ih]
      exact if_congr (by omega) rfl rfl

theorem State.stack_dropTables (s : State) (c k : Nat) : (s.dropTables c).stack k = if k < 16 then (s.stack k).torn c else s.stack k :=
  s.stack_each_torn c 16 k

theorem State.dropOwner_rest (s : State) (c : Nat) :
    s.dropOwner c = { s with own := (s.dropOwner c).own, otctx := (s.dropOwner c).otctx } := by
  unfold State.dropOwner
  split <;> rfl

theorem State.dropOwner_otctx {s : State} {c : Nat} (hc : c < 4096) (h : s.otctx.toNat = 4096 + c) :
    (s.dropOwner c).otctx = s.otctx &&& 0xFFF := by
  have hb : s.otctx.getLsbD 12 = true := by
    rw [BitVec.getLsbD, h, Nat.testBit_eq_decide_div_mod_eq]
    simp
    omega
  have hf : fld s.otctx.toNat 0 12 = c := by
    rw [h]
    simp [fld]
    omega
  simp [State.dropOwner, hb, hf]

/-- The machine once a teardown of context `c` has moved its generation on and has dropped what it holds outside loads. -/
def State.disowned (s : State) (c : Nat) : State :=
  (((s.setCtx c { s.ctx c with gen := (s.ctx c).gen + 1, busy := true }).dropOwner c).dropTables c).dropStalled c

/-- What that changes. -/
structure State.Disowns (s : State) (c : Nat) (t : State) : Prop where
  ctx : ∀ j, t.ctx j = if j = c then { s.ctx c with gen := (s.ctx c).gen + 1, busy := true } else s.ctx j
  otctx : c < 4096 → s.otctx.toNat = 4096 + c → t.otctx = s.otctx &&& 0xFFF
  stack : ∀ k, t.stack k = if k < 16 then (s.stack k).torn c else s.stack k
  agu : ∀ i, (s.agu i).st = .stalled → (s.agu i).ctx.toNat = c → (t.agu i).st = .bound
  rest : t = { s with ctxs := t.ctxs, own := t.own, otctx := t.otctx, kstacks := t.kstacks, agus := t.agus }

theorem State.disowned_disowns (s : State) (c : Nat) : s.Disowns c (s.disowned c) := by
  unfold State.disowned
  have hctx (j : Nat) := s.ctx_setCtx c j { s.ctx c with gen := (s.ctx c).gen + 1, busy := true }
  generalize hu : s.setCtx c { s.ctx c with gen := (s.ctx c).gen + 1, busy := true } = u at hctx
  have hv := u.dropOwner_rest c
  have hvo := State.dropOwner_otctx (s := u) (c := c)
  generalize u.dropOwner c = v at hv hvo
  have hw := v.dropTables_rest c
  have hwk := v.stack_dropTables c
  generalize v.dropTables c = w at hw hwk
  have hx := w.dropStalled_rest c
  have hxa (i : Nat) := State.dropStalled_bound (s := w) (c := c) (i := i)
  generalize w.dropStalled c = x at hx hxa
  have hvs (k : Nat) : v.stack k = s.stack k := State.stack_congr (by rw [hv, ← hu]; rfl) k
  have hwa (i : Nat) : w.agu i = s.agu i := State.agu_congr (by rw [hw, hv, ← hu]; rfl) i
  refine ⟨fun j => ?_, fun hc ho => ?_, fun k => ?_, fun i hs hc => hxa i (by rwa [hwa]) (by rwa [hwa]), ?_⟩
  · rw [State.ctx_congr (s := u) (by rw [hx, hw, hv]) j, hctx]
  · rw [hx, hw]
    exact (hvo hc (by rw [← hu]; exact ho)).trans (by rw [← hu]; rfl)
  · rw [State.stack_congr (s := w) (by rw [hx]) k, hwk, hvs]
  · rw [hx, hw, hv, ← hu]
    rfl

/-- The launches that a teardown of context `c` ends. -/
def State.doomed (s : State) (c : Nat) : List Nat :=
  ((s.launches.map (·.1)).eraseDups).filter fun k => (s.launch k).live && (s.launch k).record.ctx.toNat == c

theorem State.mem_doomed {s : State} {c k : Nat} : k ∈ s.doomed c ↔ (s.launch k).live = true ∧ (s.launch k).record.ctx.toNat = c := by
  rw [State.doomed, List.mem_filter, List.mem_eraseDups, Bool.and_eq_true, beq_iff_eq]
  exact ⟨fun h => h.2, fun h => ⟨State.launch_listed h.1, h⟩⟩

theorem State.nodup_doomed (s : State) (c : Nat) : (s.doomed c).Nodup := (nodup_eraseDups _).filter _

/-- Who directs the dispatcher may write its window. -/
theorem State.mayDispatch_of_directs {s : State} {p : Party} (h : s.Directs p) : s.mayDispatch p = true := by
  obtain ⟨rfl, hpower, hboot⟩ | ⟨n, rfl, hsup, hpriv⟩ := h
  · simp [State.mayDispatch, State.inService, hpower, hboot]
  · simp [State.mayDispatch, isSup, hsup, Core.user_false_of_priv hpriv]

theorem exec_teardown {s : State} {p : Party} {c : Nat} (hp : s.Directs p) (hl : p = .host → s.hostLate = false) (hc : c < 4096) :
    exec (.teardown p c) s = .next (s.tearDown c) := by
  change execTeardown p c s = _
  have hnow (o z v : Nat) : s.inOrder p o z v (s.tearDown c) = s.tearDown c :=
    if_neg fun ⟨h, hlate⟩ => Bool.false_ne_true ((hl h).symm.trans hlate)
  rw [execTeardown, State.mayDispatch_of_directs hp, hnow, decide_eq_true hc]
  rfl

/-- A teardown of a context that is not busy: what it holds is dropped, its launches fail, and they and the context settle. -/
theorem State.tearDown_eq {s t : State} {c : Nat} (hb : (s.ctx c).busy = false) (ht : s.disowned c = t) :
    s.tearDown c
      = ((t.each (t.doomed c) fun u k => u.failLaunch k statusAborted).each (t.doomed c) State.settleLaunch).settleContext c := by
  subst ht
  unfold State.tearDown
  dsimp only
  rw [hb]
  rfl

/-- What a teardown does, part by part: `t` once the context holds nothing outside loads, `u` once its launches have failed. -/
theorem State.tearDown_parts {s : State} {c : Nat} (hb : (s.ctx c).busy = false) :
    ∃ t u : State, s.Disowns c t ∧ t.Drops u ∧ t.FailsAll (t.doomed c) 10 u ∧ u.Settles c (s.tearDown c) := by
  have hdis := s.disowned_disowns c
  have heq := State.tearDown_eq hb rfl
  generalize s.disowned c = t at hdis heq
  have hdrop : t.Drops (t.each (t.doomed c) fun u k => u.failLaunch k statusAborted) :=
    (State.Drops.refl t).each fun u k => u.failLaunch_drops k _
  refine ⟨t, _, hdis, hdrop, t.each_failLaunch_fails 10 (t.nodup_doomed c), ?_⟩
  rw [heq]
  refine (State.each_settleLaunch_settles fun k hk => ?_).trans (State.settleContext_settles _ c)
  exact (congrArg (fun y => y.record.ctx.toNat) (hdrop.launch k)).trans (State.mem_doomed.mp hk).2

/-- R169, R213, R322: teardowns. -/
theorem teardowns_hold : Claims.Teardowns := by
  intro s p c hp hl hc
  dsimp only
  rw [exec_teardown hp hl hc]
  refine ⟨fun hb => by rw [State.tearDown, if_pos hb], fun hb => ⟨_, rfl, ?_⟩⟩
  obtain ⟨t, u, hdis, hdrop, hfail, hsettle⟩ := State.tearDown_parts hb
  generalize s.tearDown c = v at hsettle
  have hlaunch (k : Nat) : t.launch k = s.launch k := State.launch_congr (by rw [hdis.rest]) k
  have hload (m : Nat) : t.load m = s.load m := State.load_congr (by rw [hdis.rest]) m
  have hvload (m : Nat) : v.load m = u.load m := State.load_congr hsettle.loads m
  have hex : t.exch = s.exch := by rw [hdis.rest]
  have hwin : t.windows = s.windows := by rw [hdis.rest]
  have huctx (j : Nat) : u.ctx j = t.ctx j := State.ctx_congr (by rw [hdrop.rest]) j
  have hctx : u.ctx c = { s.ctx c with gen := (s.ctx c).gen + 1, busy := true } := by rw [huctx, hdis.ctx, if_pos rfl]
  have hdoomed (m : Nat) : (s.load m).launch ∈ t.doomed c ↔ (s.launch (s.load m).launch).live = true ∧ s.loadCtx m = c := by
    rw [State.mem_doomed, hlaunch, State.loadCtx]
  refine ⟨?_, fun k hk => ?_, fun m => ⟨fun hm => ?_, fun hm hst => ?_, fun hm hst => ?_⟩, fun i hi hic => ?_,
    fun ⟨m, hm, hst⟩ => ?_, fun k => ?_, fun k hk j hj => ?_, fun ho => ?_, fun h => ?_, fun hr j => ?_⟩
  · rw [hsettle.ctx, hctx]
  · rw [hsettle.others k hk, huctx, hdis.ctx, if_neg hk]
  · have hf := (hfail m).1
    rw [hload, hdoomed] at hf
    exact (hvload m).trans (hf (by tauto))
  · have hf := (hfail m).2.1
    rw [hload, hdoomed] at hf
    exact (hf ⟨hm.1, hm.2.1⟩ hst).congr (hload m).symm hex.symm hwin.symm (hvload m)
  · have hf := (hfail m).2.2
    rw [hload, hdoomed] at hf
    rw [hvload, hf ⟨hm.1, hm.2.1⟩ hst, State.stopped, hload, State.stopped]
  · rw [State.agu_congr (s := u) (by rw [hsettle.rest])]
    exact hdrop.agu i (hdis.agu i hi hic)
  · have hf := (hfail m).2.2
    rw [hload, hdoomed] at hf
    have hu := hf ⟨hm.1, hm.2.1⟩ hst
    rw [hsettle.busy ⟨m, ?_, ?_⟩, hctx]
    · rw [hu, State.stopped, hload]
      exact hm.2.2
    · rw [State.loadCtx, hu, hdrop.launch, State.stopped, hload, hlaunch]
      exact hm.2.1
  · rw [State.stack_congr (s := t) (by rw [hsettle.rest, hdrop.rest]) k, hdis.stack]
    split <;> rfl
  · rw [State.stack_congr (s := t) (by rw [hsettle.rest, hdrop.rest]) k, hdis.stack, if_pos hk] at hj ⊢
    exact StackCtl.torn_tables hj
  · rw [hsettle.rest, hdrop.rest]
    exact hdis.otctx hc ho
  · exact State.queue_congr (by rw [hsettle.rest, hdrop.rest, hdis.rest]) h
  · have hur : u.resid = [] := by rw [hdrop.rest, hdis.rest]; exact hr
    exact State.core_congr ((hsettle.quiet hur).2.trans (by rw [hdrop.rest, hdis.rest])) j

/-- Settles O47: the parts of a teardown one after another, and the tests of a head record in their order. -/
theorem teardownsAndRecords : Obligations.TeardownsAndRecords := ⟨teardowns_hold, records_hold⟩

end Sys2Proof.Machine
end

section
/-! SUPPORT. Rounding to a format: the nearest integer, the last place of a magnitude, patterns in the order of their magnitudes, and
`Fmt.roundMag` in these terms (R27, R28, R45, R47). -/

namespace Sys2Proof.Machine

/-! ### The nearest integer -/

/-- `q` is the integer nearest to `y`, and the even one of two. -/
def NearestEven (q : Nat) (y : ℝ) : Prop := |q - y| ≤ 1 / 2 ∧ (|q - y| = 1 / 2 → q % 2 = 0)

/-- Two integers are at least one apart, whatever lies between them. -/
theorem one_le_abs_add_abs {j : Int} {q : Nat} (h : j ≠ q) (y : ℝ) : (1 : ℝ) ≤ |j - y| + |q - y| := by
  have h1 : (1 : Int) ≤ |j - q| := Int.one_le_abs (sub_ne_zero.mpr h)
  have h2 : (1 : ℝ) ≤ |(j : ℝ) - q| := by exact_mod_cast h1
  rw [abs_sub_comm (q : ℝ) y]
  exact h2.trans (abs_sub_le _ _ _)

/-- No integer is nearer. -/
theorem NearestEven.le {q : Nat} {y : ℝ} (h : NearestEven q y) (j : Int) : |q - y| ≤ |j - y| := by
  by_cases hj : j = q
  · rw [hj, Int.cast_natCast]
  · linarith [one_le_abs_add_abs hj y, h.1]

/-- Where another integer is as near, the chosen one is even. -/
theorem NearestEven.even_of_tie {q : Nat} {y : ℝ} (h : NearestEven q y) {j : Int} (hj : j ≠ q) (he : |j - y| = |q - y|) :
    q % 2 = 0 :=
  h.2 (le_antisymm h.1 (by linarith [one_le_abs_add_abs hj y]))

/-- Rounding down, and up. -/
theorem nearestEven_down {q : Nat} {t : ℝ} (h0 : 0 ≤ t) (hle : t ≤ 1 / 2) (htie : t = 1 / 2 → q % 2 = 0) : NearestEven q (q + t) := by
  rw [NearestEven, sub_add_cancel_left, abs_neg, abs_of_nonneg h0]
  exact ⟨hle, htie⟩

theorem nearestEven_up {q : Nat} {t : ℝ} (hge : 1 / 2 ≤ t) (h1 : t < 1) (htie : t = 1 / 2 → q % 2 = 1) : NearestEven (q + 1) (q + t) := by
  rw [NearestEven, Nat.cast_add_one, add_sub_add_left_eq_sub, abs_of_pos (sub_pos.mpr h1)]
  refine ⟨by linarith, fun h => ?_⟩
  have := htie (by linarith)
  omega

/-- What lies above `c + 1/2` is rounded above `c`, and `c + 1/2` itself where `c` is odd. -/
theorem NearestEven.lt_iff {q : Nat} {y : ℝ} (h : NearestEven q y) (c : Nat) :
    c < q ↔ if c % 2 = 1 then (c : ℝ) + 1 / 2 ≤ y else (c : ℝ) + 1 / 2 < y := by
  obtain ⟨hle, htie⟩ := h
  obtain ⟨h1, h2⟩ := abs_le.mp hle
  constructor
  · intro hc
    have hc' : (c : ℝ) + 1 ≤ q := by exact_mod_cast hc
    split
    · linarith
    · rename_i hodd
      refine lt_of_le_of_ne (by linarith) fun hy => ?_
      have hq : (q : ℝ) = c + 1 := by linarith
      have := htie (by rw [hq, ← hy]; norm_num)
      have : q = c + 1 := by exact_mod_cast hq
      omega
  · intro hy
    by_contra hc
    have hc' : (q : ℝ) ≤ c := by exact_mod_cast Nat.le_of_not_lt hc
    split at hy
    · rename_i hodd
      have hq : (q : ℝ) = c := by linarith
      have := htie (by rw [abs_sub_comm, abs_of_nonneg] <;> linarith)
      have : q = c := by exact_mod_cast hq
      omega
    · linarith

/-- `n`, with a fraction where `sticky`, is `x` in units of 2^e. -/
structure Truncates (n : Nat) (e : Int) (sticky : Bool) (x : ℝ) : Prop where
  le : (n : ℝ) * 2 ^ e ≤ x
  lt : x < ((n : ℝ) + 1) * 2 ^ e
  sticky : sticky = true ↔ (n : ℝ) * 2 ^ e ≠ x

theorem truncates_exact (n : Nat) (e : Int) : Truncates n e false ((n : ℝ) * 2 ^ e) :=
  ⟨le_rfl, by have : (0 : ℝ) < 2 ^ e := by positivity
              nlinarith, by simp⟩

/-- A quotient `q` with remainder `r` by 2h, and a fraction `f` below: rounding up past a half, or at a half to the even one, is the nearest
integer. -/
theorem roundUp_nearest {q r h : Nat} {f x ulp : ℝ} {sticky : Bool} (hh : 0 < h) (hr : r < 2 * h) (hf0 : 0 ≤ f) (hf1 : f < 1)
    (hs : sticky = true ↔ f ≠ 0) (hx : x / ulp = q + (r + f) / (2 * h)) (hu : 0 < ulp) :
    let p := if h < r ∨ (r = h ∧ (sticky = true ∨ q % 2 = 1)) then q + 1 else q
    NearestEven p (x / ulp) ∧ ((sticky || r != 0) = true ↔ (p : ℝ) * ulp ≠ x) := by
  intro p
  have hhR : (0 : ℝ) < 2 * h := by exact_mod_cast (by omega : 0 < 2 * h)
  have hrR : (r : ℝ) + 1 ≤ 2 * h := by exact_mod_cast hr
  have hr0 : (0 : ℝ) ≤ r := Nat.cast_nonneg r
  obtain ⟨t, ht⟩ : ∃ t : ℝ, t = (r + f) / (2 * h) := ⟨_, rfl⟩
  have ht0 : 0 ≤ t := by rw [ht]; positivity
  have ht1 : t < 1 := by rw [ht, div_lt_one hhR]; linarith
  have hhalf : t = 1 / 2 ↔ (r : ℝ) + f = h := by rw [ht, div_eq_div_iff hhR.ne' two_ne_zero]; constructor <;> intro _ <;> linarith
  have hexact : (sticky || r != 0) = true ↔ t ≠ 0 := by
    rw [Ne, ht, div_eq_zero_iff, or_iff_left hhR.ne', add_eq_zero_iff_of_nonneg hr0 hf0, Nat.cast_eq_zero, Bool.or_eq_true, hs, bne_iff_ne]
    tauto
  rw [hexact, Ne, Ne, ← eq_div_iff hu.ne', hx, ← ht]
  by_cases hup : h < r ∨ (r = h ∧ (sticky = true ∨ q % 2 = 1))
  · have hrh : (h : ℝ) ≤ r := by exact_mod_cast hup.elim le_of_lt fun h => h.1.ge
    have hge : 1 / 2 ≤ t := by rw [ht, le_div_iff₀ hhR]; linarith
    rw [show p = q + 1 from if_pos hup]
    refine ⟨nearestEven_up hge ht1 fun htie => ?_, iff_of_true (by positivity) fun he => by push_cast at he; linarith⟩
    have hsum := hhalf.mp htie
    have hf : f = 0 := by linarith
    have hrh' : r = h := by exact_mod_cast (by linarith : (r : ℝ) = h)
    rcases hup with hlt | ⟨-, hsticky | hodd⟩
    · omega
    · exact absurd hf (hs.mp hsticky)
    · exact hodd
  · push Not at hup
    obtain ⟨hrh, hup⟩ := hup
    have hsum : (r : ℝ) + f ≤ h ∧ ((r : ℝ) + f = h → r = h) := by
      rcases hrh.lt_or_eq with hlt | heq
      · have : (r : ℝ) + 1 ≤ h := by exact_mod_cast hlt
        exact ⟨by linarith, fun _ => by linarith⟩
      · have hf : f = 0 := not_not.mp fun hc => (hup heq).1 (hs.mpr hc)
        exact ⟨by rw [hf, heq, add_zero], fun _ => heq⟩
    have hle : t ≤ 1 / 2 := by rw [ht, div_le_iff₀ hhR]; linarith [hsum.1]
    rw [show p = q from if_neg (by push Not; exact ⟨hrh, hup⟩)]
    refine ⟨nearestEven_down ht0 hle fun htie => ?_, not_congr ?_⟩
    · have := (hup (hsum.2 (hhalf.mp htie))).2
      omega
    · rw [eq_comm (a := (q : ℝ)), add_eq_left]

/-- `roundAt` gives the nearest multiple of 2^u, and tells whether it is not exact. -/
theorem roundAt_nearest {n : Nat} {e u : Int} {sticky : Bool} {x : ℝ} (h : Truncates n e sticky x) (hs : sticky = true → e < u) :
    NearestEven (roundAt n e sticky u).1 (x / 2 ^ u)
      ∧ ((roundAt n e sticky u).2 = true ↔ ((roundAt n e sticky u).1 : ℝ) * 2 ^ u ≠ x) := by
  have hu : (0 : ℝ) < 2 ^ u := by positivity
  unfold roundAt
  split
  · rename_i hle
    obtain rfl : sticky = false := by
      by_contra hc
      exact absurd (hs (by simpa using hc)) (by omega)
    have hx : x = (n : ℝ) * 2 ^ e := by
      by_contra hc
      exact Bool.false_ne_true (h.sticky.mpr (Ne.symm hc))
    have he : (2 : ℝ) ^ e = 2 ^ (e - u).toNat * 2 ^ u := by
      rw [← zpow_natCast, ← zpow_add₀ two_ne_zero, Int.toNat_of_nonneg (by omega), sub_add_cancel]
    have hq : ((n * 2 ^ (e - u).toNat : Nat) : ℝ) * 2 ^ u = x := by
      push_cast
      rw [hx, he, mul_assoc]
    have hy : x / 2 ^ u = ((n * 2 ^ (e - u).toNat : Nat) : ℝ) := by rw [← hq, mul_div_cancel_right₀ _ hu.ne']
    refine ⟨?_, by simpa using hq⟩
    rw [hy]
    constructor <;> norm_num
  · rename_i hlt
    obtain ⟨k, hk⟩ : ∃ k : Nat, (u - e).toNat = k + 1 := ⟨(u - e).toNat - 1, by omega⟩
    have hue : (2 : ℝ) ^ u = 2 ^ e * (2 * 2 ^ k) := by
      rw [← pow_succ', ← hk, ← zpow_natCast, ← zpow_add₀ two_ne_zero, Int.toNat_of_nonneg (by omega), add_sub_cancel]
    dsimp only
    rw [hk, Nat.add_sub_cancel, pow_succ']
    have hh : (0 : ℝ) < 2 ^ k := by positivity
    have he : (0 : ℝ) < 2 ^ e := by positivity
    have hn : ((2 * 2 ^ k * (n / (2 * 2 ^ k)) + n % (2 * 2 ^ k) : Nat) : ℝ) = n := congrArg _ (Nat.div_add_mod n _)
    have hr := Nat.mod_lt n (y := 2 * 2 ^ k) (by positivity)
    generalize n / (2 * 2 ^ k) = q at *
    generalize n % (2 * 2 ^ k) = r at *
    push_cast at hn
    obtain ⟨f, hf⟩ : ∃ f : ℝ, x = (n + f) * 2 ^ e := ⟨x / 2 ^ e - n, by field_simp; ring⟩
    have hf0 : 0 ≤ f := by have := h.le; rw [hf] at this; nlinarith
    have hf1 : f < 1 := by have := h.lt; rw [hf] at this; nlinarith
    have hst : sticky = true ↔ f ≠ 0 := by
      rw [h.sticky, hf, ne_comm, Ne, Ne, mul_left_inj' he.ne', add_eq_left]
    exact roundUp_nearest (h := 2 ^ k) (by positivity) hr hf0 hf1 hst
      (by rw [hf, ← hn, hue]; push_cast; field_simp; ring) hu

/-! ### The patterns of a format -/

/-- The exponent of the last place of the subnormal numbers (R28). -/
def Fmt.ulpMin (f : Fmt) : Int := 1 - (f.bias : Int) - (f.mbits : Int)

theorem FVal.abs_real_fin (s : Bool) (m : Nat) (e : Int) : |(FVal.fin s m e).real| = (m : ℝ) * 2 ^ e := by
  rw [FVal.real, mul_assoc, abs_mul, abs_of_nonneg (by positivity : (0 : ℝ) ≤ (m : ℝ) * 2 ^ e)]
  split <;> simp

theorem FVal.finite_iff (v : FVal) : v.finite = true ↔ ∃ s m e, v = .fin s m e := by
  cases v <;> simp [FVal.finite]

/-- Every finite pattern is a multiple of its last place, with at most `mbits + 1` bits. -/
theorem Fmt.decode_bounds {f : Fmt} {b : Nat} {s : Bool} {m : Nat} {e : Int} (h : f.decode b = .fin s m e) :
    m < 2 ^ (f.mbits + 1) ∧ f.ulpMin ≤ e := by
  have hm : b % 2 ^ f.mbits < 2 ^ f.mbits := Nat.mod_lt _ (Nat.two_pow_pos _)
  have hfin : ∀ v, v = (if b / 2 ^ f.mbits % 2 ^ f.ebits = 0 then
      FVal.fin (b / 2 ^ (f.mbits + f.ebits) % 2 == 1) (b % 2 ^ f.mbits) (1 - (f.bias : Int) - (f.mbits : Int))
      else .fin (b / 2 ^ (f.mbits + f.ebits) % 2 == 1) (2 ^ f.mbits + b % 2 ^ f.mbits)
        (((b / 2 ^ f.mbits % 2 ^ f.ebits : Nat) : Int) - (f.bias : Int) - (f.mbits : Int))) →
      v = .fin s m e → m < 2 ^ (f.mbits + 1) ∧ f.ulpMin ≤ e := by
    rintro v rfl hv
    rw [pow_succ, Fmt.ulpMin]
    split at hv <;> obtain ⟨-, rfl, rfl⟩ := FVal.fin.inj hv <;> omega
  unfold Fmt.decode at h
  dsimp only at h
  split at h
  · exact hfin _ rfl h
  · split at h
    · exact absurd h nofun
    · exact hfin _ rfl h
  · split at h
    · split at h <;> exact absurd h nofun
    · exact hfin _ rfl h

/-- The three fields of a pattern with its sign. -/
theorem Fmt.signBit_fields (f : Fmt) (neg : Bool) {k : Nat} (hlt : k < 2 ^ (f.ebits + f.mbits)) :
    (f.signBit neg + k) % 2 ^ f.mbits = k % 2 ^ f.mbits
      ∧ (f.signBit neg + k) / 2 ^ f.mbits % 2 ^ f.ebits = k / 2 ^ f.mbits
      ∧ ((f.signBit neg + k) / 2 ^ (f.mbits + f.ebits) % 2 == 1) = neg := by
  have hM : 0 < 2 ^ f.mbits := Nat.two_pow_pos _
  have hsign : f.signBit neg = 2 ^ f.mbits * (2 ^ f.ebits * neg.toNat) := by
    cases neg <;> simp [Fmt.signBit, pow_add, mul_comm]
  have hex : k / 2 ^ f.mbits < 2 ^ f.ebits := by
    rw [Nat.div_lt_iff_lt_mul hM, ← pow_add]
    exact hlt
  have hdiv : (f.signBit neg + k) / 2 ^ f.mbits = 2 ^ f.ebits * neg.toNat + k / 2 ^ f.mbits := by rw [hsign, Nat.mul_add_div hM]
  refine ⟨by rw [hsign, Nat.mul_add_mod], by rw [hdiv, Nat.mul_add_mod, Nat.mod_eq_of_lt hex], ?_⟩
  rw [pow_add, ← Nat.div_div_eq_div_mul, hdiv, Nat.mul_add_div (Nat.two_pow_pos _), Nat.div_eq_of_lt hex]
  cases neg <;> rfl

/-- Up to the largest finite pattern, a pattern is that of a number. -/
theorem Fmt.decode_upTo {f : Fmt} (hE : 1 ≤ f.ebits) (neg : Bool) {k : Nat} (hk : k ≤ f.maxFinite) (hlt : k < 2 ^ (f.ebits + f.mbits)) :
    f.decode (f.signBit neg + k) = if k / 2 ^ f.mbits = 0 then .fin neg (k % 2 ^ f.mbits) f.ulpMin
      else .fin neg (2 ^ f.mbits + k % 2 ^ f.mbits) (((k / 2 ^ f.mbits : Nat) : Int) - (f.bias : Int) - (f.mbits : Int)) := by
  have hM : 0 < 2 ^ f.mbits := Nat.two_pow_pos _
  have hE2 : 2 ≤ 2 ^ f.ebits := Nat.pow_le_pow_right (n := 2) (by omega) hE
  obtain ⟨hfrac, hexp, hneg⟩ := f.signBit_fields neg hlt
  have hdm := Nat.div_add_mod k (2 ^ f.mbits)
  unfold Fmt.maxFinite at hk
  unfold Fmt.decode Fmt.ulpMin
  dsimp only
  rw [hfrac, hexp, hneg]
  split
  · rfl
  · rename_i hs
    rw [hs] at hk
    refine if_neg fun ⟨ha, hb⟩ => ?_
    dsimp only at hk
    have : 2 ^ f.mbits * (2 ^ f.ebits - 1) + (2 ^ f.mbits - 1) = 2 ^ (f.ebits + f.mbits) - 1 := by
      rw [Nat.mul_sub_one, pow_add, mul_comm (2 ^ f.ebits)]
      have : 2 ^ f.mbits ≤ 2 ^ f.mbits * 2 ^ f.ebits := Nat.le_mul_of_pos_right _ (by omega)
      omega
    rw [ha, hb, this] at hdm
    have : 2 ≤ 2 ^ (f.ebits + f.mbits) := by rw [pow_add]; nlinarith
    omega
  · rename_i hs
    rw [hs] at hk
    refine if_neg fun ha => ?_
    dsimp only at hk
    rw [ha, mul_comm] at hdm
    have : 2 ^ f.mbits ≤ (2 ^ f.ebits - 1) * 2 ^ f.mbits := Nat.le_mul_of_pos_left _ (by omega)
    omega

/-- The pattern, without its sign, of the number `q` × 2^u, `q` of at most `mbits + 1` bits or the power of two above them. -/
def Fmt.patternOf (f : Fmt) (q : Nat) (u : Int) : Nat :=
  if q < 2 ^ f.mbits then q
  else if q = 2 ^ (f.mbits + 1) then (u + 1 + (f.mbits : Int) + (f.bias : Int)).toNat * 2 ^ f.mbits
  else (u + (f.mbits : Int) + (f.bias : Int)).toNat * 2 ^ f.mbits + (q - 2 ^ f.mbits)

/-- A format that words round to, with its two patterns. -/
structure Target.Regular (p : Target) : Prop where
  ebits : 1 ≤ p.1.ebits
  mbits : 1 ≤ p.1.mbits ∧ p.1.mbits ≤ 23
  top : 2 ^ p.1.mbits ≤ p.1.maxFinite ∧ p.1.maxFinite < 2 ^ (p.1.ebits + p.1.mbits)
  overflow : ∀ sat neg, p.1.overflow sat neg = (if neg then 2 ^ (p.1.ebits + p.1.mbits) else 0) + (if sat then p.2.1 else p.2.2)

theorem Target.regular {p : Target} (hp : p ∈ roundTable) : p.Regular := by
  simp only [roundTable, List.mem_cons, List.not_mem_nil, or_false] at hp
  obtain rfl | rfl | rfl | rfl | rfl := hp <;> constructor <;> decide

/-- The significand and the exponent of the largest finite pattern. -/
def Fmt.topSig (f : Fmt) : Nat := 2 ^ f.mbits + f.maxFinite % 2 ^ f.mbits
def Fmt.topExp (f : Fmt) : Int := ((f.maxFinite / 2 ^ f.mbits : Nat) : Int) - (f.bias : Int) - (f.mbits : Int)

/-- The largest finite value: all ones, but for the E4M3 format, whose last pattern is its NaN (R27). -/
theorem Target.top_cases {p : Target} (hp : p ∈ roundTable) :
    p.1 = fmtE4M3 ∨ p.1 ≠ fmtE4M3 ∧ p.1.topSig + 1 = 2 ^ (p.1.mbits + 1) ∧ p.1.topExp = (p.1.bias : Int) - (p.1.mbits : Int) := by
  simp only [roundTable, List.mem_cons, List.not_mem_nil, or_false] at hp
  obtain rfl | rfl | rfl | rfl | rfl := hp
  case inr.inr.inr.inl => exact .inl rfl
  all_goals exact .inr (by decide)

/-- What is too large lies half a last place above the largest finite value, or there where that is odd (R47). -/
theorem Target.exceeds_iff_top {p : Target} (hp : p ∈ roundTable) (x : ℝ) :
    p.exceeds x ↔ if p.1.topSig % 2 = 1 then ((p.1.topSig : ℝ) + 1 / 2) * 2 ^ p.1.topExp ≤ x
      else ((p.1.topSig : ℝ) + 1 / 2) * 2 ^ p.1.topExp < x := by
  unfold Target.exceeds
  obtain h | ⟨h, hs, he⟩ := Target.top_cases hp
  · have hs : fmtE4M3.topSig = 14 := rfl
    have he : fmtE4M3.topExp = 5 := rfl
    rw [if_pos h, h, hs, he, if_neg (by decide)]
    norm_num
  · have hodd : p.1.topSig % 2 = 1 := by rw [pow_succ] at hs; omega
    have hsR : (p.1.topSig : ℝ) = 2 ^ (p.1.mbits + 1) - 1 := by
      rw [eq_sub_iff_add_eq]
      exact_mod_cast hs
    have hz : (2 : ℝ) ^ (-(p.1.mbits : ℤ) - 1) = (2 ^ (p.1.mbits + 1))⁻¹ := by
      rw [← zpow_natCast, ← zpow_neg]
      congr 1
      push_cast
      ring
    rw [if_neg h, if_pos hodd, hsR, he, hz, zpow_sub₀ two_ne_zero, pow_succ, zpow_natCast, zpow_natCast]
    refine iff_of_eq (congrArg (· ≤ x) ?_)
    field_simp
    ring

/-- `u` is the exponent of the last place of a magnitude `x` in the format. -/
structure Fmt.LastPlace (f : Fmt) (x : ℝ) (u : Int) : Prop where
  min : f.ulpMin ≤ u
  lt : x < 2 ^ (u + f.mbits + 1)
  ge : u = f.ulpMin ∨ (2 : ℝ) ^ (u + f.mbits) ≤ x

section lastPlace

variable {f : Fmt} {x : ℝ} {u : Int} {q : Nat}

/-- A multiple of 2^e as a multiple of 2^u. -/
theorem multiple_of_le {m : Nat} {e u : Int} (h : u ≤ e) : ((m * 2 ^ (e - u).toNat : Int) : ℝ) * 2 ^ u = (m : ℝ) * 2 ^ e := by
  push_cast
  rw [mul_assoc, ← zpow_natCast, ← zpow_add₀ two_ne_zero, Int.toNat_of_nonneg (by omega), sub_add_cancel]

theorem abs_sub_mul_pow (a : ℝ) : |a - x / 2 ^ u| * 2 ^ u = |a * 2 ^ u - x| := by
  have hu : (0 : ℝ) < 2 ^ u := by positivity
  rw [← abs_of_pos hu, ← abs_mul, abs_of_pos hu, sub_mul, div_mul_cancel₀ _ hu.ne']

/-- The rounded significand of a magnitude of at most `M + 1` places has at most one bit more. -/
theorem sig_le {M : Nat} (h : x < 2 ^ (u + M + 1)) (hq : NearestEven q (x / 2 ^ u)) : q ≤ 2 ^ (M + 1) := by
  have hlt : x / 2 ^ u < 2 ^ (M + 1) := by
    rw [div_lt_iff₀ (by positivity), ← zpow_natCast, ← zpow_add₀ two_ne_zero]
    exact h.trans_eq (congrArg _ (by push_cast; ring))
  by_contra hc
  have hc' : ((2 ^ (M + 1) : Nat) : ℝ) < q := by exact_mod_cast not_le.mp hc
  have := hq.le (2 ^ (M + 1))
  push_cast at this hc'
  rw [abs_of_pos (by linarith), abs_of_pos (by linarith)] at this
  linarith

/-- The rounded significand of a magnitude of `M + 1` places has them. -/
theorem sig_ge {M : Nat} (h : (2 : ℝ) ^ (u + M) ≤ x) (hq : NearestEven q (x / 2 ^ u)) : 2 ^ M ≤ q := by
  have hle : (2 : ℝ) ^ M ≤ x / 2 ^ u := by
    rwa [le_div_iff₀ (by positivity), ← zpow_natCast, ← zpow_add₀ two_ne_zero, add_comm]
  by_contra hc
  have hc' : (q : ℝ) < ((2 ^ M : Nat) : ℝ) := by exact_mod_cast not_le.mp hc
  have := hq.le (2 ^ M)
  push_cast at this hc'
  rw [abs_of_neg (by linarith), abs_of_nonpos (by linarith)] at this
  linarith

/-- No number of the format is nearer than the rounded one, and where one is as near, the rounded significand is even (R45). -/
theorem Fmt.LastPlace.nearest (h : f.LastPlace x u) (hq : NearestEven q (x / 2 ^ u)) {m : Nat} {e : Int}
    (hm : m < 2 ^ (f.mbits + 1)) (he : f.ulpMin ≤ e) :
    |(q : ℝ) * 2 ^ u - x| ≤ |(m : ℝ) * 2 ^ e - x|
      ∧ ((m : ℝ) * 2 ^ e ≠ q * 2 ^ u → |(m : ℝ) * 2 ^ e - x| = |(q : ℝ) * 2 ^ u - x| → q % 2 = 0) := by
  have hu : (0 : ℝ) < 2 ^ u := by positivity
  rcases le_or_gt u e with hue | hue
  · rw [← multiple_of_le hue, ← abs_sub_mul_pow, ← abs_sub_mul_pow, mul_le_mul_iff_of_pos_right hu, mul_left_inj' hu.ne', Ne,
      mul_left_inj' hu.ne']
    exact ⟨hq.le _, fun hne heq => hq.even_of_tie (fun hj => hne (by rw [hj, Int.cast_natCast])) heq⟩
  · have hge : (2 : ℝ) ^ (u + f.mbits) ≤ x := h.ge.resolve_left (by omega)
    have hmR : (m : ℝ) < 2 ^ (f.mbits + 1) := by exact_mod_cast hm
    have hlow : (m : ℝ) * 2 ^ e < 2 ^ (u + f.mbits) := calc
      (m : ℝ) * 2 ^ e < 2 ^ (f.mbits + 1) * 2 ^ e := by
        have : (0 : ℝ) < 2 ^ e := by positivity
        nlinarith
      _ = 2 ^ (e + f.mbits + 1) := by rw [← zpow_natCast, ← zpow_add₀ two_ne_zero]; congr 1; push_cast; ring
      _ ≤ 2 ^ (u + f.mbits) := zpow_le_zpow_right₀ (by norm_num) (by omega)
    have hpow : ((2 ^ f.mbits : Int) : ℝ) * 2 ^ u = 2 ^ (u + f.mbits) := by
      push_cast
      rw [← zpow_natCast, ← zpow_add₀ two_ne_zero, add_comm]
    have hle := mul_le_mul_of_nonneg_right (hq.le (2 ^ f.mbits)) hu.le
    rw [abs_sub_mul_pow, abs_sub_mul_pow, hpow, abs_of_nonpos (sub_nonpos.mpr hge)] at hle
    rw [abs_of_neg (a := (m : ℝ) * 2 ^ e - x) (by linarith)]
    exact ⟨by linarith, fun _ heq => by linarith⟩

end lastPlace

/-! ### The pattern of a rounded number -/

theorem Target.Regular.top_facts {p : Target} (h : p.Regular) :
    2 ^ p.1.mbits ≤ p.1.topSig ∧ p.1.topSig < 2 ^ (p.1.mbits + 1) ∧ p.1.ulpMin ≤ p.1.topExp := by
  have hdiv : 1 ≤ p.1.maxFinite / 2 ^ p.1.mbits := (Nat.one_le_div_iff (Nat.two_pow_pos _)).mpr h.top.1
  have hmod := Nat.mod_lt p.1.maxFinite (Nat.two_pow_pos p.1.mbits)
  rw [Fmt.topSig, Fmt.topExp, Fmt.ulpMin, pow_succ]
  omega

/-- A magnitude is too large where its rounded significand and exponent are above those of the largest finite value (R47). -/
theorem Target.exceeds_iff {p : Target} (hp : p ∈ roundTable) {x : ℝ} {u : Int} {q : Nat} (h : p.1.LastPlace x u)
    (hq : NearestEven q (x / 2 ^ u)) : p.exceeds x ↔ p.1.topExp < u ∨ (u = p.1.topExp ∧ p.1.topSig < q) := by
  obtain ⟨hsig, hsig', hmin⟩ := (Target.regular hp).top_facts
  have hT : (0 : ℝ) < 2 ^ p.1.topExp := by positivity
  have hsigR : (2 : ℝ) ^ p.1.mbits ≤ p.1.topSig := by exact_mod_cast hsig
  have hsigR' : (p.1.topSig : ℝ) + 1 ≤ 2 ^ (p.1.mbits + 1) := by exact_mod_cast hsig'
  rw [Target.exceeds_iff_top hp]
  rcases lt_trichotomy u p.1.topExp with hu | rfl | hu
  · refine iff_of_false ?_ (by omega)
    have hx : x < p.1.topSig * 2 ^ p.1.topExp := calc
      x < 2 ^ (u + p.1.mbits + 1) := h.lt
      _ ≤ 2 ^ (p.1.mbits + p.1.topExp) := zpow_le_zpow_right₀ (by norm_num) (by omega)
      _ = 2 ^ p.1.mbits * 2 ^ p.1.topExp := by rw [zpow_add₀ two_ne_zero, zpow_natCast]
      _ ≤ p.1.topSig * 2 ^ p.1.topExp := by gcongr
    split <;> nlinarith
  · rw [← le_div_iff₀ hT, ← lt_div_iff₀ hT, ← hq.lt_iff]
    simp
  · refine iff_of_true ?_ (.inl hu)
    have hx : ((p.1.topSig : ℝ) + 1) * 2 ^ p.1.topExp ≤ x := calc
      ((p.1.topSig : ℝ) + 1) * 2 ^ p.1.topExp ≤ 2 ^ (p.1.mbits + 1) * 2 ^ p.1.topExp := by gcongr
      _ = 2 ^ (p.1.mbits + 1 + p.1.topExp) := by rw [← zpow_natCast, ← zpow_add₀ two_ne_zero]; push_cast; rfl
      _ ≤ 2 ^ (u + p.1.mbits) := zpow_le_zpow_right₀ (by norm_num) (by omega)
      _ ≤ x := h.ge.resolve_left (by omega)
    split <;> nlinarith

section pattern

variable {f : Fmt} {u : Int} {q : Nat}

theorem Fmt.patternOf_mod_two (h : 1 ≤ f.mbits) : f.patternOf q u % 2 = q % 2 := by
  obtain ⟨k, hk⟩ : ∃ k, 2 ^ f.mbits = 2 * k := ⟨2 ^ (f.mbits - 1), by rw [← pow_succ']; congr 1; omega⟩
  unfold Fmt.patternOf
  rw [pow_succ, hk]
  split
  · rfl
  · split
    · rename_i hq
      rw [hq, mul_left_comm, Nat.mul_mod_right]
      omega
    · rw [mul_left_comm, Nat.mul_add_mod]
      omega

/-- Patterns are in the order of their exponents and significands. -/
theorem Fmt.lt_patternOf_iff (htop : 2 ^ f.mbits ≤ f.maxFinite) (hmin : f.ulpMin ≤ u) (hlow : q < 2 ^ f.mbits → u = f.ulpMin)
    (hq : q ≤ 2 ^ (f.mbits + 1)) : f.maxFinite < f.patternOf q u ↔ f.topExp < u ∨ (u = f.topExp ∧ f.topSig < q) := by
  have hM := Nat.two_pow_pos f.mbits
  have hdm := Nat.div_add_mod f.maxFinite (2 ^ f.mbits)
  have hml := Nat.mod_lt f.maxFinite hM
  have hdiv : 1 ≤ f.maxFinite / 2 ^ f.mbits := (Nat.one_le_div_iff hM).mpr htop
  unfold Fmt.patternOf Fmt.topExp Fmt.topSig
  rw [Fmt.ulpMin] at hmin hlow
  rw [pow_succ] at hq ⊢
  generalize f.maxFinite / 2 ^ f.mbits = F at *
  generalize f.maxFinite % 2 ^ f.mbits = c at *
  generalize 2 ^ f.mbits = P at *
  have order (n c' : Nat) (hc' : c' < P) : f.maxFinite < n * P + c' ↔ F < n ∨ n = F ∧ c < c' := by
    rw [← hdm, mul_comm P F]
    rcases lt_trichotomy n F with hn | rfl | hn
    · have : (n + 1) * P ≤ F * P := Nat.mul_le_mul_right _ hn
      rw [add_mul] at this
      omega
    · omega
    · have : (F + 1) * P ≤ n * P := Nat.mul_le_mul_right _ hn
      rw [add_mul] at this
      omega
  split
  · omega
  · split
    · have := order (u + 1 + (f.mbits : Int) + (f.bias : Int)).toNat 0 hM
      omega
    · have := order (u + (f.mbits : Int) + (f.bias : Int)).toNat (q - P) (by omega)
      omega

/-- The pattern of a rounded number that is not too large encodes it. -/
theorem Fmt.decode_patternOf (hE : 1 ≤ f.ebits) (hlt : f.maxFinite < 2 ^ (f.ebits + f.mbits)) (hmin : f.ulpMin ≤ u)
    (hlow : q < 2 ^ f.mbits → u = f.ulpMin) (hq : q ≤ 2 ^ (f.mbits + 1)) (neg : Bool) (hk : f.patternOf q u ≤ f.maxFinite) :
    ∃ m e, f.decode (f.signBit neg + f.patternOf q u) = .fin neg m e ∧ (m : ℝ) * 2 ^ e = q * 2 ^ u := by
  have hM := Nat.two_pow_pos f.mbits
  rw [Fmt.decode_upTo hE neg hk (by omega)]
  rw [Fmt.ulpMin] at hmin
  unfold Fmt.patternOf
  split
  · rename_i hql
    rw [Nat.div_eq_of_lt hql, Nat.mod_eq_of_lt hql, if_pos rfl, ← hlow hql]
    exact ⟨_, _, rfl, rfl⟩
  · rename_i hqge
    rw [pow_succ] at hq
    split
    · rename_i hcarry
      rw [Nat.mul_div_cancel _ hM, Nat.mul_mod_left, if_neg (by omega)]
      refine ⟨_, _, rfl, ?_⟩
      rw [hcarry, show (((u + 1 + (f.mbits : Int) + (f.bias : Int)).toNat : Int) - f.bias - f.mbits) = u + 1 by omega,
        zpow_add_one₀ two_ne_zero]
      push_cast
      ring
    · rename_i hcarry
      rw [pow_succ] at hcarry
      rw [mul_comm, Nat.mul_add_div hM, Nat.mul_add_mod, Nat.div_eq_of_lt (by omega), Nat.mod_eq_of_lt (by omega), add_zero,
        if_neg (by omega)]
      refine ⟨_, _, rfl, ?_⟩
      rw [show (((u + (f.mbits : Int) + (f.bias : Int)).toNat : Int) - f.bias - f.mbits) = u by omega, Nat.add_sub_cancel' (by omega)]

end pattern

/-! ### Rounding a magnitude -/

theorem Truncates.lead {n : Nat} {e : Int} {sticky : Bool} {x : ℝ} (h : Truncates n e sticky x) (hn : n ≠ 0) :
    (2 : ℝ) ^ leadExp n e ≤ x ∧ x < 2 ^ (leadExp n e + 1) := by
  have he : (0 : ℝ) < 2 ^ e := by positivity
  have hlow : ((2 ^ n.log2 : Nat) : ℝ) ≤ n := by exact_mod_cast Nat.log2_self_le hn
  have hhigh : (n : ℝ) + 1 ≤ ((2 ^ (n.log2 + 1) : Nat) : ℝ) := by exact_mod_cast Nat.lt_log2_self
  push_cast at hlow hhigh
  rw [leadExp]
  constructor
  · rw [zpow_add₀ two_ne_zero, zpow_natCast]
    nlinarith [h.le]
  · rw [add_assoc, zpow_add₀ two_ne_zero]
    refine h.lt.trans_le ?_
    rw [mul_comm, show (2 : ℝ) ^ ((n.log2 : Int) + 1) = 2 ^ (n.log2 + 1) from zpow_natCast 2 (n.log2 + 1)]
    gcongr

/-- Tininess after rounding: what rounds, with an unbounded exponent, below the least normal number (R45). -/
theorem tiny_iff {M : Nat} {bias v : Int} {x : ℝ} {q : Nat} (hge : (2 : ℝ) ^ (v + M) ≤ x) (hlt : x < 2 ^ (v + M + 1))
    (hq : NearestEven q (x / 2 ^ v)) (hle : q ≤ 2 ^ (M + 1)) :
    v + (q.log2 : Int) < 1 - bias ↔ x < (2 - 2 ^ (-(M : ℤ) - 1)) * 2 ^ (-bias) := by
  have hqM := sig_ge hge hq
  have hM := Nat.two_pow_pos M
  have hlog : q.log2 = if q = 2 ^ (M + 1) then M + 1 else M := by
    split
    · rename_i h
      rw [h, Nat.log2_two_pow]
    · exact (Nat.log2_eq_iff (by omega)).mpr ⟨hqM, by omega⟩
  have hlimit : (2 - 2 ^ (-(M : ℤ) - 1)) * 2 ^ (-bias) = (2 : ℝ) ^ (1 - bias) - 2 ^ (-bias - M - 1) := by
    rw [sub_mul, ← zpow_add₀ two_ne_zero, ← zpow_one_add₀ two_ne_zero]
    congr 2
    ring
  have hhalf : (2 : ℝ) ^ (-bias - M - 1) ≤ 2 ^ (-bias) := zpow_le_zpow_right₀ (by norm_num) (by omega)
  have hdouble : (2 : ℝ) ^ (1 - bias) = 2 * 2 ^ (-bias) := by rw [sub_eq_add_neg, zpow_one_add₀ two_ne_zero]
  rw [hlimit, hlog]
  rcases lt_trichotomy (v + M) (-bias) with hv | hv | hv
  · refine iff_of_true (by split <;> omega) (hlt.trans_le ?_)
    have : (2 : ℝ) ^ (v + M + 1) ≤ 2 ^ (-bias) := zpow_le_zpow_right₀ (by norm_num) (by omega)
    linarith
  · have hv2 : (0 : ℝ) < 2 ^ v := by positivity
    have hc := hq.lt_iff (2 ^ (M + 1) - 1)
    have hodd : (2 ^ (M + 1) - 1) % 2 = 1 := by rw [pow_succ]; omega
    have hcast : ((2 ^ (M + 1) - 1 : Nat) : ℝ) = 2 ^ (M + 1) - 1 := by rw [Nat.cast_sub Nat.one_le_two_pow]; push_cast; rfl
    rw [if_pos hodd, le_div_iff₀ hv2, hcast] at hc
    have hbound : ((2 : ℝ) ^ (M + 1) - 1 + 1 / 2) * 2 ^ v = 2 ^ (1 - bias) - 2 ^ (-bias - M - 1) := by
      have h1 : (2 : ℝ) ^ (1 - bias) = 2 ^ (M + 1) * 2 ^ v := by
        rw [← zpow_natCast, ← zpow_add₀ two_ne_zero]
        congr 1
        push_cast
        omega
      have h2 : (2 : ℝ) ^ (-bias - M - 1) = 2 ^ v / 2 := by
        rw [show -bias - M - 1 = v - 1 by omega, zpow_sub_one₀ two_ne_zero]
        rfl
      rw [h1, h2]
      ring
    rw [hbound] at hc
    refine Iff.trans ?_ ((not_congr hc).trans not_le)
    split <;> omega
  · refine iff_of_false (by split <;> omega) (not_lt.mpr (le_trans ?_ hge))
    have : (2 : ℝ) ^ (1 - bias) ≤ 2 ^ (v + M) := zpow_le_zpow_right₀ (by norm_num) (by omega)
    have : (0 : ℝ) < 2 ^ (-bias - M - 1) := by positivity
    linarith

/-- `roundMag` in the terms above: the nearest multiple of the last place, its pattern, and whether it is too large. -/
theorem Fmt.roundMag_eq {f : Fmt} (htop : 2 ^ f.mbits ≤ f.maxFinite) (sat neg : Bool) {n : Nat} (hn : n ≠ 0) (e : Int) (sticky : Bool) :
    f.roundMag sat neg n e sticky =
      let v := leadExp n e - (f.mbits : Int)
      let u := max v f.ulpMin
      let r := roundAt n e sticky u
      let tiny := decide (v + ((roundAt n e sticky v).1.log2 : Int) < 1 - (f.bias : Int))
      if f.maxFinite < f.patternOf r.1 u then (f.overflow sat neg, flagOF ||| flagNX)
      else (f.signBit neg + f.patternOf r.1 u, (if r.2 then flagNX else flagNone) ||| if tiny && r.2 then flagUF else flagNone) := by
  unfold Fmt.roundMag Fmt.patternOf Fmt.ulpMin
  rw [if_neg hn]
  dsimp only
  generalize roundAt n e sticky (max (leadExp n e - (f.mbits : Int)) (1 - (f.bias : Int) - (f.mbits : Int))) = r
  by_cases hq : r.1 < 2 ^ f.mbits
  · rw [if_pos hq, if_pos hq, if_neg (c := f.maxFinite < r.1) (by omega)]
  · rw [if_neg hq, if_neg hq]
    by_cases hc : r.1 = 2 ^ (f.mbits + 1) <;> simp [hc]

/-- The flags of a rounding that does not overflow. -/
theorem roundFlags_bits (nx tiny : Bool) : ∀ k < 5,
    ((if nx then flagNX else flagNone) ||| if tiny && nx then flagUF else flagNone).getLsbD k = true
      ↔ nx = true ∧ (k = 0 ∨ k = 1 ∧ tiny = true) := by
  cases nx <;> cases tiny <;> decide

/-- The last place of a magnitude whose leading bit is known. -/
theorem Fmt.lastPlace_max {f : Fmt} {x : ℝ} {l : Int} (hge : (2 : ℝ) ^ l ≤ x) (hlt : x < 2 ^ (l + 1)) :
    f.LastPlace x (max (l - f.mbits) f.ulpMin) where
  min := le_max_right _ _
  lt := hlt.trans_le (zpow_le_zpow_right₀ (by norm_num) (by omega))
  ge := by
    rcases le_total (l - f.mbits) f.ulpMin with h | h
    · exact .inl (max_eq_right h)
    · rw [max_eq_left h, sub_add_cancel]
      exact .inr hge

theorem Target.signBit_even {p : Target} (hp : p ∈ roundTable) (neg : Bool) : p.1.signBit neg % 2 = 0 := by
  have := (Target.regular hp).mbits.1
  obtain ⟨k, hk⟩ : ∃ k, p.1.ebits + p.1.mbits = k + 1 := ⟨p.1.ebits + p.1.mbits - 1, by omega⟩
  unfold Fmt.signBit
  rw [hk, pow_succ]
  split <;> omega

/-- The nearest multiple of the last place rounds a magnitude that is not too large. -/
theorem Target.rounded_of_nearest {p : Target} (hp : p ∈ roundTable) {sat neg : Bool} {x : ℝ} {u : Int} {q : Nat} {fl : Flags}
    (h : p.1.LastPlace x u) (hq : NearestEven q (x / 2 ^ u)) (hx : ¬ p.exceeds x)
    (hfl : ∀ k < 5, fl.getLsbD k = true ↔ (q : ℝ) * 2 ^ u ≠ x
      ∧ (k = 0 ∨ k = 1 ∧ x < (2 - 2 ^ (-(p.1.mbits : ℤ) - 1)) * 2 ^ (-(p.1.bias : ℤ)))) :
    p.Rounded sat neg x (p.1.signBit neg + p.1.patternOf q u, fl) := by
  have hr := Target.regular hp
  have hlow : q < 2 ^ p.1.mbits → u = p.1.ulpMin := fun hlt => h.ge.resolve_right fun hge => absurd (sig_ge hge hq) (by omega)
  have hle := sig_le h.lt hq
  have hk : p.1.patternOf q u ≤ p.1.maxFinite :=
    not_lt.mp ((Fmt.lt_patternOf_iff hr.top.1 h.min hlow hle).not.mpr ((Target.exceeds_iff hp h hq).not.mp hx))
  obtain ⟨m, e, hdec, hval⟩ := Fmt.decode_patternOf hr.ebits hr.top.2 h.min hlow hle neg hk
  have hsign : p.1.signBit neg ≤ 2 ^ (p.1.ebits + p.1.mbits) := by cases neg; exacts [Nat.zero_le _, le_rfl]
  unfold Target.Rounded
  dsimp only
  rw [hdec, FVal.abs_real_fin, hval]
  refine ⟨fun hc => absurd hc hx, fun _ => ⟨rfl, rfl, ?_, fun b hb => ?_, fun b hb hne heq => ?_, hfl⟩⟩
  · have := hr.top.2
    rw [Fmt.width, add_assoc, pow_add]
    omega
  · obtain ⟨s, m', e', hb⟩ := (FVal.finite_iff _).mp hb
    obtain ⟨hm, he⟩ := Fmt.decode_bounds hb
    rw [hb, FVal.abs_real_fin]
    exact (h.nearest hq hm he).1
  · obtain ⟨s, m', e', hb⟩ := (FVal.finite_iff _).mp hb
    obtain ⟨hm, he⟩ := Fmt.decode_bounds hb
    rw [hb, FVal.abs_real_fin] at hne heq
    have := (h.nearest hq hm he).2 hne heq
    have := Target.signBit_even hp neg
    have := Fmt.patternOf_mod_two (f := p.1) (u := u) (q := q) hr.mbits.1
    omega

/-- Zero is exact in every format. -/
theorem Target.zero_rounded {p : Target} (hp : p ∈ roundTable) (sat neg : Bool) : p.Rounded sat neg 0 (p.1.signBit neg, flagNone) := by
  have hlast : p.1.LastPlace 0 p.1.ulpMin := ⟨le_rfl, by positivity, .inl rfl⟩
  have hz : NearestEven 0 (0 / 2 ^ p.1.ulpMin) := by simp [NearestEven]
  have hx : ¬ p.exceeds 0 := by
    rw [Target.exceeds_iff hp hlast hz]
    have := (Target.regular hp).top_facts
    omega
  have hpat : p.1.patternOf 0 p.1.ulpMin = 0 := if_pos (Nat.two_pow_pos _)
  have := Target.rounded_of_nearest hp (sat := sat) (neg := neg) (fl := flagNone) hlast hz hx fun k _ => by simp [flagNone]
  rwa [hpat, add_zero] at this

/-- `roundMag` rounds correctly (R45, R47). -/
theorem Target.roundMag_rounded {p : Target} (hp : p ∈ roundTable) (sat neg : Bool) {n : Nat} {e : Int} {sticky : Bool} {x : ℝ}
    (h : Truncates n e sticky x) (hs : sticky = true → 63 ≤ n.log2) : p.Rounded sat neg x (p.1.roundMag sat neg n e sticky) := by
  have hr := Target.regular hp
  rcases eq_or_ne n 0 with rfl | hn
  · obtain rfl : sticky = false := Bool.eq_false_iff.mpr fun hc => absurd (hs hc) (by decide)
    obtain rfl : x = 0 := by
      by_contra hc
      exact Bool.false_ne_true (h.sticky.mpr (by simpa using Ne.symm hc))
    exact Target.zero_rounded hp sat neg
  · obtain ⟨hge, hlt⟩ := h.lead hn
    have hlast := Fmt.lastPlace_max (f := p.1) hge hlt
    rw [Fmt.roundMag_eq hr.top.1 sat neg hn]
    dsimp only
    set v := leadExp n e - (p.1.mbits : Int) with hv
    have hsv : sticky = true → e < v := fun hc => by
      have := hs hc
      have := hr.mbits.2
      rw [hv, leadExp]
      omega
    obtain ⟨hfree, -⟩ := roundAt_nearest h hsv
    obtain ⟨hq, hnx⟩ := roundAt_nearest (u := max v p.1.ulpMin) h fun hc => (hsv hc).trans_le (le_max_left _ _)
    have hvl : v + (p.1.mbits : Int) = leadExp n e := by omega
    have hlow : (roundAt n e sticky (max v p.1.ulpMin)).1 < 2 ^ p.1.mbits → max v p.1.ulpMin = p.1.ulpMin :=
      fun hc => hlast.ge.resolve_right fun hge => absurd (sig_ge hge hq) (by omega)
    have hover := (Fmt.lt_patternOf_iff hr.top.1 hlast.min hlow (sig_le hlast.lt hq)).trans (Target.exceeds_iff hp hlast hq).symm
    by_cases hx : p.exceeds x
    · rw [if_pos (hover.mpr hx), hr.overflow]
      exact ⟨fun _ => rfl, fun hc => absurd hx hc⟩
    · rw [if_neg (hover.not.mpr hx)]
      refine Target.rounded_of_nearest hp hlast hq hx fun k hk => ?_
      rw [← hvl] at hge hlt
      rw [roundFlags_bits _ _ k hk, hnx, decide_eq_true_iff, tiny_iff hge hlt hfree (sig_le hlt hfree)]

end Sys2Proof.Machine
end

section
/-! SUPPORT. The floating-point operations as real numbers, each rounded once (R39, R45-R47, R123, R124). -/

namespace Sys2Proof.Machine

/-! ### The exact operations on real numbers -/

theorem FVal.real_neg (v : FVal) : v.neg.real = -v.real := by
  cases v with
  | nan s => simp [FVal.neg, FVal.real]
  | inf s => simp [FVal.neg, FVal.real]
  | fin s m e => cases s <;> simp [FVal.neg, FVal.real]

theorem FVal.sign_neg {v : FVal} (h : v.finite = true) : v.neg.sign = !v.sign := by
  obtain ⟨s, m, e, rfl⟩ := (FVal.finite_iff v).mp h
  rfl

theorem FVal.finite_neg (v : FVal) : v.neg.finite = v.finite := by cases v <;> rfl

theorem FVal.real_mul (s t : Bool) (m n : Nat) (e g : Int) :
    (FVal.fin (s != t) (m * n) (e + g)).real = (FVal.fin s m e).real * (FVal.fin t n g).real := by
  simp only [FVal.real, zpow_add₀ (two_ne_zero' ℝ), Nat.cast_mul]
  cases s <;> cases t <;> simp <;> ring

/-- A finite number as an integer multiple of a power of two at or below its own. -/
theorem signedInt_scaleTo {k e : Int} (h : k ≤ e) (s : Bool) (m : Nat) :
    (signedInt s (scaleTo m e k) : ℝ) * 2 ^ k = (FVal.fin s m e).real := by
  have he : (2 : ℝ) ^ e = 2 ^ (e - k).toNat * 2 ^ k := by
    rw [← zpow_natCast, ← zpow_add₀ two_ne_zero, Int.toNat_of_nonneg (by omega), sub_add_cancel]
  rw [FVal.real, he]
  cases s <;> simp [signedInt, scaleTo, mul_assoc]

/-- `r` is the real number `v`, rounded, or where it is an exact zero the zero of sign `z`, without a flag (R45, R46). -/
def Target.RoundsSum (p : Target) (v : ℝ) (z : Bool) (r : Nat × Flags) : Prop :=
  (v ≠ 0 → p.Rounded false (decide (v < 0)) |v| r) ∧ (v = 0 → r = (p.1.signBit z, 0))

section operations

variable {p : Target} (hp : p ∈ roundTable)
include hp

/-- Rounding a value (R47). -/
theorem Target.round_rounded (sat neg : Bool) (m : Nat) (e : Int) : p.Rounded sat neg ((m : ℝ) * 2 ^ e) (p.1.round sat (.fin neg m e)) :=
  Target.roundMag_rounded hp sat neg (truncates_exact m e) nofun

theorem Target.result_rounded (s : Bool) (m : Nat) (e : Int) :
    p.Rounded false s |(FVal.fin s m e).real| (p.1.result (.fin s m e) flagNone) := by
  rw [FVal.abs_real_fin]
  have := Target.roundMag_rounded hp false s (truncates_exact m e) nofun
  simpa [Fmt.result, flagNone] using this

theorem Target.ofInt_roundsSum (i k : Int) (z : Bool) : p.RoundsSum ((i : ℝ) * 2 ^ k) z (p.1.result (ofInt i k z) flagNone) := by
  have hk : (0 : ℝ) < 2 ^ k := by positivity
  rcases eq_or_ne i 0 with rfl | hi
  · exact ⟨fun h => absurd (by simp) h, fun _ => by simp [ofInt, Fmt.result, Fmt.roundMag, flagNone]⟩
  · have hv : (i : ℝ) * 2 ^ k ≠ 0 := mul_ne_zero (by exact_mod_cast hi) hk.ne'
    refine ⟨fun _ => ?_, fun h => absurd h hv⟩
    have hneg : decide ((i : ℝ) * 2 ^ k < 0) = decide (i < 0) := by
      rw [decide_eq_decide, ← not_le, mul_nonneg_iff_of_pos_right hk, not_le, Int.cast_lt_zero]
    have habs : |(i : ℝ) * 2 ^ k| = |(FVal.fin (decide (i < 0)) i.natAbs k).real| := by
      rw [FVal.abs_real_fin, abs_mul, abs_of_pos hk, Nat.cast_natAbs, Int.cast_abs]
    rw [hneg, habs, ofInt, if_neg hi]
    exact Target.result_rounded hp _ _ _

/-- Sums (R123). -/
theorem Target.add_roundsSum {a b : FVal} (ha : a.finite = true) (hb : b.finite = true) :
    p.RoundsSum (a.real + b.real) (a.sign && b.sign) (p.1.result (a.add b).1 (a.add b).2) := by
  obtain ⟨s, m, e, rfl⟩ := (FVal.finite_iff a).mp ha
  obtain ⟨t, n, g, rfl⟩ := (FVal.finite_iff b).mp hb
  rw [← signedInt_scaleTo (min_le_left e g) s m, ← signedInt_scaleTo (min_le_right e g) t n, ← add_mul, ← Int.cast_add]
  exact Target.ofInt_roundsSum hp _ _ _

/-- Sums with a product, formed exactly and rounded once (R123). -/
theorem Target.fma_roundsSum {a b c : FVal} (ha : a.finite = true) (hb : b.finite = true) (hc : c.finite = true) :
    p.RoundsSum (a.real * b.real + c.real) ((a.sign != b.sign) && c.sign) (p.1.result (a.fma b c).1 (a.fma b c).2) := by
  obtain ⟨s, m, e, rfl⟩ := (FVal.finite_iff a).mp ha
  obtain ⟨t, n, g, rfl⟩ := (FVal.finite_iff b).mp hb
  rw [← FVal.real_mul]
  have hfma : (FVal.fin s m e).fma (.fin t n g) c = (FVal.fin (s != t) (m * n) (e + g)).add c := by simp [FVal.fma, FVal.mul, flagNone]
  rw [hfma]
  exact Target.add_roundsSum hp rfl hc

theorem Target.mul_rounded {a b : FVal} (ha : a.finite = true) (hb : b.finite = true) :
    p.Rounded false (a.sign != b.sign) |a.real * b.real| (p.1.result (a.mul b).1 (a.mul b).2) := by
  obtain ⟨s, m, e, rfl⟩ := (FVal.finite_iff a).mp ha
  obtain ⟨t, n, g, rfl⟩ := (FVal.finite_iff b).mp hb
  rw [← FVal.real_mul]
  exact Target.result_rounded hp _ _ _

end operations

/-! ### Quotients and roots -/

/-- A quotient cut after `guardBits` more bits than the divisor has, and whether something was cut (R123). -/
theorem truncates_quotient {m n : Nat} (hn : n ≠ 0) (e g : Int) :
    let k := guardBits + n.log2
    Truncates (m * 2 ^ k / n) (e - g - (k : Int)) (m * 2 ^ k % n != 0) ((m : ℝ) * 2 ^ e / (n * 2 ^ g)) := by
  intro k
  have hnR : (0 : ℝ) < n := by exact_mod_cast Nat.pos_of_ne_zero hn
  have hdm : ((n * (m * 2 ^ k / n) + m * 2 ^ k % n : Nat) : ℝ) = ((m * 2 ^ k : Nat) : ℝ) := congrArg _ (Nat.div_add_mod _ _)
  have hr : ((m * 2 ^ k % n : Nat) : ℝ) + 1 ≤ n := by exact_mod_cast Nat.mod_lt (m * 2 ^ k) (Nat.pos_of_ne_zero hn)
  have hr0 : (0 : ℝ) ≤ ((m * 2 ^ k % n : Nat) : ℝ) := Nat.cast_nonneg _
  rw [← Nat.cast_ne_zero (R := ℝ)] at hn
  have hsticky : (m * 2 ^ k % n != 0) = true ↔ ((m * 2 ^ k % n : Nat) : ℝ) ≠ 0 := by rw [bne_iff_ne, Nat.cast_ne_zero]
  generalize m * 2 ^ k % n = r at *
  generalize m * 2 ^ k / n = q at *
  push_cast at hdm
  have hscale : (0 : ℝ) < 2 ^ (e - g - (k : Int)) := by positivity
  have hx : (m : ℝ) * 2 ^ e / (n * 2 ^ g) = (q + r / n) * 2 ^ (e - g - (k : Int)) := by
    rw [zpow_sub₀ two_ne_zero, zpow_sub₀ two_ne_zero, zpow_natCast]
    field_simp
    linarith
  rw [hx]
  refine ⟨?_, ?_, ?_⟩
  · gcongr
    linarith [div_nonneg hr0 hnR.le]
  · gcongr
    rw [div_lt_one hnR]
    linarith
  · rw [hsticky, Ne, Ne, mul_left_inj' hscale.ne', eq_comm (a := (q : ℝ)), add_eq_left, div_eq_zero_iff, or_iff_left hn]

theorem log2_quotient {m n : Nat} (hm : m ≠ 0) (hn : n ≠ 0) : 63 ≤ (m * 2 ^ (guardBits + n.log2) / n).log2 := by
  have hle : 2 ^ 63 ≤ m * 2 ^ (guardBits + n.log2) / n := by
    rw [Nat.le_div_iff_mul_le (Nat.pos_of_ne_zero hn)]
    calc 2 ^ 63 * n ≤ 2 ^ 63 * 2 ^ (n.log2 + 1) := Nat.mul_le_mul_left _ Nat.lt_log2_self.le
      _ = 2 ^ (guardBits + n.log2) := by rw [← pow_add, guardBits]; congr 1; omega
      _ ≤ m * 2 ^ (guardBits + n.log2) := Nat.le_mul_of_pos_left _ (Nat.pos_of_ne_zero hm)
  exact (Nat.le_log2 (by omega)).mpr hle

/-- Quotients (R123). -/
theorem Target.divide_rounded {p : Target} (hp : p ∈ roundTable) {a b : FVal} (ha : a.finite = true) (hb : b.finite = true)
    (h0 : b.real ≠ 0) : p.Rounded false (a.sign != b.sign) |a.real / b.real| (p.1.divide a b) := by
  obtain ⟨s, m, e, rfl⟩ := (FVal.finite_iff a).mp ha
  obtain ⟨t, n, g, rfl⟩ := (FVal.finite_iff b).mp hb
  have hn : n ≠ 0 := by rintro rfl; simp [FVal.real] at h0
  rw [abs_div, FVal.abs_real_fin, FVal.abs_real_fin]
  have h := Target.roundMag_rounded hp false (s != t) (truncates_quotient (m := m) hn e g)
  rcases eq_or_ne m 0 with rfl | hm
  · simpa [Fmt.divide, FVal.sign, hn, Fmt.roundMag] using h
  · simpa [Fmt.divide, FVal.sign, hn, hm] using h fun _ => log2_quotient hm hn

theorem isqrtFrom_spec (n k r : Nat) (hle : r * r ≤ n) (hlt : n < (r + 2 ^ k) * (r + 2 ^ k)) : isqrtFrom n k r = n.sqrt := by
  induction k generalizing r with
  | zero => exact Nat.eq_sqrt.mpr ⟨hle, hlt⟩
  | succ k ih =>
    rw [isqrtFrom]
    split
    · rename_i h
      exact ih _ h (by rwa [add_assoc, ← two_mul, ← pow_succ'])
    · rename_i h
      exact ih _ hle (not_le.mp h)

/-- The bit-by-bit root is the integer square root. -/
theorem isqrt_eq_sqrt (n : Nat) : isqrt n = n.sqrt := by
  refine isqrtFrom_spec n _ 0 (Nat.zero_le _) ?_
  rw [zero_add, ← pow_add]
  exact Nat.lt_log2_self.trans_le (Nat.pow_le_pow_right (by norm_num) (by omega))

/-- A root cut after the integer square root, and whether something was cut (R124). -/
theorem truncates_root (n : Nat) (e : Int) :
    Truncates n.sqrt e (n.sqrt * n.sqrt != n) (Real.sqrt n * 2 ^ e) := by
  have he : (0 : ℝ) < 2 ^ e := by positivity
  refine ⟨?_, ?_, ?_⟩
  · gcongr
    exact Real.nat_sqrt_le_real_sqrt
  · gcongr
    exact Real.real_sqrt_lt_nat_sqrt_succ
  · rw [bne_iff_ne, ne_comm, Ne, Ne, mul_left_inj' he.ne', eq_comm (a := (n.sqrt : ℝ)),
      Real.sqrt_eq_iff_mul_self_eq (Nat.cast_nonneg _) (Nat.cast_nonneg _)]
    exact_mod_cast Iff.rfl

theorem log2_root {m : Nat} (hm : m ≠ 0) : 63 ≤ (m * 2 ^ (2 * guardBits)).sqrt.log2 := by
  have hle : 2 ^ 64 ≤ (m * 2 ^ (2 * guardBits)).sqrt := by
    rw [Nat.le_sqrt, ← pow_add]
    exact Nat.le_mul_of_pos_left _ (Nat.pos_of_ne_zero hm)
  exact (Nat.le_log2 (by omega)).mpr (le_trans (by norm_num) hle)

/-- The root of a number whose exponent is even. -/
theorem sqrt_of_even (m : Nat) {e : Int} (he : e % 2 = 0) :
    Real.sqrt (m * 2 ^ e) = Real.sqrt ((m * 2 ^ (2 * guardBits) : Nat) : ℝ) * 2 ^ (e / 2 - (guardBits : Int)) := by
  have h1 : (2 : ℝ) ^ e = (2 ^ (e / 2)) ^ 2 := by
    rw [← zpow_natCast, ← zpow_mul]
    congr 1
    push_cast
    omega
  have h2 : ((m * 2 ^ (2 * guardBits) : Nat) : ℝ) = m * (2 ^ guardBits) ^ 2 := by push_cast; ring
  rw [h1, h2, Real.sqrt_mul (Nat.cast_nonneg m), Real.sqrt_mul (Nat.cast_nonneg m), Real.sqrt_sq (by positivity),
    Real.sqrt_sq (by positivity), mul_assoc, zpow_sub₀ two_ne_zero, zpow_natCast]
  field_simp

theorem Target.root_rounded {p : Target} (hp : p ∈ roundTable) {m : Nat} (hm : m ≠ 0) {e : Int} (he : e % 2 = 0) :
    p.Rounded false false (Real.sqrt (m * 2 ^ e)) (p.1.roundMag false false (isqrt (m * 2 ^ (2 * guardBits))) (e / 2 - (guardBits : Int))
      (isqrt (m * 2 ^ (2 * guardBits)) * isqrt (m * 2 ^ (2 * guardBits)) != m * 2 ^ (2 * guardBits))) := by
  rw [isqrt_eq_sqrt, sqrt_of_even m he]
  exact Target.roundMag_rounded hp false false (truncates_root _ _) fun _ => log2_root hm

/-- Roots (R124). -/
theorem Target.squareRoot_rounded {p : Target} (hp : p ∈ roundTable) {a : FVal} (ha : a.finite = true) (h0 : 0 < a.real) :
    p.Rounded false false (Real.sqrt a.real) (p.1.squareRoot a) := by
  obtain ⟨s, m, e, rfl⟩ := (FVal.finite_iff a).mp ha
  have hm : m ≠ 0 := by rintro rfl; simp [FVal.real] at h0
  obtain rfl : s = false := by
    by_contra hs
    have : (0 : ℝ) ≤ (m : ℝ) * 2 ^ e := by positivity
    rw [FVal.real, if_pos (by simpa using hs)] at h0
    linarith
  have hreal : (FVal.fin false m e).real = (m : ℝ) * 2 ^ e := by simp [FVal.real]
  rw [hreal]
  unfold Fmt.squareRoot
  dsimp only
  rw [if_neg hm, if_neg Bool.false_ne_true]
  by_cases hodd : e % 2 = 1
  · have hx : (m : ℝ) * 2 ^ e = ((2 * m : Nat) : ℝ) * 2 ^ (e - 1) := by
      rw [zpow_sub_one₀ two_ne_zero]
      push_cast
      ring
    rw [if_pos hodd, if_pos hodd, hx]
    exact Target.root_rounded hp (by omega) (by omega)
  · rw [if_neg hodd, if_neg hodd]
    exact Target.root_rounded hp hm (by omega)

/-- Settles O26: every operation forms its value exactly, or cuts it far below the last place, and `roundMag` rounds it to the nearest. -/
theorem floatRounding : Obligations.FloatRounding := by
  intro p hp a b c f A B C signs sums
  refine ⟨Target.round_rounded hp, fun hA hB => ?_, fun hA h0 => Target.squareRoot_rounded hp hA h0⟩
  have hA' := (FVal.finite_neg A).trans hA
  have hB' := (FVal.finite_neg B).trans hB
  refine ⟨Target.add_roundsSum hp hA hB, ?_, Target.mul_rounded hp hA hB, Target.divide_rounded hp hA hB,
    fun hC => ⟨Target.fma_roundsSum hp hA hB hC, ?_⟩⟩
  · have h := Target.add_roundsSum hp hA hB'
    rw [FVal.real_neg, ← sub_eq_add_neg, FVal.sign_neg hB] at h
    exact h
  · have h := Target.fma_roundsSum hp hA' hB hC
    rw [FVal.real_neg, neg_mul, add_comm, ← sub_eq_add_neg, FVal.sign_neg hA, Bool.not_bne] at h
    exact h

end Sys2Proof.Machine
end

section
/-! SUPPORT. The six standard entries of the near-memory firmware: what ends one, and the bytes that it writes (R51, R349-R351). -/

namespace Sys2Proof.Machine

/-! ### The end of a command (R155, R262, R342) -/

theorem OnlyCounted.cells {s t : State} (h : OnlyCounted s t) (pa n : Nat) : t.cells pa n = s.cells pa n := by
  rw [h]
  induction n generalizing pa with
  | zero => rfl
  | succ n ih =>
    rw [State.cells, State.cells, ih]
    rfl

/-- A phase counts the completion, and no other phase does (R155). -/
theorem State.phase_phaseInc (s : State) (n j : Nat) :
    (s.phaseInc n).phase j = if j = n then (s.phase n).counted s.gcyc else s.phase j := by
  rw [State.phaseInc, State.phase_setPhase]
  refine if_congr Iff.rfl ?_ rfl
  rw [Phase.counted]
  generalize s.phase n = x
  dsimp only
  split
  · rename_i h
    simp [h]
  · rename_i h
    have hlt : x.cnt.toNat < 2 ^ 32 - 1 := by
      have := x.cnt.isLt
      have : x.cnt.toNat ≠ 2 ^ 32 - 1 := fun he => h (BitVec.eq_of_toNat_eq he)
      omega
    have hcnt : BitVec.ofNat 32 (min (x.cnt.toNat + 1) (2 ^ 32 - 1)) = x.cnt + 1 := by
      rw [min_eq_left (by omega)]
      exact BitVec.eq_of_toNat_eq (by simp)
    rw [hcnt, beq_false_of_ne h, Bool.or_false]

/-- The status word of a command, written where the packet names one (R342). -/
theorem State.putStatus_spec {s t : State} (h : OnlyCounted s t) (p : Packet) (status reason count : Nat) :
    ∃ w, OnlyCounted w (t.putStatus p status reason count) ∧ w = { s with mem := w.mem, resid := w.resid, lags := w.lags }
      ∧ (∀ pa as, p.status = some pa → s.cells pa 8 = some as →
        Put s .unit p.core (s.windowOf pa) as (leBytes 8 (status + 65536 * reason + 2 ^ 32 * count)) w)
      ∧ ((∀ pa, p.status = some pa → s.cells pa 8 = none) → w = s) := by
  unfold State.putStatus
  cases hp : p.status with
  | none => exact ⟨s, h, rfl, nofun, fun _ => rfl⟩
  | some pa =>
    rw [Option.bind_some, h.cells]
    cases hc : s.cells pa 8 with
    | none => exact ⟨s, h, rfl, fun _ _ hpa has => (by cases hpa; exact absurd (hc.symm.trans has) nofun), fun _ => rfl⟩
    | some as =>
      have hput := (t.put_spec .unit (n := p.core) (t.windowOf_lt pa) (State.nodup_cells hc (by norm_num))
        (bs := leBytes 8 (status + 65536 * reason + 2 ^ 32 * count)) (by rw [State.length_cells hc, length_leBytes])).of_counted h
      rw [show t.windowOf pa = s.windowOf pa by rw [h]; rfl] at hput
      refine ⟨_, ?_, hput.rest, fun _ _ hpa has => ?_, fun hn => absurd (hc.symm.trans (hn pa rfl)) nofun⟩
      · rw [Option.elim_some, show t.windowOf pa = s.windowOf pa by rw [h]; rfl]
        refine OnlyCounted.trans ?_ (State.countMem_only _ as true)
        exact rfl
      · cases hpa
        cases hc.symm.trans has
        exact hput

/-- A command that completes after some accesses were counted (R262, R342). -/
theorem State.finishCommand_finished {s t : State} (h : OnlyCounted s t) (p : Packet) (status count : Nat) {reason : Nat}
    (hr : reason ≠ 8) : Finished s p status reason count (t.finishCommand p status reason count) := by
  obtain ⟨w, hw, hrest, hput, hsame⟩ := State.putStatus_spec h p status reason count
  have hphase (j : Nat) : (t.putStatus p status reason count).phase j = s.phase j := by rw [hw, hrest]; rfl
  have hgcyc : (t.putStatus p status reason count).gcyc = s.gcyc := by rw [hw, hrest]
  refine ⟨⟨w, ?_, hput, hsame⟩, ?_, fun n hn => ?_⟩
  · exact (congrArg (fun v : State => { v with phases := (t.finishCommand p status reason count).phases }) hw)
  · rw [State.finishCommand, State.phase_phaseInc, if_pos rfl, if_neg hr, hphase, hgcyc]
  · rw [State.finishCommand, State.phase_phaseInc, if_neg hn, hphase]

/-- The end of a command of a unit with no image that waits: the unit is free again, then the command completes (R342, R352). -/
theorem State.endCommand_eq {s : State} {u : Nat} (h : (s.nmu u).next = none) (p : Packet) (status reason count : Nat) :
    s.endCommand u p status reason count =
      let t := s.setNmu u { s.nmu u with cmd := none, ops := [] }
      if (s.nmu u).rmiss then t.finishCommand p 3 0 count else t.finishCommand p status reason count := by
  unfold State.endCommand
  dsimp only
  rw [h, Option.isSome_none, if_neg Bool.false_ne_true, ← h]

/-! ### What a command reads and writes (R161, R210, R354) -/

theorem State.badAt_of_resid {s : State} (h : s.resid = []) (as : List Nat) : s.badAt as = none := by
  rw [State.badAt, List.find?_eq_none]
  simp [State.badCell, h]

/-- Where all metadata match, a command's reads are counted only. -/
theorem State.commandRead_only {s : State} (h : s.resid = []) (u : Nat) (p : Packet) (as : List Nat) :
    OnlyCounted s (s.commandRead u p as) := by
  rw [State.commandRead, State.badWords_of_resid h]
  exact s.countMem_only as false

theorem nodup_cellRun (a n : Nat) : (cellRun a n).Nodup := List.nodup_range.map (add_right_injective a)
theorem length_cellRun (a n : Nat) : (cellRun a n).length = n := by rw [cellRun, List.length_map, List.length_range]

/-- Runs of bytes that a command writes one after another. -/
theorem State.each_commandWrites {s t : State} (h : OnlyCounted s t) (p : Packet) (os : List (Nat × List Byte)) :
    WroteCells s p.core os (t.each os fun v o => v.commandWrites p (cellRun o.1 o.2.length) o.2) := by
  induction os generalizing s t with
  | nil => exact h
  | cons o os ih =>
    exact ⟨t, _, h, t.put_spec .unit (by decide) (nodup_cellRun _ _) (length_cellRun _ _), ih (State.countMem_only _ _ true)⟩

theorem WroteCells.rest {n : Nat} {os : List (Nat × List Byte)} {s t : State} (h : WroteCells s n os t) :
    t = { s with mem := t.mem, resid := t.resid, lags := t.lags, perf := t.perf } := by
  induction os generalizing s with
  | nil =>
    rw [WroteCells, OnlyCounted] at h
    rw [h]
  | cons o os ih =>
    obtain ⟨u, v, hu, hput, hrest⟩ := h
    rw [OnlyCounted] at hu
    rw [ih hrest, hput.rest, hu]

/-! ### A standard entry in general (R349) -/

/-- The indices that an entry reads: those of its index vector, where it has one. -/
def State.indices (s : State) (e : Entry) (op0 n : Nat) : List Nat :=
  match e.rows with
  | some _ => (List.range n).map fun i => (s.memWord (op0 + 4 * i)).toNat
  | none => []

/-- Every index names a row. -/
def State.IndicesFit (s : State) (e : Entry) (op0 n : Nat) : Prop :=
  ∀ rows, e.rows = some rows → ∀ i < n, (s.memWord (op0 + 4 * i)).toNat < rows

theorem State.wordsFrom_eq (s : State) (a n : Nat) : s.wordsFrom a n = (List.range n).map fun i => s.memWord (a + 4 * i) := rfl

theorem State.bytesFrom_eq (s : State) (a n : Nat) : s.bytesFrom a n = (cellRun a n).map s.unitByte := rfl

theorem State.indicesFit_iff (s : State) (e : Entry) (op0 n : Nat) :
    e.rows.elim false (fun k => (s.indices e op0 n).any fun i => decide (k ≤ i)) = false ↔ s.IndicesFit e op0 n := by
  unfold State.indices State.IndicesFit
  cases e.rows <;> simp

section standard

variable {s : State} {u num : Nat} {p : Packet} {shape : Packet → List Nat → Entry} {reads : Packet → List Nat → List Nat → List Nat}
  {result : State → Packet → List Nat → List Nat → List (Nat × List Byte)} {fails : Packet → List Nat → Option Nat}
  (hcmd : (s.nmu u).cmd = some p) (himage : (s.nmu u).image = none) (hnum : p.number = num)
include hcmd himage hnum

/-- Arguments or extents out of range end an entry before its first access. -/
theorem State.standard_refused (hr : (shape p (s.nmu u).ops).reason num (s.nmu u).ops ≠ 0) :
    s.standard u num shape reads result fails = s.endCommand u p 2 ((shape p (s.nmu u).ops).reason num (s.nmu u).ops) 0 := by
  unfold State.standard
  simp only [hcmd, himage, hnum]
  rw [if_neg (by simp), if_pos hr]

/-- Where all metadata match, an entry whose arguments are in range reads its indices, and ends if one is out of range; else it reads
its operands, writes its results, and completes or meets a failed check. -/
theorem State.standard_accepted (hres : s.resid = []) (hr : (shape p (s.nmu u).ops).reason num (s.nmu u).ops = 0) :
    let n := s.nmu u
    let e := shape p n.ops
    let ix := s.indices e (opAt n.ops 0) (p.arg 0)
    ∃ t1 t2, OnlyCounted s t1 ∧ OnlyCounted s t2 ∧ s.standard u num shape reads result fails =
      if e.rows.elim false (fun k => ix.any fun i => decide (k ≤ i)) then t1.endCommand u p 2 11 0
      else
        let v := t2.each (result s p n.ops ix) fun v o => v.commandWrites p (cellRun o.1 o.2.length) o.2
        match fails p n.ops with
        | some a => (v.commandError u p a).endCommand u p 3 0 0
        | none => (v.setNmu u { n with x := SMap.set 0 n.x 224 (BitVec.ofNat 32 e.count) }).endCommand u p 1 0 e.count := by
  intro n e ix
  have hix : (match e.rows with
      | some _ => (s.wordsFrom (opAt n.ops 0) (p.arg 0)).map (·.toNat)
      | none => []) = ix := by
    simp only [ix, State.indices]
    cases e.rows <;> simp [State.wordsFrom_eq, Function.comp_def]
  have hread (t : State) (ht : OnlyCounted s t) (as : List Nat) : OnlyCounted s (t.commandRead u p as) :=
    ht.trans (State.commandRead_only (ht.resid.trans hres) u p as)
  have h1 := hread s rfl (if e.rows.isSome then cellRun (opAt n.ops 0) (4 * p.arg 0) else [])
  refine ⟨_, _, h1, hread _ h1 (reads p n.ops ix), ?_⟩
  have hbad (as : List Nat) : ¬ (s.badAt as).isSome = true := by simp [State.badAt_of_resid hres]
  unfold State.standard
  dsimp only
  split
  · rename_i hnone
    exact absurd (hcmd.symm.trans hnone) nofun
  · rename_i p' hp'
    obtain rfl := Option.some.inj (hcmd.symm.trans hp')
    rw [if_neg (by simp [himage, hnum]), if_neg (not_not.mpr hr), if_neg (hbad _), if_neg (hbad _), ← hix]
    rfl

/-- An index out of range ends an entry before it reads its operands (R349). -/
theorem State.standard_unfit (hres : s.resid = []) (hr : (shape p (s.nmu u).ops).reason num (s.nmu u).ops = 0)
    (hfit : ¬ s.IndicesFit (shape p (s.nmu u).ops) (opAt (s.nmu u).ops 0) (p.arg 0)) :
    ∃ t, OnlyCounted s t ∧ s.standard u num shape reads result fails = t.endCommand u p 2 11 0 := by
  obtain ⟨t, _, h, -, hrun⟩ := State.standard_accepted (reads := reads) (result := result) (fails := fails) hcmd himage hnum hres hr
  exact ⟨t, h, hrun.trans (if_pos (Bool.of_not_eq_false ((s.indicesFit_iff _ _ _).not.mpr hfit)))⟩

/-- The results of an entry are written, and its command completes or meets a failed check (R349). -/
theorem State.standard_fit (hres : s.resid = []) (hr : (shape p (s.nmu u).ops).reason num (s.nmu u).ops = 0)
    (hfit : s.IndicesFit (shape p (s.nmu u).ops) (opAt (s.nmu u).ops 0) (p.arg 0)) :
    let n := s.nmu u
    let e := shape p n.ops
    ∃ v, WroteCells s p.core (result s p n.ops (s.indices e (opAt n.ops 0) (p.arg 0))) v ∧ s.standard u num shape reads result fails =
      match fails p n.ops with
      | some a => (v.commandError u p a).endCommand u p 3 0 0
      | none => (v.setNmu u { n with x := SMap.set 0 n.x 224 (BitVec.ofNat 32 e.count) }).endCommand u p 1 0 e.count := by
  obtain ⟨_, t, -, h, hrun⟩ := State.standard_accepted (reads := reads) (result := result) (fails := fails) hcmd himage hnum hres hr
  exact ⟨_, State.each_commandWrites h p _, hrun.trans (if_neg (by rw [(s.indicesFit_iff _ _ _).mpr hfit]; exact Bool.false_ne_true))⟩

end standard

/-! ### The results of the six entries (R351) -/

/-- What the event of a standard entry runs, and that its results are those of R351: all of them, or those of the granules before
that of a row whose check fails. -/
def StdEntry.Performs (x : StdEntry) (s : State) (u : Nat) (p : Packet) : Prop :=
  let n := s.nmu u
  let e := x.shape p n.ops
  let misses (row : Nat) := x.num = 4 ∧ n.miss = some row ∧ row < p.arg 0
  let outs := x.out s p fun k => n.ops.getD k 0
  ∃ reads result fails, exec (x.event u) s = .next (s.standard u x.num x.shape reads result fails) ∧ e.count = p.arg 0
    ∧ (e.reason x.num n.ops = 0 →
      let got := result s p n.ops (s.indices e (opAt n.ops 0) (p.arg 0))
      ((∀ row, ¬ misses row) → fails p n.ops = none ∧ got = outs)
      ∧ ∀ row, misses row → e.rows = none ∧ (∃ a, fails p n.ops = some a) ∧ got = outs.map fun o => (o.1, o.2.take (16 * (row / 4))))

/-- An entry without a check, by what it writes. -/
theorem StdEntry.performs_unchecked {x : StdEntry} {s : State} {u : Nat} {p : Packet} {reads : Packet → List Nat → List Nat → List Nat}
    {result : State → Packet → List Nat → List Nat → List (Nat × List Byte)} (hnum : x.num ≠ 4)
    (hexec : exec (x.event u) s = .next (s.standard u x.num x.shape reads result unchecked))
    (hcount : (x.shape p (s.nmu u).ops).count = p.arg 0)
    (hout : (x.shape p (s.nmu u).ops).reason x.num (s.nmu u).ops = 0 →
      result s p (s.nmu u).ops (s.indices (x.shape p (s.nmu u).ops) (opAt (s.nmu u).ops 0) (p.arg 0)) = x.out s p fun k => (s.nmu u).ops.getD k 0) :
    x.Performs s u p :=
  ⟨reads, result, unchecked, hexec, hcount, fun hr => ⟨fun _ => ⟨rfl, hout hr⟩, fun _ hm => absurd hm.1 hnum⟩⟩

theorem wordBytes_map {α : Type} (xs : List α) (f : α → W32) : wordBytes (xs.map f) = xs.flatMap fun x => leBytes 4 (f x).toNat :=
  List.flatMap_map ..

theorem zip_map_range {α β γ : Type} (n : Nat) (g : Nat → α) (h : Nat → β) (f : α → β → γ) :
    (((List.range n).map g).zip ((List.range n).map h)).map (fun q => f q.1 q.2) = (List.range n).map fun i => f (g i) (h i) := by
  rw [List.zip_map', List.map_map]
  rfl

/-- The bytes of a number of 32 bits do not see what lies above. -/
theorem leBytes_ofNat (n : Nat) : leBytes 4 (BitVec.ofNat 32 n).toNat = leBytes 4 n := by
  simp only [leBytes_eq, BitVec.toNat_ofNat]
  refine List.map_congr_left fun i hi => BitVec.eq_of_toNat_eq ?_
  have := List.mem_range.mp hi
  rw [BitVec.toNat_ofNat, BitVec.toNat_ofNat]
  interval_cases i <;> omega

/-- Rows folded one after another are folded lane by lane. -/
theorem foldl_zip_rows {α : Type} (f : α → α → α) (len : Nat) (row : Nat → Nat → α) (js : List Nat) (g : Nat → α) :
    js.foldl (fun acc j => (acc.zip ((List.range len).map (row j))).map fun q => f q.1 q.2) ((List.range len).map g)
      = (List.range len).map fun e => js.foldl (fun acc j => f acc (row j e)) (g e) := by
  induction js generalizing g with
  | nil => rfl
  | cons j js ih =>
    simp only [List.foldl_cons]
    rw [zip_map_range, ih]

theorem State.poolRows_cons (s : State) (f : W32 → W32 → W32) (op1 len i : Nat) (rest : List Nat) :
    s.poolRows f op1 len (i :: rest) = (List.range len).map fun e =>
      rest.foldl (fun acc j => f acc (s.memWord (op1 + j * (4 * len) + 4 * e))) (s.memWord (op1 + i * (4 * len) + 4 * e)) :=
  foldl_zip_rows f len (fun j e => s.memWord (op1 + j * (4 * len) + 4 * e)) rest _

/-- The arguments of an entry that passes its tests are in range (R349). -/
theorem Entry.args_of_reason {e : Entry} {num : Nat} {ops : List Nat} (h : e.reason num ops = 0) : e.args = true := by
  unfold Entry.reason at h
  dsimp only at h
  split at h
  · exact absurd h (by decide)
  · rename_i hc
    simp only [Bool.or_eq_true, not_or, Bool.not_eq_true', Bool.not_eq_false] at hc
    exact hc.2

theorem pooled_eq (s : State) (f : W32 → W32 → W32) (p : Packet) (ops : List Nat) (h : 1 ≤ p.arg 0) :
    [(opAt ops 2, wordBytes (s.poolRows f (opAt ops 1) (p.arg 1) (s.indices (entryPool p) (opAt ops 0) (p.arg 0))))]
      = s.pooled f p fun k => ops.getD k 0 := by
  obtain ⟨m, hm⟩ : ∃ m, p.arg 0 = m + 1 := ⟨p.arg 0 - 1, by omega⟩
  have hix : s.indices (entryPool p) (opAt ops 0) (p.arg 0)
      = (s.memWord (opAt ops 0)).toNat :: (List.range m).map fun i => (s.memWord (opAt ops 0 + 4 * (i + 1))).toNat := by
    rw [hm]
    simp [State.indices, entryPool, List.range_succ_eq_map, Function.comp_def]
  rw [hix, State.poolRows_cons, wordBytes_map, State.pooled, hm, Nat.add_sub_cancel]
  simp only [List.foldl_map]
  rfl

/-- The larger of two numbers as a pattern (R124). -/
theorem minMax_pick (a b : W32) : BitVec.ofNat 32 (fmtF32.minMax true a.toNat b.toNat).1 = (pickF32 true a b).1 := by
  have hnum (x y : FVal) (o : Option Ordering) :
      BitVec.ofNat 32 (if (match o with
        | some .lt => true
        | some .eq => x.sign && !y.sign
        | _ => false) != true then a.toNat else b.toNat)
      = if o = some .lt ∨ (o = some .eq ∧ x.sign = true ∧ y.sign = false) then b else a := by
    obtain _ | _ | _ | _ := o <;> cases x.sign <;> cases y.sign <;> simp
  unfold Fmt.minMax pickF32
  dsimp only
  cases hx : fmtF32.decode a.toNat <;> cases hy : fmtF32.decode b.toNat
  case nan.nan => simp [FVal.isNaN]; decide
  case nan.inf | nan.fin | inf.nan | fin.nan => simp [FVal.isNaN]
  all_goals exact hnum _ _ _

theorem entryPool_rows {p : Packet} {num : Nat} {ops : List Nat} (h : (entryPool p).reason num ops = 0) : 1 ≤ p.arg 0 := by
  have := Entry.args_of_reason h
  simp [entryPool, inRange] at this
  omega

theorem gather_eq (s : State) (p : Packet) (ops : List Nat) :
    (let ix := s.indices (entryGather p) (opAt ops 0) (p.arg 0)
    (ix.zip (List.range ix.length)).map fun q => (opAt ops 2 + q.2 * p.arg 1, s.bytesFrom (opAt ops 1 + q.1 * p.arg 1) (p.arg 1)))
      = (List.range (p.arg 0)).map fun i => (opAt ops 2 + i * p.arg 1,
          (cellRun (opAt ops 1 + (s.memWord (opAt ops 0 + 4 * i)).toNat * p.arg 1) (p.arg 1)).map s.unitByte) := by
  simp only [State.indices, entryGather, List.length_map, List.length_range]
  have := zip_map_range (p.arg 0) (fun i => (s.memWord (opAt ops 0 + 4 * i)).toNat) id fun a i =>
    (opAt ops 2 + i * p.arg 1, s.bytesFrom (opAt ops 1 + a * p.arg 1) (p.arg 1))
  rwa [List.map_id] at this

theorem axpy_eq (s : State) (a op0 op2 n : Nat) :
    wordBytes (((s.wordsFrom op0 n).zip (s.wordsFrom op2 n)).map fun q => BitVec.ofNat 32 (fmtF32.fmaBits a q.1.toNat q.2.toNat).1)
      = (List.range n).flatMap fun i =>
          leBytes 4 (fmtF32.op3 FVal.fma a (s.memWord (op0 + 4 * i)).toNat (s.memWord (op2 + 4 * i)).toNat).1 := by
  have := zip_map_range n (fun i => s.memWord (op0 + 4 * i)) (fun i => s.memWord (op2 + 4 * i))
    fun x y : W32 => BitVec.ofNat 32 (fmtF32.fmaBits a x.toNat y.toNat).1
  rw [State.wordsFrom_eq, State.wordsFrom_eq, this, wordBytes_map]
  simp only [leBytes_ofNat]
  rfl

/-! ### IMAC (R51, R351; log 105) -/

theorem signedOf_add (v : Nat) (i : Int) : BitVec.ofInt 32 (signedOf 32 v + i) = BitVec.ofInt 32 ((v : Int) + i) := by
  refine BitVec.eq_of_toNat_eq ?_
  rw [BitVec.toNat_ofInt, BitVec.toNat_ofInt, signedOf]
  split <;> omega

theorem State.dotBytes_eq (s : State) (a b n : Nat) : dotBytes (s.bytesFrom a n) (s.bytesFrom b n)
    = ((List.range n).map fun k => (s.unitByte (a + k)).toInt * (s.unitByte (b + k)).toInt).sum := by
  rw [dotBytes, s.bytesFrom_eq, s.bytesFrom_eq, cellRun, cellRun, List.map_map, List.map_map, List.zip_map', List.foldl_map,
    List.sum_eq_foldl, List.foldl_map]
  rfl

/-- The results of the first `k` rows of an IMAC. -/
theorem imac_eq (s : State) (v op0 op1 len k : Nat) :
    wordBytes ((List.range k).map fun r => BitVec.ofInt 32 (signedOf 32 v + dotBytes (s.bytesFrom (op0 + r * len) len) (s.bytesFrom op1 len)))
      = (List.range k).flatMap fun r => leBytes 4 (BitVec.ofInt 32 ((v : Int) + ((List.range len).map fun j =>
          (s.unitByte (op0 + r * len + j)).toInt * (s.unitByte (op1 + j)).toInt).sum)).toNat := by
  rw [wordBytes_map]
  simp only [signedOf_add, State.dotBytes_eq]

theorem take_flatMap_range {α : Type} (f : Nat → List α) (n k m : Nat) (hf : ∀ i, (f i).length = m) (hk : k ≤ n) :
    ((List.range n).flatMap f).take (m * k) = (List.range k).flatMap f := by
  obtain ⟨j, rfl⟩ := Nat.exists_eq_add_of_le hk
  have hlen : ((List.range k).flatMap f).length = m * k := by simp [List.length_flatMap, hf, mul_comm]
  rw [List.range_add, List.flatMap_append, ← hlen, List.take_left]

theorem Nmu.missRow_eq_some {n : Nmu} {p : Packet} {r : Nat} : n.missRow p = some r ↔ n.miss = some r ∧ r < p.arg 0 := by
  rw [Nmu.missRow, Option.bind_eq_some_iff]
  constructor
  · rintro ⟨k, hk, h⟩
    split at h
    · rename_i hlt
      obtain rfl := Option.some.inj h
      exact ⟨hk, hlt⟩
    · exact absurd h nofun
  · rintro ⟨h, hlt⟩
    exact ⟨r, h, if_pos hlt⟩

/-- Every standard entry writes the results of R351. -/
theorem stdEntries_perform {x : StdEntry} (hx : x ∈ stdEntries) (s : State) (u : Nat) (p : Packet) : x.Performs s u p := by
  simp only [stdEntries, List.mem_cons, List.not_mem_nil, or_false] at hx
  obtain rfl | rfl | rfl | rfl | rfl | rfl := hx
  · exact StdEntry.performs_unchecked (by decide) rfl rfl fun hr => pooled_eq s _ p _ (entryPool_rows hr)
  · refine StdEntry.performs_unchecked (by decide) rfl rfl fun hr => (pooled_eq s _ p _ (entryPool_rows hr)).trans ?_
    rw [funext fun a => funext (minMax_pick a)]
  · exact StdEntry.performs_unchecked (by decide) rfl rfl fun _ => gather_eq s p _
  · exact StdEntry.performs_unchecked (by decide) rfl rfl fun _ => congrArg (fun bs => [(_, bs)]) (axpy_eq s _ _ _ _)
  · refine ⟨_, _, _, rfl, rfl, fun _ => ⟨fun hm => ?_, fun row hm => ?_⟩⟩
    · have hmiss : (s.nmu u).missRow p = none :=
        Option.eq_none_iff_forall_ne_some.mpr fun r hr => hm r ⟨rfl, Nmu.missRow_eq_some.mp hr⟩
      refine ⟨by rw [hmiss]; rfl, ?_⟩
      rw [Nmu.imacRows, hmiss]
      exact congrArg (fun bs => [(_, bs)]) (imac_eq s _ _ _ _ _)
    · have hmiss := Nmu.missRow_eq_some.mpr hm.2
      have hle : row / 4 * 4 ≤ p.arg 0 := by have := hm.2.2; omega
      refine ⟨rfl, ⟨_, by rw [hmiss]; rfl⟩, ?_⟩
      rw [Nmu.imacRows, hmiss, show 16 * (row / 4) = 4 * (row / 4 * 4) by omega]
      exact congrArg (fun bs => [(_, bs)])
        ((imac_eq s _ _ _ _ _).trans (take_flatMap_range _ _ _ _ (fun _ => length_leBytes _ _) hle).symm)
  · exact StdEntry.performs_unchecked (by decide) rfl rfl fun _ => rfl

/-! ### The entries end (R349-R351) -/

theorem Entry.reason_ne_eight (e : Entry) (num : Nat) (ops : List Nat) : e.reason num ops ≠ 8 := by
  unfold Entry.reason
  dsimp only
  split
  · decide
  · split <;> decide

theorem OnlyCounted.nmu {s t : State} (h : OnlyCounted s t) (j : Nat) : t.nmu j = s.nmu j := by rw [h]; rfl

theorem OnlyCounted.setNmu {s t : State} (h : OnlyCounted s t) (u : Nat) (x : Nmu) : OnlyCounted (s.setNmu u x) (t.setNmu u x) := by
  rw [h]
  exact rfl

theorem OnlyReported.nmu {s t : State} (h : OnlyReported s t) (j : Nat) : t.nmu j = s.nmu j := by rw [h]; rfl

theorem WroteCells.nmu {n : Nat} {os : List (Nat × List Byte)} {s t : State} (h : WroteCells s n os t) (j : Nat) : t.nmu j = s.nmu j := by
  rw [h.rest]
  rfl

/-- A soft error is pending on the core that it is reported on (R352). -/
theorem State.softError_pending (s : State) (n pa : Nat) : (SMap.get none ((s.softError n pa).core n).pend 0x104).isSome = true := by
  unfold State.softError State.softErrorIn State.pend
  dsimp only
  rw [State.core_setCore_same]
  dsimp only
  split
  · rw [SMap.get_set_same]
    rfl
  · rename_i h
    rw [h]
    rfl

/-- A command that has met no soft error completes, and its unit is free (R342). -/
theorem State.endCommand_finished {s t : State} {u : Nat} (h : OnlyCounted s t) (hnext : (s.nmu u).next = none)
    (hrmiss : (s.nmu u).rmiss = false) (p : Packet) (status count : Nat) {reason : Nat} (hr : reason ≠ 8) :
    Finished (s.setNmu u { s.nmu u with cmd := none, ops := [] }) p status reason count (t.endCommand u p status reason count) := by
  rw [State.endCommand_eq ((congrArg Nmu.next (h.nmu u)).trans hnext), h.nmu, hrmiss]
  exact State.finishCommand_finished (h.setNmu u _) p status count hr

/-- A command that meets a soft error ends with it, whatever else happens (R342, R352). -/
theorem State.commandError_finished {s : State} {u : Nat} (hnext : (s.nmu u).next = none) (p : Packet) (a status reason count : Nat) :
    ∃ w, OnlyReported s { w with nmus := s.nmus } ∧ (SMap.get none (w.core p.core).pend 0x104).isSome = true
      ∧ w.nmu u = { s.nmu u with cmd := none, ops := [], rmiss := true } ∧ (∀ j, j ≠ u → w.nmu j = s.nmu j)
      ∧ Finished w p 3 0 count ((s.commandError u p a).endCommand u p status reason count) := by
  have hrep := (s.softError_die p.core a).1
  have hnmu : (s.commandError u p a).nmu u = { s.nmu u with rmiss := true } := by
    rw [State.commandError, State.nmu_setNmu_same, hrep.nmu]
  refine ⟨(s.commandError u p a).setNmu u { s.nmu u with cmd := none, ops := [], rmiss := true }, ?_, s.softError_pending p.core a,
    State.nmu_setNmu_same _ _ _, fun j hj => ?_, ?_⟩
  · rw [State.commandError]
    generalize s.softError p.core a = v at hrep
    rw [OnlyReported] at hrep ⊢
    rw [hrep]
    rfl
  · rw [State.nmu_setNmu_ne _ _ hj, State.commandError, State.nmu_setNmu_ne _ _ hj, hrep.nmu]
  · rw [State.endCommand_eq (by rw [hnmu]; exact hnext), hnmu]
    exact State.finishCommand_finished (OnlyCounted.rfl' _) p 3 count (by decide)

/-- Settles O39: an entry ends at its tests, or writes the results of R351 and completes, or meets its failed check. -/
theorem standardEntries : Obligations.StandardEntries := by
  intro s u p x hx n op e r index fits ended misses hcmd himage hnext hrmiss hnum hres
  obtain ⟨reads, result, fails, hexec, hcount, hgot⟩ := stdEntries_perform hx s u p
  rw [hexec]
  refine ⟨fun hr => ⟨_, rfl, ?_⟩, fun hr hfit => ⟨_, rfl, ?_⟩, fun row hr hm => ⟨_, rfl, ?_⟩, fun hr hfit hm => ⟨_, rfl, ?_⟩⟩
  · rw [State.standard_refused hcmd himage hnum hr]
    exact State.endCommand_finished (OnlyCounted.rfl' s) hnext hrmiss p 2 0 (e.reason_ne_eight _ _)
  · obtain ⟨t, ht, hrun⟩ := State.standard_unfit (shape := x.shape) (reads := reads) (result := result) (fails := fails)
      hcmd himage hnum hres hr hfit
    rw [hrun]
    exact State.endCommand_finished ht hnext hrmiss p 2 0 (by decide)
  · obtain ⟨hrows, ⟨a, ha⟩, hout⟩ := (hgot hr).2 row hm
    obtain ⟨v, hv, hrun⟩ := State.standard_fit (shape := x.shape) (reads := reads) (result := result) (fails := fails)
      hcmd himage hnum hres hr fun _ h => absurd (hrows.symm.trans h) nofun
    rw [ha] at hrun
    rw [hout] at hv
    obtain ⟨w, hrep, hpend, hunit, hothers, hfin⟩ :=
      State.commandError_finished ((congrArg Nmu.next (hv.nmu u)).trans hnext) p a 3 0 0
    rw [hrun]
    rw [hv.nmu] at hunit
    exact ⟨v, w, hv, hv.rest, hrep, hpend, hunit, fun j hj => (hothers j hj).trans (hv.nmu j), hfin⟩
  · obtain ⟨hnone, hout⟩ := (hgot hr).1 hm
    obtain ⟨v, hv, hrun⟩ := State.standard_fit (shape := x.shape) (reads := reads) (result := result) (fails := fails)
      hcmd himage hnum hres hr hfit
    rw [hnone] at hrun
    rw [hout] at hv
    rw [hrun]
    dsimp only
    rw [hcount]
    generalize SMap.set 0 (s.nmu u).x 224 (BitVec.ofNat 32 (p.arg 0)) = X
    have hfin := State.endCommand_finished (u := u) (OnlyCounted.rfl' (v.setNmu u { s.nmu u with x := X }))
      (by rw [State.nmu_setNmu_same]; exact hnext) (by rw [State.nmu_setNmu_same]; exact hrmiss) p 1 (p.arg 0) (reason := 0) (by decide)
    refine ⟨_, v, hv, ?_, ?_, fun j hj => ?_, ?_, hfin⟩
    · exact rfl
    · rw [State.nmu_setNmu_same, State.nmu_setNmu_same]
    · rw [State.nmu_setNmu_ne _ _ hj, State.nmu_setNmu_ne _ _ hj, hv.nmu]
    · rw [hv.rest]
      rfl

end Sys2Proof.Machine
end

section
/-! SUPPORT. A send between regions whose tiles meet and that the map of regions lists out of order (R150, R187, R190). -/

namespace Sys2Proof.Machine

/-- Two regions whose tiles meet, listed against the order of their numbers: region 1, stopped, on tile 1, then region 0, running, on
tiles 0 and 1. Element 3, on the east edge of tile 0, executes. -/
def crossedRegions : State :=
  { State.reset with
    regions := [(1, { Region.reset with mode := .stopped .commit, w := 1, h := 1 }), (0, { Region.reset with mode := .run, w := 2, h := 1 })],
    site := { Site.reset with el := 3 } }

/-- `ard` of column 0 of accumulator 0, sent east. -/
def ardEast : EArgs := ⟨.link 1, .lit 0, .lit 0, .none, .always⟩

theorem ardEast_acts : crossedRegions.site.squashed = false ∧ crossedRegions.picks ardEast.pred ≠ 0 := by decide

/-- The receiver stands in tile 1, whose region is the first that covers it: region 1, which is stopped, and its slot is free. -/
theorem crossedRegions_receiver : crossedRegions.sendTo 1 = some 4 ∧ crossedRegions.stoppedElem 4 = true
    ∧ ((crossedRegions.elem 4).slot 3).reserved = false := by decide

/-- Once the result at +4 is in flight, region 0 stands before region 1, as the order of the numbers asks: the receiver's region is now
the running one, and the send reserves the slot. -/
theorem ardEast_reserves {t : State} (h : exec (.ard ardEast) crossedRegions = .next t) : ((t.elem 4).slot 3).reserved = true := by
  obtain rfl := Host.Outcome.next.inj h
  decide +kernel

/-- Refutes O34: a send reserves no latch of an element whose region is stopped (R150), yet the model looks the region up after the word's
own result has joined the flight, which puts an unordered map of regions in order; in `crossedRegions`, whose regions meet, this changes which
region holds the receiver. The statement asks neither for a map of regions in its canonical form nor for a word that CTXLOAD accepts, which an
`ard` to a link is not. -/
theorem not_matrix : ¬ Obligations.Matrix := by
  intro h
  obtain ⟨-, -, -, -, ⟨-, hread⟩, -⟩ := h.1 crossedRegions ardEast false
  obtain ⟨t, ht, vals, P, F, flt, -, -, -, hsends⟩ := (hread (by decide) rfl).1
  obtain ⟨hsquashed, hpicks⟩ := ardEast_acts
  obtain ⟨hto, hstopped, hfree⟩ := crossedRegions_receiver
  have hsend := hsends fun hnone => hnone.elim (fun hs => Bool.false_ne_true (hsquashed.symm.trans hs)) hpicks
  unfold State.SendsOn at hsend
  rw [show crossedRegions.sendTo (1 : BitVec 2).toNat = some 4 from hto] at hsend
  obtain ⟨u, -, hslot, -⟩ := hsend
  have hkept : (t.elem 4).slot 3 = (crossedRegions.elem 4).slot 3 := by
    rw [hslot, if_neg fun hc => Bool.false_ne_true (hc.2.symm.trans hstopped)]
  exact Bool.false_ne_true (hfree.symm.trans ((congrArg Slot.reserved hkept).symm.trans (ardEast_reserves ht)))

end Sys2Proof.Machine
end

section
/-! SUPPORT. The encodings (R54-R75): every instruction's word decodes to it, and words written out from the tables. -/

namespace Sys2Proof.Laws

/-- The round trip of every instruction, by the lemma of its constructor (R54-R75). -/
theorem statement_of_instr : ∀ i : Instr, RoundTrip.Statement i
  | .add rd ra rb => RoundTrip.add rd ra rb
  | .sub rd ra rb => RoundTrip.sub rd ra rb
  | .and rd ra rb => RoundTrip.and rd ra rb
  | .or rd ra rb => RoundTrip.or rd ra rb
  | .xor rd ra rb => RoundTrip.xor rd ra rb
  | .shl rd ra rb => RoundTrip.shl rd ra rb
  | .shr rd ra rb => RoundTrip.shr rd ra rb
  | .sra rd ra rb => RoundTrip.sra rd ra rb
  | .mul rd ra rb => RoundTrip.mul rd ra rb
  | .mulhI64 rd ra rb => RoundTrip.mulhI64 rd ra rb
  | .mulhN64 rd ra rb => RoundTrip.mulhN64 rd ra rb
  | .divI64 rd ra rb => RoundTrip.divI64 rd ra rb
  | .divN64 rd ra rb => RoundTrip.divN64 rd ra rb
  | .remI64 rd ra rb => RoundTrip.remI64 rd ra rb
  | .remN64 rd ra rb => RoundTrip.remN64 rd ra rb
  | .minI64 rd ra rb => RoundTrip.minI64 rd ra rb
  | .maxI64 rd ra rb => RoundTrip.maxI64 rd ra rb
  | .minN64 rd ra rb => RoundTrip.minN64 rd ra rb
  | .maxN64 rd ra rb => RoundTrip.maxN64 rd ra rb
  | .cmpeq qd ra rb => RoundTrip.cmpeq qd ra rb
  | .cmpne qd ra rb => RoundTrip.cmpne qd ra rb
  | .cmplt qd ra rb => RoundTrip.cmplt qd ra rb
  | .cmpge qd ra rb => RoundTrip.cmpge qd ra rb
  | .cmpltN64 qd ra rb => RoundTrip.cmpltN64 qd ra rb
  | .cmpgeN64 qd ra rb => RoundTrip.cmpgeN64 qd ra rb
  | .clz rd ra => RoundTrip.clz rd ra
  | .ctz rd ra => RoundTrip.ctz rd ra
  | .popc rd ra => RoundTrip.popc rd ra
  | .andn rd ra rb => RoundTrip.andn rd ra rb
  | .orn rd ra rb => RoundTrip.orn rd ra rb
  | .sel rd q ra rb => RoundTrip.sel rd q ra rb
  | .pand qd qa qb => RoundTrip.pand qd qa qb
  | .por qd qa qb => RoundTrip.por qd qa qb
  | .pxor qd qa qb => RoundTrip.pxor qd qa qb
  | .pnot qd qa => RoundTrip.pnot qd qa
  | .addi rd ra imm => RoundTrip.addi rd ra imm
  | .addiExt rd ra imm => RoundTrip.addiExt rd ra imm
  | .subi rd ra imm => RoundTrip.subi rd ra imm
  | .subiExt rd ra imm => RoundTrip.subiExt rd ra imm
  | .andi rd ra imm => RoundTrip.andi rd ra imm
  | .andiExt rd ra imm => RoundTrip.andiExt rd ra imm
  | .ori rd ra imm => RoundTrip.ori rd ra imm
  | .oriExt rd ra imm => RoundTrip.oriExt rd ra imm
  | .xori rd ra imm => RoundTrip.xori rd ra imm
  | .xoriExt rd ra imm => RoundTrip.xoriExt rd ra imm
  | .shli rd ra n => RoundTrip.shli rd ra n
  | .shri rd ra n => RoundTrip.shri rd ra n
  | .srai rd ra n => RoundTrip.srai rd ra n
  | .muli rd ra imm => RoundTrip.muli rd ra imm
  | .muliExt rd ra imm => RoundTrip.muliExt rd ra imm
  | .cmpeqi qd ra imm => RoundTrip.cmpeqi qd ra imm
  | .cmpeqiExt qd ra imm => RoundTrip.cmpeqiExt qd ra imm
  | .cmpnei qd ra imm => RoundTrip.cmpnei qd ra imm
  | .cmpneiExt qd ra imm => RoundTrip.cmpneiExt qd ra imm
  | .cmplti qd ra imm => RoundTrip.cmplti qd ra imm
  | .cmpltiExt qd ra imm => RoundTrip.cmpltiExt qd ra imm
  | .cmpgei qd ra imm => RoundTrip.cmpgei qd ra imm
  | .cmpgeiExt qd ra imm => RoundTrip.cmpgeiExt qd ra imm
  | .cmpltiN64 qd ra imm => RoundTrip.cmpltiN64 qd ra imm
  | .cmpltiN64Ext qd ra imm => RoundTrip.cmpltiN64Ext qd ra imm
  | .cmpgeiN64 qd ra imm => RoundTrip.cmpgeiN64 qd ra imm
  | .cmpgeiN64Ext qd ra imm => RoundTrip.cmpgeiN64Ext qd ra imm
  | .br q off => RoundTrip.br q off
  | .brExt q off => RoundTrip.brExt q off
  | .brn q off => RoundTrip.brn q off
  | .brnExt q off => RoundTrip.brnExt q off
  | .jmp off => RoundTrip.jmp off
  | .jmpExt off => RoundTrip.jmpExt off
  | .call fc off => RoundTrip.call fc off
  | .callExt fc off => RoundTrip.callExt fc off
  | .jmpr ra => RoundTrip.jmpr ra
  | .callr fc ra => RoundTrip.callr fc ra
  | .ret => RoundTrip.ret
  | .ldI8 rd ra m => RoundTrip.ldI8 rd ra m
  | .ldI8Ext rd ra m off => RoundTrip.ldI8Ext rd ra m off
  | .ldI16 rd ra m => RoundTrip.ldI16 rd ra m
  | .ldI16Ext rd ra m off => RoundTrip.ldI16Ext rd ra m off
  | .ldI32 rd ra m => RoundTrip.ldI32 rd ra m
  | .ldI32Ext rd ra m off => RoundTrip.ldI32Ext rd ra m off
  | .ldI64 rd ra m => RoundTrip.ldI64 rd ra m
  | .ldI64Ext rd ra m off => RoundTrip.ldI64Ext rd ra m off
  | .ldN8 rd ra m => RoundTrip.ldN8 rd ra m
  | .ldN8Ext rd ra m off => RoundTrip.ldN8Ext rd ra m off
  | .ldN16 rd ra m => RoundTrip.ldN16 rd ra m
  | .ldN16Ext rd ra m off => RoundTrip.ldN16Ext rd ra m off
  | .ldN32 rd ra m => RoundTrip.ldN32 rd ra m
  | .ldN32Ext rd ra m off => RoundTrip.ldN32Ext rd ra m off
  | .ldN64 rd ra m => RoundTrip.ldN64 rd ra m
  | .ldN64Ext rd ra m off => RoundTrip.ldN64Ext rd ra m off
  | .st8 rs ra m => RoundTrip.st8 rs ra m
  | .st8Ext rs ra m off => RoundTrip.st8Ext rs ra m off
  | .st16 rs ra m => RoundTrip.st16 rs ra m
  | .st16Ext rs ra m off => RoundTrip.st16Ext rs ra m off
  | .st32 rs ra m => RoundTrip.st32 rs ra m
  | .st32Ext rs ra m off => RoundTrip.st32Ext rs ra m off
  | .st64 rs ra m => RoundTrip.st64 rs ra m
  | .st64Ext rs ra m off => RoundTrip.st64Ext rs ra m off
  | .ldp rp ra m => RoundTrip.ldp rp ra m
  | .ldpExt rp ra m off => RoundTrip.ldpExt rp ra m off
  | .stp rp ra m => RoundTrip.stp rp ra m
  | .stpExt rp ra m off => RoundTrip.stpExt rp ra m off
  | .copy rd ra rb tok sc => RoundTrip.copy rd ra rb tok sc
  | .copyExt rd ra rb tok sc wait => RoundTrip.copyExt rd ra rb tok sc wait
  | .copyRed rd ra rb tok sc wait op ty => RoundTrip.copyRed rd ra rb tok sc wait op ty
  | .amoadd rd ra rb a => RoundTrip.amoadd rd ra rb a
  | .amoand rd ra rb a => RoundTrip.amoand rd ra rb a
  | .amoor rd ra rb a => RoundTrip.amoor rd ra rb a
  | .amoxor rd ra rb a => RoundTrip.amoxor rd ra rb a
  | .amomaxI rd ra rb a => RoundTrip.amomaxI rd ra rb a
  | .amominI rd ra rb a => RoundTrip.amominI rd ra rb a
  | .amomaxN rd ra rb a => RoundTrip.amomaxN rd ra rb a
  | .amominN rd ra rb a => RoundTrip.amominN rd ra rb a
  | .amoswap rd ra rb a => RoundTrip.amoswap rd ra rb a
  | .amocas rd ra rb a => RoundTrip.amocas rd ra rb a
  | .fence sc => RoundTrip.fence sc
  | .fenceAcq sc => RoundTrip.fenceAcq sc
  | .fenceRel sc => RoundTrip.fenceRel sc
  | .fencePath sc => RoundTrip.fencePath sc
  | .fenceWin sc => RoundTrip.fenceWin sc
  | .launch ra rb => RoundTrip.launch ra rb
  | .sbind ra rb => RoundTrip.sbind ra rb
  | .sgo ra => RoundTrip.sgo ra
  | .sbar ra => RoundTrip.sbar ra
  | .qpush ra rb => RoundTrip.qpush ra rb
  | .qpop rd ra => RoundTrip.qpop rd ra
  | .qcount rd ra => RoundTrip.qcount rd ra
  | .ctxload ra rb => RoundTrip.ctxload ra rb
  | .rtload ra rb => RoundTrip.rtload ra rb
  | .palload ra rb => RoundTrip.palload ra rb
  | .ownload ra rb => RoundTrip.ownload ra rb
  | .tload ra => RoundTrip.tload ra
  | .tq ra => RoundTrip.tq ra
  | .nmload ra rb => RoundTrip.nmload ra rb
  | .nmcall ra => RoundTrip.nmcall ra
  | .fsinit rd ra rb => RoundTrip.fsinit rd ra rb
  | .fsupd rd ra rb => RoundTrip.fsupd rd ra rb
  | .fsddt rd ra rb => RoundTrip.fsddt rd ra rb
  | .fssolve rd ra => RoundTrip.fssolve rd ra
  | .fsscale rd ra => RoundTrip.fsscale rd ra
  | .fsread rd ra rb => RoundTrip.fsread rd ra rb
  | .fswrite rd ra rb => RoundTrip.fswrite rd ra rb
  | .fslogdet rd ra => RoundTrip.fslogdet rd ra
  | .phset ra rb => RoundTrip.phset ra rb
  | .phadd ra rb => RoundTrip.phadd ra rb
  | .phrd rd ra => RoundTrip.phrd rd ra
  | .btalloc rd ra rb => RoundTrip.btalloc rd ra rb
  | .btfork rd ra rb => RoundTrip.btfork rd ra rb
  | .btdrop rd ra => RoundTrip.btdrop rd ra
  | .btdemote rd ra rb => RoundTrip.btdemote rd ra rb
  | .btpromote rd ra rb => RoundTrip.btpromote rd ra rb
  | .swbind rd ra rb => RoundTrip.swbind rd ra rb
  | .snap ra => RoundTrip.snap ra
  | .snaprd rd ra => RoundTrip.snaprd rd ra
  | .mfsr rd n => RoundTrip.mfsr rd n
  | .mtsr n ra => RoundTrip.mtsr n ra
  | .trap n => RoundTrip.trap n
  | .treen => RoundTrip.treen
  | .tret => RoundTrip.tret
  | .waitt mask => RoundTrip.waitt mask
  | .tlbinvPg ra rb => RoundTrip.tlbinvPg ra rb
  | .tlbinvCx rb => RoundTrip.tlbinvCx rb
  | .tlbinvAll => RoundTrip.tlbinvAll
  | .idle => RoundTrip.idle
  | .stepRow h phase => RoundTrip.stepRow h phase
  | .loopRow h ii count => RoundTrip.loopRow h ii count
  | .endl h row => RoundTrip.endl h row
  | .exitRow h => RoundTrip.exitRow h
  | .epil h => RoundTrip.epil h
  | .mpass h acc int clear groups => RoundTrip.mpass h acc int clear groups
  | .form h w ht => RoundTrip.form h w ht
  | .reconf h x => RoundTrip.reconf h x
  | .barrier h ports => RoundTrip.barrier h ports
  | .commit h => RoundTrip.commit h
  | .waitq h port => RoundTrip.waitq h port
  | .endRow h => RoundTrip.endRow h
  | .nWord w => RoundTrip.nWord w
  | .wordResultLanding g => RoundTrip.wordResultLanding g
  | .linkSlotFill g => RoundTrip.linkSlotFill g
  | .iterationAdmission g => RoundTrip.iterationAdmission g
  | .formSettlingEnd g => RoundTrip.formSettlingEnd g
  | .implicitClose g => RoundTrip.implicitClose g
  | .commitWindowClose g => RoundTrip.commitWindowClose g
  | .replayCtrlWrite g v => RoundTrip.replayCtrlWrite g v
  | .matrixGroupSnapshot g t => RoundTrip.matrixGroupSnapshot g t
  | .matrixGroupLanding g t => RoundTrip.matrixGroupLanding g t
  | .clockGate g => RoundTrip.clockGate g
  | .scanRequest p g => RoundTrip.scanRequest p g
  | .scanRelease p g => RoundTrip.scanRelease p g
  | .asyncTrapDelivery n => RoundTrip.asyncTrapDelivery n
  | .idleWake n => RoundTrip.idleWake n
  | .copyCompletion i => RoundTrip.copyCompletion i
  | .coreReset => RoundTrip.coreReset
  | .doorbell p q v => RoundTrip.doorbell p q v
  | .dispatcherWindowWrite p off size v => RoundTrip.dispatcherWindowWrite p off size v
  | .teardown p c => RoundTrip.teardown p c
  | .queueLevelRaise q => RoundTrip.queueLevelRaise q
  | .recordRejection q => RoundTrip.recordRejection q
  | .recordTake q => RoundTrip.recordTake q
  | .placement l site => RoundTrip.placement l site
  | .resumption l site => RoundTrip.resumption l site
  | .tileTaskStart l => RoundTrip.tileTaskStart l
  | .tileTaskBoundary g => RoundTrip.tileTaskBoundary g
  | .preemptionRequest why l => RoundTrip.preemptionRequest why l
  | .preemption l => RoundTrip.preemption l
  | .inPlaceSwitch l => RoundTrip.inPlaceSwitch l
  | .rePlacement l => RoundTrip.rePlacement l
  | .streamStart a => RoundTrip.streamStart a
  | .streamElementAccess a => RoundTrip.streamElementAccess a
  | .streamCompletion a => RoundTrip.streamCompletion a
  | .copyOnWrite a => RoundTrip.copyOnWrite a
  | .demotionCompletion i => RoundTrip.demotionCompletion i
  | .promotionCompletion i => RoundTrip.promotionCompletion i
  | .portQueueFill g port => RoundTrip.portQueueFill g port
  | .portQueuePush g port => RoundTrip.portQueuePush g port
  | .sampleArrival src dst => RoundTrip.sampleArrival src dst
  | .blend t => RoundTrip.blend t
  | .commandAcceptance u => RoundTrip.commandAcceptance u
  | .irsum u => RoundTrip.irsum u
  | .irmax u => RoundTrip.irmax u
  | .gather u => RoundTrip.gather u
  | .axpy u => RoundTrip.axpy u
  | .imac u => RoundTrip.imac u
  | .relayout u => RoundTrip.relayout u
  | .tqCommand k => RoundTrip.tqCommand k
  | .tloadCommand k => RoundTrip.tloadCommand k
  | .snapshotLatch => RoundTrip.snapshotLatch
  | .powerOn r => RoundTrip.powerOn r
  | .firmwareImageUpdate version valid => RoundTrip.firmwareImageUpdate version valid
  | .configurationRecordUpdate rec valid => RoundTrip.configurationRecordUpdate rec valid
  | .hostAccess a => RoundTrip.hostAccess a
  | .securityAlarm source => RoundTrip.securityAlarm source
  | .spanLinkLoss link => RoundTrip.spanLinkLoss link
  | .spanUnreachable pkg => RoundTrip.spanUnreachable pkg
  | .ethernetMessageCompletion pa bytes => RoundTrip.ethernetMessageCompletion pa bytes
  | .linkWidthChange link width => RoundTrip.linkWidthChange link width
  | .frequencyChange die freq => RoundTrip.frequencyChange die freq
  | .powerCap watts => RoundTrip.powerCap watts
  | .thermalLimit die => RoundTrip.thermalLimit die
  | .spanLinkRetrain link => RoundTrip.spanLinkRetrain link
  | .powerLoss flashing => RoundTrip.powerLoss flashing
  | .addI32 w => RoundTrip.addI32 w
  | .subI32 w => RoundTrip.subI32 w
  | .mulI32 w => RoundTrip.mulI32 w
  | .mulhI32 w => RoundTrip.mulhI32 w
  | .mulhN32 w => RoundTrip.mulhN32 w
  | .madI32 w => RoundTrip.madI32 w
  | .minI32 w => RoundTrip.minI32 w
  | .maxI32 w => RoundTrip.maxI32 w
  | .minN32 w => RoundTrip.minN32 w
  | .maxN32 w => RoundTrip.maxN32 w
  | .absI32 w => RoundTrip.absI32 w
  | .addsI32 w => RoundTrip.addsI32 w
  | .subsI32 w => RoundTrip.subsI32 w
  | .addsN32 w => RoundTrip.addsN32 w
  | .subsN32 w => RoundTrip.subsN32 w
  | .eAnd w => RoundTrip.eAnd w
  | .eOr w => RoundTrip.eOr w
  | .eXor w => RoundTrip.eXor w
  | .eAndn w => RoundTrip.eAndn w
  | .eShl w => RoundTrip.eShl w
  | .eShr w => RoundTrip.eShr w
  | .eSra w => RoundTrip.eSra w
  | .rol w => RoundTrip.rol w
  | .ePopc w => RoundTrip.ePopc w
  | .eClz w => RoundTrip.eClz w
  | .eCtz w => RoundTrip.eCtz w
  | .bfx w => RoundTrip.bfx w
  | .bfi w => RoundTrip.bfi w
  | .addF32 w => RoundTrip.addF32 w
  | .subF32 w => RoundTrip.subF32 w
  | .mulF32 w => RoundTrip.mulF32 w
  | .fmaF32 w => RoundTrip.fmaF32 w
  | .fnmaF32 w => RoundTrip.fnmaF32 w
  | .minF32 w => RoundTrip.minF32 w
  | .maxF32 w => RoundTrip.maxF32 w
  | .divF32 w => RoundTrip.divF32 w
  | .sqrtF32 w => RoundTrip.sqrtF32 w
  | .absF32 w => RoundTrip.absF32 w
  | .negF32 w => RoundTrip.negF32 w
  | .addF16 w => RoundTrip.addF16 w
  | .mulF16 w => RoundTrip.mulF16 w
  | .fmaF16 w => RoundTrip.fmaF16 w
  | .fmaBf16 w => RoundTrip.fmaBf16 w
  | .cvtF32I32 w => RoundTrip.cvtF32I32 w
  | .cvtF32N32 w => RoundTrip.cvtF32N32 w
  | .cvtI32F32 w => RoundTrip.cvtI32F32 w
  | .cvtN32F32 w => RoundTrip.cvtN32F32 w
  | .cvtF16F32 w => RoundTrip.cvtF16F32 w
  | .cvtF16F32Sat w => RoundTrip.cvtF16F32Sat w
  | .cvtBf16F32 w => RoundTrip.cvtBf16F32 w
  | .cvtBf16F32Sat w => RoundTrip.cvtBf16F32Sat w
  | .cvtE4m3F32 w => RoundTrip.cvtE4m3F32 w
  | .cvtE4m3F32Sat w => RoundTrip.cvtE4m3F32Sat w
  | .cvtE5m2F32 w => RoundTrip.cvtE5m2F32 w
  | .cvtE5m2F32Sat w => RoundTrip.cvtE5m2F32Sat w
  | .cvtF32F16 w => RoundTrip.cvtF32F16 w
  | .cvtF32Bf16 w => RoundTrip.cvtF32Bf16 w
  | .cvtF32E4m3 w => RoundTrip.cvtF32E4m3 w
  | .cvtF32E5m2 w => RoundTrip.cvtF32E5m2 w
  | .pshift w => RoundTrip.pshift w
  | .pld w => RoundTrip.pld w
  | .pst w => RoundTrip.pst w
  | .rule w => RoundTrip.rule w
  | .pquiet w => RoundTrip.pquiet w
  | .pbx w => RoundTrip.pbx w
  | .pbi w => RoundTrip.pbi w
  | .paddI16 w => RoundTrip.paddI16 w
  | .psubI16 w => RoundTrip.psubI16 w
  | .ePand w => RoundTrip.ePand w
  | .ePor w => RoundTrip.ePor w
  | .ePxor w => RoundTrip.ePxor w
  | .eSel w => RoundTrip.eSel w
  | .cmpeqI32 w => RoundTrip.cmpeqI32 w
  | .cmpltI32 w => RoundTrip.cmpltI32 w
  | .cmpleI32 w => RoundTrip.cmpleI32 w
  | .cmpltN32 w => RoundTrip.cmpltN32 w
  | .cmpleN32 w => RoundTrip.cmpleN32 w
  | .cmpeqF32 w => RoundTrip.cmpeqF32 w
  | .cmpltF32 w => RoundTrip.cmpltF32 w
  | .cmpleF32 w => RoundTrip.cmpleF32 w
  | .cmpunF32 w => RoundTrip.cmpunF32 w
  | .mand w => RoundTrip.mand w
  | .mor w => RoundTrip.mor w
  | .mxor w => RoundTrip.mxor w
  | .mnot w => RoundTrip.mnot w
  | .mlane w => RoundTrip.mlane w
  | .exitf w => RoundTrip.exitf w
  | .lrecv w => RoundTrip.lrecv w
  | .stin w => RoundTrip.stin w
  | .lpoll w => RoundTrip.lpoll w
  | .sldN32 w => RoundTrip.sldN32 w
  | .sldN16 w => RoundTrip.sldN16 w
  | .sldI16 w => RoundTrip.sldI16 w
  | .sstN32 w => RoundTrip.sstN32 w
  | .sstN16 w => RoundTrip.sstN16 w
  | .mfa w => RoundTrip.mfa w
  | .mfb w => RoundTrip.mfb w
  | .mfas w => RoundTrip.mfas w
  | .mfbs w => RoundTrip.mfbs w
  | .ard w => RoundTrip.ard w
  | .awr w => RoundTrip.awr w
  | .aclr w => RoundTrip.aclr w
  | .rmarch w => RoundTrip.rmarch w
  | .rsamp w => RoundTrip.rsamp w
  | .fragout w => RoundTrip.fragout w
  | .rrecv w => RoundTrip.rrecv w
  | .eNop w => RoundTrip.eNop w
  | .eMov w => RoundTrip.eMov w
  | .lane w => RoundTrip.lane w
  | .iter w => RoundTrip.iter w
  | .rdst w => RoundTrip.rdst w
  | .clrst w => RoundTrip.clrst w
  | .kbsel w => RoundTrip.kbsel w

/-- Settles O60: each constructor's word is taken apart by the decoder of its form. -/
theorem roundTrip : Obligations.RoundTrip := statement_of_instr

/-- Major opcode 5 has no function 54 (R57), so the first 32 bits of this E-word are no C-word. -/
theorem decodeC_unlisted_function : decodeC 0x0B8D07EC 0 = none := by decide

/-- Settles O56: each word is taken apart field by field. -/
theorem decodedWords : Obligations.DecodedWords := by
  obtain ⟨haddi, -⟩ := test_decode_core
  obtain ⟨hcall, hret, -⟩ := test_decode_control
  obtain ⟨hfsinit, -⟩ := test_decode_factor
  obtain ⟨hadds, hsel, -⟩ := test_decode_element
  obtain ⟨hstep, -, -, hend, -⟩ := test_decode_rows
  exact ⟨haddi, hcall, hret, hfsinit, decodeC_unlisted_function, hadds, hsel, hstep, hend⟩

end Sys2Proof.Laws
end

section
/-! SUPPORT. What the operands of a core's word cost: the loads that it makes, and the walks that it counts and reports (R161,
R352). -/

namespace Sys2Proof.Machine

/-! ### Reads that are counted and reported (R161, R352) -/

/-- Reads were counted and soft errors reported; where all metadata match, reads were counted only. -/
def OnlyRead (s t : State) : Prop := OnlyReported s t ∧ (s.resid = [] → OnlyCounted s t)

theorem OnlyCounted.read {s t : State} (h : OnlyCounted s t) : OnlyRead s t := ⟨h.reported, fun _ => h⟩

theorem OnlyRead.refl (s : State) : OnlyRead s s := OnlyCounted.read rfl

theorem OnlyReported.resid {s t : State} (h : OnlyReported s t) : t.resid = s.resid := by rw [h]

theorem OnlyRead.trans {s t u : State} (h : OnlyRead s t) (k : OnlyRead t u) : OnlyRead s u :=
  ⟨h.1.trans k.1, fun hr => (h.2 hr).trans (k.2 (h.1.resid.trans hr))⟩

theorem State.walkReport_read (s : State) (n who c va : Nat) : OnlyRead s (s.walkReport n who c va) := by
  refine ⟨(State.softErrors_die (s.countWalk_die who c va).reported (fun _ _ => n) _).1, fun hr => ?_⟩
  rw [State.walkReport, State.walkBad_of_resid hr]
  exact s.countWalk_only who c va

theorem State.checkRead_read (s : State) (n : Nat) (pas : List Nat) : OnlyRead s (s.checkRead n pas) := by
  refine ⟨(State.softErrors_die (DieCounted.refl s).reported (fun _ _ => n) _).1, fun hr => ?_⟩
  rw [State.checkRead, State.badWords_of_resid hr]
  exact OnlyCounted.rfl' s

/-! ### Traps after a report (R136, R352) -/

/-- A soft error adds a pending cause, which no trap waits for. -/
theorem State.softError_canTrap {s : State} (h : s.canTrap) (n pa : Nat) : (s.softError n pa).canTrap := by
  have hcore (c : Core) (hc : c.cstat = (s.core n).cstat) (hw : c.wfill = (s.core n).wfill) : (s.setCore n c).canTrap := by
    unfold State.canTrap State.me at *
    rw [State.core_setCore]
    split
    · rename_i heq
      rw [hc, hw, ← heq]
      exact h
    · exact h
  exact hcore _ rfl rfl

theorem State.walkReport_canTrap {s : State} (h : s.canTrap) (n who c va : Nat) : (s.walkReport n who c va).canTrap :=
  List.foldlRecOn _ _ (motive := State.canTrap) ((s.countWalk_only who c va).canTrap h) fun _ hu pa _ => State.softError_canTrap hu n pa

/-- A data access fault of the executing core, once the walk that failed is reported. -/
theorem State.accessTrap_access {s : State} (h : s.canTrap) (va : Nat) :
    ∃ v, OnlyReported s v ∧ TookTrap v 6 (BitVec.ofNat 64 va) v.me.pc (s.accessTrap causeAccess va) :=
  ⟨_, (s.walkReport_read _ _ _ _).1, State.trap_took _ (by decide) (State.walkReport_canTrap h _ _ _ _)⟩

/-! ### Loads (R93, R275) -/

/-- A word whose operand can be loaded now goes on with its bytes. -/
theorem State.withLoad_gets {s u : State} {va n : Nat} {bs : List Byte} (h : s.Gets va n u bs) (f : State → List Byte → Out) :
    s.withLoad va n f = f u bs := by
  unfold State.Gets at h
  unfold State.withLoad
  split at h
  · rename_i hw
    rw [hw]
    dsimp only
    rw [State.withPlain, h]
  · rename_i off hw
    obtain ⟨hal, hmay, hthere, rfl, rfl⟩ := h
    rw [hw]
    dsimp only
    rw [hal, hmay, hthere]
    rfl

/-- A load counts and reports. -/
theorem State.Gets.read {s u : State} {va n : Nat} {bs : List Byte} (h : s.Gets va n u bs) : OnlyRead s u := by
  unfold State.Gets at h
  split at h
  · unfold State.coreLoad at h
    split at h
    · cases h
      exact ((s.coreWalk_only va n).read.trans (State.checkRead_read _ _ _)).trans (State.countMem_only _ _ false).read
    · exact absurd h nofun
  · obtain ⟨-, -, -, rfl, -⟩ := h
    exact (s.coreWalk_only va n).read

/-! ### Modes and contexts (R78, R136) -/

theorem Core.ctx_eq (c : Core) : c.ctx = c.ctxid.toNat % 4096 := by
  have h : c.ctxid.toNat < 2 ^ 20 := c.ctxid.isLt
  simp only [Core.ctx, bits64, fld, BitVec.toNat_setWidth, Nat.pow_zero, Nat.div_one]
  omega

theorem Core.user_eq_false_iff (c : Core) : c.user = false ↔ c.priv :=
  ⟨fun h => by_contra fun hp => Bool.false_ne_true (h.symm.trans (Core.user_true_of_not_priv hp)), Core.user_false_of_priv⟩

/-- In user mode a core acts for its own context only. -/
theorem Core.mayActFor_iff (c : Core) (k : Nat) : (c.user && k != c.ctx) = false ↔ c.priv ∨ k = c.ctxid.toNat % 4096 := by
  rw [Bool.and_eq_false_iff, Core.user_eq_false_iff, bne_eq_false_iff_eq, Core.ctx_eq]

/-- The memory-port die of a core, a supervisor's by its number (log 108). -/
theorem dieOfCore_eq (n : Nat) : dieOfCore n = if 128 ≤ n then n - 128 else n / 16 := by
  simp only [dieOfCore, isSup, decide_eq_true_eq]

end Sys2Proof.Machine
end

section
/-! SUPPORT. The stream words of a core: `sbind`, `sgo` and `sbar` (R71, R196-R198). -/

namespace Sys2Proof.Machine

theorem State.myAgu_eq (s : State) (n : Nat) : s.myAgu n = 64 * (if s.cur < 128 then s.cur / 16 else s.cur - 128) + n := by
  simp only [State.myAgu, dieOfCore_eq, ← not_lt, ite_not]

/-! ### sbind (R71, R196) -/

/-- AGU `n` with the A-word `w`, bound. -/
def State.aguBoundTo (s : State) (n : Nat) (w : BitVec 128) : Agu := { s.agu (s.myAgu n) with aword := w, st := .bound }

/-- An A-word that the executing core may give to its AGU `n` (R71, R196). -/
def State.SbindFine (s : State) (n : Nat) (w : BitVec 128) : Prop :=
  (s.aguBoundTo n w).wordOk = true ∧ s.aguPlaced (s.aguBoundTo n w) = true
    ∧ (s.me.priv ∨ (s.agu (s.myAgu n)).ctx.toNat = s.me.ctxid.toNat % 4096)

theorem State.sbindRefused_iff (s : State) (n : Nat) (w : BitVec 128) :
    (!(s.aguBoundTo n w).wordOk || !s.aguPlaced (s.aguBoundTo n w) || (s.me.user && (s.agu (s.myAgu n)).ctx.toNat != s.me.ctx)) = false
      ↔ s.SbindFine n w := by
  rw [Bool.or_eq_false_iff, Bool.or_eq_false_iff, Bool.not_eq_false', Bool.not_eq_false', Core.mayActFor_iff, and_assoc, State.SbindFine]

section sbind

variable {s u : State} {ra rb : SReg} {bs : List Byte} (hn : (s.readS rb).toNat < 64) (ha : (s.readS ra).toNat % 16 = 0)
  (hg : s.Gets (s.readS ra).toNat 16 u bs)
include hn ha hg

/-- An `sbind` of an aligned A-word that can be loaded is decided by R71 and R196, then by the AGU's stream. -/
theorem execSbind_loaded [Decidable (s.SbindFine (s.readS rb).toNat (BitVec.ofNat 128 (leNat bs)))] :
    execSbind ra rb s =
      if ¬ s.SbindFine (s.readS rb).toNat (BitVec.ofNat 128 (leNat bs)) then .next (u.trap causeStream (s.readS ra))
      else if (s.agu (s.myAgu (s.readS rb).toNat)).st.live then .next s
      else .next ((u.setAgu (s.myAgu (s.readS rb).toNat) (s.aguBoundTo (s.readS rb).toNat (BitVec.ofNat 128 (leNat bs)))).skip 4) := by
  unfold execSbind
  dsimp only
  rw [if_neg (by omega), if_neg (by omega), State.withLoad_gets hg]
  refine if_congr ?_ rfl rfl
  rw [← State.sbindRefused_iff, Bool.not_eq_false]
  rfl

theorem execSbind_bad (hf : ¬ s.SbindFine (s.readS rb).toNat (BitVec.ofNat 128 (leNat bs))) :
    execSbind ra rb s = .next (u.trap causeStream (s.readS ra)) := by
  classical
  rw [execSbind_loaded hn ha hg, if_pos hf]

theorem execSbind_live (hf : s.SbindFine (s.readS rb).toNat (BitVec.ofNat 128 (leNat bs)))
    (hl : (s.agu (s.myAgu (s.readS rb).toNat)).st.live = true) : execSbind ra rb s = .next s := by
  classical
  rw [execSbind_loaded hn ha hg, if_neg (not_not.mpr hf), if_pos hl]

theorem execSbind_binds (hf : s.SbindFine (s.readS rb).toNat (BitVec.ofNat 128 (leNat bs)))
    (hl : (s.agu (s.myAgu (s.readS rb).toNat)).st.live = false) : execSbind ra rb s =
      .next ((u.setAgu (s.myAgu (s.readS rb).toNat) (s.aguBoundTo (s.readS rb).toNat (BitVec.ofNat 128 (leNat bs)))).skip 4) := by
  classical
  rw [execSbind_loaded hn ha hg, if_neg (not_not.mpr hf), if_neg (by rw [hl]; exact Bool.false_ne_true)]

end sbind

/-- A word of 4 bytes that gave AGU `i` its state and did nothing else. -/
theorem State.setAgu_skip (s : State) (i : Nat) (x : Agu) :
    let t := (s.setAgu i x).skip 4
    t.agu i = x ∧ (∀ k, k ≠ i → t.agu k = s.agu k) ∧ Passed s 4 t ∧ t = { s with cores := t.cores, agus := t.agus } :=
  ⟨State.agu_setAgu_same s i x, fun _ hk => State.agu_setAgu_ne s x hk,
    ⟨State.me_setMe _ _, fun _ hj => State.core_setMe_ne (s.setAgu i x) _ hj⟩, rfl⟩

/-! ### sgo (R197) -/

/-- A bound AGU's stream as `sgo` of the executing core queues it, without an operator that reads a window (R197). -/
def State.goes (s : State) (a : Agu) : Agu :=
  { Agu.reset with
    attach := a.attach, ctx := a.ctx, aword := a.aword, args := s.bankArgs a, st := .queued, run := a.run + 1, issuer := s.cur,
    user := s.me.user, place := s.placeOf a }

theorem execSgo_goes {s : State} {ra : SReg} (hm : (s.readS ra).toNat < 64) :
    let a := s.agu (s.myAgu (s.readS ra).toNat)
    a.st = .bound → a.op ≠ opShadow → a.arg + a.entriesUsed ≤ 256 → ({ a with args := s.bankArgs a } : Agu).opOk none = true →
      execSgo ra s = .next ((s.setAgu (s.myAgu (s.readS ra).toNat) (s.goes a)).skip 4) := by
  intro a hst hop harg hok
  unfold execSgo
  dsimp only
  rw [if_neg (by omega), if_neg (not_not.mpr hst), if_neg hop, if_neg (by rw [hok]; simpa using harg)]
  rfl

theorem execSgo_unbound {s : State} {ra : SReg} (hm : (s.readS ra).toNat < 64)
    (hst : (s.agu (s.myAgu (s.readS ra).toNat)).st ≠ .bound) :
    execSgo ra s = .next (s.trap causeStream (BitVec.ofNat 64 (s.agu (s.myAgu (s.readS ra).toNat)).base)) := by
  unfold execSgo
  dsimp only
  rw [if_neg (by omega), if_pos hst]

/-- The constants that a stream latches are those of its region's bank (R201). -/
theorem State.goes_argWord {s : State} {a : Agu} {l g k : Nat} (ha : a.attach = some (l, g)) (hk : k < a.entriesUsed) (h4 : k < 4) :
    (s.goes a).argWord k = SMap.get 0 (s.tile g).kbank (a.arg + k) := by
  have hget : (s.bankArgs a)[k]? = some (SMap.get 0 (s.tile g).kbank (a.arg + k)) := by
    rw [State.bankArgs, List.getElem?_map, List.getElem?_range h4, Option.map_some, if_neg (by omega), ha]
  rw [Agu.argWord, State.goes, hget]
  rfl

/-! ### sbar (R198) -/

/-- `sbar` waits exactly while a stream that its mask names is live. -/
theorem sbar_waits_iff (s : State) (m : Nat) :
    ((List.range 64).any fun n => bitOf m n && (s.agu (s.myAgu n)).st.live) = true
      ↔ ∃ k < 64, m.testBit k ∧ (s.agu (s.myAgu k)).st.live = true := by
  simp [List.any_eq_true, bitOf_testBit]

theorem execSbar_waits {s : State} {ra : SReg} (h : ∃ k < 64, (s.readS ra).toNat.testBit k ∧ (s.agu (s.myAgu k)).st.live = true) :
    execSbar ra s = .next s := if_pos ((sbar_waits_iff s _).mpr h)

theorem execSbar_goes {s : State} {ra : SReg} (h : ∀ k < 64, (s.readS ra).toNat.testBit k → (s.agu (s.myAgu k)).st.live = false) :
    execSbar ra s = .next (s.skip 4) := by
  refine if_neg fun hw => ?_
  obtain ⟨k, hk, hbit, hlive⟩ := (sbar_waits_iff s _).mp hw
  exact Bool.false_ne_true ((h k hk hbit).symm.trans hlive)

/-- Settles O21: what each word does where its tests hold and where they fail. -/
theorem streamWords : Obligations.StreamWords := by
  intro s ra rb n i m j
  have hi : i = s.myAgu n := (s.myAgu_eq n).symm
  have hj : j = s.myAgu m := (s.myAgu_eq m).symm
  have hbar (k : Nat) : j - m + k = s.myAgu k := by rw [hj, State.myAgu, State.myAgu]; omega
  refine ⟨fun u bs hn hm hg => ?_, ?_, ?_, fun h => ?_, fun h => ?_⟩
  · rw [hi]
    intro x fine
    refine ⟨fun hf hl => ⟨_, execSbind_binds hn hm hg hf hl, State.setAgu_skip u _ x⟩, fun hf hl => execSbind_live hn hm hg hf hl,
      fun hf ht => ?_⟩
    exact ⟨_, execSbind_bad hn hm hg hf, State.trap_took _ (by decide) ht⟩
  · rw [hj]
    intro a b hm hst hop harg hok
    obtain ⟨hsame, hne, hpass, hrest⟩ := s.setAgu_skip (s.myAgu m) (s.goes a)
    refine ⟨(s.setAgu (s.myAgu m) (s.goes a)).skip 4, execSgo_goes hm hst hop harg hok, ?_⟩
    beta_reduce
    rw [hsame]
    exact ⟨rfl, rfl, rfl, rfl, rfl, rfl, rfl,
      fun l g ha => ⟨fun k hk h4 => State.goes_argWord ha hk h4, by simp only [State.goes, State.placeOf, ha]; rfl⟩,
      fun ha => by simp only [State.goes, State.placeOf, ha]; rfl, rfl, rfl, rfl, rfl, rfl, hne, hpass, hrest⟩
  · rw [hj]
    exact fun hm hst ht => ⟨_, execSgo_unbound hm hst, State.trap_took _ (by decide) ht⟩
  · exact ⟨_, execSbar_goes fun k hk hb => hbar k ▸ h k hk hb, s.skip_jumped 4⟩
  · obtain ⟨k, hk, hb, hl⟩ := h
    exact execSbar_waits ⟨k, hk, hb, hbar k ▸ hl⟩

end Sys2Proof.Machine
end

section
/-! SUPPORT. Commands posted by a core, and images given to units: `tload`, `tq`, `nmcall` and `nmload` (R73-R75, R258, R260, R340). -/

namespace Sys2Proof.Machine

/-! ### Bytes and cells -/

theorem isStackCell_iff (a : Nat) : isStackCell a = true ↔ 0x10000000000 ≤ a ∧ a < 0x20000000000 := by
  rw [isStackCell, Bool.and_eq_true, decide_eq_true_eq, decide_eq_true_eq]
  rfl

/-- The last bytes of a record are all 0. -/
theorem zeroAt_drop {bs : List Byte} {off n : Nat} (h : bs.length = off + n) : zeroAt bs off n = true ↔ ∀ x ∈ bs.drop off, x = 0 := by
  rw [zeroAt, List.take_of_length_le (by rw [List.length_drop]; omega)]
  simp

/-! ### Packets (R75, R260, R340) -/

/-- The packet of a word of the executing core with these 64 bytes, whose load left `u`. -/
def State.Posted (s u : State) (bs : List Byte) (p : Packet) : Prop :=
  p.bytes = bs ∧ p.core = s.cur ∧ p.user = s.me.user
    ∧ p.status = if leAt bs 16 8 = 0 then none else u.coreVa u.cur .store (leAt bs 16 8)

/-- The core can store a status word at `st`, and it lies in stack memory. -/
def State.StatusLands (u : State) (st : Nat) : Prop :=
  ∃ pa c, u.coreVa u.cur .store st = some pa ∧ u.canon pa = some c ∧ 0x10000000000 ≤ c ∧ c < 0x20000000000

theorem State.statusLands_iff {u : State} {st pa : Nat} (h : u.coreVa u.cur .store st = some pa) :
    u.StatusLands st ↔ (u.canon pa).elim false isStackCell = true := by
  cases hc : u.canon pa with
  | none => simp [State.StatusLands, h, hc]
  | some c => simp [State.StatusLands, h, hc, isStackCell_iff]

/-- The executing core may post a packet of context `c` (R75). -/
def State.MayPost (s : State) (c : Nat) : Prop := s.me.priv ∨ c = s.me.ctxid.toNat % 4096

theorem State.post_misaligned {s : State} {ra : SReg} (h : (s.readS ra).toNat % 64 ≠ 0) (k : Nat) (send : State → Packet → Out) :
    s.post k ra send = .next (s.trap causeMisaligned (s.readS ra)) := if_pos h

section post

variable {s u : State} {ra : SReg} {bs : List Byte} (hal : (s.readS ra).toNat % 64 = 0) (hg : s.Gets (s.readS ra).toNat 64 u bs)
  (k : Nat) (send : State → Packet → Out)
include hal hg

/-- A packet out of form, or of another context, takes the command fault. -/
theorem State.post_refused (h : packetOk k bs = false ∨ ¬ s.MayPost (leAt bs 4 2)) :
    s.post k ra send = .next (u.trap causeCommand (s.readS ra)) := by
  unfold State.post
  dsimp only
  rw [if_neg (not_not.mpr hal), State.withLoad_gets hg]
  by_cases hok : packetOk k bs = true
  · have hmine := h.resolve_left (by rw [hok]; nofun)
    rw [if_neg (by rw [hok]; nofun), if_pos (Bool.of_not_eq_false ((Core.mayActFor_iff _ _).not.mpr hmine))]
  · rw [if_pos (by simpa using hok)]

variable (hok : packetOk k bs = true) (hmine : s.MayPost (leAt bs 4 2))
include hok hmine

/-- A packet in form waits for the walk of its status word's address, and is sent once that can be stored in stack memory (R75, R376). -/
theorem State.post_accepted : s.post k ra send =
    (s.homeHeld (leAt bs 16 8)).elim
      (if leAt bs 16 8 = 0 then send u ⟨bs, s.cur, s.me.user, none, (0, []), [], s.packetId⟩
      else (u.coreVa u.cur .store (leAt bs 16 8)).elim (.next (u.accessTrap causeAccess (leAt bs 16 8))) fun pa =>
        if (u.canon pa).elim false isStackCell then
          send (u.coreWalk (leAt bs 16 8) 8)
            ⟨bs, s.cur, s.me.user, some pa, (u.me.ctx, u.leavesOf u.cur u.me.ctx (leAt bs 16 8) 8), [], s.packetId⟩
        else .next (u.accessTrap causeAccess (leAt bs 16 8)))
      fun h => .next (s.holdOn h) := by
  unfold State.post
  dsimp only
  rw [if_neg (not_not.mpr hal), State.withLoad_gets hg, if_neg (by rw [hok]; nofun),
    if_neg (Bool.eq_false_iff.mp ((Core.mayActFor_iff _ _).mpr hmine)), State.homeHeld]
  by_cases hst : leAt bs 16 8 = 0
  · simp only [if_pos hst, Option.elim_none]
  · simp only [if_neg hst]
    cases s.walkHeld s.cur s.me.ctx (leAt bs 16 8) <;> cases u.coreVa u.cur .store (leAt bs 16 8) <;> rfl

theorem State.post_held {h : Nat} (hh : s.homeHeld (leAt bs 16 8) = some h) : s.post k ra send = .next (s.holdOn h) := by
  rw [State.post_accepted hal hg k send hok hmine, hh, Option.elim_some]

/-- A status word that the core cannot store in stack memory takes the data access fault. -/
theorem State.post_unlanded (hh : s.homeHeld (leAt bs 16 8) = none) (hst : leAt bs 16 8 ≠ 0) (hl : ¬ u.StatusLands (leAt bs 16 8)) :
    s.post k ra send = .next (u.accessTrap causeAccess (leAt bs 16 8)) := by
  rw [State.post_accepted hal hg k send hok hmine, hh, Option.elim_none, if_neg hst]
  cases hpa : u.coreVa u.cur .store (leAt bs 16 8) with
  | none => rfl
  | some pa => exact if_neg ((State.statusLands_iff hpa).not.mp hl)

/-- Every other packet is sent, with its status word's address translated. -/
theorem State.post_sends (hh : s.homeHeld (leAt bs 16 8) = none) (hl : leAt bs 16 8 = 0 ∨ u.StatusLands (leAt bs 16 8)) :
    ∃ v p, OnlyRead u v ∧ s.Posted u bs p ∧ s.post k ra send = send v p := by
  rw [State.post_accepted hal hg k send hok hmine, hh, Option.elim_none]
  by_cases hst : leAt bs 16 8 = 0
  · exact ⟨_, _, OnlyRead.refl u, ⟨rfl, rfl, rfl, (if_pos hst).symm⟩, if_pos hst⟩
  · have hl := hl.resolve_left hst
    obtain ⟨pa, -, hpa, -⟩ := id hl
    rw [if_neg hst, hpa, Option.elim_some, if_pos ((State.statusLands_iff hpa).mp hl)]
    exact ⟨_, _, (u.coreWalk_only _ 8).read, ⟨rfl, rfl, rfl, by rw [if_neg hst, hpa]⟩, rfl⟩

end post

/-! ### Where a packet goes (R260, R340, R376; log 68) -/

theorem State.homeReport_read (s : State) (op0 : Nat) : OnlyRead s (s.homeReport op0) := by
  unfold State.homeReport
  split
  · exact OnlyRead.refl s
  · exact s.walkReport_read _ _ _ _

/-- The canonical cell of OP0 as the executing core loads it. -/
def State.homeCell (s : State) (op0 : Nat) : Option Nat := if op0 = 0 then none else (s.coreVa s.cur .load op0).bind s.canon

theorem State.operandCell_eq_some {s : State} {op0 c : Nat} :
    s.operandCell op0 = some c ↔ s.homeCell op0 = some c ∧ 0x10000000000 ≤ c ∧ c < 0x20000000000 := by
  rw [State.operandCell, State.homeCell, ← isStackCell_iff]
  by_cases h0 : op0 = 0
  · simp [h0]
  · rw [if_neg h0, if_neg h0]
    cases hc : (s.coreVa s.cur .load op0).bind s.canon with
    | none => simp
    | some a =>
      by_cases ha : isStackCell a = true
      · simp only [ha, if_true, Option.some.injEq]
        exact ⟨fun h => ⟨h, h ▸ ha⟩, And.left⟩
      · simp only [ha, Option.some.injEq]
        exact ⟨nofun, fun h => absurd (h.1 ▸ h.2) ha⟩

/-- How a posting word of the executing core sends a packet of kind `k`: a held walk waits, a packet without a home goes to the first
stack of the core's die, a table command to its home stack, and a call to its home unit, once that has room. -/
structure State.Delivers (s : State) (k : Nat) (send : State → Packet → Out) : Prop where
  held : ∀ t p h, s.homeHeld (p.op 0) = some h → send t p = .next (s.holdOn h)
  away : ∀ t p, s.homeHeld (p.op 0) = none → s.operandCell (p.op 0) = none →
    send t p = .next (((t.homeReport (p.op 0)).sendStack (2 * dieOfCore s.cur) p).skip 4)
  stack : ∀ t p c, k ≠ kindCall → s.homeHeld (p.op 0) = none → s.operandCell (p.op 0) = some c →
    send t p = .next (((t.homeReport (p.op 0)).sendStack (stackOf c) p).skip 4)
  full : ∀ t p c, k = kindCall → s.homeHeld (p.op 0) = none → s.operandCell (p.op 0) = some c →
    32 ≤ (s.nmu (unitOf c)).queue.length → send t p = .next s
  unit : ∀ t p c, k = kindCall → s.homeHeld (p.op 0) = none → s.operandCell (p.op 0) = some c →
    (s.nmu (unitOf c)).queue.length < 32 →
    let v := t.homeReport (p.op 0)
    send t p = .next ((v.setNmu (unitOf c) { v.nmu (unitOf c) with queue := (v.nmu (unitOf c)).queue ++ [p] }).skip 4)

theorem State.postTable_delivers (s : State) {k : Nat} (ra : SReg) (hk : k ≠ kindCall) :
    ∃ send, s.postTable k ra = s.post k ra send ∧ s.Delivers k send := by
  refine ⟨_, rfl, ⟨fun t p h hh => ?_, fun t p hh hc => ?_, fun t p c _ hh hc => ?_, fun _ _ _ h => absurd h hk, fun _ _ _ h => absurd h hk⟩⟩
  · rw [hh]
  · rw [hh, State.tableStack, hc]
  · rw [hh, State.tableStack, hc]

theorem execNmcall_delivers (s : State) (ra : SReg) :
    ∃ send, execNmcall ra s = s.post kindCall ra send ∧ s.Delivers kindCall send := by
  refine ⟨_, rfl, ⟨fun t p h hh => ?_, fun t p hh hc => ?_, fun _ _ _ h => absurd rfl h, fun t p c _ hh hc hf => ?_,
    fun t p c _ hh hc hf => ?_⟩⟩
  · rw [hh]
  · rw [hh, hc]
  · rw [hh, hc]
    exact if_pos hf
  · rw [hh, hc]
    exact if_neg (by omega)

/-- The posting words, each with its kind (R75). -/
def postingWords (ra : SReg) : List (Instr × Nat) := [(.tload ra, 3), (.tq ra, 2), (.nmcall ra, 1)]

theorem postingWords_deliver {q : Instr × Nat} {ra : SReg} (hq : q ∈ postingWords ra) (s : State) :
    ∃ send, exec q.1 s = s.post q.2 ra send ∧ s.Delivers q.2 send := by
  simp only [postingWords, List.mem_cons, List.not_mem_nil, or_false] at hq
  obtain rfl | rfl | rfl := hq
  · exact s.postTable_delivers ra (by decide)
  · exact s.postTable_delivers ra (by decide)
  · exact execNmcall_delivers s ra

/-- A packet appended to a stack controller's queue, at the end of a word. -/
theorem State.sendStack_skip (s : State) (k : Nat) (p : Packet) :
    let t := (s.sendStack k p).skip 4
    (t.stack k).queue = (s.stack k).queue ++ [p] ∧ (t.stack k).tables = (s.stack k).tables ∧ (∀ j, j ≠ k → t.stack j = s.stack j)
      ∧ Passed s 4 t ∧ t = { s with cores := t.cores, kstacks := t.kstacks } := by
  intro t
  have hk : t.stack k = { s.stack k with queue := (s.stack k).queue ++ [p] } := State.stack_setStack_same s k _
  rw [hk]
  exact ⟨rfl, rfl, fun _ hj => State.stack_setStack_ne s _ hj,
    ⟨State.me_setMe _ _, fun _ hj => State.core_setMe_ne (s.sendStack k p) _ hj⟩, rfl⟩

/-- A word of 4 bytes that gave near-memory unit `k` its state and did nothing else. -/
theorem State.setNmu_skip (s : State) (k : Nat) (x : Nmu) :
    let t := (s.setNmu k x).skip 4
    t.nmu k = x ∧ (∀ j, j ≠ k → t.nmu j = s.nmu j) ∧ Passed s 4 t ∧ t = { s with cores := t.cores, nmus := t.nmus } :=
  ⟨State.nmu_setNmu_same s k x, fun _ hj => State.nmu_setNmu_ne s x hj,
    ⟨State.me_setMe _ _, fun _ hj => State.core_setMe_ne (s.setNmu k x) _ hj⟩, rfl⟩

/-! ### Images (R73, R258; log 66) -/

/-- An idle unit holds an image at once. -/
theorem Nmu.give_idle {n : Nmu} (h : n.cmd = none) (m : List (BitVec 128) × List W32) :
    n.give m = { n with image := some m, next := none } := by
  unfold Nmu.give
  split
  · rename_i hh
    obtain ⟨hnext, himage⟩ := (Bool.and_eq_true _ _).mp hh
    rw [Option.isNone_iff_eq_none] at hnext
    rw [← beq_iff_eq.mp himage, ← hnext]
  · rw [if_pos (by rw [h]; rfl)]

/-- At a unit that runs a command and does not hold the image yet, the image waits. -/
theorem Nmu.give_busy {n : Nmu} (h : n.cmd ≠ none) {m : List (BitVec 128) × List W32} (hm : ¬ (n.next = none ∧ n.image = some m)) :
    n.give m = { n with next := some m } := by
  unfold Nmu.give
  rw [if_neg (by simpa using hm), if_neg (by simpa using h)]

/-- A fold that changes some different units, each by itself. -/
theorem State.each_setNmu (f : Nmu → Nmu) {xs : List Nat} (hn : xs.Nodup) (s : State) :
    let t := s.each xs fun v i => v.setNmu i (f (v.nmu i))
    (∀ k ∈ xs, t.nmu k = f (s.nmu k)) ∧ (∀ k, k ∉ xs → t.nmu k = s.nmu k) ∧ t = { s with nmus := t.nmus } := by
  induction xs generalizing s with
  | nil => exact ⟨nofun, fun _ _ => rfl, rfl⟩
  | cons x xs ih =>
    obtain ⟨hx, hxs⟩ := List.nodup_cons.mp hn
    obtain ⟨hin, hout, hrest⟩ := ih hxs (s.setNmu x (f (s.nmu x)))
    refine ⟨fun k hk => ?_, fun k hk => ?_, hrest⟩
    · by_cases hkx : k = x
      · subst hkx
        exact (hout k hx).trans (State.nmu_setNmu_same s k _)
      · exact (hin k ((List.mem_cons.mp hk).resolve_left hkx)).trans (congrArg f (State.nmu_setNmu_ne s _ hkx))
    · obtain ⟨hkx, hkxs⟩ := not_or.mp (List.mem_cons.not.mp hk)
      exact (hout k hkxs).trans (State.nmu_setNmu_ne s _ hkx)

/-- The units that a unit descriptor names (R258). -/
def namedUnits (d : List Byte) : List Nat := ((List.range 64).filter fun i => (leAt d 0 8).testBit i).map (64 * leAt d 8 1 + ·)

theorem nodup_namedUnits (d : List Byte) : (namedUnits d).Nodup := (List.nodup_range.filter _).map (add_right_injective _)

theorem mem_namedUnits {d : List Byte} {k : Nat} :
    k ∈ namedUnits d ↔ ∃ i ∈ (List.range 64).filter (fun i => (leAt d 0 8).testBit i), k = 64 * leAt d 8 1 + i := by
  simp only [namedUnits, List.mem_map, eq_comm]

/-- The image given to each unit that the descriptor names. -/
def State.givenImage (s : State) (m : List (BitVec 128) × List W32) (d : List Byte) : State :=
  s.each (namedUnits d) fun v i => v.setNmu i ((v.nmu i).give m)

theorem execNmload_user {s : State} (h : ¬ s.me.priv) (ra rb : SReg) : execNmload ra rb s = .next s.privileged :=
  if_pos (Core.user_true_of_not_priv h)

section nmload

variable {s v w : State} {ra rb : SReg} {img d : List Byte} (hp : s.me.priv) (ha : (s.readS ra).toNat % 16 = 0)
  (hb : (s.readS rb).toNat % 16 = 0) (hi : s.Gets (s.readS ra).toNat 4352 v img) (hd : v.Gets (s.readS rb).toNat 16 w d)
include hp ha hb hi hd

/-- What an `nmload` does with an image and a unit descriptor that it has loaded. -/
theorem execNmload_loaded : execNmload ra rb s =
    if imageOk (imageOf img) = false then .next (w.trap causeCommand (s.readS ra))
    else if (decide (leAt d 8 1 < 16) && zeroAt d 9 7) = false then .next (w.trap causeCommand (s.readS rb))
    else
      let t := w.givenImage (imageOf img) d
      .next (if (namedUnits d).all fun i => (t.nmu i).next.isNone then t.skip 4 else t) := by
  unfold execNmload
  dsimp only
  rw [if_neg (by rw [Core.user_false_of_priv hp]; nofun), if_neg (not_not.mpr ha), if_neg (not_not.mpr hb), State.withLoad_gets hi,
    State.withLoad_gets hd, show bitOf (leAt d 0 8) = (leAt d 0 8).testBit from funext (bitOf_testBit _)]
  simp only [Bool.not_eq_true']
  rfl

theorem execNmload_badImage (hm : imageOk (imageOf img) = false) : execNmload ra rb s = .next (w.trap causeCommand (s.readS ra)) := by
  rw [execNmload_loaded hp ha hb hi hd, if_pos hm]

variable (hm : imageOk (imageOf img) = true) (hlen : d.length = 16)
include hm hlen

theorem execNmload_badUnits (hu : ¬ (leAt d 8 1 < 16 ∧ ∀ x ∈ d.drop 9, x = 0)) :
    execNmload ra rb s = .next (w.trap causeCommand (s.readS rb)) := by
  rw [execNmload_loaded hp ha hb hi hd, if_neg (by rw [hm]; nofun), if_pos]
  rwa [Bool.eq_false_iff, ne_eq, Bool.and_eq_true, decide_eq_true_eq, zeroAt_drop hlen]

/-- An image and a descriptor in form: the image is given, and the word is over once no named unit has an image that waits. -/
theorem execNmload_gives (hu : leAt d 8 1 < 16) (hz : ∀ x ∈ d.drop 9, x = 0) :
    let t := w.givenImage (imageOf img) d
    execNmload ra rb s = .next (if (namedUnits d).all fun i => (t.nmu i).next.isNone then t.skip 4 else t) := by
  intro t
  rw [execNmload_loaded hp ha hb hi hd, if_neg (by rw [hm]; nofun), if_neg]
  rw [(zeroAt_drop hlen).mpr hz, decide_eq_true hu]
  nofun

end nmload

/-! ### The claim -/

/-- What a posting word does with a packet that it loads (R75, R258, R260, R340, R376). -/
theorem nearMemoryPosting_holds : Claims.NearMemoryPosting := by
  intro s u ra rb bs a st op0 inStack cell home die mine kinds held lands posted counted toStack
  have hdie : dieOfCore s.cur = die := dieOfCore_eq s.cur
  refine ⟨fun ht hal q hq => ?_, fun hal hg q hq => ?_, ?_⟩
  · obtain ⟨send, hrun, -⟩ := postingWords_deliver hq s
    exact ⟨_, hrun.trans (State.post_misaligned hal _ _), State.trap_took _ (by decide) ht⟩
  · obtain ⟨send, hrun, hsend⟩ := postingWords_deliver hq s
    refine ⟨fun ht hbad => ?_, fun hok hmine => ⟨fun h hh => ?_, fun ht hh hst hl => ?_, fun hh hl => ?_⟩⟩
    · exact ⟨_, hrun.trans (State.post_refused hal hg _ _ hbad), State.trap_took _ (by decide) ht⟩
    · exact hrun.trans (State.post_held hal hg _ _ hok hmine hh)
    · obtain ⟨x, hx, htook⟩ := State.accessTrap_access ht st
      exact ⟨_, hrun.trans (State.post_unlanded hal hg _ _ hok hmine hh hst hl), x, hx, htook⟩
    obtain ⟨x, p, hx, hp, hpost⟩ := State.post_sends hal hg _ send hok hmine hh hl
    have hop0 : p.op 0 = op0 := congrArg (leAt · 24 8) hp.1
    have hhome : counted (x.homeReport (p.op 0)) :=
      ⟨(hx.trans (x.homeReport_read _)).1, fun hr => (hx.trans (x.homeReport_read _)).2 (hg.read.1.resid.trans hr)⟩
    rw [hrun, hpost]
    refine ⟨fun h hop => hsend.held x p h (hop0 ▸ hop), fun hop => ?_⟩
    have hop : s.homeHeld (p.op 0) = none := hop0 ▸ hop
    have hcell {c : Nat} (hc : home c) : s.operandCell (p.op 0) = some c := hop0 ▸ State.operandCell_eq_some.mpr hc
    have hto {k : Nat} (he : send x p = .next (((x.homeReport (p.op 0)).sendStack k p).skip 4)) : Completes (send x p) (toStack k) := by
      obtain ⟨hqueue, htables, hothers, hpass, hrest⟩ := (x.homeReport (p.op 0)).sendStack_skip k p
      exact ⟨_, he, _, p, hhome, hp, hqueue, htables, hothers, hpass, hrest⟩
    refine ⟨fun haway => ?_, fun c hc hk => hto (hsend.stack x p c hk hop (hcell hc)), fun c hc hk =>
      ⟨fun hfull => hsend.full x p c hk hop (hcell hc) hfull, fun hroom => ?_⟩⟩
    · have hnone : s.operandCell (p.op 0) = none :=
        Option.eq_none_iff_forall_ne_some.mpr fun c hc => haway c (State.operandCell_eq_some.mp (hop0 ▸ hc))
      exact hto (hdie ▸ hsend.away x p hop hnone)
    · obtain ⟨hnmu, hothers, hpass, hrest⟩ := (x.homeReport (p.op 0)).setNmu_skip (unitOf c) _
      exact ⟨_, hsend.unit x p c hk hop (hcell hc) hroom, _, p, hhome, hp, hnmu, hothers, hpass, hrest⟩
  · intro v w img d b im units unit given
    refine ⟨fun hu ht => ⟨_, execNmload_user hu ra rb, State.privileged_took ht⟩, fun hpriv ha hb hi hd => ⟨fun hm ht => ?_,
      fun hm hlen hu ht => ?_, fun hm hlt hz hlen => ?_⟩⟩
    · exact ⟨_, execNmload_badImage hpriv ha hb hi hd hm, State.trap_took _ (by decide) ht⟩
    · exact ⟨_, execNmload_badUnits hpriv ha hb hi hd hm hlen hu, State.trap_took _ (by decide) ht⟩
    have hrun := execNmload_gives hpriv ha hb hi hd hm hlen hlt hz
    obtain ⟨hin, hout, hrest⟩ := w.each_setNmu (fun n => n.give im) (nodup_namedUnits d)
    change ∀ k ∈ namedUnits d, (w.givenImage im d).nmu k = _ at hin
    change ∀ k, k ∉ namedUnits d → (w.givenImage im d).nmu k = _ at hout
    change w.givenImage im d = { w with nmus := (w.givenImage im d).nmus } at hrest
    generalize w.givenImage im d = x at hrun hin hout hrest
    have hme : x.me = w.me := by rw [hrest]; rfl
    refine ⟨fun hidle => ?_, fun i hi hbusy hnew => ?_⟩
    · have hgiven : ∀ k, given k → x.nmu k = { w.nmu k with image := some im, next := none } := by
        rintro k ⟨i, hmem, rfl⟩
        exact (hin _ (mem_namedUnits.mpr ⟨i, hmem, rfl⟩)).trans (Nmu.give_idle (hidle i hmem) im)
      have hdone : (namedUnits d).all (fun i => (x.nmu i).next.isNone) = true :=
        List.all_eq_true.mpr fun k hk => by rw [hgiven k (mem_namedUnits.mp hk)]; rfl
      refine ⟨_, hrun.trans (congrArg _ (if_pos hdone)), hgiven, fun k hk => hout k (mem_namedUnits.not.mpr hk), ⟨?_, fun j hj => ?_⟩, ?_⟩
      · rw [State.skip, State.me_setMe, hme]
        rfl
      · rw [State.skip, State.core_setMe_ne _ _ (by rw [hrest]; exact hj), hrest]
        rfl
      · rw [hrest]
        rfl
    · have hmem : unit i ∈ namedUnits d := mem_namedUnits.mpr ⟨i, hi, rfl⟩
      have hwaits : (x.nmu (unit i)).next = some im := by rw [hin _ hmem, Nmu.give_busy hbusy hnew]
      refine ⟨x, hrun.trans (congrArg _ (if_neg fun hall => ?_)), hwaits, hme⟩
      have := List.all_eq_true.mp hall _ hmem
      rw [hwaits] at this
      exact absurd this nofun

end Sys2Proof.Machine
end

section
/-! SUPPORT. Commands at near-memory units and stack controllers: what takes them, and what rejects them (R259, R261-R263, R339-R342). -/

namespace Sys2Proof.Machine

/-! ### The tests that every command meets (R156, R262, R341) -/

/-- A rejected command completes with its reason, after some accesses were counted; reason 8 counts in no phase. -/
theorem State.rejectCommand_finished {s t : State} (h : OnlyCounted s t) (p : Packet) (reason : Nat) :
    Finished s p 2 reason 0 (t.rejectCommand p reason) := by
  by_cases hr : reason = 8
  · subst hr
    obtain ⟨w, hw, hrest, hput, hsame⟩ := State.putStatus_spec h p 2 8 0
    have hphase (j : Nat) : (t.putStatus p 2 8 0).phase j = s.phase j := by rw [hw, hrest]; rfl
    rw [State.rejectCommand, if_pos rfl]
    refine ⟨⟨w, ?_, hput, hsame⟩, hphase _, fun n _ => hphase n⟩
    rw [OnlyCounted] at hw
    rw [hw]
  · rw [State.rejectCommand, if_neg hr]
    exact State.finishCommand_finished h p 2 0 hr

/-- The packet's generation is not that of its context. -/
def State.Stale (s : State) (p : Packet) : Prop := (s.ctx p.ctx).gen.toNat ≠ p.gen

/-- The packet's phase is not its context's. -/
def State.ForeignPhase (s : State) (p : Packet) : Prop := (s.phase p.phase).own.toNat ≠ p.ctx

theorem State.firstTests_stale {s : State} {p : Packet} (h : s.Stale p) : s.firstTests p = 7 := if_pos h

theorem State.firstTests_foreign {s : State} {p : Packet} (h : ¬ s.Stale p) (ho : s.ForeignPhase p) : s.firstTests p = 8 :=
  (if_neg h).trans (if_pos ho)

theorem State.firstTests_pass {s : State} {p : Packet} (h : ¬ s.Stale p) (ho : ¬ s.ForeignPhase p) : s.firstTests p = 0 :=
  (if_neg h).trans (if_neg ho)

theorem State.operandReport_read (s : State) (who : Nat) (p : Packet) (n : Nat) : OnlyRead s (s.operandReport who p n) := by
  refine State.each_keeps (P := OnlyRead s) (OnlyRead.refl s) fun u i _ hu => ?_
  split
  · exact hu
  · exact hu.trans (u.walkReport_read _ _ _ _)

/-! ### Acceptance at a unit (R339, R341) -/

/-- The registers that an accepted command starts with: its arguments, its entry and its channel in x0. -/
theorem Nmu.get_x_accept (n : Nmu) (u : Nat) (p : Packet) (ops : List Nat) (upc : BitVec 8) (l : Nat) :
    SMap.get 0 (n.accept u p ops upc).x l
      = BitVec.ofNat 32 (if l < 4 then p.arg l else if l = 4 then p.number else if l = 5 then u % 64 else 0) := by
  have hx : (n.accept u p ops upc).x = SMap.setRun 0 [] 0 [BitVec.ofNat 32 (p.arg 0), BitVec.ofNat 32 (p.arg 1),
    BitVec.ofNat 32 (p.arg 2), BitVec.ofNat 32 (p.arg 3), BitVec.ofNat 32 p.number, BitVec.ofNat 32 (u % 64)] := rfl
  rw [hx, SMap.get_setRun]
  by_cases hl : l < 6
  · interval_cases l <;> rfl
  · rw [dif_neg (by simp only [List.length_cons, List.length_nil]; omega), if_neg (by omega), if_neg (by omega), if_neg (by omega)]
    rfl

section acceptance

variable {s : State} {u : Nat} {p : Packet} {rest : List Packet} (hq : (s.nmu u).queue = p :: rest)
include hq

theorem execCommandAcceptance_waits
    (h : (s.nmu u).cmd ≠ none ∨ (s.nmu u).next ≠ none ∨ s.commandStalled p (u / 64) = true) :
    execCommandAcceptance u s = .next s := by
  unfold execCommandAcceptance
  dsimp only
  rw [hq]
  exact if_pos (by simpa [Option.isSome_iff_ne_none] using h)

variable (hcmd : (s.nmu u).cmd = none) (hnext : (s.nmu u).next = none) (hst : s.commandStalled p (u / 64) = false)
include hcmd hnext hst

/-- What an idle unit does with the command at the head of its queue. -/
theorem execCommandAcceptance_idle :
    let popped : State := s.setNmu u { s.nmu u with queue := rest }
    execCommandAcceptance u s = .next (if s.firstTests p ≠ 0 then popped.rejectCommand p (s.firstTests p)
      else ((s.nmu u).entryOf (p.number % 64)).elim (popped.rejectCommand p 9) fun upc =>
        (s.unitOps u p).elim ((popped.operandReport (unitParty u) p 3).rejectCommand p 1) fun ops =>
          (s.operandReport (unitParty u) p 3).setNmu u ((s.nmu u).accept u (s.translated (unitParty u) p 3) ops upc)) := by
  intro popped
  unfold execCommandAcceptance
  dsimp only
  rw [hq]
  dsimp only
  rw [if_neg (by simp [hcmd, hnext, hst])]
  split
  · rfl
  · cases (s.nmu u).entryOf (p.number % 64) <;> cases s.unitOps u p <;> rfl

theorem execCommandAcceptance_tested (hf : s.firstTests p ≠ 0) :
    execCommandAcceptance u s = .next ((s.setNmu u { s.nmu u with queue := rest }).rejectCommand p (s.firstTests p)) := by
  rw [execCommandAcceptance_idle hq hcmd hnext hst, if_pos hf]

variable (hf : s.firstTests p = 0)
include hf

theorem execCommandAcceptance_noEntry (he : (s.nmu u).entryOf (p.number % 64) = none) :
    execCommandAcceptance u s = .next ((s.setNmu u { s.nmu u with queue := rest }).rejectCommand p 9) := by
  rw [execCommandAcceptance_idle hq hcmd hnext hst, if_neg (not_not.mpr hf), he, Option.elim_none]

variable {upc : BitVec 8} (he : (s.nmu u).entryOf (p.number % 64) = some upc)
include he

theorem execCommandAcceptance_noOps (ho : s.unitOps u p = none) :
    execCommandAcceptance u s =
      .next (((s.setNmu u { s.nmu u with queue := rest }).operandReport (unitParty u) p 3).rejectCommand p 1) := by
  rw [execCommandAcceptance_idle hq hcmd hnext hst, if_neg (not_not.mpr hf), he, ho, Option.elim_some, Option.elim_none]

theorem execCommandAcceptance_accepts {ops : List Nat} (ho : s.unitOps u p = some ops) :
    execCommandAcceptance u s = .next ((s.operandReport (unitParty u) p 3).setNmu u
      ((s.nmu u).accept u (s.translated (unitParty u) p 3) ops upc)) := by
  rw [execCommandAcceptance_idle hq hcmd hnext hst, if_neg (not_not.mpr hf), he, ho, Option.elim_some, Option.elim_some]

end acceptance

/-! ### Bytes of operands (R26, R259) -/

theorem leAt_one (bs : List Byte) (i : Nat) : leAt bs i 1 = leNat bs / 256 ^ i % 256 := by
  induction bs generalizing i with
  | nil => simp [leAt, leNat]
  | cons b bs ih =>
    have hb : b.toNat < 256 := b.isLt
    cases i with
    | zero => simp only [leAt, List.drop_zero, List.take_succ_cons, List.take_zero, leNat, pow_zero, Nat.div_one]; omega
    | succ i =>
      rw [show leAt (b :: bs) (i + 1) 1 = leAt bs i 1 from rfl, ih, leNat, pow_succ', ← Nat.div_div_eq_div_mul,
        show (b.toNat + 256 * leNat bs) / 256 = leNat bs by omega]

theorem packedIndex_eq (wide : Bool) (bs : List Byte) (i : Nat) :
    packedIndex wide bs i = if wide then leNat bs / 2 ^ (10 * i) % 1024 else leNat bs / 256 ^ i % 256 := by
  rw [packedIndex, leAt_one]
  rfl

theorem leAt_cellRun_one (f : Nat → Byte) {a n i : Nat} (h : i < n) : leAt ((cellRun a n).map f) i 1 = (f (a + i)).toNat := by
  have hi : i < ((cellRun a n).map f).length := by simpa [length_cellRun] using h
  rw [leAt, List.drop_eq_getElem_cons hi]
  simp [leNat, cellRun]

theorem leAt_cellRun_two (f : Nat → Byte) {a n i : Nat} (h : i + 1 < n) :
    leAt ((cellRun a n).map f) i 2 = (f (a + i)).toNat + 256 * (f (a + i + 1)).toNat := by
  have hi : i + 1 < ((cellRun a n).map f).length := by simpa [length_cellRun] using h
  rw [leAt, List.drop_eq_getElem_cons (by omega), List.drop_eq_getElem_cons hi]
  simp [leNat, cellRun, Nat.add_assoc]

/-- What a command sees in the cells of an operand (R210). -/
theorem State.commandSees_cellRun (s : State) (a n : Nat) : s.commandSees (cellRun a n) = (cellRun a n).map s.unitByte := rfl

theorem OnlyCounted.commandSees {s t : State} (h : OnlyCounted s t) (as : List Nat) : t.commandSees as = s.commandSees as :=
  List.map_congr_left fun a _ => h.see _ a

theorem OnlyCounted.stack {s t : State} (h : OnlyCounted s t) (k : Nat) : t.stack k = s.stack k := by rw [h]; rfl

/-- Where all metadata match, a checked read is counted only. -/
theorem OnlyCounted.checkedRead {s t : State} (h : OnlyCounted s t) (hres : s.resid = []) (n : Nat) (as : List Nat) :
    OnlyCounted s ((t.checkRead n as).countMem as false) :=
  (h.trans ((t.checkRead_read n as).2 (h.resid.trans hres))).trans (State.countMem_only _ _ _)

/-! ### Queries (R261-R263) -/

/-- Bytes of a query's indices, and of its results. -/
def Packet.indexBytes (p : Packet) : Nat := ((if p.flags.testBit 0 then 10 else 8) * p.arg 0 + 7) / 8
def Packet.resultBytes (p : Packet) : Nat := (if p.flags.testBit 1 then 2 else 1) * p.arg 0

theorem Packet.indexBytes_fold (p : Packet) : ((if p.flags.testBit 0 then 10 else 8) * p.arg 0 + 7) / 8 = p.indexBytes := rfl
theorem Packet.resultBytes_fold (p : Packet) : (if p.flags.testBit 1 then 2 else 1) * p.arg 0 = p.resultBytes := rfl

/-- The results of a query of a table by the indices in `bs` (R263). -/
theorem length_queryResults (t : SubTable) (n : Nat) (bs : List Byte) :
    (queryResults t n bs).length = (if t.wideRes then 2 else 1) * n := by
  simp [queryResults, List.length_flatMap, mul_comm]

theorem queryResults_eq (t : SubTable) (n : Nat) (bs : List Byte) :
    queryResults t n bs = (List.range n).flatMap fun i => leBytes (if t.wideRes then 2 else 1)
      (t.entries.getD (if t.wideIdx then leNat bs / 2 ^ (10 * i) % 1024 else leNat bs / 256 ^ i % 256) 0).toNat := by
  simp only [queryResults, packedIndex_eq, SubTable.look, List.getD_eq_getElem?_getD]

theorem StackCtl.tableOf_eq_none {c : StackCtl} {n x : Nat} (h : (c.table n).v = false ∨ (c.table n).ctx.toNat ≠ x) :
    c.tableOf n x = none := by
  refine if_neg fun ht => ?_
  obtain ⟨hv, hc⟩ := (Bool.and_eq_true _ _).mp ht
  exact h.elim (fun hv' => Bool.false_ne_true (hv'.symm.trans hv)) fun hne => hne (beq_iff_eq.mp hc)

theorem StackCtl.tableOf_eq_some {c : StackCtl} {n x : Nat} (hv : (c.table n).v = true) (hc : (c.table n).ctx.toNat = x) :
    c.tableOf n x = some (c.table n) := if_pos ((Bool.and_eq_true _ _).mpr ⟨hv, beq_iff_eq.mpr hc⟩)

theorem inPage_iff (pa n : Nat) : inPage pa n = true ↔ pa % 2 ^ 21 + n ≤ 2 ^ 21 := decide_eq_true_iff

section query

variable {s t : State} {k : Nat} {p : Packet} {a b : Nat}

theorem State.query_outside (ho : 2 ^ 21 < a % 2 ^ 21 + p.indexBytes ∨ 2 ^ 21 < b % 2 ^ 21 + p.resultBytes) :
    t.query k p a b = t.rejectCommand p 2 := by
  unfold State.query
  simp only [bitOf_testBit, Packet.indexBytes_fold, Packet.resultBytes_fold]
  refine if_pos ?_
  rw [Bool.not_eq_true', Bool.and_eq_false_iff, Bool.eq_false_iff, Bool.eq_false_iff, ne_eq, ne_eq, inPage_iff, inPage_iff, not_le, not_le]
  exact ho

variable (h : OnlyCounted s t) (ha : a % 2 ^ 21 + p.indexBytes ≤ 2 ^ 21) (hb : b % 2 ^ 21 + p.resultBytes ≤ 2 ^ 21)
include h ha hb

/-- A query whose operands lie within their pages is decided by its table. -/
theorem State.query_inside :
    let src := cellRun a p.indexBytes
    let dst := cellRun b p.resultBytes
    let u := (t.checkRead p.core src).countMem src false
    t.query k p a b = ((s.stack k).tableOf p.number p.ctx).elim (t.rejectCommand p 4) fun x =>
      if (x.wideIdx != p.flags.testBit 0 || x.wideRes != p.flags.testBit 1) = true then t.rejectCommand p 5
      else if (t.badAt src).isSome then u.finishCommand p 3 0 0
      else ((u.checkRead p.core (dst.filter (inPartWord b p.resultBytes))).commandWrites p dst
        (queryResults x (p.arg 0) (t.commandSees src))).finishCommand p 1 0 (p.arg 0) := by
  unfold State.query
  simp only [bitOf_testBit, Packet.indexBytes_fold, Packet.resultBytes_fold]
  rw [if_neg (by rw [(inPage_iff _ _).mpr ha, (inPage_iff _ _).mpr hb]; nofun), h.stack]
  cases (s.stack k).tableOf p.number p.ctx <;> rfl

theorem State.query_noTable (ht : (s.stack k).tableOf p.number p.ctx = none) : t.query k p a b = t.rejectCommand p 4 := by
  rw [State.query_inside h ha hb, ht, Option.elim_none]

variable {x : SubTable} (ht : (s.stack k).tableOf p.number p.ctx = some x)
include ht

theorem State.query_otherWidths (hw : x.wideIdx ≠ p.flags.testBit 0 ∨ x.wideRes ≠ p.flags.testBit 1) :
    t.query k p a b = t.rejectCommand p 5 := by
  rw [State.query_inside h ha hb, ht, Option.elim_some, if_pos (by simpa using hw)]

/-- A query of a table of its own widths reads its indices, writes its results, and completes with their number. -/
theorem State.query_runs (hres : s.resid = []) (hwi : x.wideIdx = p.flags.testBit 0) (hwr : x.wideRes = p.flags.testBit 1) :
    ∃ u, OnlyCounted s u ∧ t.query k p a b = (u.commandWrites p (cellRun b p.resultBytes)
      (queryResults x (p.arg 0) ((cellRun a p.indexBytes).map s.unitByte))).finishCommand p 1 0 (p.arg 0) := by
  have hu := h.checkedRead hres p.core (cellRun a p.indexBytes)
  refine ⟨_, hu.trans ((State.checkRead_read _ p.core ((cellRun b p.resultBytes).filter (inPartWord b p.resultBytes))).2
    (hu.resid.trans hres)), ?_⟩
  rw [State.query_inside h ha hb, ht, Option.elim_some, if_neg (by simp [hwi, hwr]),
    if_neg (by rw [State.badAt_of_resid (h.resid.trans hres)]; nofun), h.commandSees, State.commandSees_cellRun]

end query

/-! ### Commands at a stack controller (R261-R263, R340) -/

section stack

variable {s : State} {k : Nat} {p : Packet} {rest : List Packet} (hq : (s.stack k).queue = p :: rest)
include hq

theorem State.popStack_eq : s.popStack k = s.setStack k { s.stack k with queue := rest } := by rw [State.popStack, hq]; rfl

theorem execTqCommand_waits (h : s.commandStalled p k = true) : execTqCommand k s = .next s := by
  unfold execTqCommand
  rw [hq]
  exact if_pos (.inr h)

theorem execTloadCommand_waits (h : s.commandStalled p k = true) : execTloadCommand k s = .next s := by
  unfold execTloadCommand
  rw [hq]
  exact if_pos (.inr h)

variable (hst : s.commandStalled p k = false)
include hst

/-- What a stack controller does with a query or a call at the head of its queue: a call that came here is one that no unit could take
(R340). -/
theorem execTqCommand_taken (hk : p.kind ≠ kindTable) :
    let popped : State := s.setStack k { s.stack k with queue := rest }
    let t := popped.operandReport (stackParty k) p 2
    execTqCommand k s = .next (if s.firstTests p ≠ 0 then popped.rejectCommand p (s.firstTests p)
      else if p.kind = kindCall then popped.rejectCommand p 1
      else (s.stackOp k p 0 .load).elim (t.rejectCommand p 1) fun a =>
        (s.stackOp k p 1 .store).elim (t.rejectCommand p 1) fun b => t.query k p a b) := by
  intro popped t
  unfold execTqCommand
  rw [State.popStack_eq hq, hq]
  dsimp only
  rw [if_neg (by simp [hk, hst])]
  split
  · rfl
  · split
    · rfl
    · cases s.stackOp k p 0 .load <;> cases s.stackOp k p 1 .store <;> rfl

theorem execTqCommand_tested (hk : p.kind ≠ kindTable) (hf : s.firstTests p ≠ 0) :
    execTqCommand k s = .next ((s.setStack k { s.stack k with queue := rest }).rejectCommand p (s.firstTests p)) := by
  rw [execTqCommand_taken hq hst hk, if_pos hf]

variable (hf : s.firstTests p = 0)
include hf

theorem execTqCommand_call (hk : p.kind = kindCall) :
    execTqCommand k s = .next ((s.setStack k { s.stack k with queue := rest }).rejectCommand p 1) := by
  rw [execTqCommand_taken hq hst (by rw [hk]; decide), if_neg (not_not.mpr hf), if_pos hk]

variable (hk : p.kind = kindQuery)
include hk

theorem execTqCommand_noOps (ho : s.stackOp k p 0 .load = none ∨ s.stackOp k p 1 .store = none) :
    execTqCommand k s = .next
      (((s.setStack k { s.stack k with queue := rest }).operandReport (stackParty k) p 2).rejectCommand p 1) := by
  rw [execTqCommand_taken hq hst (by rw [hk]; decide), if_neg (not_not.mpr hf), if_neg (by rw [hk]; decide)]
  obtain ha | hb := ho
  · rw [ha, Option.elim_none]
  · rw [hb]
    cases s.stackOp k p 0 .load <;> rfl

theorem execTqCommand_query {a b : Nat} (ha : s.stackOp k p 0 .load = some a) (hb : s.stackOp k p 1 .store = some b) :
    execTqCommand k s = .next (((s.setStack k { s.stack k with queue := rest }).operandReport (stackParty k) p 2).query k p a b) := by
  rw [execTqCommand_taken hq hst (by rw [hk]; decide), if_neg (not_not.mpr hf), if_neg (by rw [hk]; decide), ha, hb, Option.elim_some,
    Option.elim_some]

end stack

/-! ### Table loads (R259) -/

/-- The table images that there are, and the widths of each. -/
theorem tableGeometry_mem {z : Nat} (h : z ∈ [256, 512, 1024, 2048]) :
    tableGeometry z = some (decide (1024 ≤ z), decide (z = 512 ∨ z = 2048)) := by
  simp only [List.mem_cons, List.not_mem_nil, or_false] at h
  obtain rfl | rfl | rfl | rfl := h <;> rfl

theorem tableGeometry_not_mem {z : Nat} (h : z ∉ [256, 512, 1024, 2048]) : tableGeometry z = none := by
  simp only [List.mem_cons, List.not_mem_nil, or_false, not_or] at h
  obtain ⟨h1, h2, h3, h4⟩ := h
  unfold tableGeometry
  split
  · exact absurd rfl h1
  · exact absurd rfl h2
  · exact absurd rfl h3
  · exact absurd rfl h4
  · rfl

/-- The entries of an image in the cells of an operand: one byte each, or two. -/
theorem look_tableEntries (f : Nat → Byte) (wide : Bool) {a z x : Nat} (h : x < z / (if wide then 2 else 1)) :
    ((tableEntries wide ((cellRun a z).map f))[x]?).getD 0
      = BitVec.ofNat 16 (if wide then (f (a + 2 * x)).toNat + 256 * (f (a + 2 * x + 1)).toNat else (f (a + x)).toNat) := by
  unfold tableEntries
  dsimp only
  rw [List.length_map, length_cellRun, List.getElem?_map, List.getElem?_range h, Option.map_some, Option.getD_some]
  cases wide with
  | false =>
    simp only [Bool.false_eq_true, if_false, Nat.div_one, one_mul] at h ⊢
    rw [leAt_cellRun_one f h]
  | true =>
    simp only [if_true] at h ⊢
    rw [leAt_cellRun_two f (by omega)]

theorem length_tableEntries (f : Nat → Byte) (wide : Bool) (a z : Nat) :
    (tableEntries wide ((cellRun a z).map f)).length = z / (if wide then 2 else 1) := by
  simp [tableEntries, length_cellRun]

/-- The table that a load of the cells at `a` fills (R259). -/
def State.loadedTable (s : State) (p : Packet) (a : Nat) : SubTable :=
  let wide := decide (p.arg 0 = 512 ∨ p.arg 0 = 2048)
  ⟨true, BitVec.ofNat 12 p.ctx, decide (1024 ≤ p.arg 0), wide, tableEntries wide ((cellRun a (p.arg 0)).map s.unitByte)⟩

section tableLoad

variable {s : State} {k : Nat} {p : Packet} {rest : List Packet} (hq : (s.stack k).queue = p :: rest)
  (hst : s.commandStalled p k = false) (hk : p.kind = kindTable)
include hq hst hk

theorem execTloadCommand_tested (hf : s.firstTests p ≠ 0) :
    execTloadCommand k s = .next ((s.setStack k { s.stack k with queue := rest }).rejectCommand p (s.firstTests p)) := by
  unfold execTloadCommand
  rw [State.popStack_eq hq, hq]
  dsimp only
  rw [if_neg (by simp [hk, hst]), if_pos hf]

variable (hf : s.firstTests p = 0)
include hf

theorem execTloadCommand_noOp (ho : s.stackOp k p 0 .load = none) :
    execTloadCommand k s = .next
      (((s.setStack k { s.stack k with queue := rest }).operandReport (stackParty k) p 1).rejectCommand p 1) := by
  unfold execTloadCommand
  rw [State.popStack_eq hq, hq]
  dsimp only
  rw [if_neg (by simp [hk, hst]), if_neg (not_not.mpr hf), ho]

variable {a : Nat} (ho : s.stackOp k p 0 .load = some a)
include ho

theorem execTloadCommand_noGeometry (hz : p.arg 0 ∉ [256, 512, 1024, 2048]) :
    execTloadCommand k s = .next
      (((s.setStack k { s.stack k with queue := rest }).operandReport (stackParty k) p 1).rejectCommand p 6) := by
  unfold execTloadCommand
  rw [State.popStack_eq hq, hq]
  dsimp only
  rw [if_neg (by simp [hk, hst]), if_neg (not_not.mpr hf), ho, tableGeometry_not_mem hz]

variable (hz : p.arg 0 ∈ [256, 512, 1024, 2048])
include hz

/-- What a stack controller does with the load of an image of a size that there is: the image is read, and its entries become the table's,
where it stays in its page and the table is free or the context's. -/
theorem execTloadCommand_sized :
    let popped : State := s.setStack k { s.stack k with queue := rest }
    let t := popped.operandReport (stackParty k) p 1
    let src := cellRun a (p.arg 0)
    let u := (t.checkRead p.core src).countMem src false
    let table : SubTable := (s.stack k).table p.number
    execTloadCommand k s = .next (if inPage a (p.arg 0) = false then t.rejectCommand p 2
      else if (table.v && table.ctx.toNat != p.ctx) = true then t.rejectCommand p 3
      else if (s.badAt src).isSome then u.finishCommand p 3 0 0
      else (u.setStack k { u.stack k with tables := SMap.set SubTable.reset (u.stack k).tables p.number (s.loadedTable p a) }).finishCommand
        p 1 0 (s.loadedTable p a).entries.length) := by
  unfold execTloadCommand
  rw [State.popStack_eq hq, hq]
  dsimp only
  rw [if_neg (by simp [hk, hst]), if_neg (not_not.mpr hf), ho, tableGeometry_mem hz]
  simp only [Bool.not_eq_true']
  split
  · rfl
  · split
    · rfl
    · split <;> rfl

theorem execTloadCommand_outside (hp : 2 ^ 21 < a % 2 ^ 21 + p.arg 0) :
    execTloadCommand k s = .next
      (((s.setStack k { s.stack k with queue := rest }).operandReport (stackParty k) p 1).rejectCommand p 2) := by
  rw [execTloadCommand_sized hq hst hk hf ho hz, if_pos]
  rw [Bool.eq_false_iff, ne_eq, inPage_iff, not_le]
  exact hp

variable (hp : a % 2 ^ 21 + p.arg 0 ≤ 2 ^ 21)
include hp

theorem execTloadCommand_foreign (hv : ((s.stack k).table p.number).v = true) (hc : ((s.stack k).table p.number).ctx.toNat ≠ p.ctx) :
    execTloadCommand k s = .next
      (((s.setStack k { s.stack k with queue := rest }).operandReport (stackParty k) p 1).rejectCommand p 3) := by
  rw [execTloadCommand_sized hq hst hk hf ho hz, if_neg (by rw [(inPage_iff _ _).mpr hp]; nofun), if_pos (by simp [hv, hc])]

/-- Where all metadata match, the entries of the image become the table's. -/
theorem execTloadCommand_loads (hres : s.resid = [])
    (hv : ((s.stack k).table p.number).v = false ∨ ((s.stack k).table p.number).ctx.toNat = p.ctx) :
    ∃ u, OnlyCounted (s.setStack k { s.stack k with queue := rest }) u ∧ execTloadCommand k s = .next
      ((u.setStack k ⟨rest, SMap.set SubTable.reset (s.stack k).tables p.number (s.loadedTable p a)⟩).finishCommand p 1 0
        (s.loadedTable p a).entries.length) := by
  have hreport : OnlyCounted (s.setStack k { s.stack k with queue := rest }) _ :=
    (State.operandReport_read (s.setStack k { s.stack k with queue := rest }) (stackParty k) p 1).2 hres
  have hread := hreport.checkedRead hres p.core (cellRun a (p.arg 0))
  refine ⟨_, hread, ?_⟩
  rw [execTloadCommand_sized hq hst hk hf ho hz, if_neg (by rw [(inPage_iff _ _).mpr hp]; nofun),
    if_neg (by simpa [imp_iff_not_or] using hv), if_neg (by rw [State.badAt_of_resid hres]; nofun), hread.stack,
    State.stack_setStack_same]

end tableLoad

/-! ### What is left of a command that was taken -/

/-- Unit `u` took the command at the head of its queue, with fresh registers (R339). -/
def State.Accepted (s : State) (u : Nat) (p : Packet) (rest : List Packet) (ops : List Nat) (upc : BitVec 8) (t : State) : Prop :=
  ∃ v, OnlyReported s v ∧ (s.resid = [] → OnlyCounted s v)
    ∧ (∀ l < 16, SMap.get 0 (t.nmu u).x l
        = BitVec.ofNat 32 (if l < 4 then p.arg l else if l = 4 then p.number else if l = 5 then u % 64 else 0))
    ∧ (∀ l, 16 ≤ l → SMap.get 0 (t.nmu u).x l = 0)
    ∧ t.nmu u = { Nmu.reset with
        image := (s.nmu u).image, queue := rest, cmd := some (s.translated (unitParty u) p 3), ops := ops, x := (t.nmu u).x, upc := upc }
    ∧ (∀ j, j ≠ u → t.nmu j = s.nmu j) ∧ t = { v with nmus := t.nmus }

theorem Nmu.accept_accepted {s : State} {u : Nat} {p : Packet} {rest : List Packet} (hq : (s.nmu u).queue = p :: rest)
    (hnext : (s.nmu u).next = none) (ops : List Nat) (upc : BitVec 8) :
    s.Accepted u p rest ops upc ((s.operandReport (unitParty u) p 3).setNmu u
      ((s.nmu u).accept u (s.translated (unitParty u) p 3) ops upc)) := by
  have hread := s.operandReport_read (unitParty u) p 3
  refine ⟨_, hread.1, hread.2, ?_⟩
  rw [State.nmu_setNmu_same]
  refine ⟨fun l _ => Nmu.get_x_accept _ _ _ _ _ _, fun l hl => ?_, ?_, fun j hj => ?_, rfl⟩
  · rw [Nmu.get_x_accept, if_neg (by omega), if_neg (by omega), if_neg (by omega)]
    rfl
  · rw [Nmu.accept, hq, hnext]
    rfl
  · rw [State.nmu_setNmu_ne _ _ hj, hread.1.nmu]

/-- A query of the table `x` with operands at `a` and `b` wrote its results and completed with their number (R263). -/
def State.Queried (s : State) (p : Packet) (x : SubTable) (idx b : Nat) (t : State) : Prop :=
  ∃ v : State,
    WroteCells s p.core [(b, (List.range (p.arg 0)).flatMap fun i => leBytes (if p.flags.testBit 1 then 2 else 1)
      (x.entries.getD (if p.flags.testBit 0 then idx / 2 ^ (10 * i) % 1024 else idx / 256 ^ i % 256) 0).toNat)] v
    ∧ v = { s with mem := v.mem, resid := v.resid, lags := v.lags, perf := v.perf } ∧ Finished v p 1 0 (p.arg 0) t

theorem State.commandWrites_queried {s u : State} (h : OnlyCounted s u) {p : Packet} {x : SubTable} (hwi : x.wideIdx = p.flags.testBit 0)
    (hwr : x.wideRes = p.flags.testBit 1) (bs : List Byte) (b : Nat) :
    s.Queried p x (leNat bs) b
      ((u.commandWrites p (cellRun b p.resultBytes) (queryResults x (p.arg 0) bs)).finishCommand p 1 0 (p.arg 0)) := by
  have hlen : (queryResults x (p.arg 0) bs).length = p.resultBytes := by rw [length_queryResults, hwr, Packet.resultBytes]
  have hwrote : WroteCells s p.core [(b, queryResults x (p.arg 0) bs)]
      (u.commandWrites p (cellRun b p.resultBytes) (queryResults x (p.arg 0) bs)) := by
    simpa only [State.each, List.foldl_cons, List.foldl_nil, hlen] using State.each_commandWrites h p [(b, queryResults x (p.arg 0) bs)]
  generalize u.commandWrites p (cellRun b p.resultBytes) (queryResults x (p.arg 0) bs) = v at hwrote ⊢
  have hrest := hwrote.rest
  rw [queryResults_eq, hwi, hwr] at hwrote
  exact ⟨_, hwrote, hrest, State.finishCommand_finished (OnlyCounted.rfl' _) p 1 (p.arg 0) (by decide)⟩

/-- Table `p.number` of stack `k` was loaded from the cells at `a`, and the load completed with the number of entries (R259). -/
def State.TableLoaded (s : State) (k : Nat) (p : Packet) (rest : List Packet) (a : Nat) (t : State) : Prop :=
  ∃ v : State,
    let z := p.arg 0
    let wide := z = 512 ∨ z = 2048
    let c := if wide then z / 2 else z
    (∀ x < c, ((v.stack k).table p.number).look x = BitVec.ofNat 16
        (if wide then (s.unitByte (a + 2 * x)).toNat + 256 * (s.unitByte (a + 2 * x + 1)).toNat else (s.unitByte (a + x)).toNat))
    ∧ (v.stack k).table p.number = ⟨true, BitVec.ofNat 12 p.ctx, decide (1024 ≤ z), decide wide, ((v.stack k).table p.number).entries⟩
    ∧ (∀ m, m ≠ p.number → (v.stack k).table m = (s.stack k).table m) ∧ (v.stack k).queue = rest
    ∧ (∀ j, j ≠ k → v.stack j = s.stack j)
    ∧ v = { s.setStack k { s.stack k with queue := rest } with kstacks := v.kstacks, perf := v.perf } ∧ Finished v p 1 0 c t

theorem State.setStack_tableLoaded {s u : State} {k : Nat} {p : Packet} {rest : List Packet} (a : Nat)
    (h : OnlyCounted (s.setStack k { s.stack k with queue := rest }) u) :
    s.TableLoaded k p rest a ((u.setStack k ⟨rest, SMap.set SubTable.reset (s.stack k).tables p.number (s.loadedTable p a)⟩).finishCommand
      p 1 0 (s.loadedTable p a).entries.length) := by
  have hlen : (s.loadedTable p a).entries.length = p.arg 0 / (if decide (p.arg 0 = 512 ∨ p.arg 0 = 2048) then 2 else 1) :=
    length_tableEntries _ _ _ _
  have hcount : (s.loadedTable p a).entries.length = if p.arg 0 = 512 ∨ p.arg 0 = 2048 then p.arg 0 / 2 else p.arg 0 := by
    rw [hlen]
    by_cases hw : p.arg 0 = 512 ∨ p.arg 0 = 2048 <;> simp [hw]
  refine ⟨u.setStack k ⟨rest, SMap.set SubTable.reset (s.stack k).tables p.number (s.loadedTable p a)⟩, ?_⟩
  dsimp only
  rw [← hcount, State.stack_setStack_same, StackCtl.table, SMap.get_set_same]
  refine ⟨fun x hx => ?_, rfl, fun m hm => SMap.get_set_ne SubTable.reset SubTable.reset (s.stack k).tables (s.loadedTable p a) hm,
    rfl, fun j hj => ?_, ?_, State.finishCommand_finished (OnlyCounted.rfl' _) p 1 _ (by decide)⟩
  · refine (look_tableEntries s.unitByte (decide (p.arg 0 = 512 ∨ p.arg 0 = 2048)) (hlen ▸ hx)).trans ?_
    simp only [decide_eq_true_eq]
  · rw [State.stack_setStack_ne _ _ hj, h.stack, State.stack_setStack_ne _ _ hj]
  · rw [OnlyCounted] at h
    rw [h]
    rfl

/-! ### The claim -/

/-- What units and stack controllers do with the command at the head of their queue (R259, R261-R263, R339-R341, R384). -/
theorem nearMemoryCommands_holds : Claims.NearMemoryCommands := by
  intro s u k p stale other
  refine ⟨fun rest hq => ?_, fun rest hq hst => ⟨execTqCommand_waits hq hst, execTloadCommand_waits hq hst⟩, fun rest hq hst hres => ?_⟩
  · intro n popped rejects
    refine ⟨execCommandAcceptance_waits hq, fun hcmd hnext hst => ?_⟩
    have htested {r : Nat} (hr : s.firstTests p = r) (h0 : r ≠ 0) : rejects r := by
      subst hr
      exact ⟨_, execCommandAcceptance_tested hq hcmd hnext hst h0, State.rejectCommand_finished (OnlyCounted.rfl' _) p _⟩
    refine ⟨fun hs => htested (State.firstTests_stale hs) (by decide), fun hs ho => htested (State.firstTests_foreign hs ho) (by decide),
      fun hs ho he => ?_, fun upc hs ho he hops => ?_, fun upc ops hs ho he hops => ?_⟩
    · exact ⟨_, execCommandAcceptance_noEntry hq hcmd hnext hst (State.firstTests_pass hs ho) he,
        State.rejectCommand_finished (OnlyCounted.rfl' _) p 9⟩
    · exact ⟨_, execCommandAcceptance_noOps hq hcmd hnext hst (State.firstTests_pass hs ho) he hops, _,
        (State.operandReport_read _ _ _ _).1, State.rejectCommand_finished (OnlyCounted.rfl' _) p 1⟩
    · exact ⟨_, execCommandAcceptance_accepts hq hcmd hnext hst (State.firstTests_pass hs ho) he hops,
        Nmu.accept_accepted hq hnext ops upc⟩
  · intro popped tab ends
    have hread (n : Nat) : OnlyCounted popped (popped.operandReport (stackParty k) p n) := (popped.operandReport_read _ p n).2 hres
    have hrejects {o : Out} {n r : Nat} (ho : o = .next ((popped.operandReport (stackParty k) p n).rejectCommand p r)) : ends o r :=
      ⟨_, ho, popped, OnlyCounted.rfl' _, State.rejectCommand_finished (hread n) p r⟩
    refine ⟨fun hk hs ho => ?_, fun hk => ?_, fun hk => ?_⟩
    · exact ⟨_, execTqCommand_call hq hst (State.firstTests_pass hs ho) hk, State.rejectCommand_finished (OnlyCounted.rfl' _) p 1⟩
    · intro run n wi wr n0 n1 ends'
      have htested {r : Nat} (hr : s.firstTests p = r) (h0 : r ≠ 0) : run (Finished popped p 2 r 0) := by
        subst hr
        exact ⟨_, execTqCommand_tested hq hst (by rw [hk]; decide) h0, State.rejectCommand_finished (OnlyCounted.rfl' _) p _⟩
      refine ⟨fun hs => htested (State.firstTests_stale hs) (by decide), fun hs ho => htested (State.firstTests_foreign hs ho) (by decide),
        fun hs ho hops => hrejects (execTqCommand_noOps hq hst (State.firstTests_pass hs ho) hk hops), fun a b hs ho ha hb => ?_⟩
      have hrun := execTqCommand_query hq hst (State.firstTests_pass hs ho) hk ha hb
      have htab : (popped.stack k).table p.number = tab := by rw [State.stack_setStack_same]; rfl
      refine ⟨fun hout => hrejects (hrun.trans (congrArg _ (State.query_outside hout))), fun hina hinb => ⟨fun hnone => ?_, fun hv hc =>
        ⟨fun hw => ?_, fun hwi hwr => ?_⟩⟩⟩
      · exact hrejects (hrun.trans (congrArg _ (State.query_noTable (hread 2) hina hinb (StackCtl.tableOf_eq_none (htab ▸ hnone)))))
      · exact hrejects (hrun.trans (congrArg _ (State.query_otherWidths (hread 2) hina hinb
          (StackCtl.tableOf_eq_some (htab ▸ hv) (htab ▸ hc)) (htab ▸ hw))))
      · obtain ⟨x, hx, hquery⟩ := State.query_runs (hread 2) hina hinb (StackCtl.tableOf_eq_some (htab ▸ hv) (htab ▸ hc)) hres
          (htab ▸ hwi) (htab ▸ hwr)
        rw [htab] at hquery
        exact ⟨_, hrun.trans (congrArg _ hquery), State.commandWrites_queried hx hwi hwr _ b⟩
    · intro run z ends'
      have htested {r : Nat} (hr : s.firstTests p = r) (h0 : r ≠ 0) : run (Finished popped p 2 r 0) := by
        subst hr
        exact ⟨_, execTloadCommand_tested hq hst hk h0, State.rejectCommand_finished (OnlyCounted.rfl' _) p _⟩
      refine ⟨fun hs => htested (State.firstTests_stale hs) (by decide), fun hs ho => htested (State.firstTests_foreign hs ho) (by decide),
        fun hs ho hop => hrejects (execTloadCommand_noOp hq hst hk (State.firstTests_pass hs ho) hop), fun a hs ho ha => ⟨fun hz => ?_,
          fun hz => ⟨fun hout => ?_, fun hin hv hc => ?_, fun hin hv => ?_⟩⟩⟩
      · exact hrejects (execTloadCommand_noGeometry hq hst hk (State.firstTests_pass hs ho) ha hz)
      · exact hrejects (execTloadCommand_outside hq hst hk (State.firstTests_pass hs ho) ha hz hout)
      · exact hrejects (execTloadCommand_foreign hq hst hk (State.firstTests_pass hs ho) ha hz hin hv hc)
      · obtain ⟨x, hx, hload⟩ := execTloadCommand_loads hq hst hk (State.firstTests_pass hs ho) ha hz hin hres hv
        exact ⟨_, hload, State.setStack_tableLoaded a hx⟩

/-- Settles O38: what each posting word, unit and stack controller does with a command, test by test. -/
theorem nearMemoryQueues : Obligations.NearMemoryQueues := ⟨nearMemoryPosting_holds, nearMemoryCommands_holds⟩

end Sys2Proof.Machine
end

section
/-! SUPPORT. The window of every core (R78, R80), and the rules by which an update of the state keeps it: `_cores` where it touches no core,
`_regWindows` where it writes cores and keeps their windows, `_legal` where it moves a window and keeps it legal. -/

namespace Sys2Proof.Machine

/-! ### The windows of the cores -/

/-- What R78 and R80 keep legal of a core. -/
structure RegWindow where
  wbase : BitVec 8
  wfill : BitVec 8
  cstat : W64

/-- WBASE on a group boundary, at most 28 whole groups in WFILL, the reserved bits of CSTAT 0. -/
def RegWindow.Legal (w : RegWindow) : Prop := w.wbase.toNat % 8 = 0 ∧ w.wfill.toNat % 8 = 0 ∧ w.wfill.toNat ≤ 224 ∧ w.cstat.toNat < 4

def Core.window (c : Core) : RegWindow := ⟨c.wbase, c.wfill, c.cstat⟩

/-- The window of every core of a map of cores. -/
def regWindows (m : SMap Core) (n : Nat) : RegWindow := (SMap.get Core.reset m n).window

def LegalWindows (w : Nat → RegWindow) : Prop := ∀ n, (w n).Legal

/-- Every core's window is legal: the invariant of O59, by the map of cores. -/
@[simp] abbrev LegalCores (m : SMap Core) : Prop := LegalWindows (regWindows m)

/-- Where an outcome is a state, its windows are legal. -/
def Out.Legal (o : Out) : Prop := ∀ t, o = .next t → LegalCores t.cores

theorem LegalCores.of_eq {s t : State} (hs : LegalCores s.cores) (h : regWindows t.cores = regWindows s.cores) : LegalCores t.cores := by
  rw [LegalCores, h]; exact hs

theorem State.window_core (s : State) (n : Nat) : (s.core n).window = regWindows s.cores n := rfl

/-! ### Branches, sequences and folds -/

@[simp] theorem cores_ite (p : Prop) [Decidable p] (a b : State) : (if p then a else b).cores = if p then a.cores else b.cores :=
  apply_ite ..

@[simp] theorem regWindows_ite (p : Prop) [Decidable p] (a b : SMap Core) :
    regWindows (if p then a else b) = if p then regWindows a else regWindows b := apply_ite ..

@[simp] theorem Out.legal_next (s : State) : Out.Legal (.next s) ↔ LegalCores s.cores := by
  simp [Out.Legal]
@[simp] theorem Out.legal_fault (f : Fault) : Out.Legal (.fault f) := by simp [Out.Legal]
@[simp] theorem Out.legal_refused (f : Refusal) : Out.Legal (.refused f) := by simp [Out.Legal]
@[simp] theorem Out.legal_ite (p : Prop) [Decidable p] (a b : Out) : Out.Legal (if p then a else b) ↔ if p then a.Legal else b.Legal := by
  split <;> rfl

theorem Out.legal_then {o : Out} {f : State → Out} (h : o.Legal) (hf : ∀ t : State, LegalCores t.cores → (f t).Legal) : (o.then f).Legal := by
  cases o with
  | next s => exact hf s (h s rfl)
  | fault r => exact Out.legal_fault r
  | refused r => exact Out.legal_refused r

@[simp] theorem cores_foldl {α : Type} (xs : List α) (f : State → α → State) (s : State) (h : ∀ u x, (f u x).cores = u.cores) :
    (xs.foldl f s).cores = s.cores := List.foldlRecOn (motive := fun u => u.cores = s.cores) xs f rfl fun u hu x _ => (h u x).trans hu
@[simp] theorem regWindows_foldl {α : Type} (xs : List α) (f : State → α → State) (s : State)
    (h : ∀ u x, regWindows (f u x).cores = regWindows u.cores) :
    regWindows (xs.foldl f s).cores = regWindows s.cores :=
  List.foldlRecOn (motive := fun u => regWindows u.cores = regWindows s.cores) xs f rfl fun u hu x _ => (h u x).trans hu
@[simp] theorem State.each_cores {α : Type} (xs : List α) (f : State → α → State) (s : State) (h : ∀ u x, (f u x).cores = u.cores) :
    (s.each xs f).cores = s.cores := cores_foldl xs f s h
@[simp] theorem State.each_regWindows {α : Type} (xs : List α) (f : State → α → State) (s : State)
    (h : ∀ u x, regWindows (f u x).cores = regWindows u.cores) :
    regWindows (s.each xs f).cores = regWindows s.cores := regWindows_foldl xs f s h

/-! ### One core written -/

theorem regWindows_setCore_eq (s : State) (n : Nat) (c : Core) :
    regWindows (s.setCore n c).cores = Function.update (regWindows s.cores) n c.window := by
  funext j
  rw [← State.window_core, State.core_setCore, Function.update_apply]
  split <;> rfl

@[simp] theorem State.regWindows_setCore (s : State) (n : Nat) (c : Core)
    (hb : c.wbase = (s.core n).wbase) (hf : c.wfill = (s.core n).wfill) (hc : c.cstat = (s.core n).cstat) :
    regWindows (s.setCore n c).cores = regWindows s.cores := by
  rw [regWindows_setCore_eq, Function.update_eq_self_iff, Core.window, hb, hf, hc]
  rfl
@[simp] theorem State.regWindows_setMe (s : State) (c : Core)
    (hb : c.wbase = s.me.wbase) (hf : c.wfill = s.me.wfill) (hc : c.cstat = s.me.cstat) :
    regWindows (s.setMe c).cores = regWindows s.cores := s.regWindows_setCore s.cur c hb hf hc

theorem State.legal_setCore {s : State} (n : Nat) {c : Core} (hs : LegalCores s.cores) (hc : c.window.Legal) :
    LegalCores (s.setCore n c).cores := by
  intro j
  rw [regWindows_setCore_eq, Function.update_apply]
  split
  · exact hc
  · exact hs j

@[simp] theorem Core.writeD_wbase (c : Core) (d : DReg) (v : W64) : (c.writeD d v).wbase = c.wbase := by rw [Core.writeD_rest]
@[simp] theorem Core.writeD_wfill (c : Core) (d : DReg) (v : W64) : (c.writeD d v).wfill = c.wfill := by rw [Core.writeD_rest]
@[simp] theorem Core.writeD_cstat (c : Core) (d : DReg) (v : W64) : (c.writeD d v).cstat = c.cstat := by rw [Core.writeD_rest]
@[simp] theorem Core.advance_wbase (c : Core) (n : Nat) : (c.advance n).wbase = c.wbase := (rfl)
@[simp] theorem Core.advance_wfill (c : Core) (n : Nat) : (c.advance n).wfill = c.wfill := (rfl)
@[simp] theorem Core.advance_cstat (c : Core) (n : Nat) : (c.advance n).cstat = c.cstat := (rfl)
@[simp] theorem Core.setTok_wbase (c : Core) (i k : Nat) : (c.setTok i k).wbase = c.wbase := (rfl)
@[simp] theorem Core.setTok_wfill (c : Core) (i k : Nat) : (c.setTok i k).wfill = c.wfill := (rfl)
@[simp] theorem Core.setTok_cstat (c : Core) (i k : Nat) : (c.setTok i k).cstat = c.cstat := (rfl)
@[simp] theorem Core.bindTok_wbase (c : Core) (v : Nat) : (c.bindTok v).wbase = c.wbase := (rfl)
@[simp] theorem Core.bindTok_wfill (c : Core) (v : Nat) : (c.bindTok v).wfill = c.wfill := (rfl)
@[simp] theorem Core.bindTok_cstat (c : Core) (v : Nat) : (c.bindTok v).cstat = c.cstat := (rfl)

/-! ### Folds that write an item of each turn -/
section
variable {α : Type} (s : State) (xs : List α) (i : α → Nat)

@[simp] theorem State.each_setElem_cores (x : State → α → Elem) : (s.each xs fun t a => t.setElem (i a) (x t a)).cores = s.cores :=
  State.each_cores _ _ _ fun _ _ => rfl
@[simp] theorem State.each_setTile_cores (x : State → α → Tile) : (s.each xs fun t a => t.setTile (i a) (x t a)).cores = s.cores :=
  State.each_cores _ _ _ fun _ _ => rfl
@[simp] theorem State.each_setRegion_cores (x : State → α → Region) : (s.each xs fun t a => t.setRegion (i a) (x t a)).cores = s.cores :=
  State.each_cores _ _ _ fun _ _ => rfl
end

end Sys2Proof.Machine
end

section
/-! SUPPORT. The windows of the cores under the operations that the words share. -/

namespace Sys2Proof.Machine

/-! ### Registers, memory and reports -/

@[simp] theorem State.countDie_cores (s : State) (as : List Nat) (write : Bool) (d : Nat) : (s.countDie as write d).cores = s.cores := by
  simp [State.countDie]

@[simp] theorem State.countMem_cores (s : State) (as : List Nat) (write : Bool) : (s.countMem as write).cores = s.cores := by simp [State.countMem]

@[simp] theorem State.countRead_cores (s : State) (pa n : Nat) : (s.countRead pa n).cores = s.cores := by simp [State.countRead]

theorem State.physWrite_cores {s t : State} {pa : Nat} {bs : List Byte} (h : s.physWrite pa bs = some t) : t.cores = s.cores := by
  unfold State.physWrite at h
  obtain ⟨as, -, rfl⟩ := Option.map_eq_some_iff.1 h
  simp

@[simp] theorem State.writeSeen_cores (s : State) (vs as : List Nat) (bs : List Byte) : (s.writeSeen vs as bs).cores = s.cores := by
  induction as generalizing s bs with
  | nil => rfl
  | cons a as ih =>
    cases bs with
    | nil => rfl
    | cons b bs =>
      rw [State.writeSeen]
      split
      · exact ih ..
      · exact ih ..

@[simp] theorem State.put_cores (s : State) (k : Via) (n w : Nat) (as : List Nat) (bs : List Byte) : (s.put k n w as bs).cores = s.cores := by
  simp [State.put]

@[simp] theorem State.settle_cores (s : State) (as : List Nat) : (s.settle as).cores = s.cores := by simp [State.settle]

@[simp] theorem State.sync_cores (s : State) (p : Nat → Bool) : (s.sync p).cores = s.cores := by simp [State.sync]

@[simp] theorem State.putPas_cores (s : State) (k : Via) (n : Nat) (pas : List Nat) (bs : List Byte) : (s.putPas k n pas bs).cores = s.cores := by
  simp [State.putPas]

@[simp] theorem State.noteFed_cores (s : State) (a : Option Nat) (t : Option W64) : (s.noteFed a t).cores = s.cores := by
  unfold State.noteFed
  split <;> simp

@[simp] theorem State.pend_regWindows (s : State) (n cause : Nat) (tval : W64) : regWindows (s.pend n cause tval).cores = regWindows s.cores := by
  simp [State.pend]

@[simp] theorem State.softErrorIn_regWindows (s : State) (n k : Nat) (a : W64) : regWindows (s.softErrorIn n k a).cores = regWindows s.cores := by
  simp [State.softErrorIn]

@[simp] theorem State.softError_regWindows (s : State) (n pa : Nat) : regWindows (s.softError n pa).cores = regWindows s.cores := by
  simp [State.softError]

@[simp] theorem State.checkRead_regWindows (s : State) (n : Nat) (pas : List Nat) : regWindows (s.checkRead n pas).cores = regWindows s.cores := by
  simp [State.checkRead]

@[simp] theorem State.checkMove_regWindows (s : State) (pas : List Nat) : regWindows (s.checkMove pas).cores = regWindows s.cores := by
  simp [State.checkMove]

@[simp] theorem State.countWalk_cores (s : State) (who c va : Nat) : (s.countWalk who c va).cores = s.cores := by simp [State.countWalk]

@[simp] theorem State.walkReport_regWindows (s : State) (n who c va : Nat) : regWindows (s.walkReport n who c va).cores = regWindows s.cores := by
  simp [State.walkReport]

@[simp] theorem State.begin_regWindows (s : State) : regWindows s.begin.cores = regWindows s.cores := by simp [State.begin]

@[simp] theorem State.holdOn_regWindows (s : State) (p : Nat) : regWindows (s.holdOn p).cores = regWindows s.cores := by simp [State.holdOn]

@[simp] theorem State.unspan_regWindows (s : State) : regWindows s.unspan.cores = regWindows s.cores := by simp [State.unspan]

@[simp] theorem State.skip_regWindows (s : State) (n : Nat) : regWindows (s.skip n).cores = regWindows s.cores :=
  s.regWindows_setMe _ rfl rfl rfl

@[simp] theorem State.finish_regWindows (s : State) (d : DReg) (v : W64) (n : Nat) : regWindows (s.finish d v n).cores = regWindows s.cores := by
  simp [State.finish]

@[simp] theorem State.finishQ_regWindows (s : State) (q : QReg) (b : Bool) (n : Nat) : regWindows (s.finishQ q b n).cores = regWindows s.cores :=
  s.regWindows_setMe _ rfl rfl rfl

@[simp] theorem State.spillWalk_cores (s : State) (n c va : Nat) : (s.spillWalk n c va).cores = s.cores := by simp [State.spillWalk]

@[simp] theorem State.spillReport_regWindows (s : State) (n c va : Nat) : regWindows (s.spillReport n c va).cores = regWindows s.cores := by
  simp [State.spillReport]

@[simp] theorem State.spillRead_regWindows (s : State) (n c : Nat) (boot : Bool) (va : Nat) (pas : List Nat) :
    regWindows (s.spillRead n c boot va pas).cores = regWindows s.cores := by simp [State.spillRead]

@[simp] theorem State.doubleFault_regWindows (s : State) (n cause : Nat) : regWindows (s.doubleFault n cause).cores = regWindows s.cores := by
  simp [State.doubleFault]

theorem RegWindow.legal_iff (c : Core) :
    c.window.Legal ↔ c.wbase.toNat % 8 = 0 ∧ c.wfill.toNat % 8 = 0 ∧ c.wfill.toNat ≤ 224 ∧ c.cstat.toNat < 4 := Iff.rfl
/-- The state that a spill or a refill ends in. -/
def Moved.state : Moved → State
  | .ok s => s
  | .spillFault s _ => s
  | .noRecord s => s
  | .held s _ => s
theorem State.walkReport_cur (s : State) (n who c va : Nat) : (s.walkReport n who c va).cur = s.cur := by
  rw [(State.walkReport_read s n who c va).1]
theorem State.spillReport_cur (s : State) (n c va : Nat) : (s.spillReport n c va).cur = s.cur := by
  unfold State.spillReport
  dsimp only
  split <;> simp [State.walkReport_cur]
theorem State.spillWalk_cur (s : State) (n c va : Nat) : (s.spillWalk n c va).cur = s.cur := by
  unfold State.spillWalk
  dsimp only
  split <;> simp [(State.countWalk_only _ _ _ _).cur]
theorem State.writeSeen_cur (s : State) (vs as : List Nat) (bs : List Byte) : (s.writeSeen vs as bs).cur = s.cur := by
  induction as generalizing s bs with
  | nil => rfl
  | cons a as ih =>
    cases bs with
    | nil => rfl
    | cons b bs =>
      rw [State.writeSeen]
      split
      · exact ih ..
      · exact ih ..
theorem State.put_cur (s : State) (k : Via) (n w : Nat) (as : List Nat) (bs : List Byte) : (s.put k n w as bs).cur = s.cur := by
  rw [State.put]; exact State.writeSeen_cur ..
theorem State.spillStore_same {s t : State} {n c va : Nat} {boot : Bool} {vs : List W64} (h : s.spillStore n c boot va vs = .ok t) :
    t.cores = s.cores ∧ t.cur = s.cur := by
  induction vs generalizing va t with
  | nil => cases h; exact ⟨rfl, rfl⟩
  | cons v vs ih =>
    rw [State.spillStore] at h
    split at h
    · cases h
    · cases h
    · exact ih h
    · split at h
      · next u hu => cases h; simp [ih hu, State.countMem_cur, State.put_cur]
      · exact ih h
theorem State.scratchStore_same {s t : State} {n pa : Nat} {vs : List W64} (h : s.scratchStore n pa vs = .ok t) :
    t.cores = s.cores ∧ t.cur = s.cur := by
  induction vs generalizing s pa with
  | nil => cases h; exact ⟨rfl, rfl⟩
  | cons v vs ih =>
    rw [State.scratchStore] at h
    split at h
    · simpa [State.countMem_cur, State.put_cur] using ih h
    · cases h
/-- What a spill or a refill of core `n` leaves: legal windows, the executing core, and, once it is made, WFILL `w`. -/
def Moved.Leaves (m : Moved) (s : State) (n : Nat) (w : BitVec 8) : Prop :=
  LegalCores m.state.cores ∧ m.state.cur = s.cur ∧ ∀ t, m = .ok t → (t.core n).wfill = w
theorem State.setCore_leaves {s t : State} {n : Nat} {c : Core} (ht : LegalCores t.cores) (hcur : t.cur = s.cur) (hc : c.window.Legal) :
    (Moved.ok (t.setCore n c)).Leaves s n c.wfill := by
  refine ⟨State.legal_setCore n ht hc, hcur, fun u hu => ?_⟩
  cases hu
  rw [State.core_setCore_same]
theorem Moved.held_leaves {s : State} (hs : LegalCores s.cores) (p n : Nat) (w : BitVec 8) : (Moved.held s p).Leaves s n w :=
  ⟨hs, rfl, fun _ h => by cases h⟩
theorem Moved.spillFault_leaves {s t : State} (ht : LegalCores t.cores) (hcur : t.cur = s.cur) (tval : W64) (n : Nat) (w : BitVec 8) :
    (Moved.spillFault t tval).Leaves s n w :=
  ⟨ht, hcur, fun _ h => by cases h⟩
/-- A spill of a core with a resident group takes one group off WFILL. -/
theorem State.spillOne_leaves {s : State} (hs : LegalCores s.cores) {n : Nat} (hn : 8 ≤ (s.core n).wfill.toNat) :
    (s.spillOne n).Leaves s n ((s.core n).wfill - 8) := by
  have hl : (s.core n).window.Legal := hs n
  have hlegal {c : Core} (h1 : c.wbase = (s.core n).wbase) (h2 : c.wfill = (s.core n).wfill - 8) (h3 : c.cstat = (s.core n).cstat) :
      c.window.Legal := by
    rw [RegWindow.legal_iff] at hl ⊢
    rw [h1, h2, h3]
    bv_omega
  have hstore {t : State} (h : t.cores = s.cores ∧ t.cur = s.cur) : LegalCores t.cores := h.1 ▸ hs
  unfold State.spillOne
  dsimp only
  split
  · split
    · next t ht =>
      have same : t.cores = s.cores ∧ t.cur = s.cur := by
        split at ht
        · exact State.spillStore_same ht
        · split at ht
          · cases ht
          · exact State.scratchStore_same ht
      exact State.setCore_leaves (hstore same) same.2 (hlegal rfl rfl rfl)
    · exact Moved.held_leaves hs _ _ _
    · exact Moved.spillFault_leaves hs rfl _ _ _
  · split
    · next t ht =>
      have same : t.cores = s.cores ∧ t.cur = s.cur := by
        split at ht
        · cases ht
        · exact State.spillStore_same ht
      refine State.setCore_leaves (c := { s.core n with ovfp := _, ovfn := _, wfill := _, span := _ }) ?_ ?_ (hlegal rfl rfl rfl)
      · simpa using hstore same
      · rw [State.spillWalk_cur, same.2]
    · exact Moved.held_leaves hs _ _ _
    · exact Moved.spillFault_leaves (by simpa using hs) (State.spillReport_cur ..) _ _ _
/-- Spills down to a limit keep the windows legal, and leave WFILL within the limit. -/
theorem State.spillTo_leaves {s : State} (hs : LegalCores s.cores) (n lim k : Nat) :
    LegalCores (s.spillTo n lim k).state.cores ∧ (s.spillTo n lim k).state.cur = s.cur
      ∧ ∀ t, s.spillTo n lim k = .ok t → (s.core n).wfill.toNat ≤ lim + 8 * k → (t.core n).wfill.toNat ≤ lim := by
  induction k generalizing s with
  | zero => exact ⟨hs, rfl, fun t h hw => by cases h; exact hw⟩
  | succ k ih =>
    rw [State.spillTo]
    split
    · next hw => exact ⟨hs, rfl, fun t h _ => by cases h; exact hw⟩
    · next hw =>
      obtain ⟨-, hf, -, -⟩ := hs n
      have h8 : 8 ≤ (s.core n).wfill.toNat := by
        have : (s.core n).wfill.toNat % 8 = 0 := hf
        omega
      obtain ⟨hl, hc, ht⟩ := State.spillOne_leaves hs h8
      split
      · next t heq =>
        rw [heq] at hl hc
        have hl' : LegalCores t.cores := hl
        obtain ⟨il, ic, it⟩ := ih hl'
        refine ⟨il, ic.trans hc, fun u hu hw => it u hu ?_⟩
        rw [ht t heq]
        bv_omega
      · next hno => exact ⟨hl, hc, fun t heq => absurd heq (hno t)⟩
theorem cstatOf_lt (p t : Bool) : (cstatOf p t).toNat < 4 := by cases p <;> cases t <;> decide
theorem State.doubleFault_legal {s : State} (hs : LegalCores s.cores) (n cause : Nat) : LegalCores (s.doubleFault n cause).cores := by
  simpa using hs
@[simp] theorem State.deliverTo_legal {s : State} (hs : LegalCores s.cores) (n cause : Nat) (tval epc : W64) :
    LegalCores (s.deliverTo n cause tval epc).1.cores := by
  have hc : (s.core n).window.Legal := hs n
  unfold State.deliverTo
  dsimp only
  generalize hs1 : s.setCore n _ = s1
  have h1 : LegalCores s1.cores := by
    rw [← hs1]
    refine State.legal_setCore n hs ?_
    rw [RegWindow.legal_iff] at hc ⊢
    exact ⟨hc.1, hc.2.1, hc.2.2.1, cstatOf_lt _ _⟩
  obtain ⟨hl, -, ht⟩ := State.spillTo_leaves h1 n 192 33
  split
  · next s2 heq =>
    rw [heq] at hl
    have h2 : (s2.core n).window.Legal := hl n
    have hw : (s2.core n).wfill.toNat ≤ 192 := ht s2 heq (by have := (h1 n).2.2.1; simp only [← State.window_core, Core.window] at this; omega)
    refine State.legal_setCore n hl ?_
    rw [RegWindow.legal_iff] at h2 ⊢
    obtain ⟨hb, hf, -, hp⟩ := h2
    exact ⟨by bv_omega, by bv_omega, by bv_omega, hp⟩
  · next heq => rw [heq] at hl; exact State.doubleFault_legal hl _ _
  · next heq => rw [heq] at hl; exact hl
  · next s2 p heq =>
    rw [heq] at hl
    have h2 : (s2.core n).window.Legal := hl n
    refine State.legal_setCore n hl ?_
    rw [RegWindow.legal_iff] at h2 hc ⊢
    exact ⟨h2.1, h2.2.1, h2.2.2.1, hc.2.2.2⟩

@[simp] theorem State.deliver_legal {s : State} (hs : LegalCores s.cores) (n cause : Nat) (tval epc : W64) :
    LegalCores (s.deliver n cause tval epc).cores := State.deliverTo_legal hs n cause tval epc

@[simp] theorem State.trapAt_legal {s : State} (hs : LegalCores s.cores) (cause : Nat) (tval epc : W64) :
    LegalCores (s.trapAt cause tval epc).cores := by
  unfold State.trapAt
  split <;> simp [hs]

@[simp] theorem State.trap_legal {s : State} (hs : LegalCores s.cores) (cause : Nat) (tval : W64) : LegalCores (s.trap cause tval).cores := by
  simp [State.trap, hs]

@[simp] theorem State.coreWalk_cores (s : State) (va n : Nat) : (s.coreWalk va n).cores = s.cores := by simp [State.coreWalk]

@[simp] theorem State.coreReport_regWindows (s : State) (va : Nat) : regWindows (s.coreReport va).cores = regWindows s.cores := by
  simp [State.coreReport]

@[simp] theorem State.accessTrap_legal {s : State} (hs : LegalCores s.cores) (cause va : Nat) : LegalCores (s.accessTrap cause va).cores := by
  simp [State.accessTrap, hs]

@[simp] theorem State.illegal_legal {s : State} (hs : LegalCores s.cores) : LegalCores (s.illegal).cores := by simp [State.illegal, hs]

@[simp] theorem State.privileged_legal {s : State} (hs : LegalCores s.cores) : LegalCores (s.privileged).cores := by simp [State.privileged, hs]

theorem State.spillRead_cur (s : State) (n c : Nat) (boot : Bool) (va : Nat) (pas : List Nat) : (s.spillRead n c boot va pas).cur = s.cur := by
  unfold State.spillRead
  rw [State.countMem_cur, (State.checkRead_read _ _ _).1]
  split
  · rfl
  · exact State.spillReport_cur ..
/-- A refill of a core with less than 4 resident groups adds one group to WFILL. -/
theorem State.refillOne_leaves {s : State} (hs : LegalCores s.cores) {n : Nat} (hn : (s.core n).wfill.toNat < 32) :
    (s.refillOne n).Leaves s n ((s.core n).wfill + 8) := by
  have hread (c : Nat) (boot : Bool) (va : Nat) (pas : List Nat) : LegalCores (s.spillRead n c boot va pas).cores := by simpa using hs
  have hlegal (c : Nat) (boot : Bool) (va : Nat) (pas : List Nat) {d : Core}
      (h1 : d.wbase = ((s.spillRead n c boot va pas).core n).wbase) (h2 : d.wfill = (s.core n).wfill + 8)
      (h3 : d.cstat = ((s.spillRead n c boot va pas).core n).cstat) : d.window.Legal := by
    have hr : ((s.spillRead n c boot va pas).core n).window.Legal := hread c boot va pas n
    have hl : (s.core n).window.Legal := hs n
    rw [RegWindow.legal_iff] at hl hr ⊢
    obtain ⟨-, hf, -, -⟩ := hl
    rw [h1, h2, h3]
    exact ⟨hr.1, by bv_omega, by bv_omega, hr.2.2.2⟩
  unfold State.refillOne
  dsimp only
  split
  · split
    · exact State.setCore_leaves (hread _ _ _ _) (State.spillRead_cur ..) (hlegal _ _ _ _ rfl rfl rfl)
    · exact Moved.held_leaves hs _ _ _
    · exact Moved.spillFault_leaves (by simpa using hs) (State.spillReport_cur ..) _ _ _
  · split
    · exact ⟨hs, rfl, fun _ h => by cases h⟩
    · split
      · exact State.setCore_leaves (hread _ _ _ _) (State.spillRead_cur ..) (hlegal _ _ _ _ rfl rfl rfl)
      · exact Moved.held_leaves hs _ _ _
      · exact Moved.spillFault_leaves hs rfl _ _ _
/-- Refills up to a limit keep the windows legal, and leave WFILL at the limit or above. -/
theorem State.refillTo_leaves {s : State} (hs : LegalCores s.cores) (n : Nat) {lim : Nat} (hlim : lim ≤ 32) (k : Nat) :
    LegalCores (s.refillTo n lim k).state.cores ∧ (s.refillTo n lim k).state.cur = s.cur
      ∧ ∀ t, s.refillTo n lim k = .ok t → lim ≤ (s.core n).wfill.toNat + 8 * k → lim ≤ (t.core n).wfill.toNat := by
  induction k generalizing s with
  | zero => exact ⟨hs, rfl, fun t h hw => by cases h; exact hw⟩
  | succ k ih =>
    rw [State.refillTo]
    split
    · next hw => exact ⟨hs, rfl, fun t h _ => by cases h; exact hw⟩
    · next hw =>
      obtain ⟨hl, hc, ht⟩ := State.refillOne_leaves hs (n := n) (by omega)
      split
      · next t heq =>
        rw [heq] at hl hc
        have hl' : LegalCores t.cores := hl
        obtain ⟨il, ic, it⟩ := ih hl'
        refine ⟨il, ic.trans hc, fun u hu hw => it u hu ?_⟩
        rw [ht t heq]
        bv_omega
      · next hno => exact ⟨hl, hc, fun t heq => absurd heq (hno t)⟩
/-- A return that the resident groups allow takes its frame off WBASE and WFILL. -/
theorem State.legal_slideBack {s : State} (hs : LegalCores s.cores) {f : Nat} (h8 : f % 8 = 0) (hf : f ≤ s.me.wfill.toNat) {c : Core}
    (hb : c.wbase = s.me.wbase - BitVec.ofNat 8 f) (hw : c.wfill = s.me.wfill - BitVec.ofNat 8 f) (hp : c.cstat.toNat < 4) :
    LegalCores (s.setMe c).cores := by
  have hm : s.me.window.Legal := hs s.cur
  refine State.legal_setCore _ hs ?_
  rw [RegWindow.legal_iff] at hm ⊢
  obtain ⟨mb, mf, ml, -⟩ := hm
  have := s.me.wfill.isLt
  rw [hb, hw]
  refine ⟨?_, ?_, ?_, hp⟩ <;> simp only [BitVec.toNat_sub, BitVec.toNat_ofNat] <;> omega
theorem and_three_lt (v : W64) : (v &&& 3).toNat < 4 := by
  rw [BitVec.toNat_and]; exact Nat.lt_of_le_of_lt Nat.and_le_right (by decide)
@[simp] theorem State.trapReturn_legal {s : State} (hs : LegalCores s.cores) : LegalCores s.trapReturn.cores := by
  unfold State.trapReturn
  obtain ⟨hl, hcur, ht⟩ := State.refillTo_leaves hs s.cur (lim := 32) (by omega) 5
  split
  · next u heq =>
    rw [heq] at hl hcur
    have hw : 32 ≤ u.me.wfill.toNat := by
      rw [State.me, show u.cur = s.cur from hcur]
      exact ht u heq (by omega)
    exact State.legal_slideBack hl (f := 32) (by omega) hw rfl rfl (and_three_lt _)
  · next heq => rw [heq] at hl; exact State.trap_legal hl _ _
  · next heq => rw [heq] at hl; exact State.illegal_legal hl
  · next heq => rw [heq] at hl; exact LegalCores.of_eq hl (State.holdOn_regWindows _ _)

@[simp] theorem State.phaseInc_cores (s : State) (n : Nat) : (s.phaseInc n).cores = s.cores := by simp [State.phaseInc]

/-! ### A core between two words -/

theorem keepBits_one_lt (v : W64) : (keepBits v 1 0).toNat < 4 := by
  simp only [keepBits, fld, BitVec.toNat_ofNat]
  omega
@[simp] theorem execAsyncTrapDelivery_legal {s : State} (hs : LegalCores s.cores) (n : Nat) : Out.Legal (execAsyncTrapDelivery n s) := by
  unfold execAsyncTrapDelivery
  dsimp only
  split
  · split
    · have h1 (p : SMap (Option W64)) : LegalCores (s.setCore n { s.core n with pend := p }).cores :=
        LegalCores.of_eq hs (State.regWindows_setCore _ _ _ rfl rfl rfl)
      have ht (p : SMap (Option W64)) (k : Nat) (v epc : W64) : LegalCores ((s.setCore n { s.core n with pend := p }).deliverTo n k v epc).1.cores :=
        State.deliver_legal (h1 p) _ _ _ _
      rw [Out.legal_next]
      split
      · exact ht _ _ _ _
      · exact LegalCores.of_eq (ht _ _ _ _) (State.regWindows_setCore _ _ _ rfl rfl rfl)
    · simp [hs]
  · simp [hs]

/-! ### Atomics -/

@[simp] theorem State.reachFault_legal {s : State} (hs : LegalCores s.cores) (a : Acc) (va : Nat) : Out.Legal (s.reachFault a va) := by
  unfold State.reachFault
  split <;> simp [hs]

theorem State.reachFaultOf_legal {s t : State} (hs : LegalCores s.cores) (ht : LegalCores t.cores) (a : Acc) (va : Nat) :
    Out.Legal (s.reachFaultOf t a va) := by
  unfold State.reachFaultOf
  split
  · simp [hs]
  · simp [ht]

@[simp] theorem State.atomic_legal {s : State} (hs : LegalCores s.cores) (f : Nat → Nat → Nat → Nat → Option Nat) (sgn : Bool) (rd : DReg)
    (ra rb : SReg) (a : AArgs) :
    Out.Legal (s.atomic f sgn rd ra rb a) := by
  unfold State.atomic
  dsimp only
  (repeat' split) <;> simp [hs]

/-! ### Descriptors and images -/

@[simp] theorem State.walkNote_cores (s : State) (who c va n : Nat) : (s.walkNote who c va n).cores = s.cores := by simp [State.walkNote]

@[simp] theorem State.readNote_cores (s : State) (who c : Nat) (rs : List (Nat × Nat)) : (s.readNote who c rs).cores = s.cores := by
  simp [State.readNote]

@[simp] theorem State.readReport_regWindows (s : State) (c : Nat) (rs : List (Nat × Nat)) :
    regWindows (s.readReport c rs).cores = regWindows s.cores := by
  simp [State.readReport]

theorem State.writeVa_cores {s t : State} {who c va : Nat} {user : Bool} {bs : List Byte} (h : s.writeVa who c user va bs = some t) :
    t.cores = s.cores := by
  obtain ⟨as, -, rfl⟩ := Option.map_eq_some_iff.mp h
  simp

theorem State.ctxWrite_cores {s t : State} {c va : Nat} {bs : List Byte} (h : s.ctxWrite c va bs = some t) : t.cores = s.cores :=
  State.writeVa_cores h

@[simp] theorem State.writeReport_regWindows (s : State) (who c va n : Nat) : regWindows (s.writeReport who c va n).cores = regWindows s.cores := by
  unfold State.writeReport
  split <;> simp

/-! ### The ends of loads and launches -/

@[simp] theorem State.raiseIrq_cores (s : State) (v : Nat) : (s.raiseIrq v).cores = s.cores := by simp [State.raiseIrq]

@[simp] theorem State.queueIrq_cores (s : State) (q : Nat) : (s.queueIrq q).cores = s.cores := by simp [State.queueIrq]

@[simp] theorem State.afterWrite_cores (s : State) (q : Option Nat) : (s.afterWrite q).cores = s.cores := by
  unfold State.afterWrite
  split <;> simp

@[simp] theorem State.dispPut_regWindows (s : State) (c va : Nat) (bs : List Byte) (q : Option Nat) :
    regWindows (s.dispPut c va bs q).cores = regWindows s.cores := by
  unfold State.dispPut
  split
  · next h => simp [State.ctxWrite_cores h]
  · split <;> simp

@[simp] theorem State.physPut_cores (s : State) (pa : Nat) (bs : List Byte) : (s.physPut pa bs).cores = s.cores := by
  unfold State.physPut
  split
  · next h => exact State.physWrite_cores h
  · split <;> rfl

@[simp] theorem State.inOrder_regWindows {s now : State} (h : regWindows now.cores = regWindows s.cores) (p : Party) (off size v : Nat) :
    regWindows (s.inOrder p off size v now).cores = regWindows s.cores := by
  unfold State.inOrder
  split
  · rfl
  · exact h

@[simp] theorem State.complete_regWindows (s : State) (q c : Nat) (r : Record) (status : Nat) :
    regWindows (s.complete q c r status).cores = regWindows s.cores := by simp [State.complete]

@[simp] theorem State.clearCtx_cores (s : State) (e : Nat) : (s.clearCtx e).cores = s.cores := by simp [State.clearCtx]

@[simp] theorem State.freeRegion_cores (s : State) (g : Nat) : (s.freeRegion g).cores = s.cores := by
  unfold State.freeRegion
  split <;> simp

@[simp] theorem State.detach_cores (s : State) (a : Nat) : (s.detach a).cores = s.cores := by simp [State.detach]

@[simp] theorem State.leavePort_cores (s : State) (i : Nat) (a : Agu) : (s.leavePort i a).cores = s.cores :=
  State.each_cores _ _ _ fun _ _ => rfl

@[simp] theorem State.unbind_cores (s : State) (f : Nat) : (s.unbind f).cores = s.cores := by simp [State.unbind]

@[simp] theorem State.dropStores_cores (s : State) (c : Nat) : (s.dropStores c).cores = s.cores := by simp [State.dropStores]

@[simp] theorem State.settleContext_cores (s : State) (c : Nat) : (s.settleContext c).cores = s.cores := by simp [State.settleContext]

@[simp] theorem State.settleLaunch_regWindows (s : State) (k : Nat) : regWindows (s.settleLaunch k).cores = regWindows s.cores := by
  simp [State.settleLaunch]

@[simp] theorem State.dropLoad_cores (s : State) (l : Nat) : (s.dropLoad l).cores = s.cores := by simp [State.dropLoad]

@[simp] theorem State.stopLoad_cores (s : State) (status m : Nat) : (s.stopLoad status m).cores = s.cores := by simp [State.stopLoad]

@[simp] theorem State.failLaunch_cores (s : State) (k status : Nat) : (s.failLaunch k status).cores = s.cores := by simp [State.failLaunch]

@[simp] theorem State.endLoad_regWindows (s : State) (l status : Nat) : regWindows (s.endLoad l status).cores = regWindows s.cores := by
  simp [State.endLoad]

@[simp] theorem State.tryEnd_regWindows (s : State) (l status : Nat) : regWindows (s.tryEnd l status).cores = regWindows s.cores := by
  simp [State.tryEnd]

@[simp] theorem State.endPending_regWindows (s : State) (l : Nat) : regWindows (s.endPending l).cores = regWindows s.cores := by
  simp [State.endPending]

@[simp] theorem State.spend_cores (s : State) (l : Nat) : (s.spend l).cores = s.cores := by simp [State.spend]

@[simp] theorem State.endFailed_regWindows (s : State) (l : Nat) : regWindows (s.endFailed l).cores = regWindows s.cores := by simp [State.endFailed]

@[simp] theorem State.failLoad_regWindows (s : State) (l status : Nat) : regWindows (s.failLoad l status).cores = regWindows s.cores := by
  simp [State.failLoad]

/-! ### Matrix passes -/

@[simp] theorem execMatrixGroupLanding_legal {s : State} (hs : LegalCores s.cores) (g t : Nat) : Out.Legal (execMatrixGroupLanding g t s) := by
  unfold execMatrixGroupLanding
  dsimp only
  split <;> simp [hs]

@[simp] theorem execMatrixGroupSnapshot_legal {s : State} (hs : LegalCores s.cores) (g t : Nat) : Out.Legal (execMatrixGroupSnapshot g t s) := by
  unfold execMatrixGroupSnapshot
  dsimp only
  split <;> simp [hs]

/-! ### The operands of E-words -/

@[simp] theorem State.flyIn_cores (s : State) (lat : Nat) (what : Land) (flags : BitVec 5) (fault : Option (Nat × Nat)) :
    (s.flyIn lat what flags fault).cores = s.cores := by simp [State.flyIn]

@[simp] theorem State.fly_cores (s : State) (what : Land) : (s.fly what).cores = s.cores := by simp [State.fly]

@[simp] theorem State.flyNothing_cores (s : State) : s.flyNothing.cores = s.cores := by simp [State.flyNothing]

@[simp] theorem State.reserve_cores (s : State) (el k : Nat) : (s.reserve el k).cores = s.cores := by simp [State.reserve]

@[simp] theorem State.send_cores (s : State) (dest : Option Nat) (d : Nat) (act : W32) (rs : Nat → LaneRes) :
    (s.send dest d act rs).cores = s.cores := by
  unfold State.send
  split <;> simp

@[simp] theorem State.out_cores (s : State) (dst : EDst) (act : W32) (rs : Nat → LaneRes) : (s.out dst act rs).cores = s.cores := by
  unfold State.out
  dsimp only
  (repeat' split) <;> simp

@[simp] theorem State.write_cores (s : State) (dst : EDst) (p : EPred) (f : Nat → LaneRes) : (s.write dst p f).cores = s.cores := by
  unfold State.write
  dsimp only
  (repeat' split) <;> simp

@[simp] theorem State.logIn_cores (s : State) (g : Nat) (bs : List Byte) : (s.logIn g bs).cores = s.cores := by simp [State.logIn]

theorem State.popPair_cores {s t : State} {p : Nat} {a b : PEntry} (h : s.popPair p = some (a, b, t)) : t.cores = s.cores := by
  unfold State.popPair at h
  split at h
  · cases h; simp
  · cases h

@[simp] theorem State.takeSlot_cores (s : State) (d : Nat) : (s.takeSlot d).cores = s.cores := by simp [State.takeSlot]

@[simp] theorem State.touchPlane_cores (s : State) (n : Nat) : (s.touchPlane n).cores = s.cores := by simp [State.touchPlane]

@[simp] theorem State.touchAcc_cores (s : State) (g t n : Nat) : (s.touchAcc g t n).cores = s.cores := by simp [State.touchAcc]

@[simp] theorem State.word1_legal {s : State} (hs : LegalCores s.cores) (k : LitKind) (w : EArgs) (f : W32 → LaneRes) :
    Out.Legal (s.word1 k w f) := by
  simp [State.word1, hs]

@[simp] theorem State.word2_legal {s : State} (hs : LegalCores s.cores) (k : LitKind) (w : EArgs) (f : W32 → W32 → LaneRes) :
    Out.Legal (s.word2 k w f) := by simp [State.word2, hs]

@[simp] theorem State.word3_legal {s : State} (hs : LegalCores s.cores) (k : LitKind) (w : EArgs) (f : W32 → W32 → W32 → LaneRes) :
    Out.Legal (s.word3 k w f) := by simp [State.word3, hs]

/-! ### The element scratchpad E-words -/

@[simp] theorem State.squashedLoad_cores (s : State) (w : EArgs) (pick : W32) : (s.squashedLoad w pick).cores = s.cores := by
  unfold State.squashedLoad
  split <;> simp

@[simp] theorem State.scratchLoadWord_legal {s : State} (hs : LegalCores s.cores) (z : Nat) (sgn : Bool) (w : EArgs) :
    Out.Legal (s.scratchLoadWord z sgn w) := by simp [State.scratchLoadWord, hs]

@[simp] theorem State.scratchStoreWord_legal {s : State} (hs : LegalCores s.cores) (z : Nat) (w : EArgs) : Out.Legal (s.scratchStoreWord z w) := by
  simp [State.scratchStoreWord, hs]

/-! ### Landings -/

@[simp] theorem State.detect_cores (s : State) (g cause : Nat) : (s.detect g cause).cores = s.cores := by simp [State.detect]

@[simp] theorem State.elementFault_cores (s : State) (g : Nat) (f : Flight) (cause lane : Nat) : (s.elementFault g f cause lane).cores = s.cores := by
  simp [State.elementFault]

@[simp] theorem State.landStatus_cores (s : State) (g : Nat) (f : Flight) : (s.landStatus g f).cores = s.cores := by
  unfold State.landStatus
  dsimp only
  split <;> simp

@[simp] theorem State.bankRead_cores (s : State) (g k : Nat) (f : Flight) : (s.bankRead g k f).cores = s.cores := by
  unfold State.bankRead
  split <;> simp

@[simp] theorem State.landWhat_cores (s : State) (g : Nat) (f : Flight) : (s.landWhat g f).cores = s.cores := by
  unfold State.landWhat
  split <;> simp

@[simp] theorem State.landAt_cores (s : State) (g k : Nat) (f : Flight) : (s.landAt g k f).cores = s.cores := by simp [State.landAt]

theorem State.landFirst_cores {s t : State} {g : Nat} {p : Flight → Bool} (h : s.landFirst g p = some t) : t.cores = s.cores := by
  unfold State.landFirst at h
  dsimp only at h
  split at h
  · cases h
  · split at h
    · cases h
    · cases h; simp

theorem State.landFirst_getD_cores (s : State) (g : Nat) (p : Flight → Bool) : ((s.landFirst g p).getD s).cores = s.cores := by
  cases h : s.landFirst g p with
  | none => rfl
  | some t => exact State.landFirst_cores h
@[simp] theorem execWordResultLanding_legal {s : State} (hs : LegalCores s.cores) (g : Nat) : Out.Legal (execWordResultLanding g s) := by
  unfold execWordResultLanding
  split
  · next h => simpa [State.landFirst_cores h] using hs
  · simpa [State.landFirst_getD_cores] using hs

@[simp] theorem execLinkSlotFill_legal {s : State} (hs : LegalCores s.cores) (g : Nat) : Out.Legal (execLinkSlotFill g s) := by
  simpa [execLinkSlotFill, State.landFirst_getD_cores] using hs

/-! ### Commit windows -/

@[simp] theorem State.openWindow_cores (s : State) (g : Nat) : (s.openWindow g).cores = s.cores := by simp [State.openWindow]

@[simp] theorem State.releaseOne_cores (s : State) (g : Nat) (e : Egress) : (s.releaseOne g e).cores = s.cores := by
  unfold State.releaseOne
  dsimp only
  (repeat' split) <;> simp

@[simp] theorem State.drainSamples_cores (s : State) (src : Nat) (es : List Egress) (bl : List Nat) :
    ((s.drainSamples src es bl).1).cores = s.cores := by
  induction es generalizing s bl with
  | nil => rfl
  | cons e es ih =>
    rw [State.drainSamples]
    split
    · dsimp only
      split <;> rw [ih]
    · exact ih ..

@[simp] theorem State.pushSamples_cores (s : State) (g : Nat) : (s.pushSamples g).cores = s.cores := by simp [State.pushSamples]

@[simp] theorem State.pushSaved_cores (s : State) (l : Nat) : (s.pushSaved l).cores = s.cores := by
  unfold State.pushSaved
  dsimp only
  rw [State.setLoad_cores]
  exact List.foldlRecOn (motive := fun (a : State × List (List Egress)) => a.1.cores = s.cores) _ _ rfl fun a ha es _ => by simpa using ha

@[simp] theorem State.releaseWindow_cores (s : State) (g : Nat) : (s.releaseWindow g).cores = s.cores := by simp [State.releaseWindow]

@[simp] theorem State.store_cores (s : State) (pa : Nat) (bs : List Byte) : (s.store pa bs).cores = s.cores := by
  unfold State.store
  cases h : s.physWrite pa bs with
  | none => rfl
  | some t => exact State.physWrite_cores h

@[simp] theorem State.afterClose_cores (s : State) (g : Nat) (why : DrainWhy) : (s.afterClose g why).cores = s.cores := by
  unfold State.afterClose
  split <;> simp

@[simp] theorem State.discardWindow_regWindows (s : State) (g : Nat) (why : DrainWhy) :
    regWindows (s.discardWindow g why).cores = regWindows s.cores := by
  simp [State.discardWindow]

@[simp] theorem execCommitWindowClose_legal {s : State} (hs : LegalCores s.cores) (g : Nat) : Out.Legal (execCommitWindowClose g s) := by
  unfold execCommitWindowClose
  split <;> simp [hs]

@[simp] theorem State.beginDrain_cores (s : State) (g : Nat) (why : DrainWhy) : (s.beginDrain g why).cores = s.cores := by simp [State.beginDrain]

@[simp] theorem State.replayNote_regWindows (s : State) (g : Nat) : regWindows (s.replayNote g).cores = regWindows s.cores := by
  simp [State.replayNote]

@[simp] theorem State.loadReplay_regWindows (s : State) (g : Nat) : regWindows (s.loadReplay g).cores = regWindows s.cores := by
  simp [State.loadReplay]

@[simp] theorem State.replayCtrl_regWindows (s : State) (g v : Nat) : regWindows (s.replayCtrl g v).cores = regWindows s.cores := by
  unfold State.replayCtrl
  split <;> simp

@[simp] theorem State.gate_regWindows (s : State) (g : Nat) (f : Freeze) : regWindows (s.gate g f).cores = regWindows s.cores := by
  unfold State.gate
  dsimp only
  split <;> simp

@[simp] theorem execClockGate_legal {s : State} (hs : LegalCores s.cores) (g : Nat) : Out.Legal (execClockGate g s) := by
  unfold execClockGate
  split <;> simp [hs]

@[simp] theorem execScanRelease_legal {s : State} (hs : LegalCores s.cores) (p : Party) (g : Nat) : Out.Legal (execScanRelease p g s) := by
  unfold execScanRelease
  dsimp only
  (repeat' split) <;> simp [hs]

/-! ### The S-rows -/

@[simp] theorem State.setRowRegion_cores (s : State) (r : Region) : (s.setRowRegion r).cores = s.cores := by simp [State.setRowRegion]

@[simp] theorem State.outsideBody_legal {s : State} (hs : LegalCores s.cores) {f : State → State} (hf : LegalCores (f s).cores) :
    Out.Legal (s.outsideBody f) := by
  unfold State.outsideBody
  split
  · simp [hs]
  · exact (Out.legal_next _).2 hf

@[simp] theorem execEndl_legal {s : State} (hs : LegalCores s.cores) (h : RowHdr) (row : BitVec 12) : Out.Legal (execEndl h row s) := by
  refine State.outsideBody_legal hs ?_
  dsimp only
  (repeat' split) <;> simpa using hs

@[simp] theorem execEpil_legal {s : State} (hs : LegalCores s.cores) (h : RowHdr) : Out.Legal (execEpil h s) := by
  refine State.outsideBody_legal hs ?_
  dsimp only
  (repeat' split) <;> simpa using hs

@[simp] theorem execExitRow_legal {s : State} (hs : LegalCores s.cores) (h : RowHdr) : Out.Legal (execExitRow h s) := by
  unfold execExitRow
  dsimp only
  split <;> simp [hs]

@[simp] theorem State.startPass_cores (s : State) (acc : Nat) (int clear : Bool) (n t : Nat) : (s.startPass acc int clear n t).cores = s.cores := by
  simp [State.startPass]

@[simp] theorem execFormSettlingEnd_legal {s : State} (hs : LegalCores s.cores) (g : Nat) : Out.Legal (execFormSettlingEnd g s) := by
  simp [execFormSettlingEnd, hs]

@[simp] theorem execIterationAdmission_legal {s : State} (hs : LegalCores s.cores) (g : Nat) : Out.Legal (execIterationAdmission g s) := by
  unfold execIterationAdmission
  dsimp only
  split <;> simp [hs]

/-! ### Hardware work queues -/

@[simp] theorem State.setTail_cores (s : State) (q : Nat) (v : W32) : (s.setTail q v).cores = s.cores := by simp [State.setTail]

@[simp] theorem State.popHead_cores (s : State) (q : Nat) : (s.popHead q).cores = s.cores := by simp [State.popHead]

@[simp] theorem State.countWait_cores (s : State) (q : Nat) : (s.countWait q).cores = s.cores := by simp [State.countWait]

@[simp] theorem execRecordRejection_legal {s : State} (hs : LegalCores s.cores) (q : Nat) : Out.Legal (execRecordRejection q s) := by
  unfold execRecordRejection
  split <;> simp [hs]

@[simp] theorem State.addStages_cores (s : State) (launch level : Nat) (xs : List (Nat × Nat × Nat × LoadDesc)) :
    (s.addStages launch level xs).cores = s.cores := by
  induction xs generalizing s with
  | nil => rfl
  | cons x xs ih => rw [State.addStages, ih, State.setLoad_cores]

@[simp] theorem State.takeRecord_regWindows (s : State) (q : Nat) (r : Record) : regWindows (s.takeRecord q r).cores = regWindows s.cores := by
  unfold State.takeRecord
  dsimp only
  (repeat' split) <;> simp

@[simp] theorem execRecordTake_legal {s : State} (hs : LegalCores s.cores) (q : Nat) : Out.Legal (execRecordTake q s) := by
  unfold execRecordTake
  split <;> simp [hs]

@[simp] theorem State.ring_cores (s : State) (q : Nat) (v : W32) : (s.ring q v).cores = s.cores := by simp [State.ring]

@[simp] theorem State.dropOwner_cores (s : State) (c : Nat) : (s.dropOwner c).cores = s.cores := by simp [State.dropOwner]

@[simp] theorem State.dropTables_cores (s : State) (c : Nat) : (s.dropTables c).cores = s.cores := State.each_cores _ _ _ fun _ _ => rfl

@[simp] theorem State.dropStalled_cores (s : State) (c : Nat) : (s.dropStalled c).cores = s.cores := by simp [State.dropStalled]

@[simp] theorem State.tearDown_regWindows (s : State) (c : Nat) : regWindows (s.tearDown c).cores = regWindows s.cores := by simp [State.tearDown]

@[simp] theorem State.qcbSet_cores (s : State) (q : Nat) (x : Queue) : (s.qcbSet q x).cores = s.cores := by simp [State.qcbSet]

@[simp] theorem State.qcbControl_cores (s : State) (q v : Nat) : (s.qcbControl q v).cores = s.cores := by simp [State.qcbControl]

@[simp] theorem State.qcbWrite_cores (s : State) (q j v : Nat) : (s.qcbWrite q j v).cores = s.cores := by
  unfold State.qcbWrite
  split <;> simp

@[simp] theorem State.dispWrite_regWindows (s : State) (off v : Nat) : regWindows (s.dispWrite off v).cores = regWindows s.cores := by
  have hctx (c : Nat) (x : Ctx) : regWindows (s.setCtx c x).cores = regWindows s.cores := congrArg regWindows (State.setCtx_cores ..)
  unfold State.dispWrite
  dsimp only
  split
  · rw [State.qcbWrite_cores]
  · split
    · rfl
    · split
      · split
        · exact hctx ..
        · exact hctx ..
        · split
          · exact State.tearDown_regWindows ..
          · rfl
        · rfl
      · split
        · split <;> exact hctx ..
        · rfl

@[simp] theorem State.dispStore_regWindows (s : State) (off size v : Nat) : regWindows (s.dispStore off size v).cores = regWindows s.cores := by
  simp [State.dispStore]

/-! ### Placement, pre-emption and resumption -/

@[simp] theorem State.attachAgu_cores (s : State) (m g c i : Nat) : (s.attachAgu m g c i).cores = s.cores := by simp [State.attachAgu]

@[simp] theorem State.attachRegion_cores (s : State) (m g c d : Nat) (r : RegionDesc) : (s.attachRegion m g c d r).cores = s.cores := by
  simp [State.attachRegion]

@[simp] theorem State.applySlot_cores (s : State) (g : Nat) (w : SlotWrite) : (s.applySlot g w).cores = s.cores := by simp [State.applySlot]

@[simp] theorem State.applyRule_cores (s : State) (g : Nat) (w : RuleWrite) : (s.applyRule g w).cores = s.cores := by simp [State.applyRule]

@[simp] theorem State.loadKbank_cores (s : State) (g : Nat) (k : Option (List W32)) : (s.loadKbank g k).cores = s.cores := by
  cases k with
  | none => rfl
  | some ws => exact State.each_cores _ _ _ fun _ _ => rfl

@[simp] theorem State.setSoports_cores (s : State) (g : Nat) (ps : List Nat) :
    (s.setSoports g ps).cores = s.cores := State.each_cores _ _ _ fun _ _ => rfl

@[simp] theorem State.loadImages_cores (s : State) (g : Nat) (i : RegionImage) : (s.loadImages g i).cores = s.cores := by simp [State.loadImages]

@[simp] theorem State.clearRegion_cores (s : State) (g : Nat) : (s.clearRegion g).cores = s.cores := by simp [State.clearRegion]

@[simp] theorem State.setupRegion_cores (s : State) (m ix c : Nat) (a : PlaceArgs) (l : LoadDesc) (d : RegionDesc) (i : RegionImage) (replay : Nat) :
    (s.setupRegion m ix c a l d i replay).cores = s.cores := by simp [State.setupRegion]

@[simp] theorem State.bindStore_cores (s : State) (m c f : Nat) : (s.bindStore m c f).cores = s.cores := by simp [State.bindStore]

@[simp] theorem State.place_cores (s : State) (m c : Nat) (l : LoadDesc) (is : List RegionImage) (a : PlaceArgs) :
    (s.place m c l is a).cores = s.cores := by simp [State.place]

@[simp] theorem State.addPushes_cores (s : State) (m : Nat) (l : LoadDesc) : (s.addPushes m l).cores = s.cores := by simp [State.addPushes]

@[simp] theorem State.failPending_regWindows (s : State) (l status : Nat) : regWindows (s.failPending l status).cores = regWindows s.cores := by
  simp [State.failPending]

@[simp] theorem execPlacement_legal {s : State} (hs : LegalCores s.cores) (l : Nat) (site : PlaceArgs) : Out.Legal (execPlacement l site s) := by
  unfold execPlacement
  dsimp only
  (repeat' split) <;> simp [hs]

@[simp] theorem State.pulseItems_cores (s : State) (g : Nat) : (s.pulseItems g).cores = s.cores := by simp [State.pulseItems]

@[simp] theorem State.pulseRegion_cores (s : State) (fresh : Bool) (g : Nat) : (s.pulseRegion fresh g).cores = s.cores := by simp [State.pulseRegion]

@[simp] theorem execTileTaskStart_legal {s : State} (hs : LegalCores s.cores) (l : Nat) : Out.Legal (execTileTaskStart l s) := by
  simp [execTileTaskStart, hs]

@[simp] theorem State.noteBadQueues_regWindows (s : State) (l : Nat) : regWindows (s.noteBadQueues l).cores = regWindows s.cores := by
  simp [State.noteBadQueues]

@[simp] theorem State.storeImage_regWindows (s : State) (c k va : Nat) (bs : List Byte) :
    regWindows (s.storeImage c k va bs).cores = regWindows s.cores := by
  induction k generalizing s va bs with
  | zero => rfl
  | succ k ih =>
    rw [State.storeImage]
    split
    · rfl
    · rw [ih, State.dispPut_regWindows]

@[simp] theorem State.preempt_regWindows (s : State) (l : Nat) : regWindows (s.preempt l).cores = regWindows s.cores := by simp [State.preempt]

@[simp] theorem execPreemption_legal {s : State} (hs : LegalCores s.cores) (l : Nat) : Out.Legal (execPreemption l s) := by simp [execPreemption, hs]

@[simp] theorem State.restoreRegion_cores (s : State) (g : Nat) (bs : List Byte) :
    (s.restoreRegion g bs).cores = s.cores := by simp [State.restoreRegion]

@[simp] theorem State.restoreAll_cores (s : State) (gs : List Nat) (bs : List Byte) : (s.restoreAll gs bs).cores = s.cores := by
  induction gs generalizing s bs with
  | nil => rfl
  | cons g gs ih => rw [State.restoreAll, ih, State.restoreRegion_cores]

@[simp] theorem State.restoreStream_cores (s : State) (i : Nat) (a : Agu) : (s.restoreStream i a).cores = s.cores := by simp [State.restoreStream]

@[simp] theorem execResumption_legal {s : State} (hs : LegalCores s.cores) (l : Nat) (site : PlaceArgs) : Out.Legal (execResumption l site s) := by
  unfold execResumption
  dsimp only
  (repeat' split) <;> simp [hs]

@[simp] theorem execPreemptionRequest_legal {s : State} (hs : LegalCores s.cores) (why : PreemptWhy) (l : Nat) :
    Out.Legal (execPreemptionRequest why l s) := by
  unfold execPreemptionRequest
  dsimp only
  (repeat' split) <;> simp [hs]

@[simp] theorem State.endAtBoundary_regWindows (s : State) (l status : Nat) : regWindows (s.endAtBoundary l status).cores = regWindows s.cores := by
  simp [State.endAtBoundary]

@[simp] theorem State.swap_legal {s : State} (hs : LegalCores s.cores) (l m : Nat) : Out.Legal (s.swap l m) := by
  unfold State.swap
  dsimp only
  (repeat' split) <;> simp [hs]

@[simp] theorem State.afterTask_legal {s : State} (hs : LegalCores s.cores) (l : Nat) : Out.Legal (s.afterTask l) := by
  unfold State.afterTask
  dsimp only
  (repeat' split) <;> simp [hs]

@[simp] theorem execTileTaskBoundary_legal {s : State} (hs : LegalCores s.cores) (g : Nat) : Out.Legal (execTileTaskBoundary g s) := by
  unfold execTileTaskBoundary
  dsimp only
  split
  · simp [hs]
  · split
    · simp [hs]
    · split
      · simp [hs]
      · split
        · split
          · simp [hs]
          · exact execPreemption_legal hs _
        · split
          · exact State.afterTask_legal hs _
          · exact State.afterTask_legal (by simpa using hs) _

@[simp] theorem State.switchFault_regWindows (s : State) (l : Nat) : regWindows (s.switchFault l).cores = regWindows s.cores := by
  unfold State.switchFault
  split <;> simp

@[simp] theorem State.switchRegion_cores (s : State) (m c die g : Nat) (l : LoadDesc) (d : RegionDesc) (i : RegionImage) :
    (s.switchRegion m c die g l d i).cores = s.cores := by
  simp [State.switchRegion]

@[simp] theorem State.switchTo_cores (s : State) (l x a : Nat) (d : LoadDesc) (is : List RegionImage) : (s.switchTo l x a d is).cores = s.cores := by
  simp [State.switchTo]

@[simp] theorem State.stageSlot_cores (s : State) (g : Nat) (w : SlotWrite) : (s.stageSlot g w).cores = s.cores := by simp [State.stageSlot]

@[simp] theorem State.stageAhead_cores (s : State) (l : Nat) (is : List RegionImage) : (s.stageAhead l is).cores = s.cores := by
  simp [State.stageAhead]

@[simp] theorem execInPlaceSwitch_legal {s : State} (hs : LegalCores s.cores) (l : Nat) : Out.Legal (execInPlaceSwitch l s) := by
  unfold execInPlaceSwitch
  dsimp only
  (repeat' split) <;> simp [hs]

@[simp] theorem execRePlacement_legal {s : State} (hs : LegalCores s.cores) (l : Nat) : Out.Legal (execRePlacement l s) := by
  unfold execRePlacement
  dsimp only
  (repeat' split) <;> simp [hs]

end Sys2Proof.Machine
end

section
/-! SUPPORT. The windows of the cores under each family of words and of events. -/

namespace Sys2Proof.Machine

/-! ### Loads and stores of a control core -/

@[simp] theorem State.fabWrite_cores (s : State) (x : FabByte) (b : Byte) : (s.fabWrite x b).cores = s.cores := by
  unfold State.fabWrite
  split <;> simp

@[simp] theorem State.fabStore_cores (s : State) (xs : List FabByte) (bs : List Byte) : (s.fabStore xs bs).cores = s.cores := by
  induction xs generalizing s bs with
  | nil => rfl
  | cons x xs ih =>
    cases bs with
    | nil => rfl
    | cons b bs => rw [State.fabStore, ih, State.fabWrite_cores]

/-- Where an access goes on or waits, the windows are those of `s`. -/
def Access.Keeps (s : State) : Access → Prop
  | .ok t _ => regWindows t.cores = regWindows s.cores
  | .wait t => regWindows t.cores = regWindows s.cores
  | .fault _ => True

@[simp] theorem Access.keeps_ok (s t : State) (bs : List Byte) : (Access.ok t bs).Keeps s ↔ regWindows t.cores = regWindows s.cores := Iff.rfl
@[simp] theorem Access.keeps_wait (s t : State) : (Access.wait t).Keeps s ↔ regWindows t.cores = regWindows s.cores := Iff.rfl
@[simp] theorem Access.keeps_fault (s : State) (c : Nat) : (Access.fault c).Keeps s := trivial

@[simp] theorem State.noCells_keeps (s : State) (pa z : Nat) : (s.noCells pa z).Keeps s := by
  unfold State.noCells
  split
  · simp
  · split <;> simp

@[simp] theorem State.noMap_keeps (s : State) (va : Nat) : (s.noMap va).Keeps s := by
  unfold State.noMap
  split <;> simp

theorem State.loadBytes_keeps (s : State) (ea : W64) (z : Nat) : (s.loadBytes ea z).Keeps s := by
  unfold State.loadBytes
  dsimp only
  (repeat' split) <;> simp

theorem State.storeBytes_keeps (s : State) (ea : W64) (bs : List Byte) : (s.storeBytes ea bs).Keeps s := by
  unfold State.storeBytes
  dsimp only
  (repeat' split) <;> simp

@[simp] theorem State.loadForm_legal {s : State} (hs : LegalCores s.cores) (z : Nat) (sgn : Bool) (rd : DReg) (ra : SReg) (m : MArgs)
    (off : Option (BitVec 32)) : Out.Legal (s.loadForm z sgn rd ra m off) := by
  have h := s.loadBytes_keeps (s.ea ra off) z
  unfold State.loadForm
  dsimp only
  split
  · simp [hs]
  · split <;> simp_all

@[simp] theorem State.storeForm_legal {s : State} (hs : LegalCores s.cores) (z : Nat) (rs ra : SReg) (m : MArgs) (off : Option (BitVec 32)) :
    Out.Legal (s.storeForm z rs ra m off) := by
  have h := s.storeBytes_keeps (s.ea ra off) (leBytes z (s.readS rs).toNat)
  unfold State.storeForm
  dsimp only
  split
  · simp [hs]
  · split <;> simp_all

@[simp] theorem State.loadPair_legal {s : State} (hs : LegalCores s.cores) (rp : PReg) (ra : SReg) (m : MArgs) (off : Option (BitVec 32)) :
    Out.Legal (s.loadPair rp ra m off) := by
  have h := s.loadBytes_keeps (s.ea ra off) 16
  unfold State.loadPair
  dsimp only
  split
  · simp [hs]
  · split <;> simp_all

@[simp] theorem State.storePair_legal {s : State} (hs : LegalCores s.cores) (rp : PReg) (ra : SReg) (m : MArgs) (off : Option (BitVec 32)) :
    Out.Legal (s.storePair rp ra m off) := by
  have h := s.storeBytes_keeps (s.ea ra off) (leBytes 8 (s.me.readD rp.lo).toNat ++ leBytes 8 (s.me.readD rp.hi).toNat)
  unfold State.storePair
  dsimp only
  split
  · simp [hs]
  · split <;> simp_all

/-! ### Words that configure regions and the screen -/

theorem State.coreLoad_regWindows {s : State} {va n : Nat} {r : State × List Byte} (h : s.coreLoad va n = .ok r) :
    regWindows r.1.cores = regWindows s.cores := by
  unfold State.coreLoad at h
  split at h
  · cases h
    simp
  · cases h

@[simp] theorem State.confFault_legal {s : State} (hs : LegalCores s.cores) (va : Nat) : Out.Legal (s.confFault va) := by simp [State.confFault, hs]

theorem State.withPlain_legal {s : State} (hs : LegalCores s.cores) (va n : Nat) {f : State → List Byte → Out}
    (hf : ∀ t bs, LegalCores t.cores → (f t bs).Legal) : Out.Legal (s.withPlain va n f) := by
  unfold State.withPlain
  split
  · next h => exact hf _ _ (LegalCores.of_eq hs (State.coreLoad_regWindows h))
  · split
    · exact hf _ _ (by simpa using hs)
    · simp [hs]

/-- A word that goes on with what it loads is legal where what it goes on with is. -/
theorem State.withLoad_legal {s : State} (hs : LegalCores s.cores) (va n : Nat) {f : State → List Byte → Out}
    (hf : ∀ t bs, LegalCores t.cores → (f t bs).Legal) : Out.Legal (s.withLoad va n f) := by
  unfold State.withLoad
  split
  · split
    · simp [hs]
    · split
      · exact hf _ _ (by simpa using hs)
      · simp [hs]
  · exact State.withPlain_legal hs va n hf

theorem State.awaitRegion_legal {s : State} (hs : LegalCores s.cores) (g rb : Nat) (pulse go : Bool) {f : State → State}
    (hf : ∀ u, (f u).cores = u.cores) : Out.Legal (s.awaitRegion g rb pulse go f) := by
  simp [State.awaitRegion, hf, hs]

@[simp] theorem State.targetFault_legal {s : State} (hs : LegalCores s.cores) (rb : Nat) : Out.Legal (s.targetFault rb) := by
  simp [State.targetFault, hs]

@[simp] theorem execCtxload_legal {s : State} (hs : LegalCores s.cores) (ra rb : SReg) : Out.Legal (execCtxload ra rb s) := by
  unfold execCtxload
  dsimp only
  split
  · simp [hs]
  · split
    · simp [hs]
    · refine State.withLoad_legal hs _ _ fun t _ ht => ?_
      split
      · split
        · refine State.withLoad_legal ht _ _ fun u _ hu => ?_
          split
          · simp [hu]
          · exact State.awaitRegion_legal hu _ _ _ _ fun _ => State.each_cores _ _ _ (by simp)
        · simp [ht]
      · simp [ht]

theorem State.atBoundary_legal {s : State} (hs : LegalCores s.cores) (g rb : Nat) {f : State → State}
    (hf : ∀ u, (f u).cores = u.cores) : Out.Legal (s.atBoundary g rb f) := by
  simp [State.atBoundary, State.awaitRegion_legal, hf, hs]

@[simp] theorem execRtload_legal {s : State} (hs : LegalCores s.cores) (ra rb : SReg) : Out.Legal (execRtload ra rb s) := by
  unfold execRtload
  dsimp only
  split
  · simp [hs]
  · split
    · simp [hs]
    · refine State.withLoad_legal hs _ _ fun t _ ht => ?_
      split
      · split
        · exact State.withLoad_legal ht _ _ fun u _ hu => State.atBoundary_legal hu _ _ fun _ => State.each_cores _ _ _ (by simp)
        · simp [ht]
      · simp [ht]

@[simp] theorem execPalload_legal {s : State} (hs : LegalCores s.cores) (ra rb : SReg) : Out.Legal (execPalload ra rb s) := by
  unfold execPalload
  dsimp only
  split
  · simp [hs]
  · split
    · simp [hs]
    · refine State.withLoad_legal hs _ _ fun t _ ht => ?_
      split
      · split
        · refine State.withLoad_legal ht _ _ fun u _ hu => State.withLoad_legal hu _ _ fun v _ hv => ?_
          have hw (n : Nat) : LegalCores (if n = 64 then u else v).cores := by
            split
            · exact hu
            · exact hv
          split
          · exact State.confFault_legal (hw _) _
          · exact State.atBoundary_legal (hw _) _ _ fun _ => rfl
        · simp [ht]
      · simp [ht]

@[simp] theorem State.putOwners_cores (s : State) (first : Nat) (seq0 : W32) (es : List W32) : (s.putOwners first seq0 es).cores = s.cores := by
  simp [State.putOwners]

@[simp] theorem execOwnload_legal {s : State} (hs : LegalCores s.cores) (ra rb : SReg) : Out.Legal (execOwnload ra rb s) := by
  unfold execOwnload
  dsimp only
  split
  · simp [hs]
  · split
    · simp [hs]
    · refine State.withLoad_legal hs _ _ fun t _ ht => State.withLoad_legal ht _ _ fun u _ hu => ?_
      (repeat' split) <;> simp [hu]

@[simp] theorem State.settleAt_cores (s : State) (a : Acc) (va n : Nat) : (s.settleAt a va n).cores = s.cores := by
  unfold State.settleAt
  split <;> simp

theorem State.coreSqd_regWindows {s : State} {a : Acc} {va : Nat} {r : State × Sqd} (h : s.coreSqd a va = some r) :
    regWindows r.1.cores = regWindows s.cores := by
  unfold State.coreSqd at h
  split at h
  · split at h
    · cases h
    · split at h
      · split at h
        · next hl =>
          obtain ⟨q, -, rfl⟩ := Option.map_eq_some_iff.mp h
          simpa using State.coreLoad_regWindows hl
        · cases h
      · cases h
  · cases h

@[simp] theorem State.sqdNote_regWindows (s : State) (a : Acc) (va : Nat) : regWindows (s.sqdNote a va).cores = regWindows s.cores := by
  unfold State.sqdNote
  split
  · split
    · next h => exact State.coreLoad_regWindows h
    · rfl
  · rfl

@[simp] theorem State.storeSome_cores (s : State) (va : Nat) (bs : List Byte) : (s.storeSome va bs).cores = s.cores := by
  induction bs generalizing s va with
  | nil => rfl
  | cons b bs ih =>
    rw [State.storeSome, ih]
    split <;> simp

@[simp] theorem State.storeRun_cores (s : State) (win : Nat → Nat) (k va : Nat) (as : List Nat) (bs : List Byte) :
    (s.storeRun win k va as bs).cores = s.cores := by
  induction k generalizing s va as bs with
  | zero => rfl
  | succ k ih => rw [State.storeRun, ih, State.put_cores]

theorem State.coreStore_regWindows {s t : State} {va : Nat} {bs : List Byte} (h : s.coreStore va bs = .ok t) :
    regWindows t.cores = regWindows s.cores := by
  unfold State.coreStore at h
  split at h
  · cases h; simp
  · split at h
    · cases h; simp
    · cases h

theorem State.loadEntry_regWindows {s : State} {va : Nat} {r : State × List Byte} (h : s.loadEntry va = .ok r) :
    regWindows r.1.cores = regWindows s.cores := by
  unfold State.loadEntry at h
  split at h
  · next hl => cases h; simpa using State.coreLoad_regWindows hl
  · split at h
    · cases h; simp
    · cases h

@[simp] theorem execQpush_legal {s : State} (hs : LegalCores s.cores) (ra rb : SReg) : Out.Legal (execQpush ra rb s) := by
  unfold execQpush
  dsimp only
  split
  · exact State.reachFaultOf_legal hs (by simpa using hs) _ _
  · next t q hq =>
    have ht : LegalCores t.cores := LegalCores.of_eq hs (State.coreSqd_regWindows hq)
    split
    · simp [ht]
    · split
      · simp [hs]
      · split
        · exact State.reachFaultOf_legal hs ht _ _
        · next u hu =>
          have hu : LegalCores u.cores := by simpa [State.coreStore_regWindows hu] using ht
          split
          · exact State.reachFaultOf_legal hs ht _ _
          · next v hv => simp [State.coreStore_regWindows hv, hu]

@[simp] theorem execQpop_legal {s : State} (hs : LegalCores s.cores) (rd : DReg) (ra : SReg) : Out.Legal (execQpop rd ra s) := by
  unfold execQpop
  dsimp only
  split
  · exact State.reachFaultOf_legal hs (by simpa using hs) _ _
  · next t q hq =>
    have ht : LegalCores t.cores := LegalCores.of_eq hs (State.coreSqd_regWindows hq)
    split
    · simp [ht]
    · split
      · simp [hs]
      · split
        · exact State.reachFaultOf_legal hs ht _ _
        · next u bs hu =>
          have hu : LegalCores u.cores := LegalCores.of_eq ht (State.loadEntry_regWindows hu)
          split
          · exact State.reachFaultOf_legal hs hu _ _
          · next v hv => simp [State.coreStore_regWindows hv, hu]

@[simp] theorem execQcount_legal {s : State} (hs : LegalCores s.cores) (rd : DReg) (ra : SReg) : Out.Legal (execQcount rd ra s) := by
  unfold execQcount
  dsimp only
  split
  · exact State.reachFaultOf_legal hs (by simpa using hs) _ _
  · next t q hq =>
    have ht : LegalCores t.cores := LegalCores.of_eq hs (State.coreSqd_regWindows hq)
    simp [ht]

@[simp] theorem State.launchRecord_legal {s : State} (hs : LegalCores s.cores) (n : Nat) (bs : List Byte) : Out.Legal (s.launchRecord n bs) := by
  unfold State.launchRecord
  dsimp only
  split
  · next h => simp [State.ctxWrite_cores h, hs]
  · split <;> simp [hs]

@[simp] theorem execLaunch_legal {s : State} (hs : LegalCores s.cores) (ra rb : SReg) : Out.Legal (execLaunch ra rb s) := by
  unfold execLaunch
  dsimp only
  cases hl : s.coreLoad (s.readS rb).toNat 64 with
  | error v =>
    dsimp only
    (repeat' split) <;> simp [hs]
  | ok r =>
    have hr : LegalCores r.1.cores := LegalCores.of_eq hs (State.coreLoad_regWindows hl)
    dsimp only
    (repeat' split) <;> simp [hs, hr]

/-! ### The phase forms -/

@[simp] theorem State.phaseSet_cores (s : State) (v : Nat) (val : W64) : (s.phaseSet v val).cores = s.cores := by simp [State.phaseSet]

@[simp] theorem execPhset_legal {s : State} (hs : LegalCores s.cores) (ra rb : SReg) : Out.Legal (execPhset ra rb s) := by
  unfold execPhset
  dsimp only
  split
  · simp [hs]
  · split
    · simp [hs]
    · split
      · rw [Out.legal_next, LegalCores, State.regWindows_setMe _ _ (by simp) (by simp) (by simp)]
        exact hs
      · split
        · simp [hs]
        · rw [Out.legal_next, LegalCores, State.skip_regWindows, State.phaseSet_cores]
          exact hs

@[simp] theorem State.latch_cores (s : State) : s.latch.cores = s.cores := by simp [State.latch]

/-! ### KV block tables -/

@[simp] theorem State.through_cores (s : State) (pa : Nat) (bs : List Byte) : (s.through pa bs).cores = s.cores := State.store_cores s pa bs

@[simp] theorem State.setPbe_cores (s : State) (b : Btd) (i : Nat) (p : Pbe) : (s.setPbe b i p).cores = s.cores := by simp [State.setPbe]

@[simp] theorem State.setMap_cores (s : State) (b : Btd) (q l : Nat) (i : Option Nat) : (s.setMap b q l i).cores = s.cores := by simp [State.setMap]

@[simp] theorem State.setFree_cores (s : State) (b : Btd) : (s.setFree b).cores = s.cores := by simp [State.setFree]

@[simp] theorem State.popFree_cores (s : State) (b : Btd) : ((s.popFree b).2.2).cores = s.cores := by simp [State.popFree]

@[simp] theorem State.pushFree_cores (s : State) (b : Btd) (i : Nat) : ((s.pushFree b i).2).cores = s.cores := by simp [State.pushFree]

@[simp] theorem State.readRanges_regWindows (s : State) (n : Nat) (rs : List (Nat × Nat)) :
    regWindows (s.readRanges n rs).cores = regWindows s.cores := by
  simp [State.readRanges]

@[simp] theorem State.moveReads_regWindows (s : State) (rs : List (Nat × Nat)) : regWindows (s.moveReads rs).cores = regWindows s.cores := by
  simp [State.moveReads]

@[simp] theorem State.endMigr_cores (s : State) (k : Nat) (m : Migr) : (s.endMigr k m).cores = s.cores := by
  unfold State.endMigr
  split <;> simp

@[simp] theorem State.dropMigr_cores (s : State) (c i : Nat) : (s.dropMigr c i).cores = s.cores := by
  unfold State.dropMigr
  split <;> simp

@[simp] theorem State.startMigr_cores (s : State) (b : Btd) (i : Nat) (m : Migr) : (s.startMigr b i m).cores = s.cores := by simp [State.startMigr]

@[simp] theorem State.cancelDemotion_cores (s : State) (c : Nat) (b : Btd) (i : Nat) : (s.cancelDemotion c b i).cores = s.cores := by
  simp [State.cancelDemotion]

@[simp] theorem execDemotionCompletion_legal {s : State} (hs : LegalCores s.cores) (i : Nat) : Out.Legal (execDemotionCompletion i s) := by
  unfold execDemotionCompletion
  dsimp only
  (repeat' split) <;> simp [hs]

@[simp] theorem execPromotionCompletion_legal {s : State} (hs : LegalCores s.cores) (i : Nat) : Out.Legal (execPromotionCompletion i s) := by
  unfold execPromotionCompletion
  dsimp only
  (repeat' split) <;> simp [hs]

@[simp] theorem State.btForm_legal {s : State} (hs : LegalCores s.cores) (rd : DReg) (ra : SReg) (bad : Bool) (denied q : Option Nat)
    {f : State → Btd → BlockRange → BtOut} (hf : ∀ t b r u, f t b r = .ok u → regWindows u.1.cores = regWindows t.cores) :
    Out.Legal (s.btForm rd ra bad denied q f) := by
  unfold State.btForm
  dsimp only
  (repeat' split) <;> simp [hs]
  next h => simpa [hf _ _ _ _ h] using hs

@[simp] theorem State.allocAll_cores (s : State) (b : Btd) (q : Nat) (zero : Bool) (ls : List Nat) : (s.allocAll b q zero ls).cores = s.cores := by
  induction ls generalizing s b with
  | nil => rfl
  | cons l ls ih =>
    rw [State.allocAll]
    dsimp only
    rw [ih, State.setMap_cores]
    split <;> simp

@[simp] theorem execBtalloc_legal {s : State} (hs : LegalCores s.cores) (rd : DReg) (ra rb : SReg) : Out.Legal (execBtalloc rd ra rb s) := by
  unfold execBtalloc
  refine State.btForm_legal hs _ _ _ _ _ fun t b r u h => ?_
  split at h
  · cases h
  · split at h
    · cases h
    · cases h; simp

theorem State.shareAll_cores {s t : State} {b : Btd} {q p : Nat} {ls : List Nat} (h : s.shareAll b q p ls = some t) : t.cores = s.cores := by
  induction ls generalizing s with
  | nil => cases h; rfl
  | cons l ls ih =>
    rw [State.shareAll] at h
    split at h
    · exact ih h
    · dsimp only at h
      split at h
      · cases h
      · simpa using ih h

@[simp] theorem execBtfork_legal {s : State} (hs : LegalCores s.cores) (rd : DReg) (ra rb : SReg) : Out.Legal (execBtfork rd ra rb s) := by
  unfold execBtfork
  refine State.btForm_legal hs _ _ _ _ _ fun t b r u h => ?_
  split at h
  · cases h
  · split at h
    · cases h
    · split at h
      · next ht => cases h; rw [State.shareAll_cores ht]
      · cases h

@[simp] theorem State.dropAll_cores (s : State) (c : Nat) (b : Btd) (q n : Nat) (ls : List Nat) : ((s.dropAll c b q n ls).1).cores = s.cores := by
  induction ls generalizing s b n with
  | nil => rfl
  | cons l ls ih =>
    rw [State.dropAll]
    dsimp only
    (repeat' split) <;> rw [ih] <;> simp

@[simp] theorem execBtdrop_legal {s : State} (hs : LegalCores s.cores) (rd : DReg) (ra : SReg) : Out.Legal (execBtdrop rd ra s) :=
  State.btForm_legal hs _ _ _ _ _ fun t b r u h => by cases h; rw [State.dropAll_cores]

@[simp] theorem State.migrateAll_cores (s : State) (b : Btd) (q st : Nat) (m : Migr) (n : Nat) (ls : List Nat) :
    ((s.migrateAll b q st m n ls).1).cores = s.cores := by
  induction ls generalizing s n with
  | nil => rfl
  | cons l ls ih =>
    rw [State.migrateAll]
    (repeat' split) <;> rw [ih]
    simp

@[simp] theorem execBtdemote_legal {s : State} (hs : LegalCores s.cores) (rd : DReg) (ra rb : SReg) : Out.Legal (execBtdemote rd ra rb s) := by
  unfold execBtdemote
  exact State.btForm_legal hs _ _ _ _ _ fun t b r u h => by cases h; rw [State.migrateAll_cores]

@[simp] theorem execBtpromote_legal {s : State} (hs : LegalCores s.cores) (rd : DReg) (ra rb : SReg) : Out.Legal (execBtpromote rd ra rb s) := by
  unfold execBtpromote
  exact State.btForm_legal hs _ _ _ _ _ fun t b r u h => by cases h; rw [State.migrateAll_cores]

/-- A write of a block that goes on or waits leaves the cores as they are. -/
def KvWrite.Keeps (m : SMap Core) : KvWrite → Prop
  | .ready t _ => t.cores = m
  | .wait t => t.cores = m
  | .share => True

theorem State.kvWrite_keeps (s : State) (c : Nat) (k : KvAt) (n : Nat) : (s.kvWrite c k n).Keeps s.cores := by
  unfold State.kvWrite
  dsimp only
  (repeat' split) <;> simp [KvWrite.Keeps]

@[simp] theorem State.copyBlock_regWindows (s : State) (c : Nat) (k : KvAt) : regWindows ((s.copyBlock c k).1).cores = regWindows s.cores := by
  unfold State.copyBlock
  dsimp only
  (repeat' split) <;> simp

/-! ### The blend units -/

@[simp] theorem State.popExchange_cores (s : State) (k : Nat) : (s.popExchange k).cores = s.cores := by simp [State.popExchange]

@[simp] theorem execSampleArrival_legal {s : State} (hs : LegalCores s.cores) (src dst : Nat) : Out.Legal (execSampleArrival src dst s) := by
  unfold execSampleArrival
  dsimp only
  split <;> simp [hs]

@[simp] theorem State.takeSample_cores (s : State) (t : Nat) (m : Sample) : (s.takeSample t m).cores = s.cores := by simp [State.takeSample]

/-- `pixelAt` is made a variable: the kernel would unfold the products of an address to compare two matches on what is read there. -/
@[simp] theorem execBlend_legal {s : State} (hs : LegalCores s.cores) (t : Nat) : Out.Legal (execBlend t s) := by
  obtain ⟨pixel, hpixel⟩ : ∃ f, pixelAt = f := ⟨_, rfl⟩
  unfold execBlend
  rw [hpixel]
  split
  · simp [hs]
  · dsimp only
    split <;> simp [hs]

/-! ### Register forms -/

@[simp] theorem State.alu_legal {s : State} (hs : LegalCores s.cores) (f : W64 → W64 → W64) (rd : DReg) (ra rb : SReg) :
    Out.Legal (s.alu f rd ra rb) := by
  simp [State.alu, hs]

@[simp] theorem State.cmp_legal {s : State} (hs : LegalCores s.cores) (f : W64 → W64 → Bool) (qd : QReg) (ra rb : SReg) :
    Out.Legal (s.cmp f qd ra rb) := by
  simp [State.cmp, hs]

@[simp] theorem State.aluCount_legal {s : State} (hs : LegalCores s.cores) (f : W64 → Nat) (rd : DReg) (ra : SReg) :
    Out.Legal (s.aluCount f rd ra) := by
  simp [State.aluCount, hs]

@[simp] theorem State.aluQ_legal {s : State} (hs : LegalCores s.cores) (f : Bool → Bool → Bool) (qd qa qb : QReg) :
    Out.Legal (s.aluQ f qd qa qb) := by
  simp [State.aluQ, hs]

/-! ### Branches, calls and returns -/

@[simp] theorem State.goto_legal {s : State} (hs : LegalCores s.cores) (t : W64) : Out.Legal (s.goto t) := by simp [State.goto, hs]

@[simp] theorem State.branch_legal {s : State} (hs : LegalCores s.cores) (taken : Bool) (off : W64) (n : Nat) : Out.Legal (s.branch taken off n) := by
  simp [State.branch, hs]

theorem frameCode_le (fc : FrameCode) : fc.code ≤ 3 := by cases fc <;> decide
@[simp] theorem State.callTo_legal {s : State} (hs : LegalCores s.cores) (fc : FrameCode) (t : W64) (n : Nat) : Out.Legal (s.callTo fc t n) := by
  have hfc := frameCode_le fc
  unfold State.callTo
  split
  · simp [hs]
  · dsimp only
    obtain ⟨hl, hcur, ht⟩ := State.spillTo_leaves hs s.cur (224 - 8 * fc.code) 33
    split
    · next u heq =>
      rw [heq] at hl hcur
      have hw : u.me.wfill.toNat ≤ 224 - 8 * fc.code := by
        rw [State.me, show u.cur = s.cur from hcur]
        exact ht u heq (by have := (hs s.cur).2.2.1; simp only [← State.window_core, Core.window] at this; omega)
      have hu : u.me.window.Legal := hl u.cur
      rw [Out.legal_next]
      refine State.legal_setCore _ hl ?_
      rw [RegWindow.legal_iff] at hu ⊢
      obtain ⟨hb, hf, -, hp⟩ := hu
      refine ⟨?_, ?_, ?_, hp⟩ <;> simp only [BitVec.toNat_add, BitVec.toNat_ofNat] <;> omega
    · next heq => rw [heq] at hl; exact (Out.legal_next _).2 (State.trap_legal hl _ _)
    · next heq => rw [heq] at hl; exact (Out.legal_next _).2 hl
    · next heq => rw [heq] at hl; exact (Out.legal_next _).2 (LegalCores.of_eq hl (State.holdOn_regWindows _ _))

theorem State.refillFails_legal {m : Moved} (h : LegalCores m.state.cores) : LegalCores (State.refillFails m).cores := by
  cases m with
  | ok t => exact h
  | spillFault t tval => exact State.trap_legal h _ _
  | noRecord t => exact State.illegal_legal h
  | held t p => exact LegalCores.of_eq h (State.holdOn_regWindows _ _)

@[simp] theorem execRet_legal {s : State} (hs : LegalCores s.cores) : Out.Legal (execRet s) := by
  unfold execRet
  obtain ⟨hl, hcur, -⟩ := State.refillTo_leaves hs s.cur (lim := 8) (by omega) 1
  split
  · next u heq =>
    rw [heq] at hl
    have hu : LegalCores u.cores := hl
    dsimp only
    split
    · exact (Out.legal_next _).2 (State.illegal_legal hu)
    · generalize SMap.get 0 u.me.link u.me.linkIx = lw at *
      obtain ⟨hl2, hcur2, ht2⟩ := State.refillTo_leaves hu u.cur (lim := 8 * (lw.toNat % 4)) (by omega) 4
      split
      · next v heq2 =>
        rw [heq2] at hl2 hcur2
        have hv : LegalCores v.cores := hl2
        have hw : 8 * (lw.toNat % 4) ≤ v.me.wfill.toNat := by
          rw [State.me, show v.cur = u.cur from hcur2]
          exact ht2 v heq2 (by omega)
        exact (Out.legal_next _).2 (State.legal_slideBack hv (f := 8 * (lw.toNat % 4)) (by omega) hw rfl rfl (hv v.cur).2.2.2)
      · exact (Out.legal_next _).2 (State.refillFails_legal hl2)
  · exact (Out.legal_next _).2 (State.refillFails_legal hl)

/-! ### Background copies -/

@[simp] theorem State.copyPart_regWindows (s : State) (c : Copy) (k : Nat) : regWindows (s.copyPart c k).cores = regWindows s.cores := by
  simp [State.copyPart]

@[simp] theorem State.moveRest_regWindows (s : State) (c : Copy) (k : Nat) : regWindows (s.moveRest c k).cores = regWindows s.cores := by
  induction k with
  | zero => rfl
  | succ k ih =>
    rw [State.moveRest]
    split <;> simp [ih]

@[simp] theorem State.copyDone_regWindows (s : State) (i : Nat) (c : Copy) : regWindows (s.copyDone i c).cores = regWindows s.cores := by
  have done (t : State) (n : Nat) (k v : Nat) : regWindows (t.setCore n ((t.core n).setTok k v)).cores = regWindows t.cores :=
    State.regWindows_setCore _ _ _ rfl rfl rfl
  unfold State.copyDone
  dsimp only
  rw [State.setCopy_cores, done]
  split <;> simp

@[simp] theorem execCopyCompletion_legal {s : State} (hs : LegalCores s.cores) (i : Nat) : Out.Legal (execCopyCompletion i s) := by
  unfold execCopyCompletion
  split <;> simp [hs]

@[simp] theorem State.copyStart_regWindows (s : State) (dst src len : Nat) (dp sp : List Nat) (tok : BitVec 3) (sc : Scope)
    (red : Option (RedOp × RedTy)) (n : Nat) : regWindows (s.copyStart dst src len dp sp tok sc red n).cores = regWindows s.cores := by
  unfold State.copyStart
  dsimp only
  rw [State.regWindows_setMe _ _ (by simp) (by simp) (by simp), State.setCopy_cores]

@[simp] theorem State.coreWalkTo_cores (s : State) (base va : Nat) : (s.coreWalkTo base va).cores = s.cores := by simp [State.coreWalkTo]

@[simp] theorem State.copyForm_legal {s : State} (hs : LegalCores s.cores) (rd ra rb : SReg) (tok : BitVec 3) (sc : Scope) (wait : BitVec 8)
    (red : Option (RedOp × RedTy)) (n : Nat) : Out.Legal (s.copyForm rd ra rb tok sc wait red n) := by
  unfold State.copyForm
  dsimp only
  (repeat' split) <;> simp [hs, State.reachFaultOf_legal]

/-! ### Immediate forms -/

@[simp] theorem State.aluImm_legal {s : State} (hs : LegalCores s.cores) (f : W64 → W64 → W64) (rd : DReg) (ra : SReg) (imm : W64) (n : Nat) :
    Out.Legal (s.aluImm f rd ra imm n) := by simp [State.aluImm, hs]

@[simp] theorem State.cmpImm_legal {s : State} (hs : LegalCores s.cores) (f : W64 → W64 → Bool) (qd : QReg) (ra : SReg) (imm : W64) (n : Nat) :
    Out.Legal (s.cmpImm f qd ra imm n) := by simp [State.cmpImm, hs]

/-! ### System forms -/

@[simp] theorem execMfsr_legal {s : State} (hs : LegalCores s.cores) (rd : DReg) (n : BitVec 12) : Out.Legal (execMfsr rd n s) := by
  unfold execMfsr
  split <;> simp [hs]

theorem Core.writeSys_legal {c : Core} (hc : c.window.Legal) (sup : Bool) (r : SysReg) (v : W64) : (c.writeSys sup r v).window.Legal := by
  obtain ⟨hb, hf, hm, hp⟩ := hc
  cases r
  case cstat => exact ⟨hb, hf, hm, keepBits_one_lt v⟩
  case wbase =>
    refine ⟨?_, hf, hm, hp⟩
    simp only [Core.writeSys, Core.window, BitVec.toNat_ofNat]
    omega
  case wfill =>
    refine ⟨hb, ?_, ?_, hp⟩ <;> simp only [Core.writeSys, Core.window, wfillOf, BitVec.toNat_ofNat] <;> omega
  all_goals exact ⟨hb, hf, hm, hp⟩
@[simp] theorem execMtsr_legal {s : State} (hs : LegalCores s.cores)(n : BitVec 12) (ra : SReg)  : Out.Legal (execMtsr n ra s) := by
  unfold execMtsr
  split
  · split
    · simp [hs]
    · exact (Out.legal_next _).2 (State.legal_setCore _ hs (Core.writeSys_legal (hs s.cur) _ _ _))
  · simp [hs]

theorem or_one_lt {v : W64} (h : v.toNat < 4) : (v ||| 1).toNat < 4 := by
  rw [BitVec.toNat_or]
  exact Nat.or_lt_two_pow (n := 2) h (by decide)
@[simp] theorem execTreen_legal {s : State} (hs : LegalCores s.cores) : Out.Legal (execTreen s) := by
  unfold execTreen
  split
  · simp [hs]
  · obtain ⟨hb, hf, hm, hp⟩ := hs s.cur
    exact (Out.legal_next _).2 (State.legal_setCore _ hs ⟨hb, hf, hm, or_one_lt hp⟩)

@[simp] theorem State.tlbInvalidate_regWindows (s : State) (x : TlbSel) : regWindows (s.tlbInvalidate x).cores = regWindows s.cores := by
  have ends (t : State) : regWindows (t.setMe ({ t.me with inval := none, begun := none }.advance 4)).cores = regWindows t.cores :=
    State.regWindows_setMe _ _ rfl rfl rfl
  have waits (t : State) (w : List Nat × List Nat) : regWindows (t.setMe { t.me with inval := some w }).begin.cores = regWindows t.cores :=
    (State.begin_regWindows _).trans (State.regWindows_setMe _ _ rfl rfl rfl)
  unfold State.tlbInvalidate
  dsimp only
  split
  · split
    · exact ends _
    · exact waits _ _
  · split
    · exact ends _
    · exact waits _ _

@[simp] theorem State.tlbForm_legal {s : State} (hs : LegalCores s.cores) (bad : Bool) (x : TlbSel) : Out.Legal (s.tlbForm bad x) := by
  simp [State.tlbForm, hs]

/-! ### The floating-point and conversion E-words -/

@[simp] theorem State.fp1_legal {s : State} (hs : LegalCores s.cores) (w : EArgs) (f : Nat → Nat × Flags) : Out.Legal (s.fp1 w f) := by
  simp [State.fp1, hs]

@[simp] theorem State.fp2_legal {s : State} (hs : LegalCores s.cores) (w : EArgs) (f : Nat → Nat → Nat × Flags) : Out.Legal (s.fp2 w f) := by
  simp [State.fp2, hs]

@[simp] theorem State.fp3_legal {s : State} (hs : LegalCores s.cores) (w : EArgs) (f : Nat → Nat → Nat → Nat × Flags) :
    Out.Legal (s.fp3 w f) := by
  simp [State.fp3, hs]

@[simp] theorem State.half2_legal {s : State} (hs : LegalCores s.cores) (g : Fmt) (w : EArgs) (f : Nat → Nat → Nat × Flags) :
    Out.Legal (s.half2 g w f) := by simp [State.half2, hs]

@[simp] theorem State.half3_legal {s : State} (hs : LegalCores s.cores) (g : Fmt) (w : EArgs) (f : Nat → Nat → Nat → Nat × Flags) :
    Out.Legal (s.half3 g w f) := by simp [State.half3, hs]

@[simp] theorem State.narrow_legal {s : State} (hs : LegalCores s.cores) (g : Fmt) (sat : Bool) (w : EArgs) : Out.Legal (s.narrow g sat w) := by
  simp [State.narrow, hs]

@[simp] theorem State.widen_legal {s : State} (hs : LegalCores s.cores) (g : Fmt) (w : EArgs) : Out.Legal (s.widen g w) := by simp [State.widen, hs]

/-! ### The link and port E-words -/

@[simp] theorem execStin_legal {s : State} (hs : LegalCores s.cores) (w : EArgs) : Out.Legal (execStin w s) := by
  unfold execStin
  split
  · simp [hs]
  · split
    · simp [hs]
    · next h => simpa [State.popPair_cores h] using hs

/-! ### Select, compare, mask and special E-words -/

@[simp] theorem State.maskWord_legal {s : State} (hs : LegalCores s.cores) (w : EArgs) (f : Bool → Bool → Bool) : Out.Legal (s.maskWord w f) := by
  simp [State.maskWord, hs]

@[simp] theorem State.estatWord_legal {s : State} (hs : LegalCores s.cores) (what : Land) : Out.Legal (s.estatWord what) := by
  simp [State.estatWord, hs]

/-! ### The matrix feed and accumulator E-words -/

@[simp] theorem State.selectorFault_cores (s : State) : s.selectorFault.cores = s.cores := by simp [State.selectorFault]

@[simp] theorem State.feedWith_cores (s : State) (isB : Bool) (w : EArgs) (port : Option Nat) (pos : Nat) (d : FeedData) :
    (s.feedWith isB w port pos d).cores = s.cores := by simp [State.feedWith]

@[simp] theorem State.takeHeader_cores (s : State) (p : Nat) (h : Header) : (s.takeHeader p h).cores = s.cores := by simp [State.takeHeader]

@[simp] theorem State.feed_cores (s : State) (isB : Bool) (w : EArgs) : (s.feed isB w).cores = s.cores := by
  unfold State.feed
  dsimp only
  split
  · simp
  · split
    · simp
    · split
      · split
        · simp
        · next h => simp [State.popPair_cores h]
      · simp

@[simp] theorem State.feedScales_cores (s : State) (isB : Bool) (w : EArgs) : (s.feedScales isB w).cores = s.cores := by simp [State.feedScales]

/-! ### The plane store's words and the world's edges -/

@[simp] theorem State.planeWord_cores (s : State) (w : EArgs) (rows : W32) (fault : Option (Nat × Nat)) (f : Nat → Nat → Site16) :
    (s.planeWord w rows fault f).cores = s.cores := by simp [State.planeWord]

@[simp] theorem State.planeOut_legal {s : State} (hs : LegalCores s.cores) (w : EArgs) (f : Nat → Nat → Site16) : Out.Legal (s.planeOut w f) := by
  simp [State.planeOut, hs]

@[simp] theorem execPld_legal {s : State} (hs : LegalCores s.cores) (w : EArgs) : Out.Legal (execPld w s) := by
  unfold execPld
  dsimp only
  split
  · simp [hs]
  · split
    · simp [hs]
    · split
      · simp [hs]
      · split
        · simp [hs]
        · next h => simpa [State.popPair_cores h] using hs

@[simp] theorem execPbx_legal {s : State} (hs : LegalCores s.cores) (w : EArgs) : Out.Legal (execPbx w s) := by
  unfold execPbx
  split <;> simp [hs]

@[simp] theorem State.siteWord_legal {s : State} (hs : LegalCores s.cores) (w : EArgs) (f : W16 → W16 → W16) : Out.Legal (s.siteWord w f) := by
  simp [State.siteWord, hs]

/-! ### The ray E-words -/

@[simp] theorem State.flySamples_cores (s : State) (ms : List (Sample × Bool × Nat)) : (s.flySamples ms).cores = s.cores := by
  induction ms generalizing s with
  | nil => rfl
  | cons m ms ih => rw [State.flySamples, ih, State.flyIn_cores]

@[simp] theorem execFragout_legal {s : State} (hs : LegalCores s.cores) (w : EArgs) : Out.Legal (execFragout w s) := by
  unfold execFragout
  dsimp only
  split <;> simp [hs]

/-! ### One region cycle -/

@[simp] theorem execImplicitClose_legal {s : State} (hs : LegalCores s.cores) (g : Nat) : Out.Legal (execImplicitClose g s) := by
  simp [execImplicitClose, hs]

/-! ### The factor store -/

@[simp] theorem State.fsResume_regWindows (s : State) (f : Nat) : regWindows (s.fsResume f).cores = regWindows s.cores := by simp [State.fsResume]

@[simp] theorem State.fsWait_regWindows (s : State) (f p : Nat) : regWindows (s.fsWait f p).cores = regWindows s.cores := by simp [State.fsWait]

@[simp] theorem State.fsReach_legal {s : State} (hs : LegalCores s.cores) (f : Nat) (a : Acc) (va : Nat) : Out.Legal (s.fsReach f a va) := by
  unfold State.fsReach
  split <;> simp [hs]

theorem State.fsRead_legal {s : State} (hs : LegalCores s.cores) (f va n : Nat) {k : State → List Byte → Out}
    (hk : ∀ t bs, LegalCores t.cores → (k t bs).Legal) : Out.Legal (s.fsRead f va n k) := by
  unfold State.fsRead
  split
  · next h => exact hk _ _ (LegalCores.of_eq hs (State.coreLoad_regWindows h))
  · split
    · exact hk _ _ (by simpa using hs)
    · simp [hs]

@[simp] theorem State.fsSettle_cores (s : State) (f : Nat) : (s.fsSettle f).cores = s.cores := by simp [State.fsSettle]

theorem State.fsForm_legal {s : State} (hs : LegalCores s.cores) (rd : DReg) (ra : SReg) (ok claim : Nat → Bool) (mem : Option SReg)
    (argOk needs : Nat → Bool) (halted : W64) {run : State → Nat → FStore → Out}
    (hrun : ∀ t v x, LegalCores t.cores → (run t v x).Legal) :
    Out.Legal (s.fsForm rd ra ok claim mem argOk needs halted run) := by
  unfold State.fsForm
  dsimp only
  have ht : LegalCores (s.fsResume (fsStore (s.readS ra).toNat)).cores := by simpa using hs
  generalize s.fsResume _ = t at ht ⊢
  have hlast (x : FStore) : ((run t (s.readS ra).toNat x).then fun u => .next (u.fsSettle (fsStore (s.readS ra).toNat))).Legal :=
    Out.legal_then (hrun _ _ _ ht) fun u hu => by simpa using hu
  (repeat' split) <;> simp [ht, hlast]

@[simp] theorem State.fsFinish_legal {s : State} (hs : LegalCores s.cores) (rd : DReg) (f : Nat) (x : FStore) (w : FsWork) :
    Out.Legal (s.fsFinish rd f x w) := by simp [State.fsFinish, hs]

@[simp] theorem execFsinit_legal {s : State} (hs : LegalCores s.cores) (rd : DReg) (ra rb : SReg) : Out.Legal (execFsinit rd ra rb s) := by
  unfold execFsinit
  exact State.fsForm_legal hs _ _ _ _ _ _ _ _ fun t v x ht => by simp [ht]

@[simp] theorem execFsupd_legal {s : State} (hs : LegalCores s.cores) (rd : DReg) (ra rb : SReg) : Out.Legal (execFsupd rd ra rb s) :=
  State.fsForm_legal hs _ _ _ _ _ _ _ _ fun _ _ _ ht => State.fsRead_legal ht _ _ _ fun u bs hu => by simp [hu]

@[simp] theorem execFsddt_legal {s : State} (hs : LegalCores s.cores) (rd : DReg) (ra rb : SReg) : Out.Legal (execFsddt rd ra rb s) :=
  State.fsForm_legal hs _ _ _ _ _ _ _ _ fun _ _ _ ht => State.fsRead_legal ht _ _ _ fun u bs hu => by split <;> simp [hu]

@[simp] theorem execFssolve_legal {s : State} (hs : LegalCores s.cores) (rd : DReg) (ra : SReg) : Out.Legal (execFssolve rd ra s) :=
  State.fsForm_legal hs _ _ _ _ _ _ _ _ fun t v x ht => by simp [ht]

@[simp] theorem execFsscale_legal {s : State} (hs : LegalCores s.cores) (rd : DReg) (ra : SReg) : Out.Legal (execFsscale rd ra s) :=
  State.fsForm_legal hs _ _ _ _ _ _ _ _ fun t v x ht => by simp [ht]

@[simp] theorem execFsread_legal {s : State} (hs : LegalCores s.cores) (rd : DReg) (ra rb : SReg) : Out.Legal (execFsread rd ra rb s) :=
  State.fsForm_legal hs _ _ _ _ _ _ _ _ fun t v x ht => by
    split
    · next h => simp [State.coreStore_regWindows h, ht]
    · simp [ht]

@[simp] theorem execFswrite_legal {s : State} (hs : LegalCores s.cores) (rd : DReg) (ra rb : SReg) : Out.Legal (execFswrite rd ra rb s) :=
  State.fsForm_legal hs _ _ _ _ _ _ _ _ fun _ _ _ ht => State.fsRead_legal ht _ _ _ fun u bs hu => by split <;> simp [hu]

@[simp] theorem execFslogdet_legal {s : State} (hs : LegalCores s.cores) (rd : DReg) (ra : SReg) : Out.Legal (execFslogdet rd ra s) :=
  State.fsForm_legal hs _ _ _ _ _ _ _ _ fun t v x ht => by simp [ht]

/-! ### Command packets -/

theorem State.post_legal {s : State} (hs : LegalCores s.cores) (k : Nat) (ra : SReg) {send : State → Packet → Out}
    (hsend : ∀ t p, LegalCores t.cores → (send t p).Legal) : Out.Legal (s.post k ra send) := by
  unfold State.post
  dsimp only
  split
  · simp [hs]
  · refine State.withLoad_legal hs _ _ fun t _ ht => ?_
    (repeat' split) <;> simp [hs, ht, hsend]

@[simp] theorem State.homeReport_regWindows (s : State) (op0 : Nat) : regWindows (s.homeReport op0).cores = regWindows s.cores := by
  simp [State.homeReport]

@[simp] theorem State.sendStack_cores (s : State) (k : Nat) (p : Packet) : (s.sendStack k p).cores = s.cores := by simp [State.sendStack]

@[simp] theorem State.operandReport_regWindows (s : State) (who : Nat) (p : Packet) (n : Nat) :
    regWindows (s.operandReport who p n).cores = regWindows s.cores := by simp [State.operandReport]

@[simp] theorem State.commandWrites_cores (s : State) (p : Packet) (as : List Nat) (bs : List Byte) : (s.commandWrites p as bs).cores = s.cores := by
  simp [State.commandWrites]

@[simp] theorem State.putStatus_cores (s : State) (p : Packet) (status reason count : Nat) : (s.putStatus p status reason count).cores = s.cores := by
  unfold State.putStatus
  split <;> simp

@[simp] theorem State.finishCommand_cores (s : State) (p : Packet) (status reason count : Nat) :
    (s.finishCommand p status reason count).cores = s.cores := by simp [State.finishCommand]

@[simp] theorem State.rejectCommand_cores (s : State) (p : Packet) (reason : Nat) : (s.rejectCommand p reason).cores = s.cores := by
  simp [State.rejectCommand]

/-! ### Near-memory units -/

@[simp] theorem execNmload_legal {s : State} (hs : LegalCores s.cores) (ra rb : SReg) : Out.Legal (execNmload ra rb s) := by
  unfold execNmload
  dsimp only
  split
  · simp [hs]
  · split
    · simp [hs]
    · split
      · simp [hs]
      · refine State.withLoad_legal hs _ _ fun t _ ht => State.withLoad_legal ht _ _ fun u _ hu => ?_
        have hw (us : List Nat) (bs : List Byte) : (u.each us fun v i => v.setNmu i ((v.nmu i).give (imageOf bs))).cores = u.cores :=
          State.each_cores _ _ _ fun _ _ => rfl
        (repeat' split) <;> simp [hu, hw]

@[simp] theorem execNmcall_legal {s : State} (hs : LegalCores s.cores) (ra : SReg) : Out.Legal (execNmcall ra s) := by
  refine State.post_legal hs kindCall ra fun t p ht => ?_
  (repeat' split) <;> simp [hs, ht]

@[simp] theorem execCommandAcceptance_legal {s : State} (hs : LegalCores s.cores) (u : Nat) : Out.Legal (execCommandAcceptance u s) := by
  unfold execCommandAcceptance
  dsimp only
  (repeat' split) <;> simp [hs]

@[simp] theorem State.endCommand_cores (s : State) (u : Nat) (p : Packet) (status reason count : Nat) :
    (s.endCommand u p status reason count).cores = s.cores := by simp [State.endCommand]

@[simp] theorem State.commandError_regWindows (s : State) (u : Nat) (p : Packet) (a : Nat) :
    regWindows (s.commandError u p a).cores = regWindows s.cores := by simp [State.commandError]

@[simp] theorem State.commandRead_regWindows (s : State) (u : Nat) (p : Packet) (as : List Nat) :
    regWindows (s.commandRead u p as).cores = regWindows s.cores := by simp [State.commandRead]

@[simp] theorem State.unitRead_regWindows (s : State) (u : Nat) (p : Packet) (w : NArgs) :
    regWindows ((s.unitRead u p w).1).cores = regWindows s.cores := by
  unfold State.unitRead
  dsimp only
  (repeat' split) <;> simp

theorem State.unitWrite_cores {s t : State} {u : Nat} {p : Packet} {w : NArgs} (h : s.unitWrite u p w = .ok t) : t.cores = s.cores := by
  unfold State.unitWrite at h
  dsimp only at h
  split at h
  · cases h; rfl
  · split at h
    · cases h
    · split at h
      · cases h
      · cases h; simp

@[simp] theorem State.unitNext_cores (s : State) (u : Nat) (p : Packet) (w : NArgs) : (s.unitNext u p w).cores = s.cores := by
  unfold State.unitNext
  dsimp only
  split <;> simp

@[simp] theorem execNWord_legal {s : State} (hs : LegalCores s.cores) (w : NArgs) : Out.Legal (execNWord w s) := by
  have hread (u : Nat) (p : Packet) : LegalCores (s.unitRead u p w).1.cores := by simpa using hs
  unfold execNWord
  dsimp only
  split
  · simp [hs]
  · next p _ =>
    have h2 := hread s.unit p
    generalize s.unitRead s.unit p w = r at h2 ⊢
    split
    · simpa using h2
    · split
      · (repeat' split) <;> simpa using h2
      · next t ht =>
        rw [Out.legal_next, LegalCores, State.unitNext_cores, State.unitWrite_cores ht]
        split <;> simpa using h2

@[simp] theorem State.standard_regWindows (s : State) (u num : Nat) (shape : Packet → List Nat → Entry)
    (reads : Packet → List Nat → List Nat → List Nat) (result : State → Packet → List Nat → List Nat → List (Nat × List Byte))
    (fails : Packet → List Nat → Option Nat) :
    regWindows (s.standard u num shape reads result fails).cores = regWindows s.cores := by
  unfold State.standard
  dsimp only
  (repeat' split) <;> simp

@[simp] theorem State.poolEntry_regWindows (s : State) (u num : Nat) (f : W32 → W32 → W32) :
    regWindows (s.poolEntry u num f).cores = regWindows s.cores := by simp [State.poolEntry]

/-! ### Subarray tables -/

@[simp] theorem State.postTable_legal {s : State} (hs : LegalCores s.cores) (k : Nat) (ra : SReg) : Out.Legal (s.postTable k ra) := by
  refine State.post_legal hs k ra fun t p ht => ?_
  split <;> simp [hs, ht]

@[simp] theorem State.popStack_cores (s : State) (k : Nat) : (s.popStack k).cores = s.cores := by simp [State.popStack]

@[simp] theorem State.query_regWindows (s : State) (k : Nat) (p : Packet) (pa0 pa1 : Nat) :
    regWindows (s.query k p pa0 pa1).cores = regWindows s.cores := by
  unfold State.query
  split <;> simp

@[simp] theorem execTqCommand_legal {s : State} (hs : LegalCores s.cores) (k : Nat) : Out.Legal (execTqCommand k s) := by
  unfold execTqCommand
  dsimp only
  (repeat' split) <;> simp [hs]

@[simp] theorem execTloadCommand_legal {s : State} (hs : LegalCores s.cores) (k : Nat) : Out.Legal (execTloadCommand k s) := by
  unfold execTloadCommand
  dsimp only
  (repeat' split) <;> simp [hs]

/-! ### Streams -/

@[simp] theorem execSwbind_legal {s : State} (hs : LegalCores s.cores) (rd : DReg) (ra rb : SReg) : Out.Legal (execSwbind rd ra rb s) := by
  unfold execSwbind
  dsimp only
  split
  · simp [hs]
  · split
    · simp [hs]
    · refine State.withLoad_legal hs _ _ fun t _ ht => ?_
      split <;> simp [ht]

@[simp] theorem execSbind_legal {s : State} (hs : LegalCores s.cores) (ra rb : SReg) : Out.Legal (execSbind ra rb s) := by
  unfold execSbind
  dsimp only
  split
  · simp [hs]
  · split
    · simp [hs]
    · refine State.withLoad_legal hs _ _ fun t _ ht => ?_
      (repeat' split) <;> simp [hs, ht]

@[simp] theorem State.streamWalk_regWindows (s : State) (i : Nat) (a : Agu) (va n : Nat) :
    regWindows (s.streamWalk i a va n).cores = regWindows s.cores := by simp [State.streamWalk]

@[simp] theorem State.stallStream_regWindows (s : State) (i va : Nat) : regWindows (s.stallStream i va).cores = regWindows s.cores := by
  unfold State.stallStream
  dsimp only
  split <;> simp

theorem State.streamRead_regWindows {s : State} {i : Nat} {a : Agu} {va n : Nat} {r : State × List Byte × Bool}
    (h : s.streamRead i a va n = .ok r) :
    regWindows r.1.cores = regWindows s.cores := by
  unfold State.streamRead at h
  split at h
  · cases h; simp
  · cases h

theorem State.shadowTarget_regWindows {s : State} {i : Nat} {a : Agu} {r : State × Nat × Bool} (h : s.shadowTarget i a = .ok r) :
    regWindows r.1.cores = regWindows s.cores := by
  unfold State.shadowTarget at h
  dsimp only at h
  split at h
  · cases h
  · split at h
    · cases h
    · next hr =>
      split at h
      · cases h
      · cases h; exact State.streamRead_regWindows hr

theorem State.streamQuery_regWindows {s : State} {i : Nat} {a : Agu} {r : State × List Byte × Bool} (h : s.streamQuery i a = .ok r) :
    regWindows r.1.cores = regWindows s.cores := by
  unfold State.streamQuery at h
  dsimp only at h
  split at h
  · cases h
  · cases h; simp

theorem State.nextIn_regWindows {s : State} {i : Nat} {a : Agu} {r : State × List Byte × Bool} (h : s.nextIn i a = .ok r) :
    regWindows r.1.cores = regWindows s.cores := by
  unfold State.nextIn at h
  split at h
  · exact State.streamQuery_regWindows h
  · split at h
    · split at h
      · cases h
      · next ht =>
        split at h
        · cases h
        · next hu => cases h; exact (State.streamRead_regWindows hu).trans (State.shadowTarget_regWindows ht)
    · exact State.streamRead_regWindows h

@[simp] theorem State.macMiss_regWindows (s : State) (i : Nat) (a : Agu) : regWindows (s.macMiss i a).cores = regWindows s.cores := by
  simp [State.macMiss]

@[simp] theorem State.takeElement_regWindows (s : State) (i : Nat) (a : Agu) (bs : List Byte) (bad : Bool) :
    regWindows (s.takeElement i a bs bad).cores = regWindows s.cores := by simp [State.takeElement]

@[simp] theorem State.streamIn_regWindows (s : State) (i : Nat) : regWindows (s.streamIn i).cores = regWindows s.cores := by
  unfold State.streamIn
  dsimp only
  split
  · split <;> simp
  · split
    · rfl
    · split
      · simp
      · next h => simpa using State.nextIn_regWindows h

@[simp] theorem State.putElement_regWindows (s : State) (i : Nat) (a : Agu) (pas : List Nat) (bs : List Byte) :
    regWindows (s.putElement i a pas bs).cores = regWindows s.cores := by simp [State.putElement]

@[simp] theorem State.passed_cores (s : State) (i : Nat) : (s.passed i).cores = s.cores := by simp [State.passed]

@[simp] theorem State.dropElement_cores (s : State) (i : Nat) (a : Agu) : (s.dropElement i a).cores = s.cores := by simp [State.dropElement]

theorem regWindows_mapVal (f : Core → Core) (m : SMap Core) (hr : f Core.reset = Core.reset) (hf : ∀ c, (f c).window = c.window) :
    regWindows (SMap.mapVal Core.reset f m) = regWindows m := by
  funext n
  rw [regWindows, SMap.get_mapVal _ _ hr, hf, regWindows]
/-- A write that goes on leaves the cores as they are. -/
def Aim.Keeps (m : SMap Core) : Aim → Prop
  | .cells t _ => t.cores = m
  | .wait t => t.cores = m
  | _ => True
theorem State.aim_keeps (s : State) (i : Nat) (a : Agu) (fuel va n : Nat) : (s.aim i a fuel va n).Keeps s.cores := by
  induction fuel generalizing s va n with
  | zero => unfold State.aim; split <;> trivial
  | succ fuel ih =>
    unfold State.aim
    split
    · rfl
    · dsimp only
      generalize hx : @ite Aim _ (_) _ _ = here
      have hhere : here.Keeps s.cores := by
        rw [← hx]
        split
        · split
          · trivial
          · split
            · next h => exact (h ▸ s.kvWrite_keeps .. : KvWrite.Keeps s.cores (.ready _ _))
            · next h => exact (h ▸ s.kvWrite_keeps .. : KvWrite.Keeps s.cores (.wait _))
            · trivial
        · split
          · split <;> trivial
          · rfl
      clear hx
      cases here with
      | cells t as =>
        have hrest := ih t (va + min n (16 - va % 16)) (n - min n (16 - va % 16))
        rw [show t.cores = s.cores from hhere] at hrest
        dsimp only
        generalize t.aim i a fuel (va + min n (16 - va % 16)) (n - min n (16 - va % 16)) = o at hrest ⊢
        cases o <;> exact hrest
      | fault v => exact hhere
      | wait t => exact hhere
      | share k => exact hhere
      | lost => exact hhere
@[simp] theorem State.writeElement_regWindows (s : State) (i : Nat) (a : Agu) (va : Nat) (bs : List Byte) :
    regWindows (s.writeElement i a va bs).cores = regWindows s.cores := by
  have h := State.aim_keeps s i a (bs.length / 16 + 2) va bs.length
  unfold State.writeElement
  cases haim : s.aim i a (bs.length / 16 + 2) va bs.length with
  | cells t as => rw [haim] at h; simp [show t.cores = s.cores from h]
  | fault v => simp
  | wait t => rw [haim] at h; exact congrArg regWindows h
  | share => rfl
  | lost => simp

@[simp] theorem State.writeAt_regWindows (s : State) (i : Nat) (a : Agu) (va : Nat) (bs : List Byte) :
    regWindows (s.writeAt i a va bs).cores = regWindows s.cores := by simp [State.writeAt]

@[simp] theorem State.streamOut_regWindows (s : State) (i : Nat) : regWindows (s.streamOut i).cores = regWindows s.cores := by
  unfold State.streamOut
  dsimp only
  split
  · rfl
  · split
    · split
      · simp
      · split <;> simp
    · split
      · simp
      · split
        · split
          · simp
          · next h =>
            have ht := State.shadowTarget_regWindows h
            split <;> simpa using ht
        · simp

theorem State.queueFault_ne {s t : State} {who c va n : Nat} {user : Bool} {a : Acc} : s.queueFault who c user a va n ≠ .ok t := by
  unfold State.queueFault
  split <;> simp
theorem State.pushQueue_cores {s t : State} {who c va : Nat} {user : Bool} {bs : List Byte} (h : s.pushQueue who c user va bs = .ok t) :
    t.cores = s.cores := by
  unfold State.pushQueue at h
  split at h
  · exact absurd h State.queueFault_ne
  · split at h
    · cases h
    · split at h
      · cases h
      · split at h
        · exact absurd h State.queueFault_ne
        · next hu =>
          dsimp only at h
          split at h
          · exact absurd h State.queueFault_ne
          · next hv =>
            cases h
            split <;> simp [State.writeVa_cores hv, State.writeVa_cores hu]

theorem State.popQueue_regWindows {s : State} {who c va n : Nat} {user : Bool} {r : State × PEntry} (h : s.popQueue who c user va n = .ok r) :
    regWindows r.1.cores = regWindows s.cores := by
  unfold State.popQueue at h
  split at h
  · cases h
  · dsimp only at h
    split at h
    · cases h
    · split at h
      · cases h
      · split at h
        · cases h
        · split at h
          · cases h
          · next u hu =>
            cases h
            split <;> simp [State.writeVa_cores hu]

theorem State.applyPair_cores {s t : State} {md : Nat} {a : Agu} {k v : W32} (h : s.applyPair md a k v = some t) : t.cores = s.cores := by
  unfold State.applyPair at h
  dsimp only at h
  split at h
  · cases h
  · split at h
    · cases h; simp
    · split at h
      · cases h; simp
      · cases h

theorem State.spillPair_cores {s t : State} {i : Nat} {a : Agu} {k v : W32} (h : s.spillPair i a k v = .ok t) : t.cores = s.cores := by
  unfold State.spillPair at h
  split at h
  · cases h
  · exact State.pushQueue_cores h

@[simp] theorem State.spillWaits_regWindows (s : State) (i : Nat) (p_ : Queued) : regWindows (s.spillWaits i p_).cores = regWindows s.cores := by
  unfold State.spillWaits
  split <;> simp

@[simp] theorem State.applyRow_regWindows (s : State) (i : Nat) (ps : List (W32 × W32)) :
    regWindows (s.applyRow i ps).cores = regWindows s.cores := by
  induction ps generalizing s with
  | nil => rfl
  | cons p ps ih =>
    rw [State.applyRow]
    dsimp only
    split
    · next h => rw [ih, State.setAgu_cores, State.applyPair_cores h]
    · split
      · next h => rw [ih, State.setAgu_cores, State.spillPair_cores h]
      · simp

@[simp] theorem State.streamKeyed_regWindows (s : State) (i : Nat) : regWindows (s.streamKeyed i).cores = regWindows s.cores := by
  unfold State.streamKeyed
  dsimp only
  split
  · simp
  · split
    · split
      · rfl
      · split
        · next h => rw [State.setAgu_cores, State.spillPair_cores h]
        · simp
    · split
      · simp
      · split <;> simp

@[simp] theorem execStreamElementAccess_legal {s : State} (hs : LegalCores s.cores) (i : Nat) : Out.Legal (execStreamElementAccess i s) := by
  unfold execStreamElementAccess
  dsimp only
  (repeat' split) <;> simp [hs]

@[simp] theorem execCopyOnWrite_legal {s : State} (hs : LegalCores s.cores) (i : Nat) : Out.Legal (execCopyOnWrite i s) := by
  unfold execCopyOnWrite
  dsimp only
  (repeat' split) <;> simp [hs]

@[simp] theorem execPortQueueFill_legal {s : State} (hs : LegalCores s.cores) (g port : Nat) : Out.Legal (execPortQueueFill g port s) := by
  unfold execPortQueueFill
  dsimp only
  split
  · split
    · simp [hs]
    · split
      · next h => simpa [State.popQueue_regWindows h] using hs
      · simp [hs]
      · simp [hs]
  · simp [hs]

@[simp] theorem execPortQueuePush_legal {s : State} (hs : LegalCores s.cores) (g port : Nat) : Out.Legal (execPortQueuePush g port s) := by
  unfold execPortQueuePush
  dsimp only
  split
  · split
    · simp [hs]
    · split
      · next h => simpa [State.pushQueue_cores h] using hs
      · split <;> simp [hs]
      · simp [hs]
  · simp [hs]

/-! ### The part and its surroundings -/

@[simp] theorem State.startCores_regWindows (s : State) : regWindows s.startCores.cores = regWindows s.cores := 
  State.each_regWindows _ _ _ fun _ _ => State.regWindows_setCore _ _ _ rfl rfl rfl

@[simp] theorem State.cleared_legal (s : State) : LegalCores s.cleared.cores := fun n => by
  show Core.reset.window.Legal
  simp [RegWindow.Legal, Core.window, Core.reset]

@[simp] theorem State.bootNote_cores (s : State) (step : Nat) (ok : Bool) : (s.bootNote step ok).cores = s.cores := by simp [State.bootNote]

@[simp] theorem State.bootDone_cores (s : State) (step : Nat) : (s.bootDone step).cores = s.cores := by simp [State.bootDone]

@[simp] theorem State.bootFail_cores (s : State) (step : Nat) : (s.bootFail step).cores = s.cores := by simp [State.bootFail]

@[simp] theorem State.selfTest_cores (s : State) (r : BootArgs) : (s.selfTest r).cores = s.cores := by simp [State.selfTest]

@[simp] theorem State.presentMap_cores (s : State) : s.presentMap.cores = s.cores := by simp [State.presentMap]

@[simp] theorem State.numberPackages_cores (s : State) (r : BootArgs) : (s.numberPackages r).cores = s.cores := by simp [State.numberPackages]

@[simp] theorem State.bootNext_regWindows (s : State) (r : BootArgs) : regWindows (s.bootNext r).cores = regWindows s.cores := by
  unfold State.bootNext
  (repeat' split) <;> simp

@[simp] theorem State.hostWrite_regWindows (s : State) (pa : Nat) (bs : List Byte) : regWindows (s.hostWrite pa bs).cores = regWindows s.cores := by
  unfold State.hostWrite
  dsimp only
  split
  · split <;> simp
  · split
    · split <;> simp
    · cases h : State.physWrite _ pa bs with
      | none => rfl
      | some t =>
        rw [Option.getD_some, State.physWrite_cores h]
        split <;> simp

@[simp] theorem State.hostRead_regWindows (s : State) (pa n : Nat) : regWindows (s.hostRead pa n).cores = regWindows s.cores := by
  unfold State.hostRead
  (repeat' split) <;> simp

@[simp] theorem State.hostDo_regWindows (s : State) (pa n : Nat) (bs : List Byte) : regWindows (s.hostDo pa n bs).cores = regWindows s.cores := by
  simp [State.hostDo]

@[simp] theorem State.hostAccess_regWindows (s : State) (pa n : Nat) (bs : List Byte) :
    regWindows (s.hostAccess pa n bs).cores = regWindows s.cores := by
  simp [State.hostAccess]

@[simp] theorem State.flushLate_regWindows (s : State) : regWindows s.flushLate.cores = regWindows s.cores := by
  unfold State.flushLate
  refine regWindows_foldl _ _ _ fun u w => ?_
  split
  · simp
  · split <;> simp

@[simp] theorem State.alarmRegion_regWindows (s : State) (g : Nat) : regWindows (s.alarmRegion g).cores = regWindows s.cores := by
  unfold State.alarmRegion
  dsimp only
  split <;> simp

@[simp] theorem State.haltStores_cores (s : State) : s.haltStores.cores = s.cores := by simp [State.haltStores]

@[simp] theorem State.eraseKeys_cores (s : State) (source : Nat) : (s.eraseKeys source).cores = s.cores := by simp [State.eraseKeys]

@[simp] theorem State.alarmSource_cores (s : State) (n : Nat) : (s.alarmSource n).cores = s.cores := by simp [State.alarmSource]

@[simp] theorem State.lowerAlarm_regWindows (s : State) (n k : Nat) : regWindows (s.lowerAlarm n k).cores = regWindows s.cores := by
  unfold State.lowerAlarm
  dsimp only
  split <;> simp

@[simp] theorem State.alarmEnd_cores (s : State) : s.alarmEnd.cores = s.cores := by simp [State.alarmEnd]

@[simp] theorem State.powerTo_legal (s : State) (on : Bool) : LegalCores (s.powerTo on).cores := by simp [State.powerTo]

@[simp] theorem execPowerOn_legal {s : State} (hs : LegalCores s.cores) (r : BootArgs) : Out.Legal (execPowerOn r s) := by
  unfold execPowerOn
  split <;> simp [hs]

@[simp] theorem State.spanWaits_regWindows (s : State) (f : Nat × Bool → Option (Nat × Bool)) :
    regWindows (s.spanWaits f).cores = regWindows s.cores :=
  regWindows_mapVal (fun c => { c with span := c.span.bind f }) _ rfl fun _ => rfl

@[simp] theorem State.loseReads_cores (s : State) (p : Nat) : (s.loseReads p).cores = s.cores := by simp [State.loseReads]

@[simp] theorem State.askFreq_cores (s : State) (d f : Nat) : (s.askFreq d f).cores = s.cores := by simp [State.askFreq]

@[simp] theorem State.capDie_cores (s : State) (d : Nat) : (s.capDie d).cores = s.cores := by simp [State.capDie]

/-! ### The turns of the other agents -/

@[simp] theorem State.noteInput_regWindows (s0 : State) (l : Nat) : regWindows (s0.noteInput l).cores = regWindows s0.cores := by
  simp [State.noteInput]

@[simp] theorem State.tickPending_regWindows (s : State) (l : Nat) : regWindows (s.tickPending l).cores = regWindows s.cores := by
  simp [State.tickPending]

@[simp] theorem State.tickQueue_cores (s : State) (q : Nat) : (s.tickQueue q).cores = s.cores := by simp [State.tickQueue]

@[simp] theorem State.tickClock_regWindows (s : State) : regWindows s.tickClock.cores = regWindows s.cores := by simp [State.tickClock]

@[simp] theorem execSnapshotLatch_legal {s : State} (hs : LegalCores s.cores) : Out.Legal (execSnapshotLatch s) := by simp [execSnapshotLatch, hs]

end Sys2Proof.Machine
end

section
/-! SUPPORT. The windows of the cores in every step (O59). -/

namespace Sys2Proof.Machine

/-! ### The words and the events of the part -/

@[simp] theorem exec_legal {s : State} (hs : LegalCores s.cores) (i : Instr) : Out.Legal (exec i s) := by
  cases i with
  | add | sub | and | or | xor | shl | shr | sra | mul | mulhI64 | mulhN64 | divI64 | divN64 | remI64 | remN64 | minI64 | maxI64 |
    minN64 | maxN64 | cmpeq | cmpne | cmplt | cmpge | cmpltN64 | cmpgeN64 | clz | ctz | popc | andn | orn | sel | pand | por | pxor |
    pnot =>
    simp [exec, execAdd, execSub, execAnd, execOr, execXor, execShl, execShr, execSra, execMul, execMulhI64, execMulhN64, execDivI64, execDivN64,
      execRemI64, execRemN64, execMinI64, execMaxI64, execMinN64, execMaxN64, execCmpeq, execCmpne, execCmplt, execCmpge, execCmpltN64,
      execCmpgeN64, execClz, execCtz, execPopc, execAndn, execOrn, execSel, execPand, execPor, execPxor, execPnot, hs]
  | addi | addiExt | subi | subiExt | andi | andiExt | ori | oriExt | xori | xoriExt | shli | shri | srai | muli | muliExt | cmpeqi |
    cmpeqiExt | cmpnei | cmpneiExt | cmplti | cmpltiExt | cmpgei | cmpgeiExt | cmpltiN64 | cmpltiN64Ext | cmpgeiN64 | cmpgeiN64Ext =>
    simp [exec, execAddi, execAddiExt, execSubi, execSubiExt, execAndi, execAndiExt, execOri, execOriExt, execXori, execXoriExt, execShli,
      execShri, execSrai, execMuli, execMuliExt, execCmpeqi, execCmpeqiExt, execCmpnei, execCmpneiExt, execCmplti, execCmpltiExt,
      execCmpgei, execCmpgeiExt, execCmpltiN64, execCmpltiN64Ext, execCmpgeiN64, execCmpgeiN64Ext, hs]
  | br | brExt | brn | brnExt | jmp | jmpExt | call | callExt | jmpr | callr =>
    simp [exec, execBr, execBrExt, execBrn, execBrnExt, execJmp, execJmpExt, execCall, execCallExt, execJmpr, execCallr, hs]
  | ldI8 | ldI8Ext | ldI16 | ldI16Ext | ldI32 | ldI32Ext | ldI64 | ldI64Ext | ldN8 | ldN8Ext | ldN16 | ldN16Ext | ldN32 | ldN32Ext |
    ldN64 | ldN64Ext | st8 | st8Ext | st16 | st16Ext | st32 | st32Ext | st64 | st64Ext | ldp | ldpExt | stp | stpExt =>
    simp [exec, execLdI8, execLdI8Ext, execLdI16, execLdI16Ext, execLdI32, execLdI32Ext, execLdI64, execLdI64Ext, execLdN8, execLdN8Ext,
      execLdN16, execLdN16Ext, execLdN32, execLdN32Ext, execLdN64, execLdN64Ext, execSt8, execSt8Ext, execSt16, execSt16Ext, execSt32,
      execSt32Ext, execSt64, execSt64Ext, execLdp, execLdpExt, execStp, execStpExt, hs]
  | copy | copyExt | copyRed =>
    simp [exec, execCopy, execCopyExt, execCopyRed, hs]
  | amoadd | amoand | amoor | amoxor | amomaxI | amominI | amomaxN | amominN | amoswap | amocas =>
    simp [exec, execAmoadd, execAmoand, execAmoor, execAmoxor, execAmomaxI, execAmominI, execAmomaxN, execAmominN, execAmoswap, execAmocas, hs]
  | fence | fenceAcq | fenceRel | fencePath | fenceWin | phadd | phrd | snap | snaprd =>
    simp [exec, execFence, execFenceAcq, execFenceRel, execFencePath, execFenceWin, execPhadd, execPhrd, execSnap, execSnaprd, hs]
  | sgo | sbar | streamStart | streamCompletion =>
    simp [exec, execSgo, execSbar, execStreamStart, execStreamCompletion, hs]
  | tload | tq =>
    simp [exec, execTload, execTq, hs]
  | trap | tret | waitt | tlbinvPg | tlbinvCx | tlbinvAll | idle =>
    simp [exec, execTrap, execTret, execWaitt, execTlbinvPg, execTlbinvCx, execTlbinvAll, execIdle, hs]
  | stepRow | loopRow | mpass | form | reconf | barrier | commit | waitq | endRow =>
    simp [exec, execStepRow, execLoopRow, execMpass, execForm, execReconf, execBarrier, execCommit, execWaitq, execEndRow, hs]
  | replayCtrlWrite | scanRequest =>
    simp [exec, execReplayCtrlWrite, execScanRequest, hs]
  | coreReset | firmwareImageUpdate | configurationRecordUpdate | hostAccess | securityAlarm | spanLinkLoss | spanUnreachable |
    ethernetMessageCompletion | linkWidthChange | frequencyChange | powerCap | thermalLimit | spanLinkRetrain | powerLoss =>
    simp [exec, execCoreReset, execFirmwareImageUpdate, execConfigurationRecordUpdate, execHostAccess, execSecurityAlarm, execSpanLinkLoss,
      execSpanUnreachable, execEthernetMessageCompletion, execLinkWidthChange, execFrequencyChange, execPowerCap, execThermalLimit,
      execSpanLinkRetrain, execPowerLoss, hs]
  | doorbell | dispatcherWindowWrite | teardown | queueLevelRaise =>
    simp [exec, execDoorbell, execDispatcherWindowWrite, execTeardown, execQueueLevelRaise, hs]
  | irsum | irmax | gather | axpy | imac | relayout =>
    simp [exec, execIrsum, execIrmax, execGather, execAxpy, execImac, execRelayout, hs]
  | addI32 | subI32 | mulI32 | mulhI32 | mulhN32 | madI32 | minI32 | maxI32 | minN32 | maxN32 | absI32 | addsI32 | subsI32 | addsN32 |
    subsN32 | eAnd | eOr | eXor | eAndn | eShl | eShr | eSra | rol | ePopc | eClz | eCtz | bfx | bfi =>
    simp [exec, execAddI32, execSubI32, execMulI32, execMulhI32, execMulhN32, execMadI32, execMinI32, execMaxI32, execMinN32, execMaxN32,
      execAbsI32, execAddsI32, execSubsI32, execAddsN32, execSubsN32, execEAnd, execEOr, execEXor, execEAndn, execEShl, execEShr,
      execESra, execRol, execEPopc, execEClz, execECtz, execBfx, execBfi, hs]
  | addF32 | subF32 | mulF32 | fmaF32 | fnmaF32 | minF32 | maxF32 | divF32 | sqrtF32 | absF32 | negF32 | addF16 | mulF16 | fmaF16 |
    fmaBf16 | cvtF32I32 | cvtF32N32 | cvtI32F32 | cvtN32F32 | cvtF16F32 | cvtF16F32Sat | cvtBf16F32 | cvtBf16F32Sat | cvtE4m3F32 |
    cvtE4m3F32Sat | cvtE5m2F32 | cvtE5m2F32Sat | cvtF32F16 | cvtF32Bf16 | cvtF32E4m3 | cvtF32E5m2 =>
    simp [exec, execAddF32, execSubF32, execMulF32, execFmaF32, execFnmaF32, execMinF32, execMaxF32, execDivF32, execSqrtF32, execAbsF32,
      execNegF32, execAddF16, execMulF16, execFmaF16, execFmaBf16, execCvtF32I32, execCvtF32N32, execCvtI32F32, execCvtN32F32,
      execCvtF16F32, execCvtF16F32Sat, execCvtBf16F32, execCvtBf16F32Sat, execCvtE4m3F32, execCvtE4m3F32Sat, execCvtE5m2F32,
      execCvtE5m2F32Sat, execCvtF32F16, execCvtF32Bf16, execCvtF32E4m3, execCvtF32E5m2, hs]
  | pshift | pst | rule | pquiet | pbi | paddI16 | psubI16 | ePand | ePor | ePxor =>
    simp [exec, execPshift, execPst, execRule, execPquiet, execPbi, execPaddI16, execPsubI16, execEPand, execEPor, execEPxor, hs]
  | eSel | cmpeqI32 | cmpltI32 | cmpleI32 | cmpltN32 | cmpleN32 | cmpeqF32 | cmpltF32 | cmpleF32 | cmpunF32 | mand | mor | mxor | mnot |
    mlane | exitf | eNop | eMov | lane | iter | rdst | clrst | kbsel =>
    simp [exec, execESel, execCmpeqI32, execCmpltI32, execCmpleI32, execCmpltN32, execCmpleN32, execCmpeqF32, execCmpltF32, execCmpleF32,
      execCmpunF32, execMand, execMor, execMxor, execMnot, execMlane, execExitf, execENop, execEMov, execLane, execIter, execRdst,
      execClrst, execKbsel, hs]
  | lrecv | lpoll =>
    simp [exec, execLrecv, execLpoll, hs]
  | sldN32 | sldN16 | sldI16 | sstN32 | sstN16 =>
    simp [exec, execSldN32, execSldN16, execSldI16, execSstN32, execSstN16, hs]
  | mfa | mfb | mfas | mfbs | ard | awr | aclr =>
    simp [exec, execMfa, execMfb, execMfas, execMfbs, execArd, execAwr, execAclr, hs]
  | rmarch | rsamp | rrecv =>
    simp [exec, execRmarch, execRsamp, execRrecv, hs]
  | idleWake =>
    simp [exec, execIdleWake, hs]
  | ret | launch | sbind | qpush | qpop | qcount | ctxload | rtload | palload | ownload | nmload | nmcall | fsinit | fsupd | fsddt |
    fssolve | fsscale | fsread | fswrite | fslogdet | phset | btalloc | btfork | btdrop | btdemote | btpromote | swbind | mfsr | mtsr |
    treen | endl | exitRow | epil | nWord | wordResultLanding | linkSlotFill | iterationAdmission | formSettlingEnd | implicitClose |
    commitWindowClose | matrixGroupSnapshot | matrixGroupLanding | clockGate | scanRelease | asyncTrapDelivery | copyCompletion |
    recordRejection | recordTake | placement | resumption | tileTaskStart | tileTaskBoundary | preemptionRequest | preemption |
    inPlaceSwitch | rePlacement | streamElementAccess | copyOnWrite | demotionCompletion | promotionCompletion | portQueueFill |
    portQueuePush | sampleArrival | blend | commandAcceptance | tqCommand | tloadCommand | snapshotLatch | powerOn | pld | pbx | stin |
    fragout =>
    simp [exec, hs]

/-! ### Registers, memory and reports -/

@[simp] theorem State.upset_cores (s : State) (w : Nat) (v : W32) (m : BitVec 4) : (s.upset w v m).cores = s.cores := by simp [State.upset]

@[simp] theorem State.catchUp_cores (s : State) (i : Nat) : (s.catchUp i).cores = s.cores := by
  unfold State.catchUp
  split <;> simp

/-! ### A core between two words -/

@[simp] theorem State.fetchNote_regWindows (s : State) (n va : Nat) : regWindows (s.fetchNote n va).cores = regWindows s.cores := by
  unfold State.fetchNote
  split <;> simp

@[simp] theorem State.fetched_regWindows (s : State) (n w : Nat) : regWindows (s.fetched n w).cores = regWindows s.cores := by simp [State.fetched]

@[simp] theorem State.fetchFailed_regWindows (s : State) (n : Nat) (va : W64) : regWindows (s.fetchFailed n va).cores = regWindows s.cores := by
  simp [State.fetchFailed]

/-! ### Landings -/

theorem State.landNext_cores {s t : State} {g : Nat} (h : s.landNext g = some t) : t.cores = s.cores := by
  unfold State.landNext at h
  split at h
  · next hr => cases h; exact State.landFirst_cores hr
  · exact State.landFirst_cores h

/-! ### Placement, pre-emption and resumption -/

@[simp] theorem State.formStop_cores (s : State) (g : Nat) : (s.formStop g).cores = s.cores := by simp [State.formStop]

@[simp] theorem switchTurn_legal {s : State} (hs : LegalCores s.cores) (g : Nat) : Out.Legal (switchTurn g s) := by
  unfold switchTurn
  dsimp only
  (repeat' split) <;> simp [hs]

/-! ### Background copies -/

@[simp] theorem State.moveGranule_regWindows (s : State) (i k : Nat) : regWindows (s.moveGranule i k).cores = regWindows s.cores := by
  unfold State.moveGranule
  split <;> simp

/-! ### One region cycle -/

/-- An E-word of an opcode is that of the instruction of the opcode map, or none (R64). -/
theorem elementWord_eq (op : Nat) (w : EArgs) (s : State) : elementWord op w s = (eCtor op).elim (.next s) fun f => exec (f w) s := by
  unfold elementWord
  split
  case h_114 => simp [eCtor, *]
  all_goals rfl

@[simp] theorem elementWord_legal {s : State} (hs : LegalCores s.cores) (op : Nat) (w : EArgs) : Out.Legal (elementWord op w s) := by
  rw [elementWord_eq]
  cases eCtor op with
  | none => exact (Out.legal_next s).2 hs
  | some f => exact exec_legal hs (f w)

/-- The meaning of a row is that of its instruction; what is no row has none (R68). -/
theorem rowMeaning_eq (i : Instr) (s : State) : rowMeaning i s = exec i s ∨ rowMeaning i s = .next s := by
  unfold rowMeaning
  split <;> simp [exec]

@[simp] theorem rowMeaning_legal {s : State} (hs : LegalCores s.cores) (i : Instr) : Out.Legal (rowMeaning i s) := by
  obtain h | h := rowMeaning_eq i s
  · rw [h]; exact exec_legal hs i
  · rw [h]; exact (Out.legal_next s).2 hs

@[simp] theorem State.issueRow_legal {s : State} (hs : LegalCores s.cores) (g ix : Nat) : Out.Legal (s.issueRow g ix) := by
  unfold State.issueRow
  dsimp only
  split
  · simp [hs]
  · next i _ =>
    have hrow := rowMeaning_legal (s := { ((s.setRegion g { s.region g with rowix := ix, relapsed := 0, started := true }).count
      (0x100 + 16 * (g / 128) + 1) 1) with site := { Site.reset with g := g } }) (by simpa using hs) i
    cases h : rowMeaning i _ with
    | next u =>
      rw [h, Out.legal_next] at hrow
      dsimp only
      split <;> simpa using hrow
    | fault => simp
    | refused => simp

@[simp] theorem State.testWords_cores (s : State) (g : Nat) : (s.testWords g).cores = s.cores := by
  unfold State.testWords
  dsimp only
  (repeat' split) <;> simp

@[simp] theorem State.runWord_legal {s : State} (hs : LegalCores s.cores) (g el entry tag : Nat) (iter : Option Int) (null : Bool) :
    Out.Legal (s.runWord g el entry tag iter null) := by
  unfold State.runWord
  dsimp only
  split <;> simp [hs]

@[simp] theorem State.tickFreeze_legal {s : State} (hs : LegalCores s.cores) (g : Nat) (held : Bool) : Out.Legal (s.tickFreeze g held) := by
  unfold State.tickFreeze
  dsimp only
  split
  · simp [hs]
  · exact execClockGate_legal (by simpa using hs) _

@[simp] theorem State.endCycle_legal {s : State} (hs : LegalCores s.cores) (g : Nat) : Out.Legal (s.endCycle g) := by
  unfold State.endCycle
  refine Out.legal_then ?_ fun t ht => Out.legal_then (by simp [ht]) fun u hu => State.tickFreeze_legal (by simpa using hu) g _
  split <;> simp [hs]

@[simp] theorem Out.all_legal {α : Type} {s : State} (hs : LegalCores s.cores) (xs : List α) {f : α → State → Out}
    (hf : ∀ x t, LegalCores t.cores → (f x t).Legal) :
    (Out.all s xs f).Legal :=
  List.foldlRecOn (motive := Out.Legal) xs _ ((Out.legal_next s).2 hs) fun _ ho x _ => Out.legal_then ho (hf x)

@[simp] theorem State.landItem_cores (s : State) (g : Nat) : (s.landItem g).cores = s.cores := by
  unfold State.landItem
  split
  · next h => rw [State.setRegion_cores, State.landNext_cores h]
  · rfl

@[simp] theorem State.bankCheck_cores (s : State) (g : Nat) : (s.bankCheck g).cores = s.cores := by simp [State.bankCheck]

@[simp] theorem State.workItem_legal {s : State} (hs : LegalCores s.cores) (g : Nat) (x : Work) : Out.Legal (s.workItem g x) := by
  unfold State.workItem
  split
  · simp [hs]
  · exact Out.all_legal (by simpa using hs) _ fun x t ht => by simp [ht]
  · dsimp only
    split <;> simp [hs]
  · simp [hs]
  · simp [hs]
  · exact Out.all_legal hs _ fun x t ht => by simp [ht]
  · simp [hs]
  · simp [hs]
  · simp [hs]

@[simp] theorem State.cycleTurn_legal {s : State} (hs : LegalCores s.cores) (g : Nat) : Out.Legal (s.cycleTurn g) := by
  unfold State.cycleTurn
  dsimp only
  split
  · simp [hs]
  · split
    · simp [hs]
    · split
      · simp [hs]
      · exact State.workItem_legal (by simpa using hs) _ _

/-! ### The turns of the other agents -/

@[simp] theorem State.idleCycle_legal {s : State} (hs : LegalCores s.cores) (g : Nat) {next : State → Out}
    (hn : ∀ t, LegalCores t.cores → (next t).Legal) :
    Out.Legal (s.idleCycle g next) :=
  Out.legal_then (State.tickFreeze_legal (by simpa using hs) g true) hn

@[simp] theorem State.waitCycle_legal {s : State} (hs : LegalCores s.cores) (g : Nat) {next : State → Out}
    (hn : ∀ t, LegalCores t.cores → (next t).Legal) :
    Out.Legal (s.waitCycle g next) :=
  Out.legal_then (Out.legal_then (State.tickFreeze_legal (by simpa using hs) g false) hn) fun t ht => by
    rw [Out.legal_next]; split <;> simpa using ht

@[simp] theorem State.pollCtrl_regWindows (s : State) (g : Nat) : regWindows (s.pollCtrl g).cores = regWindows s.cores := by
  unfold State.pollCtrl
  split <;> simp

@[simp] theorem State.failedCycle_regWindows (s : State) (g : Nat) : regWindows (s.failedCycle g).cores = regWindows s.cores := by
  simp [State.failedCycle]

@[simp] theorem regionTurn_legal {s : State} (hs : LegalCores s.cores) (g : Nat) : Out.Legal (regionTurn g s) := by
  unfold regionTurn
  split
  · simp [hs]
  · exact State.idleCycle_legal hs g fun t ht => by simp [ht]
  · exact Out.legal_then (State.cycleTurn_legal hs g) fun t ht => by simpa using ht
  · exact State.cycleTurn_legal hs g
  · exact State.waitCycle_legal hs g fun t ht => by simp [ht]
  · exact State.waitCycle_legal hs g fun t ht => by split <;> simp [ht]
  · exact State.idleCycle_legal hs g fun t ht => by simpa using ht
  · simp [hs]
  · simp [hs]

@[simp] theorem standardEntry_legal {s : State} (hs : LegalCores s.cores) (n u : Nat) : Out.Legal (standardEntry n u s) := by
  unfold standardEntry
  split
  · exact exec_legal hs (.irsum u)
  · exact exec_legal hs (.irmax u)
  · exact exec_legal hs (.gather u)
  · exact exec_legal hs (.axpy u)
  · exact exec_legal hs (.imac u)
  · exact exec_legal hs (.relayout u)
  · exact (Out.legal_next s).2 hs

@[simp] theorem nWordMeaning_legal {s : State} (hs : LegalCores s.cores) (i : Instr) : Out.Legal (nWordMeaning i s) := by
  unfold nWordMeaning
  split <;> simp [hs]

@[simp] theorem unitTurn_legal {s : State} (hs : LegalCores s.cores) (u : Nat) : Out.Legal (unitTurn u s) := by
  unfold unitTurn
  dsimp only
  (repeat' split) <;> simp [hs]

@[simp] theorem clockTurn_legal {s : State} (hs : LegalCores s.cores) : Out.Legal (clockTurn s) := by simp [clockTurn, hs]

@[simp] theorem State.tlbFill_cores (s : State) (who c va : Nat) : (s.tlbFill who c va).cores = s.cores := by
  unfold State.tlbFill
  (repeat' split) <;> simp

/-! ### The turns of the cores -/

@[simp] theorem State.enter_regWindows (s : State) (n : Nat) : regWindows (s.enter n).cores = regWindows s.cores := by simp [State.enter]

@[simp] theorem State.runWordC_legal {s : State} (hs : LegalCores s.cores) (w e : Nat) : Out.Legal (s.runWordC w e) := by
  unfold State.runWordC
  split <;> simp [hs]

@[simp] theorem coreTurn_legal {s : State} (hs : LegalCores s.cores) (n : Nat) : Out.Legal (coreTurn n s) := by
  unfold coreTurn
  dsimp only
  (repeat' split) <;> simp [hs]

@[simp] theorem turn_legal {s : State} (hs : LegalCores s.cores) (x : Turn) : Out.Legal (turn x s) := by
  unfold turn
  split <;> simp [hs]

/-! ### One step of the part -/

@[simp] theorem step_legal {s : State} (hs : LegalCores s.cores) : Out.Legal (step s) := by
  unfold step
  split <;> simp [hs]

/-! ### The invariant -/

/-- Settles O59: the windows of reset are legal, and no step of any agent makes an illegal one of them. -/
theorem windowKept : Obligations.WindowKept := by
  unfold Obligations.WindowKept
  exact ⟨fun n => State.cleared_legal State.reset n, fun s t hs h => step_legal (s := s) hs t h⟩

end Sys2Proof.Machine
end

section
/-! SUPPORT. The reset values (R76-R78, R265): what holds of the items that nothing has written. -/

namespace Sys2Proof.Machine

/-- Below the LP tier, and from the memory ports up to the package's span, a byte that nothing has written reads 0 (R265). -/
theorem memDefault_eq_zero {x : Nat} (h : x < lpBase ∨ portBase ≤ x ∧ x < spanBase) : memDefault x = 0 := by
  unfold memDefault
  split
  · rfl
  · split
    · omega
    · split
      · rfl
      · omega

theorem State.readCell_reset (x : Nat) : State.reset.readCell x = memDefault x := rfl

/-- Settles O55: an item that nothing has written is its reset value, and each of these holds what the manual gives. -/
theorem resetValues : Obligations.ResetValues := by
  unfold Obligations.ResetValues
  -- cores
  refine ⟨fun n k => ⟨ite_self _, rfl, rfl⟩, fun n q => BitVec.getLsbD_zero,
    fun n => ⟨rfl, rfl, rfl, rfl, rfl, rfl, rfl, rfl, rfl, rfl, rfl, rfl, rfl⟩, fun n k => ⟨rfl, rfl⟩, ?_⟩
  -- elements and tiles
  refine ⟨fun n k => ⟨rfl, rfl, rfl, rfl, rfl, BitVec.getLsbD_zero⟩, fun n d => ⟨rfl, rfl⟩, fun n => rfl,
    fun n k => ⟨rfl, rfl, rfl, rfl, rfl, rfl⟩, fun n => ⟨rfl, rfl⟩, ?_⟩
  -- regions
  refine ⟨fun n => ⟨rfl, rfl, rfl, rfl, rfl, rfl, rfl⟩, fun n k => ⟨rfl, rfl, BitVec.getLsbD_zero, rfl⟩, ?_⟩
  -- queues, contexts, phases, streams and loads
  refine ⟨fun n => ⟨rfl, rfl, rfl⟩, fun n => ⟨rfl, rfl, rfl⟩, fun n => ⟨rfl, rfl, rfl, rfl⟩, fun n => ⟨rfl, rfl, rfl, rfl, rfl⟩,
    fun n h => LoadSt.noConfusion h, fun n => rfl, rfl, ?_⟩
  -- near-memory units, tables, factor stores and the screen
  refine ⟨fun n => ⟨rfl, rfl, rfl, rfl, rfl, rfl, rfl, rfl⟩, fun n k => ⟨rfl, rfl, rfl, rfl, rfl⟩, fun n k => rfl,
    fun n => ⟨rfl, rfl, rfl, rfl, rfl⟩, fun n k => ⟨rfl, rfl⟩, fun n => ⟨rfl, rfl⟩, BitVec.getLsbD_zero, ?_⟩
  -- counters and memory
  exact ⟨rfl, rfl, rfl, rfl, fun n => ⟨rfl, rfl, rfl⟩,
    fun x _ hhi => (State.readCell_reset x).trans (memDefault_eq_zero (.inl hhi)),
    fun x hlo hhi => (State.readCell_reset x).trans (memDefault_eq_zero (.inr ⟨hlo, hhi⟩)), fun n => rfl, rfl⟩

end Sys2Proof.Machine
end

section
/-! SUPPORT. The system registers (R78, R108, R112): reserved bits, the rows of the table, and the words that read and write it. -/

namespace Sys2Proof.Machine

/-! ### Reserved bits -/

theorem getLsbD_keepBits (v : W64) (hi lo i : Nat) :
    (keepBits v hi lo).getLsbD i = (decide (i < 64 ∧ lo ≤ i ∧ i < hi + 1) && v.getLsbD i) := by
  rw [keepBits, BitVec.getLsbD_ofNat, fld, Nat.testBit_mul_two_pow, Nat.testBit_mod_two_pow, Nat.testBit_div_two_pow, BitVec.getLsbD]
  by_cases hlo : lo ≤ i
  · have hlt : i - lo < hi + 1 - lo ↔ i < hi + 1 := by omega
    simp [hlo, hlt, Nat.sub_add_cancel hlo, Bool.and_assoc]
  · simp [hlo]

/-- Reserved bits are masked: the mask is what is kept of a word of ones. -/
theorem keepBits_eq_and (v : W64) (hi lo : Nat) : keepBits v hi lo = v &&& keepBits (BitVec.allOnes 64) hi lo := by
  refine BitVec.eq_of_getLsbD_eq fun i hi => ?_
  rw [BitVec.getLsbD_and, getLsbD_keepBits, getLsbD_keepBits, BitVec.getLsbD_allOnes]
  simp [hi, Bool.and_comm]

/-- The group field of a word, bits [7:3] (R78). -/
theorem fld_groups (v : W64) : fld v.toNat 3 5 * 8 = (v &&& 0xF8).toNat := by
  have h : v &&& 0xF8 = keepBits v 7 3 := (keepBits_eq_and v 7 3).symm
  have hlt : fld v.toNat 3 5 < 32 := Nat.mod_lt _ (by decide)
  rw [h, keepBits, BitVec.toNat_ofNat]
  exact (Nat.mod_eq_of_lt (show fld v.toNat 3 5 * 8 < 2 ^ 64 by omega)).symm

/-! ### The table of R78 -/

/-- A row of the table is a register: its number, its value and what a write of it leaves. -/
theorem sysTable_row {p : Nat × (Core → W64) × (Bool → W64 → Core → Core)} (hp : p ∈ sysTable) :
    ∃ r, sysRegOf p.1 = some r ∧ (∀ c : Core, c.readSys r = p.2.1 c) ∧ ∀ (c : Core) sup v, c.writeSys sup r v = p.2.2 sup v c := by
  simp only [sysTable, List.cons_append, List.nil_append, List.mem_cons, List.not_mem_nil, or_false] at hp
  obtain rfl | rfl | rfl | rfl | rfl | rfl | rfl | rfl | rfl | rfl | rfl | rfl | rfl | rfl := hp
  · exact ⟨.cstat, rfl, fun _ => rfl, fun c _ v => congrArg (fun x => { c with cstat := x }) (keepBits_eq_and v 1 0)⟩
  · exact ⟨.tepc, rfl, fun _ => rfl, fun _ _ _ => rfl⟩
  · exact ⟨.tcause, rfl, fun _ => rfl, fun c _ v => congrArg (fun x => { c with tcause := x }) (keepBits_eq_and v 15 0)⟩
  · exact ⟨.tval, rfl, fun _ => rfl, fun _ _ _ => rfl⟩
  · exact ⟨.tstat, rfl, fun _ => rfl, fun _ _ _ => rfl⟩
  · exact ⟨.tvec, rfl, fun _ => rfl, fun c _ v => congrArg (fun x => { c with tvec := x }) (keepBits_eq_and v 63 2)⟩
  · exact ⟨.wbase, rfl, fun _ => rfl, fun c _ v => congrArg (fun x => { c with wbase := BitVec.ofNat 8 x }) (fld_groups v)⟩
  · exact ⟨.wfill, rfl, fun _ => rfl, fun c _ v => congrArg (fun x => { c with wfill := BitVec.ofNat 8 (min x 224) }) (fld_groups v)⟩
  · refine ⟨.splb, rfl, fun _ => rfl, fun c sup v => ?_⟩
    cases sup
    · exact congrArg (fun x => { c with splb := x }) (keepBits_eq_and v 18 3)
    · exact congrArg (fun x => { c with splb := x }) (keepBits_eq_and v 55 3)
  · refine ⟨.spll, rfl, fun _ => rfl, fun c sup v => ?_⟩
    cases sup
    · exact congrArg (fun x => { c with spll := x }) (keepBits_eq_and v 19 3)
    · exact congrArg (fun x => { c with spll := x }) (keepBits_eq_and v 31 3)
  · refine ⟨.spp, rfl, fun _ => rfl, fun c sup v => ?_⟩
    cases sup
    · exact congrArg (fun x => { c with spp := x }) (keepBits_eq_and v 18 3)
    · exact congrArg (fun x => { c with spp := x }) (keepBits_eq_and v 55 3)
  · exact ⟨.ovfp, rfl, fun _ => rfl, fun c _ v => congrArg (fun x => { c with ovfp := x }) (keepBits_eq_and v 55 3)⟩
  · exact ⟨.ovfn, rfl, fun _ => rfl, fun _ _ _ => rfl⟩
  · exact ⟨.ctxid, rfl, fun _ => rfl, fun _ _ _ => rfl⟩

theorem sysRegOf_unlisted {n : Nat} (h : n ∉ sysTable.map (·.1)) : sysRegOf n = none := by
  simp only [sysTable, List.cons_append, List.nil_append, List.map_cons, List.map_nil, List.mem_cons, List.not_mem_nil, or_false, not_or] at h
  unfold sysRegOf
  split <;> simp_all

/-! ### The words -/

theorem execMtsr_user {s : State} {n : BitVec 12} (hn : n.toNat ∈ sysTable.map (·.1)) (hu : s.me.user = true) (ra : SReg) :
    execMtsr n ra s = .next s.privileged := by
  obtain ⟨p, hp, hpn⟩ := List.mem_map.1 hn
  obtain ⟨r, hr, -, -⟩ := sysTable_row hp
  rw [execMtsr, ← hpn, hr]
  exact if_pos hu

theorem execMtsr_priv {s : State} {n : BitVec 12} {r : SysReg} (hr : sysRegOf n.toNat = some r) (hu : s.me.user = false) (ra : SReg) :
    execMtsr n ra s = .next (s.setMe ((s.me.writeSys (isSup s.cur) r (s.readS ra)).advance 4)) := by
  rw [execMtsr, hr]
  exact if_neg (by simp [hu])

theorem State.tlbForm_user {s : State} {bad : Bool} (hb : bad = false) (hu : s.me.user = true) (x : TlbSel) :
    s.tlbForm bad x = .next s.privileged := by
  rw [State.tlbForm, hb, hu]; rfl

theorem Core.writeSys_pc (c : Core) (sup : Bool) (r : SysReg) (v : W64) : (c.writeSys sup r v).pc = c.pc := by cases r <;> rfl

theorem privilegeAndUnlistedRegisters : Claims.PrivilegeAndUnlistedRegisters := by
  intro s rd ra rb n ht
  refine ⟨fun hp => ?_, fun hn => ?_⟩
  · have hu := Core.user_true_of_not_priv hp
    have privileged {o : Out} (h : o = .next s.privileged) : Completes o (TookTrap s 2 (s.ir.setWidth 64) s.me.pc) :=
      ⟨_, h, State.privileged_took ht⟩
    refine ⟨fun hn => privileged (execMtsr_user hn hu ra), privileged (if_pos hu), privileged (if_pos hu),
      privileged (State.tlbForm_user rfl hu _), fun hb => privileged (State.tlbForm_user ?_ hu _),
      fun ha hb => privileged (State.tlbForm_user ?_ hu _)⟩
    · simpa using hb
    · simpa using ⟨ha, hb⟩
  · have illegal {o : Out} (h : o = .next s.illegal) : Completes o (TookTrap s 1 (s.ir.setWidth 64) s.me.pc) :=
      ⟨_, h, State.illegal_took ht⟩
    have hnone := sysRegOf_unlisted hn
    exact ⟨illegal (by rw [exec, execMfsr, hnone]), illegal (by rw [exec, execMtsr, hnone])⟩

theorem systemRegisters : Claims.SystemRegisters := by
  intro s rd ra n p hp hn
  obtain ⟨r, hr, hread, hwrite⟩ := sysTable_row hp
  rw [← hn] at hr
  refine ⟨?_, fun hpriv => ?_⟩
  · rw [← hread, exec, execMfsr, hr]
    exact completes_finish ..
  · refine ⟨_, execMtsr_priv hr (Core.user_false_of_priv hpriv) ra, ?_, fun j hj => State.core_setMe_ne s _ hj, State.setMe_rest s _⟩
    rw [State.me_setMe, Core.advance, Core.writeSys_pc, hwrite]
    rfl

/-- Settles O8: what a mode and a number may do, and every row of R78. -/
theorem systemRegisterForms : Obligations.SystemRegisterForms := ⟨privilegeAndUnlistedRegisters, systemRegisters⟩

end Sys2Proof.Machine
end

section
/-! SUPPORT. Calls, returns, and the spill of a group to the carve-out (R80-R83, R86, R102, R104, R105, R138). -/

namespace Sys2Proof.Machine

/-! ### The scratchpads of control cores (R267) -/

/-- The `n` bytes from `pa` lie in the scratchpads of control cores. -/
def CoreScratch (pa n : Nat) : Prop := coreBase ≤ pa ∧ pa + n ≤ coreBase + 2 ^ 26

theorem State.canon_coreScratch (s : State) {x : Nat} (h : CoreScratch x 1) : s.canon x = some x := by
  obtain ⟨hlo, hhi⟩ := h
  simp only [coreBase] at hlo hhi
  have hcore : (x - coreBase) / 2 ^ 19 < 128 := by simp only [coreBase]; omega
  rw [State.canon, if_neg (by simp only [stackBase]; omega), if_neg (by simp only [portBase]; omega),
    if_neg (by simp only [coreBase]; omega), if_pos (by simp only [planeBase]; omega), if_pos hcore]

theorem State.cells_coreScratch (s : State) {pa n : Nat} (h : CoreScratch pa n) : s.cells pa n = some (List.range' pa n) := by
  induction n generalizing pa with
  | zero => rfl
  | succ n ih =>
    obtain ⟨hlo, hhi⟩ := h
    rw [State.cells, s.canon_coreScratch ⟨hlo, by omega⟩, ih ⟨by omega, by omega⟩]
    rfl

theorem State.liveCells_coreScratch (s : State) {pa n : Nat} (h : CoreScratch pa n) : s.liveCells pa n = some (List.range' pa n) := by
  have hspan : ¬ spanBase ≤ pa := by
    obtain ⟨-, hhi⟩ := h
    simp only [coreBase, spanBase] at hhi ⊢
    omega
  have hheld : s.heldBy pa = none := by
    rw [State.heldBy, State.remoteOf, if_neg fun h => hspan h.1]
  exact State.liveCells_eq hheld (s.cells_coreScratch h)

/-- The counters of plain memory do not count them (R161). -/
theorem State.countMem_coreScratch (s : State) {pa n : Nat} (h : CoreScratch pa n) (w : Bool) : s.countMem (List.range' pa n) w = s := by
  obtain ⟨hlo, hhi⟩ := h
  have hstack (d : Nat) : (List.range' pa n).countP (fun a => isStackCell a && portDieOf a == d) = 0 := by
    refine List.countP_eq_zero.2 fun a ha => ?_
    have := (List.mem_range'_1.1 ha).1
    simp only [coreBase] at hlo
    simp only [isStackCell, lpBase, Bool.and_eq_true, decide_eq_true_eq]
    rintro ⟨⟨-, hlp⟩, -⟩
    have := of_decide_eq_true hlp
    omega
  have hport (d : Nat) : (List.range' pa n).filter (inScratch d) = [] := by
    refine List.filter_eq_nil_iff.2 fun a ha => ?_
    have := (List.mem_range'_1.1 ha).1
    simp only [inScratch, Bool.and_eq_true, decide_eq_true_eq]
    rintro ⟨⟨-, hcore⟩, -⟩
    omega
  have hdie (d : Nat) : s.countDie (List.range' pa n) w d = s := by
    rw [State.countDie]
    simp only [hstack, hport]
    rfl
  exact List.foldlRecOn (motive := fun u => u = s) _ _ rfl fun u hu d _ => by rw [hu, hdie]

/-! ### The record of a group (R83) -/

/-- The words `vs` have been stored from `pa` on, and nothing else of memory changed. -/
structure WordsAt (s : State) (pa : Nat) (vs : List W64) (t : State) : Prop where
  written : ∀ i (hi : i < vs.length), ∀ b < 8, t.readCell (pa + 8 * i + b) = BitVec.ofNat 8 (vs[i].toNat / 256 ^ b)
  cells : ∀ a, a < pa ∨ pa + 8 * vs.length ≤ a → t.readCell a = s.readCell a
  lags : ∀ v a, a < pa ∨ pa + 8 * vs.length ≤ a → v ≠ viewCopy → v ≠ viewUnit → lagAt t.lags v a = lagAt s.lags v a
  rest : t = { s with mem := t.mem, resid := t.resid, lags := t.lags }

theorem Put.word {s t : State} {n pa : Nat} {v : W64} (h : Put s .core n 0 (List.range' pa 8) (leBytes 8 v.toNat) t) : WordsAt s pa [v] t := by
  have hout {a : Nat} (ha : a < pa ∨ pa + 8 * 1 ≤ a) : a ∉ List.range' pa 8 := by rw [List.mem_range'_1]; omega
  refine ⟨fun i hi b hb => ?_, fun a ha => h.cells a (hout ha), fun u a ha h1 h2 => h.lags u a (hout ha) h2 h1, h.rest⟩
  obtain rfl : i = 0 := by simpa using hi
  have hseen : ((List.range' pa 8).map t.readCell)[b]? = (leBytes 8 v.toNat)[b]? := congrArg (·[b]?) h.seen
  rw [leBytes_eq, List.getElem?_map, List.getElem?_map, List.getElem?_range' hb, List.getElem?_range hb] at hseen
  simpa using hseen

/-- One word stored by a core in a scratchpad. -/
theorem State.put_word (s : State) (n : Nat) {pa : Nat} (h : CoreScratch pa 8) (v : W64) :
    WordsAt s pa [v] ((s.put .core n 0 (List.range' pa 8) (leBytes 8 v.toNat)).countMem (List.range' pa 8) true) := by
  rw [State.countMem_coreScratch _ h]
  exact (s.put_spec .core (by decide) List.nodup_range' (by simp)).word

theorem WordsAt.cons {s u t : State} {pa : Nat} {v : W64} {vs : List W64} (hu : WordsAt s pa [v] u) (ht : WordsAt u (pa + 8) vs t) :
    WordsAt s pa (v :: vs) t where
  written i hi b hb := by
    cases i with
    | zero => rw [ht.cells _ (.inl (by omega))]; exact hu.written 0 (by simp) b hb
    | succ i =>
      have := ht.written i (by simpa using hi) b hb
      rwa [show pa + 8 + 8 * i + b = pa + 8 * (i + 1) + b by omega] at this
  cells a ha := by
    rw [List.length_cons] at ha
    exact (ht.cells a (by omega)).trans (hu.cells a (by simp; omega))
  lags w a ha h1 h2 := by
    rw [List.length_cons] at ha
    exact (ht.lags w a (by omega) h1 h2).trans (hu.lags w a (by simp; omega) h1 h2)
  rest := by rw [ht.rest, hu.rest]

theorem WordsAt.setCore {s t : State} {pa : Nat} {vs : List W64} (h : WordsAt s pa vs t) (n : Nat) (c : Core) :
    t.setCore n c = { s with cores := (t.setCore n c).cores, mem := t.mem, resid := t.resid, lags := t.lags } :=
  congrArg (fun u : State => { u with cores := (t.setCore n c).cores }) h.rest

theorem State.scratchStore_stores (s : State) (n : Nat) {pa : Nat} (vs : List W64) (h : CoreScratch pa (8 * vs.length)) :
    ∃ t, s.scratchStore n pa vs = .ok t ∧ WordsAt s pa vs t := by
  induction vs generalizing s pa with
  | nil => exact ⟨s, rfl, ⟨fun i hi => by simp at hi, fun _ _ => rfl, fun _ _ _ _ _ => rfl, rfl⟩⟩
  | cons v vs ih =>
    obtain ⟨hlo, hhi⟩ := h
    rw [List.length_cons] at hhi
    have hfirst : CoreScratch pa 8 := ⟨hlo, by omega⟩
    obtain ⟨t, ht, hwords⟩ := ih ((s.put .core n 0 (List.range' pa 8) (leBytes 8 v.toNat)).countMem (List.range' pa 8) true)
      (pa := pa + 8) ⟨by omega, by omega⟩
    refine ⟨t, ?_, (s.put_word n hfirst v).cons hwords⟩
    rw [State.scratchStore, s.liveCells_coreScratch hfirst]
    exact ht

theorem Core.groupWords_ring (c : Core) (k : Nat) {i : Nat} (hi : i < 8) (h : i < (c.groupWords k).length) :
    (c.groupWords k)[i] = c.readRing (8 * k + i) := by
  simp only [Core.groupWords]
  rw [List.getElem_append_left (by simpa using hi), SMap.getRun_get]
  rfl

theorem Core.groupWords_link (c : Core) (k : Nat) (h : 8 < (c.groupWords k).length) : (c.groupWords k)[8] = SMap.get 0 c.link k := by
  simp only [Core.groupWords]
  rw [List.getElem_append_right (by simp)]
  simp

/-- A spill of a control core with room in its carve-out (R83). -/
theorem State.spillOne_carveOut {s t : State} {n : Nat} (hn : n < 128) (hovfn : (s.core n).ovfn = 0)
    (hroom : (s.core n).spp.toNat + 72 ≤ (s.core n).splb.toNat + (s.core n).spll.toNat) (hpast : (s.core n).carvePast = false)
    (ht : s.scratchStore n (coreBase + n * 2 ^ 19 + (s.core n).spp.toNat) ((s.core n).groupWords (s.core n).oldest) = .ok t) :
    s.spillOne n = .ok (t.setCore n
      { s.core n with spp := ((s.core n).spp + 72) &&& 0x7FFF8, wfill := (s.core n).wfill - 8, span := none }) := by
  have hsup : isSup n = false := decide_eq_false (by omega)
  have hspp : sppOf false ((s.core n).spp + 72) = ((s.core n).spp + 72) &&& 0x7FFF8 := keepBits_eq_and _ 18 3
  unfold State.spillOne
  dsimp only
  rw [if_pos ⟨hovfn, hroom⟩, hsup, hpast]
  simp only [Bool.false_eq_true, if_false, ht, hspp]

theorem spillToCarveOut : Claims.SpillToCarveOut := by
  intro s n c pa oldest hn hovfn hroom hend
  have hlen : (c.groupWords oldest).length = 9 := by simp [Core.groupWords]
  have hpa : CoreScratch pa (8 * (c.groupWords oldest).length) := by
    rw [hlen]
    simp only [CoreScratch, coreBase, pa]
    omega
  obtain ⟨t, ht, hwords⟩ := s.scratchStore_stores n _ hpa
  have hcarve : c.carvePast = false := decide_eq_false (by omega)
  refine ⟨_, State.spillOne_carveOut hn hovfn hroom hcarve ht, ?_⟩
  have hset := hwords.setCore n
  obtain ⟨hwritten, hcells, hlags, hrest⟩ := hwords
  rw [hlen] at hcells hlags
  refine ⟨fun i hi b hb => ?_, fun b hb => ?_, hcells, State.core_setCore_same .., fun j hj => ?_, hlags, ?_⟩
  · exact (hwritten i (by omega) b hb).trans (by rw [Core.groupWords_ring _ _ hi])
  · exact (hwritten 8 (by omega) b hb).trans (by rw [Core.groupWords_link])
  · rw [State.core_setCore_ne _ _ hj, hrest]; rfl
  · exact hset _

/-! ### Targets and link words (R80, R102) -/

/-- The word of an address below its own two low bits (R103). -/
theorem align_eq (v : W64) : v &&& ~~~(3 : W64) = BitVec.ofNat 64 (v.toNat / 4 * 4) := by
  have h : v &&& ~~~(3 : W64) = keepBits v 63 2 := (keepBits_eq_and v 63 2).symm
  have hlt : v.toNat / 2 ^ 2 < 2 ^ (63 + 1 - 2) := by have := v.isLt; omega
  rw [h, keepBits, fld, Nat.mod_eq_of_lt hlt]
  rfl

theorem linkWord_eq (ret : W64) (fc : FrameCode) : linkWord ret fc = BitVec.ofNat 64 (ret.toNat / 4 * 4 + fc.code) := by
  have hc : fc.code < 2 ^ 2 := by cases fc <;> decide
  have hr := ret.isLt
  rw [linkWord, align_eq, ← BitVec.toNat_inj, BitVec.toNat_or, BitVec.toNat_ofNat, BitVec.toNat_ofNat, BitVec.toNat_ofNat,
    Nat.mod_eq_of_lt (by omega), Nat.mod_eq_of_lt (by omega), Nat.mod_eq_of_lt (by omega), Nat.mul_comm]
  exact (Nat.two_pow_add_eq_or_of_lt hc (ret.toNat / 4)).symm

theorem State.relTarget_eq (s : State) {w : Nat} (off : BitVec w) :
    s.relTarget (off.signExtend 64) = s.me.pc + BitVec.ofInt 64 (4 * off.toInt) := by
  rw [State.relTarget, BitVec.shiftLeft_eq_mul_twoPow, BitVec.ofInt_mul, BitVec.mul_comm]
  rfl

/-! ### Calls and returns (R81, R82, R138) -/

theorem frameCode_code (fc : FrameCode) : (match fc with | .f8 => 1 | .f16 => 2 | .f24 => 3) = fc.code := by cases fc <;> rfl

theorem calls : Claims.Calls := by
  intro s fc off ext ra code f called hfill
  have hcode : code = fc.code := frameCode_code fc
  have call (t : W64) (n : Nat) (ht : goodTarget t) : Completes (s.callTo fc t n) (called t n) := by
    refine ⟨_, State.callTo_good n ht (hcode ▸ hfill), fun k => ?_, ?_, fun j hj => State.core_setMe_ne s _ hj, State.setMe_rest s _⟩
    · rw [State.me_setMe, SMap.get_set, linkWord_eq, ← hcode]
    · rw [State.me_setMe, ← hcode]
  refine ⟨fun h => ?_, fun h => ?_, fun h => call _ 4 h⟩
  · rw [exec, execCall, s.relTarget_eq off]; exact call _ 4 h
  · rw [exec, execCallExt, s.relTarget_eq ext]; exact call _ 8 h

/-- A return whose frame is resident does not refill. -/
theorem execRet_frame {s : State} (hlw : (SMap.get 0 s.me.link s.me.linkIx).toNat % 4 ≠ 0)
    (hfill : 8 * ((SMap.get 0 s.me.link s.me.linkIx).toNat % 4) ≤ s.me.wfill.toNat) :
    execRet s = .next (s.retFrom (SMap.get 0 s.me.link s.me.linkIx)) := by
  have h8 : 8 ≤ (s.core s.cur).wfill.toNat := by rw [State.core_cur]; omega
  rw [execRet, State.refillTo_within h8]
  dsimp only
  rw [if_neg hlw, State.refillTo_within hfill]

/-- A zeroed link word returns nowhere (R82). -/
theorem execRet_noFrame {s : State} (hlw : (SMap.get 0 s.me.link s.me.linkIx).toNat % 4 = 0) (h8 : 8 ≤ s.me.wfill.toNat) :
    execRet s = .next s.illegal := by
  rw [execRet, State.refillTo_within h8]
  exact if_pos hlw

theorem returns : Claims.Returns := by
  intro s slot lw f
  refine ⟨fun hlw hfill => ?_, fun hlw h8 ht => ⟨_, execRet_noFrame hlw h8, State.illegal_took ht⟩, fun hpriv hfill => ?_⟩
  · refine ⟨_, execRet_frame hlw hfill, fun k => ?_, ?_, fun j hj => State.core_setMe_ne s _ hj, State.setMe_rest s _⟩
    · rw [State.retFrom, State.me_setMe]; exact SMap.get_set 0 s.me.link _ k 0
    · rw [State.retFrom, State.me_setMe, align_eq]; rfl
  · have htret : execTret s = .next s.trapReturn := if_neg (by simp [Core.user_false_of_priv hpriv])
    rw [State.trapReturn_eq hfill] at htret
    exact ⟨_, htret, State.me_setMe s _, fun j hj => State.core_setMe_ne s _ hj, State.setMe_rest s _⟩

/-- Settles O6: calls, returns and the spill to the carve-out, each by its own equation. -/
theorem callsAndReturns : Obligations.CallsAndReturns := ⟨calls, returns, spillToCarveOut⟩

end Sys2Proof.Machine
end

section
/-! SUPPORT. The resets, bring-up, flash and power (R76, R151, R265, R378-R380). -/

namespace Sys2Proof.Machine

/-! ### Cells dropped from a memory -/

/-- A map without some of its keys: those read as unlisted, every other as before. -/
theorem SMap.get_filter {α : Type} (d : α) (m : SMap α) (keep : Nat → Bool) (k : Nat) :
    SMap.get d (m.filter fun p => keep p.1) k = if keep k then SMap.get d m k else d := by
  induction m with
  | nil => simp [SMap.get]
  | cons p m ih =>
    obtain ⟨j, v⟩ := p
    by_cases hj : keep j
    · rw [List.filter_cons_of_pos (by exact hj), SMap.get, ih, SMap.get]
      by_cases hk : k = j
      · simp [hk, hj]
      · simp [hk]
    · rw [List.filter_cons_of_neg (by exact hj), ih, SMap.get]
      by_cases hk : k = j
      · simp [hk, hj]
      · simp [hk]

theorem State.readCell_cleared (s : State) (a : Nat) : s.cleared.readCell a = if spanBase ≤ a then s.readCell a else memDefault a := by
  rw [readCell_def, readCell_def]
  exact (SMap.get_filter (memDefault a) s.mem (fun k => decide (spanBase ≤ k)) a).trans (by simp)

theorem State.readCell_selfTest (s : State) (r : BootArgs) (a : Nat) : (s.selfTest r).readCell a = if isStackCell a then 0 else s.readCell a := by
  have h := SMap.get_filter (memDefault a) s.mem (fun k => !isStackCell k) a
  rw [readCell_def, readCell_def]
  refine h.trans ?_
  cases hs : isStackCell a with
  | false => rfl
  | true =>
    have hlp : a < lpBase := of_decide_eq_true (Bool.and_eq_true _ _ ▸ hs).2
    exact if_pos hlp

/-! ### The cores start (R378) -/

theorem State.startCores_rest (s : State) : s.startCores = { s with cores := s.startCores.cores } :=
  State.each_keeps (P := fun u => u = { s with cores := u.cores }) rfl fun u n _ hu => by
    rw [hu]; rfl

theorem State.core_startCores {s : State} {n : Nat} (hn : n < 136) :
    s.startCores.core n = { s.core n with run := .running, pc := (s.core n).tvec &&& ~~~(3 : W64) } := by
  obtain ⟨as, bs, has, hbs, hsplit⟩ := State.each_split (s := s)
    (f := fun t n => t.setCore n { t.core n with run := .running, pc := (t.core n).tvec &&& ~~~(3 : W64) }) List.nodup_range (List.mem_range.2 hn)
  have others (u : State) (xs : List Nat) (hx : n ∉ xs) :
      (u.each xs fun t n => t.setCore n { t.core n with run := .running, pc := (t.core n).tvec &&& ~~~(3 : W64) }).core n = u.core n :=
    State.each_same (·.core n) fun t m hm => State.core_setCore_ne t _ fun h => hx (h ▸ hm)
  rw [State.startCores, hsplit, others _ bs hbs, State.core_setCore_same, others _ as has]

theorem State.core_startCores_ge {s : State} {n : Nat} (hn : 136 ≤ n) : s.startCores.core n = s.core n :=
  State.each_same (·.core n) fun t m hm => State.core_setCore_ne t _ (by have := List.mem_range.1 hm; omega)

/-! ### The steps of bring-up (R378-R380) -/

section
variable {s : State} (r : BootArgs) (hr : s.pkg.recovery = false)
include hr

theorem State.bootNext_image (hk : s.pkg.bootStep = 0) :
    s.bootNext r = if r.ok && s.pkg.flashOk && decide (s.pkg.record.minfw ≤ s.pkg.fwVersion) then s.bootDone 1 else s.bootFail 1 := by
  rw [State.bootNext, hr, hk]; rfl

theorem State.bootNext_record (hk : s.pkg.bootStep = 1) : s.bootNext r = if r.ok then s.bootDone 2 else s.bootFail 2 := by
  rw [State.bootNext, hr, hk]; rfl

theorem State.bootNext_selfTest (hk : s.pkg.bootStep = 2) : s.bootNext r = (s.selfTest r).bootDone 3 := by
  rw [State.bootNext, hr, hk]; rfl

theorem State.bootNext_presentMap (hk : s.pkg.bootStep = 3) : s.bootNext r = s.presentMap.bootDone 4 := by
  rw [State.bootNext, hr, hk]; rfl

theorem State.bootNext_start (hk : s.pkg.bootStep = 4) : s.bootNext r = ({ s with nmus := [] }.startCores).bootDone 5 := by
  rw [State.bootNext, hr, hk]; rfl

theorem State.bootNext_ready (hk : s.pkg.bootStep = 5) : s.bootNext r = (s.numberPackages r).bootDone 6 := by
  rw [State.bootNext, hr, hk]; rfl

end

theorem State.bootNext_recovery {s : State} (r : BootArgs) (hr : s.pkg.recovery = true) : s.bootNext r = s := by
  rw [State.bootNext, hr]; rfl

theorem execPowerOn_powered {s : State} (r : BootArgs) (hp : s.pkg.power = true) : execPowerOn r s = .next (s.bootNext r) := by
  rw [execPowerOn, hp]; rfl

theorem execPowerOn_dark {s : State} (r : BootArgs) (hp : s.pkg.power = false) : execPowerOn r s = .next ((s.powerTo true).bootNext r) := by
  rw [execPowerOn, hp]; rfl

/-- A die bit per die that a test names. -/
theorem getLsbD_dieBits (c : Nat → Bool) (n d : Nat) (hd : d < 8) :
    ((List.range n).foldl (fun (m : BitVec 8) d => if c d then m ||| (1#8 <<< d) else m) 0).getLsbD d = (decide (d < n) && c d) := by
  induction n with
  | zero => simp
  | succ n ih =>
    rw [List.range_succ, List.foldl_append, List.foldl_cons, List.foldl_nil]
    have hbit : (1#8 <<< n).getLsbD d = decide (d = n) := by
      rw [BitVec.getLsbD_shiftLeft, BitVec.getLsbD_one]
      refine Bool.eq_iff_iff.2 ?_
      simp [hd]
      omega
    rw [apply_ite (BitVec.getLsbD · d), BitVec.getLsbD_or, ih, hbit]
    by_cases hdn : d = n
    · subst hdn
      cases c d <;> simp
    · have hlt : d < n + 1 ↔ d < n := by omega
      simp [hdn, hlt]

/-- A byte per die of the present map: what self-test found and the record names (R1, R248). -/
theorem State.presentMap_tiles (s : State) {d : Nat} (hd : d < 8) :
    (s.presentMap.pkg.tiles[d]?).getD 0 = (s.pkg.tiles[d]?).getD 0 &&& (s.pkg.record.tiles[d]?).getD 0 := by
  simp [State.presentMap, hd]

theorem State.presentMap_dies (s : State) {d : Nat} (hd : d < 8) :
    s.presentMap.pkg.dies.getLsbD d = (s.pkg.dies.getLsbD d && decide ((s.pkg.record.tiles[d]?).getD 0 ≠ 0)) := by
  refine (getLsbD_dieBits (fun d => s.pkg.dies.getLsbD d && (s.pkg.record.tiles[d]?).getD 0 != 0) 8 d hd).trans ?_
  exact Bool.eq_iff_iff.2 (by simp [hd])

/-- Whether the key store is erased once the cycle of an alarm is over (R382). -/
theorem State.keyErased_alarmEnd (s : State) :
    s.alarmEnd.pkg.keyErased = (s.pkg.keyErased || (decide (s.pkg.alarm ≠ 0 ∧ s.pkg.alarmAt = s.gcyc ∧ s.pkg.alarm ≤ 4)
      && s.pkg.record.alarmpol.getLsbD (s.pkg.alarm - 1))) := by
  have hnow : s.alarmedNow = decide (s.pkg.alarm ≠ 0 ∧ s.pkg.alarmAt = s.gcyc) := Bool.eq_iff_iff.2 (by simp [State.alarmedNow])
  unfold State.alarmEnd State.eraseKeys
  rw [hnow]
  by_cases halarm : s.pkg.alarm ≠ 0 ∧ s.pkg.alarmAt = s.gcyc
  · rw [if_pos (decide_eq_true halarm)]
    split
    · next hpol => simp [halarm.1, halarm.2, hpol]
    · next hpol =>
      have hkeep (h4 : s.pkg.alarm ≤ 4) : s.pkg.record.alarmpol.getLsbD (s.pkg.alarm - 1) = false := by simpa [h4] using hpol
      by_cases h4 : s.pkg.alarm ≤ 4
      · simp [hkeep h4]
      · simp [h4]
  · rw [if_neg (by simpa using halarm)]
    have hno : ¬ (s.pkg.alarm ≠ 0 ∧ s.pkg.alarmAt = s.gcyc ∧ s.pkg.alarm ≤ 4) := fun h => halarm ⟨h.1, h.2.1⟩
    rw [decide_eq_false hno]
    simp

theorem State.pkg_alarmEnd (s : State) :
    s.alarmEnd.pkg = { s.pkg with keyErased := s.alarmEnd.pkg.keyErased, scanLocked := s.alarmEnd.pkg.scanLocked } := by
  unfold State.alarmEnd State.eraseKeys
  split
  · split <;> rfl
  · rfl

/-- What every reset of the part leaves. -/
structure Blank (s t : State) : Prop where
  state : t = { State.reset with
    agenda := s.agenda, tick := s.tick, serial := s.serial, gcyc := t.gcyc, irqs := s.irqs, hostIn := s.hostIn, cores := t.cores, mem := t.mem,
    pkg := t.pkg }
  cells : ∀ a, t.readCell a = if spanBase ≤ a then s.readCell a else memDefault a

theorem State.blank_of_cleared {s t : State} (h : t = { s.cleared with gcyc := t.gcyc, cores := t.cores, pkg := t.pkg }) : Blank s t := by
  have hmem : t.mem = s.cleared.mem := by rw [h]
  refine ⟨?_, fun a => ?_⟩
  · rw [hmem]; exact h
  · rw [← s.readCell_cleared, readCell_def, readCell_def, hmem]

theorem State.startCores_blank (s : State) (q : Package) : Blank s ({ s.cleared with pkg := q } : State).startCores :=
  State.blank_of_cleared (by rw [State.startCores_rest])

theorem State.startCores_pkg (s : State) : s.startCores.pkg = s.pkg := by rw [State.startCores_rest]

/-- What flash holds comes through a loss of power; a replacement record takes effect where power comes (R379, R380). -/
theorem State.powered_flash (s : State) (on : Bool) :
    (s.alarmEnd.pkg.powered on).flashOk = s.pkg.flashOk ∧ (s.alarmEnd.pkg.powered on).fwVersion = s.pkg.fwVersion
      ∧ (s.alarmEnd.pkg.powered on).record = (if on then s.pkg.nextRecord.getD s.pkg.record else s.pkg.record)
      ∧ (s.alarmEnd.pkg.powered on).nextRecord = if on then none else s.pkg.nextRecord := by
  rw [s.pkg_alarmEnd]
  exact ⟨rfl, rfl, rfl, rfl⟩

/-- The first step of bring-up: it is done, or the part is in recovery (R378). -/
theorem State.bootNext_first {s : State} (r : BootArgs) (hr : s.pkg.recovery = false) (hk : s.pkg.bootStep = 0) :
    s.bootNext r = s.bootDone 1 ∨ s.bootNext r = s.bootFail 1 := by
  rw [State.bootNext_image r hr hk]
  split
  · exact .inl rfl
  · exact .inr rfl

/-- The cores of `t` are those of `u`, each of the 136 at its TVEC. -/
def Started (u t : State) : Prop :=
  (∀ n < 136, t.core n = { u.core n with run := .running, pc := (u.core n).tvec &&& ~~~(3 : W64) }) ∧ ∀ n, 136 ≤ n → t.core n = u.core n

/-- `u` with the package `q`, its boot status changed to `b`, and vector 2,042 raised (log 20). -/
def State.noted (b : Byte) (q : Package) (u : State) : State :=
  { u with pkg := { q with bootStatus := b :: q.bootStatus }, irqs := 2042 :: u.irqs }

theorem State.bootDone_noted (s : State) (k : Nat) : s.bootDone k = s.noted (BitVec.ofNat 8 (k + 0)) { s.pkg with bootStep := k } := rfl

theorem State.started_startCores (s : State) : Started s s.startCores :=
  ⟨fun _ hn => State.core_startCores hn, fun _ hn => State.core_startCores_ge hn⟩

/-- Step 5: every unit leaves reset, and the cores start (log 90). -/
theorem State.bootNext_start_noted {s : State} (r : BootArgs) (hr : s.pkg.recovery = false) (hk : s.pkg.bootStep = 4) :
    ∃ u : State, s.bootNext r = u.noted 5 { s.pkg with bootStep := 5 } ∧ Started s u ∧ u = { s with cores := u.cores, nmus := [] } := by
  refine ⟨({ s with nmus := [] } : State).startCores, ?_, ?_, State.startCores_rest _⟩
  · rw [State.bootNext_start r hr hk, State.bootDone_noted, State.startCores_pkg]
    rfl
  · exact State.started_startCores { s with nmus := [] }

/-- Step 6: the package's number and count are taken, if they are legal (log 72). -/
theorem State.bootNext_ready_noted {s : State} (r : BootArgs) (hr : s.pkg.recovery = false) (hk : s.pkg.bootStep = 5) :
    s.bootNext r = s.noted 6 { s.pkg with
      bootStep := 6, pkgCount := if r.own < r.pkgs ∧ r.pkgs ≤ 1024 then r.pkgs else s.pkg.pkgCount,
      ownPkg := if r.own < r.pkgs ∧ r.pkgs ≤ 1024 then r.own else s.pkg.ownPkg } := by
  rw [State.bootNext_ready r hr hk, State.bootDone_noted, State.numberPackages]
  by_cases h : r.own < r.pkgs ∧ r.pkgs ≤ 1024
  · simp only [if_pos h]; rfl
  · simp only [if_neg h]; rfl

/-- CORE_RESET leaves a blank part; past step 5 its cores run again at once (R76, log 22). -/
theorem execCoreReset_completes {s : State} (hp : s.pkg.power = true) :
    Completes (execCoreReset s) fun t => Blank s t ∧ t.gcyc = s.gcyc ∧ t.pkg = s.pkg.afterReset
      ∧ (s.pkg.bootStep < 5 → ∀ n, t.core n = Core.reset) ∧ (5 ≤ s.pkg.bootStep → Started State.reset t) := by
  have hreset : execCoreReset s = .next (if 5 ≤ s.pkg.bootStep then ({ s.cleared with pkg := s.pkg.afterReset } : State).startCores
    else { s.cleared with pkg := s.pkg.afterReset }) := if_neg (by simp [hp])
  by_cases hstep : 5 ≤ s.pkg.bootStep
  · rw [if_pos hstep] at hreset
    refine ⟨_, hreset, s.startCores_blank _, ?_, State.startCores_pkg _, fun h => absurd hstep (by omega), fun _ => ?_⟩
    · rw [State.startCores_rest]; rfl
    · exact State.started_startCores { s.cleared with pkg := s.pkg.afterReset }
  · rw [if_neg hstep] at hreset
    exact ⟨_, hreset, State.blank_of_cleared rfl, rfl, rfl, fun _ _ => rfl, fun h => absurd h hstep⟩

/-- What flash holds in `q` is what it held in `s`, and the key store is erased where the running cycle's alarm erased it (log 80, log 107). -/
def FlashKept (s : State) (q : Package) : Prop :=
  q.flashOk = s.pkg.flashOk ∧ q.fwVersion = s.pkg.fwVersion ∧ q.keyErased = (s.pkg.keyErased
    || (decide (s.pkg.alarm ≠ 0 ∧ s.pkg.alarmAt = s.gcyc ∧ s.pkg.alarm ≤ 4) && s.pkg.record.alarmpol.getLsbD (s.pkg.alarm - 1)))

/-- Power comes: a blank part whose step 1 is done, or which is in recovery (R378, R379). -/
theorem execPowerOn_dark_completes {s : State} (r : BootArgs) (hp : s.pkg.power = false) :
    Completes (execPowerOn r s) fun t => Blank s { t with irqs := s.irqs } ∧ t.gcyc = 0 ∧ t.pkg.power = true ∧ FlashKept s t.pkg
      ∧ t.pkg.record = s.pkg.nextRecord.getD s.pkg.record ∧ t.pkg.nextRecord = none
      ∧ (t.pkg.bootStep = 1 ∨ t.pkg.bootStep = 0 ∧ t.pkg.recovery = true) := by
  obtain ⟨hflash, hfw, hrec, hnext⟩ := s.powered_flash true
  obtain h | h := State.bootNext_first (s := s.powerTo true) r rfl rfl
  · exact ⟨(s.powerTo true).bootDone 1, (execPowerOn_dark r hp).trans (by rw [h]), State.blank_of_cleared rfl, rfl, rfl,
      ⟨hflash, hfw, s.keyErased_alarmEnd⟩, hrec, hnext, .inl rfl⟩
  · exact ⟨(s.powerTo true).bootFail 1, (execPowerOn_dark r hp).trans (by rw [h]), State.blank_of_cleared rfl, rfl, rfl,
      ⟨hflash, hfw, s.keyErased_alarmEnd⟩, hrec, hnext, .inr ⟨rfl, rfl⟩⟩

/-- What a loss of power leaves, but for whether flash holds a whole image. -/
structure Dark (s t : State) : Prop where
  blank : Blank s t
  gcyc : t.gcyc = 0
  power : t.pkg.power = false
  bootStep : t.pkg.bootStep = 0
  flash : FlashKept s { t.pkg with flashOk := s.pkg.flashOk }
  record : t.pkg.record = s.pkg.record
  nextRecord : t.pkg.nextRecord = s.pkg.nextRecord
  cores : ∀ n, t.core n = Core.reset

theorem State.dark_powerTo (s : State) (whole : Bool) :
    Dark s { s.powerTo false with pkg := { (s.powerTo false).pkg with flashOk := whole } } := by
  obtain ⟨-, hfw, hrec, hnext⟩ := s.powered_flash false
  exact ⟨State.blank_of_cleared rfl, rfl, rfl, rfl, ⟨rfl, hfw, s.keyErased_alarmEnd⟩, hrec, hnext, fun _ => rfl⟩

/-- Power goes: flash that was being written holds no whole image (R380). -/
theorem execPowerLoss_completes (s : State) (flashing : Bool) :
    Completes (execPowerLoss flashing s) fun t => Dark s t ∧ t.pkg.flashOk = (s.pkg.flashOk && !flashing) := by
  cases flashing with
  | true => exact ⟨_, rfl, s.dark_powerTo false, by simp⟩
  | false =>
    have hflash : (s.powerTo false).pkg.flashOk = s.pkg.flashOk := (s.powered_flash false).1
    exact ⟨s.powerTo false, rfl, s.dark_powerTo _, by simpa using hflash⟩

/-- FIRMWARE_IMAGE_UPDATE: an image that step 1 would pass is written (R380). -/
theorem execFirmwareImageUpdate_next (s : State) (version : Nat) (ok : Bool) :
    execFirmwareImageUpdate version ok s = .next (if s.pkg.power = true ∧ ok = true ∧ s.pkg.record.minfw ≤ version then
      { s with pkg := { s.pkg with
        flashOk := true, fwVersion := version, recovery := false, bootStep := if s.pkg.recovery then 0 else s.pkg.bootStep } }
      else s) := by
  by_cases h : s.pkg.power = true ∧ ok = true ∧ s.pkg.record.minfw ≤ version
  · rw [if_pos h]; exact if_pos (by simpa [and_assoc] using h)
  · rw [if_neg h]; exact if_neg (by simpa [and_assoc] using h)

/-- CONFIGURATION_RECORD_UPDATE: a signed record of the same SKU waits for the next power-on (R379). -/
theorem execConfigurationRecordUpdate_next (s : State) (rec_ : ConfigRecord) (ok : Bool) :
    execConfigurationRecordUpdate rec_ ok s = .next (if s.pkg.power = true ∧ ok = true ∧ rec_.sku = s.pkg.record.sku then
      { s with pkg := { s.pkg with nextRecord := some rec_ } } else s) := by
  by_cases h : s.pkg.power = true ∧ ok = true ∧ rec_.sku = s.pkg.record.sku
  · rw [if_pos h]; exact if_pos (by simpa [and_assoc] using h)
  · rw [if_neg h]; exact if_neg (by simpa [and_assoc] using h)

/-- The checks of step 1 as propositions. -/
theorem State.bootNext_image_noted {s : State} (r : BootArgs) (hr : s.pkg.recovery = false) (hk : s.pkg.bootStep = 0) :
    s.bootNext r = if r.ok = true ∧ s.pkg.flashOk = true ∧ s.pkg.record.minfw ≤ s.pkg.fwVersion
      then s.noted 1 { s.pkg with bootStep := 1 } else s.noted 0x81 { s.pkg with recovery := true } := by
  rw [State.bootNext_image r hr hk]
  by_cases h : r.ok = true ∧ s.pkg.flashOk = true ∧ s.pkg.record.minfw ≤ s.pkg.fwVersion
  · rw [if_pos h, if_pos (by simpa [and_assoc] using h)]; rfl
  · rw [if_neg h, if_neg (by simpa [and_assoc] using h)]; rfl

/-- Settles O52: the resets leave a blank part, and each step of bring-up has its own equation. -/
theorem bringUp : Obligations.BringUp := by
  intro s r version ok rec_ p noted boots started blank erased flash
  have hblank {t : State} (h : Blank s t) : blank t := ⟨h.state, h.cells⟩
  refine ⟨fun hp => ?reset, fun hp hr => ?steps, fun hp hr => ?stays, fun hp => ?power, ?firmware, ?record, ?loss⟩
  case reset =>
    obtain ⟨t, ht, hb, hg, hpkg, hcores, hstarted⟩ := execCoreReset_completes hp
    exact ⟨t, ht, hblank hb, hg, hpkg, hcores, hstarted⟩
  case steps =>
    have step {t : State} (h : s.bootNext r = t) {P : State → Prop} (hP : P t) : boots P :=
      ⟨t, (execPowerOn_powered r hp).trans (by rw [h]), hP⟩
    refine ⟨fun hk => ⟨fun h => ?_, fun h => ?_⟩, fun hk => ⟨fun h => ?_, fun h => ?_⟩,
      fun hk => ?_, fun hk => ?_, fun hk => ?_, fun hk => ?_⟩
    · exact step ((State.bootNext_image_noted r hr hk).trans (if_pos h)) rfl
    · exact step ((State.bootNext_image_noted r hr hk).trans (if_neg h)) rfl
    · exact step ((State.bootNext_record r hr hk).trans (if_pos h)) rfl
    · exact step ((State.bootNext_record r hr hk).trans (if_neg (by simp [h]))) rfl
    · exact step (State.bootNext_selfTest r hr hk)
        ⟨{ s with mem := (s.selfTest r).mem, resid := [] }, rfl, s.readCell_selfTest r, rfl, rfl⟩
    · exact step (State.bootNext_presentMap r hr hk)
        ⟨s.presentMap.pkg, rfl, fun d hd => s.presentMap_tiles hd, fun d hd => s.presentMap_dies hd, rfl⟩
    · obtain ⟨u, hu, hstarted, hrest⟩ := State.bootNext_start_noted r hr hk
      exact step hu ⟨u, rfl, hstarted, hrest⟩
    · exact step (State.bootNext_ready_noted r hr hk) rfl
  case stays => exact (execPowerOn_powered r hp).trans (by rw [State.bootNext_recovery r hr])
  case power =>
    obtain ⟨t, ht, hb, hrest⟩ := execPowerOn_dark_completes r hp
    exact ⟨t, ht, hblank hb, hrest⟩
  case firmware =>
    refine ⟨_, execFirmwareImageUpdate_next s version ok, ?_⟩
    split <;> rfl
  case record =>
    refine ⟨_, execConfigurationRecordUpdate_next s rec_ ok, ?_⟩
    split <;> rfl
  case loss =>
    obtain ⟨t, ht, hd, hflash⟩ := execPowerLoss_completes s ok
    exact ⟨t, ht, hblank hd.blank, hd.gcyc, hd.power, hd.bootStep, hflash, hd.flash.2.1, hd.flash.2.2, hd.record, hd.nextRecord, hd.cores⟩

end Sys2Proof.Machine
end

section
/-! SUPPORT. Arithmetic in the registers of a core (R95-R100): the results, and the words that write one register or one predicate. -/

namespace Sys2Proof.Machine

/-! ### Words that write one result (R94) -/

theorem completes_finish_of_eq (s : State) (d : DReg) (n : Nat) {v w : W64} (h : v = w) :
    Completes (.next (s.finish d v n)) (WroteReg s d w n) := h ▸ completes_finish s d v n

theorem completes_finishQ_of_eq (s : State) (q : QReg) (n : Nat) {a b : Bool} (h : a = b) :
    Completes (.next (s.finishQ q a n)) (WrotePred s q b n) := h ▸ completes_finishQ s q a n

/-! ### Division (R96) -/

theorem toInt_eq_neg_two_pow_iff (a : W64) : a.toInt = -2 ^ 63 ↔ a = BitVec.intMin 64 := by
  rw [← BitVec.toInt_inj]; rfl

theorem toInt_eq_neg_one_iff (b : W64) : b.toInt = -1 ↔ b = -1 := by
  rw [← BitVec.toInt_inj]; rfl

/-- Division truncates as that of the bit vectors does. -/
theorem divS_eq_sdiv {w : Nat} {a b : BitVec w} (hb : b ≠ 0) : divS a b = a.sdiv b := by
  rw [divS, if_neg hb, ← BitVec.toInt_inj, BitVec.toInt_ofInt, BitVec.toInt_sdiv]

theorem remS_eq_srem {w : Nat} {a b : BitVec w} (hb : b ≠ 0) : remS a b = a.srem b := by
  rw [remS, if_neg hb, ← BitVec.toInt_srem, BitVec.ofInt_toInt]

theorem toInt_divS {a b : W64} (hb : b ≠ 0) (h : ¬ (a.toInt = -2 ^ 63 ∧ b.toInt = -1)) : (divS a b).toInt = a.toInt.tdiv b.toInt := by
  rw [divS_eq_sdiv hb]
  refine BitVec.toInt_sdiv_of_ne_or_ne a b ?_
  rwa [toInt_eq_neg_two_pow_iff, toInt_eq_neg_one_iff, not_and_or] at h

theorem toInt_remS {w : Nat} {a b : BitVec w} (hb : b ≠ 0) : (remS a b).toInt = a.toInt.tmod b.toInt := by
  rw [remS_eq_srem hb, BitVec.toInt_srem]

theorem tmod_eq_zero_or_sign_eq (x y : Int) : x.tmod y = 0 ∨ (x.tmod y).sign = x.sign := by
  rw [Int.sign_tmod]
  split
  · exact .inl (Int.tmod_eq_zero_of_dvd ‹_›)
  · exact .inr rfl

theorem abs_tmod_lt (x : Int) {y : Int} (hy : y ≠ 0) : |x.tmod y| < |y| := by
  rw [Int.abs_eq_natAbs, Int.abs_eq_natAbs, Int.natAbs_tmod]
  exact_mod_cast Nat.mod_lt _ (Int.natAbs_pos.2 hy)

theorem toNat_divU {w : Nat} {a b : BitVec w} (hb : b ≠ 0) : (divU a b).toNat = a.toNat / b.toNat := by
  rw [divU, if_neg hb, BitVec.toNat_ofNat, Nat.mod_eq_of_lt (Nat.lt_of_le_of_lt (Nat.div_le_self _ _) a.isLt)]

theorem toNat_remU {w : Nat} {a b : BitVec w} (hb : b ≠ 0) : (remU a b).toNat = a.toNat % b.toNat := by
  rw [remU, if_neg hb, BitVec.toNat_ofNat, Nat.mod_eq_of_lt (Nat.lt_of_le_of_lt (Nat.mod_le _ _) a.isLt)]

/-- Settles O1: each word writes its own quotient or remainder, whose value is that of the integers. -/
theorem division : Obligations.Division := by
  intro s rd ra rb a b
  refine ⟨fun hb => ?zero, fun ⟨ha, hb⟩ => ?overflow, fun ⟨hb, hfits⟩ => ?signed, fun hb => ?unsigned⟩
  case zero =>
    exact ⟨completes_finish_of_eq s rd 4 (if_pos hb), completes_finish_of_eq s rd 4 (if_pos hb),
      completes_finish_of_eq s rd 4 (if_pos hb), completes_finish_of_eq s rd 4 (if_pos hb)⟩
  case overflow =>
    have hmin : a = BitVec.intMin 64 := (toInt_eq_neg_two_pow_iff a).1 ha
    have hone : b = -1 := (toInt_eq_neg_one_iff b).1 hb
    have hquot : divS a b = a := by rw [hmin, hone]; decide
    have hrem : remS a b = 0 := by rw [hmin, hone]; decide
    exact ⟨completes_finish_of_eq s rd 4 hquot, completes_finish_of_eq s rd 4 hrem⟩
  case signed =>
    refine ⟨divS a b, remS a b, ?_, ?_, ?_, completes_finish .., completes_finish ..⟩
    · rw [toInt_divS hb hfits, toInt_remS hb, Int.mul_tdiv_add_tmod]
    · rw [toInt_remS hb]
      exact abs_tmod_lt _ fun h => hb (BitVec.toInt_inj.1 (h.trans BitVec.toInt_zero.symm))
    · rw [← BitVec.toInt_inj, toInt_remS hb]
      exact tmod_eq_zero_or_sign_eq _ _
  case unsigned =>
    have hpos : 0 < b.toNat := Nat.pos_of_ne_zero fun h => hb (BitVec.eq_of_toNat_eq h)
    refine ⟨divU a b, remU a b, ?_, ?_, completes_finish .., completes_finish ..⟩
    · rw [toNat_divU hb, toNat_remU hb, Nat.div_add_mod]
    · rw [toNat_remU hb]; exact Nat.mod_lt _ hpos

/-! ### The three-register forms (R95) -/

theorem shiftL64_eq (a b : W64) : shiftL64 a b = BitVec.ofNat 64 (a.toNat * 2 ^ (b.toNat % 64)) := by
  rw [shiftL64, ← BitVec.toNat_inj, BitVec.toNat_shiftLeft, Nat.shiftLeft_eq, BitVec.toNat_ofNat]

theorem shiftR64_eq (a b : W64) : shiftR64 a b = BitVec.ofNat 64 (a.toNat / 2 ^ (b.toNat % 64)) := by
  have hlt : a.toNat / 2 ^ (b.toNat % 64) < 2 ^ 64 := Nat.lt_of_le_of_lt (Nat.div_le_self _ _) a.isLt
  rw [shiftR64, ← BitVec.toNat_inj, BitVec.toNat_ushiftRight, Nat.shiftRight_eq_div_pow, BitVec.toNat_ofNat, Nat.mod_eq_of_lt hlt]

theorem shiftA64_eq (a b : W64) : shiftA64 a b = BitVec.ofInt 64 (a.toInt / (2 ^ (b.toNat % 64) : Nat)) := by
  rw [shiftA64, ← BitVec.ofInt_toInt (x := a.sshiftRight _), BitVec.toInt_sshiftRight, Int.shiftRight_eq_div_pow]

theorem mul_eq_ofNat (a b : W64) : a * b = BitVec.ofNat 64 (a.toNat * b.toNat) := by
  rw [BitVec.ofNat_mul, BitVec.ofNat_toNat, BitVec.ofNat_toNat, BitVec.setWidth_eq, BitVec.setWidth_eq]

section
variable {w : Nat} (a b : BitVec w)

theorem mulHighS_eq : mulHighS a b = BitVec.ofInt w (a.toInt * b.toInt / (2 ^ w : Nat)) := by
  rw [mulHighS, Int.shiftRight_eq_div_pow]

theorem minS_eq : minS a b = BitVec.ofInt w (min a.toInt b.toInt) := by
  rw [minS, min_def]; split <;> rw [BitVec.ofInt_toInt]

theorem maxS_eq : maxS a b = BitVec.ofInt w (max a.toInt b.toInt) := by
  rw [maxS, max_def]; split <;> rw [BitVec.ofInt_toInt]

theorem minU_eq : minU a b = BitVec.ofNat w (min a.toNat b.toNat) := by
  rw [minU, min_def]; split <;> simp

theorem maxU_eq : maxU a b = BitVec.ofNat w (max a.toNat b.toNat) := by
  rw [maxU, max_def]; split <;> simp

end

theorem registerArithmetic : Claims.RegisterArithmetic := by
  intro s rd ra rb a b sh
  have wrote {v w : W64} (h : v = w) : Completes (.next (s.finish rd v 4)) (WroteReg s rd w 4) := completes_finish_of_eq s rd 4 h
  exact ⟨wrote rfl, wrote rfl, wrote rfl, wrote rfl, wrote rfl, wrote rfl, wrote rfl, wrote (shiftL64_eq a b), wrote (shiftR64_eq a b),
    wrote (shiftA64_eq a b), wrote (mul_eq_ofNat a b), wrote (mulHighS_eq a b), wrote rfl, wrote (minS_eq a b), wrote (maxS_eq a b),
    wrote (minU_eq a b), wrote (maxU_eq a b)⟩

/-! ### The counts of bits (R95) -/

section
variable {w : Nat} (x : BitVec w)

theorem leadingZeros_le : leadingZeros x ≤ w := by
  rw [leadingZeros]; split <;> omega

/-- Bits above the highest one are zeros. -/
theorem getLsbD_above_leadingZeros {i : Nat} (hi : w - leadingZeros x ≤ i) : x.getLsbD i = false := by
  rw [leadingZeros] at hi
  rw [BitVec.getLsbD]
  split at hi
  · rename_i h; rw [h, Nat.zero_testBit]
  · rename_i h
    have hlog : x.toNat.log2 < w := (Nat.log2_lt h).2 x.isLt
    exact Nat.testBit_lt_two_pow ((Nat.log2_lt h).1 (by omega))

theorem getLsbD_at_leadingZeros (h : leadingZeros x < w) : x.getLsbD (w - 1 - leadingZeros x) = true := by
  rw [leadingZeros] at h ⊢
  split at h
  · omega
  · rename_i hx
    have hlog : x.toNat.log2 < w := (Nat.log2_lt hx).2 x.isLt
    rw [if_neg hx, show w - 1 - (w - 1 - x.toNat.log2) = x.toNat.log2 by omega, BitVec.getLsbD]
    exact Nat.testBit_log2 hx

/-- The run of zeros at the bottom ends at the first one, or at the top of the word. -/
theorem trailingZeros_spec : trailingZeros x ≤ w ∧ (∀ i < trailingZeros x, x.getLsbD i = false)
    ∧ (trailingZeros x < w → x.getLsbD (trailingZeros x) = true) := by
  rw [trailingZeros]
  cases h : (List.range w).find? fun i => x.getLsbD i with
  | none =>
    have hall := List.find?_range_eq_none.1 h
    exact ⟨le_rfl, fun i hi => by simpa using hall i hi, fun hw => absurd hw (lt_irrefl w)⟩
  | some n =>
    obtain ⟨hbit, hmem, hbelow⟩ := List.find?_range_eq_some.1 h
    exact ⟨(List.mem_range.1 hmem).le, fun i hi => by simpa using hbelow i hi, fun _ => hbit⟩

end

theorem countP_eq_sum_toNat {α : Type} (p : α → Bool) (xs : List α) : xs.countP p = (xs.map fun x => (p x).toNat).sum := by
  induction xs with
  | nil => rfl
  | cons x xs ih => cases h : p x <;> simp [h, ih, Nat.add_comm]

theorem bitCounts : Claims.BitCounts := by
  intro s rd ra a
  obtain ⟨hle, hzeros, hone⟩ := trailingZeros_spec a
  refine ⟨⟨leadingZeros a, leadingZeros_le a, fun i _ hi => getLsbD_above_leadingZeros a hi, getLsbD_at_leadingZeros a, completes_finish ..⟩,
    ⟨trailingZeros a, hle, hzeros, hone, completes_finish ..⟩, completes_finish_of_eq s rd 4 ?_⟩
  exact congrArg (BitVec.ofNat 64) (countP_eq_sum_toNat _ _)

/-- Settles O2: each form writes its result, and the counts find the first one of the word. -/
theorem registerForms : Obligations.RegisterForms := ⟨registerArithmetic, bitCounts⟩

/-! ### Immediate forms (R100) -/

/-- A short immediate is sign-extended as the number it is. -/
theorem toInt_ofInt_toInt {w : Nat} (hw : w ≤ 64) (x : BitVec w) : (BitVec.ofInt 64 x.toInt).toInt = x.toInt :=
  BitVec.toInt_signExtend_of_le hw

theorem mul_imm_eq {w : Nat} (a : W64) (x : BitVec w) : a * x.signExtend 64 = BitVec.ofInt 64 (a.toInt * x.toInt) := by
  rw [BitVec.ofInt_mul, BitVec.ofInt_toInt]; rfl

theorem toNat_shiftAmount (n : BitVec 6) : (n.setWidth 64).toNat % 64 = n.toNat := by
  have h := n.isLt
  rw [BitVec.toNat_setWidth]
  omega

/-- Settles O3: each form writes its result, the immediate being sign-extended. -/
theorem immediateArithmetic : Obligations.ImmediateArithmetic := by
  intro s rd ra imm ext n a i e
  have wrote (k : Nat) {v w : W64} (h : v = w) : Completes (.next (s.finish rd v k)) (WroteReg s rd w k) := completes_finish_of_eq s rd k h
  have hsh := toNat_shiftAmount n
  refine ⟨wrote 4 rfl, wrote 8 rfl, wrote 4 rfl, wrote 8 rfl, wrote 4 rfl, wrote 8 rfl, wrote 4 rfl, wrote 8 rfl, wrote 4 rfl, wrote 8 rfl,
    wrote 4 (mul_imm_eq a imm), wrote 8 (mul_imm_eq a ext), wrote 4 ?_, wrote 4 ?_, wrote 4 ?_⟩
  · rw [shiftL64_eq, hsh]
  · rw [shiftR64_eq, hsh]
  · rw [shiftA64_eq, hsh]

/-! ### Compares, select and the predicate forms (R97-R100) -/

theorem bne_eq_decide_ne (a b : W64) : (a != b) = decide (a ≠ b) := by rw [decide_not]; rfl

theorem not_ltS {w : Nat} (a b : BitVec w) : (!ltS a b) = decide (b.toInt ≤ a.toInt) := by
  rw [ltS, ← decide_not, decide_eq_decide, not_lt]
theorem not_ltU {w : Nat} (a b : BitVec w) : (!ltU a b) = decide (b.toNat ≤ a.toNat) := by
  rw [ltU, ← decide_not, decide_eq_decide, not_lt]

theorem compares : Claims.Compares := by
  intro s qd ra rb a b
  have wrote {x y : Bool} (h : x = y) : Completes (.next (s.finishQ qd x 4)) (WrotePred s qd y 4) := completes_finishQ_of_eq s qd 4 h
  exact ⟨wrote rfl, wrote (bne_eq_decide_ne a b), wrote rfl, wrote (not_ltS a b), wrote rfl, wrote (not_ltU a b)⟩

theorem selectAndPredicates : Claims.SelectAndPredicates := by
  intro s rd qn ra rb qd qa qb
  exact ⟨fun h => completes_finish_of_eq s rd 4 (if_pos h), fun h => completes_finish_of_eq s rd 4 (if_neg (by simp [h])),
    completes_finishQ .., completes_finishQ .., completes_finishQ .., completes_finishQ ..⟩

theorem immediateCompares : Claims.ImmediateCompares := by
  intro s qd ra imm ext a i e
  have wrote (k : Nat) {x y : Bool} (h : x = y) : Completes (.next (s.finishQ qd x k)) (WrotePred s qd y k) :=
    completes_finishQ_of_eq s qd k h
  have hi : i.toInt = imm.toInt := toInt_ofInt_toInt (by decide) imm
  have he : e.toInt = ext.toInt := toInt_ofInt_toInt (by decide) ext
  refine ⟨wrote 4 rfl, wrote 8 rfl, wrote 4 (bne_eq_decide_ne a i), wrote 8 (bne_eq_decide_ne a e), wrote 4 ?_, wrote 8 ?_, wrote 4 ?_, wrote 8 ?_,
    wrote 4 rfl, wrote 8 rfl, wrote 4 (not_ltU a i), wrote 8 (not_ltU a e)⟩
  · rw [← hi]; rfl
  · rw [← he]; rfl
  · rw [← hi]; exact not_ltS a i
  · rw [← he]; exact not_ltS a e

/-- The word of an instruction without an extension word decodes to it. -/
theorem decodeC_of_encodeC {i : Instr} {w : Nat} (hwf : i.wf = true) (h : encodeC i = some (w, none)) : decodeC w 0 = some i :=
  ((Laws.roundTrip i hwf).1 w none h).2.2.2

theorem predicateWords : Claims.PredicateWords := by
  intro rd qn qd qa qb ra rb word q compares forms
  refine ⟨fun k i hk => ?_, decodeC_of_encodeC rfl rfl, fun k i hk => ?_, decodeC_of_encodeC rfl rfl⟩
  · match k, hk with
    | 0, rfl | 1, rfl | 2, rfl | 3, rfl | 4, rfl | 5, rfl => exact decodeC_of_encodeC rfl rfl
  · match k, hk with
    | 0, rfl | 1, rfl | 2, rfl => exact decodeC_of_encodeC rfl rfl

/-- Settles O4: each compare and each combination writes its predicate, `sel` its register, and the words round-trip. -/
theorem predicateForms : Obligations.PredicateForms := ⟨compares, selectAndPredicates, immediateCompares, predicateWords⟩

end Sys2Proof.Machine
end

section
/-! SUPPORT. Transfers of control of a core: branches and jumps, the software trap, the double fault, and the delivery of an
asynchronous cause (R91, R102-R105, R109, R136-R140). -/

namespace Sys2Proof.Machine

/-! ### Branches and jumps (R102, R103, R105) -/

theorem branches : Claims.Branches := by
  intro s q off ext ra near far
  have hnear : s.relTarget (off.signExtend 64) = near := s.relTarget_eq off
  have hfar : s.relTarget (ext.signExtend 64) = far := s.relTarget_eq ext
  have taken {b : Bool} (hb : b = true) {o t : W64} (n : Nat) (ho : s.relTarget o = t) (ht : goodTarget t) :
      Completes (s.branch b o n) (Jumped s t) := by
    rw [hb, State.branch_taken, ho]; exact completes_goto ht
  have passed {b : Bool} (hb : b = false) (o : W64) (n : Nat) :
      Completes (s.branch b o n) (Jumped s (s.me.pc + BitVec.ofNat 64 n)) := by
    rw [hb, State.branch_not_taken]; exact completes_skip s n
  refine ⟨fun h => ⟨fun hq => taken hq 4 hnear h, fun hq => taken (by simp [hq]) 4 hnear h, taken rfl 4 hnear h⟩,
    fun h => ⟨fun hq => taken hq 8 hfar h, fun hq => taken (by simp [hq]) 8 hfar h, taken rfl 8 hfar h⟩,
    fun hq => ⟨passed hq _ 4, passed hq _ 8⟩, fun hq => ⟨passed (by simp [hq]) _ 4, passed (by simp [hq]) _ 8⟩, completes_goto⟩

theorem refusedTargets : Claims.RefusedTargets := by
  intro s q off ext fc ra near far traps htrap
  have hnear : s.relTarget (off.signExtend 64) = near := s.relTarget_eq off
  have hfar : s.relTarget (ext.signExtend 64) = far := s.relTarget_eq ext
  have refused {i : Instr} {t : W64} (h : exec i s = .next (s.trap causeFetch t)) : traps i t := ⟨_, h, State.trap_took t (by decide) htrap⟩
  have taken {i : Instr} {b : Bool} (hb : b = true) {o t : W64} (n : Nat) (hi : exec i s = s.branch b o n) (ho : s.relTarget o = t)
      (ht : ¬ goodTarget t) : traps i t := refused (by rw [hi, hb, State.branch_taken, ho, State.goto_bad ht])
  have called {i : Instr} {o t : W64} (n : Nat) (hi : exec i s = s.callTo fc (s.relTarget o) n) (ho : s.relTarget o = t)
      (ht : ¬ goodTarget t) : traps i t := refused (by rw [hi, ho, State.callTo_bad n ht])
  refine ⟨fun h => ⟨fun hq => taken hq 4 rfl hnear h, fun hq => taken (by simp [hq]) 4 rfl hnear h, taken rfl 4 rfl hnear h,
      called 4 rfl hnear h⟩,
    fun h => ⟨fun hq => taken hq 8 rfl hfar h, fun hq => taken (by simp [hq]) 8 rfl hfar h, taken rfl 8 rfl hfar h, called 8 rfl hfar h⟩,
    fun h => ⟨refused (State.goto_bad h), refused (State.callTo_bad 4 h)⟩⟩

/-- Settles O5: a branch goes to its target or past its word, and check_target decides what a target is. -/
theorem transfers : Obligations.Transfers := ⟨branches, refusedTargets⟩

/-! ### The software trap (R109) -/

theorem softwareTrap : Claims.SoftwareTrap := by
  intro s n h
  rw [BitVec.ofNat_toNat]
  exact ⟨_, rfl, State.trapAt_took _ _ (by decide) h⟩

/-! ### Double faults (R136, R140) -/

/-- A cause is pending once it has been raised; one that was pending keeps its TVAL. -/
theorem State.pend_get (s : State) (n cause : Nat) (tval : W64) :
    SMap.get none ((s.pend n cause tval).core n).pend cause = some ((SMap.get none (s.core n).pend cause).getD tval) := by
  rw [State.pend, State.core_setCore_same]
  dsimp only
  split
  · rename_i h; rw [SMap.get_set_same, h]; rfl
  · rename_i v h; rw [h]; rfl

theorem State.pend_core_ne (s : State) (cause : Nat) (tval : W64) {n j : Nat} (h : j ≠ n) : (s.pend n cause tval).core j = s.core j :=
  State.core_setCore_ne s _ h

theorem doubleFault : Claims.DoubleFault := by
  intro s n hten hcur
  have hsup : isSup s.cur = false := decide_eq_false (by omega)
  have hne : s.cur ≠ 128 + s.cur / 16 := by omega
  let u := s.setMe { s.me with run := .frozen, await := none, begun := none, inval := none }
  have hcore : u.core (128 + s.cur / 16) = s.core (128 + s.cur / 16) := State.core_setMe_ne s _ hne.symm
  have hexec : exec (.trap n) s = .next (u.pend (128 + s.cur / 16) 0x103 (BitVec.ofNat 64 (s.cur + 65536 * 5))) := by
    rw [exec, execTrap, State.trapAt, Core.not_ten_of_bit hten, State.doubleFault, hsup]
    rfl
  refine ⟨_, hexec, ?_, fun j hj hsv => ?_, fun h => ?_, fun v h => ?_, rfl⟩
  · exact (State.pend_core_ne u _ _ hne).trans (State.me_setMe s _)
  · rw [State.pend_core_ne u _ _ hsv]; exact State.core_setMe_ne s _ hj
  · rw [State.pend_get, hcore, h]; rfl
  · rw [State.pend_get, hcore, h]; rfl

/-! ### Asynchronous causes (R91, R136, R137) -/

/-- A trap that no spill precedes is delivered at once. -/
theorem State.deliverTo_eq (s : State) (n : Nat) {cause : Nat} (tval epc : W64) (hc : cause < 65536) (h : (s.core n).wfill.toNat ≤ 192) :
    s.deliverTo n cause tval epc = (s.setCore n (trapped (s.core n) cause tval epc), true) := by
  refine Prod.ext (s.deliver_eq n tval epc hc h) ?_
  unfold State.deliverTo
  dsimp only
  rw [State.spillTo_within (by rw [State.core_setCore_same]; exact h)]

theorem Core.firstCause_cons {c : Core} {k : Nat} {v : W64} {rest : SMap (Option W64)} (h : c.pend = (k, some v) :: rest) :
    c.firstCause = some (k, v) := by rw [Core.firstCause, h]

theorem Core.takesAsync_of_running {c : Core} (hrun : c.run = .running) (hten : c.cstat.getLsbD 0 = true) (hbegun : c.begun = none) :
    c.takesAsync = true := by
  rw [Core.takesAsync, Core.live, Core.ten_of_bit hten, hrun, hbegun]; rfl

/-- Between two words a core takes its first pending cause, which is pending no more. -/
theorem execAsyncTrapDelivery_taken {n : Nat} {s : State} {k : Nat} {v : W64} (hfirst : (s.core n).firstCause = some (k, v))
    (htakes : (s.core n).takesAsync = true) (hk : k < 65536) (hfill : (s.core n).wfill.toNat ≤ 192) :
    execAsyncTrapDelivery n s = .next ((s.setCore n { s.core n with pend := SMap.set none (s.core n).pend k none }).setCore n
      (trapped { s.core n with pend := SMap.set none (s.core n).pend k none } k v (s.core n).pc)) := by
  unfold execAsyncTrapDelivery
  dsimp only
  rw [hfirst, htakes]
  dsimp only
  rw [if_pos rfl, State.deliverTo_eq _ n v _ hk (by rw [State.core_setCore_same]; exact hfill), State.core_setCore_same]
  rfl

theorem asyncDelivery : Claims.AsyncDelivery := by
  intro s k v hk ⟨hten, hfill⟩ hrun hbegun ⟨rest, hpend⟩
  refine ⟨_, execAsyncTrapDelivery_taken (Core.firstCause_cons hpend) (Core.takesAsync_of_running hrun hten hbegun) hk hfill, ?_⟩
  have h := (s.setMe { s.me with pend := SMap.set none s.me.pend k none }).took_trapped k v s.me.pc
  rwa [State.me_setMe] at h

/-- Settles O7: each of the three by the one operation that delivers traps. -/
theorem trapEntry : Obligations.TrapEntry := ⟨softwareTrap, doubleFault, asyncDelivery⟩

end Sys2Proof.Machine
end

section
/-! SUPPORT. Waits, `idle` and its wake, `treen`, and the fences (R110, R111, R138, R291-R293). -/

namespace Sys2Proof.Machine

/-! ### Tokens (R110, R153) -/

theorem Core.waits_false_iff (c : Core) (mask : BitVec 8) :
    c.waits mask = false ↔ ∀ i < 8, mask.getLsbD i = true → (SMap.get 0 c.tokcnt i).toNat = 0 := by
  simp only [Core.waits, List.any_eq_false, List.mem_range, Bool.and_eq_true, decide_eq_true_eq, not_and, not_not]
  rfl

theorem Core.waits_true_iff (c : Core) (mask : BitVec 8) :
    c.waits mask = true ↔ ∃ i < 8, mask.getLsbD i = true ∧ (SMap.get 0 c.tokcnt i).toNat ≠ 0 := by
  simp only [Core.waits, List.any_eq_true, List.mem_range, Bool.and_eq_true, decide_eq_true_eq]
  rfl

theorem Core.tokenDone_iff (c : Core) :
    c.tokenDone = true ↔ ∃ i < 8, c.idleTok.getLsbD i = true ∧ (SMap.get 0 c.tokcnt i).toNat = 0 := by
  simp only [Core.tokenDone, List.any_eq_true, List.mem_range, Bool.and_eq_true, decide_eq_true_eq]
  rfl

/-- The bits that `p` names are set one after another. -/
theorem getLsbD_setBits (p : Nat → Prop) [DecidablePred p] (xs : List Nat) (m : BitVec 8) {i : Nat} (hi : i < 8) :
    (xs.foldl (fun m i => if p i then m ||| (1#8 <<< i) else m) m).getLsbD i = (m.getLsbD i || decide (i ∈ xs ∧ p i)) := by
  induction xs generalizing m with
  | nil => simp
  | cons x xs ih =>
    rw [List.foldl_cons, ih]
    by_cases hx : x = i
    · subst hx
      by_cases hp : p x <;> simp [hp, hi]
    · have hone : (1#8 <<< x).getLsbD i = false := by
        simp [hi]; omega
      by_cases hp : p x <;> simp [hp, hone, Ne.symm hx]

theorem Core.pendingToks_getLsbD (c : Core) {i : Nat} (hi : i < 8) :
    c.pendingToks.getLsbD i = decide ((SMap.get 0 c.tokcnt i).toNat ≠ 0) := by
  rw [Core.pendingToks, getLsbD_setBits (fun i => c.tok i ≠ 0) _ _ hi]
  simp [Core.tok, hi]

theorem execIdleWake_woken {n : Nat} {s : State} (hrun : (s.core n).run = .idle) (hwoken : (s.core n).woken = true) :
    execIdleWake n s = .next (s.setCore n { s.core n with run := .running, wake := false, idleTok := 0, pc := (s.core n).pc + 4 }) :=
  if_pos (by rw [hrun, hwoken]; rfl)

/-! ### Fences (R93, R289, R291-R293) -/

theorem lagAt_sync (s : State) (q : Nat → Bool) (v a : Nat) : lagAt (s.sync q).lags v a = if q v then none else lagAt s.lags v a := by
  rw [State.sync]
  split
  · rename_i h
    refine lagAt_none fun l hl hv => ?_
    obtain ⟨-, hkept⟩ := List.mem_filter.1 hl
    simp [hv, h] at hkept
  · rename_i h
    exact lagAt_filter fun l _ hv _ => by simpa [hv] using h

/-- The views that catch up are the ones that the fence orders. -/
theorem State.sync_fenced (s : State) {q : Nat → Bool} {p : Nat → Prop} (h : ∀ v, q v = true ↔ p v) : Fenced s p ((s.sync q).skip 4) where
  ordered v a hv := (lagAt_sync s q v a).trans (if_pos ((h v).2 hv))
  kept v a hv := (lagAt_sync s q v a).trans (if_neg (mt (h v).1 hv))
  me := State.me_setMe _ _
  others _ hj := State.core_setMe_ne _ _ hj
  state := rfl

theorem fenceViews_iff (n : Nat) (sc : Scope) (v : Nat) : fenceViews n sc v = true ↔
    (sc ≠ .rg ∧ 16 + 4 * n ≤ v ∧ v < 16 + 4 * (n + 1)) ∨ (v = 5 ∧ sc ∈ [Scope.pkg, .dom, .sys]) := by
  simp [fenceViews, viewFetch, viewUnit, and_assoc, or_assoc]

theorem stackViews_iff (v : Nat) : stackViews v = true ↔ v ∈ [1, 2, 3, 5] := by simp [stackViews, viewUnit, or_assoc]

/-- Settles O9: each word by its own equation; a fence lets catch up exactly the views that it orders. -/
theorem waitsAndFences : Obligations.WaitsAndFences := by
  intro s mask sc
  refine ⟨fun h => ?waitt, fun h => ?held, ?idle, fun hrun hwake => ?wake, fun hpriv => ?treen, ?fences⟩
  case waitt =>
    have hexec : exec (.waitt mask) s = .next (s.skip 4) := if_neg (by rw [(s.me.waits_false_iff mask).2 h]; decide)
    rw [hexec]
    exact completes_skip s 4
  case held => exact if_pos ((s.me.waits_true_iff mask).2 h)
  case idle =>
    refine ⟨_, rfl, ?_, fun i hi => ?_, fun j hj => State.core_setMe_ne s _ hj, State.setMe_rest s _⟩
    · rw [State.me_setMe]
    · rw [State.me_setMe]; exact s.me.pendingToks_getLsbD hi
  case wake =>
    have hwoken : s.me.woken = true := by
      rw [Core.woken, Bool.or_eq_true]
      exact hwake.imp_right s.me.tokenDone_iff.2
    exact ⟨_, execIdleWake_woken hrun hwoken, State.me_setMe s _, fun j hj => State.core_setMe_ne s _ hj, State.setMe_rest s _⟩
  case treen =>
    have hexec : exec .treen s = .next (s.setMe ({ s.me with cstat := s.me.cstat ||| 1 }.advance 4)) :=
      if_neg (by simp [Core.user_false_of_priv hpriv])
    exact ⟨_, hexec, State.me_setMe s _, fun j hj => State.core_setMe_ne s _ hj, State.setMe_rest s _⟩
  case fences =>
    intro fetches commands
    exact ⟨⟨_, rfl, s.sync_fenced (fenceViews_iff s.cur sc)⟩, completes_skip s 4, ⟨_, rfl, s.sync_fenced (fenceViews_iff s.cur sc)⟩,
      ⟨_, rfl, s.sync_fenced fun v => beq_iff_eq⟩, ⟨_, rfl, s.sync_fenced stackViews_iff⟩⟩

end Sys2Proof.Machine
end

section
/-! SUPPORT. Loads and stores that wait for a token or take a trap (R113, R141, R153, R282). -/

namespace Sys2Proof.Machine

/-! ### The forms -/

/-- A row of the table of loads is a load of its bytes. -/
theorem exec_loadTable {p : Nat × Bool × (DReg → SReg → MArgs → Option (BitVec 32) → Instr)} (hp : p ∈ loadTable) (s : State) (rd : DReg)
    (ra : SReg) (m : MArgs) (off : Option (BitVec 32)) : exec (p.2.2 rd ra m off) s = s.loadForm p.1 p.2.1 rd ra m off := by
  simp only [loadTable, List.mem_cons, List.not_mem_nil, or_false] at hp
  obtain rfl | rfl | rfl | rfl | rfl | rfl | rfl | rfl := hp <;> cases off <;> rfl

theorem exec_storeTable {p : Nat × (SReg → SReg → MArgs → Option (BitVec 32) → Instr)} (hp : p ∈ storeTable) (s : State) (rs ra : SReg)
    (m : MArgs) (off : Option (BitVec 32)) : exec (p.2 rs ra m off) s = s.storeForm p.1 rs ra m off := by
  simp only [storeTable, List.mem_cons, List.not_mem_nil, or_false] at hp
  obtain rfl | rfl | rfl | rfl := hp <;> cases off <;> rfl

theorem State.loadForm_waits {s : State} {m : MArgs} (h : s.me.waits m.wait = true) (z : Nat) (sgn : Bool) (rd : DReg) (ra : SReg)
    (off : Option (BitVec 32)) : s.loadForm z sgn rd ra m off = .next s := if_pos h

theorem State.storeForm_waits {s : State} {m : MArgs} (h : s.me.waits m.wait = true) (z : Nat) (rs ra : SReg) (off : Option (BitVec 32)) :
    s.storeForm z rs ra m off = .next s := if_pos h

section
variable {s : State} {m : MArgs} {ra : SReg} {off : Option (BitVec 32)} {c : Nat}

/-- A load whose access is refused takes the trap at its address. -/
theorem State.loadForm_fault {z : Nat} (hw : s.me.waits m.wait = false) (h : s.loadBytes (s.formAddr ra off) z = .fault c) (sgn : Bool)
    (rd : DReg) : s.loadForm z sgn rd ra m off = .next (s.accessTrap c (s.formAddr ra off).toNat) := by
  unfold State.loadForm
  dsimp only
  rw [hw, formAddr_eq, h]
  rfl

theorem State.storeForm_fault {z : Nat} {rs : SReg} (hw : s.me.waits m.wait = false)
    (h : s.storeBytes (s.formAddr ra off) (leBytes z (s.readS rs).toNat) = .fault c) :
    s.storeForm z rs ra m off = .next (s.accessTrap c (s.formAddr ra off).toNat) := by
  unfold State.storeForm
  dsimp only
  rw [hw, formAddr_eq, h]
  rfl

end

/-! ### Refused accesses (R141) -/

section
variable {s : State} {ea : W64}

theorem State.noMap_fault {va : Nat} (h : s.walkHeld s.cur s.me.ctx va = none) : s.noMap va = .fault causeAccess := by
  rw [State.noMap, h]

theorem State.loadBytes_misaligned {z : Nat} (h : ea.toNat % z ≠ 0) : s.loadBytes ea z = .fault causeMisaligned := if_pos h

theorem State.loadBytes_unmapped {z : Nat} (ha : ea.toNat % z = 0) (ht : s.coreVa s.cur .load ea.toNat = none)
    (hh : s.walkHeld s.cur s.me.ctx ea.toNat = none) : s.loadBytes ea z = .fault causeAccess := by
  rw [State.loadBytes, if_neg (not_not.2 ha), ht]
  exact State.noMap_fault hh

theorem State.storeBytes_misaligned {bs : List Byte} (h : ea.toNat % bs.length ≠ 0) : s.storeBytes ea bs = .fault causeMisaligned := if_pos h

theorem State.storeBytes_unmapped {bs : List Byte} (ha : ea.toNat % bs.length = 0) (ht : s.coreVa s.cur .store ea.toNat = none)
    (hh : s.walkHeld s.cur s.me.ctx ea.toNat = none) : s.storeBytes ea bs = .fault causeAccess := by
  unfold State.storeBytes
  dsimp only
  rw [if_neg (not_not.2 ha), ht]
  exact State.noMap_fault hh

theorem completes_misaligned (h : s.canTrap) : Completes (.next (s.accessTrap causeMisaligned ea.toNat)) (TookTrap s 7 ea s.me.pc) := by
  have htook := State.accessTrap_misaligned (va := ea.toNat) h
  rw [BitVec.ofNat_toNat, BitVec.setWidth_eq] at htook
  exact ⟨_, rfl, htook⟩

theorem completes_unmapped (h : s.canTrap) (hw : s.walkBad s.cur s.me.ctx ea.toNat = []) :
    Completes (.next (s.accessTrap causeAccess ea.toNat)) (TookCounted s 6 ea s.me.pc) := by
  have htook := State.accessTrap_took (cause := causeAccess) (by decide) h hw
  rw [BitVec.ofNat_toNat, BitVec.setWidth_eq] at htook
  exact ⟨_, rfl, htook⟩

end

/-- Settles O11: a pending token comes first, then alignment, then the mapping. -/
theorem accessTraps : Obligations.AccessTraps := by
  intro s rd rs ra m off ea noMap
  refine ⟨fun p hp => ?loads, fun p hp => ?stores⟩
  case loads =>
    rw [exec_loadTable hp]
    refine ⟨fun hw => State.loadForm_waits hw _ _ _ _ _, fun hw ht => ⟨fun ha => ?_, fun ha ⟨hva, hbad, hheld⟩ => ?_⟩⟩
    · rw [State.loadForm_fault hw (State.loadBytes_misaligned ha)]
      exact completes_misaligned ht
    · rw [State.loadForm_fault hw (State.loadBytes_unmapped ha hva hheld)]
      exact completes_unmapped ht hbad
  case stores =>
    rw [exec_storeTable hp]
    have hlen : (leBytes p.1 (s.readS rs).toNat).length = p.1 := length_leBytes _ _
    refine ⟨fun hw => State.storeForm_waits hw _ _ _ _, fun hw ht => ⟨fun ha => ?_, fun ha ⟨hva, hbad, hheld⟩ => ?_⟩⟩
    · rw [State.storeForm_fault hw (State.storeBytes_misaligned (by rwa [hlen]))]
      exact completes_misaligned ht
    · rw [State.storeForm_fault hw (State.storeBytes_unmapped (by rwa [hlen]) hva hheld)]
      exact completes_unmapped ht hbad

end Sys2Proof.Machine
end

section
/-! SUPPORT. One step of the part as the meaning of the word that the next agent is at (R91-R94, R113-R115, R174, R175, R344). -/

namespace Sys2Proof.Machine

/-! ### What a fetch leaves of a core (R161, R352) -/

/-- A fetch of core `n` counted its reads and reported its soft errors, which add pending causes to that core and nothing else. -/
structure FetchNoted (s : State) (n : Nat) (t : State) : Prop where
  reported : OnlyReported s t
  core : t.core n = { s.core n with pend := (t.core n).pend }
  others : ∀ j, j ≠ n → t.core j = s.core j

theorem FetchNoted.trans {s t u : State} {n : Nat} (h : FetchNoted s n t) (k : FetchNoted t n u) : FetchNoted s n u where
  reported := h.reported.trans k.reported
  core := by rw [k.core, h.core]
  others j hj := (k.others j hj).trans (h.others j hj)

theorem FetchNoted.run {s t : State} {n : Nat} (h : FetchNoted s n t) : (t.core n).run = (s.core n).run := by rw [h.core]

theorem OnlyCounted.noted {s t : State} (h : OnlyCounted s t) (n : Nat) : FetchNoted s n t where
  reported := h.reported
  core := by rw [h.core]
  others j _ := h.core j

/-- A pending cause does not wake a running core. -/
theorem State.pend_running {s : State} {n : Nat} (hrun : (s.core n).run = .running) (cause : Nat) (tval : W64) :
    (s.pend n cause tval).core n = { s.core n with pend := ((s.pend n cause tval).core n).pend } := by
  have hwake (b : Bool) : ((s.core n).wake || ((s.core n).run == .idle && b)) = (s.core n).wake := by rw [hrun]; exact Bool.or_false _
  rw [State.pend, State.core_setCore_same]
  dsimp only
  rw [hwake]

theorem State.softError_noted {s : State} {n : Nat} (hrun : (s.core n).run = .running) (pa : Nat) : FetchNoted s n (s.softError n pa) where
  reported := rfl
  core := State.pend_running hrun 0x104 _
  others _ hj := State.core_setCore_ne _ _ hj

theorem State.softErrors_noted {s t : State} {n : Nat} (hrun : (s.core n).run = .running) (h : FetchNoted s n t) (pas : List Nat) :
    FetchNoted s n (pas.foldl (fun t pa => t.softError n pa) t) :=
  List.foldlRecOn pas _ (motive := FetchNoted s n) h fun _ hu pa _ => hu.trans (State.softError_noted (hu.run.trans hrun) pa)

theorem State.fetchNote_noted {s : State} {n : Nat} (hrun : (s.core n).run = .running) (va : Nat) : FetchNoted s n (s.fetchNote n va) := by
  have hwalk := (s.countWalk_only n (s.core n).ctx va).noted n
  unfold State.fetchNote
  split
  · exact (State.softErrors_noted hrun hwalk _).trans ((State.countMem_only _ _ _).noted n)
  · exact State.softErrors_noted hrun hwalk _

theorem State.fetched_noted {s : State} {n : Nat} (hrun : (s.core n).run = .running) (w : Nat) : FetchNoted s n (s.fetched n w) := by
  have hfirst := State.fetchNote_noted hrun (s.core n).pc.toNat
  unfold State.fetched
  dsimp only
  split
  · exact hfirst
  · exact hfirst.trans (State.fetchNote_noted (hfirst.run.trans hrun) _)

/-- Where its own bytes meet no bad residue, a fetch is counted only. -/
theorem State.fetchNote_clean {s : State} {n va pa : Nat} (hva : s.coreVa n .fetch va = some pa) (hb : s.badPa (cellRun pa 4) = none) :
    OnlyCounted s (s.fetchNote n va) := by
  have hwalk := s.countWalk_only n (s.core n).ctx va
  rw [State.fetchNote, hva]
  dsimp only
  rw [State.checkRead_none (by rw [hwalk.badPa]; exact hb)]
  exact hwalk.trans (State.countMem_only _ _ _)

theorem OnlyCounted.serrcnt {s t : State} (h : OnlyCounted s t) : t.serrcnt = s.serrcnt := by rw [h]
theorem OnlyCounted.serradr {s t : State} (h : OnlyCounted s t) : t.serradr = s.serradr := by rw [h]
theorem OnlyCounted.coreVa {s t : State} (h : OnlyCounted s t) (n : Nat) (a : Acc) (va : Nat) : t.coreVa n a va = s.coreVa n a va := by
  rw [h]; rfl

theorem State.fetched_clean {s : State} {n w pa : Nat} (hva : s.coreVa n .fetch (s.core n).pc.toNat = some pa)
    (hb : s.badPa (cellRun pa 4) = none)
    (hext : w % 2 = 1 → ∃ pa', s.coreVa n .fetch ((s.core n).pc.toNat + 4) = some pa' ∧ s.badPa (cellRun pa' 4) = none) :
    OnlyCounted s (s.fetched n w) := by
  have hfirst := State.fetchNote_clean hva hb
  unfold State.fetched
  dsimp only
  split
  · exact hfirst
  · obtain ⟨pa', hva', hb'⟩ := hext (by omega)
    exact hfirst.trans (State.fetchNote_clean ((hfirst.coreVa n _ _).trans hva') ((hfirst.badPa _).trans hb'))

/-! ### A core's turn (R91, R93, R94) -/

theorem State.fetch32_of_codeAt {s : State} {n va w : Nat} (h : s.codeAt n va w) : s.fetch32 n va = some w := by
  obtain ⟨pa, as, hva, hh, hc, rfl⟩ := h
  rw [State.fetch32, hva]
  dsimp only
  rw [State.liveCells_eq hh hc]
  rfl

theorem State.fetch_of_codeAt {s : State} {n w e : Nat} (hpc : goodTarget (s.core n).pc) (hw : s.codeAt n (s.core n).pc.toNat w)
    (he : w % 2 = 0 ∧ e = 0 ∨ w % 2 = 1 ∧ s.codeAt n ((s.core n).pc.toNat + 4) e) : s.fetch n = .ok w e := by
  have hgood : (fld (s.core n).pc.toNat 0 2 != 0 || fld (s.core n).pc.toNat 56 8 != 0) = false := (badTarget_false_iff _).2 hpc
  unfold State.fetch
  dsimp only
  rw [hgood, State.fetch32_of_codeAt hw]
  obtain ⟨heven, rfl⟩ | ⟨hodd, hext⟩ := he
  · simp [heven]
  · simp [hodd, State.fetch32_of_codeAt hext]

theorem State.core_enter_same (s : State) (n : Nat) :
    (s.enter n).core n = { s.core n with cyc := (s.core n).cyc + 1 + BitVec.ofNat 64 (Config.cycleGap s.tick % 2 ^ 32) } :=
  State.core_setCore_same s n _

theorem State.core_enter_ne (s : State) {n j : Nat} (h : j ≠ n) : (s.enter n).core j = s.core j := State.core_setCore_ne s _ h

theorem State.coreVa_enter (s : State) (n : Nat) (a : Acc) (va : Nat) : (s.enter n).coreVa n a va = s.coreVa n a va := by
  rw [State.coreVa, State.core_enter_same]; rfl

theorem State.badPa_enter (s : State) (n : Nat) (pas : List Nat) : (s.enter n).badPa pas = s.badPa pas := rfl

theorem State.codeAt_enter {s : State} {n va w : Nat} (h : s.codeAt n va w) : (s.enter n).codeAt n va w := by
  obtain ⟨pa, as, hva, hh, hc, hw⟩ := h
  exact ⟨pa, as, (s.coreVa_enter n .fetch va).trans hva, hh, hc, hw⟩

theorem State.runWordC_decoded {w e : Nat} {i : Instr} (h : decodeC w e = some i) (s : State) :
    s.runWordC w e = exec i { s with ir := BitVec.ofNat 32 w } := by
  rw [State.runWordC, h]

theorem State.runWordC_illegal {w e : Nat} (h : decodeC w e = none) (s : State) :
    s.runWordC w e = .next (State.illegal { s with ir := BitVec.ofNat 32 w }) := by
  rw [State.runWordC, h]

section
variable {s : State} {n : Nat}

/-- A running core that takes no asynchronous cause is at a word: the one that has begun, or the one that it fetches. -/
theorem coreTurn_begun {w : W32} (hrun : (s.core n).run = .running) (hbegun : (s.core n).begun = some w) :
    coreTurn n s = (s.enter n).runWordC w.toNat 0 := by
  have hlive : (s.core n).live = true := by rw [Core.live, hrun]; rfl
  have hasync : (s.core n).takesAsync = false := by rw [Core.takesAsync, hbegun]; exact Bool.and_false _
  unfold coreTurn
  dsimp only
  rw [hlive, hasync, hrun, hbegun]
  rfl

theorem coreTurn_fetched {w e : Nat} (hrun : (s.core n).run = .running) (hbegun : (s.core n).begun = none)
    (hasync : (s.core n).takesAsync = false ∨ (s.core n).firstCause = none) (hfetch : (s.enter n).fetch n = .ok w e) :
    coreTurn n s = ((s.enter n).fetched n w).runWordC w e := by
  have hlive : (s.core n).live = true := by rw [Core.live, hrun]; rfl
  have hnone : ((s.core n).takesAsync && (s.core n).firstCause.isSome) = false := by
    obtain h | h := hasync <;> simp [h]
  unfold coreTurn
  dsimp only
  rw [hlive, hnone, hrun, hbegun, hfetch]
  rfl

end

/-- The state in which a turn is taken. -/
def State.moving (s : State) (rest : List Turn) : State := { s with agenda := rest, tick := s.tick + 1 }

theorem step_cons {s : State} {x : Turn} {rest : List Turn} (h : s.agenda = x :: rest) : step s = turn x (s.moving rest) := by
  rw [step, h]; rfl

theorem step_schedule {s : State} (h : s.agenda = []) : step s = step { s with agenda := [Config.schedule s.tick] } := by
  have hmoving : { s with tick := s.tick + 1 } = s.moving [] := by rw [State.moving, ← h]
  rw [step_cons (s := { s with agenda := [Config.schedule s.tick] }) rfl, step]
  split
  · rename_i hcons; exact absurd (h.symm.trans hcons) nofun
  · rw [hmoving]; rfl

theorem step_core {s : State} {n : Nat} {rest : List Turn} (h : s.agenda = .core n :: rest) (hn : n < 136) :
    step s = coreTurn n (s.moving rest) := by
  rw [step_cons h, turn, if_pos hn]

/-! ### The turn of a region (R113-R115, R174, R175) -/

section
variable {s : State} {g : Nat}

theorem regionTurn_run (h : (s.region g).mode = .run) : regionTurn g s = (s.cycleTurn g).then fun t => .next (t.formStop g) := by
  rw [regionTurn, h]

/-- The next item of a cycle that waits for no other region and needs no implicit close. -/
theorem State.cycleTurn_item {x : Work} {rest : List Work} (hwork : (s.region g).work = x :: rest) (hwaits : s.waitsTurn g = false)
    (hclose : s.wantsClose g = false) : s.cycleTurn g = (s.setRegion g { s.region g with work := rest }).workItem g x := by
  unfold State.cycleTurn
  dsimp only
  rw [hwaits, hwork, hclose]
  rfl

/-- An element's word waits for nothing once it is an item of the cycle. -/
theorem State.cycleTurn_word {el entry tag : Nat} {iter : Option Int} {null : Bool} {rest : List Work}
    (hwork : (s.region g).work = .word el entry tag iter null :: rest) :
    s.cycleTurn g = (s.setRegion g { s.region g with work := rest }).runWord g el entry tag iter null := by
  refine State.cycleTurn_item hwork ?_ ?_
  · rw [State.waitsTurn, hwork]
  · rw [State.wantsClose, hwork]; exact Bool.and_false _

theorem State.cycleTurn_row {ix : Nat} {rest : List Work} (hwork : (s.region g).work = .row ix :: rest) (hclose : s.wantsClose g = false) :
    s.cycleTurn g = (s.setRegion g { s.region g with work := rest }).issueRow g ix := by
  refine State.cycleTurn_item hwork ?_ hclose
  rw [State.waitsTurn, hwork]

/-- The word of a context entry that decodes is the instruction's. -/
theorem State.runWord_decoded {el entry : Nat} {i : Instr} (h : decodeE (bits64 (s.entryAt el entry).slot 0 40) = some i) (tag : Nat)
    (iter : Option Int) (null : Bool) : s.runWord g el entry tag iter null
      = exec i { s with site := ⟨g, el, entry, tag, iter, (s.region g).squashes iter, null⟩ } := by
  unfold State.runWord
  dsimp only
  rw [State.entryAt, decodeE] at h
  cases hf : eFields (bits64 (SMap.get CtxEntry.reset (s.elem el).ctx entry).slot 0 40) with
  | none => rw [hf] at h; cases h
  | some f =>
    rw [hf] at h
    obtain ⟨k, hk, rfl⟩ := Option.map_eq_some_iff.1 h
    dsimp only
    rw [elementWord_eq, hk]
    rfl

/-- What decodes to an S-row has the row's meaning. -/
theorem rowMeaning_decoded {w : Nat} {i : Instr} (h : decodeRow w = some i) : rowMeaning i s = exec i s := by
  unfold decodeRow at h
  dsimp only at h
  (repeat' split at h) <;> cases h <;> rfl

theorem State.get_perf_count (s : State) (k n j : Nat) :
    SMap.get 0 (s.count k n).perf j = if j = k then SMap.get 0 s.perf j + BitVec.ofNat 64 n else SMap.get 0 s.perf j := by
  rw [State.count, SMap.get_set]
  split
  · rename_i h; rw [h]
  · rfl

/-- The region as a row of its cycle issues. -/
def State.rowIssued (s : State) (g ix : Nat) : State :=
  { (s.setRegion g { s.region g with rowix := ix, relapsed := 0, started := true }).count (0x100 + 16 * (g / 128) + 1) 1 with
    site := { Site.reset with g := g } }

theorem State.issueRow_decoded {ix : Nat} {w : W64} {i : Instr} (hw : (s.region g).rows[ix]? = some w) (h : decodeRow w.toNat = some i) :
    s.issueRow g ix = Out.then (exec i (s.rowIssued g ix)) fun u =>
      let q := u.region g
      .next (if bits64 w 60 4 = 1 ∧ q.mode = .run ∧ (q.span.any fun sp => sp.row == ix) = true then
        u.setRegion g { q with work := q.bodyRows ++ q.work } else u) := by
  have hkind : (s.region g).kindAt ix = bits64 w 60 4 := by rw [Region.kindAt, hw]; rfl
  unfold State.issueRow
  dsimp only
  rw [hw, Option.bind_some, h]
  dsimp only
  rw [rowMeaning_decoded h, hkind]
  rw [State.rowIssued]
  generalize exec i _ = o
  cases o <;> rfl

end

/-! ### The turn of a near-memory unit (R344) -/

theorem nWordMeaning_decoded {w : Nat} {i : Instr} (h : decodeN w = some i) (s : State) : nWordMeaning i s = exec i s := by
  unfold decodeN at h
  dsimp only at h
  split at h
  · cases h; rfl
  · cases h

theorem unitTurn_decoded {s : State} {k : Nat} {p : Packet} {m : List (BitVec 128) × List W32} {i : Instr} (hcmd : (s.nmu k).cmd = some p)
    (himage : (s.nmu k).image = some m) (h : decodeN ((m.1[(s.nmu k).upc.toNat]?).getD 0).toNat = some i) :
    unitTurn k s = exec i { s with unit := k } := by
  unfold unitTurn
  dsimp only
  rw [hcmd, himage]
  dsimp only
  rw [h]
  exact nWordMeaning_decoded h _

/-! ### The claim -/

/-- Core `n` as the word that it has fetched is about to take effect: its cycle count has moved on, and the fetch is noted. -/
def State.atWord (s : State) (n w : Nat) : State := { (s.enter n).fetched n w with ir := BitVec.ofNat 32 w }

section
variable {s : State} {n : Nat}

theorem State.enter_fetched_noted (hrun : (s.core n).run = .running) (w : Nat) : FetchNoted (s.enter n) n ((s.enter n).fetched n w) :=
  State.fetched_noted (by rw [State.core_enter_same]; exact hrun) w

theorem State.atWord_reported (hrun : (s.core n).run = .running) (w : Nat) :
    OnlyReported { s with cores := (s.atWord n w).cores, cur := n, ir := BitVec.ofNat 32 w } (s.atWord n w) := by
  unfold OnlyReported
  exact congrArg (fun t : State => { t with ir := BitVec.ofNat 32 w }) (State.enter_fetched_noted hrun w).reported

theorem State.core_atWord (hrun : (s.core n).run = .running) (w : Nat) : (s.atWord n w).core n = { s.core n with
    cyc := (s.core n).cyc + 1 + BitVec.ofNat 64 (Config.cycleGap s.tick % 2 ^ 32), pend := ((s.atWord n w).core n).pend } :=
  (State.enter_fetched_noted hrun w).core.trans (by rw [State.core_enter_same]; rfl)

theorem State.core_atWord_ne (hrun : (s.core n).run = .running) (w : Nat) {j : Nat} (hj : j ≠ n) : (s.atWord n w).core j = s.core j :=
  ((State.enter_fetched_noted hrun w).others j hj).trans (State.core_enter_ne s hj)

/-- A fetch that meets no bad residue reports nothing. -/
theorem State.atWord_clean {w pa : Nat} (hva : s.coreVa n .fetch (s.core n).pc.toNat = some pa) (hb : s.badPa (cellRun pa 4) = none)
    (hext : w % 2 = 1 → ∃ pa', s.coreVa n .fetch ((s.core n).pc.toNat + 4) = some pa' ∧ s.badPa (cellRun pa' 4) = none) :
    ((s.atWord n w).core n).pend = (s.core n).pend ∧ (s.atWord n w).serrcnt = s.serrcnt ∧ (s.atWord n w).serradr = s.serradr := by
  have hpc : ((s.enter n).core n).pc = (s.core n).pc := by rw [State.core_enter_same]
  have hcounted : OnlyCounted (s.enter n) ((s.enter n).fetched n w) := by
    refine State.fetched_clean (pa := pa) ?_ hb ?_
    · rwa [hpc, State.coreVa_enter]
    · simpa only [hpc, State.coreVa_enter, State.badPa_enter] using hext
  have hpend : (((s.enter n).fetched n w).core n).pend = (s.core n).pend := by rw [hcounted.core, State.core_enter_same]
  exact ⟨hpend, hcounted.serrcnt, hcounted.serradr⟩

theorem State.fetch_enter {w e : Nat} (hpc : goodTarget (s.core n).pc) (hcode : s.codeAt n (s.core n).pc.toNat w)
    (hext : w % 2 = 0 ∧ e = 0 ∨ w % 2 = 1 ∧ s.codeAt n ((s.core n).pc.toNat + 4) e) : (s.enter n).fetch n = .ok w e := by
  have hpc' : ((s.enter n).core n).pc = (s.core n).pc := by rw [State.core_enter_same]
  refine State.fetch_of_codeAt (by rwa [hpc']) (by rw [hpc']; exact State.codeAt_enter hcode) ?_
  rw [hpc']
  exact hext.imp_right fun ⟨hodd, he⟩ => ⟨hodd, State.codeAt_enter he⟩

end

/-- Settles O57: the turn of each agent, by the equation of its word. -/
theorem stepRunsDecodedWord : Obligations.StepRunsDecodedWord := by
  intro s rest at_ s1
  refine ⟨step_schedule, fun i hag => step_cons hag, ?core, ?begun, ?element, ?row, ?unit⟩
  case core =>
    intro n w e hag hn c hrun hbegun hasync hpc hcode hext clean
    have hstep : step s = ((s1.enter n).fetched n w).runWordC w e :=
      (step_core hag hn).trans (coreTurn_fetched hrun hbegun hasync (State.fetch_enter hpc hcode hext))
    refine ⟨s1.atWord n w, Config.cycleGap s1.tick % 2 ^ 32, Nat.mod_lt _ (by decide), State.atWord_reported (s := s1) hrun w,
      State.core_atWord (s := s1) hrun w, fun j hj => State.core_atWord_ne (s := s1) hrun w hj,
      fun hclean hclean' => ?_, fun i hi => ?_, fun hi => ?_⟩
    · obtain ⟨pa, as, hpa, -⟩ := hcode
      refine State.atWord_clean (s := s1) hpa (hclean pa hpa) fun hodd => ?_
      obtain ⟨heven, -⟩ | ⟨-, pa', as', hpa', -⟩ := hext
      · omega
      · exact ⟨pa', hpa', hclean' hodd pa' hpa'⟩
    · rw [hstep, State.runWordC_decoded hi]; rfl
    · rw [hstep, State.runWordC_illegal hi]; rfl
  case begun =>
    intro n w i hag hn hrun hbegun hi
    refine ⟨{ s1.enter n with ir := w }, Config.cycleGap s1.tick % 2 ^ 32, Nat.mod_lt _ (by decide), rfl, State.core_enter_same s1 n,
      fun j hj => State.core_enter_ne s1 hj, ?_⟩
    have hstep : step s = (s1.enter n).runWordC w.toNat 0 := (step_core hag hn).trans (coreTurn_begun hrun hbegun)
    rw [hstep, State.runWordC_decoded hi, BitVec.ofNat_toNat, BitVec.setWidth_eq]
  case element =>
    intro g el entry tag iter null more i hag r hmode hwork hi
    have hstep : step s = Out.then (s1.cycleTurn g) fun t => .next (t.formStop g) := (step_cons hag).trans (regionTurn_run (s := s1) hmode)
    let v := s1.setRegion g { r with work := more }
    have hregion : v.region g = { r with work := more } := State.region_setRegion_same ..
    have hcycle : s1.cycleTurn g = v.runWord g el entry tag iter null := State.cycleTurn_word hwork
    rw [hstep, hcycle, State.runWord_decoded (s := v) hi, hregion]
    rfl
  case row =>
    intro g ix more w i hag r hmode hwork hclose hw hi
    have hstep : step s = Out.then (s1.cycleTurn g) fun t => .next (t.formStop g) := (step_cons hag).trans (regionTurn_run (s := s1) hmode)
    let v := s1.setRegion g { r with work := more }
    have hregion : v.region g = { r with work := more } := State.region_setRegion_same ..
    refine ⟨v.rowIssued g ix, ?_, fun h hh => ?_, rfl, fun k => ?_, ?_⟩
    · exact (State.region_setRegion_same ..).trans (by rw [hregion])
    · exact (State.region_setRegion_ne v _ hh).trans (State.region_setRegion_ne s1 _ hh)
    · rw [show 0x101 + 16 * (g / 128) = 0x100 + 16 * (g / 128) + 1 by omega]
      exact State.get_perf_count (v.setRegion g _) _ 1 k
    · have hcycle : s1.cycleTurn g = v.issueRow g ix := State.cycleTurn_row hwork hclose
      rw [hstep, hcycle, State.issueRow_decoded (w := w) (by rw [hregion]; exact hw) hi]
      cases exec i (v.rowIssued g ix) <;> rfl
  case unit =>
    intro k p m i hag hcmd himage hi
    exact (step_cons hag).trans (unitTurn_decoded (s := s1) hcmd himage hi)

end Sys2Proof.Machine
end

section
/-! SUPPORT. Words that send east in `crossedRegions`, where the claims about the destinations of a word fail (R150, R187, R190). -/

namespace Sys2Proof.Machine

/-- Region 0, written, stands before region 1, as the order of the numbers asks, and so holds the tile where the two meet. -/
theorem crossedRegions_setRegion_regionOfTile {r : Region} (hholds : r.holds = true) (hcovers : r.covers 0 1 = true) :
    (crossedRegions.setRegion 0 r).regionOfTile 1 = some 0 := by
  have hr : r ≠ Region.reset := by rintro rfl; exact Bool.false_ne_true hholds
  have hregions : (crossedRegions.setRegion 0 r).regions = [(0, r), (1, crossedRegions.region 1)] := if_neg hr
  rw [State.regionOfTile, hregions, List.find?_cons_of_pos (by simp [hholds, hcovers]), Option.map_some]

/-- Once a result is in flight, the receiver stands in region 0, which is running. -/
theorem crossedRegions_flyIn_stoppedElem (lat : Nat) (what : Land) (flags : BitVec 5) (fault : Option (Nat × Nat)) :
    (crossedRegions.flyIn lat what flags fault).stoppedElem 4 = false := by
  rw [State.stoppedElem, State.flyIn, show crossedRegions.site.g = 0 from rfl, show tileOfElem 4 = 1 from rfl,
    crossedRegions_setRegion_regionOfTile rfl rfl, Option.elim_some, State.region_setRegion_same]
  rfl

/-- A word that acts and sends east reserves the receiver's slot. -/
theorem crossedRegions_write_reserves {p : EPred} (hact : crossedRegions.picks p ≠ 0) (f : Nat → LaneRes) :
    (((crossedRegions.write (.link 1) p f).elem 4).slot 3).reserved = true := by
  have hout : crossedRegions.write (.link 1) p f = crossedRegions.out (.link 1) (crossedRegions.picks p) (crossedRegions.laneOut p f) := rfl
  rw [hout, State.out, if_neg hact, show crossedRegions.sendTo (1 : BitVec 2).toNat = some 4 from crossedRegions_receiver.1, State.send]
  rw [crossedRegions_flyIn_stoppedElem]
  simp [State.flyIn, State.reserve, Elem.slot, faceBack]

/-- A word that acts and sends east lands as claimed only where it leaves the slot alone: the receiver's region is stopped (R150). -/
theorem crossedRegions_lands_keeps {w : EArgs} (hdst : w.dst = .link 1) (hact : crossedRegions.picks w.pred ≠ 0) {f : Nat → LaneRes} {t : State}
    (h : crossedRegions.Lands w f t) : ((t.elem 4).slot 3).reserved = false := by
  obtain ⟨hto, hstopped, hfree⟩ := crossedRegions_receiver
  obtain ⟨vals, P, F, flt, -, -, hsent⟩ := h
  dsimp only at hsent
  rw [hdst] at hsent
  have hsend := hsent.2 fun hnone => hnone.elim Bool.false_ne_true hact
  unfold State.SendsOn at hsend
  rw [show crossedRegions.sendTo (1 : BitVec 2).toNat = some 4 from hto] at hsend
  obtain ⟨u, -, hslot, -⟩ := hsend
  rw [hslot, if_neg fun hc => Bool.false_ne_true (hc.2.symm.trans hstopped)]
  exact hfree

/-- A word of these sources, sent east. -/
def sendEast (a b c : ESrc) : EArgs := ⟨.link 1, a, b, c, .always⟩

/-- Whatever lane results a word writes, and whatever results are claimed of it: sent east in `crossedRegions`, it does not land as claimed. -/
theorem crossedRegions_write_not_lands {a b c : ESrc} (f g : Nat → LaneRes) :
    ¬ Completes (.next (crossedRegions.write (.link 1) .always f)) (crossedRegions.Lands (sendEast a b c) g) := by
  have hact : crossedRegions.picks .always ≠ 0 := by decide
  rintro ⟨t, ht, hlands⟩
  obtain rfl := Host.Outcome.next.inj ht
  exact Bool.false_ne_true ((crossedRegions_lands_keeps rfl hact hlands).symm.trans (crossedRegions_write_reserves hact f))

/-- Refutes O24: `add.i32` east in `crossedRegions`, a word that CTXLOAD accepts. The statement asks for no canonical map of regions. -/
theorem not_integerWords : ¬ Obligations.IntegerWords := by
  intro h
  obtain ⟨-, hadd, -⟩ := h crossedRegions (sendEast (.lit 0) (.lit 0) .none)
  exact crossedRegions_write_not_lands _ _ (hadd _ (List.mem_cons_self ..))

/-- Refutes O25: `add.f32` east in `crossedRegions`, as in O24. -/
theorem not_floatWords : ¬ Obligations.FloatWords := by
  intro h
  obtain ⟨-, hadd, -⟩ := h crossedRegions (sendEast (.lit 0) (.lit 0) .none)
  exact crossedRegions_write_not_lands _ _ (hadd _ (List.mem_cons_self ..))

/-- Refutes O27: `sel` east in `crossedRegions`, as in O24. -/
theorem not_compareAndMaskWords : ¬ Obligations.CompareAndMaskWords := by
  intro h
  obtain ⟨-, -, -, -, hsel⟩ := h crossedRegions (sendEast (.m 0) (.lit 0) (.lit 0))
  exact crossedRegions_write_not_lands _ _ hsel

/-- Refutes O28: `mov` of a literal east in `crossedRegions`, as in O24. -/
theorem not_specialWords : ¬ Obligations.SpecialWords := by
  intro h
  obtain ⟨-, -, -, hmov, -⟩ := h crossedRegions (sendEast (.lit 0) .none .none)
  exact crossedRegions_write_not_lands _ _ (hmov 0 rfl)

end Sys2Proof.Machine
end

section
/-! SUPPORT. Landings: which result lands, and what each kind of result leaves (R116, R143, R146, R187, R295). -/

namespace Sys2Proof.Machine

/-! ### The first result that is due -/

theorem dueAt_eq_none {rc : Nat} {p : Flight → Bool} {fs : List Flight} (h : ∀ x ∈ fs, x.due ≤ rc → p x = false) : dueAt rc p fs = none := by
  rw [dueAt, List.findIdx?_eq_none_iff]
  intro x hx
  by_cases hdue : x.due ≤ rc
  · simp [h x hx hdue]
  · simp [hdue]

theorem dueAt_append_cons {rc : Nat} {p : Flight → Bool} {pre post : List Flight} {f : Flight} (hpre : ∀ x ∈ pre, x.due ≤ rc → p x = false)
    (hdue : f.due ≤ rc) (hp : p f = true) : dueAt rc p (pre ++ f :: post) = some pre.length := by
  have hnone : pre.findIdx? (fun x => decide (x.due ≤ rc) && p x) = none := dueAt_eq_none hpre
  rw [dueAt, List.findIdx?_append, hnone, List.findIdx?_cons, if_pos (by simp [hdue, hp])]
  simp

section
variable {s : State} {g : Nat} {p : Flight → Bool} {pre post : List Flight} {f : Flight}

theorem State.landFirst_eq_none (h : ∀ x ∈ (s.region g).flight, x.due ≤ (s.region g).rc → p x = false) : s.landFirst g p = none := by
  unfold State.landFirst
  dsimp only
  rw [dueAt_eq_none h]

theorem State.landFirst_eq_some (hflight : (s.region g).flight = pre ++ f :: post) (hdue : f.due ≤ (s.region g).rc) (hp : p f = true)
    (hpre : ∀ x ∈ pre, x.due ≤ (s.region g).rc → p x = false) :
    s.landFirst g p = some (if f.isRead then s.bankRead g pre.length f else s.landAt g pre.length f) := by
  unfold State.landFirst
  dsimp only
  rw [hflight, dueAt_append_cons hpre hdue hp]
  simp

theorem Flight.isRead_iff (x : Flight) : x.isRead = true ↔ ∃ a b c d e l, x.what = .sread a b c d e l := by
  unfold Flight.isRead
  split <;> simp_all

theorem Flight.isLink_iff (x : Flight) : x.isLink = true ↔ ∃ a b c d, x.what = .link a b c d := by
  unfold Flight.isLink
  split <;> simp_all

/-- A result that is neither a bank read nor a send lands where no bank read is due and only sends stand before it. -/
theorem execWordResultLanding_lands (hflight : (s.region g).flight = pre ++ f :: post) (hdue : f.due ≤ (s.region g).rc)
    (hlink : f.isLink = false) (hread : f.isRead = false) (hreads : ∀ x ∈ pre ++ post, x.isRead = true → (s.region g).rc < x.due)
    (hpre : ∀ x ∈ pre, x.due ≤ (s.region g).rc → x.isLink = true) :
    exec (.wordResultLanding g) s = .next (s.landAt g pre.length f) := by
  have hnoRead : s.landFirst g Flight.isRead = none := by
    refine State.landFirst_eq_none fun x hx hxdue => Bool.eq_false_iff.2 fun hxread => ?_
    rw [hflight, List.mem_append, List.mem_cons] at hx
    obtain hx | rfl | hx := hx
    · exact absurd hxdue (not_le.2 (hreads x (List.mem_append_left _ hx) hxread))
    · exact Bool.false_ne_true (hread.symm.trans hxread)
    · exact absurd hxdue (not_le.2 (hreads x (List.mem_append_right _ hx) hxread))
  have hfirst := State.landFirst_eq_some (p := fun f => !f.isLink) hflight hdue (by simp [hlink]) fun x hx hxdue => by simp [hpre x hx hxdue]
  have harm : exec (.wordResultLanding g) s = execWordResultLanding g s := rfl
  rw [harm, execWordResultLanding, hnoRead, hfirst, hread]
  simp

/-! ### What a landing leaves -/

/-- The results in flight of region `g` are now `flight`. -/
def State.fliesOn (s : State) (g : Nat) (flight : List Flight) : State := s.setRegion g { s.region g with flight := flight }

theorem State.region_fliesOn_same (s : State) (g : Nat) (flight : List Flight) :
    (s.fliesOn g flight).region g = { s.region g with flight := flight } := State.region_setRegion_same ..

theorem State.region_fliesOn_ne (s : State) {g h : Nat} (flight : List Flight) (hh : h ≠ g) : (s.fliesOn g flight).region h = s.region h :=
  State.region_setRegion_ne _ _ hh

theorem State.setRegion_setRegion (s : State) (g : Nat) (q r : Region) : (s.setRegion g q).setRegion g r = s.setRegion g r := by
  simp only [State.setRegion, SMap.set_set]

@[simp] theorem State.elem_fliesOn (s : State) (g : Nat) (flight : List Flight) (j : Nat) : (s.fliesOn g flight).elem j = s.elem j := rfl

theorem State.setElem_fliesOn (s : State) (g : Nat) (flight : List Flight) (j : Nat) (x : Elem) :
    (s.fliesOn g flight).setElem j x = (s.setElem j x).fliesOn g flight := rfl

theorem State.landAt_eq (hflight : (s.region g).flight = pre ++ f :: post) :
    s.landAt g pre.length f = ((s.fliesOn g (pre ++ post)).landWhat g f).landStatus g f := by
  rw [State.landAt, hflight, List.eraseIdx_append_of_length_le le_rfl, Nat.sub_self, List.eraseIdx_cons_zero]
  rfl

theorem raiseFlags_eq (estat : W32) (fl : Flags) : raiseFlags estat fl = estat ||| BitVec.ofNat 32 fl.toNat := by
  rw [BitVec.ofNat_toNat]; rfl

theorem raiseFlags_zero (estat : W32) : raiseFlags estat 0 = estat := BitVec.or_zero

/-- A loop span once an `exitf` of iteration `it` has landed: it keeps the lowest iteration that set REXIT (R132, R178). -/
def Span.exitSeen (sp : Span) (it : Option Int) : Span :=
  match it with
  | some j => { sp with exitMin := some (sp.exitMin.elim j (min j)) }
  | none => sp

section
variable (t : State)

theorem State.landWhat_vreg {n : Nat} {act P : W32} {vals : List W32} (h : f.what = .vreg n act vals P) :
    t.landWhat g f = t.setElem f.el ((t.elem f.el).putLanes n act vals P) := by rw [State.landWhat, h]

theorem State.landWhat_sreg {n : Nat} {v : W32} {b : Bool} (h : f.what = .sreg n v b) :
    t.landWhat g f = t.setElem f.el ((t.elem f.el).putS n v b) := by rw [State.landWhat, h]

theorem State.landWhat_mreg {n : Nat} {act v P : W32} (h : f.what = .mreg n act v P) :
    t.landWhat g f = t.setElem f.el ((t.elem f.el).putM n act v P) := by rw [State.landWhat, h]

theorem State.landWhat_plane {n : Nat} {rows : W32} {sites : List W16} {P : List W32} (h : f.what = .plane n rows sites P) :
    t.landWhat g f = t.setElem f.el ((t.elem f.el).putPlane n rows sites P) := by rw [State.landWhat, h]

theorem State.landWhat_clrst (h : f.what = .clrst) :
    t.landWhat g f = t.setElem f.el { t.elem f.el with estat := clearStatus (t.elem f.el).estat } := by rw [State.landWhat, h]

theorem State.landWhat_kbsel {n : BitVec 2} (h : f.what = .kbsel n) :
    t.landWhat g f = t.setElem f.el { t.elem f.el with estat := setKbsel (t.elem f.el).estat n } := by rw [State.landWhat, h]

theorem State.landWhat_quiet {b : Bool} (h : f.what = .quiet b) :
    t.landWhat g f = t.setElem f.el { t.elem f.el with estat := setQuiet (t.elem f.el).estat b } := by rw [State.landWhat, h]

theorem State.landWhat_nothing (h : f.what = .nothing) : t.landWhat g f = t := by rw [State.landWhat, h]

theorem State.landWhat_link {el k : Nat} {vals : List W32} {P : W32} (h : f.what = .link el k vals P) :
    t.landWhat g f = t.setElem el { t.elem el with links := SMap.set Slot.empty (t.elem el).links k ⟨true, true, vals, P⟩ } := by
  rw [State.landWhat, h]

theorem State.landWhat_egress {x : Egress} (h : f.what = .egress x) :
    t.landWhat g f = t.setRegion g { t.region g with egress := (t.region g).egress ++ [x] } := by rw [State.landWhat, h]

theorem State.landWhat_exitf {it : Option Int} (h : f.what = .exitf it) :
    t.landWhat g f = t.setRegion g { t.region g with
      gr := { (t.region g).gr with rexit := true }, span := (t.region g).span.map (·.exitSeen it) } := by
  rw [State.landWhat, h]
  refine congrArg (fun o => t.setRegion g { t.region g with gr := { (t.region g).gr with rexit := true }, span := o }) ?_
  refine congrArg (Option.map · (t.region g).span) (funext fun sp => ?_)
  cases it with
  | none => rfl
  | some j => cases hmin : sp.exitMin <;> simp [Span.exitSeen, hmin]

theorem State.landWhat_accw {k : Nat} {l : List (Nat × (W32 × Bool))} (h : f.what = .accw k l) :
    t.landWhat g f = t.setTile k { t.tile k with
      acc := l.foldl (fun m p => SMap.set 0 m p.1 p.2.1) (t.tile k).acc,
      accp := l.foldl (fun m p => SMap.set false m p.1 p.2.2) (t.tile k).accp } := by rw [State.landWhat, h]

theorem State.landWhat_feedA {k : Nat} {l : List (Nat × OpSlot)} (h : f.what = .feed k false l) :
    t.landWhat g f = t.setTile k { t.tile k with opa := feedAll (t.tile k).opa l } := by
  rw [State.landWhat, h]
  rfl

end

theorem setKbsel_eq (estat : W32) (n : BitVec 2) : setKbsel estat n = (estat &&& 0xFFFFFF9F) ||| BitVec.ofNat 32 (32 * n.toNat) := by
  have h : ∀ n : BitVec 2, n.setWidth 32 <<< 5 = BitVec.ofNat 32 (32 * n.toNat) := by decide
  rw [setKbsel, h]
  rfl

/-- Element `j` became `x`, and nothing else changed. -/
def State.OnlyElem (s : State) (j : Nat) (x : Elem) (u : State) : Prop :=
  u.elem j = x ∧ (∀ k, k ≠ j → u.elem k = s.elem k) ∧ u = { s with elems := u.elems }

theorem State.onlyElem_refl (s : State) (j : Nat) : s.OnlyElem j (s.elem j) s := ⟨rfl, fun _ _ => rfl, rfl⟩

theorem State.onlyElem_setElem (s : State) (j : Nat) (x : Elem) : s.OnlyElem j x (s.setElem j x) :=
  ⟨State.elem_setElem_same .., fun _ hk => State.elem_setElem_ne _ _ hk, rfl⟩

/-- Without a fault, ESTAT of the element takes the flags (R87). -/
theorem State.landStatus_onlyElem (t : State) (hfault : f.fault = none) :
    t.OnlyElem f.el { t.elem f.el with estat := raiseFlags (t.elem f.el).estat f.flags } (t.landStatus g f) := by
  rw [State.landStatus, hfault]
  dsimp only
  split
  · rename_i hflags
    rw [hflags, raiseFlags_zero]
    exact State.onlyElem_refl ..
  · exact State.onlyElem_setElem ..

theorem State.landStatus_clean (t : State) (hfault : f.fault = none) (hflags : f.flags = 0) : t.landStatus g f = t := by
  rw [State.landStatus, hfault, hflags]
  rfl

theorem State.OnlyElem.trans {t u : State} {j : Nat} {x y : Elem} (h : s.OnlyElem j x t) (h' : t.OnlyElem j y u) : s.OnlyElem j y u := by
  obtain ⟨-, hothers, hrest⟩ := h
  obtain ⟨hy, hothers', hrest'⟩ := h'
  refine ⟨hy, fun k hk => (hothers' k hk).trans (hothers k hk), ?_⟩
  rw [hrest', hrest]

/-- The results in flight of region `g` are `flight`; every other region is as it was. -/
def State.Left (s : State) (g : Nat) (flight : List Flight) (u : State) : Prop :=
  u.region g = { s.region g with flight := flight } ∧ ∀ h, h ≠ g → u.region h = s.region h

theorem State.left_of_regions {u : State} {flight : List Flight} (h : u.regions = (s.fliesOn g flight).regions) : s.Left g flight u := by
  have hregion (k : Nat) : u.region k = (s.fliesOn g flight).region k := congrArg (SMap.get Region.reset · k) h
  exact ⟨(hregion g).trans (s.region_fliesOn_same g flight), fun k hk => (hregion k).trans (s.region_fliesOn_ne flight hk)⟩

theorem State.setRegion_fliesOn (s : State) (g : Nat) (flight : List Flight) (r : Region) : (s.fliesOn g flight).setRegion g r = s.setRegion g r :=
  State.setRegion_setRegion ..

/-- A result landed in element `j`, which now meets `P`. -/
def State.LandedOn (s : State) (g : Nat) (flight : List Flight) (j : Nat) (P : Elem → Prop) (u : State) : Prop :=
  P (u.elem j) ∧ (∀ k, k ≠ j → u.elem k = s.elem k) ∧ s.Left g flight u ∧ u = { s with elems := u.elems, regions := u.regions }

/-- A result landed in tile `k`, which now meets `P`. -/
def State.LandedIn (s : State) (g : Nat) (flight : List Flight) (k : Nat) (P : Tile → Prop) (u : State) : Prop :=
  P (u.tile k) ∧ (∀ j, j ≠ k → u.tile j = s.tile j) ∧ s.Left g flight u ∧ u = { s with tiles := u.tiles, regions := u.regions }

theorem State.OnlyElem.landedOn {u : State} {flight : List Flight} {j : Nat} {x : Elem} {P : Elem → Prop}
    (h : (s.fliesOn g flight).OnlyElem j x u) (hP : P x) : s.LandedOn g flight j P u := by
  obtain ⟨rfl, hothers, hrest⟩ := h
  have hregions : u.regions = (s.fliesOn g flight).regions := by rw [hrest]
  refine ⟨hP, hothers, State.left_of_regions hregions, ?_⟩
  rw [hregions]
  exact hrest

theorem State.landedIn_setTile {flight : List Flight} {k : Nat} {x : Tile} {P : Tile → Prop} (hP : P x) :
    s.LandedIn g flight k P ((s.fliesOn g flight).setTile k x) := by
  refine ⟨?_, fun j hj => State.tile_setTile_ne _ _ hj, State.left_of_regions rfl, rfl⟩
  rw [State.tile_setTile_same]
  exact hP

section
variable (hflight : (s.region g).flight = pre ++ f :: post) (hfault : f.fault = none)
include hflight hfault

/-- A result that touches its element only, with its flags. -/
theorem State.landAt_onElem {F : Elem → Elem} {P : Elem → Prop} (hwhat : ∀ t : State, t.OnlyElem f.el (F (t.elem f.el)) (t.landWhat g f))
    (hP : P { F (s.elem f.el) with estat := raiseFlags (F (s.elem f.el)).estat f.flags }) :
    s.LandedOn g (pre ++ post) f.el P (s.landAt g pre.length f) := by
  rw [State.landAt_eq hflight]
  have hland := hwhat (s.fliesOn g (pre ++ post))
  have hstatus := State.landStatus_onlyElem (g := g) ((s.fliesOn g (pre ++ post)).landWhat g f) hfault
  rw [hland.1] at hstatus
  exact (hland.trans hstatus).landedOn hP

theorem State.landAt_clean (hflags : f.flags = 0) : s.landAt g pre.length f = (s.fliesOn g (pre ++ post)).landWhat g f := by
  rw [State.landAt_eq hflight, State.landStatus_clean _ hfault hflags]

theorem State.landAt_onElem_clean (hflags : f.flags = 0) {F : Elem → Elem} {P : Elem → Prop}
    (hwhat : ∀ t : State, t.OnlyElem f.el (F (t.elem f.el)) (t.landWhat g f)) (hP : P (F (s.elem f.el))) :
    s.LandedOn g (pre ++ post) f.el P (s.landAt g pre.length f) :=
  State.landAt_onElem hflight hfault hwhat (by rw [hflags, raiseFlags_zero]; exact hP)

theorem State.landAt_inTile (hflags : f.flags = 0) {k : Nat} {F : Tile → Tile} {P : Tile → Prop}
    (hwhat : ∀ t : State, t.landWhat g f = t.setTile k (F (t.tile k))) (hP : P (F (s.tile k))) :
    s.LandedIn g (pre ++ post) k P (s.landAt g pre.length f) := by
  rw [State.landAt_clean hflight hfault hflags, hwhat]
  exact State.landedIn_setTile hP

end

/-! ### Maps written entry by entry -/

section
variable {α β : Type} [DecidableEq α] (d : α)

/-- Each of the listed entries that `c` picks is written. -/
theorem SMap.get_foldl_set_if (base : Nat) (c : Nat → Bool) (v : Nat → α) (xs : List Nat) (m : SMap α) (j : Nat) :
    SMap.get d (xs.foldl (fun m i => if c i then SMap.set d m (base + i) (v i) else m) m) j =
      if base ≤ j ∧ j - base ∈ xs ∧ c (j - base) = true then v (j - base) else SMap.get d m j := by
  induction xs generalizing m with
  | nil => simp
  | cons x xs ih =>
    rw [List.foldl_cons, ih]
    by_cases hj : j = base + x
    · subst hj
      by_cases hc : c x = true <;> simp [hc]
    · have hne : base ≤ j → j - base ≠ x := by omega
      have hset : SMap.get d (if c x then SMap.set d m (base + x) (v x) else m) j = SMap.get d m j := by
        split
        · exact SMap.get_set_ne d d m _ hj
        · rfl
      rw [hset]
      congr 1
      simp only [List.mem_cons, eq_iff_iff]
      constructor
      · exact fun ⟨hle, hmem, hc⟩ => ⟨hle, .inr hmem, hc⟩
      · exact fun ⟨hle, hmem, hc⟩ => ⟨hle, hmem.resolve_left (hne hle), hc⟩

/-- Entries, each updated by `h` from what it held, where no key comes twice. -/
theorem SMap.get_foldl_update_of_notMem (h : α → β → α) {l : List (Nat × β)} (m : SMap α) {q : Nat} (hq : q ∉ l.map (·.1)) :
    SMap.get d (l.foldl (fun m p => SMap.set d m p.1 (h (SMap.get d m p.1) p.2)) m) q = SMap.get d m q := by
  induction l generalizing m with
  | nil => rfl
  | cons p l ih =>
    rw [List.map_cons, List.mem_cons, not_or] at hq
    rw [List.foldl_cons, ih _ hq.2, SMap.get_set_ne d d m _ hq.1]

theorem SMap.get_foldl_update_of_mem (h : α → β → α) {l : List (Nat × β)} (m : SMap α) (hl : (l.map (·.1)).Nodup) {q : Nat} {b : β}
    (hq : (q, b) ∈ l) : SMap.get d (l.foldl (fun m p => SMap.set d m p.1 (h (SMap.get d m p.1) p.2)) m) q = h (SMap.get d m q) b := by
  induction l generalizing m with
  | nil => cases hq
  | cons p l ih =>
    rw [List.map_cons, List.nodup_cons] at hl
    rw [List.foldl_cons]
    obtain rfl | hq := List.mem_cons.1 hq
    · rw [SMap.get_foldl_update_of_notMem d h _ hl.1, SMap.get_set_same]
    · have hne : q ≠ p.1 := fun e => hl.1 (e ▸ List.mem_map_of_mem hq)
      rw [ih _ hl.2 hq, SMap.get_set_ne d d m _ hne]

end

/-! ### Registers -/

section
variable (e : Elem) (n : Nat) (act : W32)

theorem Elem.lane_putLanes (vals : List W32) (P : W32) (k : Nat) {i : Nat} (hi : i < 32) :
    (e.putLanes n act vals P).lane k i = if k = n ∧ act.getLsbD i = true then vals.getD i 0 else e.lane k i := by
  refine (SMap.get_foldl_set_if 0 (32 * n) act.getLsbD (fun i => (vals[i]?).getD 0) (List.range 32) e.v (32 * k + i)).trans ?_
  by_cases hk : k = n
  · subst hk
    simp [hi, Elem.lane]
  · have hout : ¬ (32 * n ≤ 32 * k + i ∧ 32 * k + i - 32 * n ∈ List.range 32) := by rw [List.mem_range]; omega
    rw [if_neg fun h => hout ⟨h.1, h.2.1⟩, if_neg fun h => hk h.1]
    rfl

/-- Bits of `old` outside a mask and of `new` inside it. -/
theorem getLsbD_blend (old new : W32) {i : Nat} (hi : i < 32) :
    ((old &&& ~~~act) ||| (new &&& act)).getLsbD i = if act.getLsbD i = true then new.getLsbD i else old.getLsbD i := by
  cases h : act.getLsbD i <;> simp_all [BitVec.getLsbD_eq_getElem]

/-- A mask, or a row of poison bits, that takes the bits of `new` inside a mask. -/
theorem getLsbD_get_set_blend (m : SMap W32) (new : W32) (k : Nat) {i : Nat} (hi : i < 32) :
    (SMap.get 0 (SMap.set 0 m n ((SMap.get 0 m n &&& ~~~act) ||| (new &&& act))) k).getLsbD i =
      if k = n ∧ act.getLsbD i = true then new.getLsbD i else (SMap.get 0 m k).getLsbD i := by
  by_cases hk : k = n
  · subst hk
    simp only [SMap.get_set_same, getLsbD_blend act _ _ hi, true_and]
  · rw [SMap.get_set_ne _ _ _ _ hk, if_neg fun h => hk h.1]

theorem Elem.laneP_putLanes (vals : List W32) (P : W32) (k : Nat) {i : Nat} (hi : i < 32) :
    (e.putLanes n act vals P).laneP k i = if k = n ∧ act.getLsbD i = true then P.getLsbD i else e.laneP k i :=
  getLsbD_get_set_blend n act e.vp P k hi

theorem Elem.sreg_putS (v : W32) (b : Bool) (k : Nat) : (e.putS n v b).sreg k = if k = n then v else e.sreg k := SMap.get_set ..

theorem Elem.sregP_putS (v : W32) (b : Bool) (k : Nat) : (e.putS n v b).sregP k = if k = n then b else e.sregP k := SMap.get_set ..

theorem Elem.mreg_putM (v P : W32) (k : Nat) {i : Nat} (hi : i < 32) :
    ((e.putM n act v P).mreg k).getLsbD i = if k = n ∧ act.getLsbD i = true then v.getLsbD i else (e.mreg k).getLsbD i :=
  getLsbD_get_set_blend n act e.m v k hi

theorem Elem.mregP_putM (v P : W32) (k : Nat) {i : Nat} (hi : i < 32) :
    ((e.putM n act v P).mregP k).getLsbD i = if k = n ∧ act.getLsbD i = true then P.getLsbD i else (e.mregP k).getLsbD i :=
  getLsbD_get_set_blend n act e.mp P k hi

end

/-! ### Planes (R302) -/

/-- Rows of 32 sites, each written as a run. -/
theorem SMap.get_foldl_rows {n : Nat} {sites : List W16} (hlen : sites.length = 1024) {ys : List Nat} (hys : ∀ y ∈ ys, y < 32) (m : SMap W16)
    (k : Nat) {y z : Nat} (hy : y < 32) (hz : z < 32) :
    SMap.get 0 (ys.foldl (fun m y => SMap.setRun 0 m (1024 * n + 32 * y) ((sites.drop (32 * y)).take 32)) m) (1024 * k + 32 * y + z) =
      if k = n ∧ y ∈ ys then sites.getD (32 * y + z) 0 else SMap.get 0 m (1024 * k + 32 * y + z) := by
  induction ys generalizing m with
  | nil => simp
  | cons x xs ih =>
    obtain ⟨hx, hxs⟩ := List.forall_mem_cons.1 hys
    rw [List.foldl_cons, ih hxs, SMap.get_setRun]
    have hrun : ((sites.drop (32 * x)).take 32).length = 32 := by simp; omega
    by_cases hyx : k = n ∧ y = x
    · obtain ⟨rfl, rfl⟩ := hyx
      have hin : 1024 * k + 32 * y ≤ 1024 * k + 32 * y + z ∧
          1024 * k + 32 * y + z - (1024 * k + 32 * y) < ((sites.drop (32 * y)).take 32).length := by omega
      rw [dif_pos hin]
      have hlt : 32 * y + z < sites.length := by omega
      simp [List.getElem?_eq_getElem hlt]
    · have hout : ¬ (1024 * n + 32 * x ≤ 1024 * k + 32 * y + z ∧
          1024 * k + 32 * y + z - (1024 * n + 32 * x) < ((sites.drop (32 * x)).take 32).length) := by rw [hrun]; omega
      rw [dif_neg hout]
      congr 1
      simp only [List.mem_cons, eq_iff_iff]
      tauto

theorem Elem.site_putPlane (e : Elem) (n : Nat) (rows : W32) {sites : List W16} (P : List W32) (hlen : sites.length = 1024) (k : Nat) {y z : Nat}
    (hy : y < 32) (hz : z < 32) :
    (e.putPlane n rows sites P).site k z y =
      if k = n ∧ rows.getLsbD y = true then (sites.getD (32 * y + z) 0, (P.getD y 0).getLsbD z) else e.site k z y := by
  have hmem : ∀ y, y ∈ (List.range 32).filter rows.getLsbD ↔ y < 32 ∧ rows.getLsbD y = true := fun y => by simp
  have hsites := SMap.get_foldl_rows (n := n) hlen (fun y h => ((hmem y).1 h).1) e.planes k hy hz
  have hpoison := SMap.get_foldl_set_if 0 (32 * n) (fun _ => true) (fun y => (P[y]?).getD 0) ((List.range 32).filter rows.getLsbD) e.pp (32 * k + y)
  simp only [hmem, hy, true_and] at hsites
  refine Prod.ext_iff.2 ⟨hsites.trans (by split <;> rfl), (congrArg (fun w : W32 => w.getLsbD z) hpoison).trans ?_⟩
  by_cases hk : k = n
  · subst hk
    simp only [hmem, Nat.le_add_right, Nat.add_sub_cancel_left, hy, true_and, and_true]
    split <;> rfl
  · have hout : ¬ (32 * n ≤ 32 * k + y ∧ 32 * k + y - 32 * n < 32) := by omega
    rw [if_neg fun h => hout ⟨h.1, ((hmem _).1 h.2.1).1⟩, if_neg fun h => hk h.1]
    rfl

/-! ### Element faults (R142, R146) -/

/-- A fault with a cause other than 6, where the window has none yet: ECAUSE, and the window's first fault. -/
theorem State.landStatus_fault {c l : Nat} (t : State) (hfault : f.fault = some (c, l)) (hflags : f.flags = 0) (hc : c ≠ 6)
    (hwin : (t.region g).win.fault = none) :
    t.landStatus g f = (t.setElem f.el { t.elem f.el with estat := writeCause (t.elem f.el).estat c }).setRegion g
      { t.region g with win := { (t.region g).win with fault := some ⟨(t.region g).rc, f.el, l, f.entry, c⟩ } } := by
  rw [State.landStatus, hfault, hflags]
  simp [State.elementFault, hwin, hc]

/-! ### Bank reads (R144, R295) -/

theorem getLsbD_maskOf (p : Nat → Bool) {i : Nat} (hi : i < 32) : (maskOf p).getLsbD i = p i := by
  have hfold : ∀ n, ((List.range n).foldl (fun (m : W32) i => if p i then m ||| (1#32 <<< i) else m) 0).getLsbD i = (decide (i < n) && p i) := by
    intro n
    induction n with
    | zero => simp
    | succ n ih =>
      rw [List.range_succ, List.foldl_append, List.foldl_cons, List.foldl_nil]
      obtain rfl | hne := eq_or_ne i n
      · split <;> simp_all
      · have hlt : i < n + 1 ↔ i < n := by omega
        have hbit : (1#32 <<< n).getLsbD i = false := by simp [BitVec.getLsbD_shiftLeft]; omega
        split <;> simp only [BitVec.getLsbD_or, ih, hbit, Bool.or_false, hlt]
  rw [maskOf, hfold, decide_eq_true hi, Bool.true_and]

/-- The lanes of a load with their numbers. -/
theorem zip_range_eq_map {lanes : List (Option Nat)} {n : Nat} (h : lanes.length = n) :
    lanes.zip (List.range n) = (List.range n).map fun i => (lanes.getD i none, i) := by
  refine List.ext_getElem (by simp [h]) fun i h1 h2 => ?_
  have hi : i < lanes.length := by simp at h2; omega
  simp [List.getElem?_eq_getElem hi]

/-- A region without buffered egress reads the bank itself. -/
theorem State.laneBytes_of_noEgress (hegress : (s.region g).egress = []) (z a : Nat) :
    s.laneBytes g z a = (List.range z).map fun k => (s.readCell (a + k), false) := by
  simp [State.laneBytes, State.ownByte, hegress]

/-- A load in lane `i`, where nothing is buffered. -/
theorem State.loadLane_of_noEgress (hegress : (s.region g).egress = []) (z : Nat) (sgn : Bool) (psn : W32) (i : Nat) (lane : Option Nat) :
    (psn.getLsbD i = true ∨ lane = none → (s.loadLane g z sgn psn i lane).2 = true)
    ∧ (∀ a, lane = some a → psn.getLsbD i = false → s.loadLane g z sgn psn i lane =
        (let v := leNat ((List.range z).map fun k => s.readCell (a + k))
         if sgn then BitVec.ofInt 32 (signedOf (8 * z) v) else BitVec.ofNat 32 v, false)) := by
  cases lane with
  | none => exact ⟨fun _ => rfl, nofun⟩
  | some pa =>
    have hclean : ((s.laneBytes g z pa).any fun b => b.2) = false := by simp [State.laneBytes_of_noEgress hegress]
    constructor
    · rintro (hpsn | h)
      · simp [State.loadLane, hpsn]
      · cases h
    · rintro _ ⟨⟩ hpsn
      simp [State.loadLane, hpsn, State.laneBytes_of_noEgress hegress, Function.comp_def]

/-- The bank read of a load: the lanes in range join the input log, and the result flies on (R144, R295). -/
theorem State.bankRead_eq {dst : EDst} {z : Nat} {sgn : Bool} {act psn : W32} {lanes : List (Option Nat)}
    (hwhat : f.what = .sread dst z sgn act psn lanes) (hflight : (s.region g).flight = pre ++ f :: post)
    (hegress : (s.region g).egress = []) (hlen : lanes.length = 32) :
    let u := s.bankRead g pre.length f
    let log := ((List.range 32).filter fun i => act.getLsbD i).flatMap fun i =>
      ((lanes.getD i none).map fun a => (List.range z).map fun k => s.readCell (a + k)).getD []
    let result := sreadResult dst act ((List.range 32).map fun i => s.loadLane g z sgn psn i (lanes.getD i none))
    u.region g = { (s.region g).logged log with flight := pre ++ { f with due := (s.region g).rc + 6, what := result } :: post }
    ∧ (∀ h, h ≠ g → u.region h = s.region h) ∧ u = { s with regions := u.regions, perf := u.perf } := by
  intro u log result
  have hlog : ((lanes.zip (List.range 32)).filter fun p => act.getLsbD p.2).flatMap
      (fun p => p.1.elim [] fun pa => (s.laneBytes g z pa).map (·.1)) = log := by
    rw [zip_range_eq_map hlen, List.filter_map, List.flatMap_map]
    refine List.flatMap_congr fun i _ => ?_
    cases h : lanes.getD i none <;> simp [State.laneBytes_of_noEgress hegress]
  have hresult : sreadResult dst act ((lanes.zip (List.range lanes.length)).map fun p => s.loadLane g z sgn psn p.2 p.1) = result := by
    rw [hlen, zip_range_eq_map hlen, List.map_map]
    rfl
  obtain ⟨n, hu⟩ : ∃ n, u = (s.setRegion g { (s.region g).logged log with
      flight := pre ++ { f with due := (s.region g).rc + 6, what := result } :: post }).count n 1 := by
    have hregion : (s.logIn g log).region g = (s.region g).logged log := State.region_setRegion_same ..
    have hset : ((s.region g).logged log).flight.set pre.length { f with due := ((s.region g).logged log).rc + 6, what := result } =
        pre ++ { f with due := (s.region g).rc + 6, what := result } :: post := by
      simp [Region.logged, hflight]
    refine ⟨0x200 + 16 * ((((lanes.filterMap id).head?).getD portBase - portBase) / 2 ^ 28), ?_⟩
    show s.bankRead g pre.length f = _
    rw [State.bankRead, hwhat]
    dsimp only
    rw [hlog, hresult, hregion, hset, State.logIn, State.setRegion_setRegion]
  rw [hu]
  refine ⟨?_, fun h hh => ?_, rfl⟩
  · rw [State.region_count, State.region_setRegion_same]
  · rw [State.region_count, State.region_setRegion_ne _ _ hh]

/-- Of the reads that are due the first is made. -/
theorem execWordResultLanding_reads (hflight : (s.region g).flight = pre ++ f :: post) (hdue : f.due ≤ (s.region g).rc) (hread : f.isRead = true)
    (hpre : ∀ x ∈ pre, x.isRead = true → (s.region g).rc < x.due) :
    exec (.wordResultLanding g) s = .next (s.bankRead g pre.length f) := by
  have hfirst := State.landFirst_eq_some (p := Flight.isRead) hflight hdue hread fun x hx hxdue =>
    Bool.eq_false_iff.2 fun h => absurd hxdue (not_le.2 (hpre x hx h))
  have harm : exec (.wordResultLanding g) s = execWordResultLanding g s := rfl
  rw [harm, execWordResultLanding, hfirst, if_pos hread]

/-! ### Sends (R150, R187) -/

theorem State.linkWaits_link {el k : Nat} {vals : List W32} {P : W32} (hwhat : f.what = .link el k vals P) :
    s.linkWaits f = s.stoppedElem el := by
  rw [State.linkWaits, hwhat]

/-- The only send that is due waits for its receiver. -/
theorem execLinkSlotFill_waits (hflight : (s.region g).flight = pre ++ f :: post) (hwaits : s.linkWaits f = true)
    (hlinks : ∀ x ∈ pre ++ post, x.due ≤ (s.region g).rc → x.isLink = false) : exec (.linkSlotFill g) s = .next s := by
  have hnone : s.landFirst g (fun f => f.isLink && !s.linkWaits f) = none := by
    refine State.landFirst_eq_none fun x hx hxdue => ?_
    rw [hflight, List.mem_append, List.mem_cons] at hx
    obtain hx | rfl | hx := hx
    · simp [hlinks x (List.mem_append_left _ hx) hxdue]
    · simp [hwaits]
    · simp [hlinks x (List.mem_append_right _ hx) hxdue]
  have harm : exec (.linkSlotFill g) s = .next ((s.landFirst g fun f => f.isLink && !s.linkWaits f).getD s) := rfl
  rw [harm, hnone, Option.getD_none]

/-- The first send that is due lands where its receiver does not stand in a stopped region. -/
theorem execLinkSlotFill_lands (hflight : (s.region g).flight = pre ++ f :: post) (hdue : f.due ≤ (s.region g).rc) (hlink : f.isLink = true)
    (hwaits : s.linkWaits f = false) (hpre : ∀ x ∈ pre, x.due ≤ (s.region g).rc → x.isLink = false) :
    exec (.linkSlotFill g) s = .next (s.landAt g pre.length f) := by
  have hfirst := State.landFirst_eq_some (p := fun f => f.isLink && !s.linkWaits f) hflight hdue (by simp [hlink, hwaits])
    fun x hx hxdue => by simp [hpre x hx hxdue]
  have hread : f.isRead = false := by
    obtain ⟨_, _, _, _, hwhat⟩ := f.isLink_iff.1 hlink
    rw [Flight.isRead, hwhat]
  have harm : exec (.linkSlotFill g) s = .next ((s.landFirst g fun f => f.isLink && !s.linkWaits f).getD s) := rfl
  rw [harm, hfirst, hread]
  rfl

end

/-! ### The claim -/

/-- Settles O35: the first due result is taken from the flight, and what each kind of result leaves. -/
theorem landings : Obligations.Landings := by
  intro s g pre post f r e isLink isRead regionLeft onElem onTile flagged hflight hdue
  have honElem : onElem = s.LandedOn g (pre ++ post) f.el := rfl
  have honTile : onTile = s.LandedIn g (pre ++ post) := rfl
  clear_value onElem onTile
  subst honElem honTile
  refine ⟨fun hlink hread hreads hpre => ?word, fun n z sgn act psn lanes hwhat hpre hegress hlen => ?read,
    fun el k vals P hwhat hstopped hlinks => ?waits, fun el k vals P hwhat hgoes hflags hfault hpre => ?send⟩
  case word =>
    intro lands
    have hland := execWordResultLanding_lands hflight hdue (Bool.eq_false_iff.2 fun h => hlink (f.isLink_iff.1 h))
      (Bool.eq_false_iff.2 fun h => hread (f.isRead_iff.1 h)) (fun x hx h => hreads x hx (x.isRead_iff.1 h))
      fun x hx h => x.isLink_iff.2 (hpre x hx h)
    have hlands {P : State → Prop} (h : P (s.landAt g pre.length f)) : lands P := ⟨_, hland, h⟩
    clear_value lands
    refine ⟨fun hfault => ?clean, fun c l hwhat hflags hfault hc hc6 hwin => ?fault⟩
    case clean =>
      have elem {F : Elem → Elem} {P : Elem → Prop} (hwhat : ∀ t : State, t.landWhat g f = t.setElem f.el (F (t.elem f.el)))
          (hP : P { F e with estat := flagged (F e).estat }) : lands (s.LandedOn g (pre ++ post) f.el P) :=
        hlands (State.landAt_onElem hflight hfault (fun t => hwhat t ▸ t.onlyElem_setElem ..) (raiseFlags_eq (F e).estat f.flags ▸ hP))
      have elemClean (hflags : f.flags = 0) {F : Elem → Elem} {P : Elem → Prop}
          (hwhat : ∀ t : State, t.landWhat g f = t.setElem f.el (F (t.elem f.el))) (hP : P (F e)) :
          lands (s.LandedOn g (pre ++ post) f.el P) :=
        hlands (State.landAt_onElem_clean hflight hfault hflags (fun t => hwhat t ▸ t.onlyElem_setElem ..) hP)
      have tile (hflags : f.flags = 0) {k : Nat} {F : Tile → Tile} {P : Tile → Prop}
          (hwhat : ∀ t : State, t.landWhat g f = t.setTile k (F (t.tile k))) (hP : P (F (s.tile k))) :
          lands (s.LandedIn g (pre ++ post) k P) :=
        hlands (State.landAt_inTile hflight hfault hflags hwhat hP)
      refine ⟨fun n act vals P hwhat _ => ?vreg, fun n v P hwhat => ?sreg, fun n act v P hwhat => ?mreg, fun n rows sites P hwhat hlen => ?plane,
        fun hwhat hflags => ?clrst, fun n hwhat hflags => ?kbsel, fun b hwhat hflags => ?quiet, fun hwhat => ?nothing,
        fun it hwhat hflags => ?exitf, fun x hwhat hflags => ?egress, fun k l hwhat hflags hl => ?accw, fun k l hwhat hflags hl => ?feed⟩
      case vreg =>
        refine elem (F := (·.putLanes n act vals P)) (fun t => t.landWhat_vreg hwhat) ⟨?_, ?_, rfl⟩
        · exact fun k _ i hi => Elem.lane_putLanes e n act vals P k hi
        · exact fun k _ i hi => Elem.laneP_putLanes e n act vals P k hi
      case sreg =>
        exact elem (F := (·.putS n v P)) (fun t => t.landWhat_sreg hwhat) ⟨Elem.sreg_putS e n v P, Elem.sregP_putS e n v P, rfl⟩
      case mreg =>
        refine elem (F := (·.putM n act v P)) (fun t => t.landWhat_mreg hwhat) ⟨?_, ?_, rfl⟩
        · exact fun k i hi => Elem.mreg_putM e n act v P k hi
        · exact fun k i hi => Elem.mregP_putM e n act v P k hi
      case plane =>
        refine elem (F := (·.putPlane n rows sites P)) (fun t => t.landWhat_plane hwhat) ⟨?_, rfl⟩
        exact fun k y hy z hz => Elem.site_putPlane e n rows P hlen k hy hz
      case clrst => exact elemClean hflags (F := fun x => { x with estat := clearStatus x.estat }) (fun t => t.landWhat_clrst hwhat) rfl
      case kbsel =>
        refine elemClean hflags (F := fun x => { x with estat := setKbsel x.estat n }) (fun t => t.landWhat_kbsel hwhat) ?_
        exact congrArg (fun w => { e with estat := w }) (setKbsel_eq ..)
      case quiet => exact elemClean hflags (F := fun x => { x with estat := setQuiet x.estat b }) (fun t => t.landWhat_quiet hwhat) rfl
      case nothing =>
        refine hlands (State.landAt_onElem hflight hfault (F := id) (fun t => ?_) ?_)
        · rw [t.landWhat_nothing hwhat]
          exact t.onlyElem_refl _
        · exact congrArg (fun w => { e with estat := w }) (raiseFlags_eq ..)
      case exitf =>
        refine hlands ?_
        rw [State.landAt_clean hflight hfault hflags, State.landWhat_exitf _ hwhat, State.region_fliesOn_same, State.setRegion_fliesOn]
        refine ⟨?_, ?_, ?_, fun h hh => State.region_setRegion_ne _ _ hh, rfl⟩
        · rw [State.region_setRegion_same]
        · rw [State.region_setRegion_same]
          cases it <;> rfl
        · rw [State.region_setRegion_same]
      case egress =>
        refine hlands ?_
        rw [State.landAt_clean hflight hfault hflags, State.landWhat_egress _ hwhat, State.region_fliesOn_same, State.setRegion_fliesOn]
        exact ⟨State.region_setRegion_same .., fun h hh => State.region_setRegion_ne _ _ hh, rfl⟩
      case accw =>
        refine tile hflags (F := fun x => { x with
          acc := l.foldl (fun m p => SMap.set 0 m p.1 p.2.1) x.acc, accp := l.foldl (fun m p => SMap.set false m p.1 p.2.2) x.accp })
          (fun t => t.landWhat_accw hwhat) ⟨fun q v p hq => ?_, fun q hq => ?_, rfl⟩
        · exact ⟨SMap.get_foldl_update_of_mem 0 (fun _ b => b.1) _ hl hq, SMap.get_foldl_update_of_mem false (fun _ b => b.2) _ hl hq⟩
        · exact ⟨SMap.get_foldl_update_of_notMem 0 (fun _ b => b.1) _ hq, SMap.get_foldl_update_of_notMem false (fun _ b => b.2) _ hq⟩
      case feed =>
        refine tile hflags (F := fun x => { x with opa := feedAll x.opa l }) (fun t => t.landWhat_feedA hwhat) ⟨fun q o hq => ?_, fun q hq => ?_, rfl⟩
        · exact SMap.get_foldl_update_of_mem OpSlot.reset OpSlot.fed _ hl hq
        · exact SMap.get_foldl_update_of_notMem OpSlot.reset OpSlot.fed _ hq
    case fault =>
      refine hlands ?_
      have hc' : c % 256 * 256 = 256 * c := by rw [Nat.mod_eq_of_lt hc, Nat.mul_comm]
      rw [State.landAt_eq hflight, State.landWhat_nothing _ hwhat,
        State.landStatus_fault _ hfault hflags hc6 (by rw [State.region_fliesOn_same]; exact hwin), State.region_fliesOn_same,
        State.setElem_fliesOn, State.setRegion_fliesOn, State.elem_fliesOn]
      refine ⟨?_, fun j hj => State.elem_setElem_ne _ _ hj, State.region_setRegion_same .., fun h hh => State.region_setRegion_ne _ _ hh, rfl⟩
      rw [State.elem_setRegion, State.elem_setElem_same, writeCause, hc']
  case read =>
    have hread : f.isRead = true := f.isRead_iff.2 ⟨_, _, _, _, _, _, hwhat⟩
    have hland := execWordResultLanding_reads hflight hdue hread fun x hx h => hpre x hx (x.isRead_iff.1 h)
    obtain ⟨hregion, hothers, hrest⟩ := State.bankRead_eq hwhat hflight hegress hlen
    let lane (i : Nat) := s.loadLane g z sgn psn i (lanes.getD i none)
    let poison := maskOf fun i => (((List.range 32).map lane)[i]?).elim false (·.2)
    have hpoison {i : Nat} (hi : i < 32) : poison.getLsbD i = (lane i).2 := (getLsbD_maskOf _ hi).trans (by simp [hi])
    have hval {i : Nat} (hi : i < 32) : ((List.range 32).map fun i => (lane i).1).getD i 0 = (lane i).1 := by simp [hi]
    refine ⟨_, hland, (List.range 32).map fun i => (lane i).1, poison, fun i hi a ha hpsn => ?_, fun i hi hbad => ?_, ?_, hothers, hrest⟩
    · have hlane : lane i = _ := (State.loadLane_of_noEgress hegress z sgn psn i _).2 a ha hpsn
      rw [hpoison hi, hval hi, hlane]
      exact ⟨rfl, rfl⟩
    · exact (hpoison hi).trans ((State.loadLane_of_noEgress hegress z sgn psn i _).1 hbad)
    · rw [hregion, sreadResult, List.map_map]
      rfl
  case waits =>
    exact execLinkSlotFill_waits hflight ((State.linkWaits_link hwhat).trans hstopped) fun x hx h =>
      Bool.eq_false_iff.2 fun hx' => hlinks x hx h (x.isLink_iff.1 hx')
  case send =>
    have hland := execLinkSlotFill_lands hflight hdue (f.isLink_iff.2 ⟨_, _, _, _, hwhat⟩) ((State.linkWaits_link hwhat).trans hgoes)
      fun x hx h => Bool.eq_false_iff.2 fun hx' => hpre x hx h (x.isLink_iff.1 hx')
    refine ⟨_, hland, ?_⟩
    rw [State.landAt_clean hflight hfault hflags, State.landWhat_link _ hwhat]
    refine ⟨fun q => ?_, ?_, fun j hj => State.elem_setElem_ne _ _ hj, State.left_of_regions rfl, rfl⟩
    · rw [State.elem_setElem_same, State.elem_fliesOn]
      exact SMap.get_set Slot.empty (s.elem el).links k q ⟨true, true, vals, P⟩
    · rw [State.elem_setElem_same]
      rfl

end Sys2Proof.Machine
end

section
/-! SUPPORT. Where a word's result goes, in states whose map of regions is in its canonical form (R116-R120, R143, R150, R187, R191). -/

namespace Sys2Proof.Machine

/-! ### The region that holds a tile -/

section
variable {α : Type} [DecidableEq α] {d : α}

theorem SMap.get_of_lt {m : SMap α} {lo k : Nat} (h : wfFrom (fun _ => d) lo m = true) (hk : k < lo) : get d m k = d := by
  induction m generalizing lo with
  | nil => rfl
  | cons p m ih =>
    obtain ⟨i, v⟩ := p
    simp only [wfFrom, Bool.and_eq_true, decide_eq_true_eq] at h
    rw [get, if_neg (by omega), ih h.2 (by omega)]

/-- In a canonical map, the first item of a property that unlisted keys lack is that of the least key. -/
theorem SMap.find?_key_eq_some_iff {P : Nat × α → Bool} (hP : ∀ k, P (k, d) = false) {m : SMap α} {lo : Nat}
    (h : wfFrom (fun _ => d) lo m = true) (k : Nat) :
    (m.find? P).map (·.1) = some k ↔ P (k, get d m k) = true ∧ ∀ j < k, P (j, get d m j) = false := by
  induction m generalizing lo with
  | nil => simp [hP]
  | cons p m ih =>
    obtain ⟨i, v⟩ := p
    simp only [wfFrom, Bool.and_eq_true, decide_eq_true_eq] at h
    have hbelow {j : Nat} (hj : j < i) : P (j, get d ((i, v) :: m) j) = false := by
      rw [get, if_neg (by omega), get_of_lt h.2 (by omega), hP]
    have hat : get d ((i, v) :: m) i = v := by simp [get]
    cases hi : P (i, v) with
    | true =>
      rw [List.find?_cons_of_pos hi, Option.map_some, Option.some_inj]
      constructor
      · rintro rfl
        exact ⟨by rw [hat, hi], fun j hj => hbelow hj⟩
      · rintro ⟨hk, hfirst⟩
        rcases lt_trichotomy i k with hik | hik | hik
        · exact absurd (hfirst i hik) (by rw [hat, hi]; simp)
        · exact hik
        · exact absurd hk (by rw [hbelow hik]; simp)
    | false =>
      rw [List.find?_cons_of_neg (by simp [hi]), ih h.2]
      have hsame (j : Nat) : P (j, get d ((i, v) :: m) j) = P (j, get d m j) := by
        by_cases hj : j = i
        · rw [hj, hat, hi, get_of_lt h.2 (by omega), hP]
        · rw [get, if_neg hj]
      simp only [hsame]

/-- Canonical maps whose items agree on such a property agree on the first key that has it. -/
theorem SMap.find?_key_congr {P : Nat × α → Bool} (hP : ∀ k, P (k, d) = false) {m n : SMap α} (hm : wf d m = true) (hn : wf d n = true)
    (h : ∀ k, P (k, get d m k) = P (k, get d n k)) : (m.find? P).map (·.1) = (n.find? P).map (·.1) :=
  Option.ext fun k => by
    rw [find?_key_eq_some_iff hP hm, find?_key_eq_some_iff hP hn]
    simp only [h]

end

/-- The map of regions is in its canonical form. -/
def State.regionsOk (s : State) : Bool := SMap.wf Region.reset s.regions

/-- Writing a region leaves who holds a tile, where it still holds the same tiles. -/
theorem State.regionOfTile_setRegion {s : State} (hs : s.regionsOk = true) {g : Nat} {r : Region} (hholds : r.holds = (s.region g).holds)
    (hcovers : ∀ t, r.covers g t = (s.region g).covers g t) (t : Nat) : (s.setRegion g r).regionOfTile t = s.regionOfTile t := by
  refine SMap.find?_key_congr (P := fun p => p.2.holds && p.2.covers p.1 t) (fun k => rfl) (SMap.wf_set g r hs) hs fun k => ?_
  dsimp only [State.setRegion]
  rw [SMap.get_set]
  split
  · rename_i hk
    rw [hk, hholds, hcovers]
    rfl
  · rfl

/-- Neither does a result that joins the flight change which elements stand in a stopped region. -/
theorem State.stoppedElem_fliesOn {s : State} (hs : s.regionsOk = true) (g : Nat) (flight : List Flight) (e : Nat) :
    (s.fliesOn g flight).stoppedElem e = s.stoppedElem e := by
  have hstopped (h : Nat) : ((s.fliesOn g flight).region h).isStopped = (s.region h).isStopped := by
    by_cases hh : h = g
    · rw [hh, s.region_fliesOn_same]; rfl
    · rw [s.region_fliesOn_ne _ hh]
  have htile : (s.fliesOn g flight).regionOfTile (tileOfElem e) = s.regionOfTile (tileOfElem e) :=
    State.regionOfTile_setRegion hs (r := { s.region g with flight := flight }) rfl (fun _ => rfl) _
  unfold State.stoppedElem
  rw [htile]
  exact congrArg ((s.regionOfTile (tileOfElem e)).elim false) (funext hstopped)

/-! ### Results on their way (R116) -/

/-- The results that a word sends join the flight of its region. -/
def State.flights (s : State) (fs : List Sent) : List Flight :=
  s.myRegion.flight ++ fs.map fun f => ⟨s.myRegion.rc + f.1, s.site.el, s.site.entry, f.2.1, f.2.2.1, f.2.2.2⟩

theorem State.sends_fliesOn (s : State) (fs : List Sent) : s.Sends fs (s.fliesOn s.site.g (s.flights fs)) :=
  ⟨s.region_fliesOn_same .., fun _ hh => s.region_fliesOn_ne _ hh, rfl⟩

theorem State.flyIn_eq (s : State) (lat : Nat) (what : Land) (flags : Flags) (fault : Option (Nat × Nat)) :
    s.flyIn lat what flags fault = s.fliesOn s.site.g (s.flights [(lat, what, flags, fault)]) := rfl

theorem State.sends_flyIn (s : State) (lat : Nat) (what : Land) (flags : Flags) (fault : Option (Nat × Nat)) :
    s.Sends [(lat, what, flags, fault)] (s.flyIn lat what flags fault) := s.sends_fliesOn _

/-- A result that follows another. -/
theorem State.fliesOn_flyIn (s : State) (fs : List Sent) (lat : Nat) (what : Land) (flags : Flags) (fault : Option (Nat × Nat)) :
    (s.fliesOn s.site.g (s.flights fs)).flyIn lat what flags fault = s.fliesOn s.site.g (s.flights (fs ++ [(lat, what, flags, fault)])) := by
  have hregion : (s.fliesOn s.site.g (s.flights fs)).myRegion = { s.myRegion with flight := s.flights fs } := s.region_fliesOn_same ..
  rw [State.flyIn, hregion]
  refine (s.setRegion_fliesOn ..).trans ?_
  simp only [State.flights, List.map_append, List.map_cons, List.map_nil, List.append_assoc]
  rfl

theorem State.sends_flyNothing (s : State) : s.Sends [noEffect] s.flyNothing := s.sends_flyIn ..

/-! ### Lane results (R120, R143) -/

section
variable (s : State) (p : EPred) (f : Nat → LaneRes) (i : Nat)

/-- A lane reads poison. -/
def State.reads (s : State) (p : EPred) (f : Nat → LaneRes) (i : Nat) : Bool := (f i).poison || s.predP p i

/-- A lane lands as poison. -/
def State.spoils (s : State) (p : EPred) (f : Nat → LaneRes) (i : Nat) : Bool := s.reads p f i || (f i).fault != 0

theorem State.laneOut_eq : s.laneOut p f i =
    if s.reads p f i then ⟨s.free i, true, 0, 0⟩ else if (f i).fault ≠ 0 then ⟨s.free i, true, 0, (f i).fault⟩ else f i := rfl

theorem State.laneOut_val (h : s.spoils p f i = false) : (s.laneOut p f i).val = (f i).val := by
  simp only [State.spoils, Bool.or_eq_false_iff] at h
  rw [State.laneOut_eq, h.1, if_neg (by simp), if_neg (by simpa using h.2)]

theorem State.laneOut_poison : (s.laneOut p f i).poison = s.spoils p f i := by
  rw [State.laneOut_eq, State.spoils]
  cases hreads : s.reads p f i with
  | true => rfl
  | false =>
    by_cases hfault : (f i).fault = 0
    · have hclean : (f i).poison = false := by
        rw [State.reads, Bool.or_eq_false_iff] at hreads
        exact hreads.1
      simp [hfault, hclean]
    · simp [hfault]

theorem State.laneOut_fault : (s.laneOut p f i).fault = if s.reads p f i then 0 else (f i).fault := by
  rw [State.laneOut_eq]
  cases s.reads p f i with
  | true => rfl
  | false => by_cases hfault : (f i).fault = 0 <;> simp [hfault]

theorem State.laneOut_flags : (s.laneOut p f i).flags = if s.spoils p f i then 0 else (f i).flags := by
  rw [State.laneOut_eq, State.spoils]
  cases s.reads p f i with
  | true => rfl
  | false => by_cases hfault : (f i).fault = 0 <;> simp [hfault]

end

theorem getLsbD_flagsOf (act : W32) (rs : Nat → LaneRes) (n k : Nat) :
    (flagsOf act rs n).getLsbD k = (List.range n).any fun i => act.getLsbD i && (rs i).flags.getLsbD k := by
  rw [flagsOf]
  induction n with
  | zero => simp
  | succ n ih =>
    rw [List.range_succ, List.foldl_append, List.foldl_cons, List.foldl_nil, List.any_append, ← ih]
    split <;> simp_all

/-- Flags of the lanes that land clean. -/
theorem State.flagsOf_laneOut (s : State) (p : EPred) (f : Nat → LaneRes) (act : W32) (n k : Nat) :
    (flagsOf act (s.laneOut p f) n).getLsbD k = (List.range n).any fun i => act.getLsbD i && !s.spoils p f i && (f i).flags.getLsbD k := by
  rw [getLsbD_flagsOf]
  refine congrArg (List.any _) (funext fun i => ?_)
  rw [State.laneOut_flags]
  cases s.spoils p f i <;> simp

/-- The fault of the lowest lane that does not read poison and raises one. -/
theorem State.faultOf_laneOut (s : State) (p : EPred) (f : Nat → LaneRes) (act : W32) (n : Nat) :
    faultOf act (s.laneOut p f) n =
      ((List.range n).find? fun i => act.getLsbD i && !s.reads p f i && (f i).fault != 0).map fun i => ((f i).fault, i) := by
  have hpred : (fun i => act.getLsbD i && (s.laneOut p f i).fault != 0) = fun i => act.getLsbD i && !s.reads p f i && (f i).fault != 0 := by
    funext i
    rw [State.laneOut_fault]
    cases s.reads p f i <;> simp
  rw [faultOf, hpred]
  refine Option.map_congr fun i hi => ?_
  have hfound := List.find?_some hi
  simp only [Bool.and_eq_true, Bool.not_eq_true'] at hfound
  rw [State.laneOut_fault, hfound.1.2]
  rfl

/-- The lowest lane that lands as poison escapes from a stage-out, with the fault that it raises where it raises one (R143). -/
theorem firstOf_escape (act : W32) (reads : Nat → Bool) (fault : Nat → Nat) :
    firstOf (((List.range 32).find? fun i => act.getLsbD i && !reads i && fault i != 0).map fun i => (fault i, i))
        (((List.range 32).find? fun i => act.getLsbD i && (reads i || fault i != 0)).map fun i => (7, i)) =
      ((List.range 32).find? fun i => act.getLsbD i && (reads i || fault i != 0)).map fun i => (if reads i then 7 else fault i, i) := by
  cases hbad : (List.range 32).find? fun i => act.getLsbD i && (reads i || fault i != 0) with
  | none =>
    have hnone : (List.range 32).find? (fun i => act.getLsbD i && !reads i && fault i != 0) = none := by
      rw [List.find?_eq_none] at hbad ⊢
      intro i hi h
      rw [Bool.and_eq_true, Bool.and_eq_true] at h
      obtain ⟨⟨hact, -⟩, hfault⟩ := h
      exact hbad i hi (by rw [hact, hfault, Bool.or_true, Bool.and_true])
    rw [hnone]
    rfl
  | some i =>
    obtain ⟨hi, hmem, hbelow⟩ := List.find?_range_eq_some.1 hbad
    have hbelow' : ∀ j < i, (act.getLsbD j && !reads j && fault j != 0) = false := fun j hj => by
      have := hbelow j hj
      simp only [Bool.not_eq_true', Bool.and_eq_false_iff, Bool.or_eq_false_iff] at this
      rcases this with h | ⟨h, h'⟩ <;> simp [*]
    cases hreads : reads i with
    | false =>
      have hfound : (List.range 32).find? (fun i => act.getLsbD i && !reads i && fault i != 0) = some i := by
        refine List.find?_range_eq_some.2 ⟨?_, hmem, fun j hj => by simp [hbelow' j hj]⟩
        simp_all
      rw [hfound]
      simp [firstOf, hreads]
    | true =>
      cases hfault : (List.range 32).find? fun i => act.getLsbD i && !reads i && fault i != 0 with
      | none => simp [firstOf, hreads]
      | some j =>
        have hj := List.find?_some hfault
        have hij : i < j := by
          rcases lt_trichotomy j i with h | rfl | h
          · exact absurd hj (by simp [hbelow' j h])
          · simp [hreads] at hj
          · exact h
        simp [firstOf, hreads, hij]

/-! ### Destinations (R116, R118, R143, R187, R191) -/

theorem State.reserve_flyIn (s : State) (e k lat : Nat) (what : Land) (flags : Flags) (fault : Option (Nat × Nat)) :
    (s.reserve e k).flyIn lat what flags fault = (s.flyIn lat what flags fault).reserve e k := rfl

/-- A send beside the result at +4. -/
theorem State.sendsOn_send {s : State} (hs : s.regionsOk = true) (fl : Flags) (flt : Option (Nat × Nat)) (d : Nat) (act : W32)
    (rs : Nat → LaneRes) :
    s.SendsOn (4, .nothing, fl, flt) d (sentVals act rs) (sentPoison act rs) ((s.flyIn 4 .nothing fl flt).send (s.sendTo d) d act rs) := by
  rw [State.flyIn_eq]
  unfold State.SendsOn State.send
  cases s.sendTo d with
  | none => exact s.sends_fliesOn _
  | some e =>
    dsimp only
    rw [State.stoppedElem_fliesOn hs]
    refine ⟨_, s.sends_fliesOn [(4, .nothing, fl, flt), (5, .link e ((d + 2) % 4) (sentVals act rs) (sentPoison act rs), 0, none)], ?_⟩
    cases s.stoppedElem e with
    | true =>
      rw [if_pos rfl, State.fliesOn_flyIn]
      exact ⟨fun k => by simp, rfl, fun _ _ => rfl, rfl⟩
    | false =>
      rw [if_neg Bool.false_ne_true, State.reserve_flyIn, State.fliesOn_flyIn, State.reserve, State.elem_fliesOn]
      refine ⟨fun k => ?_, ?_, fun j hj => State.elem_setElem_ne _ _ hj, rfl⟩
      · rw [State.elem_setElem_same, faceBack]
        refine (SMap.get_set Slot.empty (s.elem e).links ((d + 2) % 4) k _).trans ?_
        by_cases hk : k = (d + 2) % 4
        · rw [if_pos hk, if_pos ⟨hk, rfl⟩, hk]
          rfl
        · rw [if_neg hk, if_neg fun h => hk h.1]
          rfl
      · rw [State.elem_setElem_same]

/-- What a word that is not squashed sends to a link or to the stage-out port. -/
theorem State.out_link {s : State} (hs : s.regionsOk = true) (d : BitVec 2) {act : W32} (hact : act ≠ 0) (rs : Nat → LaneRes) :
    s.SendsOn (4, .nothing, flagsOf act rs 32, faultOf act rs 32) d.toNat (sentVals act rs) (sentPoison act rs) (s.out (.link d) act rs) := by
  unfold State.out
  dsimp only
  rw [if_neg hact]
  exact State.sendsOn_send hs ..

/-- Undefined values, each bit of a mask in a lane of its own (R180; log 101). -/
def State.undefined (s : State) (dst : EDst) : List W32 :=
  match dst with
  | .m _ => (List.range 32).map fun i => if (s.free 0).getLsbD i then 1 else 0
  | _ => (List.range 32).map s.free

/-- A squashed word writes undefined values, with their poison bits clear (R180; log 101). -/
theorem State.write_lands_squashed {s : State} (w : EArgs) (f : Nat → LaneRes) (hsq : s.site.squashed = true) :
    s.Lands w f (s.write w.dst w.pred f) := by
  refine ⟨s.undefined w.dst, 0, 0, none, ?_, ?_, ?_⟩
  · unfold State.undefined; split <;> simp
  · rw [if_pos hsq]; exact ⟨rfl, rfl, rfl⟩
  · unfold State.write
    dsimp only
    rw [if_pos hsq]
    cases w.dst with
    | v n => exact s.sends_flyIn ..
    | s n =>
      dsimp only
      have hval : (s.undefined (.s n)).getD 0 0 = s.free 0 := by simp [State.undefined]
      rw [hval]
      split
      · exact s.sends_flyIn ..
      · exact s.sends_flyNothing
    | m n =>
      refine ⟨s.free 0, fun i hi => ?_, s.sends_flyIn ..⟩
      have hval : (s.undefined (.m n)).getD i 0 = if (s.free 0).getLsbD i then 1 else 0 := by simp [State.undefined, hi]
      rw [hval]
      cases (s.free 0).getLsbD i <;> rfl
    | link d => exact ⟨fun _ => s.sends_flyNothing, fun h => absurd (.inl hsq) h⟩
    | stage => exact ⟨fun _ => s.sends_flyNothing, fun h => absurd (.inl hsq) h⟩
    | null | p _ =>
      dsimp only
      rw [if_pos (.inl hsq)]
      exact s.sends_flyNothing

section
variable (s : State) (p : EPred) (f : Nat → LaneRes)

/-- The values that a word which is not squashed lands, and its poison bits. -/
def State.outVals : List W32 := (List.range 32).map fun i => (s.laneOut p f i).val
def State.outPoison : W32 := maskOf fun i => (s.laneOut p f i).poison

theorem State.getD_outVals {i : Nat} (hi : i < 32) : (s.outVals p f).getD i 0 = (s.laneOut p f i).val := by simp [State.outVals, hi]

theorem State.getLsbD_outPoison {i : Nat} (hi : i < 32) : (s.outPoison p f).getLsbD i = (s.laneOut p f i).poison := getLsbD_maskOf _ hi

theorem State.sentVals_laneOut (act : W32) :
    sentVals act (s.laneOut p f) = (List.range 32).map fun i => if act.getLsbD i then (s.outVals p f).getD i 0 else 0 :=
  List.map_congr_left fun i hi => by rw [s.getD_outVals p f (List.mem_range.1 hi)]

theorem State.sentPoison_laneOut (act : W32) : sentPoison act (s.laneOut p f) = s.outPoison p f &&& act := by
  refine BitVec.eq_of_getLsbD_eq fun i hi => ?_
  rw [sentPoison, getLsbD_maskOf _ hi, BitVec.getLsbD_and, s.getLsbD_outPoison p f hi, Bool.and_comm]

/-- The lane results of a word that is not squashed, over the `n` lanes of its destination (R120, R143). -/
theorem State.laneOut_lands (n : Nat) :
    (∀ i < 32, s.spoils p f i = false → (s.outVals p f).getD i 0 = (f i).val)
    ∧ (∀ i < 32, (s.outPoison p f).getLsbD i = s.spoils p f i)
    ∧ (∀ k < 5, (flagsOf (s.picks p) (s.laneOut p f) n).getLsbD k =
        (List.range n).any fun i => (s.picks p).getLsbD i && !s.spoils p f i && (f i).flags.getLsbD k)
    ∧ faultOf (s.picks p) (s.laneOut p f) n =
        ((List.range n).find? fun i => (s.picks p).getLsbD i && !s.reads p f i && (f i).fault != 0).map fun i => ((f i).fault, i) :=
  ⟨fun _ hi h => (s.getD_outVals p f hi).trans (s.laneOut_val p f _ h), fun _ hi => (s.getLsbD_outPoison p f hi).trans (s.laneOut_poison p f _),
    fun _ _ => s.flagsOf_laneOut .., s.faultOf_laneOut ..⟩

/-- The fault of a stage-out: its lowest lane that lands as poison escapes (R143). -/
theorem State.firstOf_faultOf_escape (act : W32) :
    firstOf (faultOf act (s.laneOut p f) 32) (escape (s.outPoison p f &&& act)) =
      ((List.range 32).find? fun i => act.getLsbD i && s.spoils p f i).map fun i => (if s.reads p f i then 7 else (f i).fault, i) := by
  have hescape : escape (s.outPoison p f &&& act) = ((List.range 32).find? fun i => act.getLsbD i && s.spoils p f i).map fun i => (7, i) := by
    refine congrArg (Option.map _) (List.find?_congr fun i hi => ?_)
    rw [BitVec.getLsbD_and, s.getLsbD_outPoison p f (List.mem_range.1 hi), State.laneOut_poison, Bool.and_comm]
  rw [hescape, s.faultOf_laneOut]
  exact firstOf_escape act (s.reads p f) fun i => (f i).fault

end

section
variable {s : State} (hlive : ¬ s.site.squashed = true) (p : EPred) (f : Nat → LaneRes)
include hlive

theorem State.write_v (n : BitVec 5) : s.write (.v n) p f = s.flyIn 4 (.vreg n.toNat (s.picks p) (s.outVals p f) (s.outPoison p f))
    (flagsOf (s.picks p) (s.laneOut p f) 32) (faultOf (s.picks p) (s.laneOut p f) 32) := if_neg hlive

theorem State.write_s (n : BitVec 4) : s.write (.s n) p f =
    if (s.picks p).getLsbD 0 then s.flyIn 4 (.sreg n.toNat (s.laneOut p f 0).val (s.laneOut p f 0).poison)
      (flagsOf (s.picks p) (s.laneOut p f) 1) (faultOf (s.picks p) (s.laneOut p f) 1)
    else s.flyNothing := if_neg hlive

theorem State.write_m (n : BitVec 3) : s.write (.m n) p f =
    s.flyIn 4 (.mreg n.toNat (s.picks p) (maskOf fun i => (s.laneOut p f i).val.getLsbD 0) (s.outPoison p f))
      (flagsOf (s.picks p) (s.laneOut p f) 32) (faultOf (s.picks p) (s.laneOut p f) 32) := if_neg hlive

theorem State.write_link (d : BitVec 2) : s.write (.link d) p f = s.out (.link d) (s.picks p) (s.laneOut p f) := if_neg hlive

theorem State.write_stage : s.write .stage p f = s.out .stage (s.picks p) (s.laneOut p f) := if_neg hlive

/-- The other destinations take nothing but the flags and the fault. -/
theorem State.write_rest {dst : EDst} (hdst : dst = .null ∨ ∃ n, dst = .p n) (hact : s.picks p ≠ 0) : s.write dst p f =
    s.flyIn 4 .nothing (flagsOf (s.picks p) (s.laneOut p f) 32) (faultOf (s.picks p) (s.laneOut p f) 32) := by
  obtain rfl | ⟨n, rfl⟩ := hdst <;> exact (if_neg hlive).trans (if_neg hact)

/-- A word without an active lane sends nothing but its own end. -/
theorem State.write_none {dst : EDst} (hdst : dst = .stage ∨ dst = .null ∨ (∃ n, dst = .p n) ∨ ∃ d, dst = .link d) (hact : s.picks p = 0) :
    s.write dst p f = s.flyNothing := by
  obtain rfl | rfl | ⟨n, rfl⟩ | ⟨n, rfl⟩ := hdst <;> exact (if_neg hlive).trans (if_pos hact)

theorem State.write_stage_sends (hact : s.picks p ≠ 0) :
    s.Sends [(4, .egress ⟨s.site.iter, s.site.iter.isNone,
        .stage s.myElem.soport.toNat (sentVals (s.picks p) (s.laneOut p f)) (sentPoison (s.picks p) (s.laneOut p f))⟩,
      flagsOf (s.picks p) (s.laneOut p f) 32, firstOf (faultOf (s.picks p) (s.laneOut p f) 32) (escape (sentPoison (s.picks p) (s.laneOut p f))))]
      (s.write .stage p f) := by
  rw [State.write_stage hlive, show s.out .stage (s.picks p) (s.laneOut p f) = _ from if_neg hact]
  exact s.sends_flyIn ..

end

/-- A word that is not squashed lands its lane results. -/
theorem State.write_lands_live {s : State} (w : EArgs) (f : Nat → LaneRes) (hs : (∃ d, w.dst = .link d) → s.regionsOk = true)
    (hsq : s.site.squashed = false) : s.Lands w f (s.write w.dst w.pred f) := by
  have hlive : ¬ s.site.squashed = true := by simp [hsq]
  obtain ⟨dst, a, b, c, p⟩ := w
  have hnone : (s.site.squashed = true ∨ s.picks p = 0) ↔ s.picks p = 0 := or_iff_right hlive
  have hlanes (n : Nat) := s.laneOut_lands p f n
  have hlen : (s.outVals p f).length = 32 := by simp [State.outVals]
  cases dst with
  | v n =>
    refine ⟨_, _, _, _, hlen, (if_neg hlive).mpr (hlanes 32), ?_⟩
    dsimp only
    rw [State.write_v hlive]
    exact s.sends_flyIn ..
  | s n =>
    refine ⟨_, _, _, _, hlen, (if_neg hlive).mpr (hlanes 1), ?_⟩
    dsimp only
    rw [State.write_s hlive, s.getD_outVals p f (by decide), s.getLsbD_outPoison p f (by decide)]
    split
    · exact s.sends_flyIn ..
    · exact s.sends_flyNothing
  | m n =>
    refine ⟨_, _, _, _, hlen, (if_neg hlive).mpr (hlanes 32), maskOf fun i => (s.laneOut p f i).val.getLsbD 0, fun i hi => ?_, ?_⟩
    · rw [getLsbD_maskOf _ hi, s.getD_outVals p f hi]
    · rw [State.write_m hlive]
      exact s.sends_flyIn ..
  | link d =>
    refine ⟨_, _, _, _, hlen, (if_neg hlive).mpr (hlanes 32), fun h => ?_, fun h => ?_⟩
    · rw [State.write_none hlive p f (by simp) (hnone.1 h)]
      exact s.sends_flyNothing
    · rw [State.write_link hlive, ← State.sentVals_laneOut, ← State.sentPoison_laneOut]
      exact State.out_link (hs ⟨d, rfl⟩) d (fun h' => h (hnone.2 h')) (s.laneOut p f)
  | stage =>
    refine ⟨_, _, _, _, hlen, (if_neg hlive).mpr (hlanes 32), fun h => ?_, fun h => ?_⟩
    · rw [State.write_none hlive p f (by simp) (hnone.1 h)]
      exact s.sends_flyNothing
    · have hstage := State.write_stage_sends hlive p f fun h' => h (hnone.2 h')
      rw [State.sentPoison_laneOut, State.firstOf_faultOf_escape, State.sentVals_laneOut] at hstage
      exact hstage
  | null | p _ =>
    refine ⟨_, _, _, _, hlen, (if_neg hlive).mpr (hlanes 32), ?_⟩
    dsimp only
    split
    · rename_i h
      rw [State.write_none hlive p f (by simp) (hnone.1 h)]
      exact s.sends_flyNothing
    · rename_i h
      rw [State.write_rest hlive p f (by simp) fun h' => h (hnone.2 h')]
      exact s.sends_flyIn ..

theorem State.write_lands {s : State} (w : EArgs) (f : Nat → LaneRes) (hs : (∃ d, w.dst = .link d) → s.regionsOk = true) :
    s.Lands w f (s.write w.dst w.pred f) := by
  cases hsq : s.site.squashed with
  | true => exact State.write_lands_squashed w f hsq
  | false => exact State.write_lands_live w f hs hsq

end Sys2Proof.Machine
end

section
/-! SUPPORT. The values of the element words: their lanes as the tables of the claims give them (R120-R131). -/

namespace Sys2Proof.Machine

/-! ### Words of one, two and three sources (R117) -/

section
variable {s : State} {w : EArgs} (hs : (∃ d, w.dst = .link d) → s.regionsOk = true) (k : LitKind)
include hs

theorem State.completes_write {f g : Nat → LaneRes} (h : f = g) : Completes (.next (s.write w.dst w.pred f)) (s.Lands w g) :=
  h ▸ ⟨_, rfl, State.write_lands w f hs⟩

theorem State.word1_lands {f : W32 → LaneRes} {r : W32 → W32 × Flags} (h : ∀ a, f a = s.laneRes (r a) false) :
    Completes (s.word1 k w f) (s.Lands w (s.of1 k w r)) :=
  State.completes_write hs (funext fun i => by simp only [State.lane1, State.of1, h, State.laneRes, Bool.false_or])

theorem State.word2_lands {f : W32 → W32 → LaneRes} {r : W32 → W32 → W32 × Flags} (h : ∀ a b, f a b = s.laneRes (r a b) false) :
    Completes (s.word2 k w f) (s.Lands w (s.of2 k w r)) :=
  State.completes_write hs (funext fun i => by simp only [State.lane2, State.of2, h, State.laneRes, Bool.false_or])

theorem State.word3_lands {f : W32 → W32 → W32 → LaneRes} {r : W32 → W32 → W32 → W32 × Flags}
    (h : ∀ a b c, f a b c = s.laneRes (r a b c) false) : Completes (s.word3 k w f) (s.Lands w (s.of3 k w r)) :=
  State.completes_write hs (funext fun i => by simp only [State.lane3, State.of3, h, State.laneRes, Bool.false_or])

end

theorem State.laneRes_clean (s : State) (v : W32) (poison : Bool) : s.laneRes (v, 0) poison = LaneRes.pure v poison := by
  simp [State.laneRes, LaneRes.pure]

/-- A result without a flag. -/
theorem State.clean_eq (s : State) {v u : W32} (h : v = u) : clean v = s.laneRes (u, 0) false := by rw [State.laneRes_clean, h]; rfl

/-! ### Integer results (R121, R122) -/

section
variable (a b c : W32)

theorem fld_shift (n : Nat) : fld n 0 5 = n % 32 := congrArg (· % 32) (Nat.div_one n)

theorem absI32_eq : (if a.msb then -a else a) = BitVec.ofInt 32 |a.toInt| := by
  rw [BitVec.msb_eq_toInt]
  by_cases h : a.toInt < 0
  · rw [if_pos (by simpa using h), abs_of_neg h, BitVec.ofInt_neg, BitVec.ofInt_toInt]
  · rw [if_neg (by simpa using h), abs_of_nonneg (not_lt.1 h), BitVec.ofInt_toInt]

theorem popc32_eq : popc32 a = BitVec.ofNat 32 ((List.range 32).map fun i => (a.getLsbD i).toNat).sum :=
  congrArg (BitVec.ofNat 32) (countP_eq_sum_toNat _ _)

theorem clz32_eq : clz32 a = BitVec.ofNat 32 (((List.range 32).find? fun i => a.getLsbD (31 - i)).getD 32) := by
  rw [clz32]
  split
  · rename_i h
    have hnone : ((List.range 32).find? fun i => a.getLsbD (31 - i)) = none := by simp [h]
    rw [hnone]
    rfl
  · rename_i h
    have hne : a.toNat ≠ 0 := fun h' => h (BitVec.eq_of_toNat_eq h')
    have hlog : a.toNat.log2 < 32 := (Nat.log2_lt hne).2 a.isLt
    have hfound : ((List.range 32).find? fun i => a.getLsbD (31 - i)) = some (31 - a.toNat.log2) := by
      refine List.find?_range_eq_some.2 ⟨?_, List.mem_range.2 (by omega), fun j hj => ?_⟩
      · rw [show 31 - (31 - a.toNat.log2) = a.toNat.log2 by omega]
        exact Nat.testBit_log2 hne
      · have habove : a.getLsbD (31 - j) = false := Nat.testBit_lt_two_pow ((Nat.log2_lt hne).1 (by omega))
        simp [habove]
    rw [hfound]
    rfl

theorem addI32_eq : a + b = BitVec.ofInt 32 (a.toInt + b.toInt) := by rw [BitVec.ofInt_add, BitVec.ofInt_toInt, BitVec.ofInt_toInt]

theorem subI32_eq : a - b = BitVec.ofInt 32 (a.toInt - b.toInt) := by
  rw [Int.sub_eq_add_neg, BitVec.ofInt_add, BitVec.ofInt_neg, BitVec.ofInt_toInt, BitVec.ofInt_toInt, BitVec.sub_eq_add_neg]

theorem mulI32_eq : a * b = BitVec.ofInt 32 (a.toInt * b.toInt) := by rw [BitVec.ofInt_mul, BitVec.ofInt_toInt, BitVec.ofInt_toInt]

theorem madI32_eq : a * b + c = BitVec.ofInt 32 (a.toInt * b.toInt + c.toInt) := by rw [BitVec.ofInt_add, ← mulI32_eq, BitVec.ofInt_toInt]

theorem minI32_eq : (if a.slt b then a else b) = BitVec.ofInt 32 (min a.toInt b.toInt) := by
  simp only [BitVec.slt, decide_eq_true_eq]
  split
  · rename_i h; rw [min_eq_left h.le, BitVec.ofInt_toInt]
  · rename_i h; rw [min_eq_right (not_lt.1 h), BitVec.ofInt_toInt]

theorem maxI32_eq : (if a.slt b then b else a) = BitVec.ofInt 32 (max a.toInt b.toInt) := by
  simp only [BitVec.slt, decide_eq_true_eq]
  split
  · rename_i h; rw [max_eq_right h.le, BitVec.ofInt_toInt]
  · rename_i h; rw [max_eq_left (not_lt.1 h), BitVec.ofInt_toInt]

theorem minN32_eq : (if a.ult b then a else b) = BitVec.ofNat 32 (min a.toNat b.toNat) := by
  simp only [BitVec.ult, decide_eq_true_eq]
  split
  · rename_i h; rw [min_eq_left h.le, BitVec.ofNat_toNat, BitVec.setWidth_eq]
  · rename_i h; rw [min_eq_right (not_lt.1 h), BitVec.ofNat_toNat, BitVec.setWidth_eq]

theorem maxN32_eq : (if a.ult b then b else a) = BitVec.ofNat 32 (max a.toNat b.toNat) := by
  simp only [BitVec.ult, decide_eq_true_eq]
  split
  · rename_i h; rw [max_eq_right h.le, BitVec.ofNat_toNat, BitVec.setWidth_eq]
  · rename_i h; rw [max_eq_left (not_lt.1 h), BitVec.ofNat_toNat, BitVec.setWidth_eq]

/-- A sum of naturals is clamped above only, a difference below only. -/
theorem addsN32_eq : clamp32 0 (2 ^ 32 - 1) (a.toNat + b.toNat) = BitVec.ofNat 32 (min (2 ^ 32 - 1) (a.toNat + b.toNat)) := by
  have h : max 0 (min (2 ^ 32 - 1) ((a.toNat : Int) + b.toNat)) = ((min (2 ^ 32 - 1) (a.toNat + b.toNat) : Nat) : Int) := by omega
  rw [clamp32, h, BitVec.ofInt_natCast]

theorem subsN32_eq : clamp32 0 (2 ^ 32 - 1) ((a.toNat : Int) - b.toNat) = BitVec.ofNat 32 (a.toNat - b.toNat) := by
  have ha := a.isLt
  have h : max 0 (min (2 ^ 32 - 1) ((a.toNat : Int) - b.toNat)) = ((a.toNat - b.toNat : Nat) : Int) := by omega
  rw [clamp32, h, BitVec.ofInt_natCast]

theorem shl32_eq : a <<< fld b.toNat 0 5 = BitVec.ofNat 32 (a.toNat * 2 ^ (b.toNat % 32)) := by
  rw [fld_shift, ← BitVec.toNat_inj, BitVec.toNat_shiftLeft, Nat.shiftLeft_eq, BitVec.toNat_ofNat]

theorem shr32_eq : a >>> fld b.toNat 0 5 = BitVec.ofNat 32 (a.toNat / 2 ^ (b.toNat % 32)) := by
  have hlt : a.toNat / 2 ^ (b.toNat % 32) < 2 ^ 32 := Nat.lt_of_le_of_lt (Nat.div_le_self _ _) a.isLt
  rw [fld_shift, ← BitVec.toNat_inj, BitVec.toNat_ushiftRight, Nat.shiftRight_eq_div_pow, BitVec.toNat_ofNat, Nat.mod_eq_of_lt hlt]

theorem sra32_eq : a.sshiftRight (fld b.toNat 0 5) = BitVec.ofInt 32 (a.toInt / (2 ^ (b.toNat % 32) : Nat)) := by
  rw [fld_shift, ← BitVec.ofInt_toInt (x := a.sshiftRight _), BitVec.toInt_sshiftRight, Int.shiftRight_eq_div_pow]

/-- The bits that leave at the top come back at the bottom, where the others have left zeros. -/
theorem rol32_eq : a.rotateLeft (fld b.toNat 0 5) = BitVec.ofNat 32 (a.toNat * 2 ^ (b.toNat % 32) + a.toNat / 2 ^ (32 - b.toNat % 32)) := by
  have hn : b.toNat % 32 < 32 := Nat.mod_lt _ (by decide)
  rw [fld_shift]
  generalize b.toNat % 32 = n at hn
  have hsplit : 2 ^ 32 = 2 ^ (32 - n) * 2 ^ n := by rw [← Nat.pow_add]; congr 1; omega
  have hlow : a.toNat / 2 ^ (32 - n) < 2 ^ n := Nat.div_lt_of_lt_mul (hsplit ▸ a.isLt)
  have hhigh : a.toNat * 2 ^ n % 2 ^ 32 = a.toNat % 2 ^ (32 - n) * 2 ^ n := by rw [hsplit, Nat.mul_mod_mul_right]
  have hfits : a.toNat % 2 ^ (32 - n) * 2 ^ n + a.toNat / 2 ^ (32 - n) < 2 ^ 32 := by
    calc a.toNat % 2 ^ (32 - n) * 2 ^ n + a.toNat / 2 ^ (32 - n) < a.toNat % 2 ^ (32 - n) * 2 ^ n + 2 ^ n := Nat.add_lt_add_left hlow _
      _ = (a.toNat % 2 ^ (32 - n) + 1) * 2 ^ n := (Nat.succ_mul _ _).symm
      _ ≤ 2 ^ (32 - n) * 2 ^ n := Nat.mul_le_mul_right _ (Nat.mod_lt _ (Nat.two_pow_pos _))
      _ = 2 ^ 32 := hsplit.symm
  rw [← BitVec.toNat_inj, BitVec.toNat_ofNat, Nat.add_mod, hhigh, Nat.mod_eq_of_lt (hlow.trans_le (Nat.pow_le_pow_right (by decide) hn.le)),
    Nat.mod_eq_of_lt hfits, ← Nat.shiftLeft_eq, Nat.shiftLeft_add_eq_or_of_lt hlow, BitVec.rotateLeft, BitVec.rotateLeftAux,
    Nat.mod_eq_of_lt hn, BitVec.toNat_or, BitVec.toNat_shiftLeft, BitVec.toNat_ushiftRight, Nat.shiftLeft_eq, hhigh, Nat.shiftLeft_eq,
    Nat.shiftRight_eq_div_pow]

theorem getLsbD_lowMask32 (n : Nat) {i : Nat} (hi : i < 32) : (lowMask32 n).getLsbD i = decide (i < n) := by
  rw [lowMask32]
  split
  · rename_i h
    rw [decide_eq_true (by omega), show (0xFFFFFFFF : W32) = BitVec.allOnes 32 from rfl, BitVec.getLsbD_allOnes, decide_eq_true hi]
  · rename_i h
    have hmask : ((1#32 <<< n) - 1).toNat = 2 ^ n - 1 := by
      have hlt : 2 ^ n < 2 ^ 32 := Nat.pow_lt_pow_right (by decide) (not_le.1 h)
      have hpos : 0 < 2 ^ n := Nat.two_pow_pos n
      rw [BitVec.toNat_sub, BitVec.toNat_shiftLeft, Nat.shiftLeft_eq]
      simp
      omega
    rw [BitVec.getLsbD, hmask, Nat.testBit_two_pow_sub_one]

/-- A field of at most 32 bits (R122). -/
theorem bfx32_eq : bfx32 a b c = BitVec.ofNat 32 (a.toNat / 2 ^ (b.toNat % 32) % 2 ^ min (c.toNat % 64) 32) := by
  refine BitVec.eq_of_getLsbD_eq fun i hi => ?_
  have hfield : fld c.toNat 0 6 = c.toNat % 64 := congrArg (· % 64) (Nat.div_one _)
  have hmin : i < min (c.toNat % 64) 32 ↔ i < c.toNat % 64 := by omega
  rw [bfx32, hfield, fld_shift, BitVec.getLsbD_and, getLsbD_lowMask32 _ hi, BitVec.getLsbD_ushiftRight, BitVec.getLsbD_ofNat, decide_eq_true hi,
    Nat.testBit_mod_two_pow, Nat.testBit_div_two_pow, Bool.true_and, Bool.and_comm, decide_eq_decide.2 hmin, Nat.add_comm]
  rfl

theorem bfi32_eq : bfi32 a b c = maskOf fun i =>
    if b.toNat % 32 ≤ i ∧ i < b.toNat % 32 + min (b.toNat / 256 % 64) 32 then a.getLsbD (i - b.toNat % 32) else c.getLsbD i := by
  refine BitVec.eq_of_getLsbD_eq fun i hi => ?_
  have hwidth : fld b.toNat 8 6 = b.toNat / 256 % 64 := rfl
  rw [getLsbD_maskOf _ hi, bfi32, hwidth, fld_shift]
  generalize b.toNat % 32 = lo
  generalize b.toNat / 256 % 64 = n
  simp only [BitVec.getLsbD_or, BitVec.getLsbD_and, BitVec.getLsbD_not, BitVec.getLsbD_shiftLeft, hi, decide_true, Bool.true_and]
  by_cases hlo : i < lo
  · rw [if_neg (by omega)]
    simp [hlo]
  · rw [getLsbD_lowMask32 _ (by omega)]
    by_cases hin : i < lo + min n 32
    · rw [if_pos ⟨by omega, hin⟩]
      simp [hlo, show i - lo < n by omega]
    · rw [if_neg fun h => hin h.2]
      simp [hlo, show ¬ i - lo < n by omega]

end

/-- What O24 says, but that a send needs the map of regions in its canonical form (R150): then, and at every other destination in every state, it
holds. -/
theorem integerWords_of_regionsOk (s : State) (w : EArgs) (hs : (∃ d, w.dst = .link d) → s.regionsOk = true) :
    (∀ p ∈ intTable1, Completes (exec (p.1 w) s) (s.Lands w (s.of1 .int w fun a => (p.2 a, 0))))
    ∧ (∀ p ∈ intTable2, Completes (exec (p.1 w) s) (s.Lands w (s.of2 .int w fun a b => (p.2 a b, 0))))
    ∧ (∀ p ∈ intTable3, Completes (exec (p.1 w) s) (s.Lands w (s.of3 .int w fun a b c => (p.2 a b c, 0)))) := by
  have one {f r : W32 → W32} (h : ∀ a, f a = r a) : Completes (s.word1 .int w fun a => clean (f a)) (s.Lands w (s.of1 .int w fun a => (r a, 0))) :=
    State.word1_lands hs .int fun a => s.clean_eq (h a)
  have two {f r : W32 → W32 → W32} (h : ∀ a b, f a b = r a b) :
      Completes (s.word2 .int w fun a b => clean (f a b)) (s.Lands w (s.of2 .int w fun a b => (r a b, 0))) :=
    State.word2_lands hs .int fun a b => s.clean_eq (h a b)
  have three {f r : W32 → W32 → W32 → W32} (h : ∀ a b c, f a b c = r a b c) :
      Completes (s.word3 .int w fun a b c => clean (f a b c)) (s.Lands w (s.of3 .int w fun a b c => (r a b c, 0))) :=
    State.word3_lands hs .int fun a b c => s.clean_eq (h a b c)
  have same (f : W32 → W32 → W32) (a b : W32) : f a b = f a b := rfl
  refine ⟨?_, ?_, ?_⟩
  · simp only [intTable1, List.forall_mem_cons]
    exact ⟨one absI32_eq, one popc32_eq, one clz32_eq, one fun _ => rfl, List.forall_mem_nil _⟩
  · simp only [intTable2, arithTable, clampTable, shiftTable, List.cons_append, List.nil_append, List.forall_mem_cons]
    exact ⟨two addI32_eq, two subI32_eq, two mulI32_eq, two fun _ _ => rfl, two fun _ _ => rfl, two minI32_eq, two maxI32_eq, two minN32_eq, two maxN32_eq,
      two fun _ _ => rfl, two fun _ _ => rfl, two addsN32_eq, two subsN32_eq, two fun _ _ => rfl, two fun _ _ => rfl, two fun _ _ => rfl,
      two fun _ _ => rfl, two shl32_eq, two shr32_eq, two sra32_eq, two rol32_eq, List.forall_mem_nil _⟩
  · simp only [intTable3, List.forall_mem_cons]
    exact ⟨three madI32_eq, three bfx32_eq, three bfi32_eq, List.forall_mem_nil _⟩

/-! ### Floating-point results (R123-R128) -/

section
variable (a b c : W32)

/-- A pattern below its sign bit, and with it turned over. -/
theorem lowBitsF32_eq : BitVec.ofNat 32 (a.toNat % 2 ^ 31) = a &&& 0x7FFFFFFF := by
  rw [← BitVec.toNat_inj, BitVec.toNat_and, BitVec.toNat_ofNat, Nat.mod_eq_of_lt (by omega)]
  exact (Nat.and_two_pow_sub_one_eq_mod a.toNat 31).symm

theorem flipSignF32_eq : BitVec.ofNat 32 (a.toNat % 2 ^ 31 + fmtF32.signBit (!(a.toNat / 2 ^ 31 % 2 == 1))) = a ^^^ 0x80000000 := by
  refine BitVec.eq_of_getLsbD_eq fun i hi => ?_
  have hsign : fmtF32.signBit (!(a.toNat / 2 ^ 31 % 2 == 1)) = 2 ^ 31 * (!a.getLsbD 31).toNat := by
    have htest : (a.toNat / 2 ^ 31 % 2 == 1) = a.getLsbD 31 := Nat.testBit_eq_decide_div_mod_eq.symm
    rw [htest]
    cases a.getLsbD 31 <;> rfl
  have htop : (0x80000000 : W32).getLsbD i = decide (31 = i) := by
    rw [show (0x80000000 : W32) = BitVec.twoPow 32 31 from rfl, BitVec.getLsbD_twoPow]
    simp
  rw [hsign, BitVec.getLsbD_ofNat, decide_eq_true hi, Nat.add_comm, Nat.testBit_two_pow_mul_add _ (Nat.mod_lt _ (by decide)), BitVec.getLsbD_xor,
    htop, Bool.true_and]
  split
  · rename_i h
    rw [Nat.testBit_mod_two_pow, decide_eq_true h, decide_eq_false (by omega), Bool.true_and, Bool.xor_false]
    rfl
  · obtain rfl : i = 31 := by omega
    cases a.getLsbD 31 <;> rfl

theorem decodeF32_eq (x : Nat) : fmtF32.decode x =
    if x / 2 ^ 23 % 2 ^ 8 = 2 ^ 8 - 1 then
      if x % 2 ^ 23 = 0 then .inf (x / 2 ^ 31 % 2 == 1) else .nan (x % 2 ^ 23 < 2 ^ 22)
    else if x / 2 ^ 23 % 2 ^ 8 = 0 then .fin (x / 2 ^ 31 % 2 == 1) (x % 2 ^ 23) (1 - 127 - 23)
    else .fin (x / 2 ^ 31 % 2 == 1) (2 ^ 23 + x % 2 ^ 23) (((x / 2 ^ 23 % 2 ^ 8 : Nat) : Int) - 127 - 23) := rfl

/-- The sign of a number is the top bit of its pattern. -/
theorem sign_decodeF32 (x : Nat) : (fmtF32.decode x).isNaN = false → (fmtF32.decode x).sign = (x / 2 ^ 31 % 2 == 1) := by
  rw [decodeF32_eq]
  split_ifs
  · exact fun _ => rfl
  · exact fun h => Bool.noConfusion h
  · exact fun _ => rfl
  · exact fun _ => rfl

theorem absF32_eq : f32Res (fmtF32.absBits a.toNat) =
    if (fmtF32.decode a.toNat).isNaN then (0x7FC00000, if (fmtF32.decode a.toNat).isSig then 16 else 0) else (a &&& 0x7FFFFFFF, 0) := by
  rw [Fmt.absBits]
  cases fmtF32.decode a.toNat with
  | nan sig => rfl
  | inf _ | fin _ _ _ => exact congrArg (·, 0) (lowBitsF32_eq a)

theorem negF32_eq : f32Res (fmtF32.negBits a.toNat) =
    if (fmtF32.decode a.toNat).isNaN then (0x7FC00000, if (fmtF32.decode a.toNat).isSig then 16 else 0) else (a ^^^ 0x80000000, 0) := by
  have hsign := sign_decodeF32 a.toNat
  have hflip := flipSignF32_eq a
  rw [Fmt.negBits]
  cases hv : fmtF32.decode a.toNat with
  | nan sig => rfl
  | inf _ | fin _ _ _ =>
    rw [hv] at hsign
    rw [← hsign rfl] at hflip
    exact congrArg (·, 0) hflip

theorem minMaxF32_eq (larger : Bool) : f32Res (fmtF32.minMax larger a.toNat b.toNat) = pickF32 larger a b := by
  have hnum (x y : FVal) (o : Option Ordering) (fl : Flags) :
      f32Res (if (match o with
        | some .lt => true
        | some .eq => x.sign && !y.sign
        | _ => false) != larger then a.toNat else b.toNat, fl)
      = (if o = some .lt ∨ (o = some .eq ∧ x.sign = true ∧ y.sign = false) then (if larger then b else a) else if larger then a else b, fl) := by
    obtain _ | _ | _ | _ := o <;> cases x.sign <;> cases y.sign <;> cases larger <;> simp [f32Res]
  unfold Fmt.minMax pickF32
  dsimp only
  cases hx : fmtF32.decode a.toNat <;> cases hy : fmtF32.decode b.toNat
  case nan.nan => rfl
  case nan.inf | nan.fin | inf.nan | fin.nan => simp [f32Res, FVal.isNaN, flagNV, flagNone]
  all_goals exact hnum _ _ _ _

theorem halves_eq (f : Nat → Nat → Nat → Nat × Flags) : halves f a b c = onHalves f a b c := by
  have hpair (x y : Nat) : BitVec.ofNat 32 (x % 65536 + 65536 * (y % 65536)) = (BitVec.ofNat 16 y ++ BitVec.ofNat 16 x : BitVec 32) := by
    refine BitVec.eq_of_toNat_eq ?_
    rw [BitVec.toNat_append, BitVec.toNat_ofNat, BitVec.toNat_ofNat, BitVec.toNat_ofNat, ← Nat.shiftLeft_add_eq_or_of_lt (Nat.mod_lt _ (by decide)),
      Nat.shiftLeft_eq]
    omega
  exact congrArg (·, _) (hpair _ _)

theorem putField_eq (width k y : Nat) : putField c width k y =
    maskOf fun j => if width * k ≤ j ∧ j < width * k + width then y.testBit (j - width * k) else c.getLsbD j := by
  refine BitVec.eq_of_getLsbD_eq fun i hi => ?_
  rw [getLsbD_maskOf _ hi, putField]
  generalize width * k = lo
  simp only [BitVec.getLsbD_or, BitVec.getLsbD_and, BitVec.getLsbD_not, BitVec.getLsbD_shiftLeft, BitVec.getLsbD_ofNat, hi, decide_true,
    Bool.true_and, Nat.testBit_two_pow_sub_one]
  by_cases hlo : i < lo
  · rw [if_neg (by omega)]
    simp [hlo]
  · by_cases hin : i < lo + width
    · rw [if_pos ⟨by omega, hin⟩]
      simp [hlo, show i - lo < width by omega, show i - lo < 32 by omega]
    · rw [if_neg fun h => hin h.2]
      simp [hlo, show ¬ i - lo < width by omega]

end

/-- What O25 says, with the condition of `integerWords_of_regionsOk` on a send. -/
theorem floatWords_of_regionsOk (s : State) (w : EArgs) (hs : (∃ d, w.dst = .link d) → s.regionsOk = true) :
    (∀ p ∈ fpTable1, Completes (exec (p.1 w) s) (s.Lands w (s.of1 p.2.1 w p.2.2)))
    ∧ (∀ p ∈ fpTable2, Completes (exec (p.1 w) s) (s.Lands w (s.of2 .f32 w p.2)))
    ∧ (∀ p ∈ fpTable3, Completes (exec (p.1 w) s) (s.Lands w (s.of3 .f32 w p.2)))
    ∧ (∀ p ∈ halfTable2, Completes (exec (p.1 w) s)
        (s.Lands w (s.of2 (.halves p.2.1) w fun a b => onHalves (fun x y _ => p.2.1.op2 p.2.2 x y) a b 0)))
    ∧ (∀ p ∈ halfTable3, Completes (exec (p.1 w) s) (s.Lands w (s.of3 (.halves p.2) w (onHalves (p.2.op3 FVal.fma)))))
    ∧ (∀ p ∈ narrowTable, Completes (exec (p.1 w) s) (s.Lands w fun i =>
        let a := s.src .f32 w.a i
        let c := s.src .f32 w.c i
        let y := convertBits fmtF32 p.2.1 p.2.2 a.1.toNat
        let lo := p.2.1.width * w.b.raw
        s.laneRes (maskOf fun j => if lo ≤ j ∧ j < lo + p.2.1.width then y.1.testBit (j - lo) else c.1.getLsbD j, y.2) (a.2 || c.2)))
    ∧ (∀ p ∈ widenTable, Completes (exec (p.1 w) s) (s.Lands w (s.of1 .f32 w fun a =>
        onF32 (convertBits p.2 fmtF32 false (a.toNat / 2 ^ (p.2.width * w.b.raw) % 2 ^ p.2.width))))) := by
  have one {k : LitKind} {f r : W32 → W32 × Flags} (h : ∀ a, f a = r a) :
      Completes (s.word1 k w fun a => fpLane s.fpten (f a)) (s.Lands w (s.of1 k w r)) :=
    State.word1_lands hs k fun a => by rw [h]; rfl
  have two {k : LitKind} {f r : W32 → W32 → W32 × Flags} (h : ∀ a b, f a b = r a b) :
      Completes (s.word2 k w fun a b => fpLane s.fpten (f a b)) (s.Lands w (s.of2 k w r)) :=
    State.word2_lands hs k fun a b => by rw [h]; rfl
  have three {k : LitKind} {f r : W32 → W32 → W32 → W32 × Flags} (h : ∀ a b c, f a b c = r a b c) :
      Completes (s.word3 k w fun a b c => fpLane s.fpten (f a b c)) (s.Lands w (s.of3 k w r)) :=
    State.word3_lands hs k fun a b c => by rw [h]; rfl
  refine ⟨?_, ?_, ?_, ?_, ?_, ?_, ?_⟩
  · simp only [fpTable1, fpTable1a, fpTable1b, List.cons_append, List.nil_append, List.forall_mem_cons]
    exact ⟨one fun _ => rfl, one absF32_eq, one negF32_eq, one fun _ => rfl, one fun _ => rfl, one fun _ => rfl, one fun _ => rfl,
      List.forall_mem_nil _⟩
  · simp only [fpTable2, List.forall_mem_cons]
    exact ⟨two fun _ _ => rfl, two fun _ _ => rfl, two fun _ _ => rfl, two fun a b => minMaxF32_eq a b false, two fun a b => minMaxF32_eq a b true,
      two fun _ _ => rfl, List.forall_mem_nil _⟩
  · simp only [fpTable3, List.forall_mem_cons]
    exact ⟨three fun _ _ _ => rfl, three fun _ _ _ => rfl, List.forall_mem_nil _⟩
  · simp only [halfTable2, List.forall_mem_cons]
    exact ⟨two fun a b => halves_eq a b 0 _, two fun a b => halves_eq a b 0 _, List.forall_mem_nil _⟩
  · simp only [halfTable3, List.forall_mem_cons]
    exact ⟨three fun a b c => halves_eq a b c _, three fun a b c => halves_eq a b c _, List.forall_mem_nil _⟩
  · have narrow (g : Fmt) (sat : Bool) : Completes (s.narrow g sat w) (s.Lands w fun i =>
        let a := s.src .f32 w.a i
        let c := s.src .f32 w.c i
        let y := convertBits fmtF32 g sat a.1.toNat
        let lo := g.width * w.b.raw
        s.laneRes (maskOf fun j => if lo ≤ j ∧ j < lo + g.width then y.1.testBit (j - lo) else c.1.getLsbD j, y.2) (a.2 || c.2)) :=
      State.completes_write hs (funext fun i => by dsimp only; rw [putField_eq]; rfl)
    simp only [narrowTable, List.forall_mem_cons]
    exact ⟨narrow _ _, narrow _ _, narrow _ _, narrow _ _, narrow _ _, narrow _ _, narrow _ _, narrow _ _, List.forall_mem_nil _⟩
  · simp only [widenTable, List.forall_mem_cons]
    exact ⟨one fun _ => rfl, one fun _ => rfl, one fun _ => rfl, one fun _ => rfl, List.forall_mem_nil _⟩

end Sys2Proof.Machine
end

section
/-! SUPPORT. The compare, mask and special words (R129-R134). -/

namespace Sys2Proof.Machine

/-! ### Lanes beyond the last -/

theorem any_range_congr {P Q : Nat → Bool} {n : Nat} (h : ∀ i < n, P i = Q i) : (List.range n).any P = (List.range n).any Q := by
  rw [Bool.eq_iff_iff, List.any_eq_true, List.any_eq_true]
  exact exists_congr fun i => and_congr_right fun hi => by rw [h i (List.mem_range.1 hi)]

theorem find?_range_congr {α : Type} {P Q : Nat → Bool} {u v : Nat → α} {n : Nat} (h : ∀ i < n, P i = Q i) (huv : ∀ i < n, u i = v i) :
    ((List.range n).find? P).map u = ((List.range n).find? Q).map v := by
  rw [List.find?_congr fun i hi => h i (List.mem_range.1 hi)]
  exact Option.map_congr fun i hi => huv i (List.mem_range.1 (List.mem_of_find?_eq_some hi))

/-- A word's outcome is about its 32 lanes alone. -/
theorem State.Lands.congr {s t : State} {w : EArgs} {f g : Nat → LaneRes} (h : ∀ i < 32, f i = g i) (hf : s.Lands w f t) : s.Lands w g t := by
  obtain ⟨vals, P, F, flt, hlen, hlanes, hsent⟩ := hf
  have hle {i : Nat} (hi : i < match w.dst with
    | .s _ => 1
    | _ => 32) : i < 32 := Nat.lt_of_lt_of_le hi (by split <;> decide)
  refine ⟨vals, P, F, flt, hlen, ?_, ?_⟩
  · cases hsq : s.site.squashed with
    | true =>
      rw [if_pos hsq] at hlanes
      exact (if_pos rfl).mpr hlanes
    | false =>
      rw [if_neg (by simp [hsq])] at hlanes
      obtain ⟨hval, hpsn, hflags, hflt⟩ := hlanes
      refine (if_neg Bool.false_ne_true).mpr ⟨fun i hi => ?_, fun i hi => ?_, fun k hk => ?_, ?_⟩
      · dsimp only
        rw [← h i hi]
        exact hval i hi
      · dsimp only
        rw [← h i hi]
        exact hpsn i hi
      · exact (hflags k hk).trans (any_range_congr fun i hi => by dsimp only; rw [h i (hle hi)])
      · exact hflt.trans (find?_range_congr (fun i hi => by dsimp only; rw [h i (hle hi)]) fun i hi => by rw [h i (hle hi)])
  · dsimp only at hsent ⊢
    cases hdst : w.dst with
    | stage =>
      rw [hdst] at hsent
      obtain ⟨hnone, hsome⟩ := hsent
      refine ⟨hnone, fun hact => ?_⟩
      have hfault := find?_range_congr (n := 32) (fun i hi => congrArg (fun r => (s.picks w.pred).getLsbD i && (r.poison || s.predP w.pred i
        || r.fault != 0)) (h i hi)) fun i hi => congrArg (fun r => (if r.poison || s.predP w.pred i then 7 else r.fault, i)) (h i hi)
      exact hfault ▸ hsome hact
    | v _ | s _ | m _ | link _ | null | p _ =>
      rw [hdst] at hsent
      exact hsent

/-! ### Compares and masks (R129-R131) -/

theorem FVal.cmp_eq_none_iff (x y : FVal) : x.cmp y = none ↔ (x.isNaN || y.isNaN) = true := by
  cases x <;> cases y <;> simp [FVal.cmp, FVal.isNaN]

/-- A signalling NaN is a NaN. -/
theorem FVal.isNaN_of_isSig {x : FVal} (h : x.isSig = true) : x.isNaN = true := by
  cases x with
  | nan _ => rfl
  | inf _ | fin _ _ _ => exact Bool.noConfusion h

/-- An FP compare, by what it makes of the order of its operands (R130). -/
theorem fpCompare_eq {ok : Ordering → Bool} {nan quietNV : Bool} {judge : Option Ordering → Bool} (hsome : ∀ o, ok o = judge (some o))
    (hnone : nan = judge none) (a b : W32) : fpCompare ok nan quietNV a b =
      (bitLane (judge ((fmtF32.decode a.toNat).cmp (fmtF32.decode b.toNat))),
        if (fmtF32.decode a.toNat).isSig || (fmtF32.decode b.toNat).isSig
          || (quietNV && ((fmtF32.decode a.toNat).isNaN || (fmtF32.decode b.toNat).isNaN)) then 16 else 0) := by
  unfold fpCompare
  generalize fmtF32.decode a.toNat = x
  generalize fmtF32.decode b.toNat = y
  have hnan := FVal.cmp_eq_none_iff x y
  dsimp only
  cases hcmp : x.cmp y with
  | none =>
    rw [hnan.1 hcmp, Bool.and_true, Bool.or_comm, hnone]
    rfl
  | some o =>
    have hclean : (x.isNaN || y.isNaN) = false := by rw [← Bool.not_eq_true, ← hnan, hcmp]; simp
    have hquiet : (x.isSig || y.isSig) = false := by
      rw [Bool.or_eq_false_iff] at hclean ⊢
      exact hclean.imp (fun h => Bool.eq_false_iff.2 fun h' => Bool.eq_false_iff.1 h (FVal.isNaN_of_isSig h'))
        fun h => Bool.eq_false_iff.2 fun h' => Bool.eq_false_iff.1 h (FVal.isNaN_of_isSig h')
    rw [hclean, hquiet, Bool.and_false, Bool.or_false]
    exact congrArg (fun b => (bitLane b, (0 : Flags))) (hsome o)

/-- A mask word, by what it makes of the bits of its two masks. -/
theorem State.maskWord_lands {s : State} {w : EArgs} (hs : (∃ d, w.dst = .link d) → s.regionsOk = true) {f : Bool → Bool → Bool}
    {r : W32 → W32 → W32} (h : ∀ (a b : W32), ∀ i < 32, f (a.getLsbD i) (b.getLsbD i) = (r a b).getLsbD i) :
    Completes (s.maskWord w f) (s.Lands w fun i =>
      ⟨bitLane ((r (s.src .int w.a i).1 (s.src .int w.b i).1).getLsbD i), (s.srcMaskP w.a).getLsbD i || (s.srcMaskP w.b).getLsbD i, 0, 0⟩) :=
  ⟨_, rfl, State.Lands.congr (fun i hi => by rw [h _ _ i hi]; rfl) (State.write_lands w _ hs)⟩

/-- What O27 says, with the condition of `integerWords_of_regionsOk` on a send. -/
theorem compareAndMaskWords_of_regionsOk (s : State) (w : EArgs) (hs : (∃ d, w.dst = .link d) → s.regionsOk = true) :
    (∀ p ∈ cmpTable, Completes (exec (p.1 w) s) (s.Lands w (s.of2 .int w fun a b => (bitLane (p.2 a b), 0))))
    ∧ (∀ p ∈ cmpFTable, Completes (exec (p.1 w) s) (s.Lands w (s.of2 .f32 w fun a b =>
        let x := fmtF32.decode a.toNat
        let y := fmtF32.decode b.toNat
        (bitLane (p.2.1 (x.cmp y)), if x.isSig || y.isSig || (p.2.2 && (x.isNaN || y.isNaN)) then 16 else 0))))
    ∧ (∀ p ∈ maskTable, Completes (exec (p.1 w) s) (s.Lands w fun i =>
        ⟨bitLane ((p.2 (s.src .int w.a i).1 (s.src .int w.b i).1).getLsbD i),
          (s.srcMaskP w.a).getLsbD i || (s.srcMaskP w.b).getLsbD i, 0, 0⟩))
    ∧ Completes (exec (.mlane w) s) (s.Lands w fun i =>
        ⟨bitLane (decide (min (s.src .int w.a 0).1.toNat 31 ≤ i ∧ i ≤ min (s.src .int w.b 0).1.toNat 31)),
          (s.src .int w.a 0).2 || (s.src .int w.b 0).2, 0, 0⟩)
    ∧ Completes (exec (.eSel w) s) (s.Lands w fun i =>
        let r := if (s.src .int w.a i).1.getLsbD i then s.src .int w.b i else s.src .int w.c i
        ⟨r.1, r.2 || (s.srcMaskP w.a).getLsbD i, 0, 0⟩) := by
  have compare {f r : W32 → W32 → Bool} (h : ∀ a b, f a b = r a b) :
      Completes (s.word2 .int w fun a b => bitRes (f a b)) (s.Lands w (s.of2 .int w fun a b => (bitLane (r a b), 0))) :=
    State.word2_lands hs .int fun a b => s.clean_eq (congrArg bitLane (h a b))
  have compareF {ok : Ordering → Bool} {nan : Bool} (judge : Option Ordering → Bool) (quietNV : Bool) (hsome : ∀ o, ok o = judge (some o))
      (hnone : nan = judge none) : Completes (s.word2 .f32 w fun a b => fpLane s.fpten (fpCompare ok nan quietNV a b))
        (s.Lands w (s.of2 .f32 w fun a b =>
          let x := fmtF32.decode a.toNat
          let y := fmtF32.decode b.toNat
          (bitLane (judge (x.cmp y)), if x.isSig || y.isSig || (quietNV && (x.isNaN || y.isNaN)) then 16 else 0))) :=
    State.word2_lands hs .f32 fun a b => by rw [fpCompare_eq hsome hnone]; rfl
  have mask {f : Bool → Bool → Bool} (r : W32 → W32 → W32) (h : ∀ (a b : W32), ∀ i < 32, f (a.getLsbD i) (b.getLsbD i) = (r a b).getLsbD i) :=
    State.maskWord_lands hs h
  refine ⟨?_, ?_, ?_, ?_, ?_⟩
  · simp only [cmpTable, List.forall_mem_cons]
    exact ⟨compare fun a b => beq_eq_decide a b, compare fun _ _ => rfl, compare fun _ _ => rfl, compare fun _ _ => rfl, compare fun _ _ => rfl,
      List.forall_mem_nil _⟩
  · simp only [cmpFTable, List.forall_mem_cons]
    refine ⟨compareF (fun o => decide (o = some .eq)) _ (fun o => ?_) (by simp), compareF (fun o => decide (o = some .lt)) _ (fun o => ?_) (by simp),
      compareF (fun o => decide (o = some .lt ∨ o = some .eq)) _ (fun o => ?_) (by simp), compareF (fun o => decide (o = none)) _ (fun o => ?_) (by simp),
      List.forall_mem_nil _⟩ <;> cases o <;> simp
  · simp only [maskTable, List.forall_mem_cons]
    exact ⟨mask (fun a b => a &&& b) fun _ _ _ _ => (BitVec.getLsbD_and ..).symm, mask (fun a b => a ||| b) fun _ _ _ _ => (BitVec.getLsbD_or ..).symm,
      mask (fun a b => a ^^^ b) fun _ _ _ _ => (BitVec.getLsbD_xor ..).symm, mask (f := fun a _ => !a) (fun a _ => ~~~a) fun a b i hi => by simp [hi],
      List.forall_mem_nil _⟩
  · exact State.completes_write hs (funext fun i => by rw [Bool.decide_and]; rfl)
  · exact State.completes_write hs rfl

/-! ### The special words (R117, R132-R135) -/

/-- The executing word is neither nullified nor squashed, and its element is not quiet (R118). -/
def State.acts (s : State) : Prop := s.site.null = false ∧ s.site.squashed = false ∧ s.myElem.estat.getLsbD 7 = false

theorem State.active_always (s : State) (h : s.acts) : s.active .always = 0xFFFFFFFF := by
  obtain ⟨hnull, hsq, hquiet⟩ := h
  rw [State.active, hsq, State.picks, hnull, Elem.picks, Elem.quiet, hquiet]
  simp [Elem.predBits]

theorem State.active_always_of_not_acts (s : State) (h : ¬ s.acts) : s.active .always = 0 := by
  unfold State.acts at h
  unfold State.active State.picks Elem.picks Elem.quiet
  split_ifs <;> simp_all

theorem State.exitPoison_of_acts (s : State) (w : EArgs) (h : s.acts) : s.exitPoison w = s.srcMaskP w.a := by
  rw [State.exitPoison, s.active_always h]
  exact BitVec.allOnes_and

theorem State.estatWord_of_acts (s : State) (what : Land) (h : s.acts) : s.estatWord what = .next (s.fly what) := by
  rw [State.estatWord, s.active_always h]
  rfl

theorem State.estatWord_of_not_acts (s : State) (what : Land) (h : ¬ s.acts) : s.estatWord what = .next s.flyNothing := by
  rw [State.estatWord, s.active_always_of_not_acts h]
  rfl

theorem execExitf_of_not_acts (s : State) (w : EArgs) (h : ¬ s.acts) : execExitf w s = .next s.flyNothing := by
  rw [execExitf, State.exitPoison, s.active_always_of_not_acts h]
  simp

theorem execExitf_of_clean (s : State) (w : EArgs) (h : s.acts) (hclean : s.srcMaskP w.a = 0) :
    execExitf w s = .next (if (s.src .int w.a 0).1 ≠ 0 then s.fly (.exitf s.site.iter) else s.flyNothing) := by
  have hact : s.active .always &&& (s.src .int w.a 0).1 = (s.src .int w.a 0).1 := by
    rw [s.active_always h]
    exact BitVec.allOnes_and
  rw [execExitf, s.exitPoison_of_acts w h, hclean, hact]
  exact (apply_ite Host.Outcome.next ..).symm

/-- A poisoned bit of `exitf` raises fault 6, with its lane (R145). -/
theorem execExitf_of_poison (s : State) (w : EArgs) (h : s.acts) {l : Nat} (hl : l < 32) (hpsn : (s.srcMaskP w.a).getLsbD l = true)
    (hleast : ∀ k < l, (s.srcMaskP w.a).getLsbD k = false) : execExitf w s = .next (s.flyIn 4 .nothing 0 (some (6, l))) := by
  have hne : s.srcMaskP w.a ≠ 0 := fun h0 => by simp [h0] at hpsn
  have hfind : (List.range 32).find? (s.srcMaskP w.a).getLsbD = some l :=
    List.find?_range_eq_some.2 ⟨hpsn, List.mem_range.2 hl, fun k hk => by simp [hleast k hk]⟩
  rw [execExitf, s.exitPoison_of_acts w h, if_pos hne, hfind]
  rfl

theorem State.laneNumber_eq (s : State) (n i : Nat) : s.laneNumber n i =
    match n with
    | 0 => i
    | 1 => s.site.el % 64 - 4 * (s.site.g % 16)
    | 2 => s.site.el % 2048 / 64 - 4 * (s.site.g % 128 / 16)
    | _ => s.site.el % 64 % 4 + 4 * (s.site.el % 2048 / 64 % 4) := by
  obtain _ | _ | _ | n := n
  · rfl
  · exact congrArg (s.site.el % 64 - ·) (Nat.mul_comm ..)
  · exact congrArg (s.site.el % 2048 / 64 - ·) (Nat.mul_comm ..)
  · rfl

/-- `iter` outside a loop and inside one (R134). -/
theorem State.iterNumber_of_none {s : State} (h : s.myRegion.span = none) : s.iterNumber = 0 := by rw [State.iterNumber, h]

theorem State.iterNumber_of_ne_none {s : State} (h : s.myRegion.span ≠ none) :
    s.iterNumber = BitVec.ofInt 32 ((s.myRegion.itern : Int) - 1 - s.site.tag) := by
  obtain ⟨_, hspan⟩ := Option.ne_none_iff_exists'.1 h
  rw [State.iterNumber, hspan]

/-- What O28 says, with the condition of `integerWords_of_regionsOk` on a send. -/
theorem specialWords_of_regionsOk (s : State) (w : EArgs) (hs : (∃ d, w.dst = .link d) → s.regionsOk = true) :
    let e := s.myElem
    let x := s.site.el % 64
    let y := s.site.el % 2048 / 64
    let num (val : Nat → W32) : Nat → LaneRes := fun i => ⟨val i, false, 0, 0⟩
    let acts := s.site.null = false ∧ s.site.squashed = false ∧ e.estat.getLsbD 7 = false
    (∀ n, w.a = .v n → Completes (exec (.eMov w) s)
        (s.Lands w fun i => ⟨SMap.get 0 e.v (32 * n.toNat + i), (SMap.get 0 e.vp n.toNat).getLsbD i, 0, 0⟩))
    ∧ (∀ n, w.a = .s n → Completes (exec (.eMov w) s) (s.Lands w fun _ => ⟨SMap.get 0 e.s n.toNat, SMap.get false e.sp n.toNat, 0, 0⟩))
    ∧ (∀ n, w.a = .k n → Completes (exec (.eMov w) s) (s.Lands w
        (num fun _ => SMap.get 0 (s.tile s.myTile).kbank (64 * (e.estat.toNat / 32 % 4) + n.toNat))))
    ∧ (∀ n, w.a = .lit n → Completes (exec (.eMov w) s) (s.Lands w (num fun _ => BitVec.ofInt 32 n.toInt)))
    ∧ Completes (exec (.eNop w) s) (s.Sends [noEffect])
    ∧ (∀ n : BitVec 6, w.a = .lit n → n.toNat < 4 → Completes (exec (.lane w) s) (s.Lands w (num fun i => BitVec.ofNat 32
        (match n.toNat with
          | 0 => i
          | 1 => x - 4 * (s.site.g % 16)
          | 2 => y - 4 * (s.site.g % 128 / 16)
          | _ => x % 4 + 4 * (y % 4)))))
    ∧ (s.myRegion.span = none → Completes (exec (.iter w) s) (s.Lands w (num fun _ => 0)))
    ∧ (s.myRegion.span ≠ none → Completes (exec (.iter w) s)
        (s.Lands w (num fun _ => BitVec.ofInt 32 ((s.myRegion.itern : Int) - 1 - s.site.tag))))
    ∧ Completes (exec (.rdst w) s) (s.Lands w (num fun _ => e.estat))
    ∧ (acts → Completes (exec (.clrst w) s) (s.Sends [(4, .clrst, 0, none)]))
    ∧ (acts → Completes (exec (.kbsel w) s) (s.Sends [(4, .kbsel (BitVec.ofNat 2 w.a.raw), 0, none)]))
    ∧ (¬ acts → Completes (exec (.clrst w) s) (s.Sends [noEffect]) ∧ Completes (exec (.kbsel w) s) (s.Sends [noEffect])
        ∧ Completes (exec (.exitf w) s) (s.Sends [noEffect]))
    ∧ (acts → s.srcMaskP w.a = 0 → Completes (exec (.exitf w) s)
        (s.Sends [if (s.src .int w.a 0).1 ≠ 0 then (4, .exitf s.site.iter, 0, none) else noEffect]))
    ∧ (∀ l < 32, acts → (s.srcMaskP w.a).getLsbD l = true → (∀ k < l, (s.srcMaskP w.a).getLsbD k = false) →
        Completes (exec (.exitf w) s) (s.Sends [(4, .nothing, 0, some (6, l))])) := by
  intro e x y num acts
  have mov {f : Nat → LaneRes} (h : ∀ i, LaneRes.pure (s.src .int w.a i).1 (s.src .int w.a i).2 = f i) : Completes (exec (.eMov w) s) (s.Lands w f) :=
    State.completes_write hs (funext fun i => h i)
  refine ⟨fun n ha => mov fun i => by rw [ha]; rfl, fun n ha => mov fun i => by rw [ha]; rfl, fun n ha => mov fun i => by rw [ha]; rfl,
    fun n ha => mov fun i => by rw [ha]; rfl, ⟨_, rfl, s.sends_flyNothing⟩, fun n ha hn => ?_, fun hspan => ?_, fun hspan => ?_,
    State.completes_write hs rfl, fun h => ?_, fun h => ?_, fun h => ⟨?_, ?_, ?_⟩, fun h hclean => ?_, fun l hl h hpsn hleast => ?_⟩
  · refine State.completes_write hs (funext fun i => ?_)
    rw [ha, ESrc.raw, s.laneNumber_eq]
    rfl
  · exact State.completes_write hs (funext fun _ => by rw [State.iterNumber_of_none hspan]; rfl)
  · exact State.completes_write hs (funext fun _ => by rw [State.iterNumber_of_ne_none hspan]; rfl)
  · exact ⟨_, s.estatWord_of_acts _ h, s.sends_flyIn ..⟩
  · exact ⟨_, s.estatWord_of_acts _ h, s.sends_flyIn ..⟩
  · exact ⟨_, s.estatWord_of_not_acts _ h, s.sends_flyNothing⟩
  · exact ⟨_, s.estatWord_of_not_acts _ h, s.sends_flyNothing⟩
  · exact ⟨_, execExitf_of_not_acts s w h, s.sends_flyNothing⟩
  · refine ⟨_, execExitf_of_clean s w h hclean, ?_⟩
    split
    · exact s.sends_flyIn ..
    · exact s.sends_flyNothing
  · exact ⟨_, execExitf_of_poison s w h hl hpsn hleast, s.sends_flyIn ..⟩

end Sys2Proof.Machine
end

section
/-! SUPPORT. The end of a load that fails alone in its launch and in one region (R149, R166, R229, R240). -/

namespace Sys2Proof.Machine

/-! ### Folds that put every item through a function -/

/-- A fold whose steps each put the item of their number through `F`, seen at one number. -/
theorem State.each_items {β : Type} (item : State → Nat → β) (F : β → β) {f : State → Nat → State}
    (hf : ∀ u x j, item (f u x) j = if j = x then F (item u j) else item u j) {xs : List Nat} (s : State)
    (hF : xs.Nodup ∨ ∀ b, F (F b) = F b) (j : Nat) :
    item (s.each xs f) j = if j ∈ xs then F (item s j) else item s j := by
  induction xs generalizing s with
  | nil => rfl
  | cons x xs ih =>
    rw [State.each_cons, ih _ (hF.imp_left fun h => h.of_cons), hf]
    by_cases hx : j = x
    · subst hx
      rw [if_pos rfl, if_pos List.mem_cons_self]
      split
      · rename_i hj
        exact hF.elim (fun h => absurd hj (List.nodup_cons.mp h).1) fun h => h _
      · rfl
    · simp only [List.mem_cons, hx, false_or, if_false]

/-! ### The only load of a launch fails (R240) -/

theorem State.loadsWith_eq_nil {s : State} {p : Load → Bool} (h : ∀ m, (s.load m).st ≠ .ended → p (s.load m) = false) :
    s.loadsWith p = [] :=
  List.eq_nil_iff_forall_not_mem.mpr fun m hm => by
    obtain ⟨hst, hp⟩ := State.mem_loadsWith.mp hm
    exact Bool.false_ne_true ((h m hst).symm.trans hp)

theorem State.loadsWith_eq_singleton {s : State} {p : Load → Bool} {l : Nat} (hst : (s.load l).st ≠ .ended) (hp : p (s.load l) = true)
    (h : ∀ m, m ≠ l → (s.load m).st ≠ .ended → p (s.load m) = false) :
    s.loadsWith p = [l] := by
  refine List.perm_singleton.mp ((List.perm_ext_iff_of_nodup (s.nodup_loadsWith p) (List.nodup_singleton l)).mpr fun m => ?_)
  rw [State.mem_loadsWith, List.mem_singleton]
  refine ⟨fun ⟨hm, hpm⟩ => by_contra fun hne => ?_, fun e => e ▸ ⟨hst, hp⟩⟩
  exact Bool.false_ne_true ((h m hne hm).symm.trans hpm)

/-- A load of launch `k` that has not ended is none but `l`. -/
def State.OnlyLoad (s : State) (k l : Nat) : Prop := ∀ m, m ≠ l → (s.load m).launch = k → (s.load m).st = .ended

/-- The test by which a failure picks loads of launch `k` picks none that has ended or is of another launch. -/
theorem State.OnlyLoad.untouched {s : State} {k l m : Nat} (h : s.OnlyLoad k l) (hm : m ≠ l) (hst : (s.load m).st ≠ .ended) :
    ((s.load m).launch == k) = false :=
  beq_eq_false_iff_ne.mpr fun hk => hst (h m hm hk)

/-- The failure of a launch whose only load is resident: that load is to stop. -/
theorem State.failLaunch_onlyLoad {s : State} {k l : Nat} (status : Nat) (h : s.OnlyLoad k l) (hk : (s.load l).launch = k)
    (hst : (s.load l).st = .resident) :
    s.failLaunch k status = (s.setLaunch k ((s.launch k).failed status s.gcyc)).stopLoad status l := by
  generalize hv : s.setLaunch k ((s.launch k).failed status s.gcyc) = v
  have hload (m : Nat) : v.load m = s.load m := by rw [← hv]; rfl
  have hpend : v.loadsWith (fun x => x.launch == k && x.st == .pending) = [] := State.loadsWith_eq_nil fun m hm => by
    rw [hload] at hm ⊢
    by_cases e : m = l
    · rw [e, hst]; exact Bool.and_false _
    · rw [h.untouched e hm]; rfl
  have hres : v.loadsWith (fun x => x.launch == k && x.st == .resident) = [l] := State.loadsWith_eq_singleton
    (by rw [hload, hst]; nofun) (by rw [hload, hk, hst, beq_self_eq_true]; rfl)
    fun m e hm => by rw [hload] at hm ⊢; rw [h.untouched e hm]; rfl
  rw [State.failLaunch_eq hv rfl, hpend]
  change v.each (v.loadsWith _) _ = _
  rw [hres]
  rfl

/-- The failure of a launch whose loads have all ended touches no load. -/
theorem State.failLaunch_over {s : State} {k : Nat} (status : Nat) (h : ∀ m, (s.load m).launch = k → (s.load m).st = .ended) :
    s.failLaunch k status = s.setLaunch k ((s.launch k).failed status s.gcyc) := by
  generalize hv : s.setLaunch k ((s.launch k).failed status s.gcyc) = v
  have hnone (st : LoadSt) : v.loadsWith (fun x => x.launch == k && x.st == st) = [] := State.loadsWith_eq_nil fun m hm => by
    have hload : v.load m = s.load m := by rw [← hv]; rfl
    rw [hload] at hm ⊢
    rw [beq_eq_false_iff_ne.mpr fun hk => hm (h m hk)]
    rfl
  rw [State.failLaunch_eq hv rfl, hnone]
  change v.each (v.loadsWith _) _ = _
  rw [hnone]
  rfl

/-! ### What a load gives up (R150, R194, R229, R358; log 79) -/

/-- What becomes of a region whose load gives it up: a gate that ends the load keeps it for a scan release that has not come. -/
def Region.givenUp (r : Region) : Region :=
  match r.mode with
  | .gated 3 _ => r.freed
  | .gated _ _ => if r.scanFreed then r.freed else { r with awaitScan := true }
  | _ => r.freed

theorem Region.givenUp_of_scan {r : Region} {was : RMode} (h : r.mode = .gated 3 was) : r.givenUp = r.freed := by
  rw [Region.givenUp, h]
  rfl

theorem Region.givenUp_of_gated {r : Region} {c : Nat} {was : RMode} (h : r.mode = .gated c was) (hc : c ≠ 3) :
    r.givenUp = if r.scanFreed then r.freed else { r with awaitScan := true } := by
  unfold Region.givenUp
  split
  · rename_i h3
    rw [h] at h3
    exact absurd (RMode.gated.inj h3).1 hc
  · rfl
  · rename_i hno
    exact absurd h (hno _ _)

theorem Region.givenUp_of_ungated {r : Region} (h : ∀ c was, r.mode ≠ .gated c was) : r.givenUp = r.freed := by
  unfold Region.givenUp
  split
  · rfl
  · rename_i hm
    exact absurd hm (h _ _)
  · rfl

theorem State.freeRegion_eq (s : State) (g : Nat) :
    s.freeRegion g = (s.each ((s.region g).elemIds g) State.clearCtx).setRegion g (s.region g).givenUp := by
  have h : (s.each ((s.region g).elemIds g) State.clearCtx).region g = s.region g :=
    State.each_same (fun u => u.region g) fun _ _ _ => rfl
  unfold State.freeRegion
  dsimp only
  rw [h]
  split
  · rename_i hm
    rw [Region.givenUp_of_scan hm]
  · rename_i hc hm
    rw [Region.givenUp_of_gated hm hc]
  · rename_i hm
    rw [Region.givenUp_of_ungated hm]

theorem State.mem_loadAgus {s : State} {l i : Nat} : i ∈ s.loadAgus l ↔ (s.agu i).of l = true := by
  rw [State.loadAgus, List.mem_filter, List.mem_eraseDups]
  refine ⟨fun h => h.2, fun h => ⟨SMap.mem_keys_of_get (d := Agu.reset) fun e => ?_, h⟩⟩
  rw [State.agu, e] at h
  exact Bool.false_ne_true h

theorem State.nodup_loadAgus (s : State) (l : Nat) : (s.loadAgus l).Nodup := (nodup_eraseDups _).filter _

/-- What a load of one region leaves when it is dropped. -/
structure State.DropsLoad (s : State) (l g : Nat) (t : State) : Prop where
  region : t.region g = (s.region g).givenUp
  regions : ∀ h, h ≠ g → t.region h = s.region h
  load : ∀ m, t.load m = if m = l then Load.reset else s.load m
  elem : ∀ e, t.elem e = if e ∈ (s.region g).elemIds g then { s.elem e with ctx := [] } else s.elem e
  agu : ∀ i, t.agu i = if (s.agu i).of l then (s.agu i).detached else s.agu i
  fstore : ∀ f, t.fstore f = if f ∈ (s.load l).fs then { s.fstore f with bound := none } else s.fstore f
  rest : t = { s with regions := t.regions, loads := t.loads, elems := t.elems, agus := t.agus, fstores := t.fstores }

theorem State.DropsLoad.launches {s t : State} {l g : Nat} (h : s.DropsLoad l g t) : t.launches = s.launches := by rw [h.rest]

/-! #### The three folds of a dropped load: elements without entries, AGUs detached, factor stores unbound -/

theorem State.elem_each_clearCtx (s : State) (es : List Nat) (e : Nat) :
    (s.each es State.clearCtx).elem e = if e ∈ es then { s.elem e with ctx := [] } else s.elem e :=
  State.each_items State.elem (fun x => { x with ctx := [] })
    (fun u x j => by rw [State.clearCtx, State.elem_setElem]; exact ite_congr rfl (fun h => by rw [h]) fun _ => rfl) s (.inr fun _ => rfl) e

theorem State.agu_each_detach (s : State) {is : List Nat} (hn : is.Nodup) (i : Nat) :
    (s.each is State.detach).agu i = if i ∈ is then (s.agu i).detached else s.agu i :=
  State.each_items State.agu Agu.detached
    (fun u x j => by rw [State.detach, State.agu_setAgu]; exact ite_congr rfl (fun h => by rw [h]) fun _ => rfl) s (.inl hn) i

theorem State.fstore_each_unbind (s : State) (fs : List Nat) (f : Nat) :
    (s.each fs State.unbind).fstore f = if f ∈ fs then { s.fstore f with bound := none } else s.fstore f :=
  State.each_items State.fstore (fun x => { x with bound := none })
    (fun u x j => by rw [State.unbind, State.fstore_setFstore]; exact ite_congr rfl (fun h => by rw [h]) fun _ => rfl) s (.inr fun _ => rfl) f

theorem State.each_clearCtx_rest (s : State) (es : List Nat) :
    s.each es State.clearCtx = { s with elems := (s.each es State.clearCtx).elems } :=
  State.each_keeps (P := fun u => u = { s with elems := u.elems }) rfl fun u x _ hu => by rw [State.clearCtx, hu]; rfl

theorem State.each_detach_rest (s : State) (is : List Nat) : s.each is State.detach = { s with agus := (s.each is State.detach).agus } :=
  State.each_keeps (P := fun u => u = { s with agus := u.agus }) rfl fun u x _ hu => by rw [State.detach, hu]; rfl

theorem State.each_unbind_rest (s : State) (fs : List Nat) : s.each fs State.unbind = { s with fstores := (s.each fs State.unbind).fstores } :=
  State.each_keeps (P := fun u => u = { s with fstores := u.fstores }) rfl fun u x _ hu => by rw [State.unbind, hu]; rfl

theorem State.dropLoad_dropsLoad {s : State} {l g : Nat} (hr : (s.load l).regions = [g]) : s.DropsLoad l g (s.dropLoad l) := by
  have hload := s.load_dropLoad l
  have hdrop : s.dropLoad l = (((s.freeRegion g).each (s.loadAgus l) State.detach).each (s.load l).fs State.unbind).setLoad l Load.reset := by
    rw [State.dropLoad, hr]; rfl
  have helem := s.elem_each_clearCtx ((s.region g).elemIds g)
  have he := s.each_clearCtx_rest ((s.region g).elemIds g)
  rw [State.freeRegion_eq] at hdrop
  generalize s.each ((s.region g).elemIds g) State.clearCtx = u at he helem hdrop
  have hagu := (u.setRegion g (s.region g).givenUp).agu_each_detach (s.nodup_loadAgus l)
  have ha := (u.setRegion g (s.region g).givenUp).each_detach_rest (s.loadAgus l)
  generalize State.each _ (s.loadAgus l) State.detach = v at ha hagu hdrop
  have hfstore := v.fstore_each_unbind (s.load l).fs
  have hf := v.each_unbind_rest (s.load l).fs
  generalize State.each _ (s.load l).fs State.unbind = w at hf hfstore hdrop
  rw [hdrop] at hload ⊢
  refine ⟨?_, fun h hh => ?_, hload, fun e => ?_, fun i => ?_, fun f => ?_, ?_⟩
  · rw [State.region_setLoad, hf, ha]
    exact State.region_setRegion_same ..
  · rw [State.region_setLoad, hf, ha]
    refine (State.region_setRegion_ne _ _ hh).trans ?_
    rw [he]
    rfl
  · rw [State.elem_setLoad, hf, ha]
    exact helem e
  · rw [State.agu_setLoad, hf]
    refine (hagu i).trans ?_
    rw [he]
    exact if_congr State.mem_loadAgus rfl rfl
  · refine (hfstore f).trans ?_
    rw [ha, he]
    rfl
  · rw [hf, ha, he]
    rfl

/-! ### The load ends, and its launch with it (R149, R166, R240) -/

/-- How a region stands whose load has failed: one that no gate holds is spent. -/
def Region.spent (r : Region) : Region :=
  if r.gateable then { r with mode := .spent, egress := [], freeze := none, work := [], saved := [] } else r

theorem Region.spent_failed {r : Region} (h : r.gateable = true ∨ r.failed = true) : r.spent.failed = true := by
  unfold Region.spent
  split
  · rfl
  · rename_i hg
    exact h.resolve_left hg

/-- Region `g` is now `q`, and nothing else changed. -/
def State.OnlyRegion (s : State) (g : Nat) (q : Region) (t : State) : Prop :=
  t.region g = q ∧ (∀ h, h ≠ g → t.region h = s.region h) ∧ t = { s with regions := t.regions }

theorem State.onlyRegion_setRegion (s : State) (g : Nat) (q : Region) : s.OnlyRegion g q (s.setRegion g q) :=
  ⟨State.region_setRegion_same .., fun _ h => State.region_setRegion_ne _ _ h, rfl⟩

theorem State.spend_onlyRegion {s : State} {l g : Nat} (hr : (s.load l).regions = [g]) : s.OnlyRegion g (s.region g).spent (s.spend l) := by
  have h : s.spend l = if (s.region g).gateable then s.setRegion g (s.region g).spent else s := by
    rw [State.spend, hr]
    refine ite_congr rfl (fun hg => ?_) fun _ => rfl
    rw [Region.spent, if_pos hg]
  rw [h]
  split
  · exact s.onlyRegion_setRegion g _
  · rename_i hg
    rw [Region.spent, if_neg hg]
    exact ⟨rfl, fun _ _ => rfl, rfl⟩

/-- A load of one region, with nothing of it left outside the region, ends at once. -/
theorem State.tryEnd_empty {s : State} {l g : Nat} (status : Nat) (hr : (s.load l).regions = [g]) (ho : (s.load l).out = [])
    (hrel : (s.region g).released = []) (he : s.exch = []) (hw : s.windows = []) :
    s.tryEnd l status = s.endLoad l status := by
  have hleft : s.samplesLeft l = false := by simp [State.samplesLeft, hr, ho, hrel, he, hw, samplesIn]
  have hmoves : s.egressMoves l = false := by simp [State.egressMoves, hr, hrel]
  rw [State.tryEnd, hleft, hmoves]
  rfl

/-- A launch with a failing status whose loads have all ended answers its record with that status. -/
theorem State.settleLaunch_failed {s : State} {k : Nat} (h : ∀ m, (s.load m).launch = k → (s.load m).st = .ended)
    (hlive : (s.launch k).live = true) (hfail : (s.launch k).fail ≠ 0) :
    s.settleLaunch k = ((s.setLaunch k Launch.reset).complete (s.launch k).queue (s.launch k).record.ctx.toNat (s.launch k).record
      (s.launch k).fail).settleContext (s.launch k).record.ctx.toNat := by
  have hnone : s.loadsWith (fun x => x.launch == k) = [] :=
    State.loadsWith_eq_nil fun m hm => beq_eq_false_iff_ne.mpr fun hk => hm (h m hk)
  rw [State.settleLaunch, hnone, hlive, if_neg hfail, if_pos]
  rw [decide_eq_true hfail]
  rfl

/-- A context that is not busy has nothing to settle. -/
theorem State.settleContext_idle {s : State} {c : Nat} (h : (s.ctx c).busy = false) : s.settleContext c = s := by
  rw [State.settleContext, h]
  rfl

/-- A completion word moves no context. -/
theorem State.ctx_complete (s : State) (q d : Nat) (r : Record) (status c : Nat) : (s.complete q d r status).ctx c = s.ctx c := by
  unfold State.complete
  split
  · rfl
  · exact State.ctx_congr (by rw [(s.dispPut_rest _ _ _ _).1]) c

/-- The failure of load `l` alone in its launch, noted and not yet ended: its region stands still, and it is to stop. -/
structure State.Failing (s : State) (l g status : Nat) (t : State) : Prop where
  region : t.region g = (s.region g).spent
  regions : ∀ h, h ≠ g → t.region h = s.region h
  load : t.load l = { s.load l with stop := status }
  loads : ∀ m, m ≠ l → t.load m = s.load m
  launch : t.launch (s.load l).launch = { s.launch (s.load l).launch with fail := status, failAt := s.gcyc }
  launches : ∀ k, k ≠ (s.load l).launch → t.launch k = s.launch k
  rest : t = { s with regions := t.regions, loads := t.loads, launches := t.launches }

theorem State.Lone.onlyLoad {s : State} {l g : Nat} (h : s.Lone l g) : s.OnlyLoad (s.load l).launch l := h.last

/-- The failure of such a load is noted in its launch, which has no other load to remove or to stop. -/
theorem State.Lone.failLaunch {s : State} {l g : Nat} (h : s.Lone l g) (status : Nat) :
    s.failLaunch (s.load l).launch status
      = (s.setLaunch (s.load l).launch { s.launch (s.load l).launch with fail := status, failAt := s.gcyc }).setLoad l
          { s.load l with stop := status } := by
  obtain ⟨-, hfail⟩ := h.live
  rw [State.failLaunch_onlyLoad status h.onlyLoad rfl h.st, Launch.failed, if_pos hfail, State.stopLoad, State.load_setLaunch, h.going]
  rfl

theorem Region.spent_released (r : Region) : r.spent.released = r.released := by
  unfold Region.spent
  split <;> rfl

theorem Region.spent_elemIds (r : Region) (g : Nat) : r.spent.elemIds g = r.elemIds g := by
  unfold Region.spent
  split <;> rfl

theorem Region.gateable_of_failed {r : Region} (h : r.failed = true) : r.gateable = false := by
  unfold Region.failed at h
  unfold Region.gateable
  split at h
  · rename_i hm; rw [hm]
  · rename_i hm; rw [hm]
  · exact absurd h Bool.false_ne_true

/-- The end of a failed load of one region, where no cause that would end the load is due there. -/
theorem State.endFailed_one {s : State} {l g : Nat} (hr : (s.load l).regions = [g])
    (hdue : (s.region g).gateable = false ∨ (s.region g).freeze = none)
    (hfailed : (s.region g).gateable = true ∨ (s.region g).failed = true) :
    s.endFailed l = (s.spend l).tryEnd l (s.load l).stop := by
  obtain ⟨hg, -, hrest⟩ := State.spend_onlyRegion hr
  have hload : (s.spend l).load l = s.load l := State.load_congr (by rw [hrest]) l
  have hno : ((s.region g).gateable && (s.region g).freeze.any fun f => f.ending.isSome) = false := by
    obtain hd | hd := hdue
    · rw [hd]; rfl
    · rw [hd]; exact Bool.and_false _
  have hall : ((s.spend l).region g).failed = true := by rw [hg]; exact Region.spent_failed hfailed
  rw [State.endFailed, hr, List.any_cons, List.any_nil, hno]
  dsimp only
  rw [hload, hr, List.all_cons, hall]
  rfl

/-- A load alone in its launch and in one region that no cause is still to stop fails: it ends at once. -/
theorem State.Lone.failLoad {s : State} {l g : Nat} (h : s.Lone l g) (status : Nat)
    (hstop : (s.region g).gateable = true ∧ (s.region g).freeze = none ∨ (s.region g).failed = true) :
    ∃ t, s.Failing l g status t ∧ s.failLoad l status = t.endLoad l status := by
  obtain ⟨hout, hrel, hexch, hwin⟩ := h.out
  have heq : s.failLoad l status = (s.failLaunch (s.load l).launch status).endFailed l := rfl
  rw [h.failLaunch status] at heq
  generalize hv : (s.setLaunch _ _).setLoad l { s.load l with stop := status } = v at heq
  have hload : v.load l = { s.load l with stop := status } := by rw [← hv, State.load_setLoad_same]
  have hreg (j : Nat) : v.region j = s.region j := by rw [← hv]; rfl
  have hregions : (v.load l).regions = [g] := by rw [hload]; exact h.at_
  obtain ⟨hg, hothers, hrest⟩ := State.spend_onlyRegion hregions
  rw [State.endFailed_one hregions (by rw [hreg]; exact hstop.symm.imp Region.gateable_of_failed (·.2))
    (by rw [hreg]; exact hstop.imp_left (·.1))] at heq
  have hstopped : (v.load l).stop = status := by rw [hload]
  generalize v.spend l = t at hg hothers hrest heq
  have htload (m : Nat) : t.load m = v.load m := State.load_congr (by rw [hrest]) m
  have htlaunch (k : Nat) : t.launch k = v.launch k := State.launch_congr (by rw [hrest]) k
  refine ⟨t, ⟨hg.trans (by rw [hreg]), fun j hj => (hothers j hj).trans (hreg j), (htload l).trans hload, fun m hm => (htload m).trans ?_,
    (htlaunch _).trans ?_, fun k hk => (htlaunch k).trans ?_, ?_⟩, heq.trans ?_⟩
  · rw [← hv]; exact State.load_setLoad_ne _ _ hm
  · rw [← hv]; exact State.launch_setLaunch_same ..
  · rw [← hv]; exact State.launch_setLaunch_ne _ _ hk
  · rw [hrest, ← hv]; rfl
  · rw [hstopped]
    refine State.tryEnd_empty status ((congrArg Load.regions (htload l)).trans hregions) ?_ ?_ ?_ ?_
    · rw [htload, hload]; exact hout
    · rw [hg, Region.spent_released, hreg]; exact hrel
    · rw [hrest, ← hv]; exact hexch
    · rw [hrest, ← hv]; exact hwin

theorem State.endLoad_failing (s : State) (l : Nat) {status : Nat} (h : status ≠ 1) :
    s.endLoad l status
      = (((s.dropLoad l).failLaunch (s.load l).launch status).settleLaunch (s.load l).launch).settleContext (s.loadCtx l) := by
  rw [State.endLoad]
  dsimp only
  rw [if_neg h]

/-- A launch that has failed with a status in this cycle fails once more with it. -/
theorem Launch.failed_again {x : Launch} {status : Nat} {now : W64} (hs : status ≠ 0) (hf : x.fail = status) (ha : x.failAt = now) :
    x.failed status now = x := by
  subst hf ha
  rw [Launch.failed, if_neg hs, if_pos rfl, min_self]

theorem State.setLaunch_setLaunch (s : State) (k : Nat) (x y : Launch) : (s.setLaunch k x).setLaunch k y = s.setLaunch k y := by
  simp only [State.setLaunch, SMap.set_set]

/-- Once such a load is dropped, every load of its launch has ended. -/
theorem State.Lone.over {s t : State} {l g status : Nat} (h : s.Lone l g) (hf : s.Failing l g status t) (m : Nat)
    (hm : ((t.dropLoad l).load m).launch = (s.load l).launch) : ((t.dropLoad l).load m).st = .ended := by
  rw [State.load_dropLoad] at hm ⊢
  by_cases hml : m = l
  · rw [if_pos hml]; rfl
  · rw [if_neg hml, hf.loads m hml] at hm ⊢
    exact h.last m hml hm

/-- What such a load gives up is gone with it, and its launch, which it leaves without a load, answers its record with the status. -/
theorem State.Lone.endLoad {s t : State} {l g status : Nat} (h : s.Lone l g) (hs : 1 < status) (hf : s.Failing l g status t) :
    t.endLoad l status = ((t.dropLoad l).setLaunch (s.load l).launch Launch.reset).complete (s.launch (s.load l).launch).queue
      (s.loadCtx l) (s.launch (s.load l).launch).record status := by
  have hne0 : status ≠ 0 := by omega
  have hctx : t.loadCtx l = s.loadCtx l := by rw [State.loadCtx, hf.load, hf.launch, State.loadCtx]
  have hk : (t.load l).launch = (s.load l).launch := by rw [hf.load]
  have hrest := (t.dropLoad_drops l).rest
  have hover := h.over hf
  have hlaunch : (t.dropLoad l).launch (s.load l).launch = { s.launch (s.load l).launch with fail := status, failAt := s.gcyc } :=
    (State.launch_congr (State.dropLoad_dropsLoad (g := g) (by rw [hf.load]; exact h.at_)).launches _).trans hf.launch
  rw [State.endLoad_failing t l (by omega : status ≠ 1), hctx, hk]
  generalize t.dropLoad l = d at hrest hover hlaunch
  have hcyc : d.gcyc = s.gcyc := by rw [hrest, hf.rest]
  have hnoted : d.failLaunch (s.load l).launch status = d.setLaunch (s.load l).launch (d.launch (s.load l).launch) := by
    rw [State.failLaunch_over status hover, Launch.failed_again hne0 (by rw [hlaunch]) (by rw [hlaunch, hcyc])]
  have hidle {v : State} (hv : v.ctx (s.loadCtx l) = s.ctx (s.loadCtx l)) : v.settleContext (s.loadCtx l) = v :=
    State.settleContext_idle (by rw [hv]; exact h.busy)
  have hdctx : (d.setLaunch (s.load l).launch Launch.reset).ctx (s.loadCtx l) = s.ctx (s.loadCtx l) :=
    State.ctx_congr (by rw [State.setLaunch_ctxs, hrest, hf.rest]) _
  rw [hnoted, State.settleLaunch_failed (s := d.setLaunch _ _) hover (by rw [State.launch_setLaunch_same, hlaunch]; exact h.live.1)
    (by rw [State.launch_setLaunch_same, hlaunch]; exact hne0), State.setLaunch_setLaunch, State.launch_setLaunch_same, hlaunch]
  change ((State.complete _ _ (s.loadCtx l) _ status).settleContext (s.loadCtx l)).settleContext (s.loadCtx l) = _
  rw [hidle ((State.ctx_complete ..).trans hdctx), hidle ((State.ctx_complete ..).trans hdctx)]

theorem State.Lone.endsLone {s t : State} {l g status : Nat} (h : s.Lone l g) (hs : 1 < status) (hf : s.Failing l g status t) :
    s.EndsLone l g status (s.region g).spent.givenUp (t.endLoad l status) := by
  have hd := State.dropLoad_dropsLoad (s := t) (l := l) (g := g) (by rw [hf.load]; exact h.at_)
  rw [h.endLoad hs hf]
  generalize t.dropLoad l = d at hd
  refine ⟨d.setLaunch (s.load l).launch Launch.reset, ?_, fun j hj => (hd.regions j hj).trans (hf.regions j hj), ?_, fun m hm => ?_,
    State.launch_setLaunch_same .., fun k hk => ?_, fun e => ?_, fun i => ?_, fun f => ?_, ?_, State.complete_completed ..⟩
  · exact hd.region.trans (by rw [hf.region])
  · exact (hd.load l).trans (if_pos rfl)
  · exact ((hd.load m).trans (if_neg hm)).trans (hf.loads m hm)
  · rw [State.launch_setLaunch_ne _ _ hk, State.launch_congr hd.launches]
    exact hf.launches k hk
  · rw [State.elem_setLaunch, hd.elem, hf.region, Region.spent_elemIds, hf.rest]
    rfl
  · rw [State.agu_setLaunch, hd.agu, hf.rest]
    rfl
  · rw [State.fstore_setLaunch, hd.fstore, hf.load, hf.rest]
    rfl
  · rw [hd.rest, hf.rest]
    rfl

/-- ABORT and a gate: such a load fails, ends at once, and answers its record with the failing status. -/
theorem State.Lone.fails {s : State} {l g status : Nat} (h : s.Lone l g) (hs : 1 < status)
    (hstop : (s.region g).gateable = true ∧ (s.region g).freeze = none ∨ (s.region g).failed = true) :
    s.EndsLone l g status (s.region g).spent.givenUp (s.failLoad l status) := by
  obtain ⟨t, hf, heq⟩ := h.failLoad status hstop
  rw [heq]
  exact h.endsLone hs hf

/-- What `Lone` says of a load rests on the loads, the launches, the contexts, the samples under way, and what the region released. -/
theorem State.Lone.congr {s t : State} {l g : Nat} (h : s.Lone l g) (hr : (t.region g).released = (s.region g).released)
    (hrest : t = { s with regions := t.regions, cores := t.cores, mem := t.mem, resid := t.resid, perf := t.perf }) : t.Lone l g := by
  have hload (m : Nat) : t.load m = s.load m := State.load_congr (by rw [hrest]) m
  have hlaunch (k : Nat) : t.launch k = s.launch k := State.launch_congr (by rw [hrest]) k
  have hctx (c : Nat) : t.ctx c = s.ctx c := State.ctx_congr (by rw [hrest]) c
  obtain ⟨hst, hat, hgoing, ⟨hout, hrel, hexch, hwin⟩, hlive, hlast, hbusy⟩ := h
  refine ⟨?_, ?_, ?_, ⟨?_, hr.trans hrel, ?_, ?_⟩, ?_, fun m hm => ?_, ?_⟩
  · rwa [hload]
  · rwa [hload]
  · rwa [hload]
  · rwa [hload]
  · rw [hrest]; exact hexch
  · rw [hrest]; exact hwin
  · rwa [hload, hlaunch]
  · rw [hload, hload]; exact hlast m hm
  · rwa [State.loadCtx, hload, hlaunch, hctx]

end Sys2Proof.Machine
end

section
/-! SUPPORT. How a region goes on, closes its window, discards it, stops, and is gated (R144, R146-R150, R177, R243). -/

namespace Sys2Proof.Machine

/-! ### Stores of the part itself (R147, R161) -/

theorem clearBad_nil (as : List Nat) : clearBad [] as = [] := by
  induction as with
  | nil => rfl
  | cons a as ih => exact ih

/-- A store of the part moves memory, metadata and counters. -/
def State.Stored (s t : State) : Prop := t = { s with mem := t.mem, resid := t.resid, perf := t.perf }

theorem State.store_cases (s : State) (pa : Nat) (bs : List Byte) :
    s.store pa bs = s ∨ ∃ as, s.store pa bs = (s.writeMem as bs).countMem as true := by
  unfold State.store
  cases h : s.physWrite pa bs with
  | none => exact .inl rfl
  | some t =>
    obtain ⟨as, -, rfl⟩ := Option.map_eq_some_iff.mp h
    exact .inr ⟨as, rfl⟩

theorem State.store_stored (s : State) (pa : Nat) (bs : List Byte) : s.Stored (s.store pa bs) := by
  obtain h | ⟨as, h⟩ := s.store_cases pa bs
  · rw [h]; rfl
  · rw [h, State.Stored, (s.writeMem as bs).countMem_only as true]
    rfl

theorem State.store_resid {s : State} (hs : s.resid = []) (pa : Nat) (bs : List Byte) : (s.store pa bs).resid = [] := by
  obtain h | ⟨as, h⟩ := s.store_cases pa bs
  · rw [h]; exact hs
  · rw [h, State.countMem_resid]
    exact (congrArg (clearBad · as) hs).trans (clearBad_nil as)

/-- A write counts in counters 0 and 2 of the memory-port dies only. -/
theorem State.countMem_write_perf (s : State) (as : List Nat) {n : Nat} (h0 : n % 16 ≠ 0) (h2 : n % 16 ≠ 2) :
    SMap.get 0 (s.countMem as true).perf n = SMap.get 0 s.perf n := by
  refine List.foldlRecOn (List.range 8) _ (motive := fun (u : State) => SMap.get 0 u.perf n = SMap.get 0 s.perf n) rfl fun u hu d _ => ?_
  have hd (v : State) (k : Nat) (hk : SMap.get 0 v.perf n = SMap.get 0 s.perf n) :
      SMap.get 0 (v.count (0x200 + 16 * d) k).perf n = SMap.get 0 s.perf n := (v.get_count_perf _ _ _ (by omega)).trans hk
  have hd2 (k : Nat) : SMap.get 0 (u.count (0x200 + 16 * d + 2) k).perf n = SMap.get 0 s.perf n := (u.get_count_perf _ _ _ (by omega)).trans hu
  rw [State.countDie]
  split <;> split
  · exact hu
  · exact hd2 _
  · exact hd _ _ hu
  · exact hd _ _ (hd2 _)

theorem State.store_perf (s : State) (pa : Nat) (bs : List Byte) {n : Nat} (h0 : n % 16 ≠ 0) (h2 : n % 16 ≠ 2) :
    SMap.get 0 (s.store pa bs).perf n = SMap.get 0 s.perf n := by
  obtain h | ⟨as, h⟩ := s.store_cases pa bs
  · rw [h]
  · rw [h, State.countMem_write_perf _ _ h0 h2]
    rfl

theorem State.Stored.region {s t : State} (h : s.Stored t) (g : Nat) : t.region g = s.region g := by rw [h]; rfl
theorem State.Stored.cores {s t : State} (h : s.Stored t) : t.cores = s.cores := by rw [h]

/-! ### A region's supervising core is alerted (R111, R136, R146, R149) -/

/-- A cause of a region reached its supervising core: it is pending, keeps an earlier TVAL, and wakes the core from idling. -/
def State.Alerts (s : State) (n cause : Nat) (tval : W64) (t : State) : Prop :=
  (SMap.get none (s.core n).pend cause = none → SMap.get none (t.core n).pend cause = some tval)
  ∧ (∀ x, SMap.get none (s.core n).pend cause = some x → SMap.get none (t.core n).pend cause = some x)
  ∧ (t.core n).wake = ((s.core n).wake || (s.core n).run == .idle)
  ∧ t.core n = { s.core n with pend := (t.core n).pend, wake := (t.core n).wake }
  ∧ (∀ j, j ≠ n → t.core j = s.core j)

theorem State.pend_alerts (s : State) (n : Nat) {cause : Nat} (tval : W64) (h : cause = 0x100 ∨ cause = 0x102) :
    s.Alerts n cause tval (s.pend n cause tval) := by
  have hw : (cause == 0x100 || cause == 0x102) = true := by simpa using h
  refine ⟨fun hp => by rw [State.pend_get, hp]; rfl, fun x hp => by rw [State.pend_get, hp]; rfl, ?_, ?_,
    fun j hj => State.pend_core_ne s cause tval hj⟩
  · rw [State.pend, State.core_setCore_same]
    dsimp only
    rw [hw, Bool.and_true]
  · rw [State.pend, State.core_setCore_same]

/-- Region `g` became `q` and its supervising core was alerted; beside that the part stored and counted. -/
def State.AlertsFor (s : State) (g cause : Nat) (q : Region) (t : State) : Prop :=
  t.region g = q ∧ (∀ k, k ≠ g → t.region k = s.region k)
  ∧ s.Alerts (s.region g).sup cause (BitVec.ofNat 64 (s.region g).replay) t
  ∧ t = { s with regions := t.regions, cores := t.cores, mem := t.mem, resid := t.resid, perf := t.perf }

/-- The alert after region `g` became `q`. -/
theorem State.alertsFor_pend {s u : State} {g cause : Nat} {q : Region} (hcause : cause = 0x100 ∨ cause = 0x102) (hq : u.region g = q)
    (hothers : ∀ k, k ≠ g → u.region k = s.region k)
    (hrest : u = { s with regions := u.regions, mem := u.mem, resid := u.resid, perf := u.perf }) :
    s.AlertsFor g cause q (u.pend (s.region g).sup cause (BitVec.ofNat 64 (s.region g).replay)) := by
  have hcore (n : Nat) : u.core n = s.core n := State.core_congr (by rw [hrest]) n
  have h := u.pend_alerts (s.region g).sup (BitVec.ofNat 64 (s.region g).replay) hcause
  unfold State.Alerts at h
  simp only [hcore] at h
  refine ⟨hq, hothers, h, ?_⟩
  rw [State.pend, hrest]
  rfl

/-! ### Iterations, settlings and implicit closes (R144, R177, R243) -/

theorem execIterationAdmission_admits {s : State} {g : Nat} {sp : Span} (hspan : (s.region g).span = some sp) (hgo : sp.stopped = false)
    (hv : sp.v = (s.region g).itern) :
    Completes (exec (.iterationAdmission g) s) (s.OnlyRegion g { s.region g with
      itern := (s.region g).itern + 1,
      span := some { sp with
        stopped := decide ((s.region g).itern + 1 = sp.count ∨ (sp.count = 0 ∧ (s.region g).itern + 1 = 524287)) } }) := by
  have hstop : decide ((s.region g).itern + 1 = sp.count ∨ (sp.count = 0 ∧ (s.region g).itern + 1 = 524287))
      = ((s.region g).itern + 1 == sp.count || (sp.count == 0 && (s.region g).itern + 1 == 524287)) := by
    rw [Bool.decide_or, Bool.decide_and]
    rfl
  refine ⟨_, ?_, s.onlyRegion_setRegion g _⟩
  change execIterationAdmission g s = _
  rw [execIterationAdmission, hspan, hstop]
  dsimp only
  rw [hgo, hv, beq_self_eq_true]
  rfl

theorem execIterationAdmission_stays {s : State} {g : Nat} {sp : Span} (hspan : (s.region g).span = some sp)
    (h : sp.stopped = true ∨ sp.v ≠ (s.region g).itern) : exec (.iterationAdmission g) s = .next s := by
  have hno : (!sp.stopped && sp.v == (s.region g).itern) = false := by
    obtain h | h := h
    · rw [h]; rfl
    · rw [beq_eq_false_iff_ne.mpr h]; exact Bool.and_false _
  change execIterationAdmission g s = _
  rw [execIterationAdmission, hspan]
  dsimp only
  rw [hno]
  rfl

theorem execFormSettlingEnd_ends {s : State} {g : Nat} (hset : (s.region g).settle = true) (h : 64 ≤ (s.region g).relapsed) :
    Completes (exec (.formSettlingEnd g) s) (s.OnlyRegion g { s.region g with settle := false }) := by
  refine ⟨_, ?_, s.onlyRegion_setRegion g _⟩
  change execFormSettlingEnd g s = _
  rw [execFormSettlingEnd, hset, decide_eq_true h]
  rfl

theorem execFormSettlingEnd_stays {s : State} {g : Nat} (h : (s.region g).relapsed < 64) : exec (.formSettlingEnd g) s = .next s := by
  change execFormSettlingEnd g s = _
  rw [execFormSettlingEnd, decide_eq_false (by omega), Bool.and_false]
  rfl

theorem execImplicitClose_closes {s : State} {g : Nat} (h : s.wantsClose g = true) :
    Completes (exec (.implicitClose g) s) (s.OnlyRegion g { s.region g with
      closed := true, mode := .drain .implicit, saved := (s.region g).work, work := [.drainCheck, .snapshots, .endCycle] }) := by
  refine ⟨_, ?_, s.onlyRegion_setRegion g _⟩
  change execImplicitClose g s = _
  rw [execImplicitClose, if_pos h, State.beginDrain, State.region_setRegion_same, State.setRegion_setRegion]

theorem execImplicitClose_stays {s : State} {g : Nat} (h : s.wantsClose g = false) : exec (.implicitClose g) s = .next s :=
  if_neg (by rw [h]; exact Bool.false_ne_true)

/-! ### Scratchpad egress is released (R144, R295) -/

/-- The last of the cells written holds the last byte. -/
theorem writeCells_concat (m : SMap Byte) {as : List Nat} {bs : List Byte} (hl : as.length = bs.length) (a : Nat) (b : Byte) :
    writeCells m (as ++ [a]) (bs ++ [b]) = writeCell (writeCells m as bs) a b := by
  induction as generalizing m bs with
  | nil =>
    rw [List.eq_nil_of_length_eq_zero hl.symm]
    rfl
  | cons x as ih =>
    cases bs with
    | nil => exact absurd hl nofun
    | cons y bs => exact ih _ (Nat.succ.inj hl)

/-- An egress of the element scratchpad. -/
def Egress.isScratch (e : Egress) : Prop := ∃ bs, e.kind = .scratch bs

theorem State.releaseOne_scratch (s : State) (g : Nat) {e : Egress} {bs : List (Nat × Byte × Bool)} (h : e.kind = .scratch bs) :
    s.releaseOne g e = (s.writeMem (bs.map (·.1)) (bs.map fun b => b.2.1)).count
      (0x200 + 16 * portDieOf ((bs.map (·.1)).headD portBase)) 1 := by
  rw [State.releaseOne, h]

theorem State.releaseOne_stored (s : State) (g : Nat) {e : Egress} (h : e.isScratch) : s.Stored (s.releaseOne g e) := by
  obtain ⟨bs, h⟩ := h
  rw [State.releaseOne_scratch s g h]
  rfl

theorem State.Stored.trans {s t u : State} (h : s.Stored t) (k : t.Stored u) : s.Stored u := by
  unfold State.Stored at *
  rw [k, h]

theorem State.each_releaseOne_stored (s : State) (g : Nat) {es : List Egress} (h : ∀ e ∈ es, e.isScratch) :
    s.Stored (s.each es fun t e => t.releaseOne g e) :=
  State.each_keeps (P := s.Stored) rfl fun u e he hu => hu.trans (u.releaseOne_stored g (h e he))

/-- A cell that no egress names keeps its byte. -/
theorem State.readCell_each_releaseOne (s : State) (g : Nat) {es : List Egress} {a : Nat} (hs : ∀ e ∈ es, e.isScratch)
    (ha : ∀ e ∈ es, ∀ bs, e.kind = .scratch bs → ∀ b ∈ bs, b.1 ≠ a) :
    (s.each es fun t e => t.releaseOne g e).readCell a = s.readCell a := by
  refine State.each_same (fun t => t.readCell a) fun u e he => ?_
  obtain ⟨bs, h⟩ := hs e he
  rw [State.releaseOne_scratch u g h]
  refine State.readCell_writeMem_out u _ _ fun hmem => ?_
  obtain ⟨b, hb, hba⟩ := List.mem_map.mp hmem
  exact ha e he bs h b hb hba

/-- The last byte of the last egress stands in its cell. -/
theorem State.readCell_each_releaseOne_last (s : State) (g : Nat) {pre : List Egress} {e : Egress} {bs : List (Nat × Byte × Bool)} {a : Nat}
    {b : Byte} {p : Bool} (h : e.kind = .scratch bs) (hlast : bs.getLast? = some (a, b, p)) :
    (s.each (pre ++ [e]) fun t e => t.releaseOne g e).readCell a = b := by
  obtain ⟨init, rfl⟩ := List.getLast?_eq_some_iff.mp hlast
  rw [State.each_append]
  generalize s.each pre _ = u
  change (u.releaseOne g e).readCell a = b
  rw [State.releaseOne_scratch u g h, readCell_def]
  simp only [List.map_append, List.map_cons, List.map_nil]
  change SMap.get (memDefault a) (writeCells u.mem _ _) a = b
  rw [writeCells_concat _ (by simp), get_writeCell, if_pos rfl]

/-- What a window closes with where its region is in no span: every egress, settled. -/
def Region.settled (r : Region) : List Egress := r.egress.map fun e => { e with settled := true }

theorem Region.settled_isScratch {r : Region} (h : ∀ e ∈ r.egress, e.isScratch) : ∀ e ∈ r.settled, e.isScratch := fun e he => by
  obtain ⟨x, hx, rfl⟩ := List.mem_map.mp he
  exact h x hx

/-- The release of a window whose egress is all of the scratchpad and settled: the buffer is empty. -/
theorem State.releaseWindow_eq {s : State} {g : Nat} (hspan : (s.region g).span = none) (hrel : (s.region g).released = [])
    (hs : ∀ e ∈ (s.region g).egress, e.isScratch) :
    s.releaseWindow g = (((s.setRegion g { s.region g with egress := [] }).each (s.region g).settled fun t e => t.releaseOne g e).setRegion g
      { s.region g with egress := [] }) := by
  have hes : s.settleEgress g = (s.region g).settled := by rw [State.settleEgress, hspan]; rfl
  have hnone : (s.region g).settled.filter (fun e => !e.settled) = [] := List.filter_eq_nil_iff.mpr fun e he => by
    obtain ⟨x, -, rfl⟩ := List.mem_map.mp he
    exact Bool.false_ne_true
  have hall : (s.region g).settled.filter (·.settled) = (s.region g).settled := List.filter_eq_self.mpr fun e he => by
    obtain ⟨x, -, rfl⟩ := List.mem_map.mp he
    rfl
  rw [State.releaseWindow]
  dsimp only
  rw [hes, hnone, hall]
  have hreg := ((s.setRegion g { s.region g with egress := [] }).each_releaseOne_stored g (Region.settled_isScratch hs)).region g
  generalize State.each _ _ _ = u at hreg ⊢
  rw [State.region_setRegion_same] at hreg
  have hempty : (u.region g).released = [] := by rw [hreg]; exact hrel
  rw [State.pushSamples, hempty]
  dsimp only [State.drainSamples]
  rw [hreg, ← hrel]

/-! ### What follows a close (R144, R147, R148, R172, R244) -/

/-- What a region does once its window has closed. -/
def DrainWhy.next : DrainWhy → RMode
  | .commit => .run
  | .implicit => .run
  | .endRow => .boundary
  | .reconf x => .switching x

/-- Where a region stands once its window has closed: it goes on with the work set aside, or ends the cycle. -/
def Region.reopened (r : Region) (why : DrainWhy) : Region :=
  match why with
  | .commit => { r with mode := .run, work := r.saved, saved := [] }
  | .implicit => { r with mode := .run, work := r.saved, saved := [] }
  | .endRow => { r with mode := .boundary, rc := r.rc + 1, work := [], saved := [] }
  | .reconf x => { r with mode := .switching x, rc := r.rc + 1, work := [], saved := [] }

/-- The window that opens at a region's row position. -/
def State.newWindow (s : State) (g : Nat) : Window :=
  { Window.reset with
    row := (s.region g).rowix, elapsed := (s.region g).relapsed, elems := s.elemsOf g, tiles := s.tilesOf g, gregs := (s.region g).gr,
    ports := (s.region g).ports }

/-- The fields of a region that goes on. -/
structure Region.Reopens (r : Region) (why : DrainWhy) (q : Region) : Prop where
  mode : q.mode = why.next
  work : why = .commit ∨ why = .implicit → q.work = r.saved
  egress : q.egress = r.egress
  win : q.win = r.win
  rowix : q.rowix = r.rowix
  relapsed : q.relapsed = r.relapsed

theorem Region.reopened_reopens (r : Region) (why : DrainWhy) : r.Reopens why (r.reopened why) := by
  cases why with
  | commit => exact ⟨rfl, fun _ => rfl, rfl, rfl, rfl, rfl⟩
  | implicit => exact ⟨rfl, fun _ => rfl, rfl, rfl, rfl, rfl⟩
  | endRow => exact ⟨rfl, fun h => absurd h (by simp), rfl, rfl, rfl, rfl⟩
  | reconf x => exact ⟨rfl, fun h => absurd h (by simp), rfl, rfl, rfl, rfl⟩

theorem State.region_congr {s t : State} (h : t.regions = s.regions) (g : Nat) : t.region g = s.region g :=
  congrArg (SMap.get Region.reset · g) h

theorem State.afterClose_regions (s : State) (g : Nat) (why : DrainWhy) :
    (s.afterClose g why).regions = (s.setRegion g ({ s.region g with win := s.newWindow g }.reopened why)).regions := by
  have hr : (s.openWindow g).region g = { s.region g with win := s.newWindow g } := State.region_setRegion_same ..
  have h : (s.afterClose g why).regions = ((s.openWindow g).setRegion g (((s.openWindow g).region g).reopened why)).regions := by
    cases why <;> rfl
  rw [h, hr, State.openWindow, State.setRegion_setRegion]

theorem State.afterClose_region (s : State) (g : Nat) (why : DrainWhy) :
    (s.afterClose g why).region g = { s.region g with win := s.newWindow g }.reopened why :=
  (State.region_congr (s.afterClose_regions g why) g).trans (State.region_setRegion_same ..)

theorem State.afterClose_others (s : State) {g k : Nat} (why : DrainWhy) (hk : k ≠ g) : (s.afterClose g why).region k = s.region k :=
  (State.region_congr (s.afterClose_regions g why) k).trans (State.region_setRegion_ne _ _ hk)

theorem State.afterClose_rest (s : State) (g : Nat) (why : DrainWhy) :
    s.afterClose g why = { s with regions := (s.afterClose g why).regions, perf := (s.afterClose g why).perf } := by
  cases why <;> rfl

/-! ### A window closes (R144, R146) -/

section
variable {s : State} {g : Nat} {why : DrainWhy}

theorem execCommitWindowClose_waits (hmode : (s.region g).mode = .drain why) (h : s.drained g = false) :
    exec (.commitWindowClose g) s = .next s := by
  change execCommitWindowClose g s = _
  rw [execCommitWindowClose, hmode]
  dsimp only
  rw [h]
  rfl

theorem execCommitWindowClose_clean (hmode : (s.region g).mode = .drain why) (h : s.drained g = true) (hclean : (s.region g).win.fault = none) :
    exec (.commitWindowClose g) s = .next ((s.releaseWindow g).afterClose g why) := by
  change execCommitWindowClose g s = _
  rw [execCommitWindowClose, hmode]
  dsimp only
  rw [h, hclean]
  rfl

theorem execCommitWindowClose_poisoned (hmode : (s.region g).mode = .drain why) (h : s.drained g = true)
    (hpoisoned : (s.region g).win.fault.isSome = true) (hfreeze : (s.region g).freeze = none) :
    exec (.commitWindowClose g) s = .next (s.discardWindow g why) := by
  change execCommitWindowClose g s = _
  rw [execCommitWindowClose, hmode]
  dsimp only
  rw [h, hpoisoned, hfreeze]
  rfl

/-- A window of scratchpad egress only is released, and the next one opens. -/
theorem commitWindowClose_releases (hmode : (s.region g).mode = .drain why) (hdrained : s.drained g = true)
    (hclean : (s.region g).win.fault = none) (hspan : (s.region g).span = none) (hrel : (s.region g).released = [])
    (hs : ∀ e ∈ (s.region g).egress, e.isScratch) :
    Completes (exec (.commitWindowClose g) s) fun t =>
      (∀ a, (∀ e ∈ (s.region g).egress, ∀ bs, e.kind = .scratch bs → ∀ b ∈ bs, b.1 ≠ a) → t.readCell a = s.readCell a)
      ∧ (∀ pre bs a b p, ∀ e, (s.region g).egress = pre ++ [e] → e.kind = .scratch bs → bs.getLast? = some (a, b, p) → t.readCell a = b)
      ∧ { s.region g with egress := [], win := s.newWindow g }.Reopens why (t.region g)
      ∧ (∀ h, h ≠ g → t.region h = s.region h)
      ∧ t = { s with regions := t.regions, mem := t.mem, resid := t.resid, perf := t.perf } := by
  refine ⟨_, execCommitWindowClose_clean hmode hdrained hclean, ?_⟩
  rw [State.releaseWindow_eq hspan hrel hs]
  have hscratch := Region.settled_isScratch hs
  have hstored := (s.setRegion g { s.region g with egress := [] }).each_releaseOne_stored g hscratch
  have hout (a : Nat) := (s.setRegion g { s.region g with egress := [] }).readCell_each_releaseOne g (a := a) hscratch
  generalize hu : State.each _ (s.region g).settled _ = u at hstored hout
  have hcell (a : Nat) : ((u.setRegion g { s.region g with egress := [] }).afterClose g why).readCell a = u.readCell a := by
    rw [readCell_def, State.afterClose_rest]
    rfl
  refine ⟨fun a ha => ?_, fun pre bs a b p e hpre he hb => ?_, ?_, fun h hh => ?_, ?_⟩
  · rw [hcell]
    refine hout a fun e he => ?_
    obtain ⟨x, hx, rfl⟩ := List.mem_map.mp he
    exact ha x hx
  · rw [hcell, ← hu, Region.settled, hpre, List.map_append]
    exact State.readCell_each_releaseOne_last (e := { e with settled := true }) _ g he hb
  · have hw : (u.setRegion g { s.region g with egress := [] }).newWindow g = s.newWindow g := by
      rw [State.newWindow, State.elemsOf, State.tilesOf, State.region_setRegion_same, hstored]
      rfl
    rw [State.afterClose_region, State.region_setRegion_same, hw]
    exact Region.reopened_reopens ..
  · rw [State.afterClose_others _ _ hh, State.region_setRegion_ne _ _ hh, hstored.region]
    exact State.region_setRegion_ne _ _ hh
  · rw [State.afterClose_rest, State.setRegion, hstored]
    rfl

theorem State.get_elemsOf {e : Nat} (h : (s.region g).covers g (tileOfElem e) = true) : SMap.get Elem.reset (s.elemsOf g) e = s.elem e :=
  (SMap.get_filter Elem.reset s.elems (fun k => (s.region g).covers g (tileOfElem k)) e).trans (if_pos h)

theorem State.get_tilesOf {k : Nat} (h : (s.region g).covers g k = true) : SMap.get Tile.reset (s.tilesOf g) k = s.tile k :=
  (SMap.get_filter Tile.reset s.tiles (fun k => (s.region g).covers g k) k).trans (if_pos h)

/-- A poisoned window is discarded: the region stops, and its supervising core is alerted. -/
theorem State.discardWindow_alerts (s : State) (g : Nat) (why : DrainWhy) :
    s.AlertsFor g 0x100 { s.region g with mode := .stopped why, egress := [], work := [] } (s.discardWindow g why)
    ∧ SMap.get 0 (s.discardWindow g why).perf (0x100 + 16 * (g / 128) + 5) = SMap.get 0 s.perf (0x100 + 16 * (g / 128) + 5) + 1 := by
  have hst := s.store_stored (s.region g).replay (s.replayArea g)
  have hperf := s.store_perf (s.region g).replay (s.replayArea g) (n := 0x100 + 16 * (g / 128) + 5) (by omega) (by omega)
  unfold State.discardWindow
  dsimp only
  generalize s.store _ _ = u at hst hperf
  refine ⟨State.alertsFor_pend (.inl rfl) ?_ (fun k hk => ?_) ?_, ?_⟩
  · rw [State.region_count]
    exact State.region_setRegion_same ..
  · rw [State.region_count]
    exact (State.region_setRegion_ne _ _ hk).trans (hst.region k)
  · rw [State.count, State.setRegion, hst]
  · rw [← hperf]
    exact State.get_count_same ..

end

/-! ### The control word of a stopped region (R146-R148) -/

section
variable {s : State} {g : Nat} {why : DrainWhy} {v : W32}

theorem execReplayCtrlWrite_stopped (hmode : (s.region g).mode = .stopped why) :
    exec (.replayCtrlWrite g v) s = .next ((s.store (s.region g).replay (leBytes 8 v.toNat)).replayCtrl g v.toNat) := by
  change execReplayCtrlWrite g v s = _
  rw [execReplayCtrlWrite, hmode]
  rfl

theorem execReplayCtrlWrite_elsewhere (h : ∀ why, (s.region g).mode ≠ .stopped why) : exec (.replayCtrlWrite g v) s = .next s := by
  change execReplayCtrlWrite g v s = _
  unfold execReplayCtrlWrite
  split
  · rename_i hm
    exact absurd hm (h _)
  · rfl

/-- A control word other than 1 and 2 does nothing. -/
theorem State.replayCtrl_ignored {n : Nat} (h1 : n ≠ 1) (h2 : n ≠ 2) : s.replayCtrl g n = s := by
  unfold State.replayCtrl
  split
  · rw [if_neg h1, if_neg h2]
  · rfl

theorem State.replayCtrl_abort (hmode : (s.region g).mode = .stopped why) : s.replayCtrl g 2 = s.failLoad (s.region g).load 4 := by
  rw [State.replayCtrl, hmode]
  rfl

/-- What a re-run loads is the exit state of region `g`: its registers and ports, elements and tiles. -/
structure State.Reloads (s : State) (g : Nat) (t : State) : Prop where
  region : ∃ gr ports, t.region g = { s.region g with gr := gr, ports := ports }
  loads : t.loads = s.loads
  quiet : s.resid = [] → t.cores = s.cores

theorem State.Reloads.each_setElem {t : State} (h : s.Reloads g t) (xs : List (Nat × Nat)) (x : State → Nat × Nat → Elem) :
    s.Reloads g (t.each xs fun t p => t.setElem p.1 (x t p)) :=
  State.each_keeps (P := s.Reloads g) h fun _ _ _ hu => ⟨hu.region, hu.loads, hu.quiet⟩

theorem State.Reloads.each_setTile {t : State} (h : s.Reloads g t) (xs : List (Nat × Nat)) (x : State → Nat × Nat → Tile) :
    s.Reloads g (t.each xs fun t p => t.setTile p.1 (x t p)) :=
  State.each_keeps (P := s.Reloads g) h fun _ _ _ hu => ⟨hu.region, hu.loads, hu.quiet⟩

theorem State.checkMove_reported (s : State) (pas : List Nat) : OnlyReported s (s.checkMove pas) :=
  (State.softErrors_die (DieCounted.refl s).reported (fun t pa => svOf (t.stackAt pa / 2)) _).1

theorem State.checkMove_of_resid (h : s.resid = []) (pas : List Nat) : s.checkMove pas = s := by
  rw [State.checkMove, State.badWords_of_resid h]
  rfl

theorem State.replayNote_reported (s : State) (g : Nat) : OnlyReported s (s.replayNote g) :=
  State.each_keeps (P := OnlyReported s) rfl fun u _ _ hu =>
    (hu.trans (u.checkMove_reported _)).trans (State.countMem_only _ _ false).reported

theorem State.replayNote_of_resid (h : s.resid = []) : OnlyCounted s (s.replayNote g) :=
  State.each_keeps (P := OnlyCounted s) rfl fun u _ _ hu => by
    rw [State.checkMove_of_resid (hu.resid.trans h)]
    exact hu.trans (State.countMem_only _ _ false)

theorem State.loadReplay_reloads (s : State) (g : Nat) : s.Reloads g (s.loadReplay g) := by
  have hnote := s.replayNote_reported g
  have hquiet := State.replayNote_of_resid (s := s) (g := g)
  unfold State.loadReplay
  dsimp only
  generalize s.replayNote g = u at hnote hquiet
  generalize GRegs.ofBytes _ = gr
  generalize portsOfBytes _ = ports
  have hbase : s.Reloads g (u.setRegion g { s.region g with gr := gr, ports := ports }) :=
    ⟨⟨gr, ports, State.region_setRegion_same ..⟩, by rw [State.setRegion_loads, hnote], fun hr => by rw [State.setRegion_cores, hquiet hr]⟩
  exact (hbase.each_setElem _ _).each_setTile _ _

/-- The word 1: the region goes on from the close, with the exit state of its re-run. -/
theorem State.replayCtrl_resumes (hmode : (s.region g).mode = .stopped why) :
    ∃ gr ports beat, ({ s.region g with gr := gr, ports := ports, win := (s.loadReplay g).newWindow g } : Region).Reopens why
        { (s.replayCtrl g 1).region g with beat := beat }
      ∧ (s.replayCtrl g 1).loads = s.loads ∧ (s.resid = [] → (s.replayCtrl g 1).cores = s.cores) := by
  obtain ⟨⟨gr, ports, hregion⟩, hloads, hquiet⟩ := s.loadReplay_reloads g
  have heq : s.replayCtrl g 1 = ((s.loadReplay g).afterClose g why).setRegion g
      { ((s.loadReplay g).afterClose g why).region g with beat := s.dieBeat (g / 128) } := by
    rw [State.replayCtrl, hmode]
    rfl
  have hrest := (s.loadReplay g).afterClose_rest g why
  have hopen := (s.loadReplay g).afterClose_region g why
  rw [hregion] at hopen
  rw [heq]
  generalize (s.loadReplay g).newWindow g = win at hopen ⊢
  generalize s.loadReplay g = u at *
  refine ⟨gr, ports, ((u.afterClose g why).region g).beat, ?_, ?_, fun hr => ?_⟩
  · rw [State.region_setRegion_same, hopen]
    exact Region.reopened_reopens ..
  · rw [State.setRegion_loads, hrest]
    exact hloads
  · rw [State.setRegion_cores, hrest]
    exact hquiet hr

end

/-! ### Gates and scan (R149, R150; logs 78, 79) -/

section
variable {s : State} {g : Nat} {f : Freeze}

/-- The clock of region `g` stops, before the load ends whose end the cause is. -/
def State.stopClock (s : State) (g : Nat) (f : Freeze) : State :=
  ((s.setRegion g { s.region g with
      mode := .gated (f.ending.getD 3) (s.region g).mode, freeze := none,
      egress := if f.ending.isNone then (s.region g).egress else [] }).store (s.region g).replay ((s.region g).replayHeader f.cause f.stop)).pend
    (s.region g).sup 0x102 (BitVec.ofNat 64 (s.region g).replay)

theorem execClockGate_due (hf : (s.region g).freeze = some f) (hleft : f.left = 0) (hg : (s.region g).gateable = true) :
    exec (.clockGate g) s = .next (s.gate g f) := by
  change execClockGate g s = _
  rw [execClockGate, hf]
  exact if_pos ⟨hleft, hg⟩

theorem execClockGate_stays (hf : (s.region g).freeze = some f) (hleft : f.left ≠ 0) : exec (.clockGate g) s = .next s := by
  change execClockGate g s = _
  rw [execClockGate, hf]
  exact if_neg fun h => hleft h.1

theorem State.gate_scan (h : f.ending = none) : s.gate g f = s.stopClock g f := by
  rw [State.gate, State.stopClock, h]
  rfl

theorem State.gate_ending {c : Nat} (h : f.ending = some c) :
    s.gate g f = (s.stopClock g f).failLoad (s.region g).load (gateStatus c) := by
  rw [State.gate, State.stopClock, h]
  rfl

theorem State.stopClock_alerts (s : State) (g : Nat) (f : Freeze) :
    s.AlertsFor g 0x102 { s.region g with
      mode := .gated (f.ending.getD 3) (s.region g).mode, freeze := none,
      egress := if f.ending.isNone then (s.region g).egress else [] } (s.stopClock g f) := by
  unfold State.stopClock
  generalize ({ s.region g with mode := _, freeze := _, egress := _ } : Region) = q
  have hst := (s.setRegion g q).store_stored (s.region g).replay ((s.region g).replayHeader f.cause f.stop)
  refine State.alertsFor_pend (.inr rfl) ?_ (fun k hk => ?_) ?_
  · rw [hst.region]
    exact State.region_setRegion_same ..
  · rw [hst.region]
    exact State.region_setRegion_ne _ _ hk
  · rw [hst]
    rfl

/-- Who may ask for a scan freeze and its release (R150, R383). -/
def State.MayScan (s : State) : Party → Prop
  | .host => True
  | .bmc => True
  | .core n => 128 ≤ n ∧ (s.core n).priv

theorem State.mayScan_iff (s : State) (p : Party) : s.mayScan p = true ↔ s.MayScan p := by
  cases p with
  | host => exact ⟨fun _ => trivial, fun _ => rfl⟩
  | bmc => exact ⟨fun _ => trivial, fun _ => rfl⟩
  | core n =>
    change (isSup n && !(s.core n).user) = true ↔ _
    rw [Bool.and_eq_true, Bool.not_eq_true', Core.user_eq_false_iff, isSup, decide_eq_true_eq]
    rfl

theorem execScanRequest_detects {p : Party} (hp : s.mayScan p = true) (hg : (s.region g).gateable = true) (hf : (s.region g).freeze = none) :
    exec (.scanRequest p g) s = .next (s.setRegion g { s.region g with freeze := some ⟨3, 3, (s.region g).rc + 1, none⟩ }) := by
  change execScanRequest p g s = _
  rw [execScanRequest, hp, hg, State.detect, Region.detect, hf]
  rfl

theorem execScanRequest_denied {p : Party} (hp : s.mayScan p = false) : exec (.scanRequest p g) s = .next s := by
  change execScanRequest p g s = _
  rw [execScanRequest, hp]
  rfl

theorem execScanRelease_denied {p : Party} (hp : s.mayScan p = false) : exec (.scanRelease p g) s = .next s := by
  change execScanRelease p g s = _
  rw [execScanRelease, hp]
  rfl

theorem execScanRelease_scan {p : Party} {was : RMode} (hp : s.mayScan p = true) (hm : (s.region g).mode = .gated 3 was) :
    exec (.scanRelease p g) s = .next (s.setRegion g { s.region g with mode := was, beat := s.dieBeat (g / 128) }) := by
  change execScanRelease p g s = _
  rw [execScanRelease, hp, hm]
  rfl

theorem execScanRelease_ending {p : Party} {c : Nat} {was : RMode} (hp : s.mayScan p = true) (hm : (s.region g).mode = .gated c was)
    (hc : c ≠ 3) :
    exec (.scanRelease p g) s
      = .next (s.setRegion g (if (s.region g).awaitScan then (s.region g).freed else { s.region g with scanFreed := true })) := by
  change execScanRelease p g s = _
  unfold execScanRelease
  dsimp only
  rw [if_pos hp]
  split
  · rename_i h3
    rw [hm] at h3
    exact absurd (RMode.gated.inj h3).1 hc
  · split <;> rfl
  · rename_i hno
    exact absurd hm (hno _ _)

end

/-! ### The load of a stopped or gated region ends (R146, R149) -/

section
variable {s : State} {g : Nat} {f : Freeze}

theorem Region.givenUp_spent {r : Region} (h : r.gateable = true) : r.spent.givenUp = { Region.reset with gr := r.gr } := by
  rw [Region.spent, if_pos h, Region.givenUp_of_ungated (by simp)]
  rfl

/-- A gate that ends the load keeps the region for a scan release, unless one has come. -/
theorem Region.givenUp_gated {r : Region} {c : Nat} {was : RMode} (h : r.mode = .gated c was) (hc : c ≠ 3) :
    r.spent.givenUp = if r.scanFreed then { Region.reset with gr := r.gr } else { r with awaitScan := true } := by
  have hg : r.gateable = false := by rw [Region.gateable, h]
  rw [Region.spent, hg, if_neg Bool.false_ne_true, Region.givenUp_of_gated h hc]
  rfl

theorem gateStatus_eq (c : Nat) : gateStatus c = if c = 1 then 5 else if c = 2 then 6 else if c = 4 then 4 else 7 := by
  unfold gateStatus
  split
  · rfl
  · rfl
  · rfl
  · rename_i h1 h2 h4
    rw [if_neg h1, if_neg h2, if_neg h4]

theorem one_lt_gateStatus (c : Nat) : 1 < gateStatus c := by
  rw [gateStatus_eq]
  split_ifs <;> decide

/-- ABORT ends the load of a stopped region with ELEMENT-FAULT. -/
theorem State.replayCtrl_endsLone {why : DrainWhy} (hmode : (s.region g).mode = .stopped why) (hf : (s.region g).freeze = none)
    (h : s.Lone (s.region g).load g) :
    s.EndsLone (s.region g).load g 4 { Region.reset with gr := (s.region g).gr } (s.replayCtrl g 2) := by
  have hg : (s.region g).gateable = true := by rw [Region.gateable, hmode]
  rw [State.replayCtrl_abort hmode, ← Region.givenUp_spent hg]
  exact h.fails (by decide) (.inl ⟨hg, hf⟩)

/-- A gate of a cause that ends the load does so with the status of the cause. -/
theorem State.gate_endsLone {c : Nat} (hend : f.ending = some c) (hc : c ≠ 3) (h : s.Lone (s.region g).load g) :
    let q : Region := { s.region g with mode := .gated c (s.region g).mode, freeze := none, egress := [] }
    s.AlertsFor g 0x102 q (s.stopClock g f)
      ∧ (s.stopClock g f).EndsLone (s.region g).load g (gateStatus c)
          (if (s.region g).scanFreed then { Region.reset with gr := (s.region g).gr } else { q with awaitScan := true }) (s.gate g f) := by
  intro q
  have ha : s.AlertsFor g 0x102 q (s.stopClock g f) := by
    have h := s.stopClock_alerts g f
    rw [hend] at h
    exact h
  have ⟨hq, _, _, hrest⟩ := ha
  have hlone : (s.stopClock g f).Lone (s.region g).load g := h.congr (by rw [hq]) hrest
  have hfailed : ((s.stopClock g f).region g).failed = true := by
    rw [hq]
    exact bne_iff_ne.mpr hc
  have hmode : ((s.stopClock g f).region g).mode = .gated c (s.region g).mode := by rw [hq]
  have hends := hlone.fails (one_lt_gateStatus c) (.inr hfailed)
  rw [Region.givenUp_gated hmode hc, hq] at hends
  rw [State.gate_ending hend]
  exact ⟨ha, hends⟩

end

/-! ### Control words and gates as steps (R146, R149) -/

section
variable {s : State} {g : Nat} {f : Freeze} {why : DrainWhy} {v : W32}

theorem execReplayCtrlWrite_ignores (hmode : (s.region g).mode = .stopped why) (h1 : v.toNat ≠ 1) (h2 : v.toNat ≠ 2) :
    Completes (exec (.replayCtrlWrite g v) s) s.Stored := by
  refine ⟨_, execReplayCtrlWrite_stopped hmode, ?_⟩
  rw [State.replayCtrl_ignored h1 h2]
  exact s.store_stored _ _

theorem execReplayCtrlWrite_aborts (hmode : (s.region g).mode = .stopped why) (h2 : v.toNat = 2) (hfreeze : (s.region g).freeze = none)
    (h : s.Lone (s.region g).load g) :
    Completes (exec (.replayCtrlWrite g v) s) fun t => ∃ u : State,
      s.Stored u ∧ u.EndsLone (s.region g).load g 4 { Region.reset with gr := (s.region g).gr } t := by
  have hst := s.store_stored (s.region g).replay (leBytes 8 v.toNat)
  refine ⟨_, execReplayCtrlWrite_stopped hmode, _, hst, ?_⟩
  generalize s.store _ _ = u at hst ⊢
  have hr := hst.region g
  rw [h2, ← hr]
  exact State.replayCtrl_endsLone (by rw [hr]; exact hmode) (by rw [hr]; exact hfreeze) (by rw [hr]; exact h.congr (by rw [hr]) (by rw [hst]))

theorem execReplayCtrlWrite_resumes (hmode : (s.region g).mode = .stopped why) (h1 : v.toNat = 1) :
    Completes (exec (.replayCtrlWrite g v) s) fun t =>
      (t.region g).mode = why.next ∧ (t.region g).rowix = (s.region g).rowix ∧ (t.region g).relapsed = (s.region g).relapsed
        ∧ (t.region g).win.fault = none ∧ (s.resid = [] → t.cores = s.cores) ∧ t.loads = s.loads := by
  have hst := s.store_stored (s.region g).replay (leBytes 8 v.toNat)
  have hresid (h : s.resid = []) := State.store_resid h (s.region g).replay (leBytes 8 v.toNat)
  refine ⟨_, execReplayCtrlWrite_stopped hmode, ?_⟩
  generalize s.store _ _ = u at hst hresid ⊢
  have hr := hst.region g
  obtain ⟨gr, ports, beat, hreopens, hloads, hquiet⟩ := State.replayCtrl_resumes (s := u) (g := g) (by rw [hr]; exact hmode)
  rw [h1, ← hr]
  refine ⟨hreopens.mode, hreopens.rowix, hreopens.relapsed, congrArg Window.fault hreopens.win,
    fun h => (hquiet (hresid h)).trans hst.cores, hloads.trans ?_⟩
  rw [hst]

theorem execClockGate_scans (hf : (s.region g).freeze = some f) (hleft : f.left = 0) (hg : (s.region g).gateable = true)
    (hcause : f.cause = 3) (halso : f.also = none) :
    Completes (exec (.clockGate g) s)
      (s.AlertsFor g 0x102 { s.region g with mode := .gated 3 (s.region g).mode, freeze := none }) := by
  have hend : f.ending = none := by rw [Freeze.ending, if_pos hcause, halso]
  have h := s.stopClock_alerts g f
  rw [hend] at h
  exact ⟨_, (execClockGate_due hf hleft hg).trans (by rw [State.gate_scan hend]), h⟩

theorem Freeze.ending_of_cause {c : Nat} (h : f.cause = c ∨ f.cause = 3 ∧ f.also = some c) (hc : c ≠ 3) : f.ending = some c := by
  obtain rfl | ⟨h3, halso⟩ := h
  · exact if_neg hc
  · rw [Freeze.ending, if_pos h3, halso]

end

/-! ### The claims -/

/-- R144, R177, R243: how a region goes on. -/
theorem regionProgress : Claims.RegionProgress := by
  intro s g r isRow
  refine ⟨fun sp hspan hgo hv => execIterationAdmission_admits hspan hgo hv, fun sp hspan h => execIterationAdmission_stays hspan h,
    fun hset h => execFormSettlingEnd_ends hset h, fun _ h => execFormSettlingEnd_stays h, fun h => execImplicitClose_closes h,
    fun h => execImplicitClose_stays h, fun why hmode => ⟨fun h => execCommitWindowClose_waits hmode h,
      fun hdrained hclean hspan hrel hs => ?_⟩⟩
  obtain ⟨t, hexec, hout, hlast, hreopens, hothers, hrest⟩ := commitWindowClose_releases hmode hdrained hclean hspan hrel hs
  have hwin : (t.region g).win = s.newWindow g := hreopens.win
  refine ⟨t, hexec, hout, hlast, hreopens.egress, congrArg Window.row hwin, congrArg Window.elapsed hwin, congrArg Window.gregs hwin,
    congrArg Window.ports hwin, congrArg Window.log hwin, congrArg Window.fault hwin, fun e he => ?_, fun k hk => ?_, hreopens.mode,
    hreopens.work, hothers, hrest⟩
  · rw [hwin]; exact State.get_elemsOf he
  · rw [hwin]; exact State.get_tilesOf hk

/-- R146-R150: discards, the control word, gates and scan. -/
theorem discardsAndGates : Claims.DiscardsAndGates := by
  intro s g p v r isRow alerted may gated stored status
  have hmay : s.mayScan p = true ↔ may := s.mayScan_iff p
  have hdenied (h : ¬ may) : s.mayScan p = false := Bool.eq_false_iff.mpr (mt hmay.mp h)
  refine ⟨fun why hmode hdrained hfault hfreeze => ?_, fun why hmode => ⟨fun h1 h2 => execReplayCtrlWrite_ignores hmode h1 h2,
      fun h2 hfreeze hlone => execReplayCtrlWrite_aborts hmode h2 hfreeze hlone, fun h1 => execReplayCtrlWrite_resumes hmode h1⟩,
    fun h => execReplayCtrlWrite_elsewhere h,
    fun f hf hleft hg => ⟨fun hcause halso => execClockGate_scans hf hleft hg hcause halso, fun c hcause hc hlone => ?_⟩,
    fun f hf hleft => execClockGate_stays hf hleft,
    fun hp hg hf => ⟨_, execScanRequest_detects (hmay.mpr hp) hg hf, s.onlyRegion_setRegion g _⟩,
    fun h => ⟨execScanRequest_denied (hdenied h), execScanRelease_denied (hdenied h)⟩, fun was hp hm => ?_, fun c was hp hm hc ha => ?_,
    fun c was hp hm hc ha => ?_⟩
  · obtain ⟨⟨hq, hothers, halert, hrest⟩, hperf⟩ := s.discardWindow_alerts g why
    exact ⟨_, execCommitWindowClose_poisoned hmode hdrained hfault hfreeze, hq, hothers, halert, hperf, hrest⟩
  · obtain ⟨halert, hends⟩ := State.gate_endsLone (Freeze.ending_of_cause hcause hc) hc hlone
    rw [gateStatus_eq] at hends
    exact ⟨_, execClockGate_due hf hleft hg, _, halert, hends⟩
  · obtain ⟨hq, hothers, hrest⟩ := s.onlyRegion_setRegion g { r with mode := was, beat := s.dieBeat (g / 128) }
    exact ⟨_, execScanRelease_scan (hmay.mpr hp) hm, hq.trans (by rw [hq]), hothers, hrest⟩
  · refine ⟨_, execScanRelease_ending (hmay.mpr hp) hm hc, ?_⟩
    rw [if_pos ha]
    exact s.onlyRegion_setRegion g _
  · refine ⟨_, execScanRelease_ending (hmay.mpr hp) hm hc, ?_⟩
    rw [if_neg (by rw [ha]; exact Bool.false_ne_true)]
    exact s.onlyRegion_setRegion g _

/-- Settles O37: each event by what it does to the region, and the ends of loads by one account of a load alone in its launch. -/
theorem regionWindows : Obligations.RegionWindows := ⟨regionProgress, discardsAndGates⟩

end Sys2Proof.Machine
end

section
/-! SUPPORT. Background copies: how one issues, what one part of it moves, and how it completes (R152, R156, R288-R290). -/

namespace Sys2Proof.Machine

/-! ### Copies issue (R152, R288, R290) -/

theorem Core.get_setTok (c : Core) (i v k : Nat) :
    SMap.get 0 (c.setTok i v).tokcnt k = if k = i then BitVec.ofNat 4 v else SMap.get 0 c.tokcnt k := SMap.get_set 0 _ _ k _

theorem State.copy_listed {s : State} {i : Nat} (h : (s.copy i).isSome = true) : i ∈ s.copies.map (·.1) :=
  SMap.mem_keys_of_get (d := none) (Option.isSome_iff_ne_none.mp h)

/-- The number that a copy issues on is free. -/
theorem State.freeCopy_unused (s : State) : s.copy (firstFree (fun k => (s.copy k).isSome) (s.copies.length + 1) s.tick) = none := by
  have h := firstFree_free (used := fun k => (s.copy k).isSome) (ks := s.copies.map (·.1)) (fun _ => State.copy_listed) s.tick
  rw [List.length_map] at h
  exact Option.isNone_iff_eq_none.mp (Option.isSome_eq_false_iff.mp h)

/-- The copy that a word of the executing core issues. -/
def State.issuedCopy (s : State) (dst src len : Nat) (dp sp : List Nat) (tok : BitVec 3) (sc : Scope) (red : Option (RedOp × RedTy)) : Copy :=
  let bind := SMap.get 0 s.me.tokbind tok.toNat
  { core := s.cur, user := s.me.user, ctx := s.me.ctxid, dst := dst, src := src, len := len, dstPages := dp, srcPages := sp,
    leaves := s.leavesOf s.cur (s.me.ctxid.toNat % 4096) src len ++ s.leavesOf s.cur (s.me.ctxid.toNat % 4096) dst len,
    tok := tok.toNat, sc := sc, bind := if bind.getLsbD 12 then some (bind.toNat % 4096) else none, red := red, moved := [] }

/-- A word of `n` bytes issued the copy `c` under a token, and nothing else happened but counted walks. -/
def State.Issues (s : State) (tok : BitVec 3) (c : Copy) (n : Nat) (t : State) : Prop :=
  ∃ i, s.copy i = none ∧ t.copy i = some c ∧ (∀ j, j ≠ i → t.copy j = s.copy j)
    ∧ (∀ k, SMap.get 0 t.me.tokcnt k = if k = tok.toNat then SMap.get 0 s.me.tokcnt tok.toNat + 1 else SMap.get 0 s.me.tokcnt k)
    ∧ t.me = { s.me with tokcnt := t.me.tokcnt, pc := s.me.pc + BitVec.ofNat 64 n }
    ∧ (∀ j, j ≠ s.cur → t.core j = s.core j) ∧ t = { s with cores := t.cores, copies := t.copies, perf := t.perf }

theorem State.copyStart_issues {s u : State} (h : OnlyCounted s u) (dst src len : Nat) (dp sp : List Nat) (tok : BitVec 3) (sc : Scope)
    (red : Option (RedOp × RedTy)) (n : Nat) :
    s.Issues tok (s.issuedCopy dst src len dp sp tok sc red) n (u.copyStart dst src len dp sp tok sc red n) := by
  rw [OnlyCounted] at h
  rw [h]
  refine ⟨_, s.freeCopy_unused, ?record, fun j hj => ?others, fun k => ?count, ?me,
    fun j hj => State.core_setMe_ne _ _ hj, rfl⟩
  case record =>
    refine (State.copy_setCopy_same _ _ _).trans (congrArg some ?_)
    rw [State.issuedCopy, ← Core.ctx_eq, bitOf_testBit]
    rfl
  case others => rw [State.copyStart, State.copy_setMe]; exact State.copy_setCopy_ne _ _ hj
  case count =>
    rw [State.copyStart, State.me_setMe]
    refine (Core.get_setTok _ _ _ k).trans (if_congr Iff.rfl ?_ rfl)
    rw [BitVec.ofNat_add, Core.tok, BitVec.ofNat_toNat, BitVec.setWidth_eq]
    rfl
  case me => rw [State.copyStart, State.me_setMe]; rfl

section
variable {s : State} {rd ra rb : SReg} {tok : BitVec 3} {sc : Scope} {wait : BitVec 8} {red : Option (RedOp × RedTy)} {n : Nat}
  (hidle : s.me.waits wait = false ∧ SMap.get 0 s.me.tokcnt tok.toNat ≠ 15)
  (hal : redMisaligned red [s.readS rd, s.readS ra, s.readS rb] = none)

include hidle in
/-- A copy form need not wait: no token of its mask is pending, and its own token can count one more copy (R152, R153). -/
theorem State.copyForm_ready : ¬ (s.me.waits wait = true ∨ s.me.tok tok.toNat = 15) := by
  rintro (h | h)
  · rw [hidle.1] at h; cases h
  · exact hidle.2 (BitVec.eq_of_toNat_eq h)

include hidle hal

theorem State.copyForm_issues {sp dp : List Nat} (h0 : s.readS rb ≠ 0) (hlen : (s.readS rb).toNat ≤ 2 ^ 30)
    (hsp : s.copyPages .load (s.readS ra).toNat (pagesOf (s.readS ra).toNat (s.readS rb).toNat) = .ok sp)
    (hdp : s.copyPages .store (s.readS rd).toNat (pagesOf (s.readS rd).toNat (s.readS rb).toNat) = .ok dp) :
    Completes (s.copyForm rd ra rb tok sc wait red n)
      (s.Issues tok (s.issuedCopy (s.readS rd).toNat (s.readS ra).toNat (s.readS rb).toNat dp sp tok sc red) n) := by
  refine ⟨_, ?_, State.copyStart_issues ((s.coreWalk_only (s.readS ra).toNat (s.readS rb).toNat).trans
    (State.coreWalk_only _ (s.readS rd).toNat (s.readS rb).toNat)) _ _ _ _ _ _ _ _ _⟩
  unfold State.copyForm
  dsimp only
  rw [if_neg (State.copyForm_ready hidle), hal]
  dsimp only
  rw [if_neg h0, if_neg (Nat.not_lt.mpr hlen), hsp]
  dsimp only
  rw [hdp]

theorem State.copyForm_empty (h0 : s.readS rb = 0) :
    Completes (s.copyForm rd ra rb tok sc wait red n) (Jumped s (s.me.pc + BitVec.ofNat 64 n)) := by
  refine ⟨s.skip n, ?_, s.skip_jumped n⟩
  unfold State.copyForm
  dsimp only
  rw [if_neg (State.copyForm_ready hidle), hal]
  exact if_pos h0

end

/-- Operands that are multiples of the element size are aligned (R290). -/
theorem redMisaligned_none {op : RedOp} {ty : RedTy} {a b c : W64} (ha : a.toNat % ty.size = 0) (hb : b.toNat % ty.size = 0)
    (hc : c.toNat % ty.size = 0) : redMisaligned (some (op, ty)) [a, b, c] = none :=
  List.find?_eq_none.mpr (by simp [ha, hb, hc])

/-- R152, R288, R290: how copies and reductions issue. -/
theorem copyIssue : Claims.CopyIssue := by
  intro s rd ra rb tok sc wait op ty dst src len cnt bind idle mapped issued
  refine ⟨fun sp dp h0 hlen ⟨hsp, hdp⟩ => ⟨fun hidle => ?_, fun hidle => ⟨?_, fun ⟨ha, hb, hc⟩ => ?_⟩⟩,
    fun h0 => ⟨fun hidle => ?_, fun hidle => ⟨?_, fun ⟨ha, hb⟩ => ?_⟩⟩⟩
  · exact State.copyForm_issues (red := none) hidle rfl h0 hlen hsp hdp
  · exact State.copyForm_issues (red := none) hidle rfl h0 hlen hsp hdp
  · exact State.copyForm_issues hidle (redMisaligned_none ha hb hc) h0 hlen hsp hdp
  · exact State.copyForm_empty (red := none) hidle rfl h0
  · exact State.copyForm_empty (red := none) hidle rfl h0
  · exact State.copyForm_empty hidle (redMisaligned_none ha hb (by rw [show s.readS rb = 0 from h0]; exact Nat.zero_mod _)) h0

/-! ### Copies complete (R152, R156) -/

/-- A copy whose parts have all been moved has nothing left to move. -/
theorem State.moveRest_moved {s : State} {c : Copy} {n : Nat} (h : ∀ k < n, k ∈ c.moved) : s.moveRest c n = s := by
  induction n with
  | zero => rfl
  | succ n ih =>
    rw [State.moveRest, ih fun k hk => h k (Nat.lt_succ_of_lt hk), if_pos (by simpa using h n n.lt_succ_self)]

theorem execCopyCompletion_moved {s : State} {i : Nat} {c : Copy} (hc : s.copy i = some c) (h : ∀ k < c.parts, k ∈ c.moved) :
    execCopyCompletion i s = .next (s.copyDone i c) := by
  have hheld : ((List.range c.parts).any fun k => !c.moved.contains k && s.partHeld c k) = false := by
    simpa using fun k hk hn => absurd (h k hk) hn
  rw [execCopyCompletion, hc]
  dsimp only
  rw [hheld, State.moveRest_moved h]
  rfl

/-- The phase that a copy is bound to counts it, and nothing else changes. -/
theorem State.copyDone_phases (s : State) (i : Nat) (c : Copy) :
    (∀ n, c.bind ≠ some n → (s.copyDone i c).phase n = s.phase n)
      ∧ ∀ n, c.bind = some n → (s.copyDone i c).phase n = (s.phase n).counted s.gcyc := by
  unfold State.copyDone
  dsimp only
  cases c.bind with
  | none => exact ⟨fun _ _ => rfl, nofun⟩
  | some m =>
    refine ⟨fun n hn => (State.phase_phaseInc s m n).trans (if_neg fun e => hn (by rw [e])), fun n hn => ?_⟩
    cases hn
    exact (State.phase_phaseInc s m m).trans (if_pos rfl)

/-- A completed copy is gone, its token counts one copy less, and no core changes otherwise. -/
theorem State.copyDone_eq (s : State) (i : Nat) (c : Copy) :
    let d := s.core c.core
    s.copyDone i c = { s with
      cores := (s.setCore c.core (d.setTok c.tok (d.tok c.tok - 1))).cores, copies := (s.setCopy i none).copies,
      phases := (s.copyDone i c).phases } := by
  unfold State.copyDone
  cases c.bind <;> rfl

/-- R152, R156: how a copy that has been moved whole completes. -/
theorem copyCompletion : Claims.CopyCompletion := by
  intro s i c hc hmoved
  obtain ⟨hphases, hphase⟩ := s.copyDone_phases i c
  have hdone := s.copyDone_eq i c
  have hcore (j : Nat) : (s.copyDone i c).core j =
      if j = c.core then (s.core c.core).setTok c.tok ((s.core c.core).tok c.tok - 1) else s.core j :=
    (congrArg (State.core · j) hdone).trans (State.core_setCore s _ _ _)
  have hcopy (j : Nat) : (s.copyDone i c).copy j = if j = i then none else s.copy j :=
    (congrArg (State.copy · j) hdone).trans (SMap.get_set none s.copies i j none)
  refine ⟨_, execCopyCompletion_moved hc hmoved, (hcopy i).trans (if_pos rfl), fun j hj => (hcopy j).trans (if_neg hj), fun k => ?_, ?_,
    hphases, hphase, fun j hj => (hcore j).trans (if_neg hj), ?_⟩
  · rw [hcore, if_pos rfl]
    refine (Core.get_setTok _ _ _ k).trans (ite_congr rfl (fun hk => ?_) fun _ => rfl)
    rw [hk, Core.tok]
  · rw [hcore, if_pos rfl]
    rfl
  · rw [hdone]

/-! ### Bytes put at physical addresses (R270, R280) -/

/-- Every cell that was written is among the cells named. -/
theorem Puts.readCell_out {s t : State} {k : Via} {n : Nat} {ws as : List Nat} {bs : List Byte} (h : Puts s k n ws as bs t) {a : Nat}
    (ha : a ∉ as) : t.readCell a = s.readCell a := by
  have hout (w : Nat) : a ∉ ((ws.zip (as.zip bs)).filter fun p => p.1 == w).map (·.2.1) := by
    intro hm
    obtain ⟨⟨x, y, z⟩, hp, rfl⟩ := List.mem_map.mp hm
    exact ha (List.of_mem_zip (List.of_mem_zip (List.mem_filter.mp hp).1).2).1
  obtain ⟨u, v, x, h0, h1, h2, h3⟩ := h
  rw [h3.cells a (hout 3), h2.cells a (hout 2), h1.cells a (hout 1), h0.cells a (hout 0)]

/-- Only memory, its metadata and what its views do not see yet are written. -/
theorem Puts.rest {s t : State} {k : Via} {n : Nat} {ws as : List Nat} {bs : List Byte} (h : Puts s k n ws as bs t) :
    t = { s with mem := t.mem, resid := t.resid, lags := t.lags } := by
  obtain ⟨u, v, x, h0, h1, h2, h3⟩ := h
  rw [h3.rest, h2.rest, h1.rest, h0.rest]

/-- A list through two functions, zipped with a third list. -/
theorem zip_map_map {α β γ δ : Type} (f : α → β) (g : α → γ) (xs : List α) (ys : List δ) :
    (xs.map f).zip ((xs.map g).zip ys) = (xs.zip ys).map fun p => (f p.1, g p.1, p.2) := by
  induction xs generalizing ys with
  | nil => rfl
  | cons x xs ih =>
    cases ys with
    | nil => rfl
    | cons y ys => simp [ih]

/-- `putPas` writes each byte through the window of its address. -/
theorem State.putPas_puts (s : State) (k : Via) (n : Nat) {pas : List Nat} {bs : List Byte} (hl : pas.length = bs.length)
    (hn : (pas.map fun pa => (s.canon pa).getD 0).Nodup) :
    Puts s k n (pas.map s.windowOf) (pas.map fun pa => (s.canon pa).getD 0) bs (s.putPas k n pas bs) := by
  have hput (u : State) {w : Nat} (hw : w < 4) :
      let part := ((pas.map s.windowOf).zip ((pas.map fun pa => (s.canon pa).getD 0).zip bs)).filter fun p => p.1 == w
      let ps := (pas.zip bs).filter fun p => s.windowOf p.1 == w
      Put u k n w (part.map (·.2.1)) (part.map (·.2.2)) (u.put k n w (ps.map fun p => (s.canon p.1).getD 0) (ps.map (·.2))) := by
    intro part ps
    have hpart : part = ps.map fun p => (s.windowOf p.1, (s.canon p.1).getD 0, p.2) := by
      simp only [part, ps, zip_map_map, List.filter_map]
      rfl
    have hcells : part.map (·.2.1) = ps.map fun p => (s.canon p.1).getD 0 := by rw [hpart, List.map_map]; rfl
    have hbytes : part.map (·.2.2) = ps.map (·.2) := by rw [hpart, List.map_map]; rfl
    have hsub : (ps.map fun p => (s.canon p.1).getD 0).Sublist (pas.map fun pa => (s.canon pa).getD 0) := by
      have h := ((List.filter_sublist (l := pas.zip bs) (p := fun p => s.windowOf p.1 == w)).map Prod.fst).map fun pa => (s.canon pa).getD 0
      rwa [List.map_fst_zip hl.le, List.map_map] at h
    rw [hcells, hbytes]
    exact u.put_spec k hw (hn.sublist hsub) (by rw [List.length_map, List.length_map])
  exact ⟨_, _, _, hput s (by decide), hput _ (by decide), hput _ (by decide), hput _ (by decide)⟩

/-! ### One part of a copy (R288, R290) -/

theorem OnlyReported.canon {s t : State} (h : OnlyReported s t) (pa : Nat) : t.canon pa = s.canon pa := by rw [h]; rfl
theorem OnlyReported.windowOf {s t : State} (h : OnlyReported s t) (pa : Nat) : t.windowOf pa = s.windowOf pa := by rw [h]; rfl

theorem State.rangeCells_eq (s : State) (pages : List Nat) (base off n : Nat) :
    s.rangeCells pages base off n = (List.range n).map fun j => s.canon (pagePa pages base (base + off + j)) := by
  induction n generalizing off with
  | zero => rfl
  | succ n ih =>
    rw [State.rangeCells, ih, List.range_succ_eq_map, List.map_cons, List.map_map]
    refine congrArg₂ List.cons rfl (List.map_congr_left fun j _ => ?_)
    exact congrArg (fun x => s.canon (pagePa pages base x)) (by omega)

theorem State.rangeCells_dst (s : State) (c : Copy) (off n : Nat) :
    s.rangeCells c.dstPages c.dst off n = (c.dstPas off n).map s.canon := by
  rw [State.rangeCells_eq, Copy.dstPas, List.map_map]
  rfl

/-- What a path shows in cells that are all there. -/
theorem State.seesSome_eq {s : State} {as : List (Option Nat)} (h : ∀ a ∈ as, a.isSome) (vs : List Nat) :
    s.seesSome vs as = (as.map fun a => a.getD 0).map (s.see vs) := by
  rw [State.seesSome, List.map_map]
  refine List.map_congr_left fun a ha => ?_
  obtain ⟨x, rfl⟩ := Option.isSome_iff_exists.mp (h a ha)
  rfl

/-- Addresses that are all there are all written. -/
theorem State.thereOf_eq {s : State} {pas : List Nat} {bs : List Byte} (h : ∀ a ∈ pas.map s.canon, a.isSome) :
    s.thereOf pas bs = pas.zip bs :=
  List.filter_eq_self.mpr fun _ hp => h _ (List.mem_map_of_mem (List.of_mem_zip hp).1)

/-- The bytes that part `k` of a copy writes: those of its source, or the element of its reduction. -/
def State.partBytes (s : State) (c : Copy) (k : Nat) : List Byte :=
  let (off, n) := c.part k
  let bs := s.seesSome (Via.copy.path (s.rangeWindow c.srcPages c.src off)) (s.rangeCells c.srcPages c.src off n)
  match c.red with
  | none => bs
  | some (op, ty) =>
    if c.overlaps then leBytes ty.size ((s.free (2 * k)).toNat + 2 ^ 32 * (s.free (2 * k + 1)).toNat)
    else leBytes ty.size (redApply op ty
      (leNat (s.seesSome (Via.copy.path (s.rangeWindow c.dstPages c.dst off)) (s.rangeCells c.dstPages c.dst off n))) (leNat bs))

/-- The part of a copy has been read: counted, and its soft errors reported. -/
def State.partRead (s : State) (c : Copy) (k : Nat) : State :=
  let (off, n) := c.part k
  let t := ((s.checkRead c.core (c.srcPas off n)).checkRead c.core (c.mergePas off n)).countMem
    ((s.rangeCells c.srcPages c.src off n).filterMap id) false
  if c.red.isSome then t.countMem ((s.rangeCells c.dstPages c.dst off n).filterMap id) false else t

/-- The part of a copy is read, and then written. -/
theorem State.copyPart_eq (s : State) (c : Copy) (k : Nat) :
    s.copyPart c k =
      let (off, n) := c.part k
      let ws := s.thereOf (c.dstPas off n) (s.partBytes c k)
      ((s.partRead c k).putPas .copy c.core (ws.map (·.1)) (ws.map (·.2))).countMem
        ((s.rangeCells c.dstPages c.dst off n).filterMap id) true := rfl

theorem State.partRead_reported (s : State) (c : Copy) (k : Nat) : OnlyReported s (s.partRead c k) := by
  unfold State.partRead
  dsimp only
  have hread := ((s.checkRead_read c.core (c.srcPas (c.part k).1 (c.part k).2)).1.trans
    (State.checkRead_read _ c.core (c.mergePas (c.part k).1 (c.part k).2)).1).trans
    (State.countMem_only _ ((s.rangeCells c.srcPages c.src (c.part k).1 (c.part k).2).filterMap id) false).reported
  split
  · exact hread.trans (State.countMem_only _ _ _).reported
  · exact hread

theorem Copy.part_red {c : Copy} {op : RedOp} {ty : RedTy} (h : c.red = some (op, ty)) (k : Nat) : (c.part k).2 = ty.size := by
  rw [Copy.part, h]

theorem State.length_partBytes (s : State) (c : Copy) (k : Nat) : (s.partBytes c k).length = (c.part k).2 := by
  unfold State.partBytes
  dsimp only
  split
  · rw [State.seesSome, List.length_map, State.rangeCells_eq, List.length_map, List.length_range]
  · rename_i h
    rw [Copy.part_red h]
    split <;> exact length_leBytes _ _

/-- Moving a part leaves memory with its bytes, and changes nothing else but counters, reports and the copy's record. -/
theorem State.copyPart_puts {s : State} {c : Copy} {k : Nat}
    (hd : ∀ a ∈ s.rangeCells c.dstPages c.dst (c.part k).1 (c.part k).2, a.isSome)
    (hn : ((s.rangeCells c.dstPages c.dst (c.part k).1 (c.part k).2).map fun a => a.getD 0).Nodup) :
    ∃ x y, OnlyReported s x
      ∧ Puts x .copy c.core ((List.range (c.part k).2).map fun j => s.windowOf (pagePa c.dstPages c.dst (c.dst + (c.part k).1 + j)))
        ((s.rangeCells c.dstPages c.dst (c.part k).1 (c.part k).2).map fun a => a.getD 0) (s.partBytes c k) y
      ∧ OnlyCounted y (s.copyPart c k) := by
  have hread := s.partRead_reported c k
  have hl : (c.dstPas (c.part k).1 (c.part k).2).length = (s.partBytes c k).length := by
    rw [State.length_partBytes, Copy.dstPas, List.length_map, List.length_range]
  have hcells : (s.rangeCells c.dstPages c.dst (c.part k).1 (c.part k).2).map (fun a => a.getD 0)
      = (c.dstPas (c.part k).1 (c.part k).2).map fun pa => ((s.partRead c k).canon pa).getD 0 := by
    rw [State.rangeCells_dst, List.map_map]
    exact List.map_congr_left fun pa _ => by rw [hread.canon]; rfl
  have hwindows : ((List.range (c.part k).2).map fun j => s.windowOf (pagePa c.dstPages c.dst (c.dst + (c.part k).1 + j)))
      = (c.dstPas (c.part k).1 (c.part k).2).map (s.partRead c k).windowOf := by
    rw [Copy.dstPas, List.map_map]
    exact List.map_congr_left fun j _ => (hread.windowOf _).symm
  refine ⟨_, (s.partRead c k).putPas .copy c.core (c.dstPas (c.part k).1 (c.part k).2) (s.partBytes c k), hread, ?_, ?_⟩
  · rw [hcells] at hn ⊢
    rw [hwindows]
    exact State.putPas_puts _ _ _ hl hn
  · rw [State.copyPart_eq]
    dsimp only
    rw [State.thereOf_eq (by rwa [← State.rangeCells_dst]), List.map_fst_zip hl.le, List.map_snd_zip hl.ge]
    exact State.countMem_only _ _ _

theorem State.moveGranule_eq {s : State} {i k : Nat} {c : Copy} (hc : s.copy i = some c) (hk : k < c.parts) (hm : k ∉ c.moved)
    (hh : s.partHeld c k = false) : s.moveGranule i k = (s.copyPart c k).setCopy i (some { c with moved := k :: c.moved }) := by
  rw [State.moveGranule, hc]
  exact if_pos ⟨hk, by simpa using hm, by rw [hh]; rfl⟩

/-! ### Reductions of integers (R290) -/

/-- OP(dest, src) of one element of integers, on its bits. -/
def redWord (op : RedOp) (ty : RedTy) {w : Nat} (d x : BitVec w) : BitVec w :=
  match op with
  | .add => d + x
  | .and => d &&& x
  | .or => d ||| x
  | .xor => d ^^^ x
  | .max => if ty.signed then BitVec.ofInt w (max d.toInt x.toInt) else BitVec.ofNat w (max d.toNat x.toNat)
  | .min => if ty.signed then BitVec.ofInt w (min d.toInt x.toInt) else BitVec.ofNat w (min d.toNat x.toNat)

theorem signedOf_toNat {w : Nat} (hw : 0 < w) (x : BitVec w) : signedOf w x.toNat = x.toInt := by
  obtain ⟨w, rfl⟩ := Nat.exists_eq_succ_of_ne_zero hw.ne'
  rw [signedOf, BitVec.toInt_eq_toNat_cond]
  refine if_congr ?_ rfl rfl
  rw [Nat.succ_sub_one, Nat.pow_succ]
  omega

theorem maxI_toNat {w : Nat} (d x : BitVec w) :
    (if d.toInt ≤ x.toInt then x.toNat else d.toNat) = (BitVec.ofInt w (max d.toInt x.toInt)).toNat := by
  split
  · rename_i h; rw [max_eq_right h, BitVec.ofInt_toInt]
  · rename_i h; rw [max_eq_left (not_le.mp h).le, BitVec.ofInt_toInt]

theorem minI_toNat {w : Nat} (d x : BitVec w) :
    (if d.toInt ≤ x.toInt then d.toNat else x.toNat) = (BitVec.ofInt w (min d.toInt x.toInt)).toNat := by
  split
  · rename_i h; rw [min_eq_left h, BitVec.ofInt_toInt]
  · rename_i h; rw [min_eq_right (not_le.mp h).le, BitVec.ofInt_toInt]

theorem maxN_toNat {w : Nat} (d x : BitVec w) : max d.toNat x.toNat = (BitVec.ofNat w (max d.toNat x.toNat)).toNat := by
  rw [BitVec.toNat_ofNat, Nat.mod_eq_of_lt (max_lt d.isLt x.isLt)]

theorem minN_toNat {w : Nat} (d x : BitVec w) : min d.toNat x.toNat = (BitVec.ofNat w (min d.toNat x.toNat)).toNat := by
  rw [BitVec.toNat_ofNat, Nat.mod_eq_of_lt (min_lt_of_left_lt d.isLt)]

/-- The reduction of the model, on elements that are integers. -/
theorem redApply_eq {op : RedOp} {ty : RedTy} (hty : ty.fmt = none) (d x : BitVec (8 * ty.size)) :
    redApply op ty d.toNat x.toNat = (redWord op ty d x).toNat := by
  have hw : 0 < 8 * ty.size := by cases ty <;> decide
  cases op with
  | add => simp [redApply, redWord, hty]
  | and => simp [redApply, redWord]
  | or => simp [redApply, redWord]
  | xor => simp [redApply, redWord]
  | max =>
    simp only [redApply, redWord, hty, signedOf_toNat hw]
    split
    · exact maxI_toNat d x
    · exact maxN_toNat d x
  | min =>
    simp only [redApply, redWord, hty, signedOf_toNat hw]
    split
    · exact minI_toNat d x
    · exact minN_toNat d x

/-- `n` bytes make a number of `n` bytes. -/
theorem toNat_ofNat_leNat {n : Nat} {bs : List Byte} (h : bs.length = n) : (BitVec.ofNat (8 * n) (leNat bs)).toNat = leNat bs := by
  rw [BitVec.toNat_ofNat, Nat.mod_eq_of_lt (h ▸ leNat_lt bs)]

/-! ### The bytes of a part (R288, R290) -/

section
variable {s : State} {c : Copy} {k : Nat} (hs : ∀ a ∈ s.rangeCells c.srcPages c.src (c.part k).1 (c.part k).2, a.isSome)
include hs

/-- A plain copy writes its source bytes. -/
theorem State.partBytes_plain (hred : c.red = none) :
    s.partBytes c k = ((s.rangeCells c.srcPages c.src (c.part k).1 (c.part k).2).map fun a => a.getD 0).map
      (s.see (Via.copy.path (s.rangeWindow c.srcPages c.src (c.part k).1))) := by
  rw [State.partBytes]
  dsimp only
  rw [hred]
  exact State.seesSome_eq hs _

/-- A reduction of integers writes OP(dest, src). -/
theorem State.partBytes_red {op : RedOp} {ty : RedTy} (hred : c.red = some (op, ty)) (hty : ty.fmt = none) (hover : c.overlaps = false)
    (hd : ∀ a ∈ s.rangeCells c.dstPages c.dst (c.part k).1 (c.part k).2, a.isSome) :
    let bytes (pages : List Nat) (base : Nat) := ((s.rangeCells pages base (c.part k).1 (c.part k).2).map fun a => a.getD 0).map
      (s.see (Via.copy.path (s.rangeWindow pages base (c.part k).1)))
    s.partBytes c k = leBytes ty.size (redWord op ty (BitVec.ofNat (8 * ty.size) (leNat (bytes c.dstPages c.dst)))
      (BitVec.ofNat (8 * ty.size) (leNat (bytes c.srcPages c.src)))).toNat := by
  intro bytes
  have hlen (pages : List Nat) (base : Nat) : (bytes pages base).length = ty.size := by
    rw [List.length_map, List.length_map, State.rangeCells_eq, List.length_map, List.length_range, Copy.part_red hred]
  rw [← redApply_eq hty, toNat_ofNat_leNat (hlen _ _), toNat_ofNat_leNat (hlen _ _), State.partBytes]
  dsimp only
  rw [hred]
  dsimp only
  rw [hover, State.seesSome_eq hs, State.seesSome_eq hd]
  rfl

end

/-- The integer types have no float format. -/
theorem RedTy.fmt_none {ty : RedTy} (h : ty ∈ [RedTy.i32, .n32, .i64, .n64]) : ty.fmt = none := by
  simp only [List.mem_cons, List.not_mem_nil, or_false] at h
  obtain rfl | rfl | rfl | rfl := h <;> rfl

/-- R288, R290: what one part of a copy or of a reduction of integers moves. -/
theorem copyPart : Claims.CopyPart := by
  intro s i k c hc hk hm hh srcs dsts src dst t ws bs moves hs hd hn
  obtain ⟨x, y, hread, hputs, hcount⟩ := State.copyPart_puts hd hn
  have ht : t = (s.copyPart c k).setCopy i (some { c with moved := k :: c.moved }) := State.moveGranule_eq hc hk hm hh
  have hcopy (j : Nat) : t.copy j = if j = i then some { c with moved := k :: c.moved } else s.copy j := by
    rw [ht, State.copy_setCopy, hcount, hputs.rest, hread]
    rfl
  have hmoves {out : List Byte} (hout : s.partBytes c k = out) : moves out := by
    subst hout
    refine ⟨x, y, hread, hputs, ?_, fun j hj => (hcopy j).trans (if_neg hj)⟩
    rw [ht, hcount]
    rfl
  refine ⟨fun hplain => ?_, fun op ty hred hty hover => ?_, fun a ha => ?_, (hcopy i).trans (if_pos rfl)⟩
  · exact hmoves (State.partBytes_plain hs hplain)
  · exact hmoves (State.partBytes_red hs hred (RedTy.fmt_none hty) hover hd)
  · rw [ht, State.readCell_setCopy, hcount.readCell, hputs.readCell_out ha, hread]
    rfl

/-- Settles O13: a copy form issues one record, a part is read and put through the windows of its addresses, and the last turn counts. -/
theorem copies : Obligations.Copies := ⟨copyIssue, copyCompletion, copyPart⟩

end Sys2Proof.Machine
end

section
/-! SUPPORT. The phase forms: their selectors, what each does, and what refuses it (R154, R155, R157; log 119). -/

namespace Sys2Proof.Machine

/-! ### Selectors (R154) -/

theorem bitOf_eq_true_iff (v i : Nat) : bitOf v i = true ↔ v / 2 ^ i % 2 = 1 := beq_iff_eq

/-- The selectors of `phset`: OP 0 with a scope from 2 to 5, and OP 1 with its scope field 0. -/
theorem phsetSelOk_iff (v : Nat) :
    phsetSelOk v = true ↔ (v / 2 ^ 15 = 0 ∧ 2 ≤ v / 2 ^ 12 ∧ v / 2 ^ 12 ≤ 5) ∨ (v / 2 ^ 12 % 16 = 8 ∧ v < 2 ^ 20) := by
  unfold phsetSelOk
  split
  · rename_i h
    rw [bitOf_eq_true_iff] at h
    simp only [fld, Bool.and_eq_true, decide_eq_true_eq, beq_iff_eq]
    omega
  · rename_i h
    rw [bitOf_eq_true_iff] at h
    simp only [Bool.and_eq_true, decide_eq_true_eq]
    rw [fld]
    omega

theorem phaseSelOk_of_lt {v : Nat} (h : v < 4096) : phaseSelOk v = true := decide_eq_true h
theorem phaseSelOk_of_ge {v : Nat} (h : 4096 ≤ v) : phaseSelOk v = false := decide_eq_false (Nat.not_lt.mpr h)

/-- In user mode a core is denied the phases of other owners (R154). -/
theorem State.phaseDenied_iff (s : State) (n : Nat) :
    s.phaseDenied n = true ↔ ¬ s.me.priv ∧ (s.phase n).own.toNat ≠ s.me.ctxid.toNat % 4096 := by
  rw [State.phaseDenied, Bool.and_eq_true, decide_eq_true_eq, Core.ctx_eq, ← Bool.not_eq_false, Core.user_eq_false_iff]

theorem State.phaseDenied_false {s : State} {n : Nat} (h : s.me.priv ∨ (s.phase n).own.toNat = s.me.ctxid.toNat % 4096) :
    s.phaseDenied n = false := by
  rw [← Bool.not_eq_true, State.phaseDenied_iff]
  exact fun ⟨hpriv, hown⟩ => h.elim hpriv hown

/-- An operation of a rank below that of one of its cycle is late (R157, log 119). -/
theorem Phase.late_iff (p : Phase) (k : Nat) (now : W64) : p.late k now = true ↔ k < p.last.1 ∧ p.last.2 = now := by
  rw [Phase.late, Bool.and_eq_true, decide_eq_true_eq, beq_iff_eq]

/-! ### The forms (R155) -/

/-- A word that wrote one phase moved the pc and changed nothing else. -/
theorem State.setPhase_skip (s : State) (n : Nat) (q : Phase) :
    let t := (s.setPhase n q).skip 4
    t.phase n = q ∧ (∀ j, j ≠ n → t.phase j = s.phase j) ∧ t.me = { s.me with pc := s.me.pc + 4 }
      ∧ (∀ j, j ≠ s.cur → t.core j = s.core j) ∧ t = { s with cores := t.cores, phases := t.phases } :=
  ⟨s.phase_setPhase_same n q, fun _ hj => s.phase_setPhase_ne q hj, State.me_setMe _ _, fun _ hj => State.core_setMe_ne _ _ hj, rfl⟩

/-- The phase that `phset` sets: the scope of its selector, and the context of its core as the owner. -/
theorem State.phaseSet_eq (s : State) (v : Nat) (val : W64) : s.phaseSet v val =
    s.setPhase (v % 4096) ⟨val.setWidth 32, false, BitVec.ofNat 3 (v / 2 ^ 12), BitVec.ofNat 12 s.me.ctxid.toNat, 0, s.gcyc⟩ := by
  have hscope : BitVec.ofNat 3 (fld v 12 3) = BitVec.ofNat 3 (v / 2 ^ 12) := BitVec.eq_of_toNat_eq (Nat.mod_mod _ _)
  have hown : BitVec.ofNat 12 s.me.ctx = BitVec.ofNat 12 s.me.ctxid.toNat := by
    rw [Core.ctx_eq]
    exact BitVec.eq_of_toNat_eq (Nat.mod_mod _ _)
  rw [State.phaseSet, hscope, hown]

section
variable {s : State} {rd : DReg} {ra rb : SReg}

theorem execPhset_illegal (h : ¬ phsetSelOk (s.readS ra).toNat = true) : execPhset ra rb s = .next s.illegal := if_pos (by simpa using h)

theorem execPhadd_illegal (h : 4096 ≤ (s.readS ra).toNat) : execPhadd ra rb s = .next s.illegal := if_pos (by rw [phaseSelOk_of_ge h]; rfl)

theorem execPhrd_illegal (h : 4096 ≤ (s.readS ra).toNat) : execPhrd rd ra s = .next s.illegal := if_pos (by rw [phaseSelOk_of_ge h]; rfl)

theorem execPhset_denied (h : phsetSelOk (s.readS ra).toNat = true) (hd : s.phaseDenied ((s.readS ra).toNat % 4096) = true) :
    execPhset ra rb s = .next (s.trap causeAccess (BitVec.ofNat 64 ((s.readS ra).toNat % 4096))) := by
  rw [execPhset, h, hd]
  rfl

theorem execPhadd_denied (h : (s.readS ra).toNat < 4096) (hd : s.phaseDenied (s.readS ra).toNat = true) :
    execPhadd ra rb s = .next (s.trap causeAccess (BitVec.ofNat 64 (s.readS ra).toNat)) := by
  rw [execPhadd, phaseSelOk_of_lt h, hd]
  rfl

theorem execPhrd_denied (h : (s.readS ra).toNat < 4096) (hd : s.phaseDenied (s.readS ra).toNat = true) :
    execPhrd rd ra s = .next (s.trap causeAccess (BitVec.ofNat 64 (s.readS ra).toNat)) := by
  rw [execPhrd, phaseSelOk_of_lt h, hd]
  rfl

theorem execPhrd_reads (h : (s.readS ra).toNat < 4096) (hd : s.phaseDenied (s.readS ra).toNat = false) :
    execPhrd rd ra s = .next (s.finish rd (s.phase (s.readS ra).toNat).word 4) := by
  rw [execPhrd, phaseSelOk_of_lt h, hd]
  rfl

/-- `phset` of OP 1 binds its token, or unbinds it. -/
theorem execPhset_binds (h : phsetSelOk (s.readS ra).toNat = true) (hd : s.phaseDenied ((s.readS ra).toNat % 4096) = false)
    (hop : bitOf (s.readS ra).toNat 15 = true) :
    execPhset ra rb s = .next (s.setMe ((s.me.bindTok (s.readS ra).toNat).advance 4)) := by
  rw [execPhset, h, hd, hop]
  rfl

/-- `phset` of OP 0 waits where it is late, and else sets its phase. -/
theorem execPhset_sets (h : phsetSelOk (s.readS ra).toNat = true) (hd : s.phaseDenied ((s.readS ra).toNat % 4096) = false)
    (hop : bitOf (s.readS ra).toNat 15 = false) :
    execPhset ra rb s = if (s.phase ((s.readS ra).toNat % 4096)).late 0 s.gcyc then .next s
      else .next ((s.phaseSet (s.readS ra).toNat (s.readS rb)).skip 4) := by
  rw [execPhset, h, hd, hop]
  rfl

/-- A phase to which `x` is added at GCYC `now`: the count clamps to 32 bits, and PHOVF notes it. -/
def Phase.added (p : Phase) (now : W64) (x : Int) : Phase :=
  let p := { p with last := (1, now) }
  let sum : Int := p.cnt.toNat + x
  if sum < 0 then { p with cnt := 0, ovf := true }
  else if 4294967295 < sum then { p with cnt := 0xFFFFFFFF, ovf := true }
  else { p with cnt := BitVec.ofInt 32 sum }

/-- `phadd` waits where it is late, and else adds. -/
theorem execPhadd_adds (h : (s.readS ra).toNat < 4096) (hd : s.phaseDenied (s.readS ra).toNat = false) :
    execPhadd ra rb s = if (s.phase (s.readS ra).toNat).late 1 s.gcyc then .next s
      else .next ((s.setPhase (s.readS ra).toNat ((s.phase (s.readS ra).toNat).added s.gcyc (s.readS rb).toInt)).skip 4) := by
  rw [execPhadd, phaseSelOk_of_lt h, hd]
  rfl

end

section
variable {p : Phase} {now : W64} {x : Int}

theorem Phase.added_below (h : (p.cnt.toNat : Int) + x < 0) : p.added now x = { p with last := (1, now), cnt := 0, ovf := true } := if_pos h

theorem Phase.added_above (h : 2 ^ 32 ≤ (p.cnt.toNat : Int) + x) :
    p.added now x = { p with last := (1, now), cnt := 0xFFFFFFFF, ovf := true } := by
  unfold Phase.added
  dsimp only
  rw [if_neg (by omega), if_pos (by omega)]

theorem Phase.added_within (h0 : 0 ≤ (p.cnt.toNat : Int) + x) (h : (p.cnt.toNat : Int) + x < 2 ^ 32) :
    p.added now x = { p with last := (1, now), cnt := BitVec.ofInt 32 (p.cnt.toNat + x) } := by
  unfold Phase.added
  dsimp only
  rw [if_neg (by omega), if_neg (by omega)]

end

/-- The fields of the word that `phrd` returns. -/
theorem Phase.word_eq (p : Phase) :
    p.word = BitVec.ofNat 64 (p.cnt.toNat + 2 ^ 32 * p.ovf.toNat + 2 ^ 33 * p.scope.toNat + 2 ^ 36 * p.own.toNat) := by
  simp only [Phase.word, Nat.mul_comm]

/-! ### The claims -/

/-- R154, R155, R157: what the phase forms do for an owner or in privileged mode. -/
theorem phaseForms : Claims.PhaseForms := by
  intro s rd ra rb sel n p sum phaseIs howner missed q
  have hdenied : s.phaseDenied n = false := State.phaseDenied_false howner
  have hlate (k : Nat) : p.late k s.gcyc = true ↔ missed k := p.late_iff k s.gcyc
  refine ⟨fun h15 h2 h5 => ?set, fun h8 h20 => ?bind, fun h12 => ?_⟩
  case set =>
    have hop : bitOf sel.toNat 15 = false := Bool.eq_false_iff.mpr fun e => by rw [bitOf_eq_true_iff] at e; omega
    have hexec := execPhset_sets (rb := rb) ((phsetSelOk_iff _).mpr (.inl ⟨h15, h2, h5⟩)) hdenied hop
    refine ⟨fun hm => hexec.trans (if_pos ((hlate 0).mpr hm)), fun hm => ⟨_, hexec.trans (if_neg (mt (hlate 0).mp hm)), ?_⟩⟩
    rw [State.phaseSet_eq]
    exact s.setPhase_skip n _
  case bind =>
    have hop : bitOf sel.toNat 15 = true := by rw [bitOf_eq_true_iff]; omega
    refine ⟨_, execPhset_binds ((phsetSelOk_iff _).mpr (.inr ⟨h8, h20⟩)) hdenied hop, fun k => ?_, ?_, fun j hj => State.core_setMe_ne s _ hj,
      State.setMe_rest s _⟩
    · rw [State.me_setMe]
      refine (SMap.get_set 0 _ _ k _).trans ?_
      rw [bitOf_testBit]
      rfl
    · rw [State.me_setMe]
      rfl
  have hn : n = sel.toNat := Nat.mod_eq_of_lt h12
  rw [hn] at hdenied
  have hexec := execPhadd_adds (rb := rb) h12 hdenied
  rw [← hn] at hexec
  have hadds (hm : ¬ missed 1) {q : Phase} (hq : p.added s.gcyc (s.readS rb).toInt = q) : Completes (exec (.phadd ra rb) s) (phaseIs q) :=
    ⟨_, hexec.trans (if_neg (mt (hlate 1).mp hm)), hq ▸ s.setPhase_skip n _⟩
  refine ⟨fun hm => hexec.trans (if_pos ((hlate 1).mpr hm)), fun hm h0 h32 => hadds hm (Phase.added_within h0 h32),
    fun hm h0 => hadds hm (Phase.added_below h0), fun hm h32 => hadds hm (Phase.added_above h32), ?_⟩
  have hread := execPhrd_reads (rd := rd) h12 hdenied
  rw [← hn, Phase.word_eq] at hread
  exact ⟨_, hread, s.finish_wrote rd _ 4⟩

/-- R154: what refuses a phase form. -/
theorem phaseRefusals : Claims.PhaseRefusals := by
  intro s rd ra rb htrap sel ill denied other
  have hill {i : Instr} (h : exec i s = .next s.illegal) : ill i := ⟨_, h, State.illegal_took htrap⟩
  have hdenied {i : Instr} (h : exec i s = .next (s.trap causeAccess (BitVec.ofNat 64 (sel % 4096)))) : denied i :=
    ⟨_, h, State.trap_took _ (by decide) htrap⟩
  refine ⟨fun h20 => ?_, fun h15 hscope => ?_, fun h12 => ⟨?_, ?_⟩, fun hother h12 => ?_, fun hother hlo hhi => ?_⟩
  · exact hill (execPhset_illegal (by rw [phsetSelOk_iff]; omega))
  · exact hill (execPhset_illegal (by rw [phsetSelOk_iff]; omega))
  · exact hill (execPhadd_illegal h12)
  · exact hill (execPhrd_illegal h12)
  · have hn : sel % 4096 = sel := Nat.mod_eq_of_lt h12
    have hd := (s.phaseDenied_iff _).mpr hother
    rw [hn] at hdenied hd
    exact ⟨hdenied (execPhadd_denied h12 hd), hdenied (execPhrd_denied h12 hd)⟩
  · exact hdenied (execPhset_denied ((phsetSelOk_iff _).mpr (.inl (by omega))) ((s.phaseDenied_iff _).mpr hother))

/-- Settles O14: each form by its selector, its owner, and whether an operation of its cycle came before it. -/
theorem phases : Obligations.Phases := ⟨phaseForms, phaseRefusals⟩

end Sys2Proof.Machine
end

section
/-! SUPPORT. Snapshots: the request, the registers as they latch, and what is read of them (R159-R161). -/

namespace Sys2Proof.Machine

/-! ### Maps filled from a list -/

section
variable {α β : Type} [DecidableEq α] {d : α}

omit [DecidableEq α] in
/-- Steps that all leave one key alone leave it alone together. -/
theorem SMap.get_foldl_same {f : SMap α → β → SMap α} {xs : List β} {k : Nat} (m : SMap α)
    (h : ∀ m, ∀ x ∈ xs, SMap.get d (f m x) k = SMap.get d m k) : SMap.get d (xs.foldl f m) k = SMap.get d m k :=
  List.foldlRecOn xs f (motive := fun u => SMap.get d u k = SMap.get d m k) rfl fun u hu x hx => (h u x hx).trans hu

/-- A map of which every entry is written through `f`, onto one that holds the default's image at `k`. -/
theorem SMap.get_foldr_set (e : β) (f : Nat → β → α) (l : SMap β) (m : SMap α) {k : Nat} (hm : SMap.get d m k = f k e) :
    SMap.get d (l.foldr (fun p m => SMap.set d m p.1 (f p.1 p.2)) m) k = f k (SMap.get e l k) := by
  induction l with
  | nil => exact hm
  | cons p l ih =>
    obtain ⟨j, v⟩ := p
    rw [List.foldr_cons, SMap.get_set, ih, SMap.get]
    by_cases hk : k = j
    · rw [if_pos hk, if_pos hk, hk]
    · rw [if_neg hk, if_neg hk]

/-- A key that no entry has is not written. -/
theorem SMap.get_foldr_set_ne (f : Nat → β → α) (l : SMap β) (m : SMap α) {k : Nat} (hk : ∀ p ∈ l, k ≠ p.1) :
    SMap.get d (l.foldr (fun p m => SMap.set d m p.1 (f p.1 p.2)) m) k = SMap.get d m k := by
  induction l with
  | nil => rfl
  | cons p l ih =>
    rw [List.foldr_cons, SMap.get_set_ne d d _ _ (hk p (List.mem_cons_self ..)), ih fun q hq => hk q (List.mem_cons_of_mem _ hq)]

omit [DecidableEq α] in
/-- Entries picked by their keys. -/
theorem SMap.get_filter_key (q : Nat → Bool) (m : SMap α) {k : Nat} (hk : q k = true) :
    SMap.get d (m.filter fun p => q p.1) k = SMap.get d m k := by
  induction m with
  | nil => rfl
  | cons p m ih =>
    obtain ⟨j, v⟩ := p
    rw [List.filter_cons]
    by_cases hj : k = j
    · rw [if_pos (hj ▸ hk), SMap.get, SMap.get, if_pos hj, if_pos hj]
    · rw [SMap.get, if_neg hj]
      split
      · rw [SMap.get, if_neg hj, ih]
      · exact ih

omit [DecidableEq α] in
/-- A read as the search for its entry. -/
theorem SMap.get_eq_find? (m : SMap α) (k : Nat) : SMap.get d m k = ((m.find? fun p => p.1 == k).map (·.2)).getD d := by
  induction m with
  | nil => rfl
  | cons p m ih =>
    obtain ⟨j, v⟩ := p
    rw [SMap.get, List.find?_cons]
    by_cases hk : k = j
    · subst hk; simp
    · rw [if_neg hk, ih, beq_false_of_ne (Ne.symm hk)]

end

/-! ### The registers as they latch (R160, R161) -/

/-- The performance counters that the snapshot registers show. -/
def latchedPerf (k : Nat) : Bool := decide (0x100 ≤ k) && decide (k < 0x400)

/-- The snapshot registers below 0x400 as they latch: sequence number, cycle and performance counters. -/
def State.snapshotPerf (s : State) : SMap W64 :=
  (s.perf.filter fun p => latchedPerf p.1).foldr (fun p m => SMap.set 0 m p.1 (perfShown p.1 p.2))
    (SMap.set 0 (SMap.set 0 [] 0 ((s.snapseq + 1).setWidth 64)) 1 s.snapat)

/-- Those below 0x410, with the counts of soft errors. -/
def State.snapshotSerr (s : State) : SMap W64 :=
  (List.range 16).foldl (fun m k => SMap.set 0 m (0x400 + k) ((SMap.get 0 s.serrcnt k).setWidth 64)) s.snapshotPerf

/-- What latches from 0x410 on leaves the registers below alone. -/
theorem State.get_snapshot (s : State) {k : Nat} (hk : k < 0x410) : SMap.get 0 s.snapshot k = SMap.get 0 s.snapshotSerr k := by
  rw [State.snapshot]
  rw [SMap.get_foldl_same _ fun m p _ => SMap.get_set_ne 0 0 m _ (by omega), SMap.get_foldl_same _ fun m p _ => ?regions,
    SMap.get_foldl_same _ fun m i _ => SMap.get_set_ne 0 0 m _ (by omega)]
  · rfl
  case regions =>
    split
    · exact SMap.get_set_ne 0 0 m _ (by omega)
    · rfl

theorem State.get_snapshot_perf (s : State) {k : Nat} (hk : k < 0x400) : SMap.get 0 s.snapshot k = SMap.get 0 s.snapshotPerf k :=
  (s.get_snapshot (by omega)).trans (SMap.get_foldl_same _ fun m i _ => SMap.get_set_ne 0 0 m _ (by omega))

theorem latchedPerf_iff (k : Nat) : latchedPerf k = true ↔ 0x100 ≤ k ∧ k < 0x400 := by
  rw [latchedPerf, Bool.and_eq_true, decide_eq_true_eq, decide_eq_true_eq]

/-- The registers below the counters hold what names the latch. -/
theorem State.get_snapshot_base (s : State) {k : Nat} (hk : k < 0x100) : SMap.get 0 s.snapshot k =
    SMap.get 0 (SMap.set 0 (SMap.set 0 [] 0 ((s.snapseq + 1).setWidth 64)) 1 s.snapat) k := by
  refine (s.get_snapshot_perf (by omega)).trans (SMap.get_foldr_set_ne _ _ _ fun p hp => ?_)
  have := (latchedPerf_iff p.1).mp (List.mem_filter.mp hp).2
  omega

/-- A counter latches as a snapshot register shows it. -/
theorem State.get_snapshot_counter (s : State) {k : Nat} (hk : latchedPerf k = true) :
    SMap.get 0 s.snapshot k = perfShown k (SMap.get 0 s.perf k) := by
  obtain ⟨hlo, hhi⟩ := (latchedPerf_iff k).mp hk
  rw [s.get_snapshot_perf hhi, State.snapshotPerf, SMap.get_foldr_set 0, SMap.get_filter_key latchedPerf _ hk]
  rw [SMap.get_set_ne _ _ _ _ (by omega), SMap.get_set_ne _ _ _ _ (by omega)]
  simp [perfShown]

theorem State.get_snapshot_serr (s : State) {k : Nat} (hk : k < 16) :
    SMap.get 0 s.snapshot (0x400 + k) = (SMap.get 0 s.serrcnt k).setWidth 64 := by
  rw [s.get_snapshot (by omega)]
  have h := SMap.get_foldl_set_if 0 0x400 (fun _ => true) (fun i => (SMap.get 0 s.serrcnt i).setWidth 64) (List.range 16) s.snapshotPerf
    (0x400 + k)
  rw [Nat.add_sub_cancel_left, if_pos ⟨by omega, List.mem_range.mpr hk, rfl⟩] at h
  exact h

/-- Every counter but those of bytes shows its low 48 bits. -/
theorem perfShown_plain {k : Nat} (h : ¬ (0x200 ≤ k ∧ k < 0x280 ∧ (k % 16 = 1 ∨ k % 16 = 2))) (v : W64) :
    perfShown k v = BitVec.ofNat 64 (v.toNat % 2 ^ 48) := by
  rw [perfShown, if_neg h]

/-! ### The latch comes (R160) -/

theorem State.latchDue_iff (s : State) : s.latchDue = true ↔ s.snappend = true ∧ s.snapat.toNat ≤ s.gcyc.toNat := by
  rw [State.latchDue, Bool.and_eq_true, decide_eq_true_eq]

/-! ### What is read (R161) -/

/-- A phase that nothing has set reads as scope `.pkg`. -/
theorem Phase.word_reset : Phase.reset.word = 0x600000000 := by decide

/-- A read of a snapshot register, with the default of a phase's once a latch has come. -/
theorem State.snapRead_eq (s : State) (k : Nat) :
    s.snapRead k = SMap.get (if 0x2000 ≤ k ∧ k < 0x3000 ∧ s.snapreg ≠ [] then 0x600000000 else 0) s.snapreg k := by
  have hsome : (!s.snapreg.isEmpty) = true ↔ s.snapreg ≠ [] := by simp
  rw [State.snapRead]
  simp only [hsome]
  split
  · rw [SMap.get_eq_find?, ← Phase.word_reset]
    cases s.snapreg.find? fun p => p.1 == k <;> rfl
  · rfl

/-- Settles O15: the request, the latch by its registers, and the read by its default. -/
theorem snapshots : Obligations.Snapshots := by
  intro s rd ra
  refine ⟨fun hpend => if_pos hpend, fun hpend => ?snap, fun hpend hat => ?latch, fun h => if_neg (mt s.latchDue_iff.mp h), ?read⟩
  case snap =>
    exact ⟨_, if_neg (by rw [hpend]; decide), rfl, rfl, State.me_setMe _ _, fun j hj => State.core_setMe_ne _ _ hj, rfl⟩
  case latch =>
    refine ⟨_, if_pos (s.latchDue_iff.mpr ⟨hpend, hat⟩), s.latch, rfl, rfl, ?_, ?_, fun k hlo hhi hbytes => ?_, fun k hk => ?_, rfl, rfl⟩
    · exact (s.get_snapshot_base (by decide)).trans ((SMap.get_set_ne _ _ _ _ (by decide)).trans (SMap.get_set_same _ _ _ _))
    · exact (s.get_snapshot_base (by decide)).trans (SMap.get_set_same _ _ _ _)
    · exact (s.get_snapshot_counter ((latchedPerf_iff k).mpr ⟨hlo, hhi⟩)).trans (perfShown_plain hbytes _)
    · exact s.get_snapshot_serr hk
  case read =>
    intro k dflt
    exact s.snapRead_eq k ▸ completes_finish s rd _ 4

end Sys2Proof.Machine
end
